-- ==== Sys2Proof/Word.lean ====
section
/-! DEFINITION. The word types the manual's fields have (R8): bytes, and fields of 16, 32 and 64 bits. -/

namespace Sys2Proof

/-- A byte (R8). -/
abbrev Byte := BitVec 8
/-- A 16-bit field. -/
abbrev Half := BitVec 16
/-- A 32-bit field: an FP32 or INT32 lane, a parameter word. -/
abbrev Word := BitVec 32
/-- A 64-bit register. -/
abbrev Quad := BitVec 64

end Sys2Proof
end

