-- ==== Sys2Proof/Syntax.lean ====
section
/-! DEFINITION. The commands of the part: one constructor for each row of the table of operations and events.
A command that a core or a stack engine carries out names the unit; the unit's own queue holds the command block (R84).
Times, host data and the outside world's choices are operands. -/

namespace Sys2Proof

/-- Who carries out an STK row: the DMA queue of `core` forwards it (R88), or the engine of `stack` runs the active
command of operand area `area` (R168). -/
inductive StkSite where
  | forward (core : Nat)
  | run (stack area : Nat)
  deriving DecidableEq, Repr

/-- A requester of the dictionary: a source address and UDP port of the management segment, or a function's mailbox (R379). -/
inductive Requester where
  | port (addr udp : Nat)
  | mailbox (fn : Nat)
  deriving DecidableEq, Repr

/-- Where a datagram of the management segment is sent: to the part's own address, to all nodes ff02::1, or to another multicast group
(R373). -/
inductive Dest where
  | own
  | allNodes
  | multicast
  deriving DecidableEq, Repr

/-- Who sends a request, and the address a datagram of the port is sent to (R373). -/
structure Sender where
  who : Requester
  dest : Dest
  deriving DecidableEq, Repr

/-- A rail that leaves its range: its place in R436, 0 to 5, and whether it passes the absolute maximum (R441). -/
structure RailLoss where
  rail : Nat
  beyondMax : Bool
  deriving DecidableEq, Repr

inductive Instr where
  -- start, pins, supplies
  | coldStart
  | pllLock
  | pllLockTimeout
  | firmwareBoot
  | configImageApply
  | tetherTraining (downStacks : Nat) (failedLanes : List (Nat × Nat))
  | sparTraining (failedLinks : Nat)
  | dictionaryLive
  | railFault (loss : RailLoss)
  | resetAssert
  | perstAssert
  | perstRelease
  | pllLoss (domain : Nat)
  | orderlyShutdown
  | shutdownDone
  -- governor and time
  | housekeepingRound (temps : List Int) (rails : List (Nat × Nat))
  | classAWindow (cdie amps : Nat)
  | droguePause (stack : Nat)
  | periodic
  | storedEntryCommit
  -- fabric
  | portTrainRetry (port : Nat)
  | trainingTimeout (port : Nat)
  | hello (port node peerPort role : Nat)
  | flitReceive (port : Nat) (fecOk : Bool) (flit : BitVec 2048)
  | replayTimeout (port : Nat)
  | linkLoss (port : Nat)
  | responseTimeout (part tag : Nat)
  | read (port : Nat)
  | write (port : Nat)
  | readRsp (port : Nat)
  | writeAck (port : Nat)
  | ropeEnded (port : Nat)
  | ropeAbort (port : Nat)
  | ropeRoundStart (part : Nat)
  -- host port
  | cxlLinkUp (width : Nat)
  | cxlRetrain
  | cxlLinkDown
  | flr (fn : Nat)
  | d3hotEntry (fn : Nat)
  | d0Return (fn : Nat)
  | bmeClear (fn : Nat)
  | vfEnableClear (fn : Nat)
  | hotReset
  | configRequest (fn reg : Nat)
  | hdmCommit (base size iw : Nat)
  | cxlMemRead (hpa : Nat) (tracked : Bool)
  | cxlMemWrite (hpa : Nat) (data : BitVec 512)
  | bisnpResponse (line : Nat) (modified : Option (BitVec 512))
  | h2dSnoop (hpa : Nat)
  | hostBarRead (fn bar offset len : Nat)
  | hostBarWrite (fn bar offset : Nat) (data : List Byte)
  -- registers with behaviour of their own
  | kgo (fn ctx : Nat)
  | csgo (fn ctx : Nat) (value : Quad)
  | csgoDone (part ctx : Nat)
  | preempt (fn ctx : Nat)
  | resume (fn ctx : Nat)
  | contextEn (fn ctx : Nat) (value : Quad)
  | belayWrite (fn belay : Nat) (value : Quad)
  | force (fn belay : Nat) (value : Quad)
  | cslogClear (fn core : Nat)
  | rqtail (fn value : Nat)
  | cqhead (fn value : Nat)
  | ringCfg (fn : Nat) (completion : Bool) (value : Quad)
  | vfmap (pf vf : Nat) (value : BitVec 128)
  | kvframes (part : Nat) (value : Quad)
  | kvgrans (part : Nat) (value : Quad)
  | srvctlEn (fn : Nat) (value : Quad)
  | registerWrite (fn offset : Nat) (value : Quad)
  -- core commands
  | kernelDispatch (part : Nat)
  | commandRoute (core : Nat)
  | unlistedOpcode (core queue : Nat)
  | nop (core queue : Nat)
  | brk (core queue : Nat)
  | kend (core queue : Nat)
  | seqStride (core : Nat)
  | seqIndex (core : Nat)
  | seqPage (core : Nat)
  | dmaCopy (core : Nat)
  | dmaFill (core : Nat)
  | mxLoadw (core : Nat)
  | mxMac (core : Nat)
  | mxDrain (core cycle : Nat)
  | mxZero (core : Nat)
  | vLoad (core : Nat)
  | vStore (core : Nat)
  | vEwise (core : Nat)
  | vReduce (core : Nat)
  | vSoftmax (core : Nat)
  | vRotary (core : Nat)
  | vConvert (core : Nat)
  | vGather (core : Nat)
  | vScatter (core : Nat)
  | vSample (core : Nat)
  | vSpool (core : Nat)
  | spoolReadAt (core epoch : Nat)
  -- stack commands
  | sAttend (site : StkSite)
  | sMatvec (site : StkSite)
  | sGather (site : StkSite)
  | sScatter (site : StkSite)
  | sEwise (site : StkSite)
  | sFill (site : StkSite)
  | sDrain (core : Nat)
  | sKvenc (site : StkSite)
  | sKvexp (site : StkSite)
  | stkActivate (stack : Nat)
  | sliceEnd (stack : Nat)
  | pageWalk (stack slot layer page : Nat)
  | granuleDecode (stack : Nat)
  | stkComplete (stack area : Nat)
  | stkFaultReport (stack area : Nat)
  -- belays and the spool
  | belayArrive (core queue : Nat)
  | belayWait (core queue : Nat)
  | belayArrival (core queue belay : Nat)
  | belayRelease (part core : Nat)
  | spoolFlush (core : Nat)
  -- kernel end, save, restore
  | kernelEnd (part ctx cycles periods : Nat)
  | saveComplete (part ctx cycles : Nat)
  | restoreComplete (part ctx cycles : Nat)
  -- serving
  | stepKernelIssue (part : Nat)
  | stepBoundary (part cyclesD : Nat)
  | openReq (fn : Nat) (entry : BitVec 1024)
  | cancel (fn : Nat) (entry : BitVec 1024)
  | park (fn : Nat) (entry : BitVec 1024)
  | bivouacParkDone (part slot : Nat)
  | bivouacReturnDone (part slot : Nat) (ok : Bool) (data : List Byte)
  | budgetEpoch (part periods : Nat)
  -- memory stacks
  | tetherRetry (stack pc : Nat) (ok : Bool)
  | dramCmdTimeout (stack channel : Nat)
  | refreshWindow (stack pc : Nat)
  | laneRecalibration (stack pc : Nat) (ok : Bool)
  | wcAgeFlush (stack line : Nat)
  -- dictionary
  | dictRead (sender : Sender) (msg : List Byte)
  | dictWrite (sender : Sender) (msg : List Byte)
  | identify (sender : Sender) (msg : List Byte)
  | neighbourDiscovery (target : Nat)
  | storedMode (who : Requester) (msg : List Byte)
  | nodeNumber (who : Requester) (msg : List Byte)
  | role (who : Requester) (msg : List Byte)
  | breakSlot (who : Requester) (msg : List Byte)
  | accept0 (who : Requester) (msg : List Byte)
  | interleave (who : Requester) (msg : List Byte)
  | cap (who : Requester) (msg : List Byte)
  | suspectClear (who : Requester) (msg : List Byte)
  | ceLogClear (who : Requester) (msg : List Byte)
  | remap (who : Requester) (msg : List Byte)
  | mapout (who : Requester) (msg : List Byte)
  | portCtl (who : Requester) (msg : List Byte)
  | routes (who : Requester) (msg : List Byte)
  | fwChunk (who : Requester) (msg : List Byte)
  | fwCommit (who : Requester) (msg : List Byte)
  | svnFloor (who : Requester) (msg : List Byte)
  | nextGrade (who : Requester) (msg : List Byte)
  | clear (who : Requester) (msg : List Byte)
  | budgetCtl (who : Requester) (msg : List Byte)
  | sanitise (who : Requester) (msg : List Byte)
  | sanitiseDone (part : Nat)
  -- self-test and calibration
  | scratch (who : Requester) (msg : List Byte)
  | matrix (who : Requester) (msg : List Byte)
  | vector (who : Requester) (msg : List Byte)
  | stackEngine (who : Requester) (msg : List Byte)
  | codec (who : Requester) (msg : List Byte)
  | dramScrub (who : Requester) (msg : List Byte)
  | dramMarch (who : Requester) (msg : List Byte)
  | testSpar (who : Requester) (msg : List Byte)
  | testFabricPort (who : Requester) (msg : List Byte)
  | tether (who : Requester) (msg : List Byte)
  | calSpar (who : Requester) (msg : List Byte)
  | sensor (who : Requester) (msg : List Byte)
  | calFabricPort (who : Requester) (msg : List Byte)
  | testCancel (who : Requester) (msg : List Byte)
  | drainedRequestStart (part : Nat) (calibration : Bool)
  | testPieceDone (part : Nat) (calibration : Bool) (last : Bool) (fails : List (Nat × Nat × Nat))
  -- attestation
  | getVersion (who : Requester) (msg : List Byte)
  | getCapabilities (who : Requester) (msg : List Byte)
  | negotiateAlgorithms (who : Requester) (msg : List Byte)
  | getDigests (who : Requester) (msg : List Byte)
  | getCertificate (who : Requester) (msg : List Byte)
  | challenge (who : Requester) (msg : List Byte)
  | getMeasurements (who : Requester) (msg : List Byte)
  | keyExchange (who : Requester) (msg : List Byte)
  | finish (who : Requester) (msg : List Byte)
  | endSession (who : Requester) (msg : List Byte)
  | heartbeat (who : Requester) (msg : List Byte)
  -- boundary scan
  | bypass (die : Nat)
  | idcode (die : Nat)
  | samplePreload (die : Nat) (cells : List Byte)
  | extest (die : Nat)
  | extestPulse (die : Nat)
  | extestTrain (die : Nat)
  | startstat (die : Nat)
  | fwload (image : List Byte)
  -- the rest
  | railReturn
  | functionEnable (fn : Nat)
  | hostLinkRecovery (kind : Nat)
  | cxlIdeKm (msg : List Byte) (cacheMem io : Bool)
  | doeDiscovery (fn index : Nat)
  | primaryMailboxIdentify
  | getSupportedLogs
  | getLog (offset len : Nat)
  | refreshWindowEnd (stack pc : Nat)
  | flitSend (port : Nat)
  deriving DecidableEq, Repr

end Sys2Proof
end

