-- ==== Sys2Proof/Config.lean ====
section
/-! DEFINITION. What one part fixes, and the free values: constants without a body, so that no proof can see a value
the manual does not give. Each is named in a row of the assumption log. -/

namespace Sys2Proof.Config

/-- A byte that the manual calls undefined: `n` is the state's counter of free values, `i` the place (log 4). -/
opaque freeByte : Nat → Nat → Byte

/-- A 32-bit lane that the manual calls undefined (R135, R388; log 3, log 4). -/
opaque freeWord : Nat → Nat → Word

/-- A code length in a table slot that no build has written since the start: undefined (R277), by stack and slot, and by code
and symbol (log 4). -/
opaque unbuiltLength : Nat → Nat → Nat

/-- A choice that the manual leaves open: which duplicate wins (R150), whether a read of a never-written line passes its
check (R326), whether three bad symbols are seen (R329) (log 4, log 5). -/
opaque freeChoice : Nat → Nat → Nat

/-- The part's own value of an elementary function inside its error bound (R48, R141): `op` is the FN code (log 7). -/
opaque elementary : Nat → Word → Word

/-- The part's own value of a function of two inputs inside its error bound, GATE (R141) (log 7). -/
opaque elementary2 : Nat → Word → Word → Word

/-- The code of element `i` of an MX block of a format whose scale is NaN, which the manual does not give; it depends on the
block's values alone (R39, R57; log 4). -/
opaque nanCode : Nat → List Word → Nat → Byte

/-- The part's own value of one output of V_ROTARY inside its error bound (R146) (log 7). -/
opaque rotary : Word → Word → Int → Word → Bool → Word

/-- The order in which a stack command adds `n` terms, fixed by the command (R57, R174); `tag` says which sum (log 23). -/
opaque sumOrder : Nat → Nat → List Nat

/-- The energy, in 1/40 pJ, that the part estimates for the work whose coefficients the manual does not give, and its share of
fixed power (R297; log 8). -/
opaque energy : Nat → Nat

/-- The cycles that an engine spent on a kernel's commands, or that a consumer waited, which no event carries (R104, R297; log 6). -/
opaque cycles : Nat → Nat → Nat

/-- Receive-buffer slots per class and lane of a port, whose credits its peer gets when the link comes up (R304; log 10). -/
opaque slotBuffers : Nat → Nat

/-- The signature that the identity key makes over a message (R420, R431); the private key is sealed (log 9). -/
opaque identitySignature : List Byte → List Byte

/-- The body of the SPDM response to a request in the DMTF form that the manual only names (R421; log 9). -/
opaque spdmBody : Nat → List Byte → List Byte

/-- The base image as it stands in flash once the stored entries are in it: mode, node, role, grade, and each stack's
map-outs (R33, R34; log 10). -/
opaque baseImage : List Byte → List Nat → List Byte

/-- What kind of raw bit stream the third measurement is in the DMTF form (R422; log 9). -/
opaque rawMeasurement : Nat

/-- The capability flags of the responder that the manual does not settle (R421; log 9). -/
opaque spdmFlags : Nat

/-- The answer of a standard CXL or PCIe structure that the manual names and does not lay out (R342, R345; log 11). -/
opaque standardAnswer : Nat → List Byte → List Byte

/-- Where a capability stands in the configuration space of a function (R345; log 11). -/
opaque capOffset : Nat → Nat

/-- Where the Device Serial Number capability lies, from the start of extended configuration space at 0x100 (R346; log 11). -/
opaque dsnOffset : Nat

/-- Where BAR0 of function 0 holds the CXL component and device registers (R345; log 11). -/
opaque componentBlock : Nat

/-- The value of a boundary cell that SAMPLE/PRELOAD captures (R440; log 15). -/
opaque boundarySample : Nat → Nat → List Byte

end Sys2Proof.Config
end

