-- ==== Sys2Proof/Machine/Bits.lean ====
section
/-! DEFINITION. Fields of words (R8), little-endian bytes, sign extension, and tables keyed by number. -/

namespace Sys2Proof.Machine

/-- Field [hi:lo] of a value, both ends included (R8). -/
def fld (w hi lo : Nat) : Nat := (w >>> lo) % 2 ^ (hi + 1 - lo)

/-- Bit `i` of a value. -/
def bit (w i : Nat) : Bool := w.testBit i

/-- A value with field [hi:lo] replaced. -/
def setFld (w hi lo v : Nat) : Nat :=
  w - (fld w hi lo) * 2 ^ lo + (v % 2 ^ (hi + 1 - lo)) * 2 ^ lo

/-- A bit as a number. -/
def b2n (b : Bool) : Nat := if b then 1 else 0

/-- Two's complement reading of the low `n` bits. -/
def sext (n w : Nat) : Int :=
  let v := w % 2 ^ n
  if 2 * v < 2 ^ n then (v : Int) else (v : Int) - (2 ^ n : Nat)

/-- The low `n` bits of an integer in two's complement. -/
def wrapInt (n : Nat) (i : Int) : Nat := (i % ((2 ^ n : Nat) : Int)).toNat

/-- Little-endian value of bytes, byte 0 lowest (R8). -/
def leNat : List Byte → Nat
  | [] => 0
  | b :: bs => b.toNat + 256 * leNat bs

/-- `n` little-endian bytes of a value (R8). -/
def leBytes : Nat → Nat → List Byte
  | 0, _ => []
  | n + 1, v => BitVec.ofNat 8 v :: leBytes n (v / 256)

/-- Big-endian value of an octet string, as PKCS #1 reads it (R416). -/
def beNat (bs : List Byte) : Nat := bs.foldl (fun a b => 256 * a + b.toNat) 0

/-- `n` big-endian bytes of a value. -/
def beBytes (n v : Nat) : List Byte := (leBytes n v).reverse

/-- Round up to a multiple of `k`. -/
def alignUp (x k : Nat) : Nat := (x + k - 1) / k * k

/-- Ceiling division. -/
def ceilDiv (x k : Nat) : Nat := (x + k - 1) / k

/-- Saturating count of `n` bits. -/
def satAdd (n x k : Nat) : Nat := min (x + k) (2 ^ n - 1)

/-- A table keyed by number, keys rising; an unlisted key has the default its reader names. -/
abbrev Table (α : Type) := List (Nat × α)

/-- The entry of key `k`, or `d`. -/
def Table.get {α : Type} (d : α) : Table α → Nat → α
  | [], _ => d
  | (j, a) :: t, k => if j = k then a else Table.get d t k

/-- The table with key `k` set to `v`. -/
def Table.set {α : Type} : Table α → Nat → α → Table α
  | [], k, v => [(k, v)]
  | (j, a) :: t, k, v =>
    if j < k then (j, a) :: Table.set t k v
    else if j = k then (k, v) :: t
    else (k, v) :: (j, a) :: t

/-- The table without key `k`. -/
def Table.del {α : Type} (t : Table α) (k : Nat) : Table α := t.filter (fun p => p.1 != k)

/-- Whether key `k` is listed. -/
def Table.has {α : Type} (t : Table α) (k : Nat) : Bool := t.any (fun p => p.1 == k)

/-- Update of the entry of `k`. -/
def Table.upd {α : Type} (d : α) (t : Table α) (k : Nat) (f : α → α) : Table α := t.set k (f (t.get d k))

/-- A count by key, stepped; unlisted keys count 0. -/
def Table.bump (t : Table Int) (k : Nat) (d : Int) : Table Int := t.upd 0 k (fun n => n + d)

/-- Several entries set, in order. -/
def Table.setAll {α : Type} (t : Table α) (l : List (Nat × α)) : Table α :=
  l.foldl (fun t p => t.set p.1 p.2) t

/-- The numbers of the set bits below `n`, ascending. -/
def bitsBelow (n w : Nat) : List Nat := (List.range n).filter (fun i => w.testBit i)

/-- The first `some` of a list. -/
def firstSome {α β : Type} (f : α → Option β) : List α → Option β
  | [] => none
  | a :: l => match f a with
    | some b => some b
    | none => firstSome f l

/-- Floor of the base-2 logarithm of a positive number. -/
def flog2 (m : Nat) : Nat := Nat.log2 m

/-- Cut a list into pieces of `n`; `fuel` bounds the count. -/
def chunks {α : Type} (n : Nat) : Nat → List α → List (List α)
  | 0, _ => []
  | fuel + 1, l => if l.isEmpty then [] else l.take n :: chunks n fuel (l.drop n)

/-- `x` put before the first entry of a sorted list that it may stand before. -/
def insertBy {α : Type} (le : α → α → Bool) (x : α) : List α → List α
  | [] => [x]
  | y :: l => if le x y then x :: y :: l else y :: insertBy le x l

/-- A list in rising order; equal entries keep their order. -/
def sortBy {α : Type} (le : α → α → Bool) (l : List α) : List α := l.foldr (insertBy le) []

/-- A list padded with `d` to `n` entries, or cut to them. -/
def fit {α : Type} (d : α) (n : Nat) (l : List α) : List α := l.take n ++ List.replicate (n - l.length) d

end Sys2Proof.Machine
end

