-- ==== Sys2Proof/Machine/Numeric.lean ====
section
/-! DEFINITION. The numbers of chapter 02: formats, rounding, conversions, FP32 arithmetic and the functions of R48.
Values are exact dyadics until they are rounded once into a format. -/

namespace Sys2Proof.Machine

/-- A value of a format: not a number, an infinity, or (-1)^neg * m * 2^e exactly. -/
inductive Fp where
  | nan (signalling : Bool)
  | inf (neg : Bool)
  | fin (neg : Bool) (m : Nat) (e : Int)
  deriving DecidableEq, Repr

/-- What a floating format does with its top codes (R37). -/
inductive Specials where
  | ieee    -- infinities and NaNs at the top exponent
  | nanOnly -- E4M3: only the all-ones code is NaN
  | none    -- FP6 and FP4: every code is finite
  deriving DecidableEq, Repr

/-- A floating format: exponent bits, fraction bits, bias, special codes, the NaN produced (R36, R37). -/
structure FloatFmt where
  eb : Nat
  mb : Nat
  bias : Int
  sp : Specials
  qnan : Nat
  deriving DecidableEq, Repr

def fmtFP32 : FloatFmt := ⟨8, 23, 127, .ieee, 0x7FC00000⟩
def fmtBF16 : FloatFmt := ⟨8, 7, 127, .ieee, 0x7FC0⟩
def fmtFP16 : FloatFmt := ⟨5, 10, 15, .ieee, 0x7E00⟩
def fmtE4M3 : FloatFmt := ⟨4, 3, 7, .nanOnly, 0x7F⟩
def fmtE5M2 : FloatFmt := ⟨5, 2, 15, .ieee, 0x7E⟩
def fmtE2M3 : FloatFmt := ⟨2, 3, 1, .none, 0⟩
def fmtE3M2 : FloatFmt := ⟨3, 2, 3, .none, 0⟩
def fmtE2M1 : FloatFmt := ⟨2, 1, 1, .none, 0⟩

/-- The largest finite code of a format, sign clear. -/
def FloatFmt.maxFinite (f : FloatFmt) : Nat :=
  match f.sp with
  | .ieee => (2 ^ f.eb - 1) * 2 ^ f.mb - 1
  | .nanOnly => 2 ^ (f.eb + f.mb) - 2
  | .none => 2 ^ (f.eb + f.mb) - 1

/-- The infinity code of a format that has one, sign clear. -/
def FloatFmt.infCode (f : FloatFmt) : Nat := (2 ^ f.eb - 1) * 2 ^ f.mb

/-- The sign bit of a format. -/
def FloatFmt.signBit (f : FloatFmt) : Nat := 2 ^ (f.eb + f.mb)

/-- The value of a code (R36 to R38). -/
def FloatFmt.decode (f : FloatFmt) (w : Nat) : Fp :=
  let neg := w.testBit (f.eb + f.mb)
  let mag := w % f.signBit
  let frac := mag % 2 ^ f.mb
  let ex := mag / 2 ^ f.mb
  if f.sp = .ieee ∧ ex = 2 ^ f.eb - 1 then
    if frac = 0 then .inf neg else .nan (!(frac.testBit (f.mb - 1)))
  else if f.sp = .nanOnly ∧ mag = f.signBit - 1 then .nan false
  else if ex = 0 then .fin neg frac (1 - f.bias - f.mb)
  else .fin neg (frac + 2 ^ f.mb) (ex - f.bias - f.mb)

/-- The lane flags of R54, at their places in KERNEL_FLAGS (R55). -/
abbrev LaneFlags := BitVec 6

def flagNV : LaneFlags := 1
def flagDZ : LaneFlags := 2
def flagOF : LaneFlags := 4
def flagUF : LaneFlags := 8
def flagNX : LaneFlags := 16
def flagIDX : LaneFlags := 32

/-- The flags of a condition. -/
def flagIf (c : Bool) (f : LaneFlags) : LaneFlags := if c then f else 0

/-- Rounding of a magnitude (R42, R43): nearest even, or stochastic with the 16-bit draw `r`. -/
inductive Rounding where
  | nearest
  | stochastic (r : Nat)
  deriving DecidableEq, Repr

/-- Whether `n + rem/2^d` rounds up to `n + 1` (R42, R43). -/
def Rounding.up (rd : Rounding) (n rem d : Nat) : Bool :=
  match rd with
  | .nearest => decide (2 ^ d < 2 * rem) || (decide (2 ^ d = 2 * rem) && n % 2 == 1)
  | .stochastic r => decide (2 ^ 16 ≤ rem * 2 ^ 16 / 2 ^ d + r)

/-- `m * 2^e` in units of `2^q`, rounded; the Bool says whether it is inexact. -/
def roundUnits (rd : Rounding) (m : Nat) (e q : Int) : Nat × Bool :=
  if q ≤ e then (m * 2 ^ (e - q).toNat, false)
  else
    let d := (q - e).toNat
    let n := m / 2 ^ d
    let rem := m % 2 ^ d
    (if rd.up n rem d then n + 1 else n, rem != 0)

/-- The exponent of the unit in the last place that a non-zero `m * 2^e` takes in a format. -/
def FloatFmt.ulpExp (f : FloatFmt) (m : Nat) (e : Int) : Int :=
  max (e + flog2 m) (1 - f.bias) - f.mb

/-- A rounded code and its flags. -/
structure Rounded where
  code : Nat
  flags : LaneFlags
  deriving DecidableEq, Repr

/-- Rounding of an exact value into a format (R42 to R44). `sat` is the SAT option. An inexact result that rounds to zero
records underflow (R54; log 22). -/
def FloatFmt.round (f : FloatFmt) (rd : Rounding) (sat : Bool) (x : Fp) : Rounded :=
  match x with
  | .nan sg => ⟨f.qnan, flagIf (sg || f.sp == .none) flagNV⟩
  | .inf neg =>
    let s := b2n neg * f.signBit
    match f.sp with
    | .ieee => ⟨s + f.infCode, 0⟩
    | .nanOnly => ⟨f.qnan, flagNV⟩
    | .none => ⟨s + f.maxFinite, flagNV ||| flagOF⟩
  | .fin neg m e =>
    let s := b2n neg * f.signBit
    if m = 0 then ⟨s, 0⟩
    else
      let q := f.ulpExp m e
      let (n, nx) := roundUnits rd m e q
      let c := (q + f.bias + f.mb - 1).toNat * 2 ^ f.mb + n
      if f.maxFinite < c then
        let top := if f.sp = .ieee ∧ !sat then f.infCode else f.maxFinite
        ⟨s + top, flagOF ||| flagNX⟩
      else ⟨s + c, flagIf nx flagNX ||| flagIf (nx && decide (n < 2 ^ f.mb)) flagUF⟩

/-- Rounding to FP32 under R42. -/
def toF32 (x : Fp) : Rounded := fmtFP32.round .nearest false x

/-- The value of FP32 bits. -/
def ofF32 (w : Word) : Fp := fmtFP32.decode w.toNat

/-- FP32 bits and flags of an exact value. -/
def f32 (x : Fp) : Word × LaneFlags :=
  let r := toF32 x
  (BitVec.ofNat 32 r.code, r.flags)

/-- A subnormal FP32 becomes zero of the same sign (R45). -/
def flush (w : Word) : Word :=
  if fld w.toNat 30 23 = 0 then BitVec.ofNat 32 (w.toNat / 2 ^ 31 * 2 ^ 31) else w

/-- Exact signed mantissa of two finite values on one exponent. -/
def alignPair (n1 : Bool) (m1 : Nat) (e1 : Int) (n2 : Bool) (m2 : Nat) (e2 : Int) : Int × Int × Int :=
  let e := min e1 e2
  let a : Int := (m1 * 2 ^ (e1 - e).toNat : Nat)
  let b : Int := (m2 * 2 ^ (e2 - e).toNat : Nat)
  (if n1 then -a else a, if n2 then -b else b, e)

/-- Exact sum; invalid for infinities of opposite sign (R54). -/
def Fp.add (x y : Fp) : Fp × LaneFlags :=
  match x, y with
  | .nan a, .nan b => (.nan false, flagIf (a || b) flagNV)
  | .nan a, _ => (.nan false, flagIf a flagNV)
  | _, .nan b => (.nan false, flagIf b flagNV)
  | .inf a, .inf b => if a = b then (.inf a, 0) else (.nan false, flagNV)
  | .inf a, _ => (.inf a, 0)
  | _, .inf b => (.inf b, 0)
  | .fin n1 m1 e1, .fin n2 m2 e2 =>
    let (a, b, e) := alignPair n1 m1 e1 n2 m2 e2
    let s := a + b
    if s = 0 then (.fin (n1 && n2) 0 e, 0) else (.fin (decide (s < 0)) s.natAbs e, 0)

/-- Negation. -/
def Fp.neg : Fp → Fp
  | .nan s => .nan s
  | .inf n => .inf (!n)
  | .fin n m e => .fin (!n) m e

/-- Exact product; invalid for zero times infinity (R54). -/
def Fp.mul (x y : Fp) : Fp × LaneFlags :=
  match x, y with
  | .nan a, .nan b => (.nan false, flagIf (a || b) flagNV)
  | .nan a, _ => (.nan false, flagIf a flagNV)
  | _, .nan b => (.nan false, flagIf b flagNV)
  | .inf a, .inf b => (.inf (a != b), 0)
  | .inf a, .fin n m _ => if m = 0 then (.nan false, flagNV) else (.inf (a != n), 0)
  | .fin n m _, .inf b => if m = 0 then (.nan false, flagNV) else (.inf (b != n), 0)
  | .fin n1 m1 e1, .fin n2 m2 e2 => (.fin (n1 != n2) (m1 * m2) (e1 + e2), 0)

/-- A quotient of magnitudes with 80 bits and a sticky bit, so that one rounding to FP32 is right. -/
def quotSticky (m1 : Nat) (e1 : Int) (m2 : Nat) (e2 : Int) : Nat × Int :=
  let k := 80 + flog2 m2
  let q := m1 * 2 ^ k / m2
  let s := if m1 * 2 ^ k % m2 = 0 then 0 else 1
  (2 * q + s, e1 - e2 - k - 1)

/-- Quotient for one rounding; divide-by-zero and invalid of R54. -/
def Fp.div (x y : Fp) : Fp × LaneFlags :=
  match x, y with
  | .nan a, .nan b => (.nan false, flagIf (a || b) flagNV)
  | .nan a, _ => (.nan false, flagIf a flagNV)
  | _, .nan b => (.nan false, flagIf b flagNV)
  | .inf _, .inf _ => (.nan false, flagNV)
  | .inf a, .fin n _ _ => (.inf (a != n), 0)
  | .fin n _ e, .inf b => (.fin (n != b) 0 e, 0)
  | .fin n1 m1 e1, .fin n2 m2 e2 =>
    if m2 = 0 then
      if m1 = 0 then (.nan false, flagNV) else (.inf (n1 != n2), flagDZ)
    else
      let (m, e) := quotSticky m1 e1 m2 e2
      (.fin (n1 != n2) m e, 0)

/-- Square root for one rounding (80 bits and a sticky bit). -/
def Fp.sqrt (x : Fp) : Fp × LaneFlags :=
  match x with
  | .nan a => (.nan false, flagIf a flagNV)
  | .inf true => (.nan false, flagNV)
  | .inf false => (.inf false, 0)
  | .fin n m e =>
    if m = 0 then (.fin n 0 e, 0)
    else if n then (.nan false, flagNV)
    else
      let odd := e % 2 ≠ 0
      let m' := if odd then 2 * m else m
      let e' := if odd then e - 1 else e
      let big := m' * 2 ^ 160
      let r := Nat.sqrt big
      let s := if r * r = big then 0 else 1
      (.fin false (2 * r + s) (e' / 2 - 81), 0)

/-- FP32 result of an exact operation, with all its flags. -/
def round32 (p : Fp × LaneFlags) : Word × LaneFlags :=
  let r := f32 p.1
  (r.1, r.2 ||| p.2)

def addF (a b : Word) : Word × LaneFlags := round32 ((ofF32 a).add (ofF32 b))
def subF (a b : Word) : Word × LaneFlags :=
  round32 ((ofF32 a).add (ofF32 b).neg)
def mulF (a b : Word) : Word × LaneFlags := round32 ((ofF32 a).mul (ofF32 b))
def divF (a b : Word) : Word × LaneFlags := round32 ((ofF32 a).div (ofF32 b))
def sqrtF (a : Word) : Word × LaneFlags := round32 (ofF32 a).sqrt
/-- One rounding of a * b + c (R141). -/
def fmaF (a b c : Word) : Word × LaneFlags :=
  let p := (ofF32 a).mul (ofF32 b)
  let s := p.1.add (ofF32 c)
  round32 (s.1, p.2 ||| s.2)

/-- Order key of a non-NaN FP32, with -0 below +0 (R141). -/
def orderKey (w : Word) : Int :=
  if w.toNat < 2 ^ 31 then (w.toNat : Int) else -((w.toNat - 2 ^ 31 : Nat) : Int) - 1

/-- Whether FP32 bits are a NaN. -/
def isNaN (w : Word) : Bool := match ofF32 w with | .nan _ => true | _ => false
/-- Whether FP32 bits are a signalling NaN. -/
def isSNaN (w : Word) : Bool := match ofF32 w with | .nan s => s | _ => false

/-- The quiet NaN the part produces (R37). -/
def qNaN : Word := 0x7FC00000
/-- Minus infinity, plus infinity, plus one. -/
def negInf : Word := 0xFF800000
def posInf : Word := 0x7F800000
def oneF : Word := 0x3F800000

/-- MAX of R141: NaN if either is, -0 below +0. -/
def maxF (a b : Word) : Word × LaneFlags :=
  if isNaN a || isNaN b then (qNaN, flagIf (isSNaN a || isSNaN b) flagNV)
  else (if orderKey a < orderKey b then b else a, 0)
/-- MIN of R141. -/
def minF (a b : Word) : Word × LaneFlags :=
  if isNaN a || isNaN b then (qNaN, flagIf (isSNaN a || isSNaN b) flagNV)
  else (if orderKey b < orderKey a then b else a, 0)

/-! Reference values for the functions that R48 bounds: fixed point with `fxP` fraction bits. -/

/-- Fraction bits of the fixed-point reference. -/
def fxP : Nat := 320

/-- e^x of fixed-point 0 ≤ x < 1, by its series. -/
def fxExpSeries : Nat → Nat → Nat → Nat → Nat → Nat
  | 0, _, _, _, acc => acc
  | fuel + 1, x, k, term, acc =>
    let t := term * x / 2 ^ fxP / k
    fxExpSeries fuel x (k + 1) t (acc + t)

/-- ln 2 in fixed point: sum of 1 / (k 2^k). -/
def fxLn2 : Nat := (List.range 330).foldl (fun a k => a + 2 ^ fxP / ((k + 1) * 2 ^ (k + 1))) 0

/-- 2^f of fixed-point 0 ≤ f < 1. -/
def fxExp2Frac (f : Nat) : Nat :=
  fxExpSeries 80 (f * fxLn2 / 2 ^ fxP) 1 (2 ^ fxP) (2 ^ fxP)

/-- A dyadic as fixed point, rounded down, between -2^13 and 2^13. -/
def toFx (neg : Bool) (m : Nat) (e : Int) : Int :=
  let s := e + fxP
  let v : Nat :=
    if e + flog2 m > 12 then 2 ^ (fxP + 13)
    else if 0 ≤ s then m * 2 ^ s.toNat else m / 2 ^ (-s).toNat
  if neg then -(v : Int) else v

/-- 2^x for fixed-point x, as a positive dyadic. -/
def fxExp2 (x : Int) : Nat × Int :=
  let i := x / (2 ^ fxP : Nat)
  let f := (x % (2 ^ fxP : Nat)).toNat
  (fxExp2Frac f, i - fxP)

/-- Fraction bits of log2 of 1 ≤ y < 2, one squaring a bit. -/
def fxLog2Bits : Nat → Nat → Nat → Nat
  | 0, _, acc => acc
  | fuel + 1, y, acc =>
    let y2 := y * y / 2 ^ fxP
    if 2 ^ (fxP + 1) ≤ y2 then fxLog2Bits fuel (y2 / 2) (2 * acc + 1)
    else fxLog2Bits fuel y2 (2 * acc)

/-- log2 of a positive dyadic, with 140 fraction bits. -/
def refLog2 (m : Nat) (e : Int) : Int :=
  let k := flog2 m
  let y := m * 2 ^ fxP / 2 ^ k
  (e + k) * (2 ^ 140 : Nat) + fxLog2Bits 140 y 0

/-- A signed integer over 2^p as a value. -/
def ofScaled (i : Int) (p : Nat) : Fp := .fin (decide (i < 0)) i.natAbs (-(p : Int))

/-- log2 e = 1 / ln 2 in fixed point. -/
def fxLog2E : Nat := 2 ^ (2 * fxP) / fxLn2

/-- e^x of a dyadic, as a positive dyadic. -/
def refExp (neg : Bool) (m : Nat) (e : Int) : Nat × Int :=
  fxExp2 (toFx neg m e * (fxLog2E : Int) / (2 ^ fxP : Nat))

/-- 1 / (1 + e^-x) for x = ∓|m 2^e|. -/
def refSigmoid (neg : Bool) (m : Nat) (e : Int) : Nat × Int :=
  -- e^-|x| = v / 2^fxP below or equal to 1
  let (t, te) := refExp true m e
  let v := if -(fxP : Int) ≤ te then t * 2 ^ (te + fxP).toNat else t / 2 ^ (-te - fxP).toNat
  if neg then quotSticky t te (2 ^ fxP + v) (-fxP)
  else quotSticky (2 ^ fxP) 0 (2 ^ fxP + v) 0

/-- The magnitude of tanh: (1 - e^-2x) / (1 + e^-2x), or x - x^3/3 for a small x. -/
def refTanh (m : Nat) (e : Int) : Nat × Int :=
  if e + flog2 m < -60 then (m * 2 ^ 200 - 1, e - 200)
  else
    let (t, te) := refExp true m (e + 1)
    let v := if -(fxP : Int) ≤ te then t * 2 ^ (te + fxP).toNat else t / 2 ^ (-te - fxP).toNat
    quotSticky (2 ^ fxP - v) 0 (2 ^ fxP + v) 0

/-- Whether FP32 bits lie within `k` units in the last place of the exact positive or negative reference (R48, R141). -/
def withinUlps (k : Nat) (w : Word) (neg : Bool) (m : Nat) (e : Int) : Bool :=
  match ofF32 w with
  | .fin n2 m2 e2 =>
    let (a, b, c) := alignPair neg m e n2 m2 e2
    let q := fmtFP32.ulpExp (max m 1) e
    let d := (a - b).natAbs
    -- d * 2^c ≤ k * 2^q
    decide (d * 2 ^ (c - min c q).toNat ≤ k * 2 ^ (q - min c q).toNat)
  | _ => false

/-- The flags of a finite FP32 result beside the exact finite value it stands for (R54): inexact where it differs, underflow
where it is also tiny or zero. -/
def resultFlags (w : Word) (x : Fp) : LaneFlags :=
  match ofF32 w, x with
  | .fin n1 m1 e1, .fin n2 m2 e2 =>
    let (a, b, _) := alignPair n1 m1 e1 n2 m2 e2
    if a = b then 0 else flagNX ||| flagIf (fld w.toNat 30 23 == 0) flagUF
  | _, _ => 0

/-- A function's result: the part's own value where it keeps the bound of `k` units, else the nearest FP32 (R48; log 7). -/
def bounded (op k : Nat) (a : Word) (neg : Bool) (m : Nat) (e : Int) : Word × LaneFlags :=
  let c := Config.elementary op a
  if withinUlps k c neg m e then (c, resultFlags c (.fin neg m e)) else f32 (.fin neg m e)

/-- NaN in, NaN out: invalid only when signalling (R54, R141). -/
def nanOut (a : Word) : Word × LaneFlags := (qNaN, flagIf (isSNaN a) flagNV)

/-- RECIP (R141). -/
def recipF (a : Word) : Word × LaneFlags :=
  match ofF32 a with
  | .nan _ => nanOut a
  | .inf n => (BitVec.ofNat 32 (b2n n * 2 ^ 31), 0)
  | .fin n m e =>
    if m = 0 then (if n then negInf else posInf, flagDZ)
    else let (q, qe) := quotSticky 1 0 m e; bounded 0x0B 1 a n q qe

/-- RSQRT (R141). -/
def rsqrtF (a : Word) : Word × LaneFlags :=
  match ofF32 a with
  | .nan _ => nanOut a
  | .inf true => (qNaN, flagNV)
  | .inf false => (0, 0)
  | .fin n m e =>
    if m = 0 then (if n then negInf else posInf, flagDZ)
    else if n then (qNaN, flagNV)
    else match (Fp.fin false m e).sqrt.1 with
      | .fin _ r re => let (q, qe) := quotSticky 1 0 r re; bounded 0x0C 1 a false q qe
      | _ => (qNaN, flagNV)

/-- EXP2 (R141). -/
def exp2F (a : Word) : Word × LaneFlags :=
  match ofF32 a with
  | .nan _ => nanOut a
  | .inf n => (if n then 0 else posInf, 0)
  | .fin n m e => if m = 0 then (oneF, 0) else let (q, qe) := fxExp2 (toFx n m e); bounded 0x0D 2 a false q qe

/-- EXP (R141). -/
def expF (a : Word) : Word × LaneFlags :=
  match ofF32 a with
  | .nan _ => nanOut a
  | .inf n => (if n then 0 else posInf, 0)
  | .fin n m e => if m = 0 then (oneF, 0) else let (q, qe) := refExp n m e; bounded 0x0F 4 a false q qe

/-- LOG2 and LOG (R141): `scale` is 2^140 for LOG2 and ln 2 * 2^140 for LOG. -/
def logF (op k : Nat) (natural : Bool) (a : Word) : Word × LaneFlags :=
  match ofF32 a with
  | .nan _ => nanOut a
  | .inf n => if n then (qNaN, flagNV) else (posInf, 0)
  | .fin n m e =>
    if m = 0 then (negInf, flagDZ)
    else if n then (qNaN, flagNV)
    else
      let l := refLog2 m e
      if l = 0 then (0, 0)
      else if natural then
        let v := l * (fxLn2 : Int)
        bounded op k a (decide (v < 0)) v.natAbs (-(140 + fxP : Int))
      else bounded op k a (decide (l < 0)) l.natAbs (-140)

/-- SIGMOID (R141). -/
def sigmoidF (a : Word) : Word × LaneFlags :=
  match ofF32 a with
  | .nan _ => nanOut a
  | .inf n => (if n then 0 else oneF, 0)
  | .fin n m e => let (q, qe) := refSigmoid n m e; bounded 0x12 4 a false q qe

/-- TANH (R141). -/
def tanhF (a : Word) : Word × LaneFlags :=
  match ofF32 a with
  | .nan _ => nanOut a
  | .inf n => (if n then 0xBF800000 else oneF, 0)
  | .fin n m e => if m = 0 then (a, 0) else let (q, qe) := refTanh m e; bounded 0x11 4 a n q qe

/-- SILU, with the limits of R141. -/
def siluF (a : Word) : Word × LaneFlags :=
  match ofF32 a with
  | .nan _ => nanOut a
  | .inf n => (if n then 0x80000000 else posInf, 0)
  | .fin n m e =>
    if m = 0 then (a, 0)
    else let (q, qe) := refSigmoid n m e; bounded 0x13 5 a n (q * m) (qe + e)

/-- GATE(a, b) = SILU(a) * b, with the limits of R141. -/
def gateF (a b : Word) : Word × LaneFlags :=
  match ofF32 a, ofF32 b with
  | .fin n m e, .fin n2 m2 e2 =>
    if m = 0 ∨ m2 = 0 then mulF (siluF a).1 b
    else
      let (q, qe) := refSigmoid n m e
      let x : Fp := .fin (n != n2) (q * m * m2) (qe + e + e2)
      let c := Config.elementary2 0x14 a b
      if withinUlps 6 c (n != n2) (q * m * m2) (qe + e + e2) then (c, resultFlags c x) else f32 x
  | .fin n m _, _ =>
    -- an infinite or NaN b meets the exact SILU(a), a zero only where a is (log 22)
    mulF (if m = 0 then a else BitVec.ofNat 32 (b2n n * 2 ^ 31 + 0x3F800000)) b
  | _, _ =>
    let s := siluF a
    let p := mulF s.1 b
    (p.1, p.2 ||| s.2)

/-! Integers. -/

/-- Rounding of an exact value to an integer that saturates to `lo..hi` (R44). -/
def toIntSat (rd : Rounding) (lo hi : Int) (x : Fp) : Int × LaneFlags :=
  match x with
  | .nan _ => (0, flagNV)
  | .inf n => (if n then lo else hi, flagNV ||| flagOF)
  | .fin n m e =>
    let (u, nx) := roundUnits rd m e 0
    let v : Int := if n then -(u : Int) else u
    if v < lo then (lo, flagOF ||| flagNX)
    else if hi < v then (hi, flagOF ||| flagNX)
    else (v, flagIf nx flagNX)

/-- An integer as a value. -/
def ofInt (i : Int) : Fp := .fin (decide (i < 0)) i.natAbs 0

/-! Philox-4x32-10 (R43, R152). -/

/-- One Philox round on counter `(c0, c1, c2, c3)` with key `(k0, k1)`. -/
def philoxRound (c : Nat × Nat × Nat × Nat) (k0 k1 : Nat) : Nat × Nat × Nat × Nat :=
  let (c0, c1, c2, c3) := c
  let p0 := 0xD2511F53 * c0
  let p1 := 0xCD9E8D57 * c2
  let n0 := (p1 / 2 ^ 32) ^^^ c1 ^^^ k0
  let n2 := (p0 / 2 ^ 32) ^^^ c3 ^^^ k1
  (n0, p1 % 2 ^ 32, n2, p0 % 2 ^ 32)

/-- `n` rounds, the key bumped between rounds. -/
def philoxRounds : Nat → Nat × Nat × Nat × Nat → Nat → Nat → Nat × Nat × Nat × Nat
  | 0, c, _, _ => c
  | n + 1, c, k0, k1 =>
    philoxRounds n (philoxRound c k0 k1) ((k0 + 0x9E3779B9) % 2 ^ 32) ((k1 + 0xBB67AE85) % 2 ^ 32)

/-- Output word 0 of Philox-4x32-10 with a 64-bit key and the counter (ctr low, ctr high, 0, 0). -/
def philox0 (key ctr : Nat) : Nat :=
  (philoxRounds 10 (ctr % 2 ^ 32, ctr / 2 ^ 32 % 2 ^ 32, 0, 0) (key % 2 ^ 32) (key / 2 ^ 32 % 2 ^ 32)).1

/-- The 16-bit draw of stochastic rounding for a seed and element index (R43). -/
def roundDraw (seed index : Nat) : Nat := philox0 (seed % 2 ^ 32) index % 2 ^ 16

/-! Sine and cosine for V_ROTARY (R146). -/

/-- π in fixed point with 96 bits behind the binary point. -/
def pi96 : Nat := 0x3243F6A8885A308D313198A2E

/-- Alternating series of sine or cosine in fixed point of 96 bits. -/
def fxTrig : Nat → Int → Nat → Int → Int → Int
  | 0, _, _, _, acc => acc
  | fuel + 1, x2, k, term, acc =>
    let t := -(term * x2 / (2 ^ 96 : Nat)) / ((k + 1) * (k + 2) : Nat)
    fxTrig fuel x2 (k + 2) t (acc + t)

/-- (cos, sin) of a dyadic angle, in 96-bit fixed point, reduced modulo 2π. -/
def refCosSin (neg : Bool) (m : Nat) (e : Int) : Int × Int :=
  let big : Nat := if 0 ≤ e + 96 then m * 2 ^ (e + 96).toNat else m / 2 ^ (-(e + 96)).toNat
  let r : Int := (big % (2 * pi96) : Nat)
  let x : Int := if (pi96 : Int) < r then r - (2 * pi96 : Nat) else r
  let x2 := x * x / (2 ^ 96 : Nat)
  let c := fxTrig 40 x2 0 (2 ^ 96 : Nat) (2 ^ 96 : Nat)
  let s := fxTrig 40 x2 1 x x
  (c, if neg then -s else s)

end Sys2Proof.Machine
end

