-- ==== Sys2Proof/Machine/Formats.lean ====
section
/-! DEFINITION. The element formats of R36: widths, blocks, values of codes, and narrowing (R36 to R44, R62). -/

namespace Sys2Proof.Machine

/-- Formats by code (R36). -/
def fFP32 : Nat := 0x00
def fBF16 : Nat := 0x01
def fFP16 : Nat := 0x02
def fE4M3 : Nat := 0x03
def fE5M2 : Nat := 0x04
def fINT8 : Nat := 0x05
def fINT32 : Nat := 0x06
def fMXINT8 : Nat := 0x0D

/-- Whether a code is listed (R36). -/
def fmtListed (f : Nat) : Bool := decide (f ≤ 6) || (decide (8 ≤ f) && decide (f ≤ 0x0D)) || (decide (0x10 ≤ f) && decide (f ≤ 0x17))
def isMX (f : Nat) : Bool := decide (8 ≤ f) && decide (f ≤ 0x0D)
def isPI (f : Nat) : Bool := decide (0x10 ≤ f) && decide (f ≤ 0x17)
/-- Element sizes of 1, 2 or 4 bytes and no blocks. -/
def isWhole (f : Nat) : Bool := decide (f ≤ 6)
/-- FP8 of the two kinds. -/
def isFP8 (f : Nat) : Bool := f == fE4M3 || f == fE5M2

/-- Bits of an element. -/
def elemBits (f : Nat) : Nat :=
  if f = 0 ∨ f = 6 then 32
  else if f = 1 ∨ f = 2 then 16
  else if f ≤ 5 then 8
  else if f = 8 ∨ f = 9 ∨ f = 0x0D then 8
  else if f = 0x0A ∨ f = 0x0B then 6
  else if f = 0x0C then 4
  else f - 0x0F

/-- Elements of a block; 1 in a whole format (R38, R40). -/
def blockLen (f : Nat) : Nat := if isMX f then 32 else if isPI f then 64 else 1

/-- Bytes of a block, or of an element of a whole format. -/
def blockBytes (f : Nat) : Nat := elemBits f * blockLen f / 8

/-- The floating format of an element, for formats that have one. -/
def floatOf (f : Nat) : Option FloatFmt :=
  if f = 0 then some fmtFP32
  else if f = 1 then some fmtBF16
  else if f = 2 then some fmtFP16
  else if f = 3 ∨ f = 8 then some fmtE4M3
  else if f = 4 ∨ f = 9 then some fmtE5M2
  else if f = 0x0A then some fmtE2M3
  else if f = 0x0B then some fmtE3M2
  else if f = 0x0C then some fmtE2M1
  else none

/-- A value scaled by a power of two. -/
def Fp.scale (x : Fp) (k : Int) : Fp := match x with | .fin n m e => .fin n m (e + k) | y => y

/-- The value of an element code under its block's scale byte (R36 to R38, R41). -/
def elemValue (f code scale : Nat) : Fp :=
  if (isMX f || isPI f) && scale == 0xFF then .nan false
  else
    let k : Int := if isMX f || isPI f then (scale : Int) - 127 else 0
    match floatOf f with
    | some ff => (ff.decode code).scale k
    | none =>
      if f = fINT32 then ofInt (sext 32 code)
      else if f = fINT8 then ofInt (sext 8 code)
      else if f = fMXINT8 then (ofInt (sext 8 code)).scale (k - 6)
      else (ofInt (sext (f - 0x0F) code)).scale k

/-- Widening to FP32 (R45, R48): rounded only where the scale leaves the FP32 range, or for INT32. -/
def widen (f code scale : Nat) : Word := (f32 (elemValue f code scale)).1

/-- Narrowing of a value into a whole format (R42, R44). -/
def narrow (f : Nat) (rd : Rounding) (sat : Bool) (x : Fp) : Nat × LaneFlags :=
  match floatOf f with
  | some ff => let r := ff.round rd sat x; (r.code, r.flags)
  | none =>
    let w := if f = fINT32 then 32 else 8
    let (v, fl) := toIntSat rd (-(2 ^ (w - 1) : Nat)) ((2 ^ (w - 1) : Nat) - 1) x
    (wrapInt w v, fl)

/-- `emax` of R39. -/
def mxEmax (f : Nat) : Int :=
  if f = 8 then 8 else if f = 9 then 15 else if f = 0x0A then 2 else if f = 0x0B then 4 else if f = 0x0C then 2 else 0

/-- Floor of log2 of a finite non-zero magnitude; none for zero. -/
def Fp.log2 : Fp → Option Int
  | .fin _ m e => if m = 0 then none else some (e + flog2 m)
  | _ => none

/-- Largest of two optional exponents. -/
def maxOpt (a b : Option Int) : Option Int :=
  match a, b with
  | some x, some y => some (max x y)
  | some x, none => some x
  | none, y => y

def Fp.isNaN : Fp → Bool | .nan _ => true | _ => false
def Fp.isInf : Fp → Bool | .inf _ => true | _ => false
def Fp.isZero : Fp → Bool | .fin _ 0 _ => true | _ => false

/-- The scale exponent X of a block (R39), none where amax is zero; an infinite amax clamps to 127. `pick` settles the
exponent before the clamp (R255). -/
def mxExponent (pick : Int → Int) (f : Nat) (vs : List Fp) : Option Int :=
  if vs.any Fp.isInf then some 127
  else (vs.foldl (fun a v => maxOpt a v.log2) none).map (fun l => max (-127) (min 127 (pick (l - mxEmax f))))

/-- Conversion of a block's values to an MX format (R39): scale byte, element codes and the flags of each element. `rd` gives
each element's rounding. Under a NaN scale, which every MX format has, a quiet NaN records no flag (R54; log 22) and the codes
are free values of the block (log 4). -/
def encodeMXBy (pick : Int → Int) (f : Nat) (rd : Nat → Rounding) (vs : List Fp) : Nat × List (Nat × LaneFlags) :=
  let nan := vs.any Fp.isNaN
  let inf := vs.any Fp.isInf
  if nan || (inf && f != 9) then
    (0xFF, (List.range vs.length).zip vs |>.map (fun p =>
      ((Config.nanCode f (vs.map (fun v => (f32 v).1)) p.1).toNat % 2 ^ elemBits f,
       match p.2 with | .nan true => flagNV | .inf _ => flagIf (f != 9) flagNV | _ => 0)))
  else
    match mxExponent pick f vs with
    | none => (0, vs.map (fun _ => (0, 0)))
    | some x =>
      ((x + 127).toNat, (List.range vs.length).zip vs |>.map (fun p =>
        let v := p.2.scale (-x)
        match floatOf f with
        | some ff => let r := ff.round (rd p.1) true v; (r.code, r.flags)
        | none =>
          let (i, fl) := toIntSat (rd p.1) (-128) 127 (v.scale 6)
          (wrapInt 8 i, fl)))

/-- The conversion of R39. -/
def encodeMX (f : Nat) (rd : Nat → Rounding) (vs : List Fp) : Nat × List (Nat × LaneFlags) :=
  encodeMXBy id f rd vs

/-- Element codes of a block as a number of `blockBytes` bytes: packed (R62) or by plane (R40). -/
def packBlock (f : Nat) (plane : Bool) (codes : List Nat) : Nat :=
  let b := elemBits f
  ((List.range codes.length).zip codes).foldl (fun a p =>
    if plane then a + (List.range b).foldl (fun a j => a + b2n (p.2.testBit j) * 2 ^ (64 * j + p.1)) 0
    else a + (p.2 % 2 ^ b) * 2 ^ (b * p.1)) 0

/-- Element `i` of a block's bytes. -/
def unpackElem (f : Nat) (plane : Bool) (w i : Nat) : Nat :=
  let b := elemBits f
  if plane then (List.range b).foldl (fun a j => a + b2n (w.testBit (64 * j + i)) * 2 ^ j) 0
  else fld w (b * i + b - 1) (b * i)

end Sys2Proof.Machine
end

