-- ==== Sys2Proof/Machine/Crypto.lean ====
section
/-! DEFINITION. SHA-256 (R34, R424), RSASSA-PSS verification (R417) and CRC-32 (R303). -/

namespace Sys2Proof.Machine

/-- The integer `k`-th root of `n`, found bit by bit: `r` holds the bits above bit `b`. -/
def rootBits (k n : Nat) : Nat → Nat → Nat
  | 0, r => r
  | b + 1, r => rootBits k n b (if (r + 2 ^ b) ^ k ≤ n then r + 2 ^ b else r)

/-- The first 32 bits of the fractional part of the `k`-th root of `p`. -/
def rootFraction (k p : Nat) : Word := BitVec.ofNat 32 (rootBits k (p * 2 ^ (32 * k)) 36 0)

/-- The primes below 312: SHA-256 takes its constants from the first 64. -/
def smallPrimes : List Nat :=
  (List.range 312).filter (fun n => 2 ≤ n && (List.range 18).all (fun d => d < 2 || n ≤ d || n % d != 0))

/-- Round constants of SHA-256: of the cube roots of the first 64 primes. -/
def shaK : List Word := smallPrimes.map (rootFraction 3)

/-- The eight working words of SHA-256. -/
structure ShaState where
  a : Word
  b : Word
  c : Word
  d : Word
  e : Word
  f : Word
  g : Word
  h : Word
  deriving DecidableEq, Repr

/-- Initial hash value: of the square roots of the first eight primes. -/
def shaInit : ShaState :=
  let r := rootFraction 2
  ⟨r 2, r 3, r 5, r 7, r 11, r 13, r 17, r 19⟩

/-- One round. -/
def shaRound (s : ShaState) (k w : Word) : ShaState :=
  let s1 := s.e.rotateRight 6 ^^^ s.e.rotateRight 11 ^^^ s.e.rotateRight 25
  let ch := (s.e &&& s.f) ^^^ (~~~ s.e &&& s.g)
  let t1 := s.h + s1 + ch + k + w
  let s0 := s.a.rotateRight 2 ^^^ s.a.rotateRight 13 ^^^ s.a.rotateRight 22
  let mj := (s.a &&& s.b) ^^^ (s.a &&& s.c) ^^^ (s.b &&& s.c)
  ⟨t1 + (s0 + mj), s.a, s.b, s.c, s.d + t1, s.e, s.f, s.g⟩

/-- The message schedule, newest word first. -/
def shaExtend : Nat → List Word → List Word
  | 0, w => w
  | n + 1, w =>
    let w15 := w.getD 14 0
    let w2 := w.getD 1 0
    let s0 := w15.rotateRight 7 ^^^ w15.rotateRight 18 ^^^ w15 >>> 3
    let s1 := w2.rotateRight 17 ^^^ w2.rotateRight 19 ^^^ w2 >>> 10
    shaExtend n ((w.getD 15 0 + s0 + w.getD 6 0 + s1) :: w)

/-- One block of 64 bytes. -/
def shaBlock (s : ShaState) (block : List Byte) : ShaState :=
  let w0 := (chunks 4 16 block).map (fun q => BitVec.ofNat 32 (beNat q))
  let w := (shaExtend 48 w0.reverse).reverse
  let r := (shaK.zip w).foldl (fun s p => shaRound s p.1 p.2) s
  ⟨s.a + r.a, s.b + r.b, s.c + r.c, s.d + r.d, s.e + r.e, s.f + r.f, s.g + r.g, s.h + r.h⟩

/-- SHA-256 of a byte string, 32 bytes. -/
def sha256 (m : List Byte) : List Byte :=
  let z := (119 - m.length % 64) % 64
  let p := m ++ (0x80 : Byte) :: List.replicate z 0 ++ beBytes 8 (8 * m.length)
  let s := (chunks 64 (p.length / 64) p).foldl shaBlock shaInit
  [s.a, s.b, s.c, s.d, s.e, s.f, s.g, s.h].flatMap (fun w => beBytes 4 w.toNat)

/-- `b ^ e mod n` by squaring; `fuel` bounds the bits of `e`. -/
def powMod : Nat → Nat → Nat → Nat → Nat
  | 0, _, _, n => 1 % n
  | fuel + 1, b, e, n =>
    if e = 0 then 1 % n
    else
      let h := powMod fuel (b * b % n) (e / 2) n
      if e % 2 = 1 then h * b % n else h

/-- MGF1 with SHA-256. -/
def mgf1 (seed : List Byte) (len : Nat) : List Byte :=
  ((List.range (ceilDiv len 32)).flatMap (fun i => sha256 (seed ++ beBytes 4 i))).take len

/-- RSASSA-PSS verification, 3,072 bits, exponent 65,537, SHA-256, MGF1 with SHA-256, 32-byte salt (R417). -/
def rsaPssVerify (modulus : List Byte) (msg sig : List Byte) : Bool :=
  let n := beNat modulus
  let s := beNat sig
  if n ≤ s then false
  else
    let em := beBytes 384 (powMod 20 s 65537 n)
    let bits := flog2 (max n 1)            -- emBits: modulus bits - 1
    let top := 8 * 384 - bits
    let db := em.take (384 - 33)
    let h := (em.drop (384 - 33)).take 32
    let un := (db.zip (mgf1 h (384 - 33))).map (fun p => p.1 ^^^ p.2)
    let un := BitVec.ofNat 8 ((un.headD 0).toNat % 2 ^ (8 - top)) :: un.drop 1
    let zeros := un.take (384 - 33 - 33)
    let salt := un.drop (384 - 33 - 32)
    decide (em.getLast? = some 0xBC) && decide (top ≤ 8) && decide ((db.headD 0).toNat < 2 ^ (8 - top)) &&
    zeros.all (· == 0) && decide (un.getD (384 - 33 - 33) 0 = 1) &&
    decide (sha256 (List.replicate 8 0 ++ sha256 msg ++ salt) = h)

/-- CRC-32 over bits, reflected polynomial 0xEDB88320. -/
def crcStep (c : Nat) : Nat → Nat
  | 0 => c
  | n + 1 => crcStep (if c % 2 = 1 then c / 2 ^^^ 0xEDB88320 else c / 2) n

/-- CRC-32 of a byte string, initial value and final complement all ones. -/
def crc32 (bs : List Byte) : Nat :=
  (bs.foldl (fun c b => crcStep (c ^^^ b.toNat) 8) 0xFFFFFFFF) ^^^ 0xFFFFFFFF

end Sys2Proof.Machine
end

