-- ==== Sys2Proof/Machine/State.lean ====
section
/-! DEFINITION. Everything the manual gives the part, as plain data. Field defaults are the values after reset;
a value the manual does not give is named in the assumption log beside the rule. Tables are keyed by the number the
manual gives an instance (R12); an unlisted instance is in its reset state. -/

namespace Sys2Proof.Machine

/-! ## Memory stacks (chapter 14) -/

/-- A range of whole lines that S_FILL or sanitise wrote with one 64-bit pattern (R181, R430); `hi` is excluded. -/
structure Fill where
  lo : Nat
  hi : Nat
  pattern : Nat
  deriving DecidableEq, Repr

/-- What the part has made of a single line since start: written, or marked with the poison codeword (R332). -/
inductive LineMark where
  | good
  | poisoned
  deriving DecidableEq, Repr

/-- A line in a write-combining buffer with its byte mask (R327). -/
structure WcLine where
  line : Nat
  bytes : List (Option Byte)
  deriving DecidableEq, Repr

/-- A remap word (R331). -/
structure RemapWord where
  valid : Bool := false
  auto : Bool := false
  line : Nat := 0
  deriving DecidableEq, Repr

/-- An entry of the correctable-error log (R330). -/
structure CeEntry where
  line : Nat
  pc : Nat
  symbol : Nat
  sector : Nat
  count : Nat
  first : Nat
  remapped : Bool
  age : Nat                             -- rises with every line that is logged anew, so the least is the oldest (R330)
  deriving DecidableEq, Repr

/-- One memory stack with its base die's integrity logic (R322 to R341). Offsets are stack offsets, lines are offset / 64. -/
structure Stack where
  bytes : List Host.Cell := []          -- bytes that differ from what their line's fill (or 0) gives
  fills : List Fill := []               -- newest first
  marks : Table LineMark := []          -- lines written or poisoned one by one
  syms : Table (List Nat) := []         -- symbols in error by sector (R329; log 12)
  wc : List WcLine := []                -- least recently written first (R327)
  remap : Table RemapWord := []         -- word 8p + w (R331)
  ceLog : List CeEntry := []            -- entry i of the log at place i (R330)
  ceCount : Nat := 0
  ueCount : Nat := 0
  tetherRetries : Nat := 0
  remapFull : Nat := 0
  logOverflow : Nat := 0
  poisonMerges : Nat := 0
  lastUe : Nat := 0
  ueLines : List Nat := []              -- distinct uncorrectable lines since start (R335)
  failed : Nat := 0                     -- FAILED channels (R340)
  applied : Nat := 0                    -- APPLIED map-outs, stored (R336)
  pending : Nat := 0                    -- PENDING map-outs, stored (R336)
  down : Bool := false                  -- out of use for this start (R398)
  hotRefresh : Bool := false            -- HOT_REFRESH (R338)
  refreshing : List Nat := []           -- pseudo-channels inside their refresh window (R338)
  retries : Table Nat := []             -- resends of the transfer in progress, by pseudo-channel (R334)
  deriving DecidableEq, Repr

/-- The memories of the part: stacks, scratch of core c, command-store bank b of core c at key 2c + b (R21, R22). -/
structure MemSys where
  stk : Table Stack := []
  scratch : Table (List Host.Cell) := []
  scratchBase : Table (Option Nat) := [] -- unlisted scratch of a core: none 0, some n free values n (R17, R388; log 2)
  cmdStore : Table (List Host.Cell) := []
  cmdBase : Table (Option Nat) := []    -- unlisted bytes of a bank, likewise (R17; log 2)
  fresh : Nat := 0                      -- the model's own counter of free values (log 4)
  deriving DecidableEq, Repr

/-! ## Engine commands in flight (chapters 04 to 07) -/

/-- The kind of the SEQ command that made a stream entry (R99). -/
inductive EntryKind where
  | stride
  | index
  | page
  deriving DecidableEq, Repr

/-- A stream entry: its 64 bits, or null (a failed index), or marked absent (R97, R98, R231). -/
structure StreamEntry where
  kind : EntryKind
  value : Option Int
  absent : Bool := false
  deriving DecidableEq, Repr

/-- A command that its engine has taken (R90): its block, the descriptors and nest entry read at issue (R59), how far it
has come, and whether it waits for something outside its queue. -/
structure Issued where
  block : BitVec 512
  descs : List Nat                      -- operands 0 to 3, 192 B each as a number; 0 for none or a register
  nest : Nat                            -- 128 B; 0 for one iteration
  iter : Nat := 0                       -- iterations (or slots) done
  issued : Bool := false                -- validated, its tables read
  part : Nat := 0                       -- pieces of the next iteration done before a save: 4 KiB of a DMA tile, or rows (R217)
  stage : Nat := 0                      -- BASE of TSTAGE when a transposing copy started (R79)
  deriving DecidableEq, Repr

/-- A stream slot (R97): its entries, oldest first, the SEQ command that still generates, and that command's number. -/
structure Stream where
  entries : List StreamEntry := []
  gen : Option Issued := none
  count : Nat := 0
  deriving DecidableEq, Repr

/-- An entry of an arrival table (R202): the belay, the generation of the reply, whether the arrival was sent. -/
structure Arrival where
  belay : Nat
  gen : Option Nat := none
  sent : Bool := false
  tag : Nat := 0                        -- TAG and number of its BELAY_ARRIVE, for a refusal (R204)
  count : Nat := 0
  released : Option Nat := none         -- GEN of the last release that has arrived
  deriving DecidableEq, Repr

/-- What a fault records (R103, R104). -/
structure FaultInfo where
  status : Nat
  tag : Nat := 0
  count : Nat := 0
  queue : Nat := 0
  core : Nat := 0
  deriving DecidableEq, Repr

/-- A remote line asked for by a queue (R310): not yet answered, answered with data, or failed with a status. -/
inductive Landing where
  | asked
  | data (bytes : List Byte)
  | failed (status : Nat)
  deriving DecidableEq, Repr

/-- An operation of the transaction layer (R309, R310). -/
structure FabOp where
  op : Nat
  cls : Nat
  lane : Nat
  src : Nat
  dst : Nat
  hops : Nat
  lines : Nat                           -- data lines
  tag : Nat
  line : Nat                            -- REQUEST: target line; RESPONSE: STATUS in [15:0]; CONTROL: ROUND
  masked : Bool
  mask : Nat
  data : List Byte
  deriving DecidableEq, Repr

/-- A fabric request of this node that waits for its answer (R310, R315): who waits, its lines, and the port it left by. -/
structure OutReq where
  core : Nat
  queue : Nat
  line : Nat                            -- global address / 64
  lines : Nat
  port : Nat
  write : Bool
  cmdTag : Nat                          -- TAG and number of the command that issued it (R316)
  cmdCount : Nat
  deriving DecidableEq, Repr

/-- A table row that a V_GATHER's coalescer keeps (R149): its coordinates above dimension 0, and what was read of it, element
by element (code, scale, padding?), at the first coordinates of its pieces. -/
structure GatherRow where
  key : List Int
  pieces : List (Int × List (Nat × Nat × Bool × Bool))
  deriving DecidableEq, Repr

/-- One engine queue of a core (R89, R90). -/
structure QueueSt where
  cmds : List (BitVec 512) := []
  run : Option Issued := none
  count : Nat := 0                      -- CMDCOUNT (R108)
  kend : Bool := false                  -- KEND retired (R102)
  arrivals : List Arrival := []         -- R202
  landing : Table Landing := []         -- remote lines by global address / 64
  remoteOut : Nat := 0                  -- remote writes not yet acknowledged (R189)
  lateFault : Option FaultInfo := none  -- taken at the next command boundary (R185, R316, R335)
  stalled : Bool := false               -- its command waits for memory: a remote node, the host, or room to ask
  flushing : Bool := false              -- a SPOOL_FLUSH waits for its partner (R130)
  brkTaken : Bool := false              -- the BRK at the head has fired; it begins on resume (R110)
  coal : List GatherRow := []           -- the coalescer of a V_GATHER: up to 32 rows, least recently read first (R149)
  wrote : List (List Int) := []         -- table coordinates the V_SCATTER in progress has written (R150)
  backlog : List (OutReq × FabOp) := [] -- remote writes that wait for room in the node (R310)
  stopped : Bool := false               -- it stands at its save boundary while its context is SAVING (R217)
  deriving DecidableEq, Repr

/-- A weight tile in a weight register (R112): rows of codes, row scales, K and N, its format. -/
structure WTile where
  format : Nat
  k : Nat
  n : Nat
  elems : List (List Nat)               -- column n: K element codes (PI: signed b-bit code)
  scales : List (List Nat)              -- column n: block scale bytes
  deriving DecidableEq, Repr

/-- A spool slot (R124): header, rows, and the EPOCH cycles of this and the former filling (R125). -/
structure SpoolSlot where
  tag : Nat := 0xFFFF
  bank : Nat := 0
  group : Nat := 0
  dtag : Nat := 0
  rows : Table Word := []               -- 256 * row + column
  begun : Nat := 0
  oldTag : Nat := 0xFFFF
  oldRows : Table Word := []
  oldBank : Nat := 0
  oldGroup : Nat := 0
  oldDtag : Nat := 0
  oldBegun : Nat := 0
  deriving DecidableEq, Repr

/-- The spool of a core (R125 to R132). -/
structure Spool where
  slots : Table SpoolSlot := []
  prod : Nat := 0                       -- slots drained in this epoch
  cons : Nat := 0                       -- slots read in this epoch
  credits : Nat := 16
  lockstep : Bool := false
  epoch : Nat := 0
  closed : Nat := 0                     -- cycle of the last V_SPOOL's closing check (R154)
  returnLockstep : Bool := false        -- a restored LOCKSTEP kernel, until its next SPOOL_FLUSH (R222)
  deriving DecidableEq, Repr

/-- V_SAMPLE's state of one row (R152): m, l, and up to 256 candidates (z, token). -/
structure SampleRow where
  m : Word := 0xFF800000
  l : Word := 0
  cand : List (Word × Nat) := []
  deriving DecidableEq, Repr

/-- Who last used a core's scratch (R215). -/
inductive LastUse where
  | none
  | ctx (x : Nat)
  | host
  deriving DecidableEq, Repr

/-- Who owns a command-store bank (R354). -/
inductive Owner where
  | any
  | ctx (x : Nat)
  deriving DecidableEq, Repr

/-- What a running kernel is on one core (R80, R82): its start record, partition and context, and this core's rank. -/
structure CoreRun where
  part : Nat
  ctx : Nat
  kd : BitVec 512
  rank : Nat
  deriving DecidableEq, Repr

/-- CSLOG (R107). -/
structure CsLog where
  valid : Bool := false
  bank : Nat := 0
  off : Nat := 0
  drops : Nat := 0
  deriving DecidableEq, Repr

/-- A core (chapters 04 to 06). -/
structure Core where
  run : Option CoreRun := none
  params : Table Word := []             -- the copied parameter block (R82)
  fetch : Nat := 0                      -- index of the next command to fetch (R89)
  fetchDone : Bool := true
  qMx : QueueSt := {}
  qVec : QueueSt := {}
  qDma : QueueSt := {}
  qSeq : QueueSt := {}
  streams : Table Stream := []
  vregs : Table Word := []              -- 256 * register + lane
  vbase : Option Nat := none            -- unlisted lanes: none 0, some n free value n (R135; log 3)
  sample : Table SampleRow := []
  w0 : Option WTile := none
  w1 : Option WTile := none
  active : Option Bool := none          -- the active weight register: false W0, true W1 (R112)
  preload : Bool := false               -- a pending preload (R117)
  acc : Table Word := []                -- 65536 * bank + 256 * row + column; unlisted +0 (R113)
  spool : Spool := {}
  kflags : BitVec 6 := 0                -- KERNEL_FLAGS (R55)
  tstage : Nat := 0x3FF                 -- TSTAGE BASE (R79)
  kreport : BitVec 256 := 0             -- KREPORT (R104)
  cslog : CsLog := {}
  lastslot : Quad := 0                  -- LASTSLOT (R155)
  vcompat : Nat := 0                    -- VCOMPAT as written (R157)
  vcompatNow : Nat := 0                 -- VCOMPAT in force since the kernel start
  lastUse : LastUse := .none
  owner0 : Owner := .any
  owner1 : Owner := .any
  withheld : Nat := 0                   -- class A: parts of 1024 of the next window withheld (R407)
  testPiece : Bool := false             -- a self-test piece holds the core (R390)
  deriving DecidableEq, Repr

/-! ## Stack engines (chapters 07 and 11) -/

/-- A forwarded STK command (R88): its core, kernel, issue data and the stream entries sent behind it. -/
structure StkCmd where
  core : Nat
  part : Nat
  ctx : Nat
  kid : Nat
  count : Nat                           -- its number in the DMA queue (R108)
  iss : Issued
  params : Table Word
  entries : List StreamEntry := []
  whole : Bool := false                 -- its last stream entry has gone (R166)
  deriving DecidableEq, Repr

/-- How far the translation of a page has come (R183): a LAB miss that reads its entry, the entry, an absent page, or a
read that failed with a status. -/
inductive PageTrans where
  | walking
  | found (pte : Nat)
  | absent
  | failed (status : Nat)
  deriving DecidableEq, Repr

/-- A granule in the expander: the status of a failed read, its table slot if coded, its bytes. -/
structure Gran where
  bad : Option Nat
  slot : Option Nat
  data : List Byte
  deriving DecidableEq, Repr

/-- A unit of a coded page (R254, R257): one block of 32 elements, with its scale in MX modes. -/
structure KvUnit where
  scale : Option Nat
  elems : List Nat
  deriving DecidableEq, Repr

/-- The code lengths of the three codes of a table (R258). -/
structure Tables where
  key : List Nat
  val : List Nat
  scl : List Nat
  deriving DecidableEq, Repr

/-- A granule that the expander has delivered: the status of its failure, or its units from unit `first` of its page on, in
their stored form. -/
structure Expanded where
  fail : Option Nat := none
  first : Nat := 0
  lossy : Nat := 0
  units : List KvUnit := []
  deriving DecidableEq, Repr

/-- A row of S_ATTEND as far as its work units have come (R174): m, l, value sums, probabilities whose value has not come,
whether a NaN came in. -/
structure AttRow where
  m : Word := 0xFF800000
  l : Word := 0
  acc : List Word
  pend : Table Word := []
  nan : Bool := false
  deriving DecidableEq, Repr

/-- A table row that the iteration of a reducing S_SCATTER has combined values into (R179): its elements before the iteration,
and the values combined so far, as FP32 and as integers. -/
structure ScatterRow where
  row : Nat
  old : List Nat
  now : List Nat := []                  -- the codes that the command's last write left in memory
  sums : List Word
  ints : List Int
  deriving DecidableEq, Repr

/-- A transit image under import (R275): its tables by (SLOT, GEN), its pages, the offset of the next page record, and the
record of the page in work: FORM, GCOUNT, LPAGE, and where its data begins. -/
structure Import where
  tables : List ((Nat × Nat) × Tables)
  pages : Nat
  next : Nat
  page : Option (Nat × Nat × Nat × Nat) := none
  deriving DecidableEq, Repr

/-- An active STK command (R168): the pages it has translated (2^40 * layer + page), granules asked of the expander, its
index-range flag, whether its work is done, the fault that stopped it (R185), and what its operand area holds (R160).
`cmd.iss.iter` counts its work units. -/
structure ActiveCmd where
  cmd : StkCmd
  trans : Table PageTrans := []
  fetched : Nat := 0
  granules : List Expanded := []        -- delivered and not yet used, up to 8 (R273)
  used : Nat := 0                       -- granules used
  nextUnit : Nat := 0                   -- first unit of the page's next granule, and the page's stored form (R274)
  stored : Option Nat := none
  held : List (List Nat) := []          -- link operand: vectors or query rows, as codes
  lines : Table (List Byte) := []       -- S_MATVEC: lines of weights read, each once (R177)
  sums : List Word := []                -- S_MATVEC: sums of the column in work, by vector
  att : List AttRow := []               -- S_ATTEND: rows, head by head
  inPage : List KvUnit := []            -- units of the page in work expanded so far
  coal : List GatherRow := []           -- coalescer: up to 64 rows, least recently read first (R179)
  comb : List ScatterRow := []          -- rows of a reducing S_SCATTER's iteration
  wrote : List (List Int) := []         -- rows a plain S_SCATTER has written (R179)
  image : Option Import := none
  expands : Bool := false               -- it has asked the expander for elements (R273)
  flags : BitVec 6 := 0
  plain : Bool := false                 -- a BUILD without a FREE slot codes as PLAIN (R265)
  done : Bool := false
  fault : Option Nat := none
  deriving DecidableEq, Repr

/-- A LAB entry (R183): the key and the page-table entry found. -/
structure LabEntry where
  part : Nat
  slot : Nat
  layer : Nat
  page : Nat
  pte : Nat
  deriving DecidableEq, Repr

/-- States of a codec table slot (R263). -/
inductive TableState where
  | free
  | bound
  | retired
  deriving DecidableEq, Repr

/-- A codec table slot (R263 to R266): code lengths of the KEY, VALUE and SCALE codes. -/
structure CodecSlot where
  state : TableState := .free
  gen : Nat := 0
  lossy : Nat := 0
  id : Nat := 0
  count : Nat := 0
  key : List Nat := []
  val : List Nat := []
  scl : List Nat := []
  deriving DecidableEq, Repr

/-- A stack engine with its walker and codec (R160, R187, R277). -/
structure Engine where
  subq : Table (List StkCmd) := []      -- by core of the home C-die, 0 to 11
  active : Table ActiveCmd := []        -- by operand area, 0 to 3
  lastCore : Nat := 11                  -- last core activated (log 13)
  sliceArea : Nat := 0                  -- operand area whose command the MAC lanes and the FP32 unit serve (R168)
  slice : Nat := 8                      -- SE_ARB SLICE (R171)
  linkres : Nat := 32                   -- SE_ARB LINKRES
  arbPending : Option (Nat × Nat) := none  -- a write that waits for the next slice boundary (R171)
  hits : Nat := 0
  misses : Nat := 0
  lab : List LabEntry := []             -- least recently used first
  pause : Nat := 0                      -- class S drogue pause in force (R408)
  pauseOver : Bool := true              -- the pause before the next work unit has expired (R170)
  table : Table CodecSlot := []
  queue : List (Nat × Gran) := []       -- expander queue, up to 32, with the operand area of each (R272)
  lastFetch : Nat := 3                  -- operand area the expander last fetched for (R272; log 13)
  keptRaw : Nat := 0
  rawGran : Nat := 0
  codedGran : Nat := 0
  tables : Nat := 0
  noSlot : Nat := 0
  noTable : Nat := 0
  noGran : Nat := 0
  stalls : Nat := 0
  expanded : Nat := 0
  testPiece : Bool := false
  deriving DecidableEq, Repr

/-! ## Contexts (chapters 09 and 15) -/

/-- STATE of a context (R210). -/
inductive CtxState where
  | idle
  | running
  | saving
  | saved
  | held
  | restoring
  deriving DecidableEq, Repr

/-- A kernel of a context from its dispatch to its end. -/
structure Kernel where
  kd : BitVec 512
  step : Bool := false                  -- issued by the step scheduler
  fault : Option FaultInfo := none
  liveWrite : Bool := false             -- wrote to a live bank (R105)
  savedAt : Nat := 0                    -- order of saving (R213)
  copying : Nat := 0                    -- cores whose parameter block is not copied yet (R82)
  copyBad : Option (Nat × Nat) := none  -- the lowest core whose copy failed, and the status (R82)
  moved : List Nat := [0, 0, 0, 0, 0, 0]  -- bytes moved, in the order of 0x1900.02 (R297)
  charge : Nat := 0                     -- energy of its stack accesses and stack-engine work, in 1/40 pJ (R161)
  stalls : Nat := 0                     -- EXP_STALLS (R104, R273)
  cleared : Bool := false               -- a sanitise has reset STATE, which reads IDLE until the kernel ends (R430; log 35)
  deriving DecidableEq, Repr

/-- A kernel start that waits (R213): its record and who submitted it. -/
structure Start where
  kd : BitVec 512
  step : Bool := false
  deriving DecidableEq, Repr

/-- A CSGO in flight (R354). -/
structure CsCopy where
  bank : Nat
  first : Nat
  count : Nat
  src : Nat
  cores : Nat                           -- CTXCORES at the CSGO
  deriving DecidableEq, Repr

/-- An execution context and its window (R210, R352). -/
structure Context where
  en : Bool := false
  prio : Nat := 0
  state : CtxState := .idle
  status : Nat := 0
  saves : Nat := 0
  cores : Nat := 0                      -- CTXCORES
  save : Nat := 0                       -- CTXSAVE
  saveWritten : Bool := false
  units : Nat := 0x20                   -- CTXSCR
  saveCycles : Nat := 0
  restoreCycles : Nat := 0
  kernel : Option Kernel := none
  pending : Option Start := none
  trigger : Option (Bool × Nat) := none -- the save in progress, or held during a restore: ends HELD?, STATUS (R216)
  counts : Table Nat := []              -- CMDCOUNT at 4 * core + queue while no kernel runs (R108)
  savedCores : Table Core := []         -- the cores as saved: tables read at issue, replies and releases since (R206; log 10)
  kstart : BitVec 512 := 0
  krAddr : Quad := 0                    -- KRADDR
  overrun : Bool := false
  csErr : Bool := false
  serving : Bool := false
  kends : Nat := 0
  csSrc : Nat := 0
  csCopy : Option CsCopy := none        -- CSBUSY
  kreport : BitVec 256 := 0
  deriving DecidableEq, Repr

/-- A belay object (R201). -/
structure Belay where
  gen : Nat := 0
  arrived : Nat := 0
  ctx : Nat := 0
  target : Nat := 0
  deriving DecidableEq, Repr

/-! ## Serving (chapters 10 and 12) -/

/-- STATE of a sequence slot (R288). -/
inductive SlotState where
  | free
  | prefill
  | generate
  | parking
  | parked
  | returning
  deriving DecidableEq, Repr

/-- A sequence slot (R288), with its drafts, its sampling record, and the cancel that waits. -/
structure Slot where
  state : SlotState := .free
  cancel : Bool := false
  park : Bool := false
  publish : Bool := false
  varen : Bool := false
  specmax : Nat := 0
  ndraft : Nat := 0
  status : Nat := 0
  ident : Nat := 0
  variant : Nat := 0
  func : Nat := 0
  tag : Nat := 0
  c : Nat := 0
  t : Nat := 0
  plen : Nat := 0
  pdone : Nat := 0
  generated : Nat := 0
  maxnew : Nat := 0
  lasttok : Nat := 0
  joinseq : Nat := 0
  laststep : Nat := 0
  counter : Nat := 0
  prompt : Nat := 0
  drafts : List Nat := []
  sample : Nat := 0                     -- the 64-byte sampling record of R151
  wasGen : Bool := false                -- state before parking
  endCode : Option Nat := none          -- ends at the next boundary with this status (R249)
  moved : Bool := false                 -- its bivouac transfer is complete
  units : List (Nat × Nat × Bool) := [] -- units of the transfer in order: stack, unit, frame? (R248, R249)
  uses : List (Nat × Nat) := []         -- table slots that its parked granules name: stack, slot (R248, R264)
  history : List Nat := []              -- tokens of the positions from VPAGES * PPP to C of a publishing sequence (R243)
  deriving DecidableEq, Repr

/-- An entry of the batch of the running step (R281). -/
structure BatchEntry where
  slot : Nat
  kind : Nat                            -- 0 GENERATE, 1 PROMPT, 2 PROMPT_LAST
  ident : Nat
  c : Nat
  a : Nat
  row0 : Nat
  srow0 : Nat
  nsrow : Nat
  spill : Bool
  roped : Bool := false                 -- the step ropes it (R253; log 4)
  tokens : List Nat := []               -- its token rows (R281)
  deriving DecidableEq, Repr

/-- PHASE of the scheduler (R278). -/
inductive StepPhase where
  | idle
  | running
  | boundary
  | stalled
  deriving DecidableEq, Repr

/-- A request read from a ring (R284). -/
structure Request where
  fn : Nat
  entry : BitVec 1024
  deriving DecidableEq, Repr

/-- A completion record due to a function's ring (R286). -/
structure Record where
  fn : Nat
  bits : BitVec 1024                    -- PHASE 0
  deriving DecidableEq, Repr

/-- A piece of a step boundary (R289): an entry of the ended step with whether a cancel names it; the end of the step; cancels, those
that waited for a transfer, the sequences of disabled functions, other requests, the accounts; rejoining, parks, returns and
publishing; budgets; assembly, the writing of its batch, and the end. -/
inductive Job where
  | commit (i : Nat) (e : BatchEntry) (cancelled : Bool)
  | stepOver
  | cancel (r : Request)
  | lateCancels
  | lateCancel (slot : Nat)
  | disabled
  | request (r : Request)
  | settle
  | rejoins
  | rejoin (slot : Nat)
  | hostParks
  | hostPark (slot : Nat)
  | returns
  | publish
  | budgets
  | assemble
  | write (l : List BatchEntry)
  | last
  deriving DecidableEq, Repr

/-- An entry of the shared-head directory (R240 to R243): chained hash, logical page, tokens, and per layer the entry. -/
structure DirEntry where
  hash : Nat
  page : Nat
  tokens : List Nat
  ptes : List Nat
  place : Nat                           -- its place in the backing (R244)
  deriving DecidableEq, Repr

/-- A request for self-test or calibration and its status (R387). -/
structure TestUnit where
  request : Nat := 0
  written : Nat := 0                    -- the value last written, as the entry reads
  state : Nat := 0                      -- 0 NONE, 1 PENDING, 2 RUNNING, 3 DONE
  result : Nat := 0
  fails : Nat := 0
  detail : List (Nat × Nat × Nat) := []
  cancel : Bool := false                -- ends after the running piece (R392)
  pieces : Nat := 0                     -- pieces done
  deriving DecidableEq, Repr

/-- Counters of one accounting identity (R297). -/
structure Account where
  engine : List Nat := [0, 0, 0, 0]
  bytes : List Nat := [0, 0, 0, 0, 0, 0]
  energy : Nat := 0
  tokens : List Nat := [0, 0]
  deriving DecidableEq, Repr

/-- Sanitise of a partition (R429 to R431). -/
structure Sanitise where
  state : Nat := 0                      -- 0 NONE, 1 RUNNING, 2 DONE
  result : Nat := 0
  pattern : Nat := 0
  nonce : Nat := 0
  begun : Nat := 0
  cert : List Byte := []
  deriving DecidableEq, Repr

/-- The rope engine's view of one partition (R252, R253). -/
structure Rope where
  round : Nat := 0                      -- next round kernel to start
  ownEnded : Nat := 0                   -- rounds of its own that have ended
  prevEnded : Table Int := []           -- by round: ended messages from PREV, less the earlier steps that had the round
  nextEnded : Table Int := []           -- likewise from NEXT
  abandoned : Bool := false
  deriving DecidableEq, Repr

/-- A partition: cache and serving registers, belays, slots, budgets, requests (chapters 08, 10, 12, 15, 16, 19). -/
structure Part where
  belays : Table Belay := []
  arrivalsIn : List (Nat × Nat × Nat × Nat) := []  -- arrivals on their way: core, queue, belay, context (R202)
  releases : List (Nat × Nat × Nat) := []    -- releases on their way: core, belay, GEN
  lastCtx : Nat := 63                        -- round robin of dispatch (R213; log 13)
  saveSeq : Nat := 0                         -- order of saves (R213)
  kvgeom : Quad := 0
  kvptb : Quad := 0
  kvframes : Quad := 0
  kvgrans : Quad := 0
  freeFrames : Nat := 0                      -- KVFREE FRAMES
  freeGrans : Nat := 0                       -- KVFREE GRANULES
  released : List (Nat × Nat) := []          -- frames coded away: stack, frame (R268)
  pdbase : Quad := 0
  evictions : Nat := 0
  collisions : Nat := 0
  dir : List DirEntry := []                  -- least recently hit first
  bivbase : Quad := 0
  bivsize : Quad := 0
  ropecfg : Quad := 0
  rope : Rope := {}
  chunkmax : Nat := 0
  rowsmax : Nat := 0
  seqmax : Nat := 0
  srvCtx : Nat := 0
  srvEn : Bool := false
  srvOff : Bool := false                     -- EN written 0, effective at the next boundary (R278)
  klist : Quad := 0
  bdbase : Quad := 0
  steps : Nat := 0                           -- STEPS, and the number of the next step
  lastFault : Nat := 0
  phase : StepPhase := .idle
  jobs : List Job := []                      -- pieces of the boundary still to run (R289)
  wake : Bool := false                       -- a boundary is due although no step runs
  stalledFns : List Nat := []                -- functions whose rings stalled this boundary (R286)
  bndCycles : Nat := 0
  runPeriods : Nat := 0
  kidx : Nat := 0                            -- kernel starts of the step issued
  kpending : Bool := false                   -- a step kernel is pending or runs
  stepFault : Option Nat := none             -- the step is abandoned with this status (R294)
  batch : List BatchEntry := []
  slots : Table Slot := []
  joined : Nat := 0
  reqs : List Request := []
  owed : List Record := []
  wroteFns : List Nat := []                  -- functions whose rings this boundary wrote (R355)
  vt : Table Nat := []
  prevIdents : List Nat := []
  balance : Table Int := []
  refill : Table Nat := []
  weights : Table Nat := []
  epochCount : Nat := 0                      -- periods [K] since the last refill (R296)
  epochLen : Nat := 50000000                 -- EPOCH, PROMPT_WEIGHT, BUDGET_CTL in force (R295)
  promptW : Nat := 64
  budgets : Bool := false
  spillOn : Bool := true
  accounts : Table Account := []
  unattributed : List Nat := [0, 0, 0]
  hostUse : List Nat := [0, 0]               -- host bytes in and out not yet counted in UNATTRIBUTED (R297)
  linkUse : Nat := 0                         -- bytes that other nodes and the host moved over tether links, not yet in UNATTRIBUTED's energy (R161, R311)
  stepUse : List Nat := []                   -- what the step's kernels have used: 4 engine times, 6 byte counts, energy (R298)
  parked : List Nat := []                    -- slots parked, in order (R249)
  accept0 : Nat := 0
  accept1 : Nat := 0
  accepted : Bool := false                   -- ACCEPT0 written since start (R361)
  variants : Table Nat := []                 -- 32-byte records (R238)
  interleave : Nat := 0
  tensorView : Nat := 0
  coupling : Nat := 0                        -- 0x1220
  routes : Table Nat := []
  ropePorts : Option Nat := none             -- none: the default of R306
  test : TestUnit := {}
  cal : TestUnit := {}
  sanitise : Sanitise := {}
  outstanding : Table OutReq := []           -- by tag (R310, R315)
  nextTag : Nat := 0
  out : Bool := false                        -- PART_DOWN (R398)
  deriving DecidableEq, Repr

/-! ## Fabric ports (chapter 13) -/

/-- STATE of a fabric port (R305, R306), in its encoding. -/
inductive PortState where
  | disabled
  | down
  | training
  | up
  deriving DecidableEq, Repr

/-- A fabric port (R303 to R306). -/
structure Port where
  en : Bool := true
  dateline : Bool := false
  state : PortState := .down
  peerPort : Nat := 0
  peerNode : Nat := 0
  peerRole : Nat := 0
  retrains : Nat := 0
  replays : Nat := 0
  discarded : Nat := 0
  txSeq : Nat := 0                      -- SEQ of the next flit sent
  rxSeq : Nat := 4095                   -- SEQ of the last flit accepted: ACK
  nak : Bool := false                   -- a NAK is owed (R304)
  gap : Bool := false                   -- flits are discarded until the replay arrives
  replay : List (Nat × BitVec 2048) := []  -- unacknowledged flits (R304)
  resend : List (BitVec 2048) := []     -- flits being replayed
  stuck : Nat := 0                      -- replays without ACK progress
  credits : Table Nat := []             -- slot credits held, 2 * class + lane
  owed : Table Nat := []                -- slot credits to return
  egress : List (Nat × List (BitVec 128)) := []  -- operations queued: 2 * class + lane, their slots
  sending : List (BitVec 128) := []     -- slots of operations begun and not yet in a flit
  partialOp : List (BitVec 128) := []   -- slots of an operation being received
  arrived : List FabOp := []            -- operations received for this node
  retried : Bool := false               -- a failed training attempt; the next waits its interval (R305)
  testPiece : Bool := false
  deriving DecidableEq, Repr

/-! ## Host port (chapter 15) -/

/-- Ring registers of a function (R283). -/
structure Ring where
  cfg : Quad := 0                       -- ADDR, EN, ORDER
  tail : Nat := 0
  head : Nat := 0
  wraps : Nat := 0                      -- completion ring: records written since EN was set, for PHASE (R286)
  deriving DecidableEq, Repr

/-- A PCI function (R344 to R349, R363 to R367). -/
structure Func where
  rq : Ring := {}
  cq : Ring := {}
  idrange : Nat := 0
  refused : Nat := 0
  cqstalls : Nat := 0
  ctl : Nat := 0                        -- FUNCCTL
  abortedSeqs : Nat := 0
  abortedKernels : Nat := 0
  holes : Nat := 0
  quiescing : Bool := false
  disabled : Bool := false
  d3hot : Bool := false
  ctxmask : Nat := 0                    -- VFMAP of a VF (R349)
  apsize : Nat := 0
  apbase : Nat := 0
  deriving DecidableEq, Repr

/-- STATE of the CXL link (R368). -/
inductive LinkState where
  | down
  | training
  | up
  deriving DecidableEq, Repr

/-- An access of the host that waits for back-invalidation (R358), or behind a BAR4 write of its function that does (R352, R359):
writes and reads, and KGO and CSGO with KSTART and CSSRC as they stood. -/
inductive HostAccess where
  | barWrite (fn offset : Nat) (data : List Byte)
  | barRead (fn bar offset len : Nat)
  | kgo (fn ctx : Nat) (kd : BitVec 512)
  | csgo (fn ctx : Nat) (value : Quad) (src : Nat)
  | memRead (hpa : Nat) (tracked : Bool)
  deriving DecidableEq, Repr

/-- The host port (R342, R357, R358, R368). -/
structure HostPort where
  link : LinkState := .down
  width : Nat := 0
  ideMem : Bool := false
  ideIo : Bool := false
  recoveries : Nat := 0
  replays : Nat := 0
  ideFailures : Nat := 0
  hdmBase : Nat := 0
  hdmSize : Nat := 0
  hdmOn : Bool := false
  hdmError : Bool := false
  filter : List Nat := []               -- tracked lines of P0, least recently used first
  snoops : List (Nat × Bool) := []      -- snoops outstanding: line, BISnpInv?
  granted : List Nat := []              -- lines whose BISnpData was answered and whose reader has not read yet (R358)
  waits : List HostAccess := []         -- accesses of the host that wait for back-invalidation, in order (R358)
  funcs : Table Func := []
  deriving DecidableEq, Repr

/-! ## Dictionary (chapter 16) -/

/-- Staging of a DOMAIN write (R379). -/
structure Staging where
  index : Nat
  sub : Nat
  bytes : List Byte
  deriving DecidableEq, Repr

/-- What the controller keeps for one requester without limit of number (R379, R421, R428). -/
structure ReqState where
  staging : Option Staging := none
  readFrom : Option Nat := none         -- READ_FROM as written; none: the default (R32)
  spdm : List Byte := []
  deriving DecidableEq, Repr

/-- A write of a stored entry that waits for flash before its answer (R33, R384): the answer, the value before, and the
Cairn record that the entry causes. -/
structure StoredWrite where
  who : Requester
  seq : Nat
  answer : List Byte
  key : Nat                             -- 256 * index + subindex
  old : Nat
  grade : Option (Nat × Nat) := none    -- GRADE_CHANGE: old and new
  deriving DecidableEq, Repr

/-- The dictionary's own state. -/
structure Dict where
  vals : Table Nat := []                -- entries no other field holds, at 256 * index + subindex
  defaults : Table Nat := []            -- their values after R32, where the image gives one
  sizes : Table Nat := []               -- current sizes of RW DOMAINs written since start
  reqs : List (Requester × ReqState) := []
  lasts : List (Requester × Nat × List Byte) := []  -- SEQ and response of each requester's last request, oldest first (R382)
  snaps : List (Requester × Staging) := []          -- snapshots, oldest first (R380)
  flash : Option StoredWrite := none
  queue : List (Requester × List Byte) := []        -- requests that wait for the controller, oldest first (R376, R383)
  requests : Nat := 0
  malformed : Nat := 0
  droppedFull : Nat := 0
  deriving DecidableEq, Repr

/-! ## Power and thermal (chapter 18) -/

/-- The governor and the sensors (R403 to R415). -/
structure Power where
  raw : List Int := []                  -- 1/16 °C, of the last round; none before the first (log 14)
  eff : List Int := []                  -- 1/32 °C
  rails : List (Nat × Nat) := []        -- mV, 0.1 A
  suspect : List Nat := []
  nA : Nat := 0
  nS : Nat := 0
  tA : Table Nat := []
  tS : Table Nat := []
  stepA : Table Nat := []
  stepS : Table Nat := []
  limit : Table Nat := []               -- VDD_A limit in force, by C-die, in 1/32 A; unlisted before the first round
  watts : Nat := 0                      -- P of the last round and the highest, in 0.1 mW
  peak : Nat := 0
  capRounds : Nat := 0
  rounds : Nat := 0
  trip : Nat := 0
  trims : List Nat := []                -- dies with new offset trims since start (R388)
  deriving DecidableEq, Repr

/-! ## Non-volatile memory (chapters 01, 17, 19) -/

/-- SHA-256 of no bytes. -/
def emptySha : List Byte :=
  [0xe3, 0xb0, 0xc4, 0x42, 0x98, 0xfc, 0x1c, 0x14, 0x9a, 0xfb, 0xf4, 0xc8, 0x99, 0x6f, 0xb9, 0x24,
   0x27, 0xae, 0x41, 0xe4, 0x64, 0x9b, 0x93, 0x4c, 0xa4, 0x95, 0x99, 0x1b, 0x78, 0x52, 0xb8, 0x55]

/-- A configuration image or overlay in flash (R32, R34): its bytes, the SHA-256 it carries, the entries it sets. The base image's
bytes are those beside its stored entries, and its hash is over the whole (`State.baseBytes`). -/
structure ConfigImage where
  bytes : List Byte := []
  hash : List Byte := emptySha
  entries : List (Nat × Nat) := []      -- 256 * index + subindex, value
  deriving DecidableEq, Repr

/-- A Cairn slot (R423). -/
structure CairnRec where
  seq : Nat
  type : Nat
  start : Nat
  periods : Nat
  payload : List Byte
  prev : List Byte
  void : Bool := false
  deriving DecidableEq, Repr

/-- Fuses, flash and latches: what a start does not clear. -/
structure NonVolatile where
  serial : List Byte := List.replicate 16 48
  mac : Nat := 0
  grade : Nat := 0x0C
  svnFloor : Nat := 0
  rootKeyHash : List Byte := List.replicate 32 0
  certChain : List Byte := []
  testStamp : Nat := 0
  fw0 : List Byte := []
  fw1 : List Byte := []
  fwActive : Nat := 0
  failMarker : Nat := 0                 -- slots tried, bit by bit (R395)
  base : ConfigImage := {}
  overlays : Table ConfigImage := []
  baseVersion : Nat := 0
  mode : Nat := 0                       -- 0x1200.01
  node : Nat := 0                       -- 0x1600.01
  role : Nat := 0                       -- 0x1600.02
  nextGrade : Nat := 0x0C               -- 0x1310.01
  cairn : List CairnRec := []           -- slot order
  dropped : Nat := 0
  starts : Nat := 0
  prevEnd : Nat := 0                    -- how the start in progress would be seen to have ended (R399)
  lastMode : Nat := 0
  lossLatch : Bool := false
  latchEnd : Bool := false              -- the last end was the one that set the latch (R20, R399)
  deriving DecidableEq, Repr

/-- A start ends with a code of R399. -/
def NonVolatile.ends (nv : NonVolatile) (code : Nat) : NonVolatile := { nv with prevEnd := code, latchEnd := false }

/-! ## Start (chapter 17) -/

/-- How far the part has come (R393, R398, R401, R412, R20). -/
inductive Phase where
  | held                                -- RESET_N low
  | railLow                             -- a rail out of range
  | done (stage : Nat)                  -- stages 1 to 8 complete
  | stopped                             -- the start stopped
  | live                                -- stage 9 complete
  | stopping                            -- shutdown steps 2 to 4
  | shutDown                            -- SHDN_DONE
  | tripped (mgmt : Bool)               -- thermal trip; whether the dictionary still answers
  | pllLost (mgmt : Bool)               -- PLL lock lost
  deriving DecidableEq, Repr

/-- Pins and start state. -/
structure Startup where
  resetN : Bool := false
  perstN : Bool := true
  shdnReqN : Bool := true
  startOk : Bool := false
  shdnDone : Bool := false
  thermtripN : Bool := true
  railsOk : Bool := true
  phase : Phase := .held
  stage : Nat := 0
  cause : Nat := 0
  stoppedAt : Bool := false
  prevEnd : Nat := 0
  fwSlot : Nat := 0
  fwFallback : Bool := false
  partDown : Nat := 0
  stackDown : Nat := 0
  lanesFailed : List (Nat × Nat) := []  -- stage 5 channels, for the records of stage 9
  mapped : List (Nat × Nat) := []       -- map-outs applied at stage 5 (R337)
  shutdownHeld : Bool := false          -- a shutdown asked for during the start (R402)
  mode : Nat := 0                       -- ACTIVE_MODE 0x1200.02
  imageHash : List Byte := []           -- 0x1201.03
  fw : List Byte := []                  -- the running image
  periods : Nat := 0                    -- periods [K] of I0 since stage 9
  lastCommit : Nat := 0                 -- periods at the last interval block
  histC : Table Nat := []               -- rounds by hottest C-die reading since the last block (R425)
  histD : Table Nat := []
  energyMark : Nat := 0                 -- sums at the last interval block: µJ, sectors corrected, uncorrectable lines
  ceMark : Nat := 0
  ueMark : Nat := 0
  deriving DecidableEq, Repr

/-! ## Security and boundary scan (chapters 19 and 20) -/

/-- Firmware staging and the SPDM responder (R418, R421). -/
structure Security where
  fwOwner : Option Requester := none
  fwStage : List Byte := []
  version : List Requester := []        -- requesters that have had GET_VERSION answered
  caps : List Requester := []
  algos : List Requester := []
  handshakes : List (Requester × Nat) := []  -- key exchange begun
  sessions : List (Requester × Nat) := []
  nextSession : Nat := 1
  deriving DecidableEq, Repr

/-- An instruction of a die's TAP (R440). -/
inductive TapInstr where
  | bypass
  | idcode
  | sample
  | extest
  | extestPulse
  | extestTrain
  | startstat
  | fwload
  deriving DecidableEq, Repr

/-- Boundary scan: the instruction in force and the preloaded cells of each die. -/
structure Jtag where
  ir : Table TapInstr := []
  cells : Table (List Byte) := []
  driving : List Nat := []              -- dies whose boundary cells drive their balls
  deriving DecidableEq, Repr

/-! ## What the part sends -/

/-- Requests that the part makes of host memory: RdCurr and ItoMWr of CXL.cache, reads and writes of CXL.io (R342, R355). -/
inductive HostReq where
  | rdCurr
  | itoMWr
  | memRead
  | memWrite
  deriving DecidableEq, Repr

/-- What leaves the part at a port, in order. -/
inductive Out where
  | hostWrite (req : HostReq) (fn addr : Nat) (data : List Byte)
  | hostRead (req : HostReq) (fn addr len : Nat)
  | msix (fn vec : Nat)
  | dict (who : Requester) (msg : List Byte)
  | neighbour (mac : Nat)
  | flit (port : Nat) (flit : BitVec 2048)
  | hello (port node peerPort role : Nat)
  | barData (fn : Nat) (data : List Byte)
  | barPoison (fn : Nat)
  | barUnsupported (fn : Nat)
  | configRetry (fn : Nat)
  | configData (fn reg : Nat) (value : List Byte)
  | memData (hpa : Nat) (data : List Byte)
  | memPoison (hpa : Nat)
  | memCmp (hpa : Nat)
  | bisnp (line : Nat) (inv : Bool)
  | snoopRsp (hpa : Nat)
  | spdm (who : Requester) (msg : List Byte)
  | doe (fn : Nat) (data : List Byte)
  | mailbox (data : List Byte)
  | tdo (die : Nat) (width value : Nat)
  deriving DecidableEq, Repr

/-! ## The state -/

structure State where
  nv : NonVolatile := {}
  start : Startup := {}
  mem : MemSys := {}
  engines : Table Engine := []
  cores : Table Core := []
  contexts : Table Context := []        -- 64 * partition + context
  parts : Table Part := []
  ports : Table Port := []
  host : HostPort := {}
  dict : Dict := {}
  power : Power := {}
  sec : Security := {}
  jtag : Jtag := {}
  pending : List Instr := []
  out : List Out := []
  deriving DecidableEq, Repr

/-- Reasons the model stops. -/
inductive Fault where
  /-- Raised by RAIL_FAULT with a rail above its absolute maximum: R441 says that the part gives no behaviour there.
  Safe: the model stops where the manual promises nothing. -/
  | beyondAbsoluteLimits
  deriving DecidableEq, Repr

/-- Reasons the model gives a command no meaning. -/
inductive Refusal where
  /-- Raised by an arm of `exec` whose command has no meaning yet. Safe: nothing can be proved of it. -/
  | notModelled (mnemonic : String)
  deriving DecidableEq, Repr

/-- The bytes of the GENESIS record's payload (R425): serial at 24, fused grade at 40, the tester's stamp at 48. -/
def genesisPayload (nv : NonVolatile) : List Byte :=
  nv.serial ++ leBytes 1 nv.grade ++ List.replicate 7 0 ++ leBytes 8 nv.testStamp

/-- The part as it leaves the test, with supplies present and RESET_N low (logs 1 to 4 name what the manual leaves open). -/
def State.reset : State :=
  { nv := { cairn := [⟨0, 1, 0, 0, genesisPayload {}, List.replicate 32 0, false⟩]
            base := { hash := sha256 (Config.baseImage [] ([0, 0, 0, 0x0C] ++ List.replicate 16 0)) } } }

end Sys2Proof.Machine
end

