-- ==== Sys2Proof/Machine/Memory.lean ====
section
/-! DEFINITION. Named operations over the memories: byte cells in canonical form, the lines of a stack with fill ranges,
poison, ECC, remap words and write combining (chapter 14), scratch and the command stores. -/

namespace Sys2Proof.Machine

/-! ## Cells: addresses rising, no entry equal to what an unlisted address reads as -/

/-- The byte listed at `a`, or `d`. -/
def cellGet (d : Byte) : List Host.Cell → Nat → Byte
  | [], _ => d
  | (k, b) :: t, a => if k = a then b else cellGet d t a

/-- Write byte `b` at `a`, where an unlisted `a` reads as `d`. -/
def cellPut (d : Byte) : List Host.Cell → Nat → Byte → List Host.Cell
  | [], a, b => if b = d then [] else [(a, b)]
  | (k, v) :: t, a, b =>
    if k < a then (k, v) :: cellPut d t a b
    else if k = a then (if b = d then t else (a, b) :: t)
    else if b = d then (k, v) :: t else (a, b) :: (k, v) :: t

/-- Write bytes at consecutive addresses from `a`; `d` gives what each address reads as unlisted. -/
def cellPuts (d : Nat → Byte) : List Host.Cell → Nat → List Byte → List Host.Cell
  | l, _, [] => l
  | l, a, b :: bs => cellPuts d (cellPut (d a) l a b) (a + 1) bs

/-- Write the bytes that a mask names. -/
def cellMask (d : Nat → Byte) : List Host.Cell → Nat → List (Option Byte) → List Host.Cell
  | l, _, [] => l
  | l, a, none :: bs => cellMask d l (a + 1) bs
  | l, a, some b :: bs => cellMask d (cellPut (d a) l a b) (a + 1) bs

/-- `n` bytes from `a`. -/
def cellRead (d : Nat → Byte) (l : List Host.Cell) (a n : Nat) : List Byte :=
  (List.range n).map (fun i => cellGet (d (a + i)) l (a + i))

/-- Every listed address is above `lo`, addresses rise, and no byte equals the unlisted one. -/
def cellsFrom (d : Nat → Byte) : Option Nat → List Host.Cell → Bool
  | _, [] => true
  | lo, (k, b) :: t => (match lo with | none => true | some j => decide (j < k)) && b != d k && cellsFrom d (some k) t

/-- The canonical form of a list of cells. -/
def cellsWf (d : Nat → Byte) (l : List Host.Cell) : Bool := cellsFrom d none l

/-! ## Lines of one stack -/

/-- What a byte of a stack reads as when it is not listed: its fill's pattern, or 0 in a line no fill covers (log 5). -/
def fillByte (fs : List Fill) (o : Nat) : Byte :=
  match fs with
  | [] => 0
  | f :: t => if f.lo ≤ o / 64 ∧ o / 64 < f.hi then BitVec.ofNat 8 (f.pattern >>> (8 * (o % 8))) else fillByte t o

/-- Whether a fill covers the line. -/
def filled (fs : List Fill) (line : Nat) : Bool := fs.any (fun f => decide (f.lo ≤ line) && decide (line < f.hi))

/-- Usable channels (R322, R337); a stack out of use has none (R398). -/
def Stack.channels (st : Stack) : List Nat :=
  if st.down then [] else (List.range 32).filter (fun c => !st.applied.testBit c)

/-- Usable channels U. -/
def Stack.usable (st : Stack) : Nat := st.channels.length

/-- Usable capacity in bytes (R322). -/
def Stack.capacity (st : Stack) : Nat := st.usable * 2 ^ 31

/-- Pseudo-channels of the usable channels, ascending (R322). -/
def Stack.pcs (st : Stack) : List Nat := st.channels.flatMap (fun c => [2 * c, 2 * c + 1])

/-- The pseudo-channel that holds a line (R322). -/
def Stack.pcOf (st : Stack) (line : Nat) : Nat := st.pcs.getD (line / 4 % max 1 (2 * st.usable)) 0

/-- Whether the line's channel has failed hard (R335). -/
def Stack.offline (st : Stack) (line : Nat) : Bool := st.failed.testBit (st.pcOf line / 2)

/-- Whether an access to the line has to wait: its pseudo-channel is inside a refresh window, or, for link traffic, a
transfer of it is being resent (R334, R338). A failed channel keeps nothing waiting (R335). `se` says that the stack engine asks. -/
def Stack.closed (st : Stack) (se : Bool) (line : Nat) : Bool :=
  let p := st.pcOf line
  !st.offline line && (st.refreshing.contains p || (!se && Table.get 0 st.retries p != 0))

/-- The 64 bytes that DRAM or a spare line holds. -/
def Stack.lineBytes (st : Stack) (line : Nat) : List Byte := cellRead (fillByte st.fills) st.bytes (64 * line) 64

/-- Whether the line was written since start (R326). -/
def Stack.written (st : Stack) (line : Nat) : Bool := filled st.fills line || Table.has st.marks line

/-- Whether the line holds the poison codeword (R332). -/
def Stack.poisoned (st : Stack) (line : Nat) : Bool := Table.get .good st.marks line == .poisoned

/-- The line of a valid remap word. -/
def Stack.remapped (st : Stack) (line : Nat) : Bool := st.remap.any (fun w => w.2.valid && w.2.line == line)

/-- Replace a line's contents; the DRAM check bits are new, so symbol errors are gone. -/
def Stack.store (st : Stack) (line : Nat) (bs : List Byte) : Stack :=
  { st with
    bytes := cellPuts (fillByte st.fills) st.bytes (64 * line) (fit 0 64 bs)
    marks := Table.set st.marks line .good
    syms := Table.del (Table.del st.syms (2 * line)) (2 * line + 1) }

/-- Mark a line with the poison codeword (R332). -/
def Stack.poison (st : Stack) (line : Nat) : Stack :=
  { st.store line (cellRead (fillByte st.fills) [] (64 * line) 64) with marks := Table.set st.marks line .poisoned }

/-- A channel fails hard (R335): later accesses fault, its buffered lines and its transfers under way are lost, PENDING is set. -/
def Stack.failChannel (st : Stack) (c : Nat) : Stack :=
  if st.failed.testBit c then st
  else
    { st with
      failed := st.failed ||| 2 ^ c
      pending := if st.applied.testBit c then st.pending else st.pending ||| 2 ^ c
      retries := st.retries.filter (fun r => r.1 / 2 != c)
      wc := st.wc.filter (fun w => st.pcOf w.line / 2 != c) }

/-- Count an uncorrectable line and poison it (R332, R333, R335, R340). -/
def Stack.uncorrectable (st : Stack) (line : Nat) : Stack :=
  let ue := if st.ueLines.contains line then st.ueLines else line :: st.ueLines
  let st := { st.poison line with ueCount := satAdd 32 st.ueCount 1, lastUe := line, ueLines := ue }
  let c := st.pcOf line / 2
  if 64 ≤ (ue.filter (fun l => st.pcOf l / 2 == c)).length then st.failChannel c else st

/-- Install a remap word in a free place of the line's pseudo-channel, or count REMAP_FULL (R331). -/
def Stack.install (st : Stack) (line : Nat) (auto : Bool) : Stack :=
  if st.remapped line then st
  else
    let p := st.pcOf line
    match (List.range 8).find? (fun w => !(Table.get {} st.remap (8 * p + w)).valid) with
    | some w =>
      { st with
        remap := Table.set st.remap (8 * p + w) { valid := true, auto := auto, line := line }
        syms := Table.del (Table.del st.syms (2 * line)) (2 * line + 1)
        ceLog := st.ceLog.map (fun e => if e.line = line then { e with remapped := true } else e) }
    | none => { st with remapFull := satAdd 16 st.remapFull 1 }

/-- Log a corrected sector (R330): COUNT of a known line, a free entry, or in place of the oldest entry with COUNT 1. -/
def Stack.logCorrection (st : Stack) (line symbol sector now : Nat) : Stack :=
  if st.ceLog.any (fun e => e.line == line) then
    { st with ceLog := st.ceLog.map (fun e =>
        if e.line = line then { e with symbol := symbol, sector := sector, count := satAdd 32 e.count 1 } else e) }
  else
    let e : CeEntry := { line := line, pc := st.pcOf line, symbol := symbol, sector := sector, count := 1,
                         first := now % 2 ^ 32, remapped := st.remapped line
                         age := (st.ceLog.map CeEntry.age).foldl max 0 + 1 }
    if st.ceLog.length < 32 then { st with ceLog := st.ceLog ++ [e] }
    else match (st.ceLog.filter (fun x => x.count == 1)).map CeEntry.age with
      | [] => { st with logOverflow := satAdd 16 st.logOverflow 1 }
      | a :: rest => { st with ceLog := st.ceLog.map (fun x => if x.age = rest.foldl min a then e else x) }

/-- What a read of one line answers: its bytes, or the status of its failure. -/
inductive LineRes where
  | ok (bytes : List Byte)
  | bad (status : Nat)
  deriving DecidableEq, Repr

/-- What the base die needs to know beside the stack: the counter of free values, the period count and REMAP_THRESHOLD. -/
structure DieEnv where
  fresh : Nat
  now : Nat
  threshold : Nat
  deriving DecidableEq, Repr

/-- The single symbol error of a sector, if it has exactly one. -/
def oneSymbol (l : List Nat) : Option Nat := match l with | [x] => some x | _ => none

/-- Correct a sector that has one symbol in error: it is counted and, unless the line is uncorrectable, logged and written back (R330,
R333). The Bool says whether the line's COUNT now reaches the threshold (R331). -/
def Stack.correctSector (st : Stack) (e : DieEnv) (line sec : Nat) (logs : Bool) : Stack × Bool :=
  match oneSymbol (Table.get [] st.syms (2 * line + sec)) with
  | none => (st, false)
  | some sym =>
    let st := { st with ceCount := satAdd 32 st.ceCount 1, syms := Table.del st.syms (2 * line + sec) }
    let st := if logs then st.logCorrection line sym sec e.now else st
    (st, st.ceLog.any (fun x => logs && x.line == line && x.count == e.threshold))

/-- Correct both sectors of a line; it is remapped as its COUNT reaches the threshold (R330, R331). -/
def Stack.correct (st : Stack) (e : DieEnv) (line : Nat) (logs : Bool) : Stack :=
  let a := st.correctSector e line 0 logs
  let b := a.1.correctSector e line 1 logs
  if a.2 || b.2 then b.1.install line true else b.1

/-- A checked read of a line from the DRAM or its spare (R326, R329, R331, R332). -/
def Stack.dramRead (st : Stack) (e : DieEnv) (line : Nat) : Stack × LineRes :=
  if st.poisoned line then (st, .bad 0x0201)
  else if st.remapped line then (st, .ok (st.lineBytes line))
  else if !st.written line then
    if Config.freeChoice e.fresh 0 = 0 then (st.uncorrectable line, .bad 0x0201)
    else
      let bs := (List.range 64).map (Config.freeByte e.fresh)
      (st.store line bs, .ok bs)
  else
    let s0 := Table.get [] st.syms (2 * line)
    let s1 := Table.get [] st.syms (2 * line + 1)
    let missed := fun (l : List Nat) (k : Nat) => decide (3 ≤ l.length) && decide (Config.freeChoice e.fresh k ≠ 0)
    let seen := fun (l : List Nat) (k : Nat) => decide (2 ≤ l.length) && !missed l k
    if seen s0 1 || seen s1 2 then ((st.correct e line false).uncorrectable line, .bad 0x0201)
    else if missed s0 1 || missed s1 2 then
      let junk := fun (m : Bool) (o : Nat) (bs : List Byte) =>
        if m then (List.range 32).map (fun i => Config.freeByte e.fresh (o + i)) else bs
      let old := st.lineBytes line
      let bs := junk (missed s0 1) 0 (old.take 32) ++ junk (missed s1 2) 32 (old.drop 32)
      ((st.correct e line true).store line bs, .ok bs)
    else
      let st := st.correct e line true
      (st, .ok (st.lineBytes line))

/-- Bytes of a mask laid over a line. -/
def overlay : List (Option Byte) → List Byte → List Byte
  | some b :: m, _ :: l => b :: overlay m l
  | none :: m, x :: l => x :: overlay m l
  | _, l => l

/-- A newer mask laid over an older one. -/
def mergeMask : List (Option Byte) → List (Option Byte) → List (Option Byte)
  | some b :: m, _ :: l => some b :: mergeMask m l
  | none :: m, x :: l => x :: mergeMask m l
  | _, l => l

/-- Whether a mask covers its whole line. -/
def fullMask (m : List (Option Byte)) : Bool := m.all Option.isSome

/-- The bytes of a full mask. -/
def maskBytes (m : List (Option Byte)) : List Byte := m.map (fun b => b.getD 0)

/-- A whole-line write reaches the DRAM: it clears poison, after remapping a poisoned line (R327, R331, R332). -/
def Stack.writeWhole (st : Stack) (line : Nat) (bs : List Byte) : Stack :=
  (if st.poisoned line then st.install line true else st).store line bs

/-- A buffered line leaves: whole, or by read-modify-write (R327, R328). -/
def Stack.leave (st : Stack) (e : DieEnv) (w : WcLine) : Stack :=
  let st := { st with wc := st.wc.filter (fun x => x.line != w.line) }
  if fullMask w.bytes then st.writeWhole w.line (maskBytes w.bytes)
  else match st.dramRead e w.line with
    | (st, .ok bs) => st.store w.line (overlay w.bytes bs)
    | (st, .bad _) => { st.poison w.line with poisonMerges := satAdd 16 st.poisonMerges 1 }

/-- Lines buffered for a pseudo-channel, least recently written first. -/
def Stack.buffered (st : Stack) (pc : Nat) : List WcLine := st.wc.filter (fun w => st.pcOf w.line == pc)

/-- Every buffered line leaves (R327: orderly shutdown, S_FILL, sanitise), but what a channel that fails meanwhile loses. -/
def Stack.flush (st : Stack) (e : DieEnv) : Stack := st.wc.foldl (fun st w => if st.wc.contains w then st.leave e w else st) st

/-- A read of a line by any side (R327 to R332, R335). -/
def Stack.readLine (st : Stack) (e : DieEnv) (line : Nat) : Stack × LineRes :=
  if st.offline line then (st, .bad 0x0204)
  else match st.wc.find? (fun w => w.line == line) with
    | some w =>
      if fullMask w.bytes then (st, .ok (maskBytes w.bytes))
      else
        let st := st.leave e w
        if st.offline line then (st, .bad 0x0204)
        else if st.poisoned line then (st, .bad 0x0201)
        else (st, .ok (st.lineBytes line))
    | none => st.dramRead e line

/-- A free line in the buffer of a line's pseudo-channel: of 16, the least recently written leaves (R327). -/
def Stack.makeRoom (st : Stack) (e : DieEnv) (line : Nat) : Stack :=
  match st.buffered (st.pcOf line) with
  | w :: rest => if 15 ≤ rest.length then st.leave e w else st
  | [] => st

/-- A write of the masked bytes of a line (R327, R335). The Bool says whether the write was taken; a failed channel drops it. -/
def Stack.writeLine (st : Stack) (e : DieEnv) (line : Nat) (m : List (Option Byte)) : Stack × Bool :=
  if st.offline line then (st, false)
  else if fullMask m then
    ({ st with wc := st.wc.filter (fun w => w.line != line) }.writeWhole line (maskBytes m), true)
  else match st.wc.find? (fun w => w.line == line) with
    | some w =>
      ({ st with wc := st.wc.filter (fun x => x.line != line) ++ [{ line := line, bytes := mergeMask m w.bytes }] }, true)
    | none =>
      let st := st.makeRoom e line
      if st.offline line then (st, false)
      else ({ st with wc := st.wc ++ [{ line := line, bytes := m }] }, true)

/-- Fill ranges with the lines [lo, hi) cut out. -/
def cutFills (lo hi : Nat) (fs : List Fill) : List Fill :=
  fs.flatMap (fun f =>
    (if f.lo < min f.hi lo then [{ f with hi := min f.hi lo }] else []) ++
    (if max f.lo hi < f.hi then [{ f with lo := max f.lo hi }] else []))

/-- Whole lines [lo, hi) written with a 64-bit pattern (R181, R430): valid check bits, no poison; failed channels keep nothing. -/
def Stack.fill (st : Stack) (lo hi pattern : Nat) : Stack :=
  let inside := fun (line : Nat) => decide (lo ≤ line) && decide (line < hi)
  { st with
    bytes := st.bytes.filter (fun c => !inside (c.1 / 64))
    fills := if lo < hi then { lo := lo, hi := hi, pattern := pattern } :: cutFills lo hi st.fills else st.fills
    marks := st.marks.filter (fun m => !inside m.1)
    syms := st.syms.filter (fun m => !inside (m.1 / 2)) }

/-- The canonical form of a stack's bytes. -/
def Stack.wf (st : Stack) : Bool := cellsWf (fillByte st.fills) st.bytes

/-! ## All memories -/

def MemSys.stack (m : MemSys) (s : Nat) : Stack := Table.get {} m.stk s
def MemSys.setStack (m : MemSys) (s : Nat) (st : Stack) : MemSys := { m with stk := Table.set m.stk s st }

/-- What a byte of a memory reads as where nothing was written: 0, or a free value of the part (R17, R388; log 2). -/
def baseByte (base : Option Nat) (o : Nat) : Byte :=
  match base with
  | none => 0
  | some n => Config.freeByte n o

/-- Unlisted bytes of core `c`'s scratch. -/
def MemSys.scratchByte (m : MemSys) (c o : Nat) : Byte := baseByte (Table.get none m.scratchBase c) o

/-- Unlisted bytes of a command-store bank, by its key. -/
def MemSys.bankByte (m : MemSys) (k o : Nat) : Byte := baseByte (Table.get none m.cmdBase k) o

/-- The canonical form of every memory of the part. -/
def Memory.wf (m : MemSys) : Bool :=
  m.stk.all (fun p => p.2.wf) && m.scratch.all (fun p => cellsWf (m.scratchByte p.1) p.2) &&
  m.cmdStore.all (fun p => cellsWf (m.bankByte p.1) p.2)

/-- `n` bytes of core `c`'s scratch. -/
def MemSys.scratchRead (m : MemSys) (c off n : Nat) : List Byte := cellRead (m.scratchByte c) (Table.get [] m.scratch c) off n

/-- Masked bytes into core `c`'s scratch. -/
def MemSys.scratchWrite (m : MemSys) (c off : Nat) (bs : List (Option Byte)) : MemSys :=
  { m with scratch := Table.set m.scratch c (cellMask (m.scratchByte c) (Table.get [] m.scratch c) off bs) }

/-- Zero core `c`'s scratch (R215). -/
def MemSys.scratchZero (m : MemSys) (c : Nat) : MemSys :=
  { m with scratch := Table.del m.scratch c, scratchBase := Table.del m.scratchBase c }

/-- Leave core `c`'s scratch undefined (R388). -/
def MemSys.scratchFree (m : MemSys) (c : Nat) : MemSys :=
  { m with scratch := Table.del m.scratch c, scratchBase := Table.set m.scratchBase c (some m.fresh), fresh := m.fresh + 1 }

/-- Zero both command-store banks of a core (R430). -/
def MemSys.banksZero (m : MemSys) (c : Nat) : MemSys :=
  { m with cmdStore := Table.del (Table.del m.cmdStore (2 * c)) (2 * c + 1), cmdBase := Table.del (Table.del m.cmdBase (2 * c)) (2 * c + 1) }

/-- Scratch and command stores hold undefined values after a start (R17). -/
def MemSys.coresFree (m : MemSys) : MemSys :=
  { m with scratch := [], cmdStore := [], fresh := m.fresh + 144
           scratchBase := (List.range 48).map (fun c => (c, some (m.fresh + c)))
           cmdBase := (List.range 96).map (fun k => (k, some (m.fresh + 48 + k))) }

/-- `n` bytes of bank `b` of core `c`'s command store. -/
def MemSys.bankRead (m : MemSys) (c b off n : Nat) : List Byte := cellRead (m.bankByte (2 * c + b)) (Table.get [] m.cmdStore (2 * c + b)) off n

/-- Masked bytes into a command-store bank. -/
def MemSys.bankWrite (m : MemSys) (c b off : Nat) (bs : List (Option Byte)) : MemSys :=
  { m with cmdStore := Table.set m.cmdStore (2 * c + b) (cellMask (m.bankByte (2 * c + b)) (Table.get [] m.cmdStore (2 * c + b)) off bs) }

/-- A read of one stack line through its base die. -/
def MemSys.readLine (m : MemSys) (now threshold s line : Nat) : MemSys × LineRes :=
  let (st, r) := (m.stack s).readLine ⟨m.fresh, now, threshold⟩ line
  ({ m.setStack s st with fresh := m.fresh + 1 }, r)

/-- A write of masked bytes of one stack line through its base die. -/
def MemSys.writeLine (m : MemSys) (now threshold s line : Nat) (bs : List (Option Byte)) : MemSys × Bool :=
  let (st, r) := (m.stack s).writeLine ⟨m.fresh, now, threshold⟩ line bs
  ({ m.setStack s st with fresh := m.fresh + 1 }, r)

end Sys2Proof.Machine
end

