-- ==== Sys2Proof/Machine/Ops.lean ====
section
/-! DEFINITION. Shared operations: what each partition holds, access to the instances, Cairn, registers as the local map
shows them, and the reads and writes of an engine at work. -/

namespace Sys2Proof.Machine

/-! ## Partitions (R3, R28) -/

/-- Partitions of a mode. -/
def nParts (mode : Nat) : Nat := if mode = 0 then 1 else if mode = 1 then 2 else 4

def partOfDie (mode d : Nat) : Nat := d * nParts mode / 4
def partOfCore (mode c : Nat) : Nat := partOfDie mode (c / 12)
def partOfStack (mode s : Nat) : Nat := partOfDie mode (s / 4)
def partOfPort (mode p : Nat) : Nat := p * nParts mode / 8
/-- The lowest C-die of a partition. -/
def lowDie (mode p : Nat) : Nat := p * (4 / nParts mode)
def partDies (mode p : Nat) : List Nat := (List.range 4).filter (fun d => partOfDie mode d == p)
def partCores (mode p : Nat) : List Nat := (List.range 48).filter (fun c => partOfCore mode c == p)
def partStacks (mode p : Nat) : List Nat := (List.range 16).filter (fun s => partOfStack mode s == p)
def partPorts (mode p : Nat) : List Nat := (List.range 8).filter (fun q => partOfPort mode q == p)
/-- Bit mask of a partition's cores. -/
def coreMask (mode p : Nat) : Nat := (partCores mode p).foldl (fun a c => a + 2 ^ c) 0
def slotsPer (mode : Nat) : Nat := 4096 / nParts mode
def ctxPer (mode : Nat) : Nat := 64 / nParts mode
def identsPer (mode : Nat) : Nat := 1024 / nParts mode
def variantsPer (mode : Nat) : Nat := 256 / nParts mode
/-- Local address at which a partition's stack range begins. -/
def stackBase (mode p : Nat) : Nat := lowDie mode p * 2 ^ 38
/-- Bytes of a partition's stack range. -/
def stackSpan (mode : Nat) : Nat := 2 ^ 40 / nParts mode

/-! ## Instances -/

def State.mode (s : State) : Nat := s.start.mode
def State.core (s : State) (c : Nat) : Core := Table.get {} s.cores c
def State.setCore (s : State) (c : Nat) (v : Core) : State := { s with cores := Table.set s.cores c v }
def State.context (s : State) (p x : Nat) : Context := Table.get {} s.contexts (64 * p + x)
def State.setContext (s : State) (p x : Nat) (v : Context) : State := { s with contexts := Table.set s.contexts (64 * p + x) v }
def State.part (s : State) (p : Nat) : Part := Table.get {} s.parts p
def State.setPart (s : State) (p : Nat) (v : Part) : State := { s with parts := Table.set s.parts p v }
def State.engine (s : State) (k : Nat) : Engine := Table.get {} s.engines k
def State.setEngine (s : State) (k : Nat) (v : Engine) : State := { s with engines := Table.set s.engines k v }
def State.port (s : State) (q : Nat) : Port := Table.get {} s.ports q
def State.setPort (s : State) (q : Nat) (v : Port) : State := { s with ports := Table.set s.ports q v }
def State.func (s : State) (f : Nat) : Func := Table.get {} s.host.funcs f
def State.setFunc (s : State) (f : Nat) (v : Func) : State :=
  { s with host := { s.host with funcs := Table.set s.host.funcs f v } }
/-- Something leaves the part. -/
def State.emit (s : State) (o : Out) : State := { s with out := s.out ++ [o] }
/-- A dictionary value that no other field holds, with its default (R32). -/
def State.dictVal (s : State) (index sub dflt : Nat) : Nat :=
  Table.get (Table.get dflt s.dict.defaults (256 * index + sub)) s.dict.vals (256 * index + sub)
/-- The dictionary is live (R372): stage 9 is complete and no stop has come since. -/
def State.isLive (s : State) : Bool := s.start.phase == .live
/-- Stage 9 is complete and the links are not taken down: the part answers the host (R394, R401). -/
def State.pastNine (s : State) : Bool := s.isLive || s.start.phase == .stopping
/-- ROLE 0x1600.02 in force: the overlay's until it is written, else the stored one (R32, R318). -/
def State.roles (s : State) : Nat := Table.get s.nv.role s.dict.defaults 0x160002
/-- Node number of a partition (R26). -/
def State.node (s : State) (p : Nat) : Nat := s.nv.node + p
/-- Whether partition `p` has accepted feature `n` (R361, R362). -/
def State.accepts (s : State) (p n : Nat) : Bool := (s.part p).accept0.testBit n
/-- The partition that a function serves, and which VF it is (0: the PF) (R344). -/
def funcPart (fn : Nat) : Nat := fn % 4
def funcVf (fn : Nat) : Nat := fn / 4
/-- Whether the active mode has the function. -/
def State.hasFunc (s : State) (fn : Nat) : Bool := decide (fn < 128) && decide (fn % 4 < nParts s.mode)

/-! ## Kernel start records (R80) -/

def kdBank (k : BitVec 512) : Nat := fld k.toNat 0 0
def kdCoupling (k : BitVec 512) : Nat := fld k.toNat 2 1
def kdEntry (k : BitVec 512) : Nat := fld k.toNat 26 16
def kdKid (k : BitVec 512) : Nat := fld k.toNat 63 32
def kdCores (k : BitVec 512) : Nat := fld k.toNat 111 64
def kdDt (k : BitVec 512) : Nat := fld k.toNat 191 128
def kdNt (k : BitVec 512) : Nat := fld k.toNat 255 192
def kdPb (k : BitVec 512) : Nat := fld k.toNat 319 256
def kdIdent (k : BitVec 512) : Nat := fld k.toNat 329 320
def kdReserved (k : BitVec 512) : Bool :=
  fld k.toNat 15 3 != 0 || fld k.toNat 31 27 != 0 || fld k.toNat 127 112 != 0 || fld k.toNat 511 330 != 0

/-- A kernel of `ctx` that has not ended keeps its bank live on its cores (R106). -/
def State.liveBank (s : State) (c b : Nat) : Bool :=
  s.contexts.any (fun x => match x.2.kernel with
    | some k => (kdCores k.kd).testBit c && kdBank k.kd == b
    | none => false)

/-! ## Cairn (R423 to R427) -/

/-- Slots of the ledger. -/
def cairnSlots : Nat := 1048576

/-- Bytes 0 to 223 of a record (R423). -/
def CairnRec.body (r : CairnRec) : List Byte :=
  leBytes 8 r.seq ++ leBytes 2 r.type ++ [0, 0] ++ leBytes 4 r.start ++ leBytes 8 r.periods ++
  fit 0 168 r.payload ++ fit 0 32 r.prev

/-- The 256 bytes of a slot. -/
def CairnRec.bytes (r : CairnRec) : List Byte :=
  r.body ++ List.replicate 32 (if r.void then 0 else 0xFF)

/-- The last good record's hash (R424). -/
def cairnHead (l : List CairnRec) : List Byte :=
  match l.reverse.find? (fun r => !r.void) with
  | some r => sha256 r.body
  | none => List.replicate 32 0

/-- Free slots. -/
def State.cairnFree (s : State) : Nat := cairnSlots - s.nv.cairn.length

/-- Append a record, or count it in DROPPED when no slot remains (R424, R427). -/
def State.cairn (s : State) (type : Nat) (payload : List Byte) : State :=
  if s.nv.cairn.length < cairnSlots then
    let r : CairnRec := { seq := s.nv.cairn.length, type := type, start := s.nv.starts, periods := s.start.periods,
                          payload := payload, prev := cairnHead s.nv.cairn }
    { s with nv := { s.nv with cairn := s.nv.cairn ++ [r] } }
  else { s with nv := { s.nv with dropped := satAdd 16 s.nv.dropped 1 } }

/-- Channels that failed between two memories: stack and channel. -/
def newFailures (old new : MemSys) : List (Nat × Nat) :=
  (List.range 16).flatMap (fun k =>
    ((List.range 32).filter (fun c => (new.stack k).failed.testBit c && !(old.stack k).failed.testBit c)).map
      (fun c => (k, c)))

/-- A request whose unit is lost before it completes is DONE with NOT_RUN (R392). -/
def TestUnit.lose (t : TestUnit) (items : List Nat) (u : Nat) : TestUnit :=
  if (t.state == 1 || t.state == 2) && items.contains (fld t.request 7 0) && fld t.request 21 16 == u then
    { t with state := 3, result := 3 }
  else t

/-- Whether a request that waits or runs names one of the items on unit `u`. -/
def TestUnit.names (t : TestUnit) (items : List Nat) (u : Nat) : Bool := (t.lose items u).state != t.state

/-- The requests of a partition that name unit `u` end with its loss (R392). -/
def Part.loseTests (t : Part) (test cal : List Nat) (u : Nat) : Part :=
  { t with test := t.test.lose test u, cal := t.cal.lose cal u }

/-- Requests on a stack end with its loss (R388, R392). -/
def State.loseStack (s : State) (k : Nat) : State :=
  let p := partOfStack s.mode k
  let t := s.part p
  if t.test.names [4, 5, 6, 7] k || t.cal.names [1] k then
    (s.setPart p (t.loseTests [4, 5, 6, 7] [1] k)).setEngine k { s.engine k with testPiece := false }
  else s

/-- Requests on a port end as it goes down (R392). -/
def State.losePortTests (s : State) (q : Nat) : State :=
  let p := partOfPort s.mode q
  let t := s.part p
  if t.test.names [9] q || t.cal.names [4] q then
    (s.setPart p (t.loseTests [9] [4] q)).setPort q { s.port q with testPiece := false }
  else s

/-- The stored entries in the base image: mode, node, role, grade, map-outs (R33). -/
def State.storedValues (s : State) : List Nat :=
  [s.nv.mode, s.nv.node, s.nv.role, s.nv.nextGrade] ++
    (List.range 16).map (fun k => (s.mem.stack k).pending + 2 ^ 32 * (s.mem.stack k).applied)

/-- The base image as flash holds it: its bytes with the stored entries in their places. -/
def State.baseBytes (s : State) : List Byte := Config.baseImage s.nv.base.bytes s.storedValues

/-- A stored entry is written into the base image, which carries the hash of what it then holds (R33, R34). -/
def State.sealBase (s : State) : State := { s with nv := { s.nv with base := { s.nv.base with hash := sha256 s.baseBytes } } }

/-- Take a new memory, and record each channel that failed in it with its cause; its PENDING bit enters the base image (R33, R335,
R337, R425). -/
def State.withMem (s : State) (m : MemSys) (cause : Nat) : State :=
  let l := newFailures s.mem m
  let t := l.foldl (fun s f => (s.cairn 0x0C [BitVec.ofNat 8 f.1, BitVec.ofNat 8 f.2, BitVec.ofNat 8 cause]).loseStack f.1) { s with mem := m }
  if l.isEmpty then t else t.sealBase

/-! ## Registers as the local map shows them -/

/-- STATE of a context as a number (R210). -/
def CtxState.code : CtxState → Nat
  | .idle => 0
  | .running => 1
  | .saving => 2
  | .saved => 3
  | .held => 4
  | .restoring => 5

/-- STATE as CTXCTL shows it (R210, R430). -/
def Context.stateCode (x : Context) : Nat := if x.kernel.any Kernel.cleared then 0 else x.state.code

/-- A context's registers (R210): CTXCTL, CTXCORES, CTXSAVE, CTXSCR, CTXTIME at offsets 0, 8, 16, 24, 32. -/
def Context.reg (x : Context) (off : Nat) : Nat :=
  match off with
  | 0 => b2n x.en + 16 * x.prio + 256 * x.stateCode + 2 ^ 16 * x.status + 2 ^ 32 * x.saves
  | 8 => x.cores
  | 16 => x.save
  | 24 => x.units
  | 32 => x.saveCycles + 2 ^ 32 * x.restoreCycles
  | _ => 0

/-- A BELAY register (R201). -/
def Belay.reg (b : Belay) : Nat := b.target + 2 ^ 32 * b.ctx + 2 ^ 40 * b.arrived + 2 ^ 48 * b.gen

/-- SPOOLSTAT (R132). -/
def Spool.stat (sp : Spool) : Nat :=
  sp.prod % 65535 + 2 ^ 16 * (sp.cons % 65535) + 2 ^ 32 * (if sp.lockstep then 16 else sp.credits) + 2 ^ 39 * b2n sp.lockstep

/-- CSLOG (R107). -/
def CsLog.reg (l : CsLog) : Nat := l.drops + 2 ^ 32 * l.off + 2 ^ 49 * l.bank + 2 ^ 50 * b2n l.valid

/-- The 8 bytes at `off` (a multiple of 8) of core `c`'s register block (R22). -/
def State.coreReg (s : State) (c off : Nat) : Nat :=
  let k := s.core c
  let p := partOfCore s.mode c
  if off = 0x100 then k.kflags.toNat
  else if off = 0x110 then k.tstage * 2 ^ 13
  else if 0x120 ≤ off ∧ off < 0x140 then fld k.kreport.toNat (8 * (off - 0x120) + 63) (8 * (off - 0x120))
  else if off = 0x140 then k.cslog.reg
  else if off = 0x150 then k.qMx.count
  else if off = 0x158 then k.qVec.count
  else if off = 0x160 then k.qDma.count
  else if off = 0x168 then k.qSeq.count
  else if off = 0x180 then k.spool.stat
  else if off = 0x188 then k.spool.epoch
  else if off = 0x190 then k.lastslot.toNat
  else if off = 0x1A0 then (if s.accepts p 8 then k.vcompat else k.vcompat / 2 * 2)
  else if c % 12 = 0 ∧ 0x9000 ≤ off ∧ off < 0x9400 then
    let x := 16 * (c / 12 - lowDie s.mode p) + (off - 0x9000) / 64
    (s.context p x).reg (off % 64)
  else if c % 12 = 0 ∧ c / 12 = lowDie s.mode p ∧ 0x8000 ≤ off ∧ off < 0x8800 then
    (Table.get {} (s.part p).belays ((off - 0x8000) / 8)).reg
  else 0

/-- A codec slot's register (R276). -/
def CodecSlot.reg (t : CodecSlot) : Nat :=
  (match t.state with | .free => 0 | .bound => 1 | .retired => 2) + 2 ^ 6 * t.id + 2 ^ 14 * t.lossy + 2 ^ 16 * t.gen +
  2 ^ 32 * t.count

/-- The 8 bytes at `off` of stack `k`'s register block (R171, R276). -/
def State.stackReg (s : State) (k off : Nat) : Nat :=
  let e := s.engine k
  if off = 0 then e.linkres + 256 * e.slice
  else if off = 8 then
    e.active.length + ((List.range 12).filter (fun j => !(Table.get [] e.subq j).isEmpty)).foldl (fun a j => a + 2 ^ (16 + j)) 0
  else if off = 16 then e.hits % 2 ^ 32 + 2 ^ 32 * (e.misses % 2 ^ 32)
  else if off = 0x20 then e.codedGran % 2 ^ 24 + 2 ^ 24 * (e.rawGran % 2 ^ 24) + 2 ^ 48 * e.keptRaw
  else if off = 0x28 then e.noGran + 2 ^ 16 * e.noTable + 2 ^ 32 * e.noSlot + 2 ^ 48 * e.tables
  else if off = 0x30 then e.expanded % 2 ^ 32 + 2 ^ 32 * (e.stalls % 2 ^ 32)
  else if 0x100 ≤ off ∧ off < 0x300 then (Table.get {} e.table ((off - 0x100) / 8)).reg
  else 0

/-- A byte of the register ranges of the local map (R21). -/
def State.regByte (s : State) (a : Nat) : Byte :=
  let w :=
    if 0x103_0000_0000 ≤ a ∧ a < 0x103_0030_0000 then
      s.coreReg ((a - 0x103_0000_0000) / 0x1_0000) (a % 0x1_0000 / 8 * 8)
    else if 0x103_0040_0000 ≤ a ∧ a < 0x103_0050_0000 then
      s.stackReg ((a - 0x103_0040_0000) / 0x1_0000) (a % 0x1_0000 / 8 * 8)
    else 0
  BitVec.ofNat 8 (w >>> (8 * (a % 8)))

/-! ## Places (R21 to R25, R323, R324) -/

/-- What an address names from partition `part`. -/
inductive Place where
  | stack (s off : Nat)
  | scratch (c off : Nat)
  | bank (c b off : Nat)
  | subq (s off : Nat)
  | reg (a : Nat)
  | remote (node a : Nat)
  | refused                             -- a hole, lost capacity, an I-die register, another partition's region
  deriving DecidableEq, Repr

/-- What an engine at work reads of the rest of the part. It is no part of the state. -/
structure Env where
  mode : Nat
  part : Nat
  node : Nat
  wide : Bool
  viewGlobal : Bool
  core : Nat
  rank : Nat
  cores : Nat
  accept : Nat
  now : Nat
  threshold : Nat
  se : Bool                             -- a stack engine: its write into a failed channel is a fault (R335)
  vec : Bool                            -- the vector engine: ROUND 1 is allowed (R42)
  live : Nat → Nat → Bool
  reg : Nat → Byte
  tracked : List Nat
  granted : List Nat
  landing : Table Landing
  room : Nat                            -- remote operations its queue may still send now (R310)
  stop : Bool := false                  -- it stops at its next save boundary (R217)

/-- The smallest usable capacity among a partition's stacks (R324). -/
def minCapacity (m : MemSys) (l : List Nat) : Nat := l.foldl (fun a k => min a (m.stack k).capacity) (2 ^ 36)

/-- A local address of a partition's stack range as stack and offset (R323, R324). -/
def placeStack (mode part : Nat) (wide : Bool) (m : MemSys) (a : Nat) : Place :=
  if partOfStack mode (a / 2 ^ 36) ≠ part then .refused
  else if wide then
    let l := partStacks mode part
    let x := a - stackBase mode part
    if l.length * minCapacity m l ≤ x then .refused
    else .stack (l.getD (x / 4096 % l.length) 0) (x / 4096 / l.length * 4096 + x % 4096)
  else if (m.stack (a / 2 ^ 36)).capacity ≤ a % 2 ^ 36 then .refused
  else .stack (a / 2 ^ 36) (a % 2 ^ 36)

/-- What a 44-bit local address names (R21 to R24). -/
def placeLocal (mode part : Nat) (wide : Bool) (m : MemSys) (a : Nat) : Place :=
  if a < 2 ^ 40 then placeStack mode part wide m a
  else if a < 0x100_1800_0000 then
    let c := (a - 2 ^ 40) / 0x80_0000
    if partOfCore mode c = part then .scratch c (a % 0x80_0000) else .refused
  else if 0x101_0000_0000 ≤ a ∧ a < 0x101_00C0_0000 then
    let o := a - 0x101_0000_0000
    if partOfCore mode (o / 0x4_0000) = part then .bank (o / 0x4_0000) (o / 0x2_0000 % 2) (o % 0x2_0000) else .refused
  else if 0x102_0000_0000 ≤ a ∧ a < 0x102_0100_0000 then
    let o := a - 0x102_0000_0000
    if partOfStack mode (o / 0x10_0000) = part then .subq (o / 0x10_0000) (o % 0x10_0000) else .refused
  else if 0x103_0000_0000 ≤ a ∧ a < 0x103_0030_0000 then
    if partOfCore mode ((a - 0x103_0000_0000) / 0x1_0000) = part then .reg a else .refused
  else if 0x103_0040_0000 ≤ a ∧ a < 0x103_0050_0000 then
    if partOfStack mode ((a - 0x103_0040_0000) / 0x1_0000) = part then .reg a else .refused
  else .refused

/-- What a 64-bit address names to an engine (R24, R25, R362 bit 9). -/
def Env.place (e : Env) (m : MemSys) (a : Nat) : Place :=
  if a < 2 ^ 44 then placeLocal e.mode e.part e.wide m a
  else if 2 ^ 57 ≤ a ∨ !e.accept.testBit 9 then .refused
  else if a / 2 ^ 44 = e.node then placeLocal e.mode e.part e.wide m (a % 2 ^ 44)
  else .remote (a / 2 ^ 44) (a % 2 ^ 44)

/-- A range of addresses, none of them refused, around an address that is not refused: low end and excluded high end. -/
def Env.allowed (e : Env) (m : MemSys) (a : Nat) : Option (Nat × Nat) :=
  let hi := a / 2 ^ 44 * 2 ^ 44
  let l := a % 2 ^ 44
  let p := nParts e.mode
  match e.place m a with
  | .refused => none
  | .remote n _ => some (n * 2 ^ 44, (n + 1) * 2 ^ 44)
  | .stack s _ =>
    if e.wide then
      let k := partStacks e.mode e.part
      some (hi + stackBase e.mode e.part, hi + stackBase e.mode e.part + k.length * minCapacity m k)
    else some (hi + l / 2 ^ 36 * 2 ^ 36, hi + l / 2 ^ 36 * 2 ^ 36 + (m.stack s).capacity)
  | .scratch _ _ => some (hi + 2 ^ 40 + e.part * (48 / p) * 0x80_0000, hi + 2 ^ 40 + (e.part + 1) * (48 / p) * 0x80_0000)
  | .bank _ _ _ =>
    some (hi + 0x101_0000_0000 + e.part * (48 / p) * 0x4_0000, hi + 0x101_0000_0000 + (e.part + 1) * (48 / p) * 0x4_0000)
  | .subq _ _ =>
    some (hi + 0x102_0000_0000 + e.part * (16 / p) * 0x10_0000, hi + 0x102_0000_0000 + (e.part + 1) * (16 / p) * 0x10_0000)
  | .reg a => some (hi + a % 2 ^ 44 / 0x1_0000 * 0x1_0000, hi + (a % 2 ^ 44 / 0x1_0000 + 1) * 0x1_0000)

/-- Whether `n` bytes from `a` are allowed, also where they run on from one allowed range into the next (R24). `fuel` bounds
the ranges they touch. -/
def Env.covers (e : Env) (m : MemSys) : Nat → Nat → Nat → Bool
  | 0, _, _ => false
  | fuel + 1, a, n =>
    match e.allowed m a with
    | none => false
    | some g => decide (a + n ≤ g.2) || e.covers m fuel g.2 (a + n - g.2)

/-! ## An engine at work: its memory, and what it asks of the rest of the part -/

/-- The effects of a piece of an engine's work. A fault or a wait makes its caller drop the piece's results. -/
structure Wk where
  mem : MemSys
  fault : Option Nat := none
  wait : Bool := false
  stalled : Bool := false               -- the wait is for memory
  asks : List Nat := []                 -- remote lines to read: global address / 64
  snoops : List (Nat × Bool) := []      -- host lines to snoop: local address / 64, BISnpInv?
  taken : List Nat := []                -- snooped lines read
  wr : List (Nat × List (Option Byte)) := []  -- remote lines written
  regs : List (Nat × Byte) := []        -- register bytes written, in order
  drops : List (Nat × Nat × Nat) := []  -- writes dropped at a live bank: core, bank, offset
  owners : List (Nat × Nat) := []       -- banks written: core, bank
  late : Option Nat := none             -- a write lost in a failed channel (R335)
  pend : List (Nat × Byte) := []        -- bytes written by this piece and not yet sent to memory, oldest first
  seen : Table (List Byte) := []        -- lines this piece has read: it reads each once
  flags : LaneFlags := 0
  part : Bool := false                  -- only a piece of the iteration was done (R217)
  rd : Nat := 0                         -- bytes read from and written to stacks
  wn : Nat := 0
  charge : Nat := 0                     -- energy of a stack engine's lanes, in 1/40 pJ (R161)

/-- Record the first fault. What a piece of work finds after it has to wait says nothing yet: it is done again. -/
def Wk.fail (w : Wk) (status : Nat) : Wk :=
  if w.wait then w else match w.fault with | some _ => w | none => { w with fault := some status }

/-- Record lane flags. -/
def Wk.flag (w : Wk) (f : LaneFlags) : Wk := { w with flags := w.flags ||| f }

/-- Energy of a stack engine's lanes. -/
def Wk.spend (w : Wk) (n : Nat) : Wk := { w with charge := w.charge + n }

/-- Whether the piece of work can take effect. -/
def Wk.good (w : Wk) : Bool := w.fault.isNone && !w.wait

/-- The bytes read count once, when the work has them all and need not be done again (R297). -/
def Wk.counted (w : Wk) : Wk := if w.wait then { w with rd := 0 } else w

/-- Whether a stack line of P0's window waits for the host (R358). -/
def Env.hostHolds (e : Env) (line : Nat) : Bool := e.part == 0 && e.tracked.contains line

/-- The local line (address / 64) of a line of a stack, the inverse of `placeStack` (R323, R324). -/
def Env.localLine (e : Env) (k line : Nat) : Nat :=
  if e.wide then
    let l := partStacks e.mode e.part
    stackBase e.mode e.part / 64 + (line / 64 * l.length + l.idxOf k) * 64 + line % 64
  else k * 2 ^ 30 + line

/-- An address of this node's own local window as a local address (R25). -/
def Env.norm (e : Env) (a : Nat) : Nat := if a / 2 ^ 44 = e.node ∧ a < 2 ^ 57 then a % 2 ^ 44 else a

/-- The 64 bytes of the line at address `a` (a multiple of 64), fetched by an engine. -/
def Wk.fetchLine (e : Env) (w : Wk) (a : Nat) : List Byte × Wk :=
  let zeros : List Byte := List.replicate 64 0
  match e.place w.mem a with
  | .stack s off =>
    let line := a % 2 ^ 44 / 64
    if e.hostHolds line && !e.granted.contains line then (zeros, { w with wait := true, stalled := true, snoops := (line, false) :: w.snoops })
    else if (w.mem.stack s).closed e.se (off / 64) then (zeros, { w with wait := true, stalled := true })
    else
      let (m, r) := w.mem.readLine e.now e.threshold s (off / 64)
      let w := { w with mem := m, rd := w.rd + 64, taken := if e.hostHolds line then line :: w.taken else w.taken }
      match r with
      | .ok bs => (bs, w)
      | .bad st => (zeros, w.fail st)
  | .scratch c off => (w.mem.scratchRead c off 64, w)
  | .bank c b off => (w.mem.bankRead c b off 64, w)
  | .subq _ _ => ((List.range 64).map (Config.freeByte w.mem.fresh), { w with mem := { w.mem with fresh := w.mem.fresh + 1 } })
  | .reg r => ((List.range 64).map (fun i => e.reg (r + i)), w)
  | .remote _ _ =>
    match Table.get .asked e.landing (a / 64) with
    | .data bs => (fit 0 64 bs, w)
    | .failed st => (zeros, w.fail st)
    | .asked => (zeros, { w with wait := true, stalled := true, asks := w.asks ++ [a / 64] })
  | .refused => (zeros, w.fail 0x0102)

/-- The line at `a` as a piece of work reads it: fetched once, whatever it reads of it (R149, R297). -/
def Wk.readLine (e : Env) (w : Wk) (a : Nat) : List Byte × Wk :=
  match w.seen.find? (fun p => p.1 == e.norm a / 64) with
  | some p => (p.2, w)
  | none =>
    let (bs, v) := w.fetchLine e a
    (bs, if v.good then { v with seen := (e.norm a / 64, bs) :: v.seen } else v)

/-- The bytes of `n` lines from the line at `a`. -/
def Wk.readLines (e : Env) : Nat → Wk → Nat → List Byte × Wk
  | 0, w, _ => ([], w)
  | n + 1, w, a =>
    let (b, w) := w.readLine e a
    let (bs, w) := Wk.readLines e n w (a + 64)
    (b ++ bs, w)

/-- Bytes read at `a`, with what this piece of work has written there before (R138). -/
def Wk.own (e : Env) (w : Wk) (a : Nat) (bs : List Byte) : List Byte :=
  if w.pend.isEmpty then bs
  else ((List.range bs.length).zip bs).map (fun p =>
    match w.pend.reverse.find? (fun x => x.1 == e.norm (a + p.1)) with
    | some x => x.2
    | none => p.2)

/-- `n` bytes from any address. -/
def Wk.read (e : Env) (w : Wk) (a n : Nat) : List Byte × Wk :=
  if n = 0 then ([], w)
  else
    let lo := a / 64
    let (bs, w) := Wk.readLines e ((a + n - 1) / 64 + 1 - lo) w (64 * lo)
    (w.own e a ((bs.drop (a % 64)).take n), w)

/-- A little-endian number of `n` bytes. -/
def Wk.readNat (e : Env) (w : Wk) (a n : Nat) : Nat × Wk :=
  let (bs, w) := w.read e a n
  (leNat bs, w)

/-- Masked bytes of a line, gathered from byte writes; a later write of a byte wins. Where one command's strides map two
owned coordinates to a common byte (R74), the value that lasts is therefore the last in tile order (log 6). -/
def linesOf (l : List (Nat × Byte)) : Table (List (Option Byte)) :=
  l.foldl (fun t p =>
    let m := Table.get (List.replicate 64 none) t (p.1 / 64)
    Table.set t (p.1 / 64) (m.set (p.1 % 64) (some p.2))) []

/-- One line of a write by an engine. -/
def Wk.writeLine (e : Env) (w : Wk) (a : Nat) (m : List (Option Byte)) : Wk :=
  match e.place w.mem a with
  | .stack s off =>
    let (mem, took) := w.mem.writeLine e.now e.threshold s (off / 64) m
    let w := { w with mem := mem, wn := w.wn + (m.filter Option.isSome).length }
    if took then w else if e.se then w.fail 0x0204 else { w with late := some 0x0204 }
  | .scratch c off => { w with mem := w.mem.scratchWrite c off m }
  | .bank c b off =>
    if e.live c b then
      let skip := (m.takeWhile Option.isNone).length
      { w with drops := w.drops ++ [(c, b, off + skip)] }
    else { w with mem := w.mem.bankWrite c b off m, owners := w.owners ++ [(c, b)] }
  | .subq _ _ => w
  | .reg r => { w with regs := w.regs ++ ((List.range 64).zip m).filterMap (fun p => p.2.map (fun b => (r + p.1, b))) }
  | .remote _ _ => { w with wr := w.wr ++ [(a / 64, m)] }
  | .refused => w.fail 0x0102

/-- Ask for the snoops that a write of the lines needs (R358), and wait while the node has no room for its remote
operations (R310). -/
def Wk.askWrite (e : Env) (w : Wk) (lines : List Nat) : Wk :=
  let far := lines.filter (fun l => match e.place w.mem (64 * l) with | .remote _ _ => true | _ => false)
  let w := if !far.isEmpty && e.room == 0 then { w with wait := true, stalled := true } else w
  lines.foldl (fun w l =>
    match e.place w.mem (64 * l) with
    | .stack k off =>
      let h := 64 * l % 2 ^ 44 / 64
      if e.se && (w.mem.stack k).offline (off / 64) then w.fail 0x0204
      else if e.hostHolds h then { w with wait := true, stalled := true, snoops := (h, true) :: w.snoops }
      else if (w.mem.stack k).closed e.se (off / 64) then { w with wait := true, stalled := true } else w
    | .refused => w.fail 0x0102
    | _ => w) w

/-- Bytes written by the piece of work; its own later reads see them. -/
def Wk.put (e : Env) (w : Wk) (l : List (Nat × Byte)) : Wk := { w with pend := w.pend ++ l.map (fun p => (e.norm p.1, p.2)) }

/-- The writes of one piece reach their lines together: first every snoop, then the lines in ascending order. -/
def Wk.send (e : Env) (w : Wk) : Wk :=
  if w.good then
    let t := linesOf w.pend
    let w := w.askWrite e (t.map Prod.fst)
    if w.good then t.foldl (fun w p => w.writeLine e (64 * p.1) p.2) { w with pend := [], seen := [] } else w
  else w

/-- Bytes written and sent at once. -/
def Wk.commit (e : Env) (w : Wk) (l : List (Nat × Byte)) : Wk := (w.put e l).send e

/-- Bytes at consecutive addresses, as byte writes. -/
def bytesAt (a : Nat) (bs : List Byte) : List (Nat × Byte) := (List.range bs.length).zip bs |>.map (fun p => (a + p.1, p.2))

end Sys2Proof.Machine
end

