-- ==== Sys2Proof/Machine/Fabric.lean ====
section
/-! DEFINITION. The fabric below its commands (chapter 13): flits, slots, routes, and the operations this node sends. -/

namespace Sys2Proof.Machine

/-! ## Slots and flits (R303, R309, R310) -/

def opREAD : Nat := 0x01
def opWRITE : Nat := 0x02
def opREADRSP : Nat := 0x10
def opWRITEACK : Nat := 0x11
def opENDED : Nat := 0x20
def opABORT : Nat := 0x21
def opHELLO : Nat := 0x30

/-- The class of a listed operation (R310). -/
def opClass (op : Nat) : Option Nat :=
  if op = 0x01 ∨ op = 0x02 then some 0 else if op = 0x10 ∨ op = 0x11 then some 1
  else if op = 0x20 ∨ op = 0x21 ∨ op = 0x30 then some 2 else none

/-- Slots behind a header (R310). -/
def opExtra (op lines status : Nat) (masked : Bool) : Nat :=
  if op = opWRITE then b2n masked + 4 * (lines + 1)
  else if op = opREADRSP then (if status = 0 then 4 * (lines + 1) else 0)
  else 0

/-- The header slot of an operation (R309). -/
def FabOp.header (o : FabOp) : BitVec 128 :=
  BitVec.ofNat 128 (o.op + 2 ^ 8 * o.cls + 2 ^ 10 * o.lane + 2 ^ 16 * o.src + 2 ^ 32 * o.dst + 2 ^ 45 * o.hops +
    2 ^ 56 * o.lines + 2 ^ 64 * o.tag + 2 ^ 80 * o.line + 2 ^ 118 * b2n o.masked)

/-- All slots of an operation: header, mask slot, data slots of 16 bytes. -/
def FabOp.slots (o : FabOp) : List (BitVec 128) :=
  o.header :: (if o.op = opWRITE ∧ o.masked then [BitVec.ofNat 128 o.mask] else []) ++
    (chunks 16 (o.data.length / 16 + 1) o.data).map (fun c => BitVec.ofNat 128 (leNat c))

/-- An operation from its header and the slots behind it. `lines` is LINES, the count of lines less one. -/
def FabOp.ofSlots (h : BitVec 128) (rest : List (BitVec 128)) : FabOp :=
  let n := h.toNat
  let op := fld n 7 0
  let masked := n.testBit 118
  let m := op == opWRITE && masked
  { op := op, cls := fld n 9 8, lane := fld n 10 10, src := fld n 28 16, dst := fld n 44 32, hops := fld n 50 45,
    lines := fld n 61 56, tag := fld n 79 64, line := fld n 117 80, masked := masked,
    mask := if m then (rest.headD 0).toNat % 2 ^ 64 else 0,
    data := (if m then rest.drop 1 else rest).flatMap (fun s => leBytes 16 s.toNat) }

/-- Whole operations at the front of the slots received; the slots left over; how many slots were discarded (R310). -/
def takeOps : Nat → List (BitVec 128) → List FabOp × List (BitVec 128) × Nat
  | 0, l => ([], l, 0)
  | _, [] => ([], [], 0)
  | fuel + 1, h :: t =>
    let n := h.toNat
    if fld n 7 0 = 0 then takeOps fuel t
    else if (opClass (fld n 7 0)).isNone ∨ fld n 9 8 = 3 then
      let (ops, rest, k) := takeOps fuel t
      (ops, rest, k + 1)
    else
      let x := opExtra (fld n 7 0) (fld n 61 56) (fld n 95 80) (n.testBit 118)
      if t.length < x then ([], h :: t, 0)
      else
        let (ops, rest, k) := takeOps fuel (t.drop x)
        (FabOp.ofSlots h (t.take x) :: ops, rest, k)

/-- Key of a class and lane. -/
def laneKey (cls lane : Nat) : Nat := 2 * cls + lane

/-- A flit with its CRC (R303). -/
def mkFlit (seq ack : Nat) (nak idle : Bool) (credits : List Nat) (slots : List (BitVec 128)) : BitVec 2048 :=
  let cr := ((List.range 6).map (fun i => (credits.getD i 0) * 2 ^ (32 + 8 * i))).foldl (· + ·) 0
  let sl := ((List.range 15).map (fun i => (slots.getD i 0).toNat * 2 ^ (96 + 128 * i))).foldl (· + ·) 0
  let body := seq + 2 ^ 12 * ack + 2 ^ 24 * b2n nak + 2 ^ 25 * b2n idle + cr + sl
  BitVec.ofNat 2048 (body + 2 ^ 2016 * crc32 (leBytes 252 body))

/-- Whether a flit's CRC holds. -/
def flitCrcOk (f : BitVec 2048) : Bool := fld f.toNat 2047 2016 == crc32 (leBytes 252 (f.toNat % 2 ^ 2016))

/-! ## Routes (R307, R308, R314, R319) -/

/-- Ports toward NEXT and PREV of a partition's ring (R306). -/
def State.ropePort (s : State) (p : Nat) (next : Bool) : Nat :=
  match (s.part p).ropePorts with
  | some v => if next then fld v 2 0 else fld v 5 3
  | none => (partPorts s.mode p).getD (if next then 0 else 1) 0

/-- A partition's ring is in use (R251). -/
def State.ropeOn (s : State) (p : Nat) : Bool := (s.part p).ropecfg.toNat.testBit 63 && s.accepts p 6
def State.ropeNext (s : State) (p : Nat) : Nat := fld (s.part p).ropecfg.toNat 28 16
def State.ropePrev (s : State) (p : Nat) : Nat := fld (s.part p).ropecfg.toNat 12 0

/-- Whether a port is UP. -/
def State.portUp (s : State) (q : Nat) : Bool := (s.port q).state == .up

/-- Whether an operation to node `m` is outstanding on port `q` (R314). -/
def State.pendingVia (s : State) (p m q : Nat) : Bool :=
  (s.part p).outstanding.any (fun r => r.2.port == q && r.2.line / 2 ^ 38 == m)

/-- The egress port for an operation to node `m`, or none where it is unreachable (R307, R314, R319). -/
def State.route (s : State) (p m : Nat) : Option Nat :=
  let up := fun q => if s.portUp q then some q else none
  if s.ropeOn p && m == s.ropeNext p then up (s.ropePort p true)
  else if s.ropeOn p && m == s.ropePrev p then up (s.ropePort p false)
  else
    let r := Table.get 0 (s.part p).routes m
    let prim := fld r 2 0
    let alt := fld r 6 4
    if r.testBit 15 then
      let altUp := r.testBit 7 && s.portUp alt
      if s.portUp prim && !(altUp && alt != prim && s.pendingVia p m alt) then some prim
      else if altUp then some alt
      else none
    else (partPorts s.mode p).find? (fun q => s.portUp q && (s.port q).peerNode == m)

/-- Queue an operation at a port; it moves to lane 1 where the port's DATELINE is 1 (R308). -/
def State.egress (s : State) (q : Nat) (o : FabOp) : State :=
  let pt := s.port q
  let o := if pt.dateline then { o with lane := 1 } else o
  s.setPort q { pt with egress := pt.egress ++ [(laneKey o.cls o.lane, o.slots)] }

/-- Send an operation from partition `p`; none where its destination is unreachable. -/
def State.sendOp (s : State) (p : Nat) (o : FabOp) : Option (State × Nat) :=
  match s.route p o.dst with
  | some q => some (s.egress q o, q)
  | none => none

/-- An operation of this node, on lane 0 with 63 hops. -/
def newOp (s : State) (p op dst lines tag line : Nat) : FabOp :=
  { op := op, cls := (opClass op).getD 2, lane := 0, src := s.node p, dst := dst, hops := 63, lines := lines, tag := tag,
    line := line, masked := false, mask := 0, data := [] }

/-- A response to an operation, queued on its way back; dropped where the way is gone (R315). -/
def State.respond (s : State) (p : Nat) (o : FabOp) (op lines status : Nat) (data : List Byte) : State :=
  match s.sendOp p { newOp s p op o.src lines o.tag status with data := data } with
  | some (s, _) => s
  | none => s

/-! ## Queues of a core -/

/-- Queue `q` of a core, numbered as QSEL (R85). -/
def Core.queue (c : Core) (q : Nat) : QueueSt := if q = 0 then c.qMx else if q = 1 then c.qVec else if q = 2 then c.qDma else c.qSeq
def Core.setQueue (c : Core) (q : Nat) (v : QueueSt) : Core :=
  if q = 0 then { c with qMx := v } else if q = 1 then { c with qVec := v } else if q = 2 then { c with qDma := v }
  else { c with qSeq := v }
def State.updCore (s : State) (c : Nat) (f : Core → Core) : State := s.setCore c (f (s.core c))
def State.updQueue (s : State) (c q : Nat) (f : QueueSt → QueueSt) : State :=
  s.updCore c (fun k => k.setQueue q (f (k.queue q)))
def State.updPart (s : State) (p : Nat) (f : Part → Part) : State := s.setPart p (f (s.part p))
def State.updPort (s : State) (q : Nat) (f : Port → Port) : State := s.setPort q (f (s.port q))
def State.updContext (s : State) (p x : Nat) (f : Context → Context) : State := s.setContext p x (f (s.context p x))
def State.updEngine (s : State) (k : Nat) (f : Engine → Engine) : State := s.setEngine k (f (s.engine k))
def State.updFunc (s : State) (n : Nat) (f : Func → Func) : State := s.setFunc n (f (s.func n))

/-- Add to a kernel's bytes moved (R297): index 0 stack read, 1 stack write, 2 fabric transmit, 3 fabric receive. -/
def Kernel.addMoved (k : Kernel) (i n : Nat) : Kernel := { k with moved := k.moved.set i ((k.moved.getD i 0 + n) % 2 ^ 64) }
def State.addMoved (s : State) (c i n : Nat) : State :=
  match (s.core c).run with
  | some r => s.updContext r.part r.ctx (fun x => { x with kernel := x.kernel.map (fun k => k.addMoved i n) })
  | none => s

/-- Energy of a kernel's work, in 1/40 pJ (R161). -/
def State.addCharge (s : State) (c n : Nat) : State :=
  match (s.core c).run with
  | some r => s.updContext r.part r.ctx (fun x => { x with kernel := x.kernel.map (fun k => { k with charge := k.charge + n }) })
  | none => s

/-- Energy of a byte that crosses the tether link, and of one that a stack engine reads or writes (R161). -/
def linkByte : Nat := 8 * 128
def stackByte : Nat := 8 * 36

/-- Bytes over a partition's tether links that no kernel or sequence is charged for (R297, R311). -/
def State.addLink (s : State) (p n : Nat) : State := s.updPart p (fun t => { t with linkUse := t.linkUse + n })

/-! ## Remote accesses of a core's queue (R310, R315, R316) -/

/-- Runs of consecutive lines that stay within 4 KiB: first line and count, from rising lines. -/
def runsOf : List Nat → List (Nat × Nat)
  | [] => []
  | l :: t =>
    match runsOf t with
    | (f, n) :: rest => if f = l + 1 ∧ f / 64 = l / 64 then (l, n + 1) :: rest else (l, 1) :: (f, n) :: rest
    | [] => [(l, 1)]

/-- A tag no outstanding operation uses. -/
def freeTag (p : Part) : Nat :=
  ((List.range 8192).find? (fun i => !Table.has p.outstanding ((p.nextTag + i) % 2 ^ 16))).map
    (fun i => (p.nextTag + i) % 2 ^ 16) |>.getD 0

/-- The lines of an answered or failed READ land for the queue that waits. -/
def QueueSt.land (q : QueueSt) (line n : Nat) (v : Nat → Landing) : QueueSt :=
  { q with landing := (List.range n).foldl (fun t i => Table.set t (line + i) (v i)) q.landing }

/-- A write of a queue has failed: the kernel stops at the queue's next command boundary (R316, R335). -/
def QueueSt.failLate (q : QueueSt) (f : FaultInfo) : QueueSt :=
  match q.lateFault with | some _ => q | none => { q with lateFault := some f }

/-- An outstanding operation ends: with data, or with a status (R315, R316). -/
def State.finishOp (s : State) (p tag : Nat) (status : Nat) (data : List Byte) : State :=
  match (s.part p).outstanding.find? (fun r => r.1 == tag) with
  | none => s
  | some (_, r) =>
    let s := s.updPart p (fun x => { x with outstanding := Table.del x.outstanding tag })
    if r.write then
      s.updQueue r.core r.queue (fun q =>
        let q := { q with remoteOut := q.remoteOut - 1 }
        if status = 0 then q
        else q.failLate { status := status, tag := r.cmdTag, count := r.cmdCount, queue := r.queue, core := r.core })
    else if status = 0 then
      (s.addMoved r.core 3 (64 * r.lines)).updQueue r.core r.queue (fun q =>
        q.land r.line r.lines (fun i => .data ((data.drop (64 * i)).take 64)))
    else s.updQueue r.core r.queue (fun q => q.land r.line r.lines (fun _ => .failed status))

/-- Enter an outstanding operation under a fresh tag and send it; unreachable ones end with 0x0401 at once (R315). -/
def State.issueOp (s : State) (p : Nat) (req : OutReq) (o : FabOp) : State :=
  let tag := freeTag (s.part p)
  let o := { o with tag := tag }
  let s := s.updPart p (fun x => { x with nextTag := (tag + 1) % 2 ^ 16 })
  match s.sendOp p o with
  | some (s, port) => s.updPart p (fun x => { x with outstanding := Table.set x.outstanding tag { req with port := port } })
  | none => (s.updPart p (fun x => { x with outstanding := Table.set x.outstanding tag req })).finishOp p tag 0x0401 []

/-- READs for the lines a queue waits for, while the node has room for operations (R310). -/
def State.askRemote (s : State) (p c q tag count : Nat) (lines : List Nat) : State :=
  let known := ((s.core c).queue q).landing
  let want := (sortBy (fun a b => decide (a ≤ b)) (lines.filter (fun l => !Table.has known l))).dedup
  (runsOf want).foldl (fun s r =>
    if 8192 ≤ (s.part p).outstanding.length then s
    else
      let s := s.updQueue c q (fun k => k.land r.1 r.2 (fun _ => .asked))
      let s := s.addMoved c 2 16
      s.issueOp p { core := c, queue := q, line := r.1, lines := r.2, port := 8, write := false, cmdTag := tag, cmdCount := count }
        (newOp s p opREAD (r.1 / 2 ^ 38) (r.2 - 1) 0 (r.1 % 2 ^ 38))) s

/-- Remote writes of a queue leave while the node has room for operations (R310). `fuel` is the length of the backlog. -/
def State.drainBacklog (p c q : Nat) : Nat → State → State
  | 0, s => s
  | fuel + 1, s =>
    match ((s.core c).queue q).backlog with
    | [] => s
    | (r, o) :: rest =>
      if 8192 ≤ (s.part p).outstanding.length then s
      else State.drainBacklog p c q fuel ((s.updQueue c q (fun k => { k with backlog := rest })).issueOp p r o)

/-- The remote writes that wait for room, queue by queue, once operations have ended. -/
def State.drainBacklogs (s : State) (p : Nat) : State :=
  (partCores s.mode p).foldl (fun s c => (List.range 4).foldl (fun s q =>
    s.drainBacklog p c q ((s.core c).queue q).backlog.length) s) s

/-- WRITEs for the lines a queue has written to other nodes: whole lines in runs, partial lines one by one, in ascending
order of address; what the node has no room for waits (R310). -/
def State.sendRemote (s : State) (p c q tag count : Nat) (lines : List (Nat × List (Option Byte))) : State :=
  let whole := lines.filter (fun l => fullMask l.2)
  let req := fun (l n : Nat) => ({ core := c, queue := q, line := l, lines := n, port := 8, write := true, cmdTag := tag,
                                   cmdCount := count } : OutReq)
  let op := fun (r : Nat × Nat × Option (List (Option Byte))) =>
    match r.2.2 with
    | none =>
      let data := (whole.filter (fun l => decide (r.1 ≤ l.1) && decide (l.1 < r.1 + r.2.1))).flatMap (fun l => maskBytes l.2)
      (req r.1 r.2.1, { newOp s p opWRITE (r.1 / 2 ^ 38) (r.2.1 - 1) 0 (r.1 % 2 ^ 38) with data := data })
    | some m =>
      let mask := ((List.range 64).zip m).foldl (fun a x => a + b2n x.2.isSome * 2 ^ x.1) 0
      (req r.1 1, { newOp s p opWRITE (r.1 / 2 ^ 38) 0 0 (r.1 % 2 ^ 38) with masked := true, mask := mask, data := maskBytes m })
  let segs := (runsOf (whole.map Prod.fst)).map (fun r => (r.1, r.2, none)) ++
    (lines.filter (fun l => !fullMask l.2)).map (fun l => (l.1, 1, some l.2))
  if segs.isEmpty then s
  else
    let ops := (sortBy (fun x y => decide (x.1 ≤ y.1)) segs).map op
    let s := s.addMoved c 2 (64 * lines.length)
    let s := s.updQueue c q (fun k => { k with remoteOut := k.remoteOut + ops.length, backlog := k.backlog ++ ops })
    s.drainBacklog p c q ((s.core c).queue q).backlog.length

/-! ## Rope (R252, R253, R319) -/

/-- A control message of the rope engine to both ring neighbours, once where they are one node (R252); one that cannot
leave is discarded. -/
def State.ropeSend (s : State) (p op round : Nat) : State :=
  let one := fun (s : State) (dst : Nat) (next : Bool) =>
    let q := s.ropePort p next
    if s.portUp q then s.egress q (newOp s p op dst 0 0 round) else s
  one (if s.ropePrev p = s.ropeNext p then s else one s (s.ropePrev p) false) (s.ropeNext p) true

/-- A member abandons the rope step and tells both neighbours (R253), with the round whose kernel started last (R319; log 28). -/
def State.ropeAbandon (s : State) (p : Nat) : State :=
  let r := (s.part p).rope
  if !s.ropeOn p || r.abandoned then s
  else (s.updPart p (fun x => { x with rope := { x.rope with abandoned := true } })).ropeSend p opABORT (r.round - 1)

/-! ## A port leaves UP, or begins training (R305, R315) -/

/-- The link layer of a port as it is when no link is up (R321). -/
def Port.cleared (q : Port) : Port :=
  { q with txSeq := 0, rxSeq := 4095, nak := false, gap := false, replay := [], resend := [], stuck := 0, credits := [],
           owed := [], egress := [], sending := [], partialOp := [] }

/-- A port that is not UP takes another state; where its training ends without success, requests on it end (R392). -/
def State.portStays (s : State) (q : Nat) (next : PortState) : State :=
  let t := s.updPort q (fun pt => { pt with state := next })
  if (s.port q).state == .training && next != .training then t.losePortTests q else t

/-- What a port's leaving UP does (R315): RETRAINS, outstanding operations end with 0x0401, queued slots are discarded,
and a ring that uses the port is abandoned (R253). -/
def State.portLost (s : State) (q : Nat) (next : PortState) : State :=
  let pt := s.port q
  if pt.state != .up then s.portStays q next
  else
    let p := partOfPort s.mode q
    let s := (s.setPort q { pt.cleared with state := next, retrains := satAdd 16 pt.retrains 1 }).losePortTests q
    let tags := ((s.part p).outstanding.filter (fun r => r.2.port == q)).map Prod.fst
    let s := (tags.foldl (fun s t => s.finishOp p t 0x0401 []) s).drainBacklogs p
    if s.ropeOn p && (s.ropePort p true == q || s.ropePort p false == q) then s.ropeAbandon p else s

/-- Training begins on a port whose EN is 1 (R305). -/
def State.portTrain (s : State) (q : Nat) : State :=
  s.updPort q (fun pt => if pt.en && pt.state == .down then { pt.cleared with state := .training } else pt)

end Sys2Proof.Machine
end

