-- ==== Sys2Proof/Machine/Flags.lean ====
section
/-! DEFINITION. Where lane flags go: KERNEL_FLAGS of a core (R55), and what the kernel-end report makes of them (R104, R105). -/

namespace Sys2Proof.Machine

/-- OR lane flags into a core's KERNEL_FLAGS (R55). -/
def Core.orFlags (k : Core) (f : LaneFlags) : Core := { k with kflags := k.kflags ||| f }

/-- STATUS of the report (R105): the fault, a live-bank write, an index out of range, or DONE. -/
def reportStatus (fault : Option FaultInfo) (liveWrite : Bool) (f : LaneFlags) : Nat :=
  match fault with
  | some i => i.status
  | none => if liveWrite then 0x0103 else if f &&& flagIDX != 0 then 0x0105 else 0x0000

/-- The kernel-end report (R104). -/
def mkReport (status tag kid count queue core : Nat) (f : LaneFlags) (stalls cycles : Nat) : BitVec 256 :=
  BitVec.ofNat 256 (status + 2 ^ 16 * tag + 2 ^ 32 * kid + 2 ^ 64 * count + 2 ^ 112 * queue + 2 ^ 114 * core +
    2 ^ 128 * f.toNat + 2 ^ 160 * min stalls 0xFFFFFFFF + 2 ^ 192 * min cycles 0xFFFFFFFF)

/-- The header of a spool slot (R124, R155). -/
def slotHeader (tag bank group dtag : Nat) : Quad := BitVec.ofNat 64 (tag + 2 ^ 16 * bank + 2 ^ 19 * group + 2 ^ 32 * dtag)

end Sys2Proof.Machine
end

