-- ==== Sys2Proof/Machine/Operands.lean ====
section
/-! DEFINITION. Operand forms: tensor descriptors and where their elements lie (chapter 03), nests (R92 to R96), command
blocks (R84 to R86) and stream-bound operands (R98). -/

namespace Sys2Proof.Machine

/-! ## The descriptor (R59 to R61), as a number of 192 bytes -/

def dBase (d : Nat) : Nat := fld d 63 0
def dScaleBase (d : Nat) : Nat := fld d 127 64
def dPiece (d : Nat) : Int := sext 64 (fld d 191 128)
def dFmt (d : Nat) : Nat := fld d 196 192
def dRank (d : Nat) : Nat := fld d 199 197
def dPlane (d : Nat) : Bool := bit d 200
def dWrite (d : Nat) : Bool := bit d 201
def dSat (d : Nat) : Bool := bit d 202
def dRound (d : Nat) : Nat := fld d 204 203
def dView (d : Nat) : Nat := fld d 206 205
def dPad (d : Nat) : Nat := fld d 208 207
def dUniform (d : Nat) : Bool := bit d 209
def dTranspose (d : Nat) : Bool := bit d 210
def dSeed (d : Nat) : Nat := fld d 255 224
def dPadValue (d : Nat) : Nat := fld d 287 256
def dUScale (d : Nat) : Nat := fld d 295 288
/-- Whether a descriptor may be a destination: WRITE is 1, and TRANSPOSE only where a DMA copy writes (R72, R75). -/
def destOk (d : Nat) : Bool := dWrite d && !dTranspose d
/-- A dimension record's field; dimensions at or above RANK are one element at stride 0, unsharded. -/
def dimField (d k hi lo dflt : Nat) : Nat := if k < dRank d then fld d (384 + 192 * k + hi) (384 + 192 * k + lo) else dflt
def dExt (d k : Nat) : Nat := dimField d k 31 0 1
def dOwnStart (d k : Nat) : Nat := dimField d k 63 32 0
def dOwnCount (d k : Nat) : Nat := dimField d k 95 64 1
def dShards (d k : Nat) : Nat := dimField d k 103 96 1
def dKind (d k : Nat) : Nat := dimField d k 105 104 0
def dCyc (d k : Nat) : Nat := dimField d k 127 112 0
def dStride (d k : Nat) : Int := sext 64 (dimField d k 191 128 0)
/-- The element size of a whole format, or the bytes of a block. -/
def dUnit (d : Nat) : Nat := blockBytes (dFmt d)
/-- Whether the descriptor reads a scale array. -/
def dScaled (d : Nat) : Bool := !isWhole (dFmt d) && !dUniform d

/-- GLOBAL view (R67). -/
def dGlobal (e : Env) (d : Nat) : Bool := if dView d = 1 then false else if dView d = 2 then true else e.viewGlobal

/-- Set bits below 48. -/
def popcount (w : Nat) : Nat := (bitsBelow 64 w).length

/-- Holders of a descriptor: cores that run the kernel in GLOBAL view, one in LOCAL. -/
def dHolders (e : Env) (d : Nat) : Nat := if dGlobal e d then popcount e.cores else 1

/-- This core's holder number. -/
def dHolder (e : Env) (d : Nat) : Nat := if dGlobal e d then e.rank else 0

/-- Product of SHARDS below dimension `k`. -/
def shardsBelow (d k : Nat) : Nat := (List.range k).foldl (fun a j => a * dShards d j) 1

/-- Grid coordinate of holder `h` (R68). -/
def gridOf (e : Env) (d h k : Nat) : Nat := if dGlobal e d then h / shardsBelow d k % max 1 (dShards d k) else 0

/-- Holder with a grid coordinate in each dimension. -/
def holderOf (d : Nat) (cs : List Nat) : Nat := (List.range 6).foldl (fun a k => a + cs.getD k 0 * shardsBelow d k) 0

/-- B of R69. -/
def blockShare (d k : Nat) : Nat := ceilDiv (dExt d k) (max 1 (dShards d k))

/-- Local extent of grid coordinate `c` along dimension `k` (R69). -/
def localExt (e : Env) (d k c : Nat) : Nat :=
  let ext := dExt d k
  if !dGlobal e d then ext
  else if dKind d k = 0 then min (blockShare d k) (ext - c * blockShare d k)
  else if dKind d k = 1 then
    let q := max 1 (dCyc d k)
    let s := max 1 (dShards d k)
    let n := ceilDiv ext q
    let held := if c < n then (n - 1 - c) / s + 1 else 0
    if held = 0 then 0 else if (n - 1) % s = c then held * q - (n * q - ext) else held * q
  else ext

/-- Global coordinate of a local coordinate (R69), with floor division for any coordinate (R70). -/
def toGlobal (e : Env) (d k c : Nat) (x : Int) : Int :=
  if !dGlobal e d then x
  else if dKind d k = 0 then c * blockShare d k + x
  else if dKind d k = 1 then
    let q : Int := max 1 (dCyc d k)
    (x / q * (max 1 (dShards d k) : Nat) + c) * q + x % q
  else x

/-- Grid and local coordinate that hold global coordinate `g`. -/
def ofGlobal (e : Env) (d k c g : Nat) : Nat × Nat :=
  if !dGlobal e d then (c, g)
  else if dKind d k = 0 then (g / max 1 (blockShare d k), g % max 1 (blockShare d k))
  else if dKind d k = 1 then
    let q := max 1 (dCyc d k)
    let s := max 1 (dShards d k)
    (g / q % s, g / q / s * q + g % q)
  else (c, g)

/-! ## Operands -/

/-- An operand of one iteration: its descriptor, the base in force (R98), the base its scale array shadows, and whether a
null entry makes it all padding. -/
structure Opn where
  d : Nat
  base : Int
  sbase : Int
  null : Bool := false
  deriving DecidableEq, Repr

/-- A descriptor as an operand without a stream. -/
def plainOpn (d : Nat) : Opn := { d := d, base := dBase d, sbase := dBase d }

/-- Coordinate `k` of a list of coordinates. -/
def co (l : List Int) (k : Nat) : Int := l.getD k 0

/-- Address of an element, or of its block, in the piece of holder `h` (R63). -/
def elemAddr (o : Opn) (h : Nat) (x : List Nat) : Int :=
  let d := o.d
  let f := dFmt d
  let rest := (List.range 5).foldl (fun (a : Int) k => a + x.getD (k + 1) 0 * dStride d (k + 1)) 0
  o.base + h * dPiece d + rest +
    (if isWhole f then x.getD 0 0 * dStride d 0 else ((x.getD 0 0 / blockLen f * blockBytes f : Nat) : Int))

/-- Address of the scale byte of a block (R63). -/
def scaleAddr (o : Opn) (addr : Int) : Int := dScaleBase o.d + (addr - o.sbase) / (dUnit o.d : Int)

/-- Where a coordinate is served from (R70). -/
inductive Src where
  | elem (pad : Bool) (h : Nat) (x : List Nat)
  | zero
  | const
  deriving DecidableEq, Repr

/-- Grid and local coordinate in one dimension: inside the piece, or halo in a BLOCK dimension of GLOBAL view (R70). -/
def servedDim (e : Env) (d h k : Nat) (x : Int) : Option (Nat × Nat) :=
  let c := gridOf e d h k
  if 0 ≤ x ∧ x < localExt e d k c then some (c, x.toNat)
  else if dGlobal e d && dKind d k == 0 then
    let g := toGlobal e d k c x
    if 0 ≤ g ∧ g < dExt d k then some (ofGlobal e d k c g.toNat) else none
  else none

/-- The clamped coordinate of EDGE (R70). -/
def clampDim (e : Env) (d h k : Nat) (x : Int) : Nat × Nat :=
  let c := gridOf e d h k
  let g := toGlobal e d k c x
  ofGlobal e d k c (min (max g 0).toNat (dExt d k - 1))

/-- How a read coordinate is served (R70). -/
def served (e : Env) (d h : Nat) (x : List Int) : Src :=
  let ds := (List.range 6).map (fun k => servedDim e d h k (co x k))
  if ds.all Option.isSome then
    let l := ds.map (fun o => o.getD (0, 0))
    .elem false (if dGlobal e d then holderOf d (l.map Prod.fst) else 0) (l.map Prod.snd)
  else if dPad d = 0 then .zero
  else if dPad d = 1 then .const
  else
    let l := (List.range 6).map (fun k => clampDim e d h k (co x k))
    .elem true (if dGlobal e d then holderOf d (l.map Prod.fst) else 0) (l.map Prod.snd)

/-- An element as read: its code, its block's scale byte, whether it is padding, and whether it is synthesised padding, which
belongs to no block (R70: an EDGE element keeps its block's scale). -/
structure Elem where
  code : Nat
  scale : Nat := 0x7F
  pad : Bool := false
  syn : Bool := false
  deriving DecidableEq, Repr

/-- The scale byte that an element brings into a block it is copied to: none of its own for synthesised padding (R70). -/
def Elem.ownScale (v : Elem) : Option Nat := if v.syn then none else some v.scale

/-- Read of the element at a local coordinate of the piece of this core (R63, R70, R98). -/
def readElem (e : Env) (w : Wk) (o : Opn) (x : List Int) : Elem × Wk :=
  let d := o.d
  let f := dFmt d
  let const : Elem := { code := dPadValue d % 2 ^ elemBits f, pad := true, syn := true }
  if o.null then (if dPad d = 1 then const else { code := 0, pad := true, syn := true }, w)
  else match served e d (dHolder e d) x with
    | .zero => ({ code := 0, pad := true, syn := true }, w)
    | .const => (const, w)
    | .elem pad h y =>
      let a := elemAddr o h y
      if isWhole f then
        let (n, w) := w.readNat e a.toNat (dUnit d)
        ({ code := n, pad := pad }, w)
      else
        let (n, w) := w.readNat e a.toNat (dUnit d)
        let c := unpackElem f (dPlane d) n (y.getD 0 0 % blockLen f)
        if dUniform d then ({ code := c, scale := dUScale d, pad := pad }, w)
        else
          let (s, w) := w.readNat e (scaleAddr o a).toNat 1
          ({ code := c, scale := s, pad := pad }, w)

/-- Whether a coordinate reads as padding (R70), without reading it. -/
def isPadding (e : Env) (o : Opn) (x : List Int) : Bool :=
  o.null || match served e o.d (dHolder e o.d) x with | .elem p _ _ => p | _ => true

/-- Reads of several coordinates in order. -/
def readElems (e : Env) (o : Opn) : List (List Int) → Wk → List Elem × Wk
  | [], w => ([], w)
  | x :: l, w =>
    let (v, w) := readElem e w o x
    let (vs, w) := readElems e o l w
    (v :: vs, w)

/-- The value of an element read. -/
def Elem.value (d : Nat) (v : Elem) : Fp := elemValue (dFmt d) v.code v.scale

/-- The write clip (R73): the local coordinate where an element may be written. -/
def clip (e : Env) (o : Opn) (x : List Int) : Option (List Nat) :=
  let d := o.d
  let h := dHolder e d
  if !o.null && (List.range 6).all (fun k =>
      let c := gridOf e d h k
      let g := toGlobal e d k c (co x k)
      decide (0 ≤ co x k) && decide (co x k < localExt e d k c) &&
      decide ((dOwnStart d k : Int) ≤ g) && decide (g < dOwnStart d k + dOwnCount d k) &&
      (!dGlobal e d || dKind d k != 2 || c == 0))
  then some ((List.range 6).map (fun k => (co x k).toNat)) else none

/-- Elements of one block to write: first coordinate of the block, its other coordinates, its slots, its scale (none while
only synthesised padding came), and whether its elements came with different scales. -/
structure BlockWrite where
  first : Nat
  rest : List Nat := []
  slots : Table Nat := []
  scale : Option Nat := none
  mixed : Bool := false
  deriving DecidableEq, Repr

/-- A block with one more element. -/
def BlockWrite.put (b : BlockWrite) (i code : Nat) (scale : Option Nat) : BlockWrite :=
  { b with
    slots := b.slots.set i code
    scale := match b.scale with | some x => some x | none => scale
    mixed := b.mixed || (match b.scale, scale with | some x, some y => x != y | _, _ => false) }

/-- An element put into the block of its coordinates, among the blocks that lie at one address. -/
def putBlock (first i code : Nat) (rest : List Nat) (scale : Option Nat) : List BlockWrite → List BlockWrite
  | [] => [({ first := first, rest := rest } : BlockWrite).put i code scale]
  | b :: t =>
    if b.first = first ∧ b.rest = rest then b.put i code scale :: t else b :: putBlock first i code rest scale t

/-- Of the blocks that a command's strides map to one address (R74), the one that is written: that of the most elements, so
that none of them mixes two blocks, and of those the last (log 6). -/
def lastingBlock (l : List BlockWrite) : BlockWrite :=
  l.foldl (fun a b => if a.slots.length ≤ b.slots.length then b else a) { first := 0 }

/-- Elements grouped by the address of their block. -/
def groupBlocks (e : Env) (o : Opn) (l : List (List Int × Nat × Option Nat)) : Table BlockWrite :=
  let f := dFmt o.d
  (l.foldl (fun (t : Table (List BlockWrite)) p =>
    match clip e o p.1 with
    | none => t
    | some y =>
      let x0 := y.getD 0 0
      Table.upd [] t (elemAddr o (dHolder e o.d) y).toNat
        (putBlock (x0 / blockLen f * blockLen f) (x0 % blockLen f) p.2.1 (y.drop 1) p.2.2)) []).map
    (fun p => (p.1, lastingBlock p.2))

/-- What a byte that is written in part holds: a line that is uncorrectable gives free bits and fails nothing, because the write
into a part of it poisons it (R73, R328). -/
def Wk.readUnder (e : Env) (w : Wk) (a n : Nat) : Nat × Wk :=
  let (v, u) := w.readNat e a n
  if w.good && u.fault == some 0x0201 then
    (leNat ((List.range n).map (Config.freeByte u.mem.fresh)), { u with fault := none, mem := { u.mem with fresh := u.mem.fresh + 1 } })
  else (v, u)

/-- The bytes of a block's elements: only bytes that hold a bit of a written element, and other elements' bits in them as they are
(R73). With `zeros`, the weights of a PI block beyond the extent are written as zero bits (R66, R77). -/
def elementBytes (e : Env) (w : Wk) (o : Opn) (a : Nat) (b : BlockWrite) (zeros : Bool) : List (Nat × Byte) × Wk :=
  let d := o.d
  let f := dFmt d
  let plane := isPI f && dPlane d
  let beyond := fun (i : Nat) => zeros && isPI f && decide (localExt e d 0 (gridOf e d (dHolder e d) 0) ≤ b.first + i)
  let covered := fun (k : Nat) =>
    let i := if plane then k % blockLen f else k / elemBits f
    Table.has b.slots i || beyond i
  let touched := (List.range (dUnit d)).filter (fun j => (List.range 8).any (fun i => covered (8 * j + i)))
  let whole := touched.all (fun j => (List.range 8).all (fun i => covered (8 * j + i)))
  let (old, w) := if whole then (0, w) else w.readUnder e a (dUnit d)
  let codes := (List.range (blockLen f)).map (fun i => if beyond i then 0 else Table.get (unpackElem f plane old i) b.slots i)
  let new := packBlock f plane codes
  (touched.map (fun j => (a + j, BitVec.ofNat 8 (new >>> (8 * j)))), w)

/-- The bytes of one block, with its scale byte. A block whose elements came with different scales takes a scale the manual
does not state (log 4). -/
def blockBytesOf (e : Env) (w : Wk) (o : Opn) (a : Nat) (b : BlockWrite) (zeros : Bool) : List (Nat × Byte) × Wk :=
  let d := o.d
  let (body, w) := elementBytes e w o a b zeros
  if dUniform d then (body, w)
  else
    let s := (scaleAddr o a).toNat
    if b.mixed then
      (body ++ [(s, Config.freeByte w.mem.fresh 0)], { w with mem := { w.mem with fresh := w.mem.fresh + 1 } })
    else (body ++ [(s, BitVec.ofNat 8 (b.scale.getD 0x7F))], w)

/-- Bytes of all blocks. -/
def blocksBytes (e : Env) (o : Opn) (zeros : Bool) : Table BlockWrite → Wk → List (Nat × Byte) × Wk
  | [], w => ([], w)
  | (a, b) :: t, w =>
    let (x, w) := blockBytesOf e w o a b zeros
    let (y, w) := blocksBytes e o zeros t w
    (x ++ y, w)

/-- The byte writes of elements (coordinate, code, scale if known) through a descriptor, after the clip (R73). `zeros` asks for
zero bits beyond the extent of PI blocks. -/
def elemWrites (e : Env) (w : Wk) (o : Opn) (l : List (List Int × Nat × Option Nat)) (zeros : Bool := false) : List (Nat × Byte) × Wk :=
  if isWhole (dFmt o.d) then
    (l.flatMap (fun p => match clip e o p.1 with
      | some y => bytesAt (elemAddr o (dHolder e o.d) y).toNat (leBytes (dUnit o.d) p.2.1)
      | none => []), w)
  else blocksBytes e o zeros (groupBlocks e o l) w

/-! ## Validation (R64, R68, R69, R72) -/

/-- Whether all addresses of a strided set are allowed; `ok` gives the allowed range around an address. -/
def spanOk (ok : Nat → Option (Nat × Nat)) : List (Nat × Int) → Int → Nat → Bool
  | dims, a, size =>
    let lo := dims.foldl (fun (x : Int) p => x + min 0 (((p.1 : Int) - 1) * p.2)) a
    let hi := dims.foldl (fun (x : Int) p => x + max 0 (((p.1 : Int) - 1) * p.2)) a + size - 1
    if lo < 0 then false
    else match ok lo.toNat with
      | none => false
      | some r =>
        if hi < r.2 then true
        else match dims with
          | [] => (ok hi.toNat).isSome
          | p :: rest => (List.range p.1).all (fun i => spanOk ok rest (a + i * p.2) size)

/-- Every element and scale address within the extents of every holder is allowed (R64). -/
def addrsOk (e : Env) (ok : Nat → Option (Nat × Nat)) (o : Opn) : Bool :=
  let d := o.d
  let f := dFmt d
  (List.range (dHolders e d)).all (fun h =>
    let ext := fun k => localExt e d k (gridOf e d h k)
    if (List.range 6).any (fun k => ext k == 0) then true
    else
      let base := o.base + h * dPiece d
      let outer := (List.range 5).map (fun k => (ext (k + 1), dStride d (k + 1)))
      if isWhole f then spanOk ok (outer.reverse ++ [(ext 0, dStride d 0)]) (if dGlobal e d then base else o.base) (dUnit d)
      else
        let n0 := ceilDiv (ext 0) (blockLen f)
        let b := if dGlobal e d then base else o.base
        spanOk ok (outer.reverse ++ [(n0, (dUnit d : Int))]) b (dUnit d) &&
        (dUniform d ||
          spanOk ok ((outer.map (fun p => (p.1, p.2 / (dUnit d : Int)))).reverse ++ [(n0, 1)])
            (dScaleBase d + (b - o.sbase) / (dUnit d : Int)) 1))

/-- Everything of R9, R36, R42, R64, R68, R69 and R72 that concerns one descriptor, but for addresses and EDGE. -/
def dFormOk (e : Env) (d : Nat) : Bool :=
  let f := dFmt d
  let r := dRank d
  let g := dGlobal e d
  let dims := List.range r
  fld d 223 211 == 0 && fld d 383 296 == 0 &&
  (List.range 6).all (fun k => decide (k < r) || fld d (384 + 192 * k + 191) (384 + 192 * k) == 0) &&
  dims.all (fun k => fld d (384 + 192 * k + 111) (384 + 192 * k + 106) == 0) &&
  fmtListed f && decide (1 ≤ r) && decide (r ≤ 6) && dView d != 3 && dPad d != 3 &&
  (dRound d == 0 || (dRound d == 1 && e.vec)) &&
  dims.all (fun k => dExt d k != 0) &&
  (if isWhole f then
    dBase d % blockBytes f == 0 && dims.all (fun k => dStride d k % (blockBytes f : Int) == 0)
   else
    dStride d 0 == 0 && dims.all (fun k => dStride d k % (blockBytes f : Int) == 0) &&
    (!g || dPiece d % (blockBytes f : Int) == 0) && dPad d != 1) &&
  (isPI f || !dPlane d) &&
  (!g || (dims.all (fun k => dKind d k != 3 && dShards d k != 0 && (dKind d k != 1 || dCyc d k != 0)) &&
    shardsBelow d r == popcount e.cores &&
    (isWhole f || (if dKind d 0 = 0 then dShards d 0 ≤ 1 || blockShare d 0 % blockLen f == 0
                   else dKind d 0 != 1 || dCyc d 0 % blockLen f == 0)))) &&
  (!dWrite d ||
    dims.all (fun k => decide (dOwnStart d k + dOwnCount d k ≤ dExt d k) &&
      (dStride d k != 0 || decide (dOwnCount d k ≤ 1) || (!isWhole f && k == 0))) &&
    (isWhole f ||
      ((dOwnStart d 0 % blockLen f == 0 || dOwnStart d 0 == dExt d 0) &&
       ((dOwnStart d 0 + dOwnCount d 0) % blockLen f == 0 || dOwnStart d 0 + dOwnCount d 0 == dExt d 0))))

/-- A descriptor's checks at issue; a stream-bound operand's addresses are checked at each iteration (R98). -/
def dValid (e : Env) (m : MemSys) (d : Nat) (bound : Bool) : Bool :=
  dFormOk e d && (bound || addrsOk e (e.allowed m) (plainOpn d))

/-- EDGE is refused where an MX or PI tensor's dimension 0 can be padded (R64); `lo` and `hi` bound the coordinates. -/
def edgeOk (d : Nat) (lo hi : Int) : Bool := isWhole (dFmt d) || dPad d != 2 || (decide (0 ≤ lo) && decide (hi < dExt d 0))

/-! ## Nests (R92 to R96) -/

def nDepth (n : Nat) : Nat := fld n 2 0
def nCountField (n l : Nat) : Nat := fld n (64 + 160 * l + 31) (64 + 160 * l)
def nInc (n l o : Nat) : Nat := fld n (64 + 160 * l + 63 + 32 * o) (64 + 160 * l + 32 + 32 * o)
def incDim (i : Nat) : Nat := fld i 31 29
def incStep (i : Nat) : Int := sext 29 (fld i 28 0)

/-- A nest entry's checks (R92, R93, R9). `ranks` gives each operand's RANK, or none where its INC fields must be zero: an unused
operand (R93) or a register operand (R136). -/
def nValid (n : Nat) (ranks : List (Option Nat)) : Bool :=
  decide (1 ≤ nDepth n) && decide (nDepth n ≤ 6) && fld n 63 3 == 0 &&
  (List.range 6).all (fun l =>
    if nDepth n ≤ l then fld n (64 + 160 * l + 159) (64 + 160 * l) == 0
    else
      (!(nCountField n l).testBit 31 || fld (nCountField n l) 30 6 == 0) &&
      (List.range 4).all (fun o =>
        let i := nInc n l o
        match ranks.getD o none with
        | none => i == 0
        | some r => decide (incDim i < 6) && (incStep i == 0 || decide (incDim i < r))))

/-- Level counts (R93); 0 as nest is one iteration. -/
def nCounts (n : Nat) (params : Table Word) : List Nat :=
  (List.range 6).map (fun l =>
    if nDepth n ≤ l then 1
    else
      let c := nCountField n l
      if c.testBit 31 then (Table.get 0 params (c % 64)).toNat else c)

/-- Iterations of a nest. -/
def nIters (cnts : List Nat) : Nat := cnts.foldl (· * ·) 1

/-- Level counters of iteration `k`, level 0 fastest (R95). -/
def nIndex (cnts : List Nat) (k : Nat) : List Nat :=
  (cnts.foldl (fun (p : Nat × List Nat) c => (p.1 / max 1 c, p.2 ++ [p.1 % max 1 c])) (k, [])).2

/-- Origin of operand `o` at iteration `k` (R95). -/
def nOrigin (n : Nat) (cnts : List Nat) (o k : Nat) : List Int :=
  let idx := nIndex cnts k
  (List.range 6).map (fun d =>
    (List.range 6).foldl (fun (a : Int) l =>
      if l < nDepth n ∧ incDim (nInc n l o) = d then a + idx.getD l 0 * incStep (nInc n l o) else a) 0)

/-- Smallest and largest origin coordinate of operand `o` in dimension `d` (R96). -/
def nRange (n : Nat) (cnts : List Nat) (o d : Nat) : Int × Int :=
  (List.range 6).foldl (fun (p : Int × Int) l =>
    if l < nDepth n ∧ incDim (nInc n l o) = d then
      let v := ((cnts.getD l 1 : Int) - 1) * incStep (nInc n l o)
      (p.1 + min 0 v, p.2 + max 0 v)
    else p) (0, 0)

/-- R96 for a tile of the given extents at every origin of operand `o`. -/
def nFits (n : Nat) (cnts : List Nat) (o : Nat) (tile : List Nat) : Bool :=
  (List.range 6).all (fun d =>
    let r := nRange n cnts o d
    decide (-(2 ^ 31 : Nat) ≤ r.1) && decide (r.2 + tile.getD d 1 - 1 < (2 ^ 31 : Nat)))

/-- Coordinate sums. -/
def addCo (a : List Int) (t : List Nat) : List Int := (List.range 6).map (fun k => co a k + t.getD k 0)

/-- Coordinates of a tile, dimension 0 fastest. -/
def tileCoords (ext : List Nat) : List (List Nat) :=
  (List.range (ext.foldl (· * ·) 1)).map (fun k => nIndex ext k)

/-! ## Command blocks (R84, R85) -/

def cbOp (b : BitVec 512) : Nat := fld b.toNat 15 0
def cbClass (b : BitVec 512) : Nat := fld b.toNat 15 12
def cbTag (b : BitVec 512) : Nat := fld b.toNat 31 16
def cbSbind (b : BitVec 512) : Nat := fld b.toNat 35 32
def cbQsel (b : BitVec 512) : Nat := fld b.toNat 37 36
def cbOpd (b : BitVec 512) (o : Nat) : Nat := fld b.toNat (79 + 16 * o) (64 + 16 * o)
def cbNest (b : BitVec 512) : Nat := fld b.toNat 143 128
def cbStream (b : BitVec 512) : Nat := fld b.toNat 159 144
/-- Field [hi:lo] of the immediates. -/
def imm (b : BitVec 512) (hi lo : Nat) : Nat := fld b.toNat (256 + hi) (256 + lo)

/-- What an opcode makes of its operand fields. -/
structure Form where
  uses : List Bool                      -- operands used
  regs : List Bool := [false, false, false, false]  -- register operand named (R136)
  nest : Bool := true                   -- NEST allowed
  stream : Bool := true                 -- STREAM allowed
  qsel : Bool := false                  -- QSEL is used
  deriving DecidableEq, Repr

/-- R86 and the reserved fields of R84 and R85 (R9). Addresses are checked where the descriptors are read. -/
def cbFormOk (b : BitVec 512) (f : Form) : Bool :=
  fld b.toNat 255 160 == 0 && fld b.toNat 63 38 == 0 && (f.qsel || cbQsel b == 0) &&
  (List.range 4).all (fun o => (cbOpd b o != 0xFFFF) == f.uses.getD o false) &&
  (cbStream b == 0xFFFF || decide (cbStream b ≤ 15)) &&
  (cbSbind b == 0 || (cbStream b != 0xFFFF && f.stream &&
    (List.range 4).all (fun o => !(cbSbind b).testBit o || (f.uses.getD o false && !f.regs.getD o false)))) &&
  (f.nest || cbNest b == 0xFFFF) && (f.stream || cbStream b == 0xFFFF)

/-- Reads of the descriptors and the nest entry at issue (R59, R84): each descriptor, and the nest. -/
def readTables (e : Env) (w : Wk) (kd b : BitVec 512) (f : Form) : List Nat × Nat × Wk :=
  let one := fun (p : List Nat × Wk) (o : Nat) =>
    if f.uses.getD o false && !f.regs.getD o false then
      let (n, w) := p.2.readNat e (kdDt kd + 192 * cbOpd b o) 192
      (p.1 ++ [n], w)
    else (p.1 ++ [0], p.2)
  let (ds, w) := (List.range 4).foldl one ([], w)
  if cbNest b = 0xFFFF then (ds, 0, w)
  else
    let (n, w) := w.readNat e (kdNt kd + 128 * cbNest b) 128
    (ds, n, w)

/-! ## Stream-bound operands (R98 to R100) -/

/-- Operands that SBIND binds, in order. -/
def boundOps (b : BitVec 512) : List Nat := bitsBelow 4 (cbSbind b)

/-- What taking entries gives: the operands of the iteration, a fault, or a wait. -/
inductive Bound where
  | ok (ops : List Opn)
  | fault (status : Nat)
  | wait
  deriving DecidableEq, Repr

/-- An operand with an entry applied (R98). -/
def applyEntry (d : Nat) (v : StreamEntry) : Opn :=
  match v.kind, v.value with
  | .page, some x => { d := d, base := x, sbase := x }
  | _, some x => { d := d, base := dBase d + x, sbase := dBase d }
  | _, none => { d := d, base := dBase d, sbase := dBase d, null := true }

/-- The operands of one iteration, with `entries` for the bound ones. `noIndex`: class DMA or MXM (R99).
`fits` says whether a bound operand's addresses pass their check here (R98). -/
def bindOps (fits : Nat → Opn → Bool) (b : BitVec 512) (descs : List Nat) (noIndex : Bool) (entries : List StreamEntry) : Bound :=
  let ops := boundOps b
  if entries.length < ops.length then .wait
  else
    let es := entries.take ops.length
    if es.any (fun v => noIndex && v.kind == .index) then .fault 0x0102
    else if es.any (fun v => v.absent) then .fault 0x0203
    else
      let opn := fun o =>
        match (ops.zip es).find? (fun p => p.1 == o) with
        | some p => applyEntry (descs.getD o 0) p.2
        | none => plainOpn (descs.getD o 0)
      if ops.any (fun o => !(opn o).null &&
          !(fits o (opn o) &&
            (!isWhole (dFmt (opn o).d) || (opn o).base % (blockBytes (dFmt (opn o).d) : Int) == 0)))
      then .fault 0x0102
      else .ok ((List.range 4).map opn)

/-- Whether a null entry is among those an iteration takes: the index-range flag (R98). -/
def takesNull (b : BitVec 512) (entries : List StreamEntry) : Bool :=
  (entries.take (boundOps b).length).any (fun v => v.value.isNone && !v.absent)

end Sys2Proof.Machine
end

