-- ==== Sys2Proof/Machine/Queues.lean ====
section
/-! DEFINITION. How a queue begins, issues, runs, faults and retires a command (R86 to R110, R216), the same for every
engine. A command runs over its iterations until it has to wait; the next event of its row continues it. -/

namespace Sys2Proof.Machine

/-- What an iteration, or an issue, comes to. -/
inductive Done where
  | ok
  | part                                -- a piece of the iteration, up to a save boundary (R217)
  | wait
  | fault (status : Nat)
  deriving DecidableEq, Repr

/-- The running kernel of core `c`, while its context is RUNNING. -/
def State.running (s : State) (c : Nat) : Option (CoreRun × Kernel) :=
  match (s.core c).run with
  | none => none
  | some r =>
    let x := s.context r.part r.ctx
    match x.kernel with
    | some k => if x.state == .running then some (r, k) else none
    | none => none

/-- A DMA queue finishes the STK command that it has begun to forward while its context is SAVING (R186). -/
def State.forwarding (s : State) (c : Nat) : Option (CoreRun × Kernel) :=
  match (s.core c).run, (s.core c).qDma.run with
  | some r, some iss =>
    let x := s.context r.part r.ctx
    match x.kernel with
    | some k => if x.state == .saving && cbClass iss.block == 5 && iss.issued then some (r, k) else none
    | none => none
  | _, _ => none

/-- A queue that has not reached its save boundary goes on while its context is SAVING: a command that waits for memory inside
an iteration, or an entry that the sequencer is generating (R217). -/
def State.unstopped (s : State) (c q : Nat) : Option (CoreRun × Kernel) :=
  match (s.core c).run with
  | none => none
  | some r =>
    let x := s.context r.part r.ctx
    let t := (s.core c).queue q
    match x.kernel with
    | some k => if x.state == .saving && !t.stopped && (t.run.isSome || q == 3) then some (r, k) else none
    | none => none

/-- Whether queues that go on stop at their next save boundary: a save runs, and no fault has ended it (R217, R218). -/
def State.stopping (s : State) (r : CoreRun) : Bool :=
  let x := s.context r.part r.ctx
  x.state == .saving && (match x.kernel with | some k => k.fault.isNone | none => false)

/-- A queue that waits for no memory while its kernel is being saved stands at its save boundary (R217). -/
def State.settle (s : State) (c q : Nat) : State :=
  match (s.core c).run with
  | none => s
  | some r => if s.stopping r && !((s.core c).queue q).stalled then s.updQueue c q (fun k => { k with stopped := true }) else s

/-- A fault stops the kernel of a context; the first one wins (R103, R105). -/
def State.kernelFault (s : State) (p x : Nat) (f : FaultInfo) : State :=
  s.updContext p x (fun t => { t with kernel := t.kernel.map (fun k =>
    match k.fault with | some _ => k | none => { k with fault := some f }) })

/-- The queues of the cores of a kernel that wait for no memory stand at their save boundaries (R217). -/
def State.stopQueues (s : State) (kd : BitVec 512) : State :=
  (bitsBelow 48 (kdCores kd)).foldl (fun s c => (List.range 4).foldl (fun s q => s.settle c q) s) s

/-- A save trigger (R216): taken while RUNNING, held while RESTORING, dropped otherwise, and dropped where a fault has already
stopped the kernel (R218). -/
def State.triggerSave (s : State) (p x : Nat) (hold : Bool) (status : Nat) : State :=
  let t := s.context p x
  match t.kernel with
  | none => s
  | some k =>
    if k.fault.isSome then s
    else match t.state with
      | .running => (s.setContext p x { t with state := .saving, trigger := some (hold, status) }).stopQueues k.kd
      | .restoring =>
        match t.trigger with
        | none => s.setContext p x { t with trigger := some (hold, status) }
        | some (h, st) => s.setContext p x { t with trigger := some (h || hold, st) }
      | _ => s

/-! ## Breaks (R109, R110) -/

/-- Break slot `n` (0 to 7), and BREAK_HIT. -/
def State.breakSlot (s : State) (n : Nat) : Nat := s.dictVal 0x1D00 (n + 1) 0
def State.setDictVal (s : State) (index sub v : Nat) : State :=
  { s with dict := { s.dict with vals := Table.set s.dict.vals (256 * index + sub) v } }

/-- Whether break slot value `v` fires before a command of queue `q` of context `x` of partition `p`. -/
def breakMatches (v p x q number tag : Nat) : Bool :=
  v.testBit 63 && fld v 61 60 == q && fld v 59 54 == x && fld v 53 52 == p &&
  (if v.testBit 62 then (tag ^^^ fld v 15 0) &&& fld v 31 16 == 0 else number == fld v 47 0)

/-- The slots that fire before a command. -/
def State.breakHits (s : State) (p x q number tag : Nat) : List Nat :=
  (List.range 8).filter (fun n => breakMatches (s.breakSlot n) p x q number tag)

/-- Slots fire: the EN of each clears, its BREAK_HIT bit sets, and the context is saved and HELD with 0x0106 (R110). -/
def State.fireBreak (s : State) (p x : Nat) (slots : List Nat) : State :=
  (slots.foldl (fun s n =>
    (s.setDictVal 0x1D00 (n + 1) (s.breakSlot n % 2 ^ 63)).setDictVal 0x1D00 9 (s.dictVal 0x1D00 9 0 ||| 2 ^ n)) s).triggerSave
    p x true 0x0106

/-! ## Beginning a command -/

/-- What an event of a queue's row finds. -/
inductive Beg where
  | idle                                -- nothing of this row to do: the event changes nothing (log 16)
  | stopped (s : State)                 -- a break, or a late fault at this boundary
  | go (s : State) (r : CoreRun) (iss : Issued)

/-- The next command number of a queue (R108). -/
def nextCount (n : Nat) : Nat := min (n + 1) 0xFFFF_FFFF_FFFF

/-- Whether a kernel's queue takes a late fault at its command boundary (R185, R316, R335). -/
def State.takeLate (s : State) (c q : Nat) (r : CoreRun) : Option State :=
  match ((s.core c).queue q).lateFault with
  | some f => some ((s.updQueue c q (fun k => { k with lateFault := none })).kernelFault r.part r.ctx f)
  | none => none

/-- The command of queue `q` that this row carries out: the one in progress, or the head if it may begin.
`isMine` says whether the row is the command's. -/
def State.begin (s : State) (c q : Nat) (isMine : BitVec 512 → Bool) : Beg :=
  match ((s.running c).or (s.unstopped c q)).or (if q = 2 then s.forwarding c else none) with
  | none => .idle
  | some (r, k) =>
    let qs := (s.core c).queue q
    match qs.run with
    | some iss => if isMine iss.block then .go s r iss else .idle
    | none =>
      match qs.cmds with
      | [] => .idle
      | b :: _ =>
        if k.fault.isSome || !isMine b || (s.running c).isNone then .idle
        else match s.takeLate c q r with
          | some t => .stopped t
          | none =>
            let n := nextCount qs.count
            match s.breakHits r.part r.ctx q n (cbTag b) with
            | slot :: more => .stopped (s.fireBreak r.part r.ctx (slot :: more))
            | [] =>
              .go (s.updQueue c q (fun k => { k with count := n })) r { block := b, descs := [], nest := 0 }

/-- What a queue keeps for its command alone: remote lines that have landed, and the coalescer (R149). -/
def QueueSt.clearCmd (q : QueueSt) : QueueSt := { q with landing := [], coal := [], wrote := [] }

/-- The command in progress of a queue. -/
def State.setRun (s : State) (c q : Nat) (i : Option Issued) : State :=
  (s.updQueue c q (fun k => { k with run := i })).settle c q

/-- A command faults: its queue stops at it (R103). -/
def State.cmdFault (s : State) (c q : Nat) (r : CoreRun) (b : BitVec 512) (status : Nat) : State :=
  (s.updQueue c q (fun k => { k.clearCmd with run := none })).kernelFault r.part r.ctx
    { status := status, tag := cbTag b, count := ((s.core c).queue q).count, queue := q, core := c }

/-- A command retires: it leaves its queue, and a late fault acts at this boundary. -/
def State.retire (s : State) (c q : Nat) (r : CoreRun) : State :=
  let s := s.updQueue c q (fun k => { k.clearCmd with cmds := k.cmds.drop 1, run := none })
  (match s.takeLate c q r with | some t => t | none => s).settle c q

/-! ## What a piece of engine work does to the rest of the part -/

/-- The environment of queue `q` of core `c` while it runs a kernel. -/
def State.env (s : State) (c q : Nat) (r : CoreRun) : Env :=
  let p := s.part r.part
  { mode := s.mode, part := r.part, node := s.node r.part, wide := p.interleave == 1, viewGlobal := p.tensorView == 1,
    core := c, rank := r.rank, cores := kdCores r.kd, accept := p.accept0, now := s.start.periods,
    threshold := s.dictVal 0x1520 0x11 4, se := false, vec := q == 1, live := s.liveBank, reg := s.regByte,
    tracked := s.host.filter, granted := s.host.granted, landing := ((s.core c).queue q).landing,
    room := if ((s.core c).queue q).backlog.isEmpty then 8192 - p.outstanding.length else 0, stop := s.stopping r }

/-- Snoops go out once each (R358). -/
def State.sendSnoops (s : State) (l : List (Nat × Bool)) : State :=
  l.dedup.foldl (fun s x =>
    if s.host.snoops.contains x then s
    else { s with host := { s.host with snoops := s.host.snoops ++ [x] } }.emit (.bisnp x.1 x.2)) s

/-- A write that a live bank drops is logged on the bank's core (R107). -/
def CsLog.drop (l : CsLog) (bank off : Nat) : CsLog :=
  if l.valid then { l with drops := satAdd 32 l.drops 1 } else { valid := true, bank := bank, off := off, drops := satAdd 32 l.drops 1 }

/-- The owner of a command-store bank (R354). -/
def Core.setOwner (k : Core) (b : Nat) (o : Owner) : Core := if b = 0 then { k with owner0 := o } else { k with owner1 := o }
def Core.owner (k : Core) (b : Nat) : Owner := if b = 0 then k.owner0 else k.owner1

/-- New value of a register under a write of some of its bytes. -/
def mergeReg (old : Nat) (m : List (Option Byte)) : Nat := leNat (overlay m (leBytes 8 old))

/-- CSLOG after a write (R107): writing 1 to VALID clears VALID and DROP_COUNT. -/
def CsLog.write (l : CsLog) (v : Nat) : CsLog := if v.testBit 50 then { l with valid := false, drops := 0 } else l

/-- A write of bytes of the 8-byte word at `off` of a core's register block that any writer may make: TSTAGE, CSLOG,
VCOMPAT (R79, R107, R157). BELAY and context registers take no engine's write (R201, R210). -/
def State.coreRegWrite (s : State) (c off : Nat) (m : List (Option Byte)) : State :=
  let v := mergeReg (s.coreReg c off) m
  if off = 0x110 then s.updCore c (fun k => { k with tstage := fld v 22 13 })
  else if off = 0x140 then s.updCore c (fun k => { k with cslog := k.cslog.write (leNat (overlay m (leBytes 8 0))) })
  else if off = 0x1A0 then
    let en := if s.accepts (partOfCore s.mode c) 8 then fld v 0 0 else fld (s.core c).vcompat 0 0
    s.updCore c (fun k => { k with vcompat := en + 2 ^ 16 * fld v 22 16 })
  else s

/-- SE_ARB after a write (R171): it waits for the next slice boundary. While no command is active no slice runs, and R171 does not say
when its boundary comes: the write then acts at once (DESIGN CHOICE, log 23). -/
def Engine.writeArb (e : Engine) (v : Nat) : Engine :=
  if fld v 15 8 = 0 ∨ 32 < fld v 5 0 then e
  else if e.active.isEmpty then { e with slice := fld v 15 8, linkres := fld v 5 0 }
  else { e with arbPending := some (fld v 15 8, fld v 5 0) }

/-- A write into a stack's register block: only SE_ARB is writable. -/
def State.stackRegWrite (s : State) (k off : Nat) (m : List (Option Byte)) : State :=
  if off = 0 then
    let e := s.engine k
    let old := match e.arbPending with | some (a, b) => b + 256 * a | none => s.stackReg k 0
    s.updEngine k (fun e => e.writeArb (mergeReg old m))
  else s

/-- Register bytes written by an engine, word by word. -/
def State.engineRegs (s : State) (l : List (Nat × Byte)) : State :=
  let words := l.foldl (fun (t : Table (List (Option Byte))) p =>
    Table.upd (List.replicate 8 none) t (p.1 / 8) (fun m => m.set (p.1 % 8) (some p.2))) []
  words.foldl (fun s p =>
    let a := 8 * p.1
    if a < 0x103_0030_0000 then s.coreRegWrite ((a - 0x103_0000_0000) / 0x1_0000) (a % 0x1_0000) p.2
    else s.stackRegWrite ((a - 0x103_0040_0000) / 0x1_0000) (a % 0x1_0000) p.2) s

/-- What a piece of work of queue `q` does whether or not it took effect: reads leave their traces in the stacks, remote
lines and snoops are asked for. -/
def State.absorbReads (s : State) (c q : Nat) (r : CoreRun) (tag : Nat) (w : Wk) : State :=
  let s := s.withMem w.mem 3
  let s := ((s.addMoved c 0 w.rd).addMoved c 1 w.wn).addCharge c (linkByte * (w.rd + w.wn))
  let s := s.sendSnoops w.snoops.reverse
  let s := if ((s.core c).queue q).stalled == w.stalled then s else s.updQueue c q (fun k => { k with stalled := w.stalled })
  s.askRemote r.part c q tag ((s.core c).queue q).count w.asks

/-- What it does beside its engine's own state once it has taken effect. -/
def State.absorb (s : State) (c q : Nat) (r : CoreRun) (tag : Nat) (w : Wk) : State :=
  let n := ((s.core c).queue q).count
  let s := s.absorbReads c q r tag w
  let s := { s with host := { s.host with granted := s.host.granted.filter (fun l => !w.taken.contains l) } }
  let s := s.engineRegs w.regs
  let s := w.drops.foldl (fun s d => s.updCore d.1 (fun k => { k with cslog := k.cslog.drop d.2.1 d.2.2 })) s
  let s := if q = 2 ∧ !w.drops.isEmpty then
      s.updContext r.part r.ctx (fun x => { x with kernel := x.kernel.map (fun k => { k with liveWrite := true }) }) else s
  let s := if q = 2 then w.owners.foldl (fun s o => s.updCore o.1 (fun k => k.setOwner o.2 (.ctx r.ctx))) s else s
  let s := s.sendRemote r.part c q tag n w.wr
  let s := match w.late with
    | some st => s.updQueue c q (fun k => k.failLate { status := st, tag := tag, count := n, queue := q, core := c })
    | none => s
  s.updCore c (fun k => k.orFlags w.flags)

/-! ## Issue (R59, R86, R90) -/

/-- Refusal with 0x0102 unless the check holds. -/
def need (ok : Bool) : Option Nat := if ok then none else some 0x0102

/-- The checks that every command with descriptors passes: each descriptor, its nest entry and R96.
`tiles` gives the tile extents of each operand in memory. -/
def commonOk (e : Env) (m : MemSys) (params : Table Word) (iss : Issued) (f : Form) (tiles : List (List Nat)) : Bool :=
  let used := fun o => f.uses.getD o false && !f.regs.getD o false
  let cnts := nCounts iss.nest params
  (List.range 4).all (fun o => !used o || dValid e m (iss.descs.getD o 0) ((cbSbind iss.block).testBit o)) &&
  (cbNest iss.block == 0xFFFF ||
    nValid iss.nest ((List.range 4).map (fun o =>
      if used o then some (dRank (iss.descs.getD o 0)) else none))) &&
  (List.range 4).all (fun o => !used o || nIters cnts == 0 ||
    (nFits iss.nest cnts o (tiles.getD o []) &&
      edgeOk (iss.descs.getD o 0) (nRange iss.nest cnts o 0).1
        ((nRange iss.nest cnts o 0).2 + ((tiles.getD o []).getD 0 1 : Nat) - 1)))

/-- Issue of a command (its tables are read as memory stands then, R83; log 6): its form, the place of its tables, their reading, and the opcode's own
check (a status, or none). -/
def State.issue (s : State) (c q : Nat) (r : CoreRun) (iss : Issued) (form : Form)
    (check : Env → MemSys → Core → Issued → Option Nat) : State × Issued × Done :=
  if iss.issued then (s, iss, .ok)
  else
    let b := iss.block
    let e := s.env c q r
    let inRange := e.covers s.mem 4
    if !cbFormOk b form ||
        (List.range 4).any (fun o => form.uses.getD o false && !form.regs.getD o false &&
          !inRange (kdDt r.kd + 192 * cbOpd b o) 192) ||
        (cbNest b != 0xFFFF && !inRange (kdNt r.kd + 128 * cbNest b) 128)
    then (s, iss, .fault 0x0102)
    else
      let (ds, n, w) := readTables e { mem := s.mem } r.kd b form
      let s := s.absorbReads c q r (cbTag b) w.counted
      match w.fault with
      | some st => (s, iss, .fault st)
      | none =>
        if w.wait then (s, iss, .wait)
        else
          let iss := { iss with descs := ds, nest := n }
          match check e s.mem (s.core c) iss with
          | some st => (s, iss, .fault st)
          | none =>
            (s.updQueue c q (fun k => { k with landing := [] }),
              { iss with issued := true, stage := (s.core c).tstage }, .ok)

/-! ## Running -/

/-- Iterations from the one reached on, until one waits or faults. -/
def runIters (body : State → CoreRun → Issued → Nat → State × Done) (r : CoreRun) : Nat → State → Issued → State × Issued × Done
  | 0, s, iss => (s, iss, .ok)
  | n + 1, s, iss =>
    match body s r iss iss.iter with
    | (s, .ok) => runIters body r n s { iss with iter := iss.iter + 1, part := 0 }
    | (s, .part) => (s, { iss with part := iss.part + 1 }, .wait)
    | (s, d) => (s, iss, d)

/-- How many iterations an event may run: all that are left, or up to the next save boundary (R217). -/
def State.turns (s : State) (r : CoreRun) (issued : Bool) (n : Nat) : Nat := if s.stopping r then min n (b2n issued) else n

/-- One event of an engine command's row: begin or continue, issue, run, then retire, wait or fault. -/
def State.engineStep (s : State) (c q op : Nat) (form : BitVec 512 → Form)
    (check : CoreRun → Env → MemSys → Core → Issued → Option Nat)
    (total : State → Core → Issued → Nat) (body : State → CoreRun → Issued → Nat → State × Done) : State :=
  match s.begin c q (fun b => cbOp b == op) with
  | .idle => s
  | .stopped t => t
  | .go s r i0 =>
    match s.issue c q r i0 (form i0.block) (check r) with
    | (s, iss, .fault st) => s.cmdFault c q r iss.block st
    | (s, iss, .ok) =>
      let n := total s (s.core c) iss
      match runIters body r (s.turns r i0.issued (n - iss.iter)) s iss with
      | (s, iss, .fault st) => s.cmdFault c q r iss.block st
      | (s, iss, .ok) => if n ≤ iss.iter then s.retire c q r else s.setRun c q (some iss)
      | (s, iss, _) => s.setRun c q (some iss)
    | (s, iss, _) => s.setRun c q (some iss)

/-- Iterations of a command's nest. -/
def nestTotal (_ : State) (k : Core) (iss : Issued) : Nat := nIters (nCounts iss.nest k.params)

/-- The entries a consumer may take from its slot. -/
def Core.entries (k : Core) (b : BitVec 512) : List StreamEntry :=
  if cbStream b = 0xFFFF then [] else (Table.get {} k.streams (cbStream b)).entries

/-- Entries leave the slot. -/
def Core.dropEntries (k : Core) (slot n : Nat) : Core :=
  if n = 0 then k else { k with streams := Table.upd {} k.streams slot (fun t => { t with entries := t.entries.drop n }) }

/-- Whether a consumer's slot can never get another entry: its stream is exhausted and the sequencer's KEND has retired (R100). -/
def Core.dry (k : Core) (b : BitVec 512) : Bool :=
  k.qSeq.kend && (Table.get {} k.streams (cbStream b)).gen.isNone

/-- One iteration of a command with a nest: take its entries (R98), do its work, and let it take effect whole or not at all. -/
def nestBody (c q : Nat) (noIndex : Bool)
    (work : Env → Core → Issued → List Opn → Nat → Wk → Core × Wk)
    (s : State) (r : CoreRun) (iss : Issued) (k : Nat) : State × Done :=
  let e := s.env c q r
  let core := s.core c
  let es := core.entries iss.block
  match bindOps (fun _ o => addrsOk e (e.allowed s.mem) o) iss.block iss.descs noIndex es with
  | .wait => if core.dry iss.block then (s, .fault 0x0102) else (s, .wait)
  | .fault st => (s, .fault st)
  | .ok ops =>
    let w0 : Wk := { mem := s.mem, flags := flagIf (takesNull iss.block es) flagIDX }
    let (core, w) := work e core iss ops k w0
    let w := w.send e
    match w.fault with
    | some st => (s.absorbReads c q r (cbTag iss.block) w, .fault st)
    | none =>
      if w.wait then (s.absorbReads c q r (cbTag iss.block) w.counted, .wait)
      else
        let s := s.setCore c (if w.part then core else core.dropEntries (cbStream iss.block) (boundOps iss.block).length)
        ((s.absorb c q r (cbTag iss.block) w).updQueue c q (fun k => { k with landing := [] }), if w.part then .part else .ok)

end Sys2Proof.Machine
end

