-- ==== Sys2Proof/Machine/Kv.lean ====
section
/-! DEFINITION. The shape of the key-value cache: geometry, page tables and their entries (R225 to R231), and the index
policies of R147. -/

namespace Sys2Proof.Machine

/-! ## Geometry (R225) -/

def kvMaxPages (g : Nat) : Nat := fld g 63 48
def kvLayers (g : Nat) : Nat := fld g 39 32
def kvPpp (g : Nat) : Nat := fld g 31 21
def kvHdim (g : Nat) : Nat := fld g 20 12
def kvHeads (g : Nat) : Nat := fld g 11 8
def kvFormat (g : Nat) : Nat := fld g 4 0

/-- Whether KVGEOM takes a value (R225). -/
def kvGeomOk (g : Nat) : Bool :=
  decide (1 ≤ kvMaxPages g) && decide (1 ≤ kvLayers g) && decide (1 ≤ kvPpp g) &&
  decide (32 ≤ kvHdim g) && decide (kvHdim g ≤ 256) && kvHdim g % 32 == 0 &&
  decide (1 ≤ kvHeads g) && decide (kvHeads g ≤ 8) && (kvFormat g == 3 || kvFormat g == 4) &&
  decide (2 * kvHeads g * kvHdim g * kvPpp g ≤ 65536)

/-- Offset in a page of a head's key of position `i`; its value lies PPP * HDIM bytes further (R226). -/
def kvKeyOffset (g h i : Nat) : Nat := h * 2 * kvPpp g * kvHdim g + i * kvHdim g

/-! ## Placement (R227) -/

/-- The stack of logical page `n`. -/
def pageStack (mode part n : Nat) : Nat := let l := partStacks mode part; l.getD (n % l.length) 0

/-- Stack offset of the entry of (slot, layer, page). -/
def pteOffset (mode part g ptb slot layer n : Nat) : Nat :=
  let ns := (partStacks mode part).length
  fld ptb 35 16 * 65536 + ((slot * kvLayers g + layer) * ceilDiv (kvMaxPages g) ns + n / ns) * 64

/-- Whether (slot, layer, page) lies inside the tables (R231). -/
def pteInside (mode g slot layer n : Nat) : Bool :=
  decide (slot < slotsPer mode) && decide (layer < kvLayers g) && decide (n < kvMaxPages g)

/-! ## Entries (R230) -/

def pteForm (e : Nat) : Nat := fld e 1 0
def pteShared (e : Nat) : Bool := bit e 2
def pteVariant (e : Nat) : Bool := bit e 3
def pteStack (e : Nat) : Nat := fld e 7 4
def pteGcount (e : Nat) : Nat := fld e 12 8
def pteAddr (e : Nat) : Nat := fld e 127 64
def pteGran (e i : Nat) : Nat := fld e (128 + 24 * i + 23) (128 + 24 * i)
/-- The granules of a CODED entry. -/
def pteGrans (e : Nat) : List Nat := (List.range (pteGcount e)).map (pteGran e)
/-- Stack offset of a RAW entry's frame. -/
def pteFrame (e : Nat) : Nat := pteAddr e % 2 ^ 36

/-- A RAW entry for a frame number of a stack. -/
def pteRaw (shared variant : Bool) (stack frame : Nat) : Nat :=
  1 + 4 * b2n shared + 8 * b2n variant + 16 * stack + (stack * 2 ^ 36 + frame * 65536) * 2 ^ 64

/-- A CODED entry. -/
def pteCoded (shared variant : Bool) (stack : Nat) (grans : List Nat) : Nat :=
  2 + 4 * b2n shared + 8 * b2n variant + 16 * stack + 256 * grans.length +
  ((List.range grans.length).zip grans).foldl (fun a p => a + p.2 * 2 ^ (128 + 24 * p.1)) 0

/-- A PARKED entry (R248): the granule count of the page, 0 for RAW, and its place in the area. -/
def pteParked (stack gcount off : Nat) : Nat := 3 + 16 * stack + 256 * gcount + off * 2 ^ 64

/-- Whether translation treats an entry as absent (R231). -/
def pteAbsent (e stack : Nat) : Bool := pteForm e == 0 || pteForm e == 3 || pteStack e != stack

/-! ## Index policies (R147) -/

/-- The effective index, or none where the element fails. -/
def effIndex (policy l : Nat) (x : Int) : Option Nat :=
  let y := if policy = 1 ∧ x < 0 then x + l else x
  if policy = 2 then some (min (max x 0) ((l : Int) - 1)).toNat
  else if 0 ≤ y ∧ y < l then some y.toNat else none

end Sys2Proof.Machine
end

