-- ==== Sys2Proof/Machine/Codec.lean ====
section
/-! DEFINITION. The key-value codec on its own: the lossy stage (R255), code tables (R258), the bit stream (R257, R259),
granules (R260, R261) and their expansion (R274). -/

namespace Sys2Proof.Machine

/-! ## Units (R254, R257) -/

/-- The element format of a stored form. -/
def lossyFmt (fmt lossy : Nat) : Nat := if lossy = 1 then 0x08 else if lossy = 2 then 0x0A else if lossy = 3 then 0x0C else fmt

/-- Bytes of a raw unit, and bits of a literal element (R259, R260). -/
def rawUnit (lossy : Nat) : Nat := if lossy = 1 then 33 else if lossy = 2 then 25 else if lossy = 3 then 17 else 32
def litBits (lossy : Nat) : Nat := if lossy = 2 then 6 else if lossy = 3 then 4 else 8

/-- The lossy stage of one block (R255): the exponent rises where the largest element would overflow. -/
def lossyUnit (fmt lossy : Nat) (codes : List Nat) : KvUnit :=
  if lossy = 0 then { scale := none, elems := codes }
  else
    let f := lossyFmt fmt lossy
    let vs := codes.map (fun c => elemValue fmt c 0x7F)
    let spills := fun (x : Int) => match floatOf f with
      | some ff => vs.any (fun v => match v with | .fin .. => (ff.round .nearest true (v.scale (-x))).flags &&& flagOF != 0 | _ => false)
      | none => false
    let (sc, cs) := encodeMXBy (fun x => if spills x then x + 1 else x) f (fun _ => .nearest) vs
    { scale := some sc, elems := cs.map Prod.fst }

/-- Blocks of a vector, vectors of a half head, units of a page. -/
def kvBlocks (g : Nat) : Nat := kvHdim g / 32
def kvUnits (g : Nat) : Nat := kvHeads g * 2 * kvPpp g * kvBlocks g

/-- Whether unit `u` belongs to a key. -/
def unitIsKey (g u : Nat) : Bool := decide (u % (2 * kvPpp g * kvBlocks g) < kvPpp g * kvBlocks g)

/-- Units of a page from its bytes (R226, R257). -/
def pageUnits (g lossy : Nat) (page : List Byte) : List KvUnit :=
  (chunks 32 (kvUnits g) page).map (fun c => lossyUnit (kvFormat g) lossy (c.map BitVec.toNat))

/-! ## Code tables (R258) -/

/-- Occurrences of each value from 0 to 255. -/
def histogram (l : List Nat) : List Nat := l.foldl (fun t s => t.set s (t.getD s 0 + 1)) (List.replicate 256 0)

/-- The least L with n * 2^L at least T. -/
def ceilLog2Ratio : Nat → Nat → Nat → Nat → Nat
  | 0, _, _, l => l
  | fuel + 1, t, n, l => if t ≤ n * 2 ^ l then l else ceilLog2Ratio fuel t n (l + 1)

/-- The Kraft sum in units of 2^-12. -/
def kraft (lens : List Nat) : Nat := lens.foldl (fun a l => if l = 0 then a else a + 2 ^ (12 - l)) 0

/-- The symbol whose code grows: the one of fewest occurrences, lowest first. -/
def growSym (lens n : List Nat) : Option Nat :=
  ((List.range 256).filter (fun s => decide (0 < lens.getD s 0) && decide (lens.getD s 0 < 12))).foldl
    (fun a s => match a with
      | none => some s
      | some t => if n.getD s 0 < n.getD t 0 then some s else some t) none

/-- Codes grow until the Kraft sum is at most 1. -/
def growLens : Nat → List Nat → List Nat → List Nat
  | 0, lens, _ => lens
  | fuel + 1, lens, n =>
    if kraft lens ≤ 4096 then lens
    else match growSym lens n with
      | some s => growLens fuel (lens.set s (lens.getD s 0 + 1)) n
      | none => lens

/-- Code lengths of the 257 symbols from their occurrences. -/
def codeLens (n : List Nat) : List Nat :=
  let t := n.foldl (· + ·) 0
  let first := n.map (fun k => if k = 0 then 0 else let l := ceilLog2Ratio 64 t k 0; if l ≤ 11 then max 1 l else 0)
  growLens 3084 (fit 0 256 first ++ [12]) n

/-- Canonical codes: symbol, length, code, in ascending length and symbol. -/
def canonCodes (lens : List Nat) : List (Nat × Nat × Nat) :=
  let syms := (List.range 12).flatMap (fun i =>
    ((List.range 257).filter (fun s => lens.getD s 0 == i + 1)).map (fun s => (s, i + 1)))
  (syms.foldl (fun (p : List (Nat × Nat × Nat) × Option (Nat × Nat)) x =>
    let c := match p.2 with
      | none => 0
      | some (l, c) => (c + 1) * 2 ^ (x.2 - l)
    (p.1 ++ [(x.1, x.2, c)], some (x.2, c))) ([], none)).1

/-- Bits of a value, most significant first. -/
def msbBits (n v : Nat) : List Bool := (List.range n).map (fun i => v.testBit (n - 1 - i))

/-- The bits of a symbol under a table; an uncoded one is ESC and its literal (R259). -/
def symBits (codes : List (Nat × Nat × Nat)) (w s : Nat) : List Bool :=
  match codes.find? (fun c => c.1 == s) with
  | some c => msbBits c.2.1 c.2.2
  | none => match codes.find? (fun c => c.1 == 256) with
    | some c => msbBits c.2.1 c.2.2 ++ msbBits w s
    | none => msbBits w s

/-- The codes of a slot's table. -/
def CodecSlot.tables (t : CodecSlot) : Tables := { key := t.key, val := t.val, scl := t.scl }

/-- What slot `i` of a stack shows: its tables, or contents that are undefined until a build writes them (R277; log 4). -/
def CodecSlot.shown (t : CodecSlot) (stack i : Nat) : CodecSlot :=
  let free := fun j => (List.range 257).map (fun s => Config.unbuiltLength (64 * stack + i) (257 * j + s) % 16)
  if t.key.isEmpty then { t with key := free 0, val := free 1, scl := free 2 } else t

/-- Canonical codes of the three. -/
structure Codes where
  key : List (Nat × Nat × Nat)
  val : List (Nat × Nat × Nat)
  scl : List (Nat × Nat × Nat)
  deriving DecidableEq, Repr

def Tables.codes (t : Tables) : Codes := { key := canonCodes t.key, val := canonCodes t.val, scl := canonCodes t.scl }

/-- The bits of a unit. -/
def unitBits (c : Codes) (lossy : Nat) (isKey : Bool) (u : KvUnit) : List Bool :=
  (match u.scale with | some s => symBits c.scl 8 s | none => []) ++
  u.elems.flatMap (symBits (if isKey then c.key else c.val) (litBits lossy))

/-- Tables built from the units of a group of pages, each unit with its kind (R258, R265). -/
def buildTables (lossy : Nat) (l : List (Bool × KvUnit)) : Tables :=
  let pick := fun k => codeLens (histogram ((l.filter (fun u => u.1 == k)).flatMap (fun u => u.2.elems)))
  { key := pick true, val := pick false
    scl := codeLens (if lossy = 0 then List.replicate 256 0 else histogram (l.filterMap (fun u => u.2.scale))) }

/-! ## Granules (R260, R261) -/

/-- A granule cut from a page: raw or coded, its units with their coded bits. -/
structure Cut where
  raw : Bool
  units : List (KvUnit × List Bool)
  deriving DecidableEq, Repr

/-- The largest count of units whose coded bits fit. -/
def fitUnits : List (KvUnit × List Bool) → Nat → Nat
  | [], _ => 0
  | u :: t, used => if used + u.2.length ≤ 32736 then fitUnits t (used + u.2.length) + 1 else 0

/-- Granules of a page (R261). -/
def cutPage (lossy : Nat) (plain : Bool) : Nat → List (KvUnit × List Bool) → List Cut
  | 0, _ => []
  | fuel + 1, l =>
    if l.isEmpty then []
    else
      let n := max 1 (fitUnits l 0)
      let bits := (l.take n).foldl (fun a u => a + u.2.length) 0
      if plain || decide (7 * (n * rawUnit lossy) < bits) then
        let n := min l.length (4092 / rawUnit lossy)
        { raw := true, units := l.take n } :: cutPage lossy plain fuel (l.drop n)
      else { raw := false, units := l.take n } :: cutPage lossy plain fuel (l.drop n)

/-- Bytes from bits, bit 7 first (R259). -/
def bitsBytes (l : List Bool) : List Byte :=
  (chunks 8 (l.length / 8 + 1) l).map (fun c =>
    BitVec.ofNat 8 ((List.range 8).foldl (fun a i => 2 * a + b2n (c.getD i false)) 0))

/-- The bytes of a raw unit: its scale, then its packed elements (R62, R260). -/
def rawUnitBytes (fmt lossy : Nat) (u : KvUnit) : List Byte :=
  (match u.scale with | some s => [BitVec.ofNat 8 s] | none => []) ++
  leBytes (4 * elemBits (lossyFmt fmt lossy)) (packBlock (lossyFmt fmt lossy) false u.elems)

/-- The 4,096 bytes of a granule. -/
def granBytes (fmt lossy slot gen : Nat) (last : Bool) (c : Cut) : List Byte :=
  let h := (if c.raw then 0 else slot + 2 ^ 6 * gen) + 2 ^ 14 * lossy + 2 ^ 16 * b2n c.raw + 2 ^ 17 * b2n last +
    2 ^ 18 * (c.units.length - 1)
  let body := if c.raw then c.units.flatMap (fun u => rawUnitBytes fmt lossy u.1) else bitsBytes (c.units.flatMap (fun u => u.2))
  fit 0 4096 (leBytes 4 h ++ body)

/-! ## Expansion (R274) -/

/-- Header fields of a granule (R260). -/
def granSlot (h : Nat) : Nat := fld h 5 0
def granGen (h : Nat) : Nat := fld h 13 6
def granLossy (h : Nat) : Nat := fld h 15 14
def granRaw (h : Nat) : Bool := bit h 16
def granUnits (h : Nat) : Nat := fld h 28 18 + 1

/-- Bits of bytes, bit 7 first. -/
def bytesBits (l : List Byte) : List Bool := l.flatMap (fun b => msbBits 8 b.toNat)

/-- The next symbol: the code that the bits begin with. -/
def nextSym (codes : List (Nat × Nat × Nat)) (bits : List Bool) : Option (Nat × List Bool) :=
  match codes.find? (fun c => decide (c.2.1 ≤ bits.length) && bits.take c.2.1 == msbBits c.2.1 c.2.2) with
  | some c => some (c.1, bits.drop c.2.1)
  | none => none

/-- A symbol or its literal. -/
def readSym (codes : List (Nat × Nat × Nat)) (w : Nat) (bits : List Bool) : Option (Nat × List Bool) :=
  match nextSym codes bits with
  | some (256, rest) =>
    if rest.length < w then none
    else some ((rest.take w).foldl (fun a b => 2 * a + b2n b) 0, rest.drop w)
  | r => r

/-- `n` symbols. -/
def readSyms (codes : List (Nat × Nat × Nat)) (w : Nat) : Nat → List Bool → Option (List Nat × List Bool)
  | 0, bits => some ([], bits)
  | n + 1, bits =>
    match readSym codes w bits with
    | none => none
    | some (s, bits) => (readSyms codes w n bits).map (fun p => (s :: p.1, p.2))

/-- Coded units from unit `u` of a page on. -/
def readUnits (g lossy : Nat) (c : Codes) : Nat → Nat → List Bool → Option (List KvUnit)
  | 0, _, _ => some []
  | n + 1, u, bits =>
    let scale := if lossy = 0 then some (none, bits) else (readSym c.scl 8 bits).map (fun p => (some p.1, p.2))
    match scale with
    | none => none
    | some (s, bits) =>
      match readSyms (if unitIsKey g u then c.key else c.val) (litBits lossy) 32 bits with
      | none => none
      | some (es, bits) => (readUnits g lossy c n (u + 1) bits).map (fun l => { scale := s, elems := es } :: l)

/-- A raw unit from its bytes. -/
def rawUnitOf (fmt lossy : Nat) (bs : List Byte) : KvUnit :=
  let f := lossyFmt fmt lossy
  let body := leNat (if lossy = 0 then bs else bs.drop 1)
  { scale := if lossy = 0 then none else some (bs.headD 0).toNat, elems := (List.range 32).map (unpackElem f false body) }

/-- The units of one granule, whose first is unit `u` of its page, or none where the expansion fails. `tables` finds the
table that (SLOT, GEN) names; `lossy` is the form of the page's earlier granules. -/
def expandGranule (g : Nat) (tables : Nat → Nat → Option Tables) (lossy : Option Nat) (u : Nat) (lastOfPage : Bool)
    (data : List Byte) : Option (List KvUnit) :=
  let h := leNat (data.take 4)
  let n := granUnits h
  let lo := granLossy h
  if lossy.any (fun l => l != lo) || decide (kvUnits g < u + n) || (lastOfPage && u + n != kvUnits g) then none
  else if granRaw h then
    if 4092 < n * rawUnit lo then none
    else some ((chunks (rawUnit lo) n (data.drop 4)).map (rawUnitOf (kvFormat g) lo))
  else match tables (granSlot h) (granGen h) with
    | none => none
    | some t => readUnits g lo t.codes n u (bytesBits (data.drop 4))

/-! ## Table images (R266) -/

/-- One code's 257 lengths at a byte offset of the image. -/
def lensNat (lens : List Nat) (off : Nat) : Nat :=
  (List.range 257).foldl (fun a s => a + (lens.getD s 0) * 2 ^ (8 * (off + s / 2) + 4 * (s % 2))) 0

/-- The 2 KiB image of a slot. -/
def tableImage (slot : Nat) (t : CodecSlot) : List Byte :=
  leBytes 2048 (slot + 2 ^ 6 * t.gen + 2 ^ 14 * t.lossy + lensNat t.key 0x10 + lensNat t.val 0xA0 + lensNat t.scl 0x130)

/-- Lengths read back from an image. -/
def imageLens (v off : Nat) : List Nat := (List.range 257).map (fun s => fld v (8 * (off + s / 2) + 4 * (s % 2) + 3) (8 * (off + s / 2) + 4 * (s % 2)))

/-- Whether lengths are at most 12 and keep the Kraft sum (R275). -/
def lensOk (l : List Nat) : Bool := l.all (fun x => decide (x ≤ 12)) && decide (kraft l ≤ 4096)

end Sys2Proof.Machine
end

