-- ==== Sys2Proof/Machine/Kernel.lean ====
section
/-! DEFINITION. Shared operations on kernels: who holds a context, when a start is refused, which kernel runs next, how a
kernel starts, ends and reports (R80 to R82, R102 to R105, R209 to R215, R297, R353). -/

namespace Sys2Proof.Machine

/-! ## Functions and contexts (R349) -/

/-- The function that holds context `x` of partition `p`: the VF whose CTXMASK has it, else the PF. -/
def State.ctxFn (s : State) (p x : Nat) : Nat :=
  match (List.range 31).find? (fun k => (s.func (p + 4 * (k + 1))).ctxmask.testBit x) with
  | some k => p + 4 * (k + 1)
  | none => p

/-- Contexts of a partition. -/
def State.ctxs (s : State) : List Nat := List.range (ctxPer s.mode)

/-- An MSI-X message, where the function enables it and is not disabled (R348, R356, R366); none once the part shuts down (R401). -/
def State.irq (s : State) (fn vec : Nat) : State :=
  if !s.isLive || (s.func fn).disabled || (decide (vec < 3) && !(s.func fn).ctl.testBit vec) then s else s.emit (.msix fn vec)

/-! ## Refusal of a start (R81, R212, R354) -/

/-- Whether a kernel start of context `x` passes every check. -/
def State.startOk (s : State) (p x : Nat) (kd : BitVec 512) : Bool :=
  let c := s.context p x
  let e := s.env 0 2 ⟨p, x, kd, 0⟩
  let listed := bitsBelow 48 (kdCores kd)
  kdCores kd != 0 && listed.all (fun k => partOfCore s.mode k == p) &&
  kdCoupling kd != 3 && (kdCoupling kd != 2 || s.accepts p 1) &&
  decide (kdIdent kd < identsPer s.mode) && !kdReserved kd &&
  kdDt kd % 64 == 0 && kdNt kd % 64 == 0 && kdPb kd % 64 == 0 &&
  e.covers s.mem 4 (kdDt kd) 64 && e.covers s.mem 4 (kdNt kd) 64 && e.covers s.mem 4 (kdPb kd) 256 &&
  c.en && listed.all (fun k => c.cores.testBit k) && c.saveWritten &&
  listed.all (fun k => match (s.core k).owner (kdBank kd) with | .any => true | .ctx y => y == x)

/-! ## Reports (R104, R294, R353) -/

/-- What a step kernel's STATUS does to the step (R294): whether it is abandoned, and whether EN is cleared. -/
def stepAbandons (status : Nat) : Bool := !(status == 0 || status == 0x0103 || status == 0x0105)
def stepClearsEn (status : Nat) : Bool :=
  status == 0x0101 || status == 0x0102 || status == 0x0104 || status == 0x0301 || status == 0x0304

/-- The step is abandoned with a status (R294). -/
def State.stepFail (s : State) (p status : Nat) : State :=
  s.updPart p (fun t => { t with
    stepFault := match t.stepFault with | some x => some x | none => some status
    srvOff := t.srvOff || stepClearsEn status })

/-- The scheduler takes the report of a step kernel. -/
def State.stepReport (s : State) (p status : Nat) : State :=
  let s := s.updPart p (fun t => { t with kpending := false, lastFault := if status = 0 then t.lastFault else status })
  if stepAbandons status then s.stepFail p status else s

/-- Wrapping sums of two lists of counters. -/
def addCounters (a b : List Nat) : List Nat :=
  (List.range (max a.length b.length)).map (fun i => (a.getD i 0 + b.getD i 0) % 2 ^ 64)

/-- Bytes to and from the host, counted outside any kernel or sequence (R297). -/
def State.hostPut (s : State) (req : HostReq) (p fn addr : Nat) (data : List Byte) : State :=
  (s.updPart p (fun t => { t with hostUse := addCounters t.hostUse [0, data.length] })).emit (.hostWrite req fn addr data)
def State.hostGet (s : State) (req : HostReq) (p fn addr n : Nat) : State :=
  (s.updPart p (fun t => { t with hostUse := addCounters t.hostUse [n, 0] })).emit (.hostRead req fn addr n)

/-- Requests of the rings' accesses: CXL.cache for function 0, CXL.io for every other (R342, R355). -/
def ringGet (fn : Nat) : HostReq := if fn = 0 then .rdCurr else .memRead
def ringPut (fn : Nat) : HostReq := if fn = 0 then .itoMWr else .memWrite

/-- The report is delivered to the kernel's starter: to the scheduler, or to the host by a CXL.io write (R353). A scheduler that has
waited for the serving context's last host kernel has a boundary due (R280). -/
def State.deliver (s : State) (p x : Nat) (step : Bool) (status : Nat) (report : BitVec 256) : State :=
  if step then s.stepReport p status
  else
    let c := s.context p x
    let s := s.setContext p x { c with kreport := report, kends := (c.kends + 1) % 2 ^ 32 }
    let s := s.updPart p (fun t => { t with wake := t.wake || (t.srvEn && t.srvCtx == x && t.phase != .running) })
    let fn := s.ctxFn p x
    if !s.isLive || (s.func fn).disabled then s
    else
      let s := if c.krAddr.getLsbD 0 then s.hostPut .memWrite p fn (c.krAddr.toNat / 32 * 32) (leBytes 32 report.toNat) else s
      s.irq fn 1

/-- KREPORT of the listed cores that belong to the partition. -/
def State.writeReports (s : State) (p : Nat) (cores : Nat) (report : BitVec 256) : State :=
  ((bitsBelow 48 cores).filter (fun k => partOfCore s.mode k == p)).foldl
    (fun s k => s.updCore k (fun c => { c with kreport := report })) s

/-- Counters of kernels ended by a disable (R366); a counter that has saturated changes no FUNCSTAT (R356). -/
def State.countAborted (s : State) (p status : Nat) : State :=
  if status = 0x0304 ∧ (s.func p).abortedKernels < 0xFFFF then (s.updFunc p (fun f => { f with abortedKernels := satAdd 16 f.abortedKernels 1 })).irq p 2 else s

/-- A refused or dropped start ends with a report: STATUS, KID, and zeros (R81, R365). -/
def State.endStart (s : State) (p x : Nat) (st : Start) (status : Nat) : State :=
  let report := mkReport status 0 (kdKid st.kd) 0 0 0 0 0 0
  ((s.countAborted p status).writeReports p (kdCores st.kd) report).deliver p x st.step status report

/-! ## Choosing (R213, R214) -/

/-- A core that a kernel may take; a test piece holds its core, or every core of its stack's die (R390). -/
def State.coreFree (s : State) (c : Nat) : Bool :=
  (s.core c).run.isNone && !(s.core c).testPiece &&
  (List.range 4).all (fun k => !(s.engine (4 * (c / 12) + k)).testPiece)

/-- What waits in a context: a SAVED kernel's record, or a pending start while no kernel is unfinished. -/
def Context.waits (c : Context) : Option (BitVec 512) :=
  match c.kernel with
  | some k => if c.state == .saved then some k.kd else none
  | none => c.pending.map Start.kd

/-- Whether a context waits before another: PRIO, SAVED first, earliest saved, then round robin (R213). -/
def State.waitsBefore (s : State) (p x y : Nat) : Bool :=
  let a := s.context p x
  let b := s.context p y
  let last := (s.part p).lastCtx
  let turn := fun z => (z + ctxPer s.mode - 1 - last % ctxPer s.mode) % ctxPer s.mode
  if a.prio ≠ b.prio then decide (b.prio < a.prio)
  else match a.kernel, b.kernel with
    | some j, some k => decide (j.savedAt ≤ k.savedAt)
    | some _, none => true
    | none, some _ => false
    | none, none => decide (turn x ≤ turn y)

/-- Waiting contexts in the order of R213. -/
def State.waiting (s : State) (p : Nat) : List Nat :=
  sortBy (s.waitsBefore p) ((s.ctxs).filter (fun x => (s.context p x).waits.isSome))

/-- The first waiting kernel whose cores are all free and not held by one before it. -/
def State.chooseFrom (s : State) (p : Nat) : List Nat → Nat → Option Nat
  | [], _ => none
  | x :: t, held =>
    match (s.context p x).waits with
    | none => s.chooseFrom p t held
    | some kd =>
      if kdCores kd &&& held == 0 && (bitsBelow 48 (kdCores kd)).all s.coreFree then some x
      else s.chooseFrom p t (held ||| kdCores kd)

def State.choose (s : State) (p : Nat) : Option Nat := s.chooseFrom p (s.waiting p) 0

/-- Every pending start that waits pre-empts the running kernels of lower priority on its cores (R214). -/
def State.preemptAll (s : State) (p : Nat) : State :=
  (s.ctxs).foldl (fun s x =>
    let c := s.context p x
    match c.kernel, c.pending with
    | none, some st =>
      (s.ctxs).foldl (fun s y =>
        let v := s.context p y
        match v.kernel with
        | some k =>
          if v.prio < c.prio ∧ kdCores k.kd &&& kdCores st.kd ≠ 0 ∧ (v.state = .running ∨ v.state = .restoring) then
            s.triggerSave p y false 0x0303
          else s
        | none => s) s
    | _, _ => s) s

/-! ## Starting (R82, R112, R113, R125, R126, R215, R279) -/

/-- A core takes a kernel: zeroing under LASTUSE, and everything a kernel start resets. -/
def State.takeCore (s : State) (p x : Nat) (kd : BitVec 512) (rank c : Nat) : State :=
  let k := s.core c
  let other := match k.lastUse with | .ctx y => y != x | _ => false
  let lock := if kdCoupling kd = 0 then (s.part p).coupling == 1 && s.accepts p 1 else kdCoupling kd == 2
  let q := fun i => ({ count := Table.get 0 (s.context p x).counts (4 * c + i) } : QueueSt)
  let m := if other then s.mem.scratchZero c else s.mem
  let k := { k with
    run := some ⟨p, x, kd, rank⟩, params := [], fetch := kdEntry kd, fetchDone := false
    qMx := q 0, qVec := q 1, qDma := q 2, qSeq := q 3, streams := []
    vregs := [], vbase := if other then none else some m.fresh, sample := []
    w0 := none, w1 := none, active := none, preload := false, acc := []
    spool := { lockstep := lock }, kflags := 0, vcompatNow := if s.accepts p 8 then k.vcompat else k.vcompat / 2 * 2
    lastUse := .ctx x }
  { s with mem := { m with fresh := m.fresh + 1 } }.setCore c k

/-- Words 60 to 63 of a step kernel's parameter block (R279). -/
def State.stepWords (s : State) (p : Nat) : List (Nat × Word) :=
  let t := s.part p
  let size := alignUp (bdEo t.seqmax t.rowsmax + 128 * t.seqmax) 65536
  let buf := t.bdbase.toNat + t.steps % 2 * size
  [(60, BitVec.ofNat 32 t.steps), (61, BitVec.ofNat 32 buf), (62, BitVec.ofNat 32 (fld buf 43 32)),
   (63, BitVec.ofNat 32 t.batch.length)]
where
  /-- EO of R281. -/
  bdEo (ns nr : Nat) : Nat :=
    let tok := alignUp (64 + 32 * ns) 64
    let sp := alignUp (tok + 4 * nr) 64
    alignUp (sp + 64 * nr + 16 * nr) 64

/-- The copy of core `c` ends, with the status of its failure. Of several that fail the lowest core counts, once all have
ended (R82). -/
def Kernel.copied (k : Kernel) (c : Nat) (bad : Option Nat) : Kernel :=
  let worst := match bad, k.copyBad with
    | some st, some b => if c < b.1 then some (c, st) else some b
    | some st, none => some (c, st)
    | none, b => b
  let left := k.copying - 2 ^ c
  { k with
    copying := left, copyBad := worst
    fault := match k.fault with
      | some f => some f
      | none => if left = 0 then worst.map (fun b => { status := b.2, core := b.1 }) else none }

/-- A listed core copies the parameter block, once it can be read (R82). -/
def State.copyParams (s : State) (c : Nat) : State :=
  match s.running c with
  | none => s
  | some (r, k) =>
    if !k.copying.testBit c then s
    else
      let (bs, w) := Wk.read (s.env c 2 r) { mem := s.mem } (kdPb r.kd) 256
      let s := s.absorbReads c 2 r 0 w.counted
      if w.wait && w.fault.isNone then s
      else
        let s := s.updContext r.part r.ctx (fun t => { t with kernel := t.kernel.map (fun k => k.copied c w.fault) })
        let s := s.updQueue c 2 (fun q => { q with landing := [] })
        match w.fault with
        | some _ => s
        | none =>
          let words := (List.range 64).zip ((chunks 4 64 bs).map (fun b => BitVec.ofNat 32 (leNat b)))
          let base := words.foldl (fun t p => Table.set t p.1 p.2) []
          let all := if k.step then Table.setAll base (s.stepWords r.part) else base
          s.updCore c (fun t => { t with params := all })

/-- A kernel starts on its cores. -/
def State.startKernel (s : State) (p x : Nat) (st : Start) : State :=
  let listed := bitsBelow 48 (kdCores st.kd)
  let s := s.updContext p x (fun t => { t with
    state := .running, kernel := some { kd := st.kd, step := st.step, copying := kdCores st.kd } })
  let s := ((List.range listed.length).zip listed).foldl (fun s k => s.takeCore p x st.kd k.1 k.2) s
  listed.foldl (fun s c => s.copyParams c) s

/-! ## Accounting (R297, R298) -/

/-- Add what was used to an identity: 4 engine times, 6 byte counts, energy. -/
def Part.charge (t : Part) (ident : Nat) (use : List Nat) : Part :=
  { t with accounts := Table.upd {} t.accounts ident (fun a =>
      { a with engine := addCounters a.engine (use.take 4), bytes := addCounters a.bytes ((use.drop 4).take 6),
               energy := (a.energy + use.getD 10 0) % 2 ^ 64 }) }

/-- Host bytes outside any kernel or sequence, and the energy of what other nodes and the host moved over the tether links, become
visible at a kernel end or a boundary (R161, R297, R311); the rest of the energy is the part's own (log 8). -/
def Part.settle (t : Part) (fresh : Nat) : Part :=
  { t with
    unattributed := addCounters t.unattributed ((linkByte * t.linkUse + Config.energy fresh) / 40000000 :: t.hostUse)
    hostUse := [0, 0]
    linkUse := 0 }

/-- What a kernel used. The event counts behind the times are the part's own (log 6); of the energy, in µJ, R161 gives what
stack accesses and the stack engines' lanes cost, and the rest is the part's own (log 8). -/
def kernelUse (fresh : Nat) (k : Kernel) : List Nat :=
  (List.range 4).map (fun i => Config.cycles fresh i) ++ k.moved ++ [(k.charge + Config.energy fresh) / 40000000]

/-! ## Ending (R102 to R105, R204, R218, R223) -/

/-- The queues of a core. -/
def Core.queues (k : Core) : List QueueSt := [k.qMx, k.qVec, k.qDma, k.qSeq]

/-- A STK command is of the context's kernel. -/
def StkCmd.of (c : StkCmd) (p x : Nat) : Bool := c.part == p && c.ctx == x

/-- Whether a STK command of the context's kernel, forwarded whole, is with a stack engine. -/
def State.stkBusy (s : State) (p x : Nat) : Bool :=
  s.engines.any (fun e =>
    e.2.subq.any (fun q => q.2.any (fun c => c.whole && c.of p x)) ||
    e.2.active.any (fun a => a.2.cmd.whole && a.2.cmd.of p x))

/-- A command whose entries stopped coming leaves its engine with the kernel that forwarded it (log 24); the index-range flags
of its work units stay with their core (R55). -/
def Engine.drop (e : Engine) (p x : Nat) : Engine :=
  { e with subq := e.subq.map (fun q => (q.1, q.2.filter (fun c => !c.of p x)))
           active := e.active.filter (fun a => !a.2.cmd.of p x) }
def State.dropPartial (s : State) (p x : Nat) : State :=
  let left := (s.engines.flatMap (fun e => e.2.active.map Prod.snd)).filter (fun a => a.cmd.of p x)
  let s := left.foldl (fun s a => s.updCore a.cmd.core (fun k => k.orFlags a.flags)) s
  { s with engines := s.engines.map (fun e => (e.1, e.2.drop p x)) }

/-- Whether the DMA queue of a core still forwards a STK command and its entries come (R186). R186 finishes a forwarding and R217
stops a consumer that waits for an entry at once: where no SEQ command that has begun generates the entries, the save here does not
wait for them, and the part forwarded so far stays with the stack engine (DESIGN CHOICE, log 24). -/
def State.forwardsOn (s : State) (c : Nat) : Bool :=
  match s.forwarding c, (s.core c).qDma.run with
  | some _, some iss =>
    let t := Table.get {} (s.core c).streams (cbStream iss.block)
    t.gen.isSome || decide ((boundOps iss.block).length ≤ t.entries.length)
  | _, _ => false

/-- Whether the entries that a command in progress waits for are there or still being generated (R98, R100). -/
def Core.fed (k : Core) (i : Issued) : Bool :=
  let t := Table.get {} k.streams (cbStream i.block)
  (boundOps i.block).isEmpty || decide ((boundOps i.block).length ≤ t.entries.length) || t.gen.isSome

/-- Whether the opcode of a queue's command in progress is the given one. -/
def QueueSt.runs (q : QueueSt) (op : Nat) : Bool := match q.run with | some i => cbOp i.block == op | none => false

/-- BELAY of a belay command's immediates (R202). -/
def cbBelay (b : BitVec 512) : Nat := imm b 7 0

/-- Whether the wait of an arrival-table entry is over (R202). -/
def Arrival.over (a : Arrival) : Bool :=
  match a.gen, a.released with
  | some g, some r => r != g
  | _, _ => false

/-- A stream slot of a core. -/
def Core.stream (k : Core) (i : Nat) : Stream := Table.get {} k.streams i

/-- Whether slot `i` generates for opcode `op`, and no earlier SEQ command still has reads to make (R192). -/
def Core.mayGen (k : Core) (op i : Nat) : Bool :=
  match (k.stream i).gen with
  | none => false
  | some g => cbOp g.block == op &&
    k.streams.all (fun p => p.1 == i || decide ((k.stream i).count < p.2.count) ||
      (match p.2.gen with | some h => cbOp h.block == 0x1001 | none => true))

/-- Whether slot `i` can get another entry as things stand: it generates, may, and has room. -/
def Core.generates (k : Core) (i : Nat) : Bool :=
  match (k.stream i).gen with
  | some g => k.mayGen (cbOp g.block) i && decide ((k.stream i).entries.length < 64)
  | none => false

/-- Whether queue `q` of a core of a stopped kernel still executes a command that can finish (R103, R195): it waits for memory,
for a stack, for its next LOCKSTEP cycle or for its partner at the spool, for entries that come, for a release on its way, or
for the rest of a stream. -/
def State.executes (s : State) (c q : Nat) : Bool :=
  let k := s.core c
  let t := k.queue q
  (match t.run with
   | none => false
   | some i =>
     let op := cbOp i.block
     t.stalled ||
     (if op = 0x6010 then false
      else if op = 0x6002 then
        let n := cbBelay i.block
        let p := partOfCore s.mode c
        (s.part p).arrivalsIn.any (fun x => x.2.2.1 == n) || (s.part p).releases.any (fun x => x.1 == c && x.2.1 == n) ||
        t.arrivals.any (fun a => a.belay == n && a.over)
      else if op = 0x3003 then k.spool.lockstep || k.qVec.runs 0x400B || k.spool.credits != 0
      else if op = 0x400B then k.spool.lockstep || k.qMx.runs 0x3003 || (Table.get {} k.spool.slots (k.spool.cons % 16)).tag == k.spool.cons % 65535
      else k.fed i)) ||
  (q == 3 && k.streams.any (fun x => k.generates x.1))

/-- A late fault of any listed core, lowest core and queue first. -/
def State.anyLate (s : State) (listed : List Nat) : Option FaultInfo :=
  firstSome (fun c => firstSome QueueSt.lateFault (s.core c).queues) listed

/-- No fabric operation of the listed cores is outstanding. -/
def State.coresQuiet (s : State) (p : Nat) (listed : List Nat) : Bool :=
  (s.part p).outstanding.all (fun r => !listed.contains r.2.core) &&
  listed.all (fun c => (s.core c).queues.all (fun q => q.remoteOut == 0))

/-- Whether the kernel of a context has ended on all its cores. After a fault each queue first finishes the command it is executing, but
for those that a save has stopped; a DMA queue that still forwards under a save is not stopped (R103, R186, R218). -/
def State.ended (s : State) (p x : Nat) (k : Kernel) : Bool :=
  let listed := bitsBelow 48 (kdCores k.kd)
  let qs := listed.flatMap (fun c => (s.core c).queues)
  s.coresQuiet p listed && !s.stkBusy p x &&
  (if k.fault.isSome then
    listed.all (fun c => (List.range 4).all (fun q =>
      (((s.core c).queue q).stopped && !(q == 2 && s.forwardsOn c)) || !s.executes c q))
   else (s.context p x).state == .running && qs.all (fun q => q.kend && q.arrivals.all (fun a => a.gen.isSome)))

/-- A queue when no kernel runs: only its counter still reads. -/
def QueueSt.idle (q : QueueSt) : QueueSt := { count := q.count }

/-- A core when its kernel has ended. SPOOLSTAT and EPOCH keep what the kernel left until the next start (log 21). -/
def Core.release (k : Core) : Core :=
  { k with run := none, fetchDone := true, qMx := k.qMx.idle, qVec := k.qVec.idle, qDma := k.qDma.idle, qSeq := k.qSeq.idle,
           streams := [], sample := [] }

/-- A core that a kernel has run on, or that its save has left: its scratch was last used by the context (R215). -/
def Core.ranFor (k : Core) (x : Nat) : Core := { k.release with lastUse := .ctx x }

/-- The counters of R108 that a context keeps from the cores of a kernel. -/
def State.keepCounts (s : State) (p x : Nat) (listed : List Nat) (core : Nat → Core) : State :=
  let cs := listed.flatMap (fun c => (List.range 4).map (fun q => (4 * c + q, ((core c).queue q).count)))
  s.updContext p x (fun t => { t with counts := Table.setAll t.counts cs })

/-- The work of a disable has ended: QUIESCING clears (R367). -/
def State.quiesceDone (s : State) : State :=
  (List.range 128).foldl (fun s fn =>
    let f := s.func fn
    if !f.quiescing then s
    else
      let p := funcPart fn
      let t := s.part p
      let pf := funcVf fn == 0
      let busy := (s.ctxs).any (fun x => (pf || s.ctxFn p x == fn) &&
          ((s.context p x).kernel.isSome || (s.context p x).pending.isSome)) ||
        t.slots.any (fun q => q.2.state != .free && (pf || q.2.func == funcVf fn)) ||
        (pf && t.phase == .running)
      if busy then s else (s.updFunc fn (fun f => { f with quiescing := false })).irq fn 2) s

/-- What a core of a kernel holds: itself while the kernel runs, else its saved state. -/
def State.coreOf (s : State) (p x : Nat) (c : Nat) : Core :=
  let t := s.context p x
  if t.state == .running || t.state == .saving then s.core c else Table.get {} t.savedCores c

/-- The kernel of a context ends: reports, counters, free cores (R102, R104). -/
def State.endKernel (s : State) (p x : Nat) (k : Kernel) (cycles : Nat) : State :=
  let listed := bitsBelow 48 (kdCores k.kd)
  let st := (s.context p x).state
  let n := s.mem.fresh
  let s := s.dropPartial p x
  let core := s.coreOf p x
  let flags := listed.foldl (fun a c => a ||| (core c).kflags) 0
  let status := reportStatus k.fault k.liveWrite flags
  let f := k.fault.getD { status := status }
  let report := mkReport status f.tag (kdKid k.kd) f.count f.queue f.core flags k.stalls cycles
  let s : State := { s with mem := { s.mem with fresh := n + 1 } }
  let s := s.keepCounts p x listed core
  let s := if st == .running || st == .saving then listed.foldl (fun s c => s.updCore c (fun k => k.ranFor x)) s
    else if st == .restoring then listed.foldl (fun s c => s.updCore c Core.release) s else s
  let s := s.updContext p x (fun t => { t with state := .idle, kernel := none, trigger := none, savedCores := [] })
  let s := s.writeReports p (kdCores k.kd) report
  let s := s.countAborted p status
  let use := kernelUse n k
  let s := s.updPart p (fun t =>
    (if k.step then { t with stepUse := addCounters t.stepUse use } else t.charge (kdIdent k.kd) use).settle n)
  ((s.deliver p x k.step status report).preemptAll p).quiesceDone

end Sys2Proof.Machine
end

