-- ==== Sys2Proof/Machine/Matrix.lean ====
section
/-! DEFINITION. The matrix engine: weight tiles, MX_LOADW, MX_MAC, MX_ZERO, MX_DRAIN and the producer's side of the spool
(chapter 05). -/

namespace Sys2Proof.Machine

/-! ## Modes (R111) -/

/-- The array's mode for a weight format: 0 FP8, 1 INT8, 2 16-bit, 3 plane. -/
def mxMode (f : Nat) : Option Nat :=
  if isFP8 f || isMX f then some 0
  else if f = fINT8 then some 1
  else if f = fBF16 ∨ f = fFP16 then some 2
  else if isPI f then some 3
  else none

/-- Weight tile K and N of a mode. -/
def mxK (mode : Nat) : Nat := if mode = 2 then 128 else 256
def mxN (mode : Nat) : Nat := if mode = 2 then 128 else if mode = 3 then 2048 else 256

/-- The operand pairs of R46. -/
def mxPair (wf af : Nat) : Bool :=
  if isFP8 wf || isMX wf then isFP8 af || isMX af
  else if isPI wf then isFP8 af || af == fINT8
  else (wf == fINT8 || wf == fBF16 || wf == fFP16) && af == wf

/-- A weight operand's own checks: a weight format, RANK 2 or more, plane layout, PLANE_WEIGHTS accepted (R5, R65, R116, R117). -/
def weightOk (e : Env) (d : Nat) : Bool :=
  (mxMode (dFmt d)).isSome && decide (2 ≤ dRank d) && (!isPI (dFmt d) || (dPlane d && e.accept.testBit 0))

/-! ## Weight registers (R112, R115) -/

def Core.wreg (k : Core) (r : Bool) : Option WTile := if r then k.w1 else k.w0
def Core.setWreg (k : Core) (r : Bool) (t : WTile) : Core := if r then { k with w1 := some t } else { k with w0 := some t }
/-- The register a load fills: the one that is not active, and W0 while none is. -/
def Core.idleReg (k : Core) : Bool := match k.active with | some r => !r | none => false

/-- Columns of a weight tile, read from the origin: K elements each. -/
def readColumns (e : Env) (o : Opn) (org : List Int) (kk : Nat) : List Nat → Wk → List (List Elem) × Wk
  | [], w => ([], w)
  | n :: t, w =>
    let (c, w) := readElems e o ((List.range kk).map (fun i => addCo org [i, n])) w
    let (cs, w) := readColumns e o org kk t w
    (c :: cs, w)

/-- Scale of block `b` of a column: that of an element which is not synthesised padding (R63, R70). -/
def colScale (len : Nat) (c : List Elem) (b : Nat) : Nat :=
  match ((c.drop (len * b)).take len).find? (fun v => !v.syn) with
  | some v => v.scale
  | none => 0x7F

/-- A weight tile read from memory (R114). -/
def readTile (e : Env) (o : Opn) (org : List Int) (w : Wk) : WTile × Wk :=
  let f := dFmt o.d
  let mode := (mxMode f).getD 0
  let (cols, w) := readColumns e o org (mxK mode) (List.range (mxN mode)) w
  let len := blockLen f
  ({ format := f, k := mxK mode, n := mxN mode, elems := cols.map (fun c => c.map (fun v => v.code)),
     scales := if isWhole f then [] else cols.map (fun c => (List.range (mxK mode / len)).map (colScale len c)) }, w)

/-- Weight (k, n) of a tile as a value. -/
def WTile.value (t : WTile) (k n : Nat) : Fp :=
  elemValue t.format ((t.elems.getD n []).getD k 0) ((t.scales.getD n []).getD (k / blockLen t.format) 0x7F)

/-! ## Arithmetic (R49, R50, R52, R53, R120) -/

/-- An FP32 addition of the matrix engine: a subnormal sum becomes zero (R45). -/
def mxAdd (a b : Word) : Word := flush (addF a b).1

/-- An FP32 addition of an exact product (R49). -/
def mxAddProd (a : Word) (p : Fp) : Word := mxAdd a (f32 p).1

/-- Products added to a running sum, in ascending reduction index (R50). -/
def sumFrom (acc : Word) (row col : List Fp) : Word := (row.zip col).foldl (fun s p => mxAddProd s (p.1.mul p.2).1) acc

/-- The pass sum of one column (R120). -/
def passSum (row col : List Fp) : Word := sumFrom 0 row col

/-- The shared exponent of an activation block: none if all its elements are zero (R52). -/
def blockExp (l : List Fp) : Option Int := l.foldl (fun a v => maxOpt a v.log2) none

/-- Whether a block has a NaN or an infinity. -/
def blockBad (l : List Fp) : Bool := l.any (fun v => v.isNaN || v.isInf)

/-- The signed mantissa of an element under a shared exponent (R52). -/
def mantissa (e : Int) (v : Fp) : Int :=
  match v with
  | .fin n m x =>
    let (u, _) := roundUnits .nearest m x (e - 14)
    if n then -(u : Int) else u
  | _ => 0

/-- The signed weight of a plane code of `b` bits (R40, R53). -/
def planeWeight (f code : Nat) : Int := sext (f - 0x0F) code

/-- Contribution of one activation block to one column (R53): an FP32 value. -/
def planeDrain (f : Nat) (act : List Fp) (codes : List Nat) (scale : Nat) : Word :=
  if blockBad act || scale == 0xFF then qNaN
  else match blockExp act with
    | none => 0
    | some e =>
      let isum := (act.zip codes).foldl (fun (a : Int) p => a + mantissa e p.1 * planeWeight f p.2) 0
      match ofF32 (f32 (ofInt isum)).1 with
      | .fin n m x => (f32 (.fin n m (x + e - 14 + scale - 127))).1
      | _ => qNaN

/-- Plane-mode accumulation over the segments of one row and column, `add` being the engine's addition (R53, R121). -/
def planeSum (add : Word → Word → Word) (f : Nat) (acc : Word) (act : List Fp) (codes scales : List Nat) (segs : Nat) : Word :=
  (List.range segs).foldl (fun a m =>
    add a (planeDrain f ((act.drop (32 * m)).take 32) ((codes.drop (32 * m)).take 32) (scales.getD (m / 2) 0x7F))) acc

/-! ## The accumulator (R113) -/

def accKey (bank row col : Nat) : Nat := 65536 * bank + 256 * row + col
def Core.accAt (k : Core) (bank row col : Nat) : Word := Table.get 0 k.acc (accKey bank row col)
/-- A row group reads +0. -/
def Core.zeroGroup (k : Core) (bank g : Nat) : Core :=
  { k with acc := k.acc.filter (fun p => !(p.1 / 65536 == bank && p.1 % 65536 / 8192 == g)) }
/-- Values of a row group, by 256 * row + column. -/
def Core.groupRows (k : Core) (bank g : Nat) : Table Word :=
  (k.acc.filter (fun p => p.1 / 65536 == bank && p.1 % 65536 / 8192 == g)).map (fun p => (p.1 % 8192, p.2))

/-! ## MX_MAC (R114 to R116) -/

def macRows (b : BitVec 512) : Nat := imm b 8 0
def macRgroup (b : BitVec 512) : Nat := imm b 18 16
def macAbank (b : BitVec 512) : Nat := imm b 26 24
def macChalf (b : BitVec 512) : Nat := imm b 27 27
def macWsrc (b : BitVec 512) : Nat := imm b 29 28

/-- OPD1 is used under LOAD, and as it stands under PRELOADED. -/
def macForm (b : BitVec 512) : Form :=
  { uses := [true, if macWsrc b = 0 then true else if macWsrc b = 2 then false else cbOpd b 1 != 0xFFFF, false, false] }

/-- The weights an MX_MAC starts with, where a register holds them. -/
def Core.startTile (k : Core) (wsrc : Nat) : Option WTile :=
  if wsrc = 2 then k.active.bind k.wreg else if wsrc = 1 then (if k.preload then k.wreg k.idleReg else none) else none

/-- Every step along dimension 0 of operand `o` is a multiple of `len`. -/
def incMultiple (n o len : Nat) : Bool :=
  (List.range 6).all (fun l => decide (nDepth n ≤ l) || incDim (nInc n l o) != 0 || incStep (nInc n l o) % (len : Int) == 0)

/-- The checks of R65, R116 and R72. -/
def macOk (e : Env) (m : MemSys) (k : Core) (iss : Issued) : Bool :=
  let b := iss.block
  let iters := nIters (nCounts iss.nest k.params)
  let act := iss.descs.getD 0 0
  let wd := iss.descs.getD 1 0
  let named := cbOpd b 1 != 0xFFFF
  let start := k.startTile (macWsrc b)
  let fmts := (if named then [dFmt wd] else []) ++ (match start with | some t => [t.format] | none => [])
  let mode := (fmts.head?.bind mxMode).getD 0
  imm b 15 9 == 0 && imm b 23 19 == 0 && imm b 255 30 == 0 &&
  decide (1 ≤ macRows b) && decide (32 * macRgroup b + macRows b ≤ 256) && macWsrc b != 3 &&
  (macWsrc b != 1 || ((iters == 1 && !named) || (decide (1 < iters) && named) || iters == 0)) &&
  (macWsrc b == 0 || start.isSome) &&
  decide (2 ≤ dRank act) && (!named || weightOk e wd) &&
  fmts.all (fun f => mxPair f (dFmt act)) && fmts.all (fun f => mxMode f == some mode) &&
  fmts.all (fun f => !isPI f || e.accept.testBit 0) &&
  (mode != 3 || macAbank b == 0) && (mode == 2 || macChalf b == 0) &&
  (isWhole (dFmt act) || incMultiple iss.nest 0 (blockLen (dFmt act))) &&
  (!named || isWhole (dFmt wd) || incMultiple iss.nest 1 (blockLen (dFmt wd))) &&
  commonOk e m k.params iss (macForm b) [[mxK mode, macRows b], [mxK mode, mxN mode]]

/-- One accumulator element after one pass of a row over a column (R120, R121). -/
def accUpdate (f mode : Nat) (t : WTile) (old : Word) (row : List Fp) (n : Nat) : Word :=
  if mode = 3 then planeSum mxAdd f old row (t.elems.getD n []) (t.scales.getD n []) 8
  else mxAdd old (passSum row ((List.range t.k).map (fun i => t.value i n)))

/-- The accumulator's place for row `r` and column `n` of a tile (R113). -/
def accPlace (b : BitVec 512) (mode r n : Nat) : Nat :=
  if mode = 3 then accKey (n / 256) (32 * macRgroup b + r) (n % 256)
  else accKey (macAbank b) (32 * macRgroup b + r) (n + 128 * macChalf b)

/-- The accumulator after one pass of the active tile over the activation rows. -/
def Core.accumulate (k : Core) (b : BitVec 512) (t : WTile) (af : Nat) (rows : List (List Elem)) : Core :=
  let mode := (mxMode t.format).getD 0
  let row := fun (acc : Table Word) (p : Nat × List Elem) =>
    let vs := p.2.map (fun v => elemValue af v.code v.scale)
    (List.range t.n).foldl (fun acc n =>
      Table.upd 0 acc (accPlace b mode p.1 n) (fun old => accUpdate t.format mode t old vs n)) acc
  { k with acc := ((List.range rows.length).zip rows).foldl row k.acc }

/-- One iteration of MX_MAC (R114, R115). -/
def macWork (e : Env) (k : Core) (iss : Issued) (ops : List Opn) (n : Nat) (w : Wk) : Core × Wk :=
  let b := iss.block
  let cnts := nCounts iss.nest k.params
  let act := ops.getD 0 (plainOpn 0)
  let load := macWsrc b == 0 || (macWsrc b == 1 && n != 0)
  let (k, w) :=
    if load then
      let r := k.idleReg
      let (t, w) := readTile e (ops.getD 1 (plainOpn 0)) (nOrigin iss.nest cnts 1 n) w
      ({ k.setWreg r t with active := some r, preload := false }, w)
    else if macWsrc b = 1 then ({ k with active := some k.idleReg, preload := false }, w)
    else (k, w)
  match k.active.bind k.wreg with
  | none => (k, w)
  | some t =>
    let (rows, w) := readColumns e act (nOrigin iss.nest cnts 0 n) t.k (List.range (macRows b)) w
    (k.accumulate b t (dFmt act.d) rows, w)

/-- MX_MAC (R114). -/
def execMxMac (core : Nat) (s : State) : Host.Outcome State Fault Refusal :=
  .next (s.engineStep core 0 0x3002 macForm (fun _ e m k i => need (macOk e m k i)) nestTotal (nestBody core 0 true macWork))

/-- MX_LOADW's work (R117): the tile goes into the register that is not active, and a preload is pending. -/
def loadWork (e : Env) (k : Core) (_ : Issued) (ops : List Opn) (_ : Nat) (w : Wk) : Core × Wk :=
  let (t, w) := readTile e (ops.getD 0 (plainOpn 0)) [] w
  ({ k.setWreg k.idleReg t with preload := true }, w)

def loadForm : Form := { uses := [true, false, false, false], nest := false, stream := false }

/-- MX_LOADW (R117). -/
def execMxLoadw (core : Nat) (s : State) : Host.Outcome State Fault Refusal :=
  .next (s.engineStep core 0 0x3001 (fun _ => loadForm)
    (fun _ e m k i =>
      let d := i.descs.getD 0 0
      let mode := (mxMode (dFmt d)).getD 0
      need (imm i.block 255 0 == 0 && weightOk e d && commonOk e m k.params i loadForm [[mxK mode, mxN mode]]))
    nestTotal (nestBody core 0 true loadWork))

/-! ## MX_ZERO and MX_DRAIN (R118) -/

def zeroForm : Form := { uses := [false, false, false, false], nest := false, stream := false }

/-- The (bank, group) pairs that the masks name: groups ascending, within each the banks ascending. -/
def maskPairs (b : BitVec 512) : List (Nat × Nat) :=
  (bitsBelow 8 (imm b 15 8)).flatMap (fun g => (bitsBelow 8 (imm b 7 0)).map (fun q => (q, g)))

/-- MX_ZERO (R118). -/
def execMxZero (core : Nat) (s : State) : Host.Outcome State Fault Refusal :=
  .next (s.engineStep core 0 0x3004 (fun _ => zeroForm)
    (fun _ _ _ _ i => need (imm i.block 7 0 != 0 && imm i.block 15 8 != 0 && imm i.block 255 16 == 0))
    (fun _ _ _ => 1)
    (fun s _ i _ => (s.updCore core (fun k => (maskPairs i.block).foldl (fun k p => k.zeroGroup p.1 p.2) k), .ok)))

/-- The producer writes slot number PROD, begun in epoch cycle `at` (R125). -/
def Spool.drain (sp : Spool) (bank g dtag cyc : Nat) (rows : Table Word) : Spool :=
  let i := sp.prod % 16
  let o := Table.get {} sp.slots i
  { sp with
    slots := Table.set sp.slots i
      { tag := sp.prod % 65535, bank := bank, group := g, dtag := dtag, rows := rows, begun := cyc,
        oldTag := o.tag, oldRows := o.rows, oldBank := o.bank, oldGroup := o.group, oldDtag := o.dtag, oldBegun := o.begun }
    prod := sp.prod + 1
    credits := if sp.lockstep then sp.credits else sp.credits - 1
    epoch := max sp.epoch (min (cyc + 32) 0xFFFFFFFF) }

/-- First cycle in which the producer may begin its next slot: 32 after it began the last one (R123). -/
def Spool.ready (sp : Spool) : Nat :=
  if sp.prod = 0 then 0 else (Table.get {} sp.slots ((sp.prod - 1) % 16)).begun + 32

/-- One slot of MX_DRAIN: it waits for a credit under CREDITED (R127), and for ever faults where none can come (R131).
Under LOCKSTEP an event of the row writes one slot, so that reads fall between (R128; log 16). -/
def drainSlot (core cycle first : Nat) (s : State) (_ : CoreRun) (iss : Issued) (n : Nat) : State × Done :=
  let k := s.core core
  if k.spool.lockstep && n != first then (s, .wait)
  else if !k.spool.lockstep && k.spool.credits == 0 then
    if k.qVec.kend then (s, .fault 0x0102) else (s, .wait)
  else
    let p := (maskPairs iss.block).getD n (0, 0)
    let sp := k.spool.drain p.1 p.2 (cbTag iss.block) (max cycle k.spool.ready) (k.groupRows p.1 p.2)
    let k := { k with spool := sp }
    (s.setCore core (if (imm iss.block 16 16) = 1 then k.zeroGroup p.1 p.2 else k), .ok)

/-- MX_DRAIN (R118, R125); `cycle` is the epoch cycle in which the first slot of this event begins. -/
def execMxDrain (core cycle : Nat) (s : State) : Host.Outcome State Fault Refusal :=
  let first := match (s.core core).qMx.run with | some i => i.iter | none => 0
  .next (s.engineStep core 0 0x3003 (fun _ => zeroForm)
    (fun _ _ _ _ i => need (imm i.block 7 0 != 0 && imm i.block 15 8 != 0 && imm i.block 255 17 == 0))
    (fun _ _ i => (maskPairs i.block).length)
    (drainSlot core cycle first))

end Sys2Proof.Machine
end

