-- ==== Sys2Proof/Machine/VecOps.lean ====
section
/-! DEFINITION. Operands of the vector engine: registers and compatibility lines, tiles and tails, widening, narrowing
with flags and stochastic rounding, MX block forming, and the lane tree (R135 to R140, R143, R157). -/

namespace Sys2Proof.Machine

/-! ## Registers (R135, R136, R157) -/

/-- Compatibility mode is in force (R157). -/
def Core.compat (k : Core) : Bool := k.vcompatNow.testBit 0

/-- Address of a lane of a compatibility line. -/
def Core.lineAddr (k : Core) (c reg lane : Nat) : Nat :=
  2 ^ 40 + c * 0x80_0000 + fld k.vcompatNow 22 16 * 65536 + 1024 * reg + 4 * lane

/-- A register lane's bits. -/
def readReg (e : Env) (k : Core) (w : Wk) (reg lane : Nat) : Word × Wk :=
  if k.compat then
    let (n, w) := w.readNat e (k.lineAddr e.core reg lane) 4
    (BitVec.ofNat 32 n, w)
  else
    let i := 256 * reg + lane
    (Table.get (match k.vbase with | some b => Config.freeWord b i | none => 0) k.vregs i, w)

/-- Write a register lane. -/
def writeReg (e : Env) (k : Core) (w : Wk) (reg lane : Nat) (v : Word) : Core × Wk :=
  if k.compat then (k, w.put e (bytesAt (k.lineAddr e.core reg lane) (leBytes 4 v.toNat)))
  else ({ k with vregs := Table.set k.vregs (256 * reg + lane) v }, w)

/-! ## Operands and their checks -/

/-- What an opcode allows in an operand place: registers, memory, the registers of its block, whether it is written, and
its tile in memory. -/
structure VUse where
  used : Bool := true
  reg : Bool := true
  mem : Bool := true
  size : Nat := 1
  write : Bool := false
  tile : List Nat := []
  deriving DecidableEq, Repr

def noUse : VUse := { used := false }

def vLanes (b : BitVec 512) : Nat := imm b 8 0
def vRows (b : BitVec 512) : Nat := imm b 14 9
def vTail (b : BitVec 512) : Bool := imm b 15 15 == 1
def vFn (b : BitVec 512) : Nat := imm b 23 16

/-- The form of a VEC command. -/
def vecForm (uses : List VUse) (b : BitVec 512) : Form :=
  { uses := (List.range 4).map (fun o => (uses.getD o noUse).used)
    regs := (List.range 4).map (fun o => (uses.getD o noUse).used && decide (0xFF00 ≤ cbOpd b o)) }

/-- Every step along dimension 0 of operand `o` is a multiple of 32 (R140). -/
def incBlocks (n o : Nat) : Bool :=
  (List.range 6).all (fun l => decide (nDepth n ≤ l) || incDim (nInc n l o) != 0 || incStep (nInc n l o) % 32 == 0)

/-- The checks of one operand (R72, R136, R139, R140). -/
def vUseOk (k : Core) (iss : Issued) (lanes o : Nat) (u : VUse) : Bool :=
  let v := cbOpd iss.block o
  let d := iss.descs.getD o 0
  !u.used ||
  (if 0xFF00 ≤ v then u.reg && decide (v - 0xFF00 + max 1 u.size ≤ (if k.compat then 64 else 32))
   else u.mem && !isPI (dFmt d) && (!u.write || destOk d) &&
     (!isMX (dFmt d) || (lanes % 32 == 0 && incBlocks iss.nest o)))

/-- The checks that every VEC command passes, with `lanes` lanes for R140. -/
def vecOperandsOk (e : Env) (m : MemSys) (k : Core) (iss : Issued) (lanes : Nat) (uses : List VUse) : Bool :=
  (List.range 4).all (fun o => vUseOk k iss lanes o (uses.getD o noUse)) &&
  commonOk e m k.params iss (vecForm uses iss.block) (uses.map VUse.tile)

/-- The common immediates (R137); `fns` is the number of listed FN values, `low` the first reserved bit, `used` a mask of
the bits that the opcode defines from bit 32 on. -/
def vecImmOk (b : BitVec 512) (fns used : Nat) : Bool :=
  decide (1 ≤ vLanes b) && decide (vLanes b ≤ 256) && decide (1 ≤ vRows b) && decide (vRows b ≤ 32) &&
  decide (vFn b < fns) && imm b 31 24 == 0 && (imm b 255 32) &&& (2 ^ 224 - 1 - used) == 0

/-- A mask of bits [hi:lo] of the immediates, counted from bit 32. -/
def bitsFrom32 (hi lo : Nat) : Nat := (2 ^ (hi + 1 - lo) - 1) * 2 ^ (lo - 32)

/-- An operand of one iteration: its first register, or its tensor and origin. -/
structure VOp where
  reg : Option Nat
  o : Opn
  org : List Int
  deriving DecidableEq, Repr

/-- Operand `o` at iteration `n`. -/
def vOp (k : Core) (iss : Issued) (ops : List Opn) (n o : Nat) : VOp :=
  let v := cbOpd iss.block o
  { reg := if 0xFF00 ≤ v ∧ v ≠ 0xFFFF then some (v - 0xFF00) else none
    o := ops.getD o (plainOpn 0)
    org := nOrigin iss.nest (nCounts iss.nest k.params) o n }

/-- The coordinate of element (l, r) (R138). -/
def VOp.at (v : VOp) (l r : Nat) : List Int := addCo v.org [l, r]

/-! ## Reading -/

/-- An element as an operation sees it: FP32 bits, the flags of its conversion, and whether it is padding. -/
structure VVal where
  w : Word
  flags : LaneFlags := 0
  pad : Bool := false
  deriving DecidableEq, Repr

/-- An element's value in FP32 (R45, R139). Synthesising padding records nothing (R70); once it enters an operation its conversion
records flags as that of any value (R138). -/
def elemVal (d : Nat) (v : Elem) : VVal :=
  let (x, f) := f32 (v.value d)
  { w := x, flags := f, pad := v.pad }

/-- An element as V_LOAD leaves it: FP32 and INT32 move by their bits, the others widen (R139). -/
def elemLoad (d : Nat) (v : Elem) : VVal :=
  if dFmt d = fFP32 ∨ dFmt d = fINT32 then { w := BitVec.ofNat 32 v.code, pad := v.pad } else elemVal d v

/-- Element (l, r) with a reading of memory elements. -/
def vGetBy (f : Nat → Elem → VVal) (e : Env) (k : Core) (w : Wk) (v : VOp) (l r : Nat) : VVal × Wk :=
  match v.reg with
  | some g => let (x, w) := readReg e k w (g + r) l; ({ w := x }, w)
  | none => let (x, w) := readElem e w v.o (v.at l r); (f v.o.d x, w)

/-- Element (l, r) in arithmetic (R139, R141). -/
def vGet := vGetBy elemVal
/-- Element (l, r) as a load moves it. -/
def vLoadElem := vGetBy elemLoad

/-- Value `r` of an operand that is one register (lane r) or a memory tile of 1 x ROWS. -/
def vGetRow (f : Nat → Elem → VVal) (e : Env) (k : Core) (w : Wk) (v : VOp) (r : Nat) : VVal × Wk :=
  match v.reg with
  | some g => let (x, w) := readReg e k w g r; ({ w := x }, w)
  | none => vGetBy f e k w v 0 r

/-- Whether element (l, r) of OPD0 is masked by TAILMASK (R138). -/
def vMasked (e : Env) (b : BitVec 512) (v : VOp) (l r : Nat) : Bool :=
  vTail b && v.reg.isNone && isPadding e v.o (v.at l r)

/-- Values of lanes of one row, by a reader. -/
def vRow (get : Wk → Nat → VVal × Wk) : List Nat → Wk → List VVal × Wk
  | [], w => ([], w)
  | l :: t, w =>
    let (v, w) := get w l
    let (vs, w) := vRow get t w
    (v :: vs, w)

/-! ## Writing -/

/-- A result: an FP32 value, 32 bits that move unchanged, or an exact value still to be rounded. -/
inductive VOut where
  | f (w : Word)
  | bits (w : Word)
  | val (x : Fp)
  deriving DecidableEq, Repr

def VOut.word : VOut → Word
  | .f w => w
  | .bits w => w
  | .val x => (f32 x).1

def VOut.value : VOut → Fp
  | .f w => ofF32 w
  | .bits w => ofF32 w
  | .val x => x

/-- Linear index of an element in its tensor (R43): global coordinates in GLOBAL view (log 22). -/
def linearIndex (e : Env) (d : Nat) (x : List Int) : Nat :=
  let h := dHolder e d
  ((List.range 6).foldl (fun (p : Nat × Nat) k =>
    (p.1 + (toGlobal e d k (gridOf e d h k) (co x k)).toNat * p.2, p.2 * dExt d k)) (0, 1)).1

/-- The rounding of an element under its write descriptor (R42, R43). -/
def vRound (e : Env) (d : Nat) (x : List Int) : Rounding :=
  if dRound d = 1 then .stochastic (roundDraw (dSeed d) (linearIndex e d x)) else .nearest

/-- Whether a coordinate lies within the local extent. -/
def inExtent (e : Env) (o : Opn) (x : List Int) : Bool :=
  let h := dHolder e o.d
  !o.null && (List.range 6).all (fun k => decide (0 ≤ co x k) && decide (co x k < localExt e o.d k (gridOf e o.d h k)))

/-- A result as a code of a whole format. The destination's ROUND holds for INT32 too (R42, R139; log 22). -/
def narrowOut (e : Env) (d : Nat) (x : List Int) (v : VOut) : Nat × LaneFlags :=
  match v with
  | .bits w => if elemBits (dFmt d) = 32 then (w.toNat, 0) else narrow (dFmt d) (vRound e d x) (dSat d) (ofF32 w)
  | _ => narrow (dFmt d) (vRound e d x) (dSat d) v.value

/-- Elements of one MX block, as they are written: coordinate and value. Those outside the extent count as zero (R140). -/
def mxBlock (e : Env) (o : Opn) (l : List (List Int × VOut)) : List (List Int × Nat × Option Nat) × LaneFlags :=
  let d := o.d
  let vs := l.map (fun p => if inExtent e o p.1 then p.2.value else .fin false 0 0)
  let (sc, cs) := encodeMX (dFmt d) (fun i => vRound e d ((l.getD i ([], .f 0)).1)) vs
  let z := l.zip cs
  (z.map (fun p => (p.1.1, p.2.1, some sc)),
   z.foldl (fun a p => if inExtent e o p.1.1 then a ||| p.2.2 else a) 0)

/-- Elements grouped by MX block, dimension 0. -/
def mxGroups (l : List (List Int × VOut)) : List (List (List Int × VOut)) :=
  let keys := (l.map (fun p => (co p.1 0 / 32, p.1.drop 1))).dedup
  keys.map (fun k => l.filter (fun p => co p.1 0 / 32 == k.1 && p.1.drop 1 == k.2))

/-- Blocks one after the other. -/
def mxBlocks (e : Env) (o : Opn) : List (List (List Int × VOut)) → Wk → List (List Int × Nat × Option Nat) × Wk
  | [], w => ([], w)
  | g :: t, w =>
    let (x, f) := mxBlock e o g
    let (y, w) := mxBlocks e o t (w.flag f)
    (x ++ y, w)

/-- Results written to memory at coordinates; conversions of elements outside the extent record nothing (R54). -/
def vStoreMem (e : Env) (w : Wk) (o : Opn) (l : List (List Int × VOut)) : Wk :=
  let d := o.d
  let (els, w) :=
    if isMX (dFmt d) then mxBlocks e o (mxGroups l) w
    else
      let cs := l.map (fun p => (p.1, narrowOut e d p.1 p.2))
      (cs.map (fun p => (p.1, p.2.1, none)), w.flag (cs.foldl (fun a p => if inExtent e o p.1 then a ||| p.2.2 else a) 0))
  let (bs, w) := elemWrites e w o els
  w.put e bs

/-- Results of row `r` written to an operand: lane and result. -/
def vPutRow (e : Env) (k : Core) (w : Wk) (v : VOp) (r : Nat) (l : List (Nat × VOut)) : Core × Wk :=
  match v.reg with
  | some g => l.foldl (fun p x => writeReg e p.1 p.2 (g + r) x.1 x.2.word) (k, w)
  | none => (k, vStoreMem e w v.o (l.map (fun x => (v.at x.1 r, x.2))))

/-- Value `r` written to one register (lane r) or a memory tile of 1 x ROWS. -/
def vPutOne (e : Env) (k : Core) (w : Wk) (v : VOp) (r : Nat) (x : VOut) : Core × Wk :=
  match v.reg with
  | some g => writeReg e k w g r x.word
  | none => (k, vStoreMem e w v.o [(v.at 0 r, x)])

/-- Rows in ascending order (R138). -/
def overRows (f : Nat → Core → Wk → Core × Wk) (rows : Nat) (k : Core) (w : Wk) : Core × Wk :=
  (List.range rows).foldl (fun p r => f r p.1 p.2) (k, w)

/-! ## The lane tree (R143) -/

/-- One level: adjacent results are combined. -/
def treeLevel (op : Word → Word → Word × LaneFlags) : List Word → List Word × LaneFlags
  | a :: b :: t =>
    let (x, f) := op a b
    let (xs, g) := treeLevel op t
    (x :: xs, f ||| g)
  | l => (l, 0)

/-- `n` levels. -/
def treeLevels (op : Word → Word → Word × LaneFlags) : Nat → List Word → LaneFlags → Word × LaneFlags
  | 0, l, f => (l.headD 0, f)
  | n + 1, l, f => let (l, g) := treeLevel op l; treeLevels op n l (f ||| g)

/-- 256 lanes combined in eight levels; lanes outside the tile hold the identity. -/
def laneTree (op : Word → Word → Word × LaneFlags) (ident : Word) (l : List Word) : Word × LaneFlags :=
  treeLevels op 8 (fit ident 256 l) 0

/-! ## The functions of V_EWISE (R141) -/

/-- Whether FN takes b, and whether it takes c. -/
def fnTakesB (fn : Nat) : Bool := (1 ≤ fn && fn ≤ 7) || fn == 0x14
def fnTakesC (fn : Nat) : Bool := fn == 4

/-- NEG and ABS of a NaN give the NaN of R37. -/
def signOp (fn : Nat) (a : Word) : Word × LaneFlags :=
  if isNaN a then nanOut a
  else (BitVec.ofNat 32 (if fn = 8 then (a.toNat + 2 ^ 31) % 2 ^ 32 else a.toNat % 2 ^ 31), 0)

/-- FN(a, b, c). -/
def ewise (fn : Nat) (a b c : Word) : Word × LaneFlags :=
  match fn with
  | 0x00 => (a, 0)
  | 0x01 => addF a b
  | 0x02 => subF a b
  | 0x03 => mulF a b
  | 0x04 => fmaF a b c
  | 0x05 => divF a b
  | 0x06 => maxF a b
  | 0x07 => minF a b
  | 0x08 => signOp 8 a
  | 0x09 => signOp 9 a
  | 0x0A => sqrtF a
  | 0x0B => recipF a
  | 0x0C => rsqrtF a
  | 0x0D => exp2F a
  | 0x0E => logF 0x0E 2 false a
  | 0x0F => expF a
  | 0x10 => logF 0x10 4 true a
  | 0x11 => tanhF a
  | 0x12 => sigmoidF a
  | 0x13 => siluF a
  | _ => gateF a b

end Sys2Proof.Machine
end

