-- ==== Sys2Proof/Machine/Vector.lean ====
section
/-! DEFINITION. The vector engine's commands (chapter 06), V_SAMPLE and V_SPOOL apart. -/

namespace Sys2Proof.Machine

/-- A work function over the rows of a tile. -/
abbrev VecWork := Env → Core → Issued → List Opn → Nat → Wk → Core × Wk

/-- One event of a VEC row. `uses` gives the operand places of a command block, `check` the opcode's own checks. -/
def State.vecStep (s : State) (c op : Nat) (uses : BitVec 512 → List VUse) (lanes : BitVec 512 → Nat)
    (check : Env → Core → Issued → Bool) (work : VecWork) : State :=
  s.engineStep c 1 op (fun b => vecForm (uses b) b)
    (fun _ e m k i => need (check e k i && vecOperandsOk e m k i (lanes i.block) (uses i.block)))
    nestTotal (nestBody c 1 false work)

/-- An event of a row whose command is refused as a whole with `status`. -/
def State.refuseStep (s : State) (c q status : Nat) (isMine : BitVec 512 → Bool) : State :=
  match s.begin c q isMine with
  | .idle => s
  | .stopped t => t
  | .go s r iss => s.cmdFault c q r iss.block status

/-- The tile of LANES x ROWS. -/
def fullTile (b : BitVec 512) : List Nat := [vLanes b, vRows b]

/-- A row moved element by element: read by `get`, masked under TAILMASK, made a result by `out`. -/
def moveRow (get : Wk → Nat → VVal × Wk) (masked : Nat → Bool) (out : Word → VOut) (lanes : Nat) (w : Wk) :
    List (Nat × VOut) × Wk :=
  let ls := (List.range lanes).filter (fun l => !masked l)
  let (vs, w) := vRow get ls w
  ((ls.zip vs).map (fun p => (p.1, out p.2.w)), w.flag (vs.foldl (fun a v => a ||| v.flags) 0))

/-! ## V_LOAD, V_STORE, V_CONVERT (R139, R140) -/

def loadUses (b : BitVec 512) : List VUse :=
  [{ reg := false, tile := fullTile b }, { mem := false, size := vRows b, write := true, tile := fullTile b }, noUse, noUse]

def loadRowWork : VecWork := fun e k iss ops n w =>
  let b := iss.block
  let src := vOp k iss ops n 0
  let dst := vOp k iss ops n 1
  overRows (fun r k w =>
    let (vs, w) := moveRow (fun w l => vLoadElem e k w src l r) (fun l => vMasked e b src l r) VOut.bits (vLanes b) w
    vPutRow e k w dst r vs) (vRows b) k w

/-- V_LOAD (R139). -/
def execVLoad (core : Nat) (s : State) : Host.Outcome State Fault Refusal :=
  .next (s.vecStep core 0x4001 loadUses vLanes (fun _ _ i => vecImmOk i.block 1 0) loadRowWork)

def storeUses (b : BitVec 512) : List VUse :=
  [{ mem := false, size := vRows b, tile := fullTile b }, { reg := false, write := true, tile := fullTile b }, noUse, noUse]

/-- A store into INT32 moves bits, into any other format it converts (R139). -/
def storeOut (d : Nat) (w : Word) : VOut := if dFmt d = fINT32 then .bits w else .f w

def storeRowWork : VecWork := fun e k iss ops n w =>
  let b := iss.block
  let src := vOp k iss ops n 0
  let dst := vOp k iss ops n 1
  overRows (fun r k w =>
    let (vs, w) := moveRow (fun w l => vLoadElem e k w src l r) (fun _ => false) (storeOut dst.o.d) (vLanes b) w
    vPutRow e k w dst r vs) (vRows b) k w

/-- V_STORE (R139, R140). -/
def execVStore (core : Nat) (s : State) : Host.Outcome State Fault Refusal :=
  .next (s.vecStep core 0x4002 storeUses vLanes (fun _ _ i => vecImmOk i.block 1 0) storeRowWork)

def convertUses (b : BitVec 512) : List VUse :=
  [{ reg := false, tile := fullTile b }, { reg := false, write := true, tile := fullTile b }, noUse, noUse]

/-- V_CONVERT of one element (R139): INT32 to INT32 by its bits, INT32 to and from floats by value with one rounding,
anything else as a load and a store. -/
def convertOut (src dst : Nat) (v : Elem) : VVal × VOut :=
  if dFmt src = fINT32 then
    if dFmt dst = fINT32 then ({ w := BitVec.ofNat 32 v.code, pad := v.pad }, .bits (BitVec.ofNat 32 v.code))
    else ({ w := 0, pad := v.pad }, .val (v.value src))
  else
    let x := elemLoad src v
    (x, .f x.w)

/-- One row of V_CONVERT: its elements in order. -/
def convertRow (e : Env) (b : BitVec 512) (src dst : VOp) (r : Nat) : List Nat → Wk → List (Nat × VOut) × Wk
  | [], w => ([], w)
  | l :: t, w =>
    if vMasked e b src l r then convertRow e b src dst r t w
    else
      let (x, w) := readElem e w src.o (src.at l r)
      let (v, out) := convertOut src.o.d dst.o.d x
      let (rest, w) := convertRow e b src dst r t (w.flag v.flags)
      ((l, out) :: rest, w)

def convertWork : VecWork := fun e k iss ops n w =>
  let b := iss.block
  let src := vOp k iss ops n 0
  let dst := vOp k iss ops n 1
  overRows (fun r k w =>
    let (vs, w) := convertRow e b src dst r (List.range (vLanes b)) w
    vPutRow e k w dst r vs) (vRows b) k w

/-- V_CONVERT (R139, R140). -/
def execVConvert (core : Nat) (s : State) : Host.Outcome State Fault Refusal :=
  .next (s.vecStep core 0x4007 convertUses vLanes (fun _ _ i => vecImmOk i.block 1 0) convertWork)

/-! ## V_EWISE (R141, R142) -/

def ewBmode (b : BitVec 512) : Nat := imm b 33 32
def ewScalar (b : BitVec 512) : Word := BitVec.ofNat 32 (imm b 95 64)

def ewiseUses (b : BitVec 512) : List VUse :=
  let t := fullTile b
  let m := ewBmode b
  [{ size := vRows b, tile := t },
   if fnTakesB (vFn b) && m != 1 then
     { size := if m = 0 then vRows b else 1, tile := if m = 2 then [1, vRows b] else if m = 3 then [vLanes b, 1] else t }
   else noUse,
   if fnTakesC (vFn b) then { size := vRows b, tile := t } else noUse,
   { size := vRows b, write := true, tile := t }]

/-- Operand b of element (l, r) (R142). -/
def ewiseB (e : Env) (k : Core) (b : BitVec 512) (v : VOp) (w : Wk) (l r : Nat) : VVal × Wk :=
  if !fnTakesB (vFn b) then ({ w := 0 }, w)
  else if ewBmode b = 1 then ({ w := ewScalar b }, w)
  else if ewBmode b = 2 then vGetRow elemVal e k w v r
  else if ewBmode b = 3 then vGet e k w v l 0
  else vGet e k w v l r

/-- One row: the results of its unmasked lanes. COPY moves a register lane's bits (R141). -/
def ewiseRow (e : Env) (k : Core) (b : BitVec 512) (va vb vc vd : VOp) (r : Nat) : List Nat → Wk → List (Nat × VOut) × Wk
  | [], w => ([], w)
  | l :: t, w =>
    if vMasked e b va l r then ewiseRow e k b va vb vc vd r t w
    else
      let (x, w) := vGet e k w va l r
      let (y, w) := ewiseB e k b vb w l r
      let (z, w) := if fnTakesC (vFn b) then vGet e k w vc l r else ({ w := 0 }, w)
      let (v, f) := ewise (vFn b) x.w y.w z.w
      let raw := vFn b == 0 && va.reg.isSome && (vd.reg.isSome || dFmt vd.o.d == fFP32)
      let (rest, w) := ewiseRow e k b va vb vc vd r t (w.flag (f ||| x.flags ||| y.flags ||| z.flags))
      ((l, if raw then .bits v else .f v) :: rest, w)

def ewiseWork : VecWork := fun e k iss ops n w =>
  let b := iss.block
  let vd := vOp k iss ops n 3
  overRows (fun r k w =>
    let (vs, w) := ewiseRow e k b (vOp k iss ops n 0) (vOp k iss ops n 1) (vOp k iss ops n 2) vd r (List.range (vLanes b)) w
    vPutRow e k w vd r vs) (vRows b) k w

/-- V_EWISE (R141, R142). -/
def execVEwise (core : Nat) (s : State) : Host.Outcome State Fault Refusal :=
  .next (s.vecStep core 0x4003 ewiseUses vLanes
    (fun _ _ i => vecImmOk i.block 0x15 (bitsFrom32 33 32 + bitsFrom32 95 64) && (ewBmode i.block == 0 || fnTakesB (vFn i.block)))
    ewiseWork)

/-! ## V_REDUCE (R143) -/

def reduceUses (b : BitVec 512) : List VUse :=
  [{ size := vRows b, tile := fullTile b }, { size := 1, write := true, tile := [1, vRows b] }, noUse, noUse]

/-- The operation of a reduction and its identity. -/
def reduceOp (fn : Nat) : Word → Word → Word × LaneFlags := if fn < 2 then addF else if fn = 2 then maxF else minF
def reduceIdent (fn : Nat) : Word := if fn < 2 then 0 else if fn = 2 then negInf else posInf

/-- The values of a row that enter its tree, the identity where masked. -/
def reduceRow (e : Env) (k : Core) (b : BitVec 512) (v : VOp) (r : Nat) : List Nat → Wk → List Word × Wk
  | [], w => ([], w)
  | l :: t, w =>
    if vMasked e b v l r then
      let (rest, w) := reduceRow e k b v r t w
      (reduceIdent (vFn b) :: rest, w)
    else
      let (x, w) := vGet e k w v l r
      let (y, f) := if vFn b = 1 then mulF x.w x.w else (x.w, 0)
      let (rest, w) := reduceRow e k b v r t (w.flag (f ||| x.flags))
      (y :: rest, w)

def reduceWork : VecWork := fun e k iss ops n w =>
  let b := iss.block
  let src := vOp k iss ops n 0
  let dst := vOp k iss ops n 1
  let first := (nIndex (nCounts iss.nest k.params) n).getD 0 0 == 0 && imm b 32 32 == 1
  overRows (fun r k w =>
    let (vs, w) := reduceRow e k b src r (List.range (vLanes b)) w
    let (p, f) := laneTree (reduceOp (vFn b)) (reduceIdent (vFn b)) vs
    if first then vPutOne e k (w.flag f) dst r (.f p)
    else
      let (d, w) := vGetRow elemVal e k (w.flag f) dst r
      let (x, g) := reduceOp (vFn b) d.w p
      vPutOne e k (w.flag (g ||| d.flags)) dst r (.f x)) (vRows b) k w

/-- V_REDUCE (R143). -/
def execVReduce (core : Nat) (s : State) : Host.Outcome State Fault Refusal :=
  .next (s.vecStep core 0x4004 reduceUses vLanes (fun _ _ i => vecImmOk i.block 4 (bitsFrom32 32 32)) reduceWork)

/-! ## V_SOFTMAX (R144, R145, R233) -/

def smMask (b : BitVec 512) : Nat := imm b 34 33

def softmaxUses (b : BitVec 512) : List VUse :=
  let t := fullTile b
  let pair : VUse := { mem := false, size := 2, write := true }
  if vFn b = 2 then
    [{ mem := false, size := vRows b, write := true, tile := t }, pair, { size := vRows b, tile := t }, pair]
  else
    [{ size := vRows b, tile := t }, pair,
     if vFn b = 1 then { size := vRows b, write := true, tile := t } else noUse,
     if smMask b = 3 then { reg := false } else noUse]

/-- What R233 asks of a bitmap. -/
def bitmapOk (e : Env) (d : Nat) : Bool :=
  e.accept.testBit 13 && dFmt d == fINT8 && dRank d == 2 && !dGlobal e d

/-- The bit of a bitmap for key position `kp` at its row coordinate `y` (R233); a coordinate outside is a clear bit. -/
def bitmapBit (e : Env) (w : Wk) (o : Opn) (org : List Int) (kp y : Int) : Bool × Wk :=
  let x := [co org 0 + kp / 8, co org 1 + y] ++ org.drop 2
  if isPadding e o x then (false, w)
  else
    let (v, w) := readElem e w o x
    (v.code.testBit (kp % 8).toNat, w)

/-- The masks generated from positions (R144). -/
def posMasked (mask : Nat) (q kp window : Int) : Bool :=
  (mask == 1 && decide (q < kp)) || (mask == 2 && (decide (q < kp) || decide (kp ≤ q - window)))

/-- The scores y of a row: minus infinity where masked, invalid for a NaN (R144, R145). -/
def scoreRow (e : Env) (k : Core) (b : BitVec 512) (v mv : VOp) (r : Nat) : List Nat → Wk → List Word × Wk
  | [], w => ([], w)
  | l :: t, w =>
    let q := co v.org 1 + r + sext 32 (imm b 127 96)
    let kp := co v.org 0 + l + sext 32 (imm b 159 128)
    let (on, w) := if smMask b = 3 then bitmapBit e w mv.o mv.org kp (co v.org 1 + r) else (true, w)
    if vMasked e b v l r || posMasked (smMask b) q kp (imm b 191 160) || !on then
      let (rest, w) := scoreRow e k b v mv r t w
      (negInf :: rest, w)
    else
      let (x, w) := vGet e k w v l r
      let (y, f) := mulF (BitVec.ofNat 32 (imm b 95 64)) x.w
      let (rest, w) := scoreRow e k b v mv r t (w.flag (f ||| x.flags ||| flagIf (isNaN y) flagNV))
      (y :: rest, w)

/-- p^(a - b) by the given function; +0 where a is minus infinity, unless b is a NaN, which every output of its row follows
(R145). -/
def powDiff (fn : Word → Word × LaneFlags) (a b : Word) : Word × LaneFlags :=
  if a = negInf && !isNaN b then (0, 0)
  else
    let (d, f) := subF a b
    let (x, g) := fn d
    (x, f ||| g)

/-- The factor of a maximum or a score that enters a sum: +0 from minus infinity, whatever the other is (R145). -/
def powFrom (fn : Word → Word × LaneFlags) (a b : Word) : Word × LaneFlags := if a = negInf then (0, 0) else powDiff fn a b

/-- The running maximum and sum with one more tile of scores (R144, R152): the sums run over the lane tree. -/
def online (fn : Word → Word × LaneFlags) (m l : Word) (ys : List Word) : Word × Word × LaneFlags :=
  let (t, f0) := laneTree maxF negInf ys
  let (m2, f1) := maxF m t
  let (p, f2) := powFrom fn m m2
  let (l1, f3) := mulF l p
  let es := ys.map (fun y => powFrom fn y m2)
  let (sum, f4) := laneTree addF 0 (es.map Prod.fst)
  let (l2, f5) := addF l1 sum
  (m2, l2, es.foldl (fun a x => a ||| x.2) (f0 ||| f1 ||| f2 ||| f3 ||| f4 ||| f5))

def statsRow (e : Env) (b : BitVec 512) (v sv mv : VOp) (first : Bool) (r : Nat) (k : Core) (w : Wk) : Core × Wk :=
  let (ys, w) := scoreRow e k b v mv r (List.range (vLanes b)) w
  let g := sv.reg.getD 0
  let (m, w) := if first then (negInf, w) else readReg e k w g r
  let (l, w) := if first then (0, w) else readReg e k w (g + 1) r
  let (m2, l2, f) := online exp2F m l ys
  let (k, w) := writeReg e k (w.flag f) g r m2
  writeReg e k w (g + 1) r l2

/-- One row of NORM: a NaN score makes every output of the row NaN, and a row whose l is +0 gives +0 without a flag (R145). -/
def normRow (e : Env) (b : BitVec 512) (v sv dv mv : VOp) (r : Nat) (k : Core) (w : Wk) : Core × Wk :=
  let g := sv.reg.getD 0
  let (m, w) := readReg e k w g r
  let (l, w) := readReg e k w (g + 1) r
  let lanes := (List.range (vLanes b)).filter (fun x => !vMasked e b v x r)
  let before := w.flags
  let (ys, w) := scoreRow e k b v mv r (List.range (vLanes b)) w
  if ys.any isNaN then vPutRow e k w dv r (lanes.map (fun x => (x, .f qNaN)))
  else if l = 0 then vPutRow e k { w with flags := before } dv r (lanes.map (fun x => (x, .f 0)))
  else
    let out := lanes.map (fun x =>
      let (p, f) := powDiff exp2F (ys.getD x negInf) m
      let (d, h) := divF p l
      (x, d, f ||| h))
    vPutRow e k (w.flag (out.foldl (fun a x => a ||| x.2.2) 0)) dv r (out.map (fun x => (x.1, .f x.2.1)))

/-- One merged lane: O1 * a1 + (O2 * a2 rounded), in one FMA (R144). -/
def mergeLane (o1 a1 o2 a2 : Word) : Word × LaneFlags :=
  let (p, f) := mulF o2 a2
  let (x, g) := fmaF o1 a1 p
  (x, f ||| g)

/-- The lanes of a merged row. -/
def mergeLanes (e : Env) (k : Core) (ov pv : VOp) (r : Nat) (a1 a2 : Word) : List Nat → Wk → List (Nat × VOut) × Wk
  | [], w => ([], w)
  | x :: t, w =>
    let (o1, w) := vGet e k w ov x r
    let (o2, w) := vGet e k w pv x r
    let (y, f) := mergeLane o1.w a1 o2.w a2
    let (rest, w) := mergeLanes e k ov pv r a1 a2 t (w.flag (f ||| o2.flags))
    ((x, .f y) :: rest, w)

def mergeRow (e : Env) (b : BitVec 512) (ov s1 pv s2 : VOp) (r : Nat) (k : Core) (w : Wk) : Core × Wk :=
  let g1 := s1.reg.getD 0
  let g2 := s2.reg.getD 0
  let (m1, w) := readReg e k w g1 r
  let (l1, w) := readReg e k w (g1 + 1) r
  let (m2, w) := readReg e k w g2 r
  let (l2, w) := readReg e k w (g2 + 1) r
  let lanes := List.range (vLanes b)
  let done := fun (k : Core) (w : Wk) (o : List (Nat × VOut)) (m l : Word) =>
    let (k, w) := vPutRow e k w ov r o
    let (k, w) := writeReg e k w g1 r m
    writeReg e k w (g1 + 1) r l
  if m1 = negInf && m2 = negInf then done k w (lanes.map (fun x => (x, .f 0))) negInf 0
  else
    let (m, f0) := maxF m1 m2
    let (a1, f1) := powFrom exp2F m1 m
    let (a2, f2) := powFrom exp2F m2 m
    let (o, w) := mergeLanes e k ov pv r a1 a2 lanes w
    let (l, f3) := mergeLane l1 a1 l2 a2
    done k (w.flag (f0 ||| f1 ||| f2 ||| f3)) o m l

def softmaxWork : VecWork := fun e k iss ops n w =>
  let b := iss.block
  let v := vOp k iss ops n
  let first := (nIndex (nCounts iss.nest k.params) n).getD 0 0 == 0 && imm b 32 32 == 1
  overRows (fun r k w =>
    if vFn b = 0 then statsRow e b (v 0) (v 1) (v 3) first r k w
    else if vFn b = 1 then normRow e b (v 0) (v 1) (v 2) (v 3) r k w
    else mergeRow e b (v 0) (v 1) (v 2) (v 3) r k w) (vRows b) k w

/-- V_SOFTMAX (R144, R145). -/
def execVSoftmax (core : Nat) (s : State) : Host.Outcome State Fault Refusal :=
  .next (s.vecStep core 0x4005 softmaxUses vLanes
    (fun e _ i => vecImmOk i.block 3 (bitsFrom32 34 32 + bitsFrom32 191 64) &&
      (smMask i.block != 3 || (vFn i.block != 2 && bitmapOk e (i.descs.getD 3 0))))
    softmaxWork)

/-! ## V_ROTARY (R146) -/

def rotPairs (b : BitVec 512) : List (Nat × Nat) :=
  let n := imm b 104 96
  (List.range (n / 2)).map (fun i => if imm b 32 32 = 0 then (2 * i, 2 * i + 1) else (i, i + n / 2))

def rotaryUses (b : BitVec 512) : List VUse :=
  [{ size := vRows b, tile := fullTile b }, if imm b 33 33 = 1 then { size := 1, tile := [1, vRows b] } else noUse,
   { size := vRows b, write := true, tile := fullTile b }, noUse]

/-- θ of pair i, rounded once to FP32. -/
def rotTheta (b : BitVec 512) (i : Nat) : Word :=
  match ofF32 (BitVec.ofNat 32 (imm b 95 64)) with
  | .fin _ m e =>
    let x : Int := -(refLog2 m e * (2 * i : Nat) * (2 ^ (fxP - 140) : Nat) / (max 1 (imm b 104 96) : Nat))
    let (q, qe) := fxExp2 x
    (f32 (.fin false q qe)).1
  | _ => 0

/-- Whether a result keeps the bound 2^-21 (|u| + |v|) around the reference (R146). -/
def rotWithin (c : Word) (ref u v : Fp) : Bool :=
  match ofF32 c, ref, u, v with
  | .fin nc mc ec, .fin nr mr er, .fin _ mu eu, .fin _ mv ev =>
    match (Fp.fin nc mc ec).add (.fin (!nr) mr er), (Fp.fin false mu eu).add (.fin false mv ev) with
    | (.fin _ md ed, _), (.fin _ mb eb, _) =>
      let lo := min ed (eb - 21)
      decide (md * 2 ^ (ed - lo).toNat ≤ mb * 2 ^ (eb - 21 - lo).toNat)
    | _, _ => false
  | _, _, _, _ => false

/-- One output: the part's own value where it keeps the bound, else the nearest FP32 (log 7). -/
def rotBounded (ref : Fp) (u v : Word) (pos : Int) (theta : Word) (second : Bool) : Word × LaneFlags :=
  let c := Config.rotary u v pos theta second
  if rotWithin c ref (ofF32 u) (ofF32 v) then (c, resultFlags c ref) else f32 ref

/-- The rotated pair, each output with its lane's flags. Pairs with an infinity or a NaN follow FP32 arithmetic. -/
def rotate (u v : Word) (pos : Int) (theta : Word) : (Word × LaneFlags) × (Word × LaneFlags) :=
  match ofF32 theta with
  | .fin _ m e =>
    let (c, s) := refCosSin (decide (pos < 0)) (pos.natAbs * m) e
    let fc := ofScaled c 96
    let fs := ofScaled s 96
    match ofF32 u, ofF32 v with
    | .fin nu mu eu, .fin nv mv ev =>
      let x := (((Fp.fin nu mu eu).mul fc).1.add ((Fp.fin nv mv ev).mul fs).1.neg).1
      let y := (((Fp.fin nu mu eu).mul fs).1.add ((Fp.fin nv mv ev).mul fc).1).1
      (rotBounded x u v pos theta false, rotBounded y u v pos theta true)
    | _, _ =>
      let wc := (f32 fc).1
      let ws := (f32 fs).1
      let (p, f1) := mulF u wc
      let (q, f2) := mulF v ws
      let (a, f3) := subF p q
      let (r, f4) := mulF u ws
      let (t, f5) := mulF v wc
      let (b, f6) := addF r t
      ((a, f1 ||| f2 ||| f3), (b, f4 ||| f5 ||| f6))
  | _ => ((u, 0), (v, 0))

/-- The position of a row (R146). -/
def rotPos (e : Env) (k : Core) (b : BitVec 512) (v pv : VOp) (w : Wk) (r : Nat) : Int × Wk :=
  if imm b 33 33 = 1 then
    match pv.reg with
    | some g => let (x, w) := readReg e k w g r; (sext 32 x.toNat, w)
    | none => let (x, w) := readElem e w pv.o (pv.at 0 r); (sext 32 x.code, w)
  else (sext 32 (imm b 159 128) + co v.org 1 + r, w)

/-- A lane that V_ROTARY copies unchanged (R146): a register lane or an FP32 element by its bits, into another format as
V_CONVERT does. -/
def rotCopy (e : Env) (k : Core) (src dst : VOp) (r l : Nat) (w : Wk) : (Nat × VOut) × Wk :=
  match src.reg with
  | some g => let (x, w) := readReg e k w (g + r) l; ((l, if dst.reg.isSome || elemBits (dFmt dst.o.d) == 32 then .bits x else .f x), w)
  | none =>
    let (x, w) := readElem e w src.o (src.at l r)
    if dst.reg.isSome then let v := elemLoad src.o.d x; ((l, .bits v.w), w.flag v.flags)
    else
      let (v, out) := convertOut src.o.d dst.o.d x
      ((l, if dFmt src.o.d = fFP32 ∧ dFmt dst.o.d = fFP32 then .bits v.w else out), w.flag v.flags)

/-- The copied lanes of a row. -/
def rotCopies (e : Env) (k : Core) (src dst : VOp) (r : Nat) : List Nat → Wk → List (Nat × VOut) × Wk
  | [], w => ([], w)
  | l :: t, w =>
    let (x, w) := rotCopy e k src dst r l w
    let (rest, w) := rotCopies e k src dst r t w
    (x :: rest, w)

def rotaryWork : VecWork := fun e k iss ops n w =>
  let b := iss.block
  let src := vOp k iss ops n 0
  let dst := vOp k iss ops n 2
  let rdims := imm b 104 96
  overRows (fun r k w =>
    let on := fun l => !vMasked e b src l r
    let (pos, w) := rotPos e k b src (vOp k iss ops n 1) w r
    let (vs, w) := vRow (fun w l => vGet e k w src l r) (List.range rdims) w
    let (copied, w) := rotCopies e k src dst r ((List.range (vLanes b)).filter (fun l => decide (rdims ≤ l) && on l)) w
    let lane := fun l => (vs.getD l { w := 0 }).w
    let rot := ((List.range (rotPairs b).length).zip (rotPairs b)).flatMap (fun p =>
      let x := rotate (lane p.2.1) (lane p.2.2) pos (rotTheta b p.1)
      [(p.2.1, x.1), (p.2.2, x.2)])
    let out := rot.filter (fun p => on p.1)
    let w := w.flag (out.foldl (fun a p => a ||| p.2.2) (vs.foldl (fun a v => a ||| v.flags) 0))
    vPutRow e k w dst r (out.map (fun p => (p.1, VOut.f p.2.1)) ++ copied)) (vRows b) k w

/-- THETA_BASE is finite and above 1 (R146). -/
def thetaOk (w : Word) : Bool :=
  match ofF32 w with
  | .fin false _ _ => decide (orderKey oneF < orderKey w)
  | _ => false

/-- V_ROTARY (R146). -/
def execVRotary (core : Nat) (s : State) : Host.Outcome State Fault Refusal :=
  .next (s.vecStep core 0x4006 rotaryUses vLanes
    (fun _ _ i =>
      let b := i.block
      vecImmOk b 1 (bitsFrom32 33 32 + bitsFrom32 95 64 + bitsFrom32 104 96 + bitsFrom32 159 128) &&
      imm b 104 96 % 2 == 0 && imm b 104 96 != 0 && decide (imm b 104 96 ≤ vLanes b) &&
      thetaOk (BitVec.ofNat 32 (imm b 95 64)) &&
      (imm b 33 33 == 0 || decide (0xFF00 ≤ cbOpd b 1) || dFmt (i.descs.getD 1 0) == fINT32))
    rotaryWork)

/-! ## V_GATHER and V_SCATTER (R147 to R150) -/

def gsRow (b : BitVec 512) : Bool := imm b 32 32 == 1
def gsPolicy (b : BitVec 512) : Nat := imm b 34 33
def gsReduce (b : BitVec 512) : Nat := imm b 36 35

def indexUse (b : BitVec 512) : VUse :=
  if gsRow b then { size := 1, tile := [1, vRows b] } else { size := vRows b, tile := fullTile b }

/-- The extents that an operand's tile takes: the table is reached by index, in the other dimension by the tile. -/
def tableTile (b : BitVec 512) : List Nat := if gsRow b then [vLanes b, 1] else [1, vRows b]

def gatherUses (b : BitVec 512) : List VUse :=
  [{ reg := false, tile := tableTile b }, indexUse b, { size := vRows b, write := true, tile := fullTile b }, noUse]

def scatterUses (b : BitVec 512) : List VUse :=
  [{ size := vRows b, tile := fullTile b }, indexUse b, { reg := false, write := true, tile := tableTile b }, noUse]

/-- The index of element (l, r), read as INT32 (R148). -/
def gsIndex (e : Env) (k : Core) (b : BitVec 512) (v : VOp) (w : Wk) (l r : Nat) : Int × Wk :=
  match v.reg with
  | some g => let (x, w) := if gsRow b then readReg e k w g r else readReg e k w (g + r) l; (sext 32 x.toNat, w)
  | none => let (x, w) := readElem e w v.o (if gsRow b then v.at 0 r else v.at l r); (sext 32 x.code, w)

/-- The table coordinate of element (l, r) for an effective index (R148). -/
def gsCoord (b : BitVec 512) (t : VOp) (l r x : Nat) : List Int :=
  if gsRow b then [co t.org 0 + l, (x : Int)] ++ t.org.drop 2 else [(x : Int), co t.org 1 + r] ++ t.org.drop 2

/-- L of R148. -/
def gsLimit (b : BitVec 512) (d : Nat) : Nat := dExt d (if gsRow b then 1 else 0)

/-- The indices of a row, lane by lane; in ROW mode one index is read for all. -/
def gsIndices (e : Env) (k : Core) (b : BitVec 512) (v : VOp) (r : Nat) : List Nat → Wk → List (Nat × Int) × Wk
  | [], w => ([], w)
  | l :: t, w =>
    let (x, w) := gsIndex e k b v w l r
    let (rest, w) := gsIndices e k b v r t w
    ((l, x) :: rest, w)

/-- An element as the coalescer keeps it, and back. -/
def Elem.kept (v : Elem) : Nat × Nat × Bool × Bool := (v.code, v.scale, v.pad, v.syn)
def keptElem (t : Nat × Nat × Bool × Bool) : Elem := { code := t.1, scale := t.2.1, pad := t.2.2.1, syn := t.2.2.2 }

/-- The key of a table row in the coalescer: the base in force, none under a null entry, and the coordinates above dimension 0. -/
def rowId (o : Opn) (c : List Int) : List Int := (if o.null then [] else [o.base]) ++ c.drop 1

/-- The element that the coalescer holds at coordinate `x` of a row's dimension 0 (R149). -/
def heldElem (l : List GatherRow) (key : List Int) (x : Int) : Option Elem :=
  match l.find? (fun g => g.key == key) with
  | some g => firstSome (fun (p : Int × List (Nat × Nat × Bool × Bool)) =>
      if p.1 ≤ x then (p.2[(x - p.1).toNat]?).map keptElem else none) g.pieces
  | none => none

/-- A piece of a row that has been read: its row is the last read, and beyond `cap` rows the oldest leaves (R149, R179). -/
def keepPiece (cap : Nat) (l : List GatherRow) (key : List Int) (x : Int) (els : List Elem) : List GatherRow :=
  let old := match l.find? (fun g => g.key == key) with | some g => g.pieces.filter (fun p => p.1 != x) | none => []
  let l := l.filter (fun g => g.key != key) ++ [{ key := key, pieces := old ++ [(x, els.map Elem.kept)] }]
  l.drop (l.length - cap)

/-- Elements of a table row at the given coordinates: those that the coalescer holds, and the others read. The flag says whether
any was read. -/
def rowElems (e : Env) (o : Opn) (l : List GatherRow) : List (List Int) → Wk → List Elem × Bool × Wk
  | [], w => ([], false, w)
  | c :: t, w =>
    match heldElem l (rowId o c) (co c 0) with
    | some x =>
      let (xs, new, w) := rowElems e o l t w
      (x :: xs, new, w)
    | none =>
      let (x, w) := readElem e w o c
      let (xs, _, w) := rowElems e o l t w
      (x :: xs, true, w)

/-- The table elements of a row that are not masked, at the given coordinates: in ROW mode the coalescer serves what it holds and
keeps what is read (R149). -/
def tableElems (e : Env) (b : BitVec 512) (o : Opn) (cs : List (List Int)) (q : QueueSt) (w : Wk) : List Elem × QueueSt × Wk :=
  if gsRow b then
    let (els, new, w) := rowElems e o q.coal cs w
    match cs with
    | c :: _ => (els, if new then { q with coal := keepPiece 32 q.coal (rowId o c) (co c 0) els } else q, w)
    | [] => (els, q, w)
  else
    let (els, w) := readElems e o cs w
    (els, q, w)

/-- One row of V_GATHER: its indices, then the elements they reach; a failed index reads as +0 (R147, R148). DESIGN CHOICE: from
a table that is not INT32 into an INT32 memory destination the bits of the widened FP32 element move, as V_STORE moves a lane;
R139 moves only INT32 table elements by their bits and does not speak of this pair (log 22). -/
def gatherRow (e : Env) (b : BitVec 512) (tv iv dv : VOp) (r : Nat) (k : Core) (w : Wk) : Core × Wk :=
  let (xs, w) := gsIndices e k b iv r (List.range (vLanes b)) w
  if w.wait then (k, w)
  else
    let ys := xs.map (fun p => (p.1, (effIndex (gsPolicy b) (gsLimit b tv.o.d) p.2).map (gsCoord b tv p.1 r)))
    let failed := ys.filter (fun p => p.2.isNone)
    let hit := (ys.filterMap (fun p => p.2.map (fun c => (p.1, c)))).filter (fun p => !(vTail b && isPadding e tv.o p.2))
    let (els, q, w) := tableElems e b tv.o (hit.map Prod.snd) k.qVec w
    let vs := els.map (elemLoad tv.o.d)
    let out := ((hit.map Prod.fst).zip vs).map (fun p =>
      (p.1, if dv.reg.isSome then VOut.bits p.2.w else storeOut dv.o.d p.2.w))
    let w := w.flag (vs.foldl (fun a v => a ||| v.flags) (flagIf (!failed.isEmpty) flagIDX))
    vPutRow e { k with qVec := q } w dv r (failed.map (fun p => (p.1, VOut.f 0)) ++ out)

def gatherWork : VecWork := fun e k iss ops n w =>
  let b := iss.block
  overRows (gatherRow e b (vOp k iss ops n 0) (vOp k iss ops n 1) (vOp k iss ops n 2)) (vRows b) k w

/-- The checks of R148 that both commands share: POLICY, the table's view, and the index operand's format, which R148 calls
INT32 without naming a refusal for another (log 22). -/
def gsOk (e : Env) (i : Issued) (table : Nat) : Bool :=
  gsPolicy i.block != 3 && !dGlobal e table && (decide (0xFF00 ≤ cbOpd i.block 1) || dFmt (i.descs.getD 1 0) == fINT32)

/-- V_GATHER (R148, R149). -/
def execVGather (core : Nat) (s : State) : Host.Outcome State Fault Refusal :=
  .next (s.vecStep core 0x4008 gatherUses vLanes
    (fun e _ i =>
      vecImmOk i.block 1 (bitsFrom32 34 32) && gsOk e i (i.descs.getD 0 0) &&
      (isWhole (dFmt (i.descs.getD 0 0)) || gsRow i.block))
    gatherWork)

/-- A value on its way into a table: FP32 bits, or an integer for an INT32 table (R150). -/
structure GsVal where
  coord : List Int
  f : Word
  i : Int
  deriving DecidableEq, Repr

/-- A source element of V_SCATTER for a table descriptor (R139, R150), with the flags of its conversion, padding's too (R138).
DESIGN CHOICE: under NONE a memory source of another float format than FP32 has no 32 bits of its own; an INT32 table then
takes the bits of the widened FP32 value, as V_LOAD and V_STORE would (log 22). -/
def scatterVal (e : Env) (k : Core) (w : Wk) (sv : VOp) (table reduce l r : Nat) : Word × Int × LaneFlags × Wk :=
  match sv.reg with
  | some g => let (x, w) := readReg e k w (g + r) l; (x, sext 32 x.toNat, 0, w)
  | none =>
    let (x, w) := readElem e w sv.o (sv.at l r)
    let d := sv.o.d
    if dFmt table = fINT32 then
      if dFmt d = fINT32 then (BitVec.ofNat 32 x.code, sext 32 x.code, 0, w)
      else if reduce = 0 then let v := elemLoad d x; (v.w, sext 32 v.w.toNat, v.flags, w)
      else
        let v := elemLoad d x
        let (c, f) := narrow fINT32 .nearest false (ofF32 v.w)
        (0, sext 32 c, f ||| v.flags, w)
    else let v := elemVal d x; (v.w, 0, v.flags, w)

/-- The values of a row, in lane order; a failed index records index-range and is dropped. -/
def scatterRow (e : Env) (k : Core) (b : BitVec 512) (sv iv tv : VOp) (r : Nat) : List Nat → Wk → List GsVal × Wk
  | [], w => ([], w)
  | l :: t, w =>
    if vMasked e b sv l r then scatterRow e k b sv iv tv r t w
    else
      let (x, w) := gsIndex e k b iv w l r
      if w.wait then ([], w)
      else match effIndex (gsPolicy b) (gsLimit b tv.o.d) x with
      | none => scatterRow e k b sv iv tv r t (w.flag flagIDX)
      | some y =>
        let (f, i, fl, w) := scatterVal e k w sv tv.o.d (gsReduce b) l r
        let (rest, w) := scatterRow e k b sv iv tv r t (w.flag fl)
        ({ coord := gsCoord b tv l r y, f := f, i := i } :: rest, w)

/-- All rows. -/
def scatterVals (e : Env) (k : Core) (b : BitVec 512) (sv iv tv : VOp) : List Nat → Wk → List GsVal × Wk
  | [], w => ([], w)
  | r :: t, w =>
    let (x, w) := scatterRow e k b sv iv tv r (List.range (vLanes b)) w
    let (y, w) := scatterVals e k b sv iv tv t w
    (x ++ y, w)


/-- The combining operation of a REDUCE option in FP32, and on integers. -/
def redF (red : Nat) : Word → Word → Word × LaneFlags := if red = 1 then addF else if red = 2 then maxF else minF
def redI (red : Nat) (a b : Int) : Int := if red = 1 then a + b else if red = 2 then max a b else min a b

/-- The element combined with the table's value (R150): one rounding into the table's format. -/
def redFinal (red : Nat) (old : Fp) (x : Word) : Fp × LaneFlags :=
  if red = 1 then old.add (ofF32 x)
  else
    let (a, g) := f32 old
    let (y, f) := redF red a x
    (ofF32 y, f ||| g)

/-- An exact integer result in an INT32 table: it saturates (R44, R150). -/
def redInt32 (x : Int) : Nat × LaneFlags := narrow fINT32 .nearest false (ofInt x)

/-- One table element under ADD, MAX or MIN: the values for it are combined in ascending (r, l) order. -/
def scatterElem (e : Env) (w : Wk) (o : Opn) (red : Nat) (c : List Int) (vs : List GsVal) :
    (Nat × LaneFlags) × Wk :=
  let d := o.d
  if dFmt d = fINT32 then
    let (x, w) := readElem e w o c
    (redInt32 (vs.foldl (fun a v => redI red a v.i) (sext 32 x.code)), w)
  else
    let (y, f) := (vs.drop 1).foldl (fun (p : Word × LaneFlags) v => let (z, g) := redF red p.1 v.f; (z, p.2 ||| g))
      ((vs.headD ⟨c, 0, 0⟩).f, 0)
    let (x, w) := readElem e w o c
    let (z, g) := redFinal red (x.value d) y
    let (n, h) := narrow (dFmt d) (vRound e d c) (dSat d) z
    ((n, f ||| g ||| h), w)

/-- Table elements in the order they were first written; those that the clip drops are neither read nor written (R73). -/
def scatterElems (e : Env) (o : Opn) (red : Nat) (vs : List GsVal) :
    List (List Int) → Wk → List (List Int × Nat × Option Nat) × Wk
  | [], w => ([], w)
  | c :: t, w =>
    if (clip e o c).isNone then scatterElems e o red vs t w
    else
      let ((n, f), w) := scatterElem e w o red c (vs.filter (fun v => v.coord == c))
      let (rest, w) := scatterElems e o red vs t (w.flag f)
      ((c, n, none) :: rest, w)

/-- The iteration of a reducing V_SCATTER: all its values are combined before the table is written (R150). -/
def scatterReduce (e : Env) (b : BitVec 512) (sv iv tv : VOp) (k : Core) (w : Wk) : Core × Wk :=
  let (vs, w) := scatterVals e k b sv iv tv (List.range (vRows b)) w
  if w.wait then (k, w)
  else
    let (els, w) := scatterElems e tv.o (gsReduce b) vs (vs.map GsVal.coord).dedup w
    let (bs, w) := elemWrites e w tv.o els
    (k, w.put e bs)

/-- The code that a table element takes under NONE from the values of one row, each converted in its lane; where the command
wrote the element before, it may also keep what it has. Which value it holds is free (R150). -/
def scatterPick (fresh i : Nat) (again : Bool) (codes : List Nat) : Option Nat :=
  codes[Config.freeChoice fresh i % max 1 (codes.length + b2n again)]?

/-- One row of a V_SCATTER with REDUCE NONE (R138, R150). -/
def scatterPlain (e : Env) (b : BitVec 512) (sv iv tv : VOp) (r : Nat) (k : Core) (w : Wk) : Core × Wk :=
  let (vs, w) := scatterRow e k b sv iv tv r (List.range (vLanes b)) w
  if w.wait then (k, w)
  else
    let d := tv.o.d
    let xs := (vs.filter (fun v => (clip e tv.o v.coord).isSome)).map (fun v => (v.coord, narrowOut e d v.coord (storeOut d v.f)))
    let cs := (xs.map Prod.fst).dedup
    let els := ((List.range cs.length).zip cs).filterMap (fun p =>
      (scatterPick w.mem.fresh p.1 (k.qVec.wrote.contains (rowId tv.o p.2 ++ p.2.take 1))
        ((xs.filter (fun x => x.1 == p.2)).map (fun x => x.2.1))).map
        (fun n => (p.2, n, (none : Option Nat))))
    let w := { w with mem := { w.mem with fresh := w.mem.fresh + 1 } }
    let (bs, w) := elemWrites e (w.flag (xs.foldl (fun a x => a ||| x.2.2) 0)) tv.o els
    let wrote := cs.map (fun c => rowId tv.o c ++ c.take 1)
    ({ k with qVec := { k.qVec with wrote := (k.qVec.wrote ++ wrote).dedup } }, w.put e bs)

def scatterWork : VecWork := fun e k iss ops n w =>
  let b := iss.block
  let sv := vOp k iss ops n 0
  let iv := vOp k iss ops n 1
  let tv := vOp k iss ops n 2
  if gsReduce b = 0 then overRows (scatterPlain e b sv iv tv) (vRows b) k w else scatterReduce e b sv iv tv k w

/-- V_SCATTER (R148, R150). -/
def execVScatter (core : Nat) (s : State) : Host.Outcome State Fault Refusal :=
  .next (s.vecStep core 0x4009 scatterUses vLanes
    (fun e _ i =>
      vecImmOk i.block 1 (bitsFrom32 36 32) && gsOk e i (i.descs.getD 2 0) && isWhole (dFmt (i.descs.getD 2 0)))
    scatterWork)

end Sys2Proof.Machine
end

