-- ==== Sys2Proof/Machine/Control.lean ====
section
/-! DEFINITION. Routing and the CTL and SYN commands: COMMAND_ROUTE, unlisted opcodes, NOP, BRK, KEND, and the queue side and
the unit side of belays (R87, R89, R102, R108 to R110, R201 to R206). -/

namespace Sys2Proof.Machine

/-! ## Routing (R87, R89) -/

/-- The queue of a command block, by its class alone. -/
def cbQueue (b : BitVec 512) : Nat :=
  match cbClass b with
  | 1 => 3
  | 2 => 2
  | 3 => 0
  | 4 => 1
  | 5 => 2
  | _ => cbQsel b

/-- Whether a queue has space; the command its engine has taken no longer counts. -/
def QueueSt.room (q : QueueSt) : Bool := decide (q.cmds.length - b2n q.run.isSome < 32)

/-- A command enters its queue. -/
def QueueSt.enter (q : QueueSt) (b : BitVec 512) : QueueSt := { q with cmds := q.cmds ++ [b] }

/-- A fetched block enters its queue, or KEND all four; nothing happens while there is no space. -/
def Core.route (k : Core) (b : BitVec 512) : Core :=
  if cbOp b = 0x0001 then
    if k.queues.all QueueSt.room then
      { k with qMx := k.qMx.enter b, qVec := k.qVec.enter b, qDma := k.qDma.enter b, qSeq := k.qSeq.enter b, fetchDone := true }
    else k
  else if (k.queue (cbQueue b)).room then
    { k.setQueue (cbQueue b) ((k.queue (cbQueue b)).enter b) with fetch := k.fetch + 1 }
  else k

/-- COMMAND_ROUTE (R82, R89): the next block goes to its queue; a fetch past index 2,047 stops the kernel. -/
def execCommandRoute (core : Nat) (s : State) : Host.Outcome State Fault Refusal :=
  let s := s.copyParams core
  match s.running core with
  | none => .next s
  | some (r, k) =>
    if k.copying != 0 || k.fault.isSome || (s.core core).fetchDone then .next s
    else if 2048 ≤ (s.core core).fetch then
      .next ((s.updCore core (fun t => { t with fetchDone := true })).kernelFault r.part r.ctx { status := 0x0101, core := core })
    else
      let b := BitVec.ofNat 512 (leNat (s.mem.bankRead core (kdBank r.kd) (64 * (s.core core).fetch) 64))
      .next (s.updCore core (fun t => t.route b))

/-- The listed opcodes (R87). -/
def opListed (op : Nat) : Bool :=
  [0x0000, 0x0001, 0x0002, 0x1001, 0x1002, 0x1003, 0x2001, 0x2002, 0x3001, 0x3002, 0x3003, 0x3004].contains op ||
  (decide (0x4001 ≤ op) && decide (op ≤ 0x400B)) || (decide (0x5001 ≤ op) && decide (op ≤ 0x5009)) ||
  [0x6001, 0x6002, 0x6010].contains op

/-- UNLISTED_OPCODE (R87): such a block faults when its queue would begin it. -/
def execUnlistedOpcode (core queue : Nat) (s : State) : Host.Outcome State Fault Refusal :=
  if 3 < queue then .next s else .next (s.refuseStep core queue 0x0101 (fun b => !opListed (cbOp b)))

/-! ## CTL commands (R87, R102, R110) -/

/-- One event of a command that has no work of its own: begin, issue, and what it does when it has issued. -/
def State.controlStep (s : State) (c q op : Nat) (form : Form) (check : Core → Issued → Bool)
    (act : State → CoreRun → Issued → State) : State :=
  if 3 < q then s
  else match s.begin c q (fun b => cbOp b == op) with
    | .idle => s
    | .stopped t => t
    | .go s r iss =>
      match s.issue c q r iss form (fun e m k i => need (imm i.block 255 0 == 0 && check k i && commonOk e m k.params i form [])) with
      | (s, iss, .fault st) => s.cmdFault c q r iss.block st
      | (s, iss, .ok) => act s r iss
      | (s, iss, _) => s.setRun c q (some iss)

/-- The form of NOP and BRK. -/
def ctlForm : Form := { uses := [false, false, false, false], qsel := true }

/-- NOP (R87). -/
def execNop (core queue : Nat) (s : State) : Host.Outcome State Fault Refusal :=
  .next (s.controlStep core queue 0x0000 ctlForm (fun _ _ => true) (fun s r _ => s.retire core queue r))

/-- Whether a BRK that has not fired yet is the next command of a queue that may begin. -/
def State.brkDue (s : State) (c q : Nat) : Option (CoreRun × BitVec 512) :=
  match s.running c with
  | none => none
  | some (r, k) =>
    let t := (s.core c).queue q
    match t.cmds with
    | b :: _ => if cbOp b == 0x0002 && t.run.isNone && !t.brkTaken && k.fault.isNone then some (r, b) else none
    | [] => none

/-- BRK (R110): a break that always fires; after the resume it begins and retires. -/
def execBrk (core queue : Nat) (s : State) : Host.Outcome State Fault Refusal :=
  if 3 < queue then .next s
  else match s.brkDue core queue with
    | some (r, b) =>
      match s.takeLate core queue r with
      | some t => .next t
      | none =>
        let slots := s.breakHits r.part r.ctx queue (nextCount ((s.core core).queue queue).count) (cbTag b)
        .next ((s.updQueue core queue (fun t => { t with brkTaken := true })).fireBreak r.part r.ctx slots)
    | none =>
      .next (s.controlStep core queue 0x0002 ctlForm (fun _ _ => true) (fun s r _ =>
        (s.updQueue core queue (fun t => { t with brkTaken := false })).retire core queue r))

/-- KEND (R102): each queue retires its own. -/
def execKend (core queue : Nat) (s : State) : Host.Outcome State Fault Refusal :=
  .next (s.controlStep core queue 0x0001 { uses := [false, false, false, false] } (fun _ _ => true) (fun s r _ =>
    (s.updQueue core queue (fun t => { t with kend := true })).retire core queue r))

/-! ## Belays (R201 to R206) -/

/-- The arrival table of a context's queue, wherever the context is: on its core, or in its saved state (R206). -/
def State.updArrivals (s : State) (p x c q : Nat) (f : List Arrival → List Arrival) : State :=
  let g := fun (t : QueueSt) => { t with arrivals := f t.arrivals }
  let here := match (s.core c).run with | some r => r.part == p && r.ctx == x | none => false
  if here && (s.context p x).state != .restoring then s.updQueue c q g
  else if Table.has (s.context p x).savedCores c then
    s.updContext p x (fun t => { t with savedCores := Table.upd {} t.savedCores c (fun k => k.setQueue q (g (k.queue q))) })
  else s

/-- The contexts that may have a table on a core. -/
def State.tablesOf (s : State) (p n g c : Nat) : State :=
  let note := fun (l : List Arrival) => l.map (fun a =>
    if a.belay = n ∧ a.gen.isSome then { a with released := some g } else a)
  (s.ctxs).foldl (fun s x =>
    if (s.context p x).kernel.isSome then (List.range 4).foldl (fun s q => s.updArrivals p x c q note) s else s) s

/-- A release reaches the entries of a core (R202, R206). -/
def State.deliverRelease (s : State) (p c : Nat) : State :=
  match (s.part p).releases.find? (fun t => t.1 == c) with
  | none => s
  | some (_, n, g) =>
    (s.updPart p (fun t => { t with releases := t.releases.erase (c, n, g) })).tablesOf p n g c

/-- A round ends: GEN steps, ARRIVED clears, and a release goes to every core of the partition (R201, R202). -/
def State.releaseBelay (s : State) (p n : Nat) : State :=
  let b := Table.get {} (s.part p).belays n
  let g := (b.gen + 1) % 65536
  s.updPart p (fun t => { t with
    belays := Table.set t.belays n { b with gen := g, arrived := 0 }
    releases := t.releases ++ (partCores s.mode p).map (fun c => (c, n, g)) })

/-- All releases on their way to a core are delivered. -/
def State.deliverAll (s : State) (p c : Nat) : State :=
  (List.range ((s.part p).releases.filter (fun t => t.1 == c)).length).foldl (fun s _ => s.deliverRelease p c) s

/-- An arrival reaches the belay unit (R202, R204): refused, or counted, its reply sent before any release that follows. -/
def State.arriveAt (s : State) (p c q n x : Nat) : State :=
  let s := s.updPart p (fun t => { t with arrivalsIn := t.arrivalsIn.erase (c, q, n, x) })
  let b := Table.get {} (s.part p).belays n
  if b.target = 0 ∨ b.ctx ≠ x then
    let a := (((s.coreOf p x c).queue q).arrivals.find? (fun a => a.belay == n)).getD { belay := n }
    (s.updArrivals p x c q (fun l => l.filter (fun a => a.belay != n))).kernelFault p x
      { status := 0x0102, tag := a.tag, count := a.count, queue := q, core := c }
  else
    let s := s.deliverAll p c
    let s := s.updArrivals p x c q (fun l => l.map (fun a =>
      if a.belay = n then { a with gen := some b.gen, released := none } else a))
    let s := s.updPart p (fun t => { t with belays := Table.set t.belays n { b with arrived := b.arrived + 1 } })
    if b.target ≤ b.arrived + 1 then s.releaseBelay p n else s

/-- The C-die of a partition's belay unit (R201). -/
def State.belayDie (s : State) (p : Nat) : Nat := (partCores s.mode p).headD 0 / 12

/-- Arrivals that have to be counted before all of a context are: its own, and from another die those sent before one of its own,
because a spar link keeps their order (R207). -/
def arrivalsUpTo (die x : Nat) : List (Nat × Nat × Nat × Nat) → List (Nat × Nat × Nat × Nat)
  | [] => []
  | t :: rest =>
    if t.2.2.2 == x || (t.1 / 12 != die && rest.any (fun u => u.1 / 12 == t.1 / 12 && u.2.2.2 == x)) then t :: arrivalsUpTo die x rest
    else arrivalsUpTo die x rest

/-- Arrivals of a context that are still on their way are counted (R204). -/
def State.flushArrivals (s : State) (p x : Nat) : State :=
  (arrivalsUpTo (s.belayDie p) x (s.part p).arrivalsIn).foldl (fun s t => s.arriveAt p t.1 t.2.1 t.2.2.1 t.2.2.2) s

/-- Whether every command of the queue before number `n` has completed (R202): no remote write of such a command is
outstanding or waits for room, and in the sequencer's queue no such command still generates. -/
def State.arriveReady (s : State) (p c q n : Nat) : Bool :=
  let k := s.core c
  (s.part p).outstanding.all (fun r => r.2.core != c || r.2.queue != q || !r.2.write || decide (n ≤ r.2.cmdCount)) &&
  (k.queue q).backlog.all (fun r => decide (n ≤ r.1.cmdCount)) &&
  (q != 3 || k.streams.all (fun t => t.2.gen.isNone || decide (n < t.2.count)))

/-- Arrivals whose condition is met leave for the belay unit. -/
def State.sendArrivals (s : State) (c q : Nat) : State :=
  match s.running c with
  | none => s
  | some (r, _) =>
    let ready := fun (a : Arrival) => !a.sent && s.arriveReady r.part c q a.count
    let go := ((s.core c).queue q).arrivals.filter ready
    let s := s.updQueue c q (fun t => { t with arrivals := t.arrivals.map (fun a => if ready a then { a with sent := true } else a) })
    s.updPart r.part (fun t => { t with arrivalsIn := t.arrivalsIn ++ go.map (fun a => (c, q, a.belay, r.ctx)) })

/-- The form of BELAY_ARRIVE and BELAY_WAIT. -/
def belayForm : Form := { uses := [false, false, false, false], nest := false, stream := false, qsel := true }

/-- One event of a belay command. -/
def State.belayStep (s : State) (c q op : Nat) (check : QueueSt → Nat → Bool) (act : State → CoreRun → Issued → State) : State :=
  match s.begin c q (fun b => cbOp b == op) with
  | .idle => s
  | .stopped t => t
  | .go s r iss =>
    match s.issue c q r iss belayForm (fun _ _ k i => need (imm i.block 255 8 == 0 && check (k.queue q) (cbBelay i.block))) with
    | (s, iss, .fault st) => s.cmdFault c q r iss.block st
    | (s, iss, .ok) => act s r iss
    | (s, iss, _) => s.setRun c q (some iss)

/-- BELAY_ARRIVE (R202): an entry is added, and arrivals leave once earlier commands of the queue have completed. -/
def execBelayArrive (core queue : Nat) (s : State) : Host.Outcome State Fault Refusal :=
  if 3 < queue then .next s
  else
    let s := s.belayStep core queue 0x6001
      (fun q n => !q.arrivals.any (fun a => a.belay == n) && decide (q.arrivals.length < 8))
      (fun s r iss =>
        let q := (s.core core).queue queue
        let a : Arrival := { belay := cbBelay iss.block, tag := cbTag iss.block, count := q.count }
        (s.updQueue core queue (fun q => { q with arrivals := q.arrivals ++ [a] })).retire core queue r)
    .next (s.sendArrivals core queue)

/-- Whether an arrival that is not sent yet can count while no consumer takes a stream entry: one of the sequencer's cannot once
every SEQ command before it that still generates has to wait for room (R204). -/
def Core.canCount (k : Core) (q : Nat) (a : Arrival) : Bool :=
  let gens := k.streams.filter (fun t => t.2.gen.isSome && decide (t.2.count ≤ a.count))
  q != 3 || gens.isEmpty || gens.any (fun t => k.generates t.1)

/-- Whether a release of belay `n` of partition `p` can still come by itself to a wait of context `x`: a release is on its way, or an
arrival of the context that the belay serves, which alone is counted (R204), is on its way or still to be sent. -/
def State.belayMoving (s : State) (p x n : Nat) : Bool :=
  let y := (Table.get {} (s.part p).belays n).ctx
  (s.part p).arrivalsIn.any (fun t => t.2.2.1 == n && t.2.2.2 == y) || (s.part p).releases.any (fun t => t.2.1 == n) ||
  s.cores.any (fun c => (match c.2.run with | some r => r.part == p && r.ctx == y | none => false) &&
    (List.range 4).any (fun q => (c.2.queue q).arrivals.any (fun a => a.belay == n && !a.sent && (x != y || c.2.canCount q a))))

/-- Whether every other queue of every listed core has retired its KEND (R204). -/
def State.othersEnded (s : State) (c q : Nat) (kd : BitVec 512) : Bool :=
  (bitsBelow 48 (kdCores kd)).all (fun d =>
    (List.range 4).all (fun j => (d == c && j == q) || ((s.core d).queue j).kend))

/-- A BELAY_WAIT that has issued: it ends, waits, or can never end (R202, R204). -/
def State.waitStep (s : State) (c q : Nat) (r : CoreRun) (iss : Issued) : State :=
  let n := cbBelay iss.block
  if ((s.core c).queue q).arrivals.any (fun a => a.belay == n && a.over) then
    (s.updQueue c q (fun t => { t with arrivals := t.arrivals.filter (fun a => a.belay != n) })).retire c q r
  else if s.othersEnded c q r.kd && !s.belayMoving r.part r.ctx n then s.cmdFault c q r iss.block 0x0102
  else s.setRun c q (some iss)

/-- BELAY_WAIT (R202 to R204). -/
def execBelayWait (core queue : Nat) (s : State) : Host.Outcome State Fault Refusal :=
  if 3 < queue then .next s
  else .next (s.belayStep core queue 0x6002 (fun q n => q.arrivals.any (fun a => a.belay == n))
    (fun s r iss => s.waitStep core queue r iss))

/-- Whether an arrival on its way may be the next to reach the belay unit: from another die, only the earliest (R207). -/
def State.arrivalNext (s : State) (p : Nat) (t : Nat × Nat × Nat × Nat) : Bool :=
  t.1 / 12 == s.belayDie p || (s.part p).arrivalsIn.find? (fun u => u.1 / 12 == t.1 / 12) == some t

/-- BELAY_ARRIVAL (R202, R204, R207): an arrival on its way reaches the belay unit. -/
def execBelayArrival (core queue belay : Nat) (s : State) : Host.Outcome State Fault Refusal :=
  let p := partOfCore s.mode core
  match (s.part p).arrivalsIn.find? (fun t => t.1 == core && t.2.1 == queue && t.2.2.1 == belay) with
  | some t => .next (if s.arrivalNext p t then s.arriveAt p core queue belay t.2.2.2 else s)
  | none => .next s

/-- Waits in progress on a core that have ended retire. -/
def State.wake (s : State) (c : Nat) : State :=
  (List.range 4).foldl (fun s q =>
    match s.running c, ((s.core c).queue q).run with
    | some (r, _), some iss =>
      if cbOp iss.block == 0x6002 && iss.issued &&
          ((s.core c).queue q).arrivals.any (fun a => a.belay == cbBelay iss.block && a.over)
      then s.waitStep c q r iss else s
    | _, _ => s) s

/-- BELAY_RELEASE (R202, R206): the oldest release on its way to a core arrives and ends its waits. -/
def execBelayRelease (part core : Nat) (s : State) : Host.Outcome State Fault Refusal :=
  .next ((s.deliverRelease part core).wake core)

/-! ## Writes of BELAY registers (R201, R206) -/

/-- A host write of BELAY n. -/
def State.writeBelay (s : State) (p n v : Nat) : State :=
  let b := Table.get {} (s.part p).belays n
  let st := (s.context p b.ctx).state
  let target := fld v 7 0
  let ctx := fld v 37 32
  if st == .saved || st == .held || decide (4 * (48 / nParts s.mode) < target) || (ctx != b.ctx && b.arrived != 0) then s
  else
    let s := s.updPart p (fun t => { t with belays := Table.set t.belays n { b with target := target, ctx := ctx } })
    if v.testBit 8 || (b.arrived != 0 && decide (target ≤ b.arrived)) then s.releaseBelay p n else s

end Sys2Proof.Machine
end

