-- ==== Sys2Proof/Machine/Selftest.lean ====
section
/-! DEFINITION. Shared operations of self-test and calibration requests (R387 to R392): what a request names, what it
holds, and when its pieces start. -/

namespace Sys2Proof.Machine

/-! ## Requests -/

def tqItem (r : Nat) : Nat := fld r 7 0
def tqDrained (r : Nat) : Bool := bit r 8
def tqUnit (r : Nat) : Nat := fld r 21 16

/-- The request of a partition: self-test or calibration. -/
def State.tu (s : State) (p : Nat) (cal : Bool) : TestUnit := if cal then (s.part p).cal else (s.part p).test
def State.updTu (s : State) (p : Nat) (cal : Bool) (f : TestUnit → TestUnit) : State :=
  s.updPart p (fun t => if cal then { t with cal := f t.cal } else { t with test := f t.test })

/-- What kind of unit an item names. -/
inductive UnitKind where
  | core
  | stack
  | spar
  | port
  | die
  deriving DecidableEq, Repr

/-- The unit kind of an item (R388), or none for an unknown item. -/
def itemKind (cal : Bool) (item : Nat) : Option UnitKind :=
  if cal then
    match item with
    | 1 => some .stack
    | 2 => some .spar
    | 3 => some .die
    | 4 => some .port
    | _ => none
  else
    match item with
    | 1 => some .core
    | 2 => some .core
    | 3 => some .core
    | 4 => some .stack
    | 5 => some .stack
    | 6 => some .stack
    | 7 => some .stack
    | 8 => some .spar
    | 9 => some .port
    | _ => none

/-- Items that allow only DRAINED. -/
def itemDrainedOnly (cal : Bool) (item : Nat) : Bool :=
  if cal then item != 3 else item == 7 || item == 8 || item == 9

/-- The two C-dies of a C–C spar link. -/
def sparPair (u : Nat) : Option (Nat × Nat) :=
  match u with
  | 0 => some (0, 1)
  | 1 => some (0, 2)
  | 2 => some (0, 3)
  | 3 => some (1, 2)
  | 4 => some (1, 3)
  | 5 => some (2, 3)
  | _ => none

/-- Partitions that hold an end of a spar link. -/
def sparParts (mode u : Nat) : List Nat :=
  match sparPair u with
  | some (a, b) => [partOfDie mode a, partOfDie mode b]
  | none => if u < 14 then [partOfDie mode ((u - 6) / 2)] else []

/-- Whether a unit exists and belongs to the partition. I-dies have no partition of their own: any may calibrate them (log 32). -/
def unitOk (mode p : Nat) (k : UnitKind) (u : Nat) : Bool :=
  match k with
  | .core => decide (u < 48) && partOfCore mode u == p
  | .stack => decide (u < 16) && partOfStack mode u == p
  | .spar => (sparParts mode u).contains p
  | .port => decide (u < 8) && partOfPort mode u == p
  | .die => decide (u < 6) && (decide (4 ≤ u) || partOfDie mode u == p)

/-- Partitions that a request must find drained, and holds while it runs (R391). -/
def State.drains (s : State) (p : Nat) (cal : Bool) : List Nat :=
  let r := (s.tu p cal).request
  if itemKind cal (tqItem r) = some .spar then sparParts s.mode (tqUnit r) else [p]

/-- Whether a running DRAINED request holds partition `p`: its starts stay pending and it begins no step (R391). -/
def State.drainHeld (s : State) (p : Nat) : Bool :=
  (List.range (nParts s.mode)).any (fun q => [false, true].any (fun cal =>
    (s.tu q cal).state == 2 && tqDrained (s.tu q cal).request && (s.drains q cal).contains p))

/-- Whether a step runs, or the boundary under way has assembled one. -/
def Part.stepAhead (t : Part) : Bool :=
  t.phase == .running || (!t.jobs.contains .assemble && (!t.batch.isEmpty || t.jobs.any (fun j => match j with | .write l => !l.isEmpty | _ => false)))

/-- Whether a partition is drained (R391). -/
def State.drained (s : State) (p : Nat) : Bool :=
  !(s.part p).stepAhead &&
  (s.ctxs).all (fun x => let st := (s.context p x).state; st != .running && st != .saving && st != .restoring)

/-! ## Reads by the part's own engines -/

/-- What an engine of the part that is no core reads and writes as: the scheduler, the save engine, CSGO. -/
def State.partEnv (s : State) (p : Nat) : Env := { s.env 0 2 ⟨p, 0, 0, 0⟩ with landing := [], room := 0 }

/-- Take what such an engine's piece of work has done to memory, and send the snoops it needs. -/
def State.takeWork (s : State) (w : Wk) : State :=
  let s := (s.withMem w.mem 3).sendSnoops w.snoops.reverse
  let s := if w.wait then s else
    { s with host := { s.host with granted := s.host.granted.filter (fun l => !w.taken.contains l) } }
  w.drops.foldl (fun s d => s.updCore d.1 (fun k => { k with cslog := k.cslog.drop d.2.1 d.2.2 })) s

/-- KLIST: records and the address of the first (R278). -/
def Part.kcount (t : Part) : Nat := fld t.klist.toNat 63 52
def Part.kaddr (t : Part) : Nat := fld t.klist.toNat 43 6 * 64

/-- The cores that the step program lists; every core where a record cannot be read. -/
def State.klistCores (s : State) (p : Nat) : Nat :=
  let t := s.part p
  (List.range t.kcount).foldl (fun a k =>
    let (bs, w) := Wk.read (s.partEnv p) { mem := s.mem } (t.kaddr + 64 * k) 64
    if w.good then a ||| kdCores (BitVec.ofNat 512 (leNat bs)) else 2 ^ 48 - 1) 0

/-! ## Pieces (R390) -/

/-- Whether a core holds no kernel, nor the coming step lists it. -/
def State.coreIdle (s : State) (p c : Nat) : Bool :=
  (s.core c).run.isNone && (!(s.part p).srvEn || !(s.klistCores p).testBit c)

/-- Whether the unit of a BACKGROUND request is idle. -/
def State.unitIdle (s : State) (p : Nat) (k : UnitKind) (u : Nat) : Bool :=
  match k with
  | .core => s.coreIdle p u
  | .stack => (List.range 12).all (fun j => s.coreIdle p (12 * (u / 4) + j))
  | .die => true
  | _ => false

/-- The unit of a running piece is held, or let go. -/
def State.holdUnit (s : State) (k : UnitKind) (u : Nat) (on : Bool) : State :=
  match k with
  | .core => s.updCore u (fun c => { c with testPiece := on })
  | .stack => s.updEngine u (fun e => { e with testPiece := on })
  | .port => s.updPort u (fun q => { q with testPiece := on })
  | _ => s

/-- Whether the unit is held by a piece. -/
def State.unitHeld (s : State) (k : UnitKind) (u : Nat) : Bool :=
  match k with
  | .core => (s.core u).testPiece
  | .stack => (s.engine u).testPiece
  | .port => (s.port u).testPiece
  | _ => false

/-- Whether the unit is disabled or down (R392). -/
def State.unitGone (s : State) (k : UnitKind) (u : Nat) : Bool :=
  match k with
  | .stack => (s.mem.stack u).down
  | .port => (s.port u).state == .disabled || (s.port u).state == .down
  | _ => false

/-- A piece of a BACKGROUND request starts where its unit is idle. -/
def State.startPiece (s : State) (p : Nat) (cal : Bool) : State :=
  let t := s.tu p cal
  match itemKind cal (tqItem t.request) with
  | some k =>
    if t.state == 1 && !tqDrained t.request && s.unitGone k (tqUnit t.request) then
      s.updTu p cal (fun t => { t with state := 3, result := 3 })
    else if (t.state == 1 || t.state == 2) && !tqDrained t.request && !t.cancel && !s.unitHeld k (tqUnit t.request) &&
        s.unitIdle p k (tqUnit t.request)
    then (s.updTu p cal (fun t => { t with state := 2 })).holdUnit k (tqUnit t.request) true
    else s
  | none => s

/-- Pieces of both requests of a partition start. -/
def State.startPieces (s : State) (p : Nat) : State :=
  if s.isLive then (s.startPiece p false).startPiece p true else s

/-- A moment outside the boundaries at which pieces may start: SRVCTL EN is 0 (R390). -/
def State.startPiecesIdle (s : State) (p : Nat) : State := if (s.part p).srvEn then s else s.startPieces p

/-- The serving registers beside EN take a write while EN is 0 and no step runs (R278). -/
def Part.unlocked (t : Part) : Bool := !t.srvEn && t.phase != .running

/-- SRVCTL EN goes to 0: at once where no step runs or is about to, which is a moment for pieces (R390); else at the next boundary. -/
def State.clearEn (s : State) (p : Nat) : State :=
  if (s.part p).stepAhead then s.updPart p (fun t => { t with srvOff := t.srvOff || t.srvEn })
  else (s.updPart p (fun t => { t with srvEn := false, srvOff := false })).startPieces p

end Sys2Proof.Machine
end

