-- ==== Sys2Proof/Machine/Stack.lean ====
section
/-! DEFINITION. The stack engines: forwarding a STK command (R162 to R166, R185), sub-queues and operand areas (R167,
R168), the page-table walker (R183), the expander's queue (R272), work units, completion and faults. -/

namespace Sys2Proof.Machine

/-! ## Lines of a stack as local addresses, in either interleave (R323, R324) -/

/-- The line of a host window, counted as 2^30 * stack + stack offset / 64. -/
def State.stackLine (s : State) (p line : Nat) : Nat :=
  match placeStack s.mode p ((s.part p).interleave == 1) s.mem (64 * line) with
  | .stack k off => k * 2 ^ 30 + off / 64
  | _ => line

/-- The local line of a stack line: the inverse. -/
def State.addrLine (s : State) (p sl : Nat) : Nat :=
  if (s.part p).interleave == 1 then
    let l := partStacks s.mode p
    let k := sl / 2 ^ 30
    let o := sl % 2 ^ 30 * 64
    (stackBase s.mode p + (o / 4096 * l.length + l.idxOf k) * 4096 + o % 4096) / 64
  else sl

/-- An environment whose stack addresses are LOCAL ones, whatever the interleave. -/
def State.localEnv (s : State) (e : Env) : Env :=
  { e with wide := false, tracked := if e.part = 0 then e.tracked.map (s.stackLine 0) else []
           granted := if e.part = 0 then e.granted.map (s.stackLine 0) else [] }

/-- Effects of a piece of work in such an environment, with its snoops as the host knows the lines. -/
def State.hostLines (s : State) (w : Wk) : Wk :=
  { w with snoops := w.snoops.map (fun l => (s.addrLine 0 l.1, l.2)), taken := w.taken.map (s.addrLine 0) }

/-- The part's own work in the stacks of a partition: tables, pools, copies. -/
def State.dieEnv (s : State) (p : Nat) : Env := s.localEnv (s.partEnv p)

/-- A stack engine at work for a forwarded command: its stack's DRAM and the issuing core's scratch. -/
def State.stkEnv (s : State) (c : StkCmd) : Env :=
  { s.localEnv (s.env c.core 2 ⟨c.part, c.ctx, 0, 0⟩) with viewGlobal := false, se := true, landing := [], room := 0 }

/-! ## Immediates and operand kinds (R162, R165) -/

def stkStack (b : BitVec 512) : Nat := imm b 3 0
def stkFn (b : BitVec 512) : Nat := imm b 15 8

/-- R165: a home stack of the core's die, FN below `fns`, reserved bits clear. -/
def stkHeadOk (core : Nat) (b : BitVec 512) (fns : Nat) : Bool :=
  stkStack b / 4 == core / 12 && imm b 7 4 == 0 && imm b 31 16 == 0 && decide (stkFn b < fns)

/-- Where an operand may lie (R166). -/
inductive StkKind where
  | inStack
  | link
  | either
  deriving DecidableEq, Repr

/-- The stack's DRAM as a range of addresses. -/
def okIn (m : MemSys) (k a : Nat) : Option (Nat × Nat) :=
  if k * 2 ^ 36 ≤ a ∧ a < k * 2 ^ 36 + (m.stack k).capacity then some (k * 2 ^ 36, k * 2 ^ 36 + (m.stack k).capacity) else none

/-- The scratch window of a core as a range of addresses. -/
def okLink (core a : Nat) : Option (Nat × Nat) :=
  let lo := 2 ^ 40 + core * 0x80_0000
  if lo ≤ a ∧ a < lo + 0x80_0000 then some (lo, lo + 0x80_0000) else none

/-- Whether every address of an operand is of a kind its place allows (R162). -/
def stkFits (e : Env) (m : MemSys) (k core : Nat) (kind : StkKind) (o : Opn) : Bool :=
  (kind != .link && addrsOk e (okIn m k) o) || (kind != .inStack && addrsOk e (okLink core) o)

/-- What a STK opcode allows in an operand place: kind, WRITE, and its tile. -/
structure StkUse where
  used : Bool := true
  kind : StkKind := .either
  write : Bool := false
  tile : List Nat := []
  deriving DecidableEq, Repr

def noStk : StkUse := { used := false }

def stkForm (uses : List StkUse) (nest : Bool) : Form :=
  { uses := (List.range 4).map (fun o => (uses.getD o noStk).used), nest := nest, stream := nest }

/-- R162, R163, R165 and R166, with R64, R72 and R96 for each operand. -/
def stkOk (e : Env) (m : MemSys) (k : Core) (iss : Issued) (uses : List StkUse) (nest : Bool) (fns : Nat) : Bool :=
  let b := iss.block
  stkHeadOk e.core b fns && !e.wide &&
  (List.range 4).all (fun o =>
    let u := uses.getD o noStk
    let d := iss.descs.getD o 0
    !u.used || (decide (cbOpd b o < 0xFF00) && !dGlobal e d && (!u.write || destOk d) &&
      ((cbSbind b).testBit o || stkFits e m (stkStack b) e.core u.kind (plainOpn d)))) &&
  commonOk e m k.params iss (stkForm uses nest) (uses.map StkUse.tile)

/-! ## Forwarding (R88, R166, R167, R185, R186) -/

/-- Commands of a core's sub-queue. -/
def Engine.sub (g : Engine) (core : Nat) : List StkCmd := Table.get [] g.subq (core % 12)

/-- A forwarded command, wherever it stands in its engine, changed. -/
def Engine.updCmd (g : Engine) (core count : Nat) (f : StkCmd → StkCmd) : Engine :=
  let mine := fun (c : StkCmd) => c.core == core && c.count == count
  { g with subq := g.subq.map (fun q => (q.1, q.2.map (fun c => if mine c then f c else c)))
           active := g.active.map (fun a => (a.1, if mine a.2.cmd then { a.2 with cmd := f a.2.cmd } else a.2)) }

/-- One iteration's part of a forwarding: the command itself first, then the entries of each iteration. Those of a command that a
fault report has removed since are taken and go nowhere (R185). -/
def forwardBody (c : Nat) (s : State) (r : CoreRun) (iss : Issued) (n : Nat) : State × Done :=
  let k := stkStack iss.block
  let core := s.core c
  let g := s.engine k
  let num := core.qDma.count
  if n = 0 ∧ (g.sub c).length ≥ 32 ∧ !(g.sub c).any (fun x => x.count == num) then (s, .wait)
  else
    let kid := match (s.context r.part r.ctx).kernel with | some x => kdKid x.kd | none => 0
    let cmd : StkCmd := { core := c, part := r.part, ctx := r.ctx, kid := kid, count := num,
                          iss := { iss with iter := 0 }, params := core.params }
    let known := (g.sub c).any (fun x => x.count == num) || g.active.any (fun a => a.2.cmd.core == c && a.2.cmd.count == num)
    let s := if known || n != 0 then s else s.updEngine k (fun g => { g with subq := Table.set g.subq (c % 12) (g.sub c ++ [cmd]) })
    let need := (boundOps iss.block).length
    let es := core.entries iss.block
    if es.length < need then (if core.dry iss.block then (s, .fault 0x0102) else (s, .wait))
    else
      let last := decide (nIters (nCounts iss.nest core.params) ≤ n + 1)
      let s := s.setCore c ((s.core c).dropEntries (cbStream iss.block) need)
      (s.updEngine k (fun g => g.updCmd c num (fun x => { x with entries := x.entries ++ es.take need, whole := last })), .ok)

/-- The DMA queue issues a STK command and forwards it. `sized` gives tiles that hang on the descriptors. -/
def State.forward (s : State) (c op : Nat) (uses : BitVec 512 → List StkUse) (nest : Bool) (fns : Nat)
    (check : State → Env → MemSys → Issued → Bool) (sized : Issued → List StkUse → List StkUse := fun _ u => u) : State :=
  s.engineStep c 2 op (fun b => stkForm (uses b) nest)
    (fun _ e m k i => need (stkOk e m k i (sized i (uses i.block)) nest fns && check s e m i)) nestTotal (forwardBody c)

/-! ## Active commands -/

def Engine.act (g : Engine) (area : Nat) : Option ActiveCmd := (g.active.find? (fun a => a.1 == area)).map Prod.snd
def Engine.setAct (g : Engine) (area : Nat) (a : ActiveCmd) : Engine := { g with active := Table.set g.active area a }
def State.updAct (s : State) (k area : Nat) (f : ActiveCmd → ActiveCmd) : State :=
  s.updEngine k (fun g => match g.act area with | some a => g.setAct area (f a) | none => g)

/-- STK_ACTIVATE (R167, R168): the head of the next sub-queue whose core has no active command takes the lowest free area. -/
def execStkActivate (stack : Nat) (s : State) : Host.Outcome State Fault Refusal :=
  let g := s.engine stack
  let free := (List.range 4).find? (fun a => (g.act a).isNone)
  let next := ((List.range 12).map (fun i => (g.lastCore + 1 + i) % 12)).find? (fun j =>
    !(Table.get [] g.subq j).isEmpty && !g.active.any (fun a => a.2.cmd.core % 12 == j))
  match free, next with
  | some a, some j =>
    match Table.get [] g.subq j with
    | [] => .next s
    | c :: rest =>
      .next (s.setEngine stack { (g.setAct a { cmd := c }) with subq := Table.set g.subq j rest, lastCore := j })
  | _, _ => .next s

/-- A slice boundary applies a waiting write of SE_ARB (R171). -/
def Engine.arb (g : Engine) : Engine :=
  match g.arbPending with
  | some (sl, lr) => { g with slice := sl, linkres := lr, arbPending := none }
  | none => g

/-- Whether a command computes in the MAC lanes or the FP32 unit: S_ATTEND to S_EWISE (log 23). -/
def ActiveCmd.usesLanes (a : ActiveCmd) : Bool := decide (0x5001 ≤ cbOp a.cmd.iss.block) && decide (cbOp a.cmd.iss.block ≤ 0x5005)

/-- An area's command takes part in the round robin of slices: it computes there, and neither its work nor a fault has ended it. -/
def Engine.lanesLive (g : Engine) (area : Nat) : Bool := (g.act area).any (fun a => a.usesLanes && !a.done && a.fault.isNone)

/-- The next of those areas after the one whose slice it is; that one comes last. -/
def Engine.nextLanes (g : Engine) : Option Nat := ((List.range 4).map (fun i => (g.sliceArea + 1 + i) % 4)).find? g.lanesLive

/-- A slice ends: the MAC lanes and the FP32 unit pass to the next active command that uses them, in round robin (R168). -/
def Engine.endSlice (g : Engine) : Engine := { g.arb with sliceArea := g.nextLanes.getD g.sliceArea }

/-- SLICE_END (R168): the units pass to the next active command. -/
def execSliceEnd (stack : Nat) (s : State) : Host.Outcome State Fault Refusal :=
  .next (s.updEngine stack Engine.endSlice)

/-- The area whose slice it is: once its command has ended, the next of the round robin (R168). -/
def Engine.sliceOwner (g : Engine) : Option Nat := if g.lanesLive g.sliceArea then some g.sliceArea else g.nextLanes

/-- Whether work units of an area's command may run: it needs no lanes, or the slice is its own (R168). -/
def Engine.mayCompute (g : Engine) (area : Nat) : Bool := !(g.act area).any ActiveCmd.usesLanes || g.sliceOwner == some area

/-! ## The walker (R183, R184, R231) -/

/-- Key of a page in a command's translations. -/
def transKey (layer page : Nat) : Nat := 2 ^ 40 * layer + page

/-- LAB entries that a change of an entry drops. -/
def Engine.labDrop (g : Engine) (p slot layer page : Nat) : Engine :=
  { g with lab := g.lab.filter (fun l => !(l.part == p && l.slot == slot && l.layer == layer && l.page == page)) }
/-- LAB entries of a slot. -/
def Engine.labDropSlot (g : Engine) (p slot : Nat) : Engine :=
  { g with lab := g.lab.filter (fun l => !(l.part == p && l.slot == slot)) }

/-- A LAB entry, used last, with the least recently used one replaced beyond 64. -/
def Engine.labPut (g : Engine) (l : LabEntry) : Engine :=
  let t := (g.labDrop l.part l.slot l.layer l.page).lab ++ [l]
  { g with lab := t.drop (t.length - 64) }

def Engine.labFind (g : Engine) (p slot layer page : Nat) : Option LabEntry :=
  g.lab.find? (fun l => l.part == p && l.slot == slot && l.layer == layer && l.page == page)

/-- The misses outstanding. -/
def Engine.walks (g : Engine) : List (Nat × Nat × Nat) :=
  (g.active.flatMap (fun a => (a.2.trans.filter (fun t => t.2 == .walking)).map
    (fun t => (imm a.2.cmd.iss.block 43 32, t.1 / 2 ^ 40, t.1 % 2 ^ 40)))).dedup

/-- Translation of one page for the command of an area: a page outside the tables is absent, a hit is found, a miss
starts while fewer than four are outstanding. -/
def State.translateOne (k area slot : Nat) (s : State) (layer page : Nat) : State :=
  let g := s.engine k
  match g.act area with
  | none => s
  | some a =>
    let key := transKey layer page
    if Table.has a.trans key then s
    else
      let p := a.cmd.part
      let put := fun (g : Engine) v => g.setAct area { a with trans := Table.set a.trans key v }
      if !pteInside s.mode (s.part p).kvgeom.toNat slot layer page then s.setEngine k (put g .absent)
      else match g.labFind p slot layer page with
        | some l => s.setEngine k (put { (g.labPut l) with hits := (g.hits + 1) % 2 ^ 32 } (.found l.pte))
        | none =>
          if g.walks.contains (slot, layer, page) || decide (g.walks.length < 4) then
            s.setEngine k (put { g with misses := (g.misses + 1) % 2 ^ 32 } .walking)
          else s

/-- Translation of the pages a command needs. -/
def State.translate (s : State) (k area slot : Nat) (pages : List (Nat × Nat)) : State :=
  pages.foldl (fun s x => s.translateOne k area slot x.1 x.2) s

/-- Every page a command needs has its answer. -/
def ActiveCmd.resolved (a : ActiveCmd) (pages : List (Nat × Nat)) : Bool :=
  pages.all (fun x => match Table.get .walking a.trans (transKey x.1 x.2) with | .walking => false | _ => true)

/-- A page's answer: the entry, or the status of its fault. -/
def ActiveCmd.page (a : ActiveCmd) (layer page : Nat) : Nat ⊕ Nat :=
  match Table.get .absent a.trans (transKey layer page) with
  | .found e => .inl e
  | .failed st => .inr st
  | _ => .inr 0x0203

/-- Stack address of a page-table entry in its stack's LOCAL window. -/
def State.pteAddrOf (s : State) (p slot layer page : Nat) : Nat :=
  let t := s.part p
  pageStack s.mode p page * 2 ^ 36 + pteOffset s.mode p t.kvgeom.toNat t.kvptb.toNat slot layer page

/-- A command's memory work in its stack is taken, with what it cost (R161, R297). -/
def State.stkTake (s : State) (c : StkCmd) (w : Wk) : State :=
  (((s.takeWork (s.hostLines w)).addMoved c.core 0 w.rd).addMoved c.core 1 w.wn).addCharge c.core
    (stackByte * (w.rd + w.wn) + w.charge)

/-- PAGE_WALK (R183): a miss of active commands completes. -/
def execPageWalk (stack slot layer page : Nat) (s : State) : Host.Outcome State Fault Refusal :=
  let g := s.engine stack
  let waits := fun (a : ActiveCmd) => imm a.cmd.iss.block 43 32 == slot &&
    Table.get .absent a.trans (transKey layer page) == .walking
  match g.active.find? (fun a => waits a.2) with
  | none => .next s
  | some (_, a) =>
    let p := a.cmd.part
    let (t, w) := Wk.readNat (s.stkEnv a.cmd) { mem := s.mem } (s.pteAddrOf p slot layer page) 64
    let s := s.stkTake a.cmd w.counted
    if w.wait && w.fault.isNone then .next s
    else
      let v : PageTrans := match w.fault with
        | some st => .failed st
        | none => if pteAbsent t stack then .absent else .found t
      let set := fun (g : Engine) => { g with active := g.active.map (fun x =>
        (x.1, if waits x.2 then { x.2 with trans := Table.set x.2.trans (transKey layer page) v } else x.2)) }
      .next (s.updEngine stack (fun g =>
        match v with
        | .found t => (set g).labPut { part := p, slot := slot, layer := layer, page := page, pte := t }
        | _ => set g))

/-! ## Codec table slots and the expander's queue (R263, R264, R272) -/

/-- A slot whose use count changes; RETIRED at zero becomes FREE. -/
def CodecSlot.use (t : CodecSlot) (d : Int) : CodecSlot :=
  let n := (t.count + d).toNat
  { t with count := n, state := if t.state == .retired && n == 0 then .free else t.state }
def Engine.useSlot (g : Engine) (i : Nat) (d : Int) : Engine := { g with table := Table.upd {} g.table i (fun t => t.use d) }

/-- The table slot that a coded granule names, while the slot holds its table. -/
def Engine.namedSlot (g : Engine) (h : Nat) : Option Nat :=
  let t := Table.get {} g.table (granSlot h)
  if !granRaw h && t.state != .free && t.gen == granGen h then some (granSlot h) else none

/-- Pages that an active S_ATTEND or S_KVEXP EXPAND reads in this stack, with its layer (R173, R227, R270). Pages at or above
MAXPAGES are absent (R231), so the first of them ends the command; sixteen of them reach every stack. -/
def State.readPages (s : State) (k : Nat) (c : StkCmd) : List (Nat × Nat) :=
  let b := c.iss.block
  let g := (s.part c.part).kvgeom.toNat
  let len := imm b 127 96
  let ppp := kvPpp g
  if len = 0 ∨ ppp = 0 ∨ !(cbOp b == 0x5001 || (cbOp b == 0x5009 && stkFn b == 0)) then []
  else
    let first := imm b 95 64 / ppp
    let last := min ((imm b 95 64 + len - 1) / ppp) (max first (kvMaxPages g) + 15)
    ((List.range (last + 1 - first)).map (fun i => first + i)).filterMap (fun n =>
      if pageStack s.mode c.part n = k then some (imm b 51 44, n) else none)

/-- A granule to be expanded: where it lies (a granule of the stack, or an offset in a transit image), its number in its page,
and the granules of the page. -/
structure GranPlace where
  inImage : Bool
  place : Nat
  index : Nat
  count : Nat
  deriving DecidableEq, Repr

/-- Granules that a command reads, in page and granule order: of its pages, or of the image page in work (R272, R275). -/
def State.granPlaces (s : State) (k : Nat) (a : ActiveCmd) : List GranPlace :=
  match a.image with
  | some i => (match i.page with
    | some (2, n, _, off) => (List.range n).map (fun j => ⟨true, off + 4096 * j, j, n⟩)
    | _ => [])
  | none => (s.readPages k a.cmd).flatMap (fun x => match a.page x.1 x.2 with
    | .inl e => if pteForm e = 2 then (List.range (pteGcount e)).map (fun j => ⟨false, pteGran e j, j, pteGcount e⟩) else []
    | .inr _ => [])

/-- Bytes [i, i + n) of a transit image. -/
def imageBytes (e : Env) (o : Opn) (i n : Nat) (w : Wk) : List Byte × Wk :=
  let (vs, w) := readElems e o ((List.range n).map (fun j => [((i + j : Nat) : Int), 0, 0, 0, 0, 0])) w
  (vs.map (fun v => BitVec.ofNat 8 v.code), w)

/-- One granule is fetched for an area. -/
def State.fetchOne (s : State) (k area : Nat) (g : GranPlace) (c : StkCmd) : Option State :=
  let e := s.stkEnv c
  let (bs, w) := if g.inImage then imageBytes e (plainOpn (c.iss.descs.getD 0 0)) g.place 4096 { mem := s.mem }
    else Wk.read e { mem := s.mem } (k * 2 ^ 36 + 4096 * g.place) 4096
  let s := s.takeWork (s.hostLines w)
  if w.wait && w.fault.isNone then none
  else
    let s := (s.addMoved c.core 0 w.rd).addCharge c.core (stackByte * w.rd)
    let slot := if w.fault.isSome || g.inImage then none else (s.engine k).namedSlot (leNat (bs.take 4))
    let g := { bad := w.fault, slot := slot, data := if w.fault.isSome then [] else bs : Gran }
    some (s.updEngine k (fun e =>
      let e := match slot with | some i => e.useSlot i 1 | none => e
      let e := { e with queue := e.queue ++ [(area, g)], lastFetch := area }
      match e.act area with | some a => e.setAct area { a with fetched := a.fetched + 1, expands := true } | none => e))

/-- The expander fetches in round robin, at most 16 granules queued for a command and 32 in all. -/
def State.fetchGranules : Nat → State → Nat → State
  | 0, s, _ => s
  | fuel + 1, s, k =>
    let g := s.engine k
    if 32 ≤ g.queue.length then s
    else
      let wants := fun a => match g.act a with
        | some x =>
          if x.fault.isNone && x.resolved (s.readPages k x.cmd) && decide ((g.queue.filter (fun q => q.1 == a)).length < 16)
          then (s.granPlaces k x)[x.fetched]?.map (fun n => (a, n, x.cmd)) else none
        | none => none
      match firstSome wants ((List.range 4).map (fun i => (g.lastFetch + 1 + i) % 4)) with
      | none => s
      | some (a, n, c) =>
        match s.fetchOne k a n c with
        | none => s
        | some s => State.fetchGranules fuel s k

/-- The tables of a stack's slots, by SLOT and GEN (R274). -/
def Engine.tablesAt (en : Engine) (slot gen : Nat) : Option Tables :=
  let t := Table.get {} en.table slot
  if t.state != .free && t.gen == gen then some t.tables else none

/-- What a fetched granule expands to for its command: the next granule of its page, under the stack's tables or the image's. -/
def State.expand (s : State) (k : Nat) (a : ActiveCmd) (g : Gran) : Expanded :=
  match g.bad, (s.granPlaces k a)[a.used + a.granules.length]? with
  | some st, _ => { fail := some st }
  | none, none => { fail := some 0x0201 }
  | none, some p =>
    let tables := match a.image with
      | some i => fun slot gen => (i.tables.find? (fun t => t.1 == (slot, gen))).map Prod.snd
      | none => (s.engine k).tablesAt
    let first := if p.index = 0 then 0 else a.nextUnit
    let stored := if p.index = 0 then none else a.stored
    match expandGranule (s.part a.cmd.part).kvgeom.toNat tables stored first (p.index + 1 == p.count) g.data with
    | none => { fail := some 0x0201 }
    | some us => { first := first, lossy := granLossy (leNat (g.data.take 4)), units := us }

/-- An expanded granule is delivered to its command's operand area. -/
def ActiveCmd.deliver (a : ActiveCmd) (x : Expanded) : ActiveCmd :=
  { a with granules := a.granules ++ [x], nextUnit := x.first + x.units.length, stored := some x.lossy }

/-- Whether a queued granule's command has credit: room in its operand area for one more (R273). -/
def Engine.credit (g : Engine) (area : Nat) : Bool := !(g.act area).any (fun a => decide (8 ≤ a.granules.length))

/-- Energy of expanding units of 32 elements, in 1/40 pJ: 0.2 pJ per element (R271). -/
def expandCost (units : Nat) : Nat := 8 * 32 * units

/-- GRANULE_DECODE (R264, R271 to R273): the oldest queued granule whose command has credit is done and delivered. -/
def execGranuleDecode (stack : Nat) (s : State) : Host.Outcome State Fault Refusal :=
  match (s.engine stack).queue.find? (fun q => (s.engine stack).credit q.1) with
  | none => .next s
  | some (area, g) =>
    let x := ((s.engine stack).act area).map (fun a => (a, s.expand stack a g))
    let s := match x with | some (a, y) => s.addCharge a.cmd.core (expandCost y.units.length) | none => s
    let s := s.updEngine stack (fun e =>
      let e := { e with queue := e.queue.erase (area, g), expanded := (e.expanded + 1) % 2 ^ 32 }
      let e := match g.slot with | some i => e.useSlot i (-1) | none => e
      match x with | some (a, y) => e.setAct area (a.deliver y) | none => e)
    .next (s.fetchGranules 32 stack)

/-! ## Work units (R168, R170, R185) -/

/-- What one work unit does: the rest of the part, the command, and its memory work. -/
abbrev StkUnit := State → Env → Nat → ActiveCmd → Nat → State × ActiveCmd × Wk

/-- Work units from the one reached on. -/
def State.stkUnits (f : StkUnit) (k area : Nat) : Nat → State → State
  | 0, s => s
  | n + 1, s =>
    match (s.engine k).act area with
    | none => s
    | some a =>
      let e := s.stkEnv a.cmd
      let (t, a', w) := f s e k a a.cmd.iss.iter
      let w := w.send e
      match w.fault with
      | some st => (s.stkTake a.cmd { w with wn := 0 }).updAct k area (fun a => { a with fault := some st })
      | none =>
        if w.wait then s.stkTake a.cmd { w with rd := 0, wn := 0, charge := 0 }
        else
          let a' := { a' with flags := a'.flags ||| (w.flags &&& flagIDX)
                              cmd := { a'.cmd with iss := { a'.cmd.iss with iter := a.cmd.iss.iter + 1 } } }
          State.stkUnits f k area n ((t.stkTake a.cmd w).updAct k area (fun _ => a'))

/-- The work units of a command have been tried: it is done or not, the next unit waits for its pause if one has run (R170), and
the slice passes on if it is the command's and the command waits or has ended (R168). `before` counts the units run before. -/
def Engine.afterUnits (g : Engine) (area before n : Nat) : Engine :=
  match g.act area with
  | none => g
  | some a =>
    let a := { a with done := a.fault.isNone && decide (n ≤ a.cmd.iss.iter) && a.cmd.whole }
    let ran := decide (before < a.cmd.iss.iter)
    let g := { g.setAct area a with pauseOver := if ran then g.pause == 0 else g.pauseOver }
    if a.usesLanes && g.sliceArea == area && (a.done || a.fault.isSome || g.pause == 0 || !ran) then g.endSlice else g

/-- One event of an active command: it prepares (translation, granules), then runs its work units. `total` is none while
it waits for them. Units run in the command's slice (R168), and before each one a drogue pause must have expired (R170). -/
def State.stkRun (s : State) (op k area : Nat) (prepare : State → ActiveCmd → State)
    (total : State → ActiveCmd → Option Nat) (f : StkUnit) : State :=
  match (s.engine k).act area with
  | none => s
  | some a =>
    if cbOp a.cmd.iss.block != op || a.done || a.fault.isSome then s
    else
      let s := prepare s a
      match (s.engine k).act area with
      | none => s
      | some a =>
        let g := s.engine k
        let i := a.cmd.iss.iter
        match total s a with
        | none => s.updEngine k (fun g =>
            if a.usesLanes && g.sliceOwner == some area then { g with sliceArea := area }.endSlice else g)
        | some n =>
          if !g.mayCompute area || (g.pause != 0 && !g.pauseOver && decide (i < n)) then s
          else
            let s := if a.usesLanes then s.updEngine k (fun g => { g with sliceArea := area }) else s
            let s := s.stkUnits f k area (if g.pause = 0 then n - i else min 1 (n - i))
            s.updEngine k (fun g => g.afterUnits area i n)

/-- What an active command leaves behind when it ends: its index-range flag (R55), and the cycles it waited for expanded
elements, in its kernel's EXP_STALLS and in KVC_EXP alike (R273); a command that uses no expander waits none (log 6). -/
def State.leave (s : State) (k : Nat) (a : ActiveCmd) : State :=
  let n := s.mem.fresh
  let waited := if a.expands then Config.cycles n 5 else 0
  let s := { s with mem := { s.mem with fresh := n + 1 } }
  let s := s.updEngine k (fun g => { g with stalls := (g.stalls + waited) % 2 ^ 32 })
  let s := s.updContext a.cmd.part a.cmd.ctx (fun x => { x with kernel := x.kernel.map (fun q =>
    { q with stalls := satAdd 32 q.stalls waited }) })
  s.updCore a.cmd.core (fun q => q.orFlags a.flags)

/-- STK_COMPLETE (R167, R182): a command whose work is done frees its area. -/
def execStkComplete (stack area : Nat) (s : State) : Host.Outcome State Fault Refusal :=
  match (s.engine stack).act area with
  | none => .next s
  | some a =>
    if !a.done then .next s
    else .next ((s.updEngine stack (fun g => { g with active := Table.del g.active area })).leave stack a)

/-- Granules queued for an area leave the expander with their counts. -/
def Engine.dropQueued (g : Engine) (area : Nat) : Engine :=
  (g.queue.filter (fun q => q.1 == area)).foldl
    (fun g q => match q.2.slot with | some i => g.useSlot i (-1) | none => g)
    { g with queue := g.queue.filter (fun q => q.1 != area) }

/-- STK_FAULT_REPORT (R185): the report reaches the core, whose DMA queue stops at its next boundary. -/
def execStkFaultReport (stack area : Nat) (s : State) : Host.Outcome State Fault Refusal :=
  match (s.engine stack).act area with
  | none => .next s
  | some a =>
    match a.fault with
    | none => .next s
    | some st =>
      let s := (s.updEngine stack (fun g => { g.dropQueued area with active := Table.del g.active area })).leave stack a
      .next (s.updQueue a.cmd.core 2 (fun q =>
        q.failLate { status := st, tag := cbTag a.cmd.iss.block, count := a.cmd.count, queue := 2, core := a.cmd.core }))

end Sys2Proof.Machine
end

