-- ==== Sys2Proof/Machine/Pools.lean ====
section
/-! DEFINITION. The frame and granule pools, reference counts, and the release of page-table entries (R228, R230, R232,
R240, R264). A piece of work on them collects its changes of KVFREE and of the codec's use counts. -/

namespace Sys2Proof.Machine

/-! ## Pools (R228) -/

/-- A pool: first unit, units, bytes of a unit. -/
structure Pool where
  base : Nat
  count : Nat
  unit : Nat
  deriving DecidableEq, Repr

def Part.framePool (t : Part) : Pool := { base := fld t.kvframes.toNat 19 0, count := fld t.kvframes.toNat 51 32, unit := 65536 }
def Part.granPool (t : Part) : Pool := { base := fld t.kvgrans.toNat 23 0, count := fld t.kvgrans.toNat 55 32, unit := 4096 }

/-- Units at the start of a pool that hold its reference counts. -/
def Pool.holders (q : Pool) : Nat := ceilDiv (2 * q.count) q.unit

/-- LOCAL address of the count of unit `u` in stack `k`; counts stand in the order of their units (log 10). -/
def Pool.countAddr (q : Pool) (k u : Nat) : Nat := k * 2 ^ 36 + q.base * q.unit + 2 * (u - q.base)

/-- Work on pools and tables: memory, changes of KVFREE, changes of codec use counts by stack and slot; the entries that the
walker of a stack found for it (R183), granules that a stack's expander did for it (R276), and LAB entries whose page-table
entries it rewrites (R184). -/
structure KvWork where
  w : Wk
  frames : Int := 0
  grans : Int := 0
  uses : List (Nat × Nat × Int) := []
  walks : List (Nat × LabEntry) := []
  grown : List (Nat × Nat) := []
  drops : List (Nat × LabEntry) := []

/-- A read that a failing line does not stop: none, with the status. -/
def KvWork.tryRead (e : Env) (x : KvWork) (a n : Nat) : (Option (List Byte) × Option Nat) × KvWork :=
  let (bs, w) := x.w.read e a n
  match x.w.fault, w.fault with
  | none, some st => ((none, some st), { x with w := { w with fault := none } })
  | _, _ => ((some bs, none), { x with w := w })

/-- A unit's count; one that cannot be read counts as in use. -/
def KvWork.count (e : Env) (x : KvWork) (q : Pool) (k u : Nat) : Nat × KvWork :=
  let (r, x) := x.tryRead e (q.countAddr k u) 2
  (match r.1 with | some bs => leNat bs | none => 65535, x)

def KvWork.put (e : Env) (x : KvWork) (a : Nat) (bs : List Byte) : KvWork := { x with w := x.w.put e (bytesAt a bs) }
def KvWork.setCount (e : Env) (x : KvWork) (q : Pool) (k u n : Nat) : KvWork := x.put e (q.countAddr k u) (leBytes 2 n)

/-- The lowest free unit from `u` on. -/
def KvWork.findFree (e : Env) (q : Pool) (k : Nat) : Nat → Nat → KvWork → Option Nat × KvWork
  | 0, _, x => (none, x)
  | n + 1, u, x =>
    let (c, x) := x.count e q k u
    if c = 0 then (some u, x) else KvWork.findFree e q k n (u + 1) x

/-- Take the lowest free unit of a stack: its count becomes 1. -/
def KvWork.take (e : Env) (x : KvWork) (q : Pool) (k : Nat) : Option Nat × KvWork :=
  match x.findFree e q k (q.count - q.holders) (q.base + q.holders) with
  | (some u, x) =>
    let x := x.setCount e q k u 1
    (some u, if q.unit = 65536 then { x with frames := x.frames - 1 } else { x with grans := x.grans - 1 })
  | (none, x) => (none, x)

/-- A unit returns to its pool. -/
def KvWork.giveBack (e : Env) (x : KvWork) (q : Pool) (k u : Nat) : KvWork :=
  let x := x.setCount e q k u 0
  if q.unit = 65536 then { x with frames := x.frames + 1 } else { x with grans := x.grans + 1 }

/-- Several units, all or none. -/
def KvWork.takeN (e : Env) (q : Pool) (k : Nat) : Nat → KvWork → Option (List Nat) × KvWork
  | 0, x => (some [], x)
  | n + 1, x =>
    match x.take e q k with
    | (none, x) => (none, x)
    | (some u, x) =>
      match KvWork.takeN e q k n x with
      | (some l, x) => (some (u :: l), x)
      | (none, x) => (none, x.giveBack e q k u)

/-! ## Shares and releases (R240, R264) -/

/-- The pool and the unit that carry an entry's count. -/
def Part.counter (t : Part) (pte : Nat) : Pool × Nat :=
  if pteForm pte = 2 then (t.granPool, pteGran pte 0) else (t.framePool, pteFrame pte / 65536)

/-- The table slots that the coded granules of a page name; a header that cannot be read names none. -/
def KvWork.slotsOf (e : Env) (k : Nat) : List Nat → KvWork → List Nat × KvWork
  | [], x => ([], x)
  | g :: t, x =>
    let (r, x) := x.tryRead e (k * 2 ^ 36 + 4096 * g) 4
    let h := match r.1 with | some bs => leNat bs | none => 2 ^ 16
    let (rest, x) := KvWork.slotsOf e k t x
    (if granRaw h then rest else granSlot h :: rest, x)

/-- The units of a page return to their pools, and its table uses end. -/
def KvWork.freePage (e : Env) (t : Part) (x : KvWork) (pte : Nat) : KvWork :=
  let k := pteStack pte
  if pteForm pte = 2 then
    let (slots, x) := x.slotsOf e k (pteGrans pte)
    let x := { x with uses := x.uses ++ slots.map (fun s => (k, s, -1)) }
    (pteGrans pte).foldl (fun x g => x.giveBack e t.granPool k g) x
  else x.giveBack e t.framePool k (pteFrame pte / 65536)

/-- An entry of a page in the pools is released: its count falls, and at zero the page is free (R240). -/
def KvWork.release (e : Env) (t : Part) (x : KvWork) (pte : Nat) : KvWork :=
  if pteForm pte != 1 && pteForm pte != 2 then x
  else if pteVariant pte then x
  else
    let (q, u) := t.counter pte
    let (c, x) := x.count e q (pteStack pte) u
    if c ≤ 1 then x.freePage e t pte else x.setCount e q (pteStack pte) u (c - 1)

/-- An entry's 64 bytes, none where its line cannot be read. -/
def KvWork.entry (e : Env) (x : KvWork) (a : Nat) : Option Nat × KvWork :=
  let (r, x) := x.tryRead e a 64
  (r.1.map leNat, x)

def KvWork.setEntry (e : Env) (x : KvWork) (a pte : Nat) : KvWork := x.put e a (leBytes 64 pte)

/-- Release of an entry in its table, and ABSENT over it; one that cannot be read holds what it held (R232). -/
def KvWork.drop (e : Env) (t : Part) (x : KvWork) (a : Nat) : KvWork :=
  let (v, x) := x.entry e a
  let x := match v with | some pte => x.release e t pte | none => x
  x.setEntry e a 0

/-- The walker finds a page for the part's own work: a hit, or a miss whose entry fills the LAB (R183). -/
def Engine.walked (g : Engine) (l : LabEntry) : Engine :=
  match g.labFind l.part l.slot l.layer l.page with
  | some old => { g.labPut old with hits := (g.hits + 1) % 2 ^ 32 }
  | none => { g.labPut l with misses := (g.misses + 1) % 2 ^ 32 }

/-- The changes of KVFREE, of use counts, of the LAB and of the expander's count take effect. -/
def State.countKv (s : State) (p : Nat) (x : KvWork) : State :=
  let s := s.updPart p (fun t => { t with freeFrames := (t.freeFrames + x.frames).toNat, freeGrans := (t.freeGrans + x.grans).toNat })
  let s := x.uses.foldl (fun s u => s.updEngine u.1 (fun g => g.useSlot u.2.1 u.2.2)) s
  let s := x.walks.foldl (fun s u => s.updEngine u.1 (fun g => g.walked u.2)) s
  let s := x.grown.foldl (fun s u => s.updEngine u.1 (fun g => { g with expanded := (g.expanded + u.2) % 2 ^ 32 })) s
  x.drops.foldl (fun s u => s.updEngine u.1 (fun g => g.labDrop u.2.part u.2.slot u.2.layer u.2.page)) s

/-- All changes take effect. -/
def State.takeKv (s : State) (p : Nat) (x : KvWork) : State := (s.takeWork (s.hostLines x.w)).countKv p x

/-- A piece of pool work takes effect whole; or, false, its event waits for the host's lines (R358). -/
def State.kvDo (s : State) (p : Nat) (x : KvWork) : State × Bool :=
  let w := x.w.send (s.dieEnv p)
  if w.wait then (s.takeWork (s.hostLines w), false) else (s.takeKv p { x with w := { w with fault := none } }, true)

end Sys2Proof.Machine
end

