-- ==== Sys2Proof/Machine/StackOps.lean ====
section
/-! DEFINITION. Stack commands on tensors: S_MATVEC, S_GATHER, S_SCATTER, S_EWISE, S_FILL, S_DRAIN (R176 to R182). -/

namespace Sys2Proof.Machine

/-! ## One iteration's operands -/

/-- Operands of iteration `n` of an active command: bound ones take their entries and pass their check (R98, R185). -/
def ActiveCmd.ops (a : ActiveCmd) (e : Env) (m : MemSys) (uses : List StkUse) (n : Nat) : Bound :=
  let c := a.cmd
  let b := c.iss.block
  bindOps (fun o x => stkFits e m (stkStack b) c.core (uses.getD o noStk).kind x) b c.iss.descs false
    (c.entries.drop (n * (boundOps b).length))

/-- A work unit over the operands of iteration `n`; a null entry records index-range (R98). -/
def stkIter (uses : List StkUse) (n : Nat) (f : Env → ActiveCmd → List VOp → Wk → ActiveCmd × Wk) (s : State) (e : Env)
    (a : ActiveCmd) : State × ActiveCmd × Wk :=
  let b := a.cmd.iss.block
  let w0 : Wk := { mem := s.mem }
  match a.ops e s.mem uses n with
  | .wait => (s, a, { w0 with wait := true })
  | .fault st => (s, a, w0.fail st)
  | .ok os =>
    let cnts := nCounts a.cmd.iss.nest a.cmd.params
    let vops := (List.range 4).map (fun o =>
      ({ reg := none, o := os.getD o (plainOpn 0), org := nOrigin a.cmd.iss.nest cnts o n } : VOp))
    let w := w0.flag (flagIf (takesNull b (a.cmd.entries.drop (n * (boundOps b).length))) flagIDX)
    (s, f e a vops w)

def stkOp (l : List VOp) (o : Nat) : VOp := l.getD o ⟨none, plainOpn 0, []⟩

/-- Iterations of an active command. -/
def ActiveCmd.iters (a : ActiveCmd) : Nat := nIters (nCounts a.cmd.iss.nest a.cmd.params)

/-- An element as the FP32 unit takes it: widened, a subnormal as zero (R45). -/
def stkVal (d : Nat) (v : Elem) : VVal := let x := elemVal d v; { x with w := flush x.w }

/-- An element (l, r) of an operand in the FP32 unit. -/
def stkGet (e : Env) (w : Wk) (v : VOp) (l r : Nat) : VVal × Wk := vGetBy stkVal e {} w v l r

/-- Nothing to prepare. -/
def noPrep (s : State) (_ : ActiveCmd) : State := s

/-! ## S_EWISE (R180) -/

def seLanes (b : BitVec 512) : Nat := imm b 40 32
def seRows (b : BitVec 512) : Nat := imm b 46 41
def seScalar (b : BitVec 512) : Bool := imm b 49 48 == 1

def seUses (b : BitVec 512) : List StkUse :=
  let t := [seLanes b, seRows b]
  [{ tile := t }, if fnTakesB (stkFn b) && !seScalar b then { tile := t } else noStk,
   if fnTakesC (stkFn b) then { tile := t } else noStk, { write := true, tile := t }]

/-- One row: the results of its unmasked lanes; COPY between equal FP32 bits moves them through the unit's flushes. -/
def seRow (e : Env) (b : BitVec 512) (vs : List VOp) (r : Nat) : List Nat → Wk → List (Nat × VOut) × Wk
  | [], w => ([], w)
  | l :: t, w =>
    if imm b 47 47 == 1 && isPadding e (stkOp vs 0).o ((stkOp vs 0).at l r) then seRow e b vs r t w
    else
      let (x, w) := stkGet e w (stkOp vs 0) l r
      let (y, w) := if !fnTakesB (stkFn b) then ({ w := 0 }, w)
        else if seScalar b then ({ w := flush (BitVec.ofNat 32 (imm b 95 64)) }, w) else stkGet e w (stkOp vs 1) l r
      let (z, w) := if fnTakesC (stkFn b) then stkGet e w (stkOp vs 2) l r else ({ w := 0 }, w)
      let v := flush (ewise (stkFn b) x.w y.w z.w).1
      let (rest, w) := seRow e b vs r t w
      ((l, .f v) :: rest, w)

/-- Energy of a lane operation of the FP32 unit, in 1/40 pJ (R161). Which of a command's steps count as lane operations beside an
FN's cycles the manual does not say (log 8). -/
def laneOp : Nat := 80

/-- Lane operations of an FN in the FP32 unit: the cycles that a row takes in its lane (R141, R180). -/
def fnOps (fn : Nat) : Nat :=
  [1, 1, 1, 1, 1, 4, 1, 1, 1, 1, 4, 2, 2, 2, 2, 3, 3, 4, 4, 5, 5].getD fn 1

/-- The work unit of S_EWISE: one row of one iteration. -/
def seUnit : StkUnit := fun s e _ a n =>
  let b := a.cmd.iss.block
  let rows := max 1 (seRows b)
  stkIter (seUses b) (n / rows) (fun e a vs w =>
    let (l, w) := seRow e b vs (n % rows) (List.range (seLanes b)) w
    (a, (vPutRow e {} (w.spend (laneOp * fnOps (stkFn b) * l.length)) (stkOp vs 3) (n % rows) l).2)) s e a

/-- Formats that the FP32 unit does not take: PI (log 23). -/
def noPI (i : Issued) (uses : List StkUse) : Bool :=
  (List.range 4).all (fun o => !(uses.getD o noStk).used || !isPI (dFmt (i.descs.getD o 0)))

def seOk (i : Issued) : Bool :=
  let b := i.block
  decide (stkFn b < 0x15) && decide (1 ≤ seLanes b) && decide (seLanes b ≤ 256) && decide (1 ≤ seRows b) &&
  decide (seRows b ≤ 32) && decide (imm b 49 48 < 2) && (imm b 49 48 == 0 || fnTakesB (stkFn b)) &&
  imm b 63 50 == 0 && imm b 255 96 == 0 && noPI i (seUses b)

/-- S_EWISE (R180). -/
def execSEwise (site : StkSite) (s : State) : Host.Outcome State Fault Refusal :=
  match site with
  | .forward core => .next (s.forward core 0x5005 seUses true 0x15 (fun _ _ _ i => seOk i))
  | .run stack area =>
    .next (s.stkRun 0x5005 stack area noPrep (fun _ a => some (a.iters * max 1 (seRows a.cmd.iss.block))) seUnit)

/-! ## S_GATHER and S_SCATTER (R178, R179) -/

def sgRows (b : BitVec 512) : Nat := imm b 40 32
def sgPolicy (b : BitVec 512) : Nat := imm b 42 41
def sgReduce (b : BitVec 512) : Nat := imm b 44 43

/-- Index `r` of the tile. -/
def sgIndex (e : Env) (w : Wk) (v : VOp) (r : Nat) : Int × Wk :=
  let (x, w) := readElem e w v.o (v.at 0 r)
  (sext 32 x.code, w)

/-- Table coordinate (i, x, org[2], …). -/
def sgCoord (t : VOp) (i x : Nat) : List Int := (i : Int) :: (x : Int) :: (t.org.drop 2)

/-- What both share: the index operand, the row's width, STACK_GATHER. -/
def sgOk (i : Issued) (table : Nat) (reduce : Bool) : Bool :=
  let b := i.block
  let d := i.descs.getD table 0
  decide (1 ≤ sgRows b) && decide (sgRows b ≤ 256) && sgPolicy b != 3 && (reduce || sgReduce b == 0) && imm b 255 45 == 0 &&
  dFmt (i.descs.getD 1 0) == fINT32 && !isPI (dFmt d) && decide (dExt d 0 * elemBits (dFmt d) ≤ 8 * 16384)

def gaUses (b : BitVec 512) : List StkUse := [{ kind := .inStack }, { tile := [1, sgRows b] }, { write := true, tile := [1, sgRows b] }, noStk]
def scUses (b : BitVec 512) : List StkUse := [{ tile := [1, sgRows b] }, { tile := [1, sgRows b] }, { kind := .inStack, write := true }, noStk]

/-- The tile of the operand that a table's rows move to or from: ROWS of their whole width (R64, R178). -/
def sgSized (table other : Nat) (i : Issued) (uses : List StkUse) : List StkUse :=
  uses.modify other (fun u => { u with tile := [dExt (i.descs.getD table 0) 0, sgRows i.block] })

/-- The columns of a table: its whole dimension 0. -/
def sgCols (t : VOp) : List Nat := List.range (dExt t.o.d 0)

/-- The coordinates of table row `x`. -/
def rowCoords (t : VOp) (x : Nat) : List (List Int) := (sgCols t).map (fun i => sgCoord t i x)

/-- The elements of table row `x`: from the coalescer where it holds the row, else read. Either way the row is the one used last
there, so a repeat costs no read while fewer than 64 other rows come between (R179). -/
def tableRow (e : Env) (t : VOp) (x : Nat) (a : ActiveCmd) (w : Wk) : List Elem × ActiveCmd × Wk :=
  let (els, _, w) := rowElems e t.o a.coal (rowCoords t x) w
  (els, { a with coal := keepPiece 64 a.coal (rowId t.o (sgCoord t 0 x)) 0 els }, w)

/-- One gathered row as it is written: codes unchanged between equal formats, else through the FP32 unit. -/
def putGathered (e : Env) (t d : VOp) (r : Nat) (vs : List Elem) (w : Wk) : Wk :=
  let cols := sgCols t
  if dFmt t.o.d = dFmt d.o.d then
    let (bs, w) := elemWrites e w d.o ((cols.zip vs).map (fun p => (d.at p.1 r, p.2.code, p.2.ownScale)))
    w.put e bs
  else vStoreMem e (w.spend (laneOp * cols.length)) d.o ((cols.zip vs).map (fun p => (d.at p.1 r, .f (stkVal t.o.d p.2).w)))

/-- The work unit of S_GATHER: one row; a failed index reads as +0. -/
def gaUnit : StkUnit := fun s e _ a n =>
  let b := a.cmd.iss.block
  let rows := max 1 (sgRows b)
  stkIter (gaUses b) (n / rows) (fun e a vs w =>
    let t := stkOp vs 0
    let d := stkOp vs 2
    let r := n % rows
    let (x, w) := sgIndex e w (stkOp vs 1) r
    match effIndex (sgPolicy b) (dExt t.o.d 1) x with
    | some y =>
      let (els, a, w) := tableRow e t y a w
      (a, putGathered e t d r els w)
    | none =>
      let (bs, w) := elemWrites e (w.flag flagIDX) d.o ((sgCols t).map (fun i => (d.at i r, 0, none)))
      (a, w.put e bs)) s e a

/-- A command of class STK that needs a feature the partition has not accepted is refused with a status (R362). -/
def State.refuseUnaccepted (s : State) (core op feature status : Nat) : Option State :=
  match (s.core core).run with
  | some r =>
    if s.accepts r.part feature then none else some (s.refuseStep core 2 status (fun b => cbOp b == op))
  | none => some s

/-- S_GATHER (R178, R362). -/
def execSGather (site : StkSite) (s : State) : Host.Outcome State Fault Refusal :=
  match site with
  | .forward core =>
    match s.refuseUnaccepted core 0x5003 14 0x0101 with
    | some t => .next t
    | none => .next (s.forward core 0x5003 gaUses true 1
        (fun _ _ _ i => sgOk i 0 false && !isPI (dFmt (i.descs.getD 2 0))) (sgSized 0 2))
  | .run stack area =>
    .next (s.stkRun 0x5003 stack area noPrep (fun _ a => some (a.iters * max 1 (sgRows a.cmd.iss.block))) gaUnit)

/-- A subnormal FP32 result becomes zero before it is narrowed (R45). -/
def flushExact (x : Fp) : Fp := if flush (f32 x).1 = (f32 x).1 then x else ofF32 (flush (f32 x).1)

/-- A source row as its codes, its FP32 values, and its INT32 values (R150). -/
def scSource (e : Env) (sv tv : VOp) (r : Nat) (w : Wk) : List (Nat × Word × Int) × Wk :=
  let d := sv.o.d
  let (els, w) := readElems e sv.o ((sgCols tv).map (fun i => sv.at i r)) w
  (els.map (fun x =>
    let v := (stkVal d x).w
    (x.code, v, if dFmt d = fINT32 then sext 32 x.code else sext 32 (narrow fINT32 .nearest false (ofF32 v)).1)), w)

/-- A combined element of a table row (R150, R179): integers exactly, other formats in FP32 with one rounding into the table's
format. R45 starts a narrowing from the flushed FP32 value, and R179 rounds once: the exact combination is narrowed, unless its
FP32 value is subnormal, which counts as zero (log 23). -/
def scCombined (red d old : Nat) (sum : Word) (int : Int) : Nat :=
  if dFmt d = fINT32 then (redInt32 (redI red (sext 32 old) int)).1
  else
    let z := (redFinal red (ofF32 (stkVal d { code := old }).w) sum).1
    (narrow (dFmt d) .nearest (dSat d) (flushExact z)).1

/-- The values of a source row enter what its table row has combined in this iteration. -/
def ScatterRow.add (red : Nat) (q : ScatterRow) (vs : List (Nat × Word × Int)) : ScatterRow :=
  { q with sums := (q.sums.zip vs).map (fun p => flush (redF red p.1 p.2.2.1).1)
           ints := (q.ints.zip vs).map (fun p => redI red p.1 p.2.2.2) }

/-- Elements of a table row that the clip lets through (R73), written. -/
def putTableRow (e : Env) (tv : VOp) (x : Nat) (codes : List (Nat × Nat)) (w : Wk) : Wk :=
  let els := codes.filterMap (fun p =>
    let c := sgCoord tv p.1 x
    if (clip e tv.o c).isNone then none else some (c, p.2, (none : Option Nat)))
  let (bs, w) := elemWrites e w tv.o els
  w.put e bs

/-- The codes of a table row as memory holds them now; the coalescer's where the row cannot be read now. -/
def rowNow (e : Env) (tv : VOp) (x : Nat) (els : List Elem) (w : Wk) : List Nat :=
  let (now, side) := readElems e tv.o (rowCoords tv x) { mem := w.mem }
  (if side.good then now else els).map Elem.code

/-- One row of a reducing S_SCATTER: its values join those that the iteration's earlier rows brought to the table row, and the
row becomes the combination of what it held before the iteration with all of them (R179). Where another command has written the
row since, the combination begins anew from what it holds, so no update is lost: each read-modify-write is indivisible. -/
def scReduce (e : Env) (red : Nat) (sv tv : VOp) (r x : Nat) (a : ActiveCmd) (w : Wk) : ActiveCmd × Wk :=
  let (vs, w) := scSource e sv tv r w
  let (els, a, w) := tableRow e tv x a w
  let now := rowNow e tv x els w
  let q := match a.comb.find? (fun q => q.row == x && q.now == now) with
    | some q => q.add red vs
    | none => ({ row := x, old := now, sums := vs.map (fun (v : Nat × Word × Int) => v.2.1), ints := vs.map (fun (v : Nat × Word × Int) => v.2.2) } : ScatterRow)
  let codes := (q.old.zip (q.sums.zip q.ints)).map (fun (p : Nat × Word × Int) => scCombined red tv.o.d p.1 p.2.1 p.2.2)
  let after := ((rowCoords tv x).zip (now.zip codes)).map (fun p => if (clip e tv.o p.1).isSome then p.2.2 else p.2.1)
  let kept := (els.zip after).map (fun p => { p.1 with code := p.2 })
  ({ a with
      comb := { q with now := after } :: a.comb.filter (fun q => q.row != x)
      coal := keepPiece 64 a.coal (rowId tv.o (sgCoord tv 0 x)) 0 kept },
    putTableRow e tv x ((sgCols tv).zip codes) (w.spend (laneOp * codes.length)))

/-- One row of an S_SCATTER with REDUCE NONE: of an element that the command has written before, which value it holds from now
on is a free choice (R179). -/
def scPlain (e : Env) (sv tv : VOp) (r x : Nat) (a : ActiveCmd) (w : Wk) : ActiveCmd × Wk :=
  let (vs, w) := scSource e sv tv r w
  let d := tv.o.d
  let key := rowId tv.o (sgCoord tv 0 x)
  let again := a.wrote.contains key
  let codes := ((sgCols tv).zip vs).filterMap (fun p =>
    if again && Config.freeChoice w.mem.fresh p.1 % 2 == 0 then none
    else some (p.1, if dFmt sv.o.d = dFmt d then p.2.1 else (narrow (dFmt d) .nearest (dSat d) (ofF32 p.2.2.1)).1))
  let w := { w with mem := { w.mem with fresh := w.mem.fresh + 1 } }.spend (if dFmt sv.o.d = dFmt d then 0 else laneOp * vs.length)
  ({ a with wrote := if again then a.wrote else key :: a.wrote }, putTableRow e tv x codes w)

/-- The work unit of S_SCATTER: one row; a failed index drops it. -/
def scUnit : StkUnit := fun s e _ a n =>
  let b := a.cmd.iss.block
  let rows := max 1 (sgRows b)
  stkIter (scUses b) (n / rows) (fun e a vs w =>
    let r := n % rows
    let tv := stkOp vs 2
    let a := if r = 0 then { a with comb := [] } else a
    let (i, w) := sgIndex e w (stkOp vs 1) r
    match effIndex (sgPolicy b) (dExt tv.o.d 1) i with
    | none => (a, w.flag flagIDX)
    | some x => if sgReduce b = 0 then scPlain e (stkOp vs 0) tv r x a w else scReduce e (sgReduce b) (stkOp vs 0) tv r x a w) s e a

/-- S_SCATTER (R178, R179, R362). -/
def execSScatter (site : StkSite) (s : State) : Host.Outcome State Fault Refusal :=
  match site with
  | .forward core =>
    match s.refuseUnaccepted core 0x5004 14 0x0101 with
    | some t => .next t
    | none => .next (s.forward core 0x5004 scUses true 1
        (fun _ _ _ i => sgOk i 2 true && isWhole (dFmt (i.descs.getD 2 0)) && !isPI (dFmt (i.descs.getD 0 0))) (sgSized 2 0))
  | .run stack area =>
    .next (s.stkRun 0x5004 stack area noPrep (fun _ a => some (a.iters * max 1 (sgRows a.cmd.iss.block))) scUnit)

/-! ## S_MATVEC (R176, R177) -/

def mvUses (_ : BitVec 512) : List StkUse := [{ kind := .link }, { kind := .inStack }, { write := true }, noStk]

/-- The operand pairs of R47. -/
def stkPair (wf af : Nat) : Bool :=
  if isFP8 wf || isMX wf then isFP8 af
  else if isPI wf then isFP8 af || af == fINT8
  else wf == fINT8 && af == fINT8

/-- Extents at or above dimension `k` are 1. -/
def flatFrom (d k : Nat) : Bool := (List.range 6).all (fun j => decide (j < k) || dExt d j == 1)

def mvOk (e : Env) (i : Issued) : Bool :=
  let x := i.descs.getD 0 0
  let w := i.descs.getD 1 0
  let y := i.descs.getD 2 0
  imm i.block 255 33 == 0 && flatFrom x 2 && flatFrom w 2 && flatFrom y 2 &&
  decide (dExt x 1 ≤ 16) && decide (dExt x 0 * dExt x 1 * elemBits (dFmt x) ≤ 8 * 524288) &&
  dExt x 0 == dExt w 0 && dExt w 1 == dExt y 0 && dExt x 1 == dExt y 1 && dFmt y == fFP32 &&
  stkPair (dFmt w) (dFmt x) && (!isPI (dFmt w) || (dPlane w && e.accept.testBit 0))

/-- Blocks of a column of weights (R62), those of the whole operand that end within the first `n` work units of 4 KiB of
weights, and the work units (R168). -/
def mvBlocks (d : Nat) : Nat := ceilDiv (dExt d 0) (blockLen (dFmt d))
def mvEnded (d n : Nat) : Nat := min (mvBlocks d * dExt d 1) (4096 * n / max 1 (blockBytes (dFmt d)))
def mvUnits (d : Nat) : Nat := ceilDiv (mvBlocks d * dExt d 1 * blockBytes (dFmt d)) 4096

/-- A sum goes on over the elements of one block: ascending k; plane weights by blocks of 32 activations (R51 to R53, R176). -/
def mvSum (wd xd : Nat) (acc : Word) (col : List Elem) (x : List Nat) : Word :=
  let xs := x.map (fun c => elemValue (dFmt xd) c 0x7F)
  if isPI (dFmt wd) then
    planeSum mxAdd (dFmt wd) acc xs (col.map Elem.code)
      ((List.range (ceilDiv col.length 64)).map (colScale 64 col)) (ceilDiv col.length 32)
  else sumFrom acc xs (col.map (Elem.value wd))

/-- The output of column `n` for vector `v` from its sum. Under ACCUM the value already at the destination is an input of the
FP32 unit, which takes a subnormal as zero; that it is no input of the MAC lanes R45 and R176 leave open (log 23). -/
def mvOut (e : Env) (b : BitVec 512) (yo : Opn) (n v : Nat) (sum : Word) (w : Wk) : (List Int × Nat × Option Nat) × Wk :=
  let c : List Int := [(n : Int), (v : Int), 0, 0, 0, 0]
  if imm b 32 32 = 1 then
    let (old, w) := readElem e (w.spend laneOp) yo c
    ((c, (mxAdd (flush (BitVec.ofNat 32 old.code)) sum).toNat, none), w)
  else ((c, sum.toNat, none), w)

/-- The outputs of a column for every vector. -/
def mvOuts (e : Env) (b : BitVec 512) (yo : Opn) (n : Nat) : List (Nat × Word) → Wk → List (List Int × Nat × Option Nat) × Wk
  | [], w => ([], w)
  | p :: t, w =>
    let (x, w) := mvOut e b yo n p.1 p.2 w
    let (rest, w) := mvOuts e b yo n t w
    (x :: rest, w)

/-- Outputs of the columns that end in a work unit. -/
def mvColumns (e : Env) (b : BitVec 512) (yo : Opn) : List (Nat × List Word) → Wk → List (List Int × Nat × Option Nat) × Wk
  | [], w => ([], w)
  | (n, sums) :: t, w =>
    let (x, w) := mvOuts e b yo n ((List.range sums.length).zip sums) w
    let (rest, w) := mvColumns e b yo t w
    (x ++ rest, w)

/-- Blocks of weights in order, column by column: the columns that end with their sums, and the sums of the column in work. -/
def mvRun (e : Env) (xs : List (List Nat)) (xd : Nat) (wo : Opn) :
    List Nat → List Word → Wk → List (Nat × List Word) × List Word × Wk
  | [], sums, w => ([], sums, w)
  | i :: t, sums, w =>
    let nb := mvBlocks wo.d
    let len := blockLen (dFmt wo.d)
    let n := i / nb
    let lo := i % nb * len
    let k := min len (dExt wo.d 0 - lo)
    let (col, w) := readElems e wo ((List.range k).map (fun j => [((lo + j : Nat) : Int), (n : Int), 0, 0, 0, 0])) w
    let old := if lo = 0 then List.replicate xs.length 0 else sums
    let sums := (old.zip xs).map (fun p => mvSum wo.d xd p.1 col ((p.2.drop lo).take k))
    let (rest, last, w) := mvRun e xs xd wo t sums w
    (if i % nb + 1 = nb then (n, sums) :: rest else rest, last, w)

/-- The vectors of OPD0 as their codes, brought into the operand area. -/
def mvVectors (e : Env) (o : Opn) : List Nat → Wk → List (List Nat) × Wk
  | [], w => ([], w)
  | v :: t, w =>
    let (x, w) := readElems e o ((List.range (dExt o.d 0)).map (fun k => [(k : Int), (v : Int), 0, 0, 0, 0])) w
    let (xs, w) := mvVectors e o t w
    (x.map Elem.code :: xs, w)

/-- Energy of one MAC lane's product, in 1/40 pJ (R161). -/
def macCost (wd : Nat) : Nat := if isPI (dFmt wd) then elemBits (dFmt wd) else 8

/-- The work unit of S_MATVEC: 4 KiB of weights (R168); a block that ends in the next 4 KiB is the next unit's. The first brings
the vectors into the operand area. A line of weights that the command has read is not read again (R177). -/
def mvUnit : StkUnit := fun s e _ a n =>
  let d := a.cmd.iss.descs
  let wo := plainOpn (d.getD 1 0)
  let yo := plainOpn (d.getD 2 0)
  let xo := plainOpn (d.getD 0 0)
  let w : Wk := { mem := s.mem }
  let (xs, w) := if n = 0 then mvVectors e xo (List.range (dExt xo.d 1)) w else (a.held, w)
  let lo := mvEnded wo.d n
  let blocks := (List.range (mvEnded wo.d (n + 1) - lo)).map (fun i => lo + i)
  let (ends, sums, w) := mvRun e xs xo.d wo blocks a.sums { w with seen := a.lines }
  let lines := w.seen
  let (els, w) := mvColumns e a.cmd.iss.block yo ends { w with seen := [] }
  let (bs, w) := elemWrites e w yo els
  let w := w.spend (macCost wo.d * blocks.length * blockLen (dFmt wo.d) * xs.length)
  (s, { a with held := xs, lines := lines, sums := sums }, w.put e bs)

/-- Work units of S_MATVEC. -/
def mvTotal (a : ActiveCmd) : Nat := mvUnits (a.cmd.iss.descs.getD 1 0)

/-- S_MATVEC (R176). -/
def execSMatvec (site : StkSite) (s : State) : Host.Outcome State Fault Refusal :=
  match site with
  | .forward core => .next (s.forward core 0x5002 mvUses false 1 (fun _ e _ i => mvOk e i))
  | .run stack area =>
    .next (s.stkRun 0x5002 stack area noPrep
      (fun _ a => some (mvTotal a)) mvUnit)

/-! ## S_FILL (R181, R331, R358) -/

def sfStart (b : BitVec 512) : Nat := imm b 63 32
def sfLines (b : BitVec 512) : Nat := imm b 95 64

/-- Lines of a stack written whole: buffered lines leave first, poisoned lines take a remap word (R327, R331). -/
def Stack.fillLines (st : Stack) (e : DieEnv) (lo hi pattern : Nat) : Stack :=
  let st := st.flush e
  let bad := (st.marks.filter (fun m => m.2 == .poisoned && decide (lo ≤ m.1) && decide (m.1 < hi) && !st.offline m.1)).map Prod.fst
  (bad.foldl (fun st l => st.install l true) st).fill lo hi pattern

/-- The work unit of S_FILL: 4 KiB. -/
def sfUnit : StkUnit := fun s e k a n =>
  let b := a.cmd.iss.block
  let lo := sfStart b + 64 * n
  let hi := min (sfStart b + sfLines b) (lo + 64)
  let st := s.mem.stack k
  let lines := (List.range (hi - lo)).map (fun i => lo + i)
  let held := (lines.map (e.localLine k)).filter e.hostHolds
  let w : Wk := { mem := s.mem }
  if lines.any st.offline then (s, a, w.fail 0x0204)
  else if !held.isEmpty then (s, a, { w with wait := true, snoops := held.map (fun l => (l, true)) })
  else if lines.any (st.closed true) then (s, a, { w with wait := true })
  else
    (s, a, { w with
      mem := { s.mem.setStack k (st.fillLines ⟨s.mem.fresh, e.now, e.threshold⟩ lo hi (imm b 159 96)) with fresh := s.mem.fresh + 1 }
      wn := 64 * (hi - lo) })

/-- S_FILL passes its checks: it serves either interleave (R163, R181). -/
def sfOk (core : Nat) (m : MemSys) (b : BitVec 512) : Bool :=
  stkHeadOk core b 1 && imm b 255 160 == 0 && decide (1 ≤ sfLines b) &&
  decide (64 * (sfStart b + sfLines b) ≤ (m.stack (stkStack b)).capacity)

/-- S_FILL (R181). -/
def execSFill (site : StkSite) (s : State) : Host.Outcome State Fault Refusal :=
  match site with
  | .forward core =>
    .next (s.engineStep core 2 0x5006 (fun _ => stkForm [] false)
      (fun _ _ m _ i => need (sfOk core m i.block)) nestTotal (forwardBody core))
  | .run stack area =>
    .next (s.stkRun 0x5006 stack area noPrep (fun _ a => some (ceilDiv (sfLines a.cmd.iss.block) 64)) sfUnit)

/-! ## S_DRAIN (R182) -/

/-- The stacks that an S_DRAIN drains. -/
def drainStacks (core : Nat) (b : BitVec 512) : List Nat :=
  if imm b 32 32 = 1 then (List.range 4).map (fun i => 4 * (core / 12) + i) else [stkStack b]

/-- Whether a command of the core is still with a stack's engine. -/
def Engine.holds (g : Engine) (core : Nat) : Bool := !(g.sub core).isEmpty || g.active.any (fun a => a.2.cmd.core == core)

/-- The work of S_DRAIN: wait, then clear the LABs. -/
def drainBody (core : Nat) (s : State) (_ : CoreRun) (iss : Issued) (_ : Nat) : State × Done :=
  let l := drainStacks core iss.block
  if l.any (fun k => (s.engine k).holds core) then (s, .wait)
  else if imm iss.block 33 33 = 1 then (l.foldl (fun s k => s.updEngine k (fun g => { g with lab := [] })) s, .ok)
  else (s, .ok)

/-- S_DRAIN (R182). -/
def execSDrain (core : Nat) (s : State) : Host.Outcome State Fault Refusal :=
  .next (s.engineStep core 2 0x5007 (fun _ => stkForm [] false)
    (fun _ _ _ _ i => need (stkHeadOk core i.block 1 && imm i.block 255 34 == 0)) nestTotal (drainBody core))

end Sys2Proof.Machine
end

