-- ==== Sys2Proof/Machine/Attend.lean ====
section
/-! DEFINITION. S_ATTEND: decode attention in the stack (R172 to R174, R233). -/

namespace Sys2Proof.Machine

/-! ## Immediates and checks (R172) -/

def saSlot (b : BitVec 512) : Nat := imm b 43 32
def saHead0 (b : BitVec 512) : Nat := imm b 54 52
def saKvh (b : BitVec 512) : Nat := imm b 58 55
def saQpg (b : BitVec 512) : Nat := imm b 63 59
def saStart (b : BitVec 512) : Nat := imm b 95 64
def saLen (b : BitVec 512) : Nat := imm b 127 96
def saScale (b : BitVec 512) : Word := BitVec.ofNat 32 (imm b 159 128)
def saMask (b : BitVec 512) : Nat := imm b 225 224

def saUses (b : BitVec 512) : List StkUse :=
  [{ kind := .link }, { kind := .link, write := true }, { kind := .link, write := true },
   if cbOpd b 3 = 0xFFFF then noStk else { kind := .inStack }]

/-- The shapes and limits of R172; heads beyond the page's are refused as well (log 23). -/
def saOk (s : State) (e : Env) (i : Issued) : Bool :=
  let b := i.block
  let q := i.descs.getD 0 0
  let o := i.descs.getD 1 0
  let t := i.descs.getD 2 0
  let g := (s.part e.part).kvgeom.toNat
  let rows := dExt q 1
  decide (saHead0 b + saKvh b ≤ 8) && decide (1 ≤ saKvh b) && decide (saKvh b ≤ 8) && decide (saHead0 b + saKvh b ≤ kvHeads g) &&
  decide (1 ≤ saQpg b) && decide (saQpg b ≤ 16) && imm b 255 226 == 0 &&
  isFP8 (dFmt q) && dFmt o == fFP32 && dFmt t == fFP32 && flatFrom q 3 && flatFrom o 3 && flatFrom t 3 &&
  decide (dExt q 0 ≤ 256) && dExt q 0 == kvHdim g && decide (rows ≤ 64) && rows % max 1 (saQpg b) == 0 && dExt q 2 == saKvh b &&
  dExt o 0 == dExt q 0 && dExt o 1 == rows && dExt o 2 == saKvh b &&
  dExt t 0 == rows && dExt t 1 == 2 && dExt t 2 == saKvh b &&
  (saMask b == 3) == (cbOpd b 3 != 0xFFFF) && (saMask b != 3 || bitmapOk e (i.descs.getD 3 0))

/-! ## What a work unit brings (R168, R226, R257) -/

/-- Keys and values complete in one work unit: head of the command, position, elements. -/
structure AttUnit where
  keys : List (Nat × Nat × List Fp)
  vals : List (Nat × Nat × List Fp)

/-- A vector of a RAW page. -/
def rawVector (e : Env) (w : Wk) (a g : Nat) : List Fp × Wk :=
  let (bs, w) := w.read e a (kvHdim g)
  (bs.map (fun x => elemValue (kvFormat g) x.toNat 0x7F), w)

/-- Keys and values of positions and heads of a RAW page. -/
def rawVectors (e : Env) (g frame head0 page : Nat) (val : Bool) : List (Nat × Nat) → Wk → List (Nat × Nat × List Fp) × Wk
  | [], w => ([], w)
  | (h, k) :: t, w =>
    let i := k - page * kvPpp g
    let (v, w) := rawVector e w (frame + kvKeyOffset g (head0 + h) i + (if val then kvPpp g * kvHdim g else 0)) g
    let (vs, w) := rawVectors e g frame head0 page val t w
    ((h, k, v) :: vs, w)

/-- Positions of the range in a page. -/
def pagePositions (start len ppp n : Nat) : List Nat :=
  let lo := max start (n * ppp)
  let hi := min (start + len) ((n + 1) * ppp)
  (List.range (hi - lo)).map (fun i => lo + i)

/-- The keys and values of a run of positions of a RAW page. -/
def rawAttUnit (e : Env) (b : BitVec 512) (g frame n : Nat) (ks : List Nat) (w : Wk) : AttUnit × Wk :=
  let hk := ks.flatMap (fun k => (List.range (saKvh b)).map (fun h => (h, k)))
  let (keys, w) := rawVectors e g frame (saHead0 b) n false hk w
  let (vals, w) := rawVectors e g frame (saHead0 b) n true hk w
  ({ keys := keys, vals := vals }, w)

/-- A vector of the units expanded so far: vector `v` of the page (heads, keys before values, positions). -/
def unitVector (g lossy : Nat) (us : List KvUnit) (v : Nat) : List Fp :=
  ((us.drop (v * kvBlocks g)).take (kvBlocks g)).flatMap (fun u =>
    u.elems.map (fun c => elemValue (lossyFmt (kvFormat g) lossy) c (u.scale.getD 0x7F)))

/-- Vectors of a CODED page that units `lo` to `hi - 1` complete, for wanted positions and heads. -/
def codedVectors (g lossy head0 kvh start len n lo hi : Nat) (val : Bool) (us : List KvUnit) : List (Nat × Nat × List Fp) :=
  (List.range kvh).flatMap (fun h => (pagePositions start len (kvPpp g) n).filterMap (fun k =>
    let v := (head0 + h) * 2 * kvPpp g + (if val then kvPpp g else 0) + (k - n * kvPpp g)
    let last := (v + 1) * kvBlocks g
    if lo < last ∧ last ≤ hi then some (h, k, unitVector g lossy us v) else none))

/-- What a work unit of S_ATTEND reads (R168): a run of positions of a RAW page, a granule of a CODED page and whether it is the
page's first, or a page that fails with a status. -/
inductive AttStep where
  | raw (frame page : Nat) (run : List Nat)
  | gran (page : Nat) (first : Bool)
  | bad (status : Nat)
  deriving DecidableEq, Repr

/-- The work units of the command, page by page. -/
def State.attSteps (s : State) (k : Nat) (a : ActiveCmd) : List AttStep :=
  let b := a.cmd.iss.block
  let g := (s.part a.cmd.part).kvgeom.toNat
  let per := max 1 (4096 / (2 * saKvh b * kvHdim g))
  (s.readPages k a.cmd).flatMap (fun x => match a.page x.1 x.2 with
    | .inr st => [.bad st]
    | .inl pte =>
      if pteForm pte = 1 then
        let ks := pagePositions (saStart b) (saLen b) (kvPpp g) x.2
        (chunks per ks.length ks).map (AttStep.raw (pteFrame pte) x.2)
      else (List.range (pteGcount pte)).map (fun j => .gran x.2 (j == 0)))

/-- The next granule that the expander has delivered leaves the operand area; the work unit waits for it, or fails with it
(R273, R274). -/
def ActiveCmd.takeGranule (a : ActiveCmd) (w : Wk) : Expanded × ActiveCmd × Wk :=
  match a.granules with
  | [] => ({}, a, { w with wait := true })
  | x :: rest =>
    match x.fail with
    | some st => ({}, a, w.fail st)
    | none => (x, { a with granules := rest, used := a.used + 1 }, w)

/-- The keys and values that a work unit completes. -/
def attRead (e : Env) (k g : Nat) (a : ActiveCmd) (w : Wk) : AttStep → AttUnit × ActiveCmd × Wk
  | .bad st => ({ keys := [], vals := [] }, a, w.fail st)
  | .raw frame page run =>
    let (u, w) := rawAttUnit e a.cmd.iss.block g (k * 2 ^ 36 + frame) page run w
    (u, a, w)
  | .gran page first =>
    let b := a.cmd.iss.block
    let (x, a, w) := a.takeGranule w
    let old := if first then [] else a.inPage
    let all := old ++ x.units
    let f := fun val => codedVectors g x.lossy (saHead0 b) (saKvh b) (saStart b) (saLen b) page old.length all.length val all
    ({ keys := f false, vals := f true }, { a with inPage := all }, w)

/-! ## Masks (R144, R173, R233) -/

/-- Whether the bitmap's bit for key position `k` and query row group `y` is set. -/
def attMasked (e : Env) (b : BitVec 512) (o : Opn) (y k : Nat) (w : Wk) : Bool × Wk :=
  if saMask b = 3 then
    let (on, w) := bitmapBit e w o [0, 0, 0, 0, 0, 0] k y
    (!on, w)
  else (posMasked (saMask b) (sext 32 (imm b 191 160) + y) k (imm b 223 192), w)

/-- The masked (query group, position) pairs. -/
def maskedPairs (e : Env) (b : BitVec 512) (o : Opn) : List (Nat × Nat) → Wk → List (Nat × Nat) × Wk
  | [], w => ([], w)
  | (y, k) :: t, w =>
    let (m, w) := attMasked e b o y k w
    let (rest, w) := maskedPairs e b o t w
    (if m then (y, k) :: rest else rest, w)

/-! ## One row and head (R173, R174) -/

/-- A sum whose order the command fixes and the manual does not state (R57; log 23). -/
def orderedSum (tag : Nat) (l : List Word) : Word :=
  let o := Config.sumOrder tag l.length
  let o := if sortBy (fun a b => decide (a ≤ b)) o = List.range l.length then o else List.range l.length
  o.foldl (fun a i => mxAdd a (l.getD i 0)) 0

/-- Product and power in the FP32 unit. -/
def stkMul (a b : Word) : Word := flush (mulF (flush a) (flush b)).1
/-- The difference is an FP32 sum, flushed before EXP2 takes it (R45). -/
def stkPow (a b : Word) : Word := flush (powDiff (fun x => exp2F (flush x)) a b).1

/-- A probability rounded to E4M3, as FP32 (R174). -/
def probE4M3 (p : Word) : Word := widen fE4M3 (narrow fE4M3 .nearest false (ofF32 p)).1 0x7F

/-- The score of a key: fp32(SCALE × (q·k)), the dot product summed in FP32; the sums of the MAC lanes are flushed, their products
are not (R45). -/
def attScore (scale : Word) (q key : List Fp) : Word :=
  stkMul scale (orderedSum 0 ((q.zip key).map (fun p => (f32 (p.1.mul p.2).1).1)))

/-- The scores of one unit enter: m rises, l and the sums are rescaled, probabilities wait for their values. A probability whose
value comes in a later granule is rescaled with the sums, in FP32, and is not rounded to E4M3 again, which R174 leaves open
(log 23). -/
def AttRow.scores (r : AttRow) (ys : List (Nat × Word)) : AttRow :=
  if ys.isEmpty then r
  else
    let top := ys.foldl (fun m y => (maxF m y.2).1) r.m
    let c := stkPow r.m top
    let ps := ys.map (fun y => (y.1, probE4M3 (stkPow y.2 top)))
    { r with
      m := top
      l := mxAdd (stkMul r.l c) (orderedSum 1 (ps.map Prod.snd))
      acc := r.acc.map (stkMul c)
      pend := Table.setAll (r.pend.map (fun p => (p.1, stkMul c p.2))) ps
      nan := r.nan || ys.any (fun y => isNaN y.2) || isNaN top }

/-- Lane operations of the FP32 unit for `n` scores of a row in one unit (log 8): for each score its scaling, the maximum, the
difference, EXP2 and the sum; for the row one more power, and the product with l, each sum and each waiting probability. -/
def AttRow.laneOps (r : AttRow) (n : Nat) : Nat := if n = 0 then 0 else 6 * n + 5 + r.acc.length + r.pend.length

/-- The values of one unit enter the sums. -/
def AttRow.values (r : AttRow) (vs : List (Nat × List Fp)) : AttRow :=
  let used := vs.filter (fun v => Table.has r.pend v.1)
  if used.isEmpty then r
  else
    { r with
      acc := ((List.range r.acc.length).zip r.acc).map (fun a =>
        mxAdd a.2 (orderedSum 2 (used.map (fun v =>
          (f32 ((ofF32 (Table.get 0 r.pend v.1)).mul (v.2.getD a.1 (.fin false 0 0))).1).1))))
      pend := r.pend.filter (fun p => !used.any (fun v => v.1 == p.1))
      nan := r.nan || used.any (fun v => v.2.any Fp.isNaN) }

/-- One work unit for a row of head `h` and query group `y`: masked positions count as minus infinity and bring nothing
(log 23); a value counts where its key did. -/
def AttRow.unit (b : BitVec 512) (q : List Fp) (h y : Nat) (masked : List (Nat × Nat)) (r : AttRow) (u : AttUnit) : AttRow :=
  let open_ := fun (x : Nat × Nat × List Fp) => x.1 == h && !masked.contains (y, x.2.1)
  let ys := (u.keys.filter open_).map (fun x => (x.2.1, attScore (saScale b) q x.2.2))
  let bad := (u.keys.filter open_).any (fun x => x.2.2.any Fp.isNaN)
  let r := { r with nan := r.nan || bad }
  (r.scores ys).values ((u.vals.filter (fun x => x.1 == h)).map (fun x => (x.2.1, x.2.2)))

/-- The outputs of a row: value sums, m, l. A NaN anywhere in its inputs makes them NaN. -/
def AttRow.result (r : AttRow) : List Word × Word × Word :=
  if r.nan then (r.acc.map (fun _ => qNaN), qNaN, qNaN) else (r.acc, r.m, r.l)

/-- Rows of the command's outputs: row and head, in the order of its state. -/
def attPlaces (b : BitVec 512) (rows : Nat) : List (Nat × Nat) :=
  (List.range (saKvh b)).flatMap (fun h => (List.range rows).map (fun r => (r, h)))

/-- The query rows are brought into the operand area. -/
def attQueries (e : Env) (o : Opn) : List (Nat × Nat) → Wk → List (List Nat) × Wk
  | [], w => ([], w)
  | (r, h) :: t, w =>
    let (x, w) := readElems e o ((List.range (dExt o.d 0)).map (fun i => [(i : Int), (r : Int), (h : Int), 0, 0, 0])) w
    let (xs, w) := attQueries e o t w
    (x.map Elem.code :: xs, w)

/-- The first work unit: queries are read, and each row begins. -/
def attStart (e : Env) (o : Opn) (places : List (Nat × Nat)) (a : ActiveCmd) (w : Wk) : ActiveCmd × Wk :=
  let (qs, w) := attQueries e o places w
  let row := fun (q : List Nat) =>
    ({ acc := List.replicate q.length 0, nan := q.any (fun c => (elemValue (dFmt o.d) c 0x7F).isNaN) } : AttRow)
  ({ a with held := qs, att := qs.map row }, w)

/-- Every row and head: the elements of OPD1 and OPD2. -/
def attWrite (e : Env) (oo so : Opn) : List ((Nat × Nat) × AttRow) → Wk → Wk
  | [], w => w
  | ((r, h), q) :: t, w =>
    let (acc, m, l) := q.result
    let at_ := fun (x y : Nat) => ([(x : Int), (y : Int), (h : Int), 0, 0, 0] : List Int)
    let (bs, w) := elemWrites e w oo (((List.range acc.length).zip acc).map (fun p => (at_ p.1 r, p.2.toNat, none)))
    let (cs, w) := elemWrites e w so [(at_ r 0, m.toNat, none), (at_ r 1, l.toNat, none)]
    attWrite e oo so t (w.put e (bs ++ cs))

/-- A work unit of S_ATTEND: its keys and values enter every row. The last one writes the outputs (log 23). -/
def saUnit : StkUnit := fun s e k a n =>
  let b := a.cmd.iss.block
  let d := a.cmd.iss.descs
  let qo := plainOpn (d.getD 0 0)
  let rows := dExt qo.d 1
  let group := max 1 (saQpg b)
  let g := (s.part a.cmd.part).kvgeom.toNat
  let places := attPlaces b rows
  let steps := s.attSteps k a
  let w : Wk := { mem := s.mem }
  let (a, w) := if n = 0 then attStart e qo places a w else (a, w)
  let (u, a, w) := match steps[n]? with
    | some x => attRead e k g a w x
    | none => (({ keys := [], vals := [] } : AttUnit), a, w)
  let ks := (u.keys.map (fun x => x.2.1)).dedup
  let (masked, w) := maskedPairs e b (plainOpn (d.getD 3 0)) ((List.range (rows / group)).flatMap (fun y => ks.map (fun k => (y, k)))) w
  let att := (places.zip (a.held.zip a.att)).map (fun p =>
    p.2.2.unit b (p.2.1.map (fun c => elemValue (dFmt qo.d) c 0x7F)) p.1.2 (p.1.1 / group) masked u)
  let ops := (places.zip a.att).map (fun p => p.2.laneOps (u.keys.countP (fun x => x.1 == p.1.2 && !masked.contains (p.1.1 / group, x.2.1))))
  let w := w.spend (8 * rows * kvHdim g * (u.keys.length + u.vals.length) + laneOp * ops.sum)
  let w := if steps.length ≤ n + 1 then attWrite e (plainOpn (d.getD 1 0)) (plainOpn (d.getD 2 0)) (places.zip att) w else w
  (s, { a with att := att }, w)

/-- Pages are translated, then their granules fetched. -/
def readPrep (k area : Nat) (s : State) (a : ActiveCmd) : State :=
  (s.translate k area (imm a.cmd.iss.block 43 32) (s.readPages k a.cmd)).fetchGranules 32 k

/-- The work units of S_ATTEND, once every page has its answer. -/
def saTotal (k : Nat) (s : State) (a : ActiveCmd) : Option Nat :=
  if a.resolved (s.readPages k a.cmd) then some (max 1 (s.attSteps k a).length) else none

/-- S_ATTEND (R172, R173). -/
def execSAttend (site : StkSite) (s : State) : Host.Outcome State Fault Refusal :=
  match site with
  | .forward core => .next (s.forward core 0x5001 saUses false 1 (fun s e _ i => saOk s e i))
  | .run stack area =>
    .next (s.stkRun 0x5001 stack area (readPrep stack area) (saTotal stack) saUnit)

end Sys2Proof.Machine
end

