-- ==== Sys2Proof/Machine/Image.lean ====
section
/-! DEFINITION. The image of a core (R133, R158, R220 to R222): what a save writes where, and what a restore makes of it. R220
gives the ranges, the header and the plain arrays; where it names a range's contents and no layout, the layout is the
model's own (log 10). The descriptors and nest entries that a command read at its issue, and what reached the kernel while it
was saved, stay in `Context.savedCores`. -/

namespace Sys2Proof.Machine

/-! ## Bytes -/

/-- Numbers as little-endian bytes, one after the other, each with its size. -/
def packBytes (l : List (Nat × Nat)) : List Byte := l.flatMap (fun p => leBytes p.1 p.2)

/-- The number in `n` bytes at byte `o`. -/
def numAt (bs : List Byte) (o n : Nat) : Nat := leNat ((bs.drop o).take n)

/-- Byte `i` of a number. -/
def byteOf (w i : Nat) : Byte := BitVec.ofNat 8 (w >>> (8 * i))

/-- Bits as a number, bit 0 first. -/
def bitsNat (l : List Bool) : Nat := l.foldr (fun b a => b2n b + 2 * a) 0

/-! ## The header (R220) -/

/-- The header of an image. -/
def imgHeader (p x c units kid : Nat) (k : Core) : Nat :=
  0xC7E5 + 2 ^ 16 + 2 ^ 24 * c + 2 ^ 30 * x + 2 ^ 36 * p + 2 ^ 38 * (if k.spool.lockstep then 2 else 1) + 2 ^ 40 * units +
  2 ^ 64 * kid + 2 ^ 96 * k.kflags.toNat +
  2 ^ 128 * k.qMx.count + 2 ^ 176 * k.qVec.count + 2 ^ 224 * k.qDma.count + 2 ^ 272 * k.qSeq.count +
  2 ^ 320 * k.spool.epoch + 2 ^ 352 * (k.spool.prod % 65535) + 2 ^ 368 * (k.spool.cons % 65535) +
  2 ^ 384 * (k.tstage * 2 ^ 13) + 2 ^ 416 * k.vcompat + 2 ^ 448 * k.lastslot.toNat

/-- Whether a header matches its context and core. -/
def headerOk (p x c units h : Nat) : Bool :=
  fld h 15 0 == 0xC7E5 && fld h 23 16 == 1 && fld h 29 24 == c && fld h 35 30 == x && fld h 37 36 == p && fld h 45 40 == units

/-- A start record with another KID. -/
def withKid (kd : BitVec 512) (kid : Nat) : BitVec 512 := BitVec.ofNat 512 (setFld kd.toNat 63 32 kid)

/-- VCOMPAT with its reserved bits 0, and EN 0 while OPCACHE_COMPAT is not accepted (R5, R9, R157). -/
def vcompatBits (accepted : Bool) (v : Nat) : Nat := (if accepted then fld v 0 0 else 0) + 2 ^ 16 * fld v 22 16

/-- LASTSLOT with its reserved bits 0 (R9, R155). -/
def lastslotBits (v : Nat) : Nat := fld v 21 0 + 2 ^ 32 * fld v 47 32

/-- Status codes of R10 that a command's late fault carries. -/
def lateCodes : List Nat := [0x0102, 0x0201, 0x0203, 0x0204, 0x0401, 0x0402]

/-- The status of a late fault as an image shows it. The part reports only codes of R10 (R11): another number counts as one of
them that nothing fixes (log 10). -/
def imageStatus (v : Nat) : Nat := if lateCodes.contains v then v else lateCodes.getD (Config.freeChoice 0 v % 6) 0x0102

/-- A number kept unless a debugger has changed what its field shows. -/
def keepUnlessEdited (old shown field : Nat) : Nat := if field = shown then old else field

/-! ## Progress, 0x1000 to 0x1FFF: queues, parameter block, core, stream slots -/

/-- Commands of a queue that its engine has not taken. -/
def QueueSt.waitingCmds (q : QueueSt) : List (BitVec 512) := q.cmds.drop (b2n q.run.isSome)

/-- An arrival-table entry in 16 bytes. -/
def Arrival.image (a : Arrival) : List Byte :=
  packBytes [(1, a.belay), (1, bitsNat [true, a.gen.isSome, a.sent, a.released.isSome]), (2, a.tag), (6, a.count),
    (2, a.gen.getD 0), (2, a.released.getD 0), (2, 0)]

/-- The entry that 16 bytes hold. What reached the saved entry of the same belay since the save is kept (R206). -/
def Arrival.ofImage (old : List Arrival) (bs : List Byte) : Option Arrival :=
  let f := numAt bs 1 1
  let n := numAt bs 0 1
  let o := (old.find? (fun a => a.belay == n)).getD { belay := n }
  if f.testBit 0 then
    some { belay := n, tag := numAt bs 2 2, count := numAt bs 4 6, sent := f.testBit 2 || o.sent
           gen := if f.testBit 1 then some (numAt bs 10 2) else o.gen
           released := match o.released with
             | some g => some g
             | none => if f.testBit 3 then some (numAt bs 12 2) else none }
  else none

/-- A queue's progress in 256 bytes: flags, how many commands wait, the position of the interrupted command, its fault to
come, its block, the arrival table. -/
def QueueSt.image (q : QueueSt) : List Byte :=
  let i : Issued := q.run.getD { block := 0, descs := [], nest := 0 }
  let f : FaultInfo := q.lateFault.getD { status := 0 }
  packBytes [(1, bitsNat [q.run.isSome, i.issued, q.flushing, q.kend, q.brkTaken, q.lateFault.isSome]), (1, q.waitingCmds.length),
    (2, i.stage), (4, i.part), (24, i.iter), (2, f.status), (2, f.tag), (6, f.count), (1, f.queue), (1, f.core), (20, 0),
    (64, i.block.toNat)] ++ fit 0 128 (q.arrivals.flatMap Arrival.image)

/-- A queue as its progress, its contents and its counter show it; `old` is the queue as the save left it. -/
def QueueSt.ofImage (old : QueueSt) (bs : List Byte) (count : Nat) (cmds : List (BitVec 512)) : QueueSt :=
  let f := numAt bs 0 1
  let block := BitVec.ofNat 512 (numAt bs 64 64)
  let o : Issued := old.run.getD { block := 0, descs := [], nest := 0 }
  { cmds := (if f.testBit 0 then [block] else []) ++ cmds.take (numAt bs 1 1)
    run := if f.testBit 0 then
        some { block := block, descs := o.descs, nest := o.nest, iter := numAt bs 8 24, issued := f.testBit 1 && old.run.isSome
               part := numAt bs 4 4, stage := numAt bs 2 2 }
      else none
    count := count, kend := f.testBit 3
    arrivals := (chunks 16 8 ((bs.drop 128).take 128)).filterMap (Arrival.ofImage old.arrivals)
    lateFault := if f.testBit 5 then
        some { status := imageStatus (numAt bs 32 2), tag := numAt bs 34 2, count := numAt bs 36 6
               queue := numAt bs 42 1 % 4, core := numAt bs 43 1 % 64 }
      else none
    flushing := f.testBit 2, brkTaken := f.testBit 4, wrote := if f.testBit 0 then old.wrote else [] }

/-- Kind, null and absent of a stream entry, in four bits. -/
def StreamEntry.tag (e : StreamEntry) : Nat :=
  (match e.kind with | .stride => 0 | .index => 1 | .page => 2) + 4 * b2n e.value.isNone + 8 * b2n e.absent

/-- The entry that its 64 bits and its tag make. -/
def StreamEntry.ofTag (t v : Nat) : StreamEntry :=
  { kind := if t % 4 = 0 then .stride else if t % 4 = 1 then .index else .page
    value := if t.testBit 2 then none else some (sext 64 v), absent := t.testBit 3 }

/-- A stream slot's progress in 128 bytes: whether it generates, its entries, its command's number and position, the tags of
the entries, the block. -/
def Stream.image (t : Stream) : List Byte :=
  let i : Issued := t.gen.getD { block := 0, descs := [], nest := 0 }
  let tags := (t.entries.map StreamEntry.tag).foldr (fun b a => b + 16 * a) 0
  packBytes [(1, b2n t.gen.isSome), (1, t.entries.length), (6, t.count), (24, i.iter), (32, tags), (64, i.block.toNat)]

/-- A stream slot as its progress and its entries show it. -/
def Stream.ofImage (old : Stream) (bs entries : List Byte) : Stream :=
  let o : Issued := old.gen.getD { block := 0, descs := [], nest := 0 }
  { entries := (List.range (min 64 (numAt bs 1 1))).map (fun j =>
      StreamEntry.ofTag (numAt bs (32 + j / 2) 1 / 16 ^ (j % 2) % 16) (numAt entries (8 * j) 8))
    gen := if numAt bs 0 1 = 1 && old.gen.isSome then
        some { block := BitVec.ofNat 512 (numAt bs 64 64), descs := o.descs, nest := o.nest, iter := numAt bs 8 24, issued := true }
      else none
    count := numAt bs 2 6 }

/-- The progress range: four queues, the parameter block, the core's own 256 bytes, sixteen stream slots. -/
def Core.progress (k : Core) : List Byte :=
  k.queues.flatMap QueueSt.image ++ packBytes ((List.range 64).map (fun i => (4, (Table.get 0 k.params i).toNat))) ++
  packBytes [(2, k.fetch), (1, b2n k.fetchDone), (1, 0), (4, k.vcompatNow), (4, k.vcompat), (244, 0)] ++
  (List.range 16).flatMap (fun i => (Table.get {} k.streams i).image)

/-! ## V_SAMPLE's rows, 0x1_0000 to 0x2_FFFF -/

/-- A row's state in 4 KiB: its key, m, l, and its candidates. -/
def sampleImage (r : Nat × SampleRow) : List Byte :=
  fit 0 4096 (packBytes ([(1, 1), (1, 0), (2, r.2.cand.length), (8, r.1), (4, r.2.m.toNat), (4, r.2.l.toNat), (12, 0)] ++
    r.2.cand.flatMap (fun c => [(4, c.1.toNat), (4, c.2)])))

/-- The row that 4 KiB hold. -/
def sampleOfImage (bs : List Byte) : Option (Nat × SampleRow) :=
  if numAt bs 0 1 = 1 then
    let word := fun j => BitVec.ofNat 32 (numAt bs j 4)
    some (numAt bs 4 8, {
      m := word 12, l := word 16
      cand := (List.range (min 256 (numAt bs 2 2))).map (fun j => (word (32 + 8 * j), numAt bs (36 + 8 * j) 4)) })
  else none

/-! ## Weight registers, 0x3_0000 to 0x13_FFFF, and the spool's headers -/

/-- The 64-bit weight register of PE (`r`, `c`) (R111, R112): an element; a quarter of a group's element; or plane `j` of eight
weights in bits [8j+7:8j]. Which quarter each PE of a group holds is the model's own (log 10). -/
def WTile.peWord (t : WTile) (r c : Nat) : Nat :=
  let code := fun x y => (t.elems.getD y []).getD x 0
  let b := elemBits t.format
  if isPI t.format then
    bitsNat ((List.range b).flatMap (fun j => (List.range 8).map (fun i => (code r (8 * c + i)).testBit j)))
  else if b = 16 then code (r / 2) (c / 2) / 16 ^ (2 * (r % 2) + c % 2) % 16
  else code r c % 2 ^ b

/-- Element (`x`, `y`) of a weight tile in format `f`, from the registers of all PEs: the inverse of `peWord`. -/
def peElem (f : Nat) (pe : Nat → Nat → Nat) (x y : Nat) : Nat :=
  let b := elemBits f
  if isPI f then bitsNat ((List.range b).map (fun j => (pe x (y / 8)).testBit (8 * j + y % 8)))
  else if b = 16 then ((List.range 4).map (fun q => pe (2 * x + q / 2) (2 * y + q % 2) % 16 * 16 ^ q)).sum
  else pe x y % 2 ^ b

/-- A weight register's scales in 16 KiB. -/
def WTile.scaleImage (t : WTile) : List Byte := fit 0 0x4000 (packBytes (t.scales.flatten.map (fun c => (1, c))))

/-- A weight register's form in 16 bytes: present, format, K, N, scales of a column. -/
def WTile.formImage : Option WTile → List Byte
  | none => packBytes [(16, 0)]
  | some t => packBytes [(1, 1), (1, t.format), (2, t.k), (2, t.n), (2, (t.scales.headD []).length), (8, 0)]

/-- A spool slot's header (R124) and begin in 32 bytes. -/
def SpoolSlot.image (t : SpoolSlot) : List Byte :=
  packBytes [(8, (slotHeader t.tag t.bank t.group t.dtag).toNat), (8, t.begun), (16, 0)]

/-- Scales of W0 and W1, active register and preload, spool counters, the forms of W0 and W1, slot headers. -/
def Core.matrixImage (k : Core) : List Byte :=
  [k.w0, k.w1].flatMap (fun w => match w with | some t => t.scaleImage | none => List.replicate 0x4000 0) ++
  packBytes [(1, match k.active with | none => 0 | some r => 1 + b2n r), (1, b2n k.preload), (14, 0),
    (8, k.spool.prod), (8, k.spool.cons), (8, k.spool.closed), (1, b2n k.spool.returnLockstep), (23, 0)] ++
  [k.w0, k.w1].flatMap WTile.formImage ++ List.replicate 0xA0 0 ++
  (List.range 16).flatMap (fun i => (Table.get {} k.spool.slots i).image)

/-- Byte `o` of a weight register of all PEs: 8 bytes each, row by row (log 10). -/
def weightByte (w : Option WTile) (o : Nat) : Option Byte := w.map (fun t => byteOf (t.peWord (o / 2048) (o / 8 % 256)) (o % 8))

/-- The weight register that its form, scales and elements make. -/
def WTile.ofImage (form scales elems : List Byte) : Option WTile :=
  if numAt form 0 1 = 1 then
    let f := numAt form 1 1
    let k := numAt form 2 2
    let n := numAt form 4 2
    let m := numAt form 6 2
    let pe := fun r c => numAt elems (8 * (256 * r + c)) 8
    some { format := f, k := k, n := n
           elems := (List.range n).map (fun y => (List.range k).map (fun x => peElem f pe x y))
           scales := (List.range n).map (fun y => (List.range m).map (fun x => numAt scales (y * m + x) 1)) }
  else none

/-! ## What a save writes -/

/-- The range a save or a restore leaves alone. -/
def imgReserved (off : Nat) : Bool :=
  (decide (0x40 ≤ off) && decide (off < 0x1000)) || (decide (0x6000 ≤ off) && decide (off < 0x8000)) ||
  (decide (0x3C_0000 ≤ off) && decide (off < 0x40_0000))

/-- Lane `i` of the register file: register i / 256, lane i mod 256 (R135). -/
def Core.vregWord (k : Core) (i : Nat) : Word := Table.get (match k.vbase with | some b => Config.freeWord b i | none => 0) k.vregs i

/-- One byte of the image of a core, none in a reserved range. A byte to which nothing of the core belongs is a free value. -/
def imgByte (m : MemSys) (c hdr : Nat) (k : Core) (off : Nat) : Option Byte :=
  let own := Config.freeByte m.fresh off
  if imgReserved off then none
  else if off < 0x40 then some (byteOf hdr off)
  else if off < 0x2000 then some ((k.progress[off - 0x1000]?).getD own)
  else if off < 0x4000 then
    let i := (off - 0x2000) / 64
    some ((((k.queue (i / 32)).waitingCmds[i % 32]?).map (fun b => byteOf b.toNat (off % 64))).getD own)
  else if off < 0x6000 then
    let i := (off - 0x4000) / 8
    some (((((Table.get {} k.streams (i / 64)).entries[i % 64]?).bind StreamEntry.value).map (fun v =>
      byteOf (wrapInt 64 v) (off % 8))).getD own)
  else if off < 0x1_0000 then some (byteOf (k.vregWord ((off - 0x8000) / 4)).toNat (off % 4))
  else if off < 0x3_0000 then
    let i := (off - 0x1_0000) / 4096
    some (match k.sample[i]? with | some r => (sampleImage r).getD (off % 4096) 0 | none => if off % 4096 = 0 then 0 else own)
  else if off < 0x4_0000 then some ((k.matrixImage[off - 0x3_0000]?).getD own)
  else if off < 0x14_0000 then
    let o := off - 0x4_0000
    some ((weightByte (if o < 0x8_0000 then k.w0 else k.w1) (o % 0x8_0000)).getD own)
  else if off < 0x34_0000 then some (byteOf (Table.get 0 k.acc ((off - 0x14_0000) / 4)).toNat (off % 4))
  else if off < 0x3C_0000 then
    let i := (off - 0x34_0000) / 4
    some (byteOf (Table.get 0 (Table.get {} k.spool.slots (i / 8192)).rows (i % 8192)).toNat (off % 4))
  else some ((m.scratchRead c (off - 0x40_0000) 1).headD 0)

/-- Lines of the image of a core, with the address of each. -/
def imgLines (m : MemSys) (base c hdr units : Nat) (k : Core) : List (Nat × List (Option Byte)) :=
  ((List.range ((0x40_0000 + units * 0x4_0000) / 64)).filter (fun l => !imgReserved (64 * l))).map (fun l =>
    (base + 64 * l, (List.range 64).map (fun i => imgByte m c hdr k (64 * l + i))))

/-- What a save keeps of an arrival-table entry: a release that comes from now on is noted in it (R206). -/
def Arrival.saved (a : Arrival) : Arrival := { a with released := none }

/-- What a save keeps of a queue: no remote lines, and not the coalescer (R158, R220). The coordinates that an interrupted V_SCATTER
has written stay (R150). -/
def QueueSt.saved (q : QueueSt) : QueueSt :=
  { q with landing := [], coal := [], stalled := false, stopped := false, arrivals := q.arrivals.map Arrival.saved }

/-- A core's state that a save keeps beside the image. -/
def Core.saved (k : Core) : Core :=
  { k with qMx := k.qMx.saved, qVec := k.qVec.saved, qDma := k.qDma.saved, qSeq := k.qSeq.saved }

/-! ## What a restore reads -/

/-- Words of a range of bytes that are not zero, by their index. -/
def wordsOf (bs : List Byte) : Table Word :=
  ((List.range (bs.length / 4)).zip (chunks 4 (bs.length / 4) bs)).filterMap (fun p =>
    let w := leNat p.2
    if w = 0 then none else some (p.1, BitVec.ofNat 32 w))

/-- The bytes of an image that a restore reads: every range of R220 but the reserved ones. -/
structure Image where
  hdr : Nat
  progress : List Byte
  queues : List Byte
  streams : List Byte
  vregs : List Byte
  sample : List Byte
  matrix : List Byte
  weights : List Byte
  acc : List Byte
  spool : List Byte
  scratch : List Byte
  deriving DecidableEq, Repr

/-- Ranges of bytes from `base` on, read in order. -/
def Wk.readRanges (e : Env) (base : Nat) : List (Nat × Nat) → Wk → List (List Byte) × Wk
  | [], w => ([], w)
  | r :: l, w =>
    let x := w.read e (base + r.1) r.2
    let y := Wk.readRanges e base l x.2
    (x.1 :: y.1, y.2)

/-- The ranges of an image that a restore reads, as the parts of `Image` in order. -/
def imageRanges (units : Nat) : List (Nat × Nat) :=
  [(0, 64), (0x1000, 0x1000), (0x2000, 0x2000), (0x4000, 0x2000), (0x8000, 0x8000), (0x1_0000, 0x2_0000), (0x3_0000, 0x1_0000),
   (0x4_0000, 0x10_0000), (0x14_0000, 0x20_0000), (0x34_0000, 0x8_0000), (0x40_0000, units * 0x4_0000)]

/-- An image is read, range by range. -/
def readImage (e : Env) (w : Wk) (base units : Nat) : Image × Wk :=
  let r := Wk.readRanges e base (imageRanges units) w
  let p := fun i => r.1.getD i []
  ({ hdr := leNat (p 0), progress := p 1, queues := p 2, streams := p 3, vregs := p 4, sample := p 5, matrix := p 6, weights := p 7,
     acc := p 8, spool := p 9, scratch := p 10 }, r.2)

/-- The spool after a restore: CREDITED with the credits of R222. A kernel saved under LOCKSTEP returns to it at its next
SPOOL_FLUSH, which takes SPOOL_LOCKSTEP accepted (R5). -/
def Spool.ofImage (old : Spool) (mayLock : Bool) (i : Image) : Spool :=
  let at_ := fun o n => numAt i.matrix (0x8000 + o) n
  let prod := keepUnlessEdited (at_ 0x10 8) (at_ 0x10 8 % 65535) (fld i.hdr 367 352)
  let cons := keepUnlessEdited (at_ 0x18 8) (at_ 0x18 8 % 65535) (fld i.hdr 383 368)
  let words := wordsOf i.spool
  { old with
    prod := prod, cons := cons, credits := 16 - (prod + 65535 - cons % 65535) % 65535, lockstep := false
    epoch := fld i.hdr 351 320, closed := at_ 0x20 8
    returnLockstep := mayLock && (at_ 0x28 1 == 1 || fld i.hdr 39 38 == 2)
    slots := (List.range 16).map (fun n =>
      let h := fun o l => at_ (0x100 + 32 * n + o) l
      (n, { Table.get {} old.slots n with
              tag := fld (h 0 8) 15 0, bank := fld (h 0 8) 18 16, group := fld (h 0 8) 21 19, dtag := fld (h 0 8) 47 32, begun := h 8 8
              rows := (words.filter (fun w => decide (8192 * n ≤ w.1) && decide (w.1 < 8192 * (n + 1)))).map
                (fun w => (w.1 - 8192 * n, w.2)) })) }

/-- A core that resumes with what the image shows (R133, R158, R221). `k` is the core it resumes on, `v` the core as saved. -/
def Core.resumed (k v : Core) (i : Image) (x : Nat) (compat mayLock : Bool) (run : Option CoreRun) : Core :=
  let cmds := fun q => ((chunks 64 32 ((i.queues.drop (2048 * q)).take 2048)).map (fun b => BitVec.ofNat 512 (leNat b)))
  let q := fun n count => (v.queue n).ofImage ((i.progress.drop (256 * n)).take 256) count (cmds n)
  let own := fun o n => numAt i.progress (0x500 + o) n
  let form := fun r => (i.matrix.drop (0x8040 + 16 * r)).take 16
  let tile := fun r => WTile.ofImage (form r) ((i.matrix.drop (0x4000 * r)).take 0x4000) ((i.weights.drop (0x8_0000 * r)).take 0x8_0000)
  let vc := fld i.hdr 447 416
  { k with
    run := run, params := wordsOf ((i.progress.drop 0x400).take 256), fetch := own 0 2, fetchDone := own 2 1 == 1
    qMx := q 0 (fld i.hdr 175 128), qVec := q 1 (fld i.hdr 223 176), qDma := q 2 (fld i.hdr 271 224), qSeq := q 3 (fld i.hdr 319 272)
    streams := (List.range 16).map (fun n =>
      (n, (Table.get {} v.streams n).ofImage (i.progress.drop (0x600 + 128 * n)) ((i.streams.drop (512 * n)).take 512)))
    vregs := wordsOf i.vregs, vbase := none
    sample := ((chunks 4096 32 i.sample).filterMap sampleOfImage).foldl (fun t r => Table.set t r.1 r.2) []
    w0 := tile 0, w1 := tile 1
    active := match numAt i.matrix 0x8000 1 with | 1 => some false | 2 => some true | _ => none
    preload := numAt i.matrix 0x8001 1 == 1
    acc := wordsOf i.acc, spool := v.spool.ofImage mayLock i
    kflags := BitVec.ofNat 6 (fld i.hdr 127 96), tstage := fld i.hdr 406 397
    lastslot := BitVec.ofNat 64 (lastslotBits (fld i.hdr 511 448))
    vcompat := vcompatBits compat vc, vcompatNow := vcompatBits compat (keepUnlessEdited (own 4 4) (own 8 4) vc)
    lastUse := .ctx x }

end Sys2Proof.Machine
end

