-- ==== Sys2Proof/Machine/Contexts.lean ====
section
/-! DEFINITION. Execution contexts: the host's writes that start, stop and load kernels, dispatch, kernel end, save and
restore (chapters 04 and 09, R349, R352 to R354). -/

namespace Sys2Proof.Machine

/-! ## Who reaches what (R347, R349, R394) -/

/-- Whether a write of the host through a function's BARs reaches the part (R364, R394). -/
def State.hostReach (s : State) (fn : Nat) : Bool :=
  s.pastNine && s.host.link == .up && s.hasFunc fn && !(s.func fn).d3hot

/-- Whether a function reaches the window of context `x`: a VF only its own. -/
def State.reachCtx (s : State) (fn x : Nat) : Bool :=
  s.hostReach fn && decide (x < ctxPer s.mode) && (funcVf fn == 0 || (s.func fn).ctxmask.testBit x)

/-- Whether a function is a PF that reaches the part. -/
def State.reachPf (s : State) (fn : Nat) : Bool := s.hostReach fn && funcVf fn == 0

/-- A sanitise of the partition runs (R429). -/
def State.sanitising (s : State) (p : Nat) : Bool := (s.part p).sanitise.state == 1

/-- The scheduler owns the context (R280). -/
def State.serves (s : State) (p x : Nat) : Bool := (s.part p).srvEn && (s.part p).srvCtx == x

/-- The function through which an access came that a BAR4 write before it holds back. -/
def HostAccess.fn : HostAccess → Option Nat
  | .barWrite fn _ _ | .barRead fn _ _ _ | .kgo fn _ _ | .csgo fn _ _ _ => some fn
  | .memRead _ _ => none

/-- Whether a BAR4 write through a function still waits, or something behind it: what comes through the function after it, and relies
on it, waits too (R352, R359). -/
def State.behind (s : State) (fn : Nat) : Bool := s.host.waits.any (fun a => a.fn == some fn)

/-- An access of the host waits. -/
def State.holdHost (s : State) (a : HostAccess) : State := { s with host := { s.host with waits := s.host.waits ++ [a] } }

/-- Whether a write of 1 to a ring's EN bit through function `fn` is taken (R361, R367). -/
def State.mayEnableRing (s : State) (fn : Nat) : Bool :=
  let f := s.func fn
  (s.part (funcPart fn)).accepted && !f.quiescing && !f.disabled

/-- Whether a write of 1 to context EN or SRVCTL EN through function `fn` is taken (R361, R367, R429). -/
def State.mayEnable (s : State) (fn : Nat) : Bool := s.mayEnableRing fn && !s.sanitising (funcPart fn)

/-- Whether a write of 1 to EN of context `x` through function `fn` is taken: neither `fn` nor the function that holds the context
still quiesces (R367). -/
def State.mayEnableCtx (s : State) (fn x : Nat) : Bool := s.mayEnable fn && !(s.func (s.ctxFn (funcPart fn) x)).quiescing

/-- CYCLES of a kernel that ends without an event that names them: the part's own count (R104; log 6). -/
def State.ownCycles (s : State) : Nat := Config.cycles s.mem.fresh 4

/-! ## Ending -/

/-- The kernel of a context ends after its arrivals have been counted (R102, R204). -/
def State.finishKernel (s : State) (p x cycles : Nat) : State :=
  let s := s.flushArrivals p x
  match (s.context p x).kernel with
  | some k => (s.endKernel p x k cycles).startPiecesIdle p
  | none => s

/-- A context's kernel is stopped or discarded with a status, and its pending start ends with one (R223, R365). -/
def State.cancelContext (s : State) (p x status startStatus : Nat) : State :=
  let s := match (s.context p x).pending with
    | some st => (s.updContext p x (fun t => { t with pending := none })).endStart p x st startStatus
    | none => s
  match (s.context p x).kernel with
  | none => s
  | some _ =>
    let s := s.kernelFault p x { status := status }
    let st := (s.context p x).state
    if st == .saved || st == .held then s.finishKernel p x s.ownCycles else s

/-- The rope engine's part of a round's end (R252). -/
def State.ropeRoundEnd (s : State) (p : Nat) : State :=
  if s.ropeOn p then
    let r := (s.part p).rope
    (s.updPart p (fun t => { t with rope := { t.rope with ownEnded := t.rope.ownEnded + 1 } })).ropeSend p opENDED (r.round - 1)
  else s

/-- KERNEL_END (R102 to R105, R218): the kernel of a context has ended on all its cores. -/
def execKernelEnd (part ctx cycles periods : Nat) (s : State) : Host.Outcome State Fault Refusal :=
  match (s.context part ctx).kernel with
  | none => .next s
  | some k =>
    let st := (s.context part ctx).state
    if st == .running || st == .saving || st == .restoring then
      let s := match s.anyLate (bitsBelow 48 (kdCores k.kd)) with
        | some f => s.kernelFault part ctx f
        | none => s
      match (s.context part ctx).kernel with
      | none => .next s
      | some k =>
        if s.ended part ctx k then
          let s := s.finishKernel part ctx cycles
          if k.step then .next ((s.updPart part (fun t => { t with runPeriods := periods % 2 ^ 32 })).ropeRoundEnd part)
          else .next s
        else .next s
    else .next s

/-! ## Dispatch (R213, R221) -/

/-- A core is taken for a restore: where LASTUSE names another context, the scratch units that the image does not hold are zeroed
(R215). -/
def State.takeForRestore (s : State) (p x c : Nat) : State :=
  let lo := (s.context p x).units * 0x4_0000
  let other := match (s.core c).lastUse with | .ctx y => y != x | _ => false
  let m := if other then s.mem.scratchWrite c lo (List.replicate (0x80_0000 - lo) (some 0)) else s.mem
  ({ s with mem := m } : State).updCore c (fun t => { t with run := (Table.get {} (s.context p x).savedCores c).run })

/-- The cores of a SAVED kernel are taken for its restore. -/
def State.startRestore (s : State) (p x : Nat) (k : Kernel) : State :=
  let s := (bitsBelow 48 (kdCores k.kd)).foldl (fun s c => s.takeForRestore p x c) s
  s.updContext p x (fun t => { t with state := .restoring })

/-- KERNEL_DISPATCH (R213): the kernel chosen among those that wait begins, is restored, or is refused. `the context chosen last' of the
round robin is read as the one whose pending start was chosen last, also one that is then refused; a SAVED kernel's choice does not
count (DESIGN CHOICE, log 13). -/
def execKernelDispatch (part : Nat) (s : State) : Host.Outcome State Fault Refusal :=
  if !s.isLive || s.drainHeld part then .next s
  else match s.choose part with
    | none => .next s
    | some x =>
      match (s.context part x).kernel, (s.context part x).pending with
      | some k, _ => .next (s.startRestore part x k)
      | none, some st =>
        let ok := s.startOk part x st.kd
        let s := s.updPart part (fun t => { t with lastCtx := x })
        let s := s.updContext part x (fun t => { t with pending := none })
        .next (if ok then s.startKernel part x st else s.endStart part x st 0x0102)
      | none, none => .next s

/-! ## Saving (R216 to R219) -/

/-- Where the image of the `i`-th core of CTXCORES begins (R211). -/
def Context.imageAt (t : Context) (c : Nat) : Nat := t.save + (bitsBelow c t.cores).length * 0xC0_0000

/-- A line written by the save engine; one that cannot be written is dropped (R219). -/
def saveLine (e : Env) (m : MemSys) (a : Nat) (l : List (Option Byte)) : MemSys := (Wk.writeLine e { mem := m } a l).mem

/-- Whether the line at a local address has to wait. -/
def lineClosed (e : Env) (m : MemSys) (a : Nat) : Bool :=
  match e.place m a with
  | .stack k off => (m.stack k).closed e.se (off / 64)
  | _ => false

/-- The lines of all images of a context's kernel. -/
def State.imagesOf (s : State) (p x : Nat) (k : Kernel) : List (Nat × List (Option Byte)) :=
  let t := s.context p x
  (bitsBelow 48 (kdCores k.kd)).flatMap (fun c =>
    imgLines s.mem (t.imageAt c) c (imgHeader p x c t.units (kdKid k.kd) (s.core c)) t.units (s.core c))

/-- Whether queue `q` of a core stands at its save boundary: it waits for no memory inside an iteration (R217). -/
def Core.atBoundary (k : Core) (q : Nat) : Bool := (k.queue q).stopped || !(k.queue q).stalled

/-- SAVE_COMPLETE (R216, R219, R220): every queue is at its boundary and every STK command has completed; the images are
written, the cores are free. -/
def execSaveComplete (part ctx cycles : Nat) (s : State) : Host.Outcome State Fault Refusal :=
  let t := s.context part ctx
  match t.kernel, t.trigger with
  | some k, some (hold, status) =>
    let listed := bitsBelow 48 (kdCores k.kd)
    if t.state != .saving || k.fault.isSome || !s.coresQuiet part listed || s.stkBusy part ctx ||
        listed.any s.forwardsOn || !listed.all (fun c => (List.range 4).all (s.core c).atBoundary) then .next s
    else
      let e := s.partEnv part
      let ls := s.imagesOf part ctx k
      let held := ls.filter (fun l => e.hostHolds (l.1 / 64))
      if !held.isEmpty then .next (s.sendSnoops (held.map (fun l => (l.1 / 64, true))))
      else if ls.any (fun l => lineClosed e s.mem l.1) then .next s
      else
        let m := ls.foldl (fun m l => saveLine e m l.1 l.2) s.mem
        let cores := listed.map (fun c => (c, (s.core c).saved))
        let n := (s.part part).saveSeq
        let s := s.withMem { m with fresh := m.fresh + 1 } 3
        let s := s.keepCounts part ctx listed s.core
        let s := listed.foldl (fun s c => s.updCore c (fun k => k.ranFor ctx)) s
        let s := s.updPart part (fun q => { q with saveSeq := n + 1 })
        .next ((s.updContext part ctx (fun t => { t with
          state := if hold then .held else .saved, trigger := none, status := status, saves := satAdd 32 t.saves 1
          saveCycles := cycles % 2 ^ 32, savedCores := cores, kernel := some { k with savedAt := n } })).startPiecesIdle part)
  | _, _ => .next s

/-! ## Restore (R215, R221, R222) -/

/-- The images of a kernel's cores, read in rising order of core. -/
def imagesRead (s : State) (p x : Nat) (k : Kernel) : List (Nat × Image) × Wk :=
  let t := s.context p x
  (bitsBelow 48 (kdCores k.kd)).foldl (fun (a : List (Nat × Image) × Wk) c =>
    let r := readImage (s.partEnv p) a.2 (t.imageAt c) t.units
    (a.1 ++ [(c, r.1)], r.2)) ([], { mem := s.mem })

/-- The header of a core's image, read by itself. -/
def State.readHeader (s : State) (p x c : Nat) : List Byte × Wk :=
  Wk.read (s.partEnv p) { mem := s.mem } ((s.context p x).imageAt c) 64

/-- Whether the header of a core's image can be read, and does not match its context and core (R221). -/
def State.headerBad (s : State) (p x c : Nat) : Bool :=
  (s.readHeader p x c).2.good && !headerOk p x c (s.context p x).units (leNat (s.readHeader p x c).1)

/-- Whether the header of a core's image has to wait. -/
def State.headerWaits (s : State) (p x c : Nat) : Bool := (s.readHeader p x c).2.wait && (s.readHeader p x c).2.fault.isNone

/-- One core's image comes back: its scratch units are read in. -/
def State.restoreCore (s : State) (p x c kid : Nat) (i : Image) : State :=
  let k := s.core c
  let v := Table.get {} (s.context p x).savedCores c
  let m := s.mem.scratchWrite c 0 (i.scratch.map some)
  let run := v.run.map (fun r => { r with kd := withKid r.kd kid })
  { s with mem := m }.setCore c (k.resumed v i x (s.accepts p 8) (s.accepts p 1) run)

/-- RESTORE_COMPLETE (R221, R222): every header, then the images are read; a failed restore ends the kernel. -/
def execRestoreComplete (part ctx cycles : Nat) (s : State) : Host.Outcome State Fault Refusal :=
  let t := s.context part ctx
  match t.kernel with
  | none => .next s
  | some k =>
    if t.state != .restoring || k.fault.isSome then .next s
    else match (bitsBelow 48 (kdCores k.kd)).find? (s.headerWaits part ctx) with
    | some c => .next (s.takeWork (s.readHeader part ctx c).2)
    | none =>
      let bad := (bitsBelow 48 (kdCores k.kd)).any (s.headerBad part ctx)
      let (is, w) := imagesRead s part ctx k
      let s := s.takeWork w
      if w.wait && w.fault.isNone then .next s
      else
        match (if bad then some 0x0102 else w.fault) with
        | some status => .next ((s.kernelFault part ctx { status := status }).finishKernel part ctx s.ownCycles)
        | none =>
          let kid := ((is.head?).map (fun i => fld i.2.hdr 95 64)).getD (kdKid k.kd)
          let s := is.foldl (fun s i => s.restoreCore part ctx i.1 kid i.2) s
          let s := s.updContext part ctx (fun t => { t with
            state := if t.trigger.isSome then .saving else .running, savedCores := [], restoreCycles := cycles % 2 ^ 32
            kernel := t.kernel.map (fun k => { k with kd := withKid k.kd kid }) })
          .next (if t.trigger.isSome then s.stopQueues k.kd else s)

/-! ## The host's writes (R201, R210, R223, R352, R354) -/

/-- Whether a KGO or CSGO through a function is heard (R364, R429). -/
def State.hears (s : State) (fn ctx : Nat) : Bool := s.reachCtx fn ctx && !(s.func fn).disabled && !s.sanitising (funcPart fn)

/-- A KGO with its record takes effect. -/
def State.kgo (s : State) (fn ctx : Nat) (kd : BitVec 512) : State :=
  let p := funcPart fn
  if !s.isLive || !s.hears fn ctx then s
  else if s.serves p ctx then s.updContext p ctx (fun t => { t with serving := true })
  else if (s.context p ctx).pending.isSome then s.updContext p ctx (fun t => { t with overrun := true })
  else
    let st : Start := { kd := kd }
    let s := s.updContext p ctx (fun t => { t with overrun := false, serving := false })
    if s.startOk p ctx st.kd then (s.updContext p ctx (fun t => { t with pending := some st })).preemptAll p
    else s.endStart p ctx st 0x0102

/-- KGO (R81, R280, R352, R359): the staged record becomes the context's pending start, or is refused; it waits behind a BAR4 write of
its function. -/
def execKgo (fn ctx : Nat) (s : State) : Host.Outcome State Fault Refusal :=
  let kd := (s.context (funcPart fn) ctx).kstart
  .next (if s.behind fn && s.isLive && s.hears fn ctx then s.holdHost (.kgo fn ctx kd) else s.kgo fn ctx kd)

/-- Aperture of a function: a VF's, or for a PF the partition's stack range. -/
def State.aperture (s : State) (fn : Nat) : Nat × Nat :=
  let p := funcPart fn
  if funcVf fn = 0 then (stackBase s.mode p, stackBase s.mode p + stackSpan s.mode)
  else
    let f := s.func fn
    (f.apbase * 2 ^ 16, f.apbase * 2 ^ 16 + (if f.apsize = 0 then 0 else 2 ^ f.apsize))

/-- A CSGO with its source takes effect: a copy of code begins, or is ignored with CSERR (R354). -/
def State.csgo (s : State) (fn ctx : Nat) (value : Quad) (src : Nat) : State :=
  let p := funcPart fn
  if !s.hears fn ctx then s
  else
    let t := s.context p ctx
    let v := value.toNat
    let bank := fld v 0 0
    let first := fld v 22 12
    let count := fld v 34 23
    let listed := bitsBelow 48 t.cores
    let base := stackBase s.mode p
    let (lo, hi) := s.aperture fn
    let bad := t.csCopy.isSome || count == 0 || decide (2048 < first + count) ||
      decide (src < base) || decide (base + stackSpan s.mode < src + 64 * count) ||
      decide (src < lo) || decide (hi < src + 64 * count) || src % 64 != 0 ||
      listed.any (fun c => s.liveBank c bank)
    if bad then s.updContext p ctx (fun t => { t with csErr := true })
    else
      let s := listed.foldl (fun s c => s.updCore c (fun k => k.setOwner bank (.ctx ctx))) s
      s.updContext p ctx (fun t => { t with
        csErr := false, csCopy := some { bank := bank, first := first, count := count, src := src, cores := t.cores } })

/-- CSGO (R354): it waits behind a BAR4 write of its function. -/
def execCsgo (fn ctx : Nat) (value : Quad) (s : State) : Host.Outcome State Fault Refusal :=
  let src := (s.context (funcPart fn) ctx).csSrc
  .next (if s.behind fn && s.hears fn ctx then s.holdHost (.csgo fn ctx value src) else s.csgo fn ctx value src)

/-- Bytes into a command-store bank; a live bank drops and logs them (R107). What counts as one dropped write the spec leaves
open: here a CSGO's copy into a core and each piece of a host write count one, and an engine's write one for each 64 B line
(log 24). -/
def State.loadBank (s : State) (c b off : Nat) (bs : List (Option Byte)) : State :=
  if s.liveBank c b then s.updCore c (fun k => { k with cslog := k.cslog.drop b off })
  else { s with mem := s.mem.bankWrite c b off bs }

/-- PREEMPT (R216): a save of the running kernel, which is then HELD. -/
def execPreempt (fn ctx : Nat) (s : State) : Host.Outcome State Fault Refusal :=
  if s.reachCtx fn ctx then .next (s.triggerSave (funcPart fn) ctx true 0x0303) else .next s

/-- RESUME (R210): a HELD context becomes SAVED. -/
def execResume (fn ctx : Nat) (s : State) : Host.Outcome State Fault Refusal :=
  if s.reachCtx fn ctx then
    .next (s.updContext (funcPart fn) ctx (fun t => if t.state == .held then { t with state := .saved } else t))
  else .next s

/-- A write of CTXCTL (R210, R214, R223): PRIO and EN, then PREEMPT and RESUME; a changed PRIO can pre-empt. -/
def State.writeCtxctl (s : State) (fn p x v : Nat) : State :=
  let s := s.updContext p x (fun t => { t with prio := fld v 5 4 })
  let s := if v.testBit 0 then
      (if s.mayEnableCtx fn x then s.updContext p x (fun t => { t with en := true }) else s)
    else (s.updContext p x (fun t => { t with en := false })).cancelContext p x 0x0301 0x0102
  let s := if v.testBit 2 then s.triggerSave p x true 0x0303 else s
  let s := if v.testBit 3 then s.updContext p x (fun t => if t.state == .held then { t with state := .saved } else t) else s
  s.preemptAll p

/-- CONTEXT_EN (R223): a write of CTXCTL enables the context, or ends its kernel with 0x0301. -/
def execContextEn (fn ctx : Nat) (value : Quad) (s : State) : Host.Outcome State Fault Refusal :=
  if s.reachCtx fn ctx then .next (s.writeCtxctl fn (funcPart fn) ctx value.toNat) else .next s

/-- BELAY_WRITE (R201, R206). -/
def execBelayWrite (fn belay : Nat) (value : Quad) (s : State) : Host.Outcome State Fault Refusal :=
  if s.reachPf fn && decide (belay < 256) then .next (s.writeBelay (funcPart fn) belay value.toNat) else .next s

/-- FORCE (R201, R206): a write with FORCE set releases the round at once. -/
def execForce (fn belay : Nat) (value : Quad) (s : State) : Host.Outcome State Fault Refusal :=
  if s.reachPf fn && decide (belay < 256) then .next (s.writeBelay (funcPart fn) belay (value ||| 256).toNat) else .next s

/-- CSLOG_CLEAR (R107): a write of 1 to VALID. -/
def execCslogClear (fn core : Nat) (s : State) : Host.Outcome State Fault Refusal :=
  if s.reachPf fn && decide (core < 48) && partOfCore s.mode core == funcPart fn then
    .next (s.updCore core (fun k => { k with cslog := k.cslog.write (2 ^ 50) }))
  else .next s

end Sys2Proof.Machine
end

