-- ==== Sys2Proof/Machine/KvCodec.lean ====
section
/-! DEFINITION. S_KVENC and S_KVEXP: building and using code tables, coding pages, transit images, expansion
(R254, R262 to R275). -/

namespace Sys2Proof.Machine

/-! ## S_KVENC: fields and checks (R267) -/

def keLayer (b : BitVec 512) : Nat := imm b 51 44
def keNlayers (b : BitVec 512) : Nat := imm b 59 52
def keGroup (b : BitVec 512) : Nat := imm b 63 60
def keFirst (b : BitVec 512) : Nat := imm b 95 64
def keSpan (b : BitVec 512) : Nat := imm b 111 96
def keTable (b : BitVec 512) : Nat := imm b 117 112
def keLossy (b : BitVec 512) : Nat := imm b 119 118

def keUses (b : BitVec 512) : List StkUse :=
  [noStk, noStk, if stkFn b = 3 then { kind := .inStack, write := true } else noStk, noStk]

/-- Logical pages of the range in the named stack. -/
def State.kePages (s : State) (k p : Nat) (b : BitVec 512) : List Nat :=
  ((List.range (keSpan b)).map (fun i => keFirst b + i)).filter (fun n => pageStack s.mode p n == k)

def keOk (s : State) (e : Env) (i : Issued) : Bool :=
  let b := i.block
  let fn := stkFn b
  let g := (s.part e.part).kvgeom.toNat
  let lossless := e.accept.testBit 2
  let lossyOk := fun (l : Nat) => if l = 0 then lossless else e.accept.testBit 3
  let range := decide (1 ≤ keNlayers b) && decide (keLayer b + keNlayers b ≤ kvLayers g) && decide (1 ≤ keSpan b)
  imm b 255 120 == 0 && (lossless || e.accept.testBit 3) &&
  (if fn = 4 then imm b 111 32 == 0 && keLossy b == 0
   else range && (fn == 0 || keGroup b == 0) && (fn == 0 || fn == 1 || keTable b == 0) && (fn == 0 || fn == 2 || keLossy b == 0)) &&
  (fn != 0 || (decide (1 ≤ keGroup b) && decide (keGroup b ≤ 8) && keNlayers b == 1 && lossless && lossyOk (keLossy b))) &&
  (fn != 1 || lossless) &&
  (fn != 2 || (keLossy b != 0 && lossyOk (keLossy b))) &&
  (fn != 3 || (keNlayers b == 1 && decide ((s.kePages (stkStack b) e.part b).length ≤ 8) &&
    dFmt (i.descs.getD 2 0) == fINT8 && dRank (i.descs.getD 2 0) == 1))

/-- Layers and pages that the command looks up. -/
def State.encPages (s : State) (k : Nat) (c : StkCmd) : List (Nat × Nat) :=
  let b := c.iss.block
  if stkFn b = 4 then []
  else (List.range (keNlayers b)).flatMap (fun y => (s.kePages k c.part b).map (fun n => (keLayer b + y, n)))

/-! ## Coding (R262, R265, R268) -/

/-- A page's entry if the encoder may code it (R236, R268); none for any other page; the status of a failed read. -/
def eligible (s : State) (e : Env) (k : Nat) (a : ActiveCmd) (y n : Nat) (x : KvWork) : (Option Nat) × KvWork :=
  let t := s.part a.cmd.part
  let slot := Table.get {} t.slots (imm a.cmd.iss.block 43 32)
  match a.page y n with
  | .inr st => (none, if st = 0x0203 then x else { x with w := x.w.fail st })
  | .inl pte =>
    if pteForm pte != 1 || pteShared pte || pteVariant pte || decide (slot.c / max 1 (kvPpp t.kvgeom.toNat) ≤ n) then (none, x)
    else
      let (c, x) := x.count e t.framePool k (pteFrame pte / 65536)
      (if c = 1 then some pte else none, x)

/-- The bytes of a RAW page that hold elements. -/
def pageBytes (e : Env) (g k pte : Nat) (w : Wk) : List Byte × Wk :=
  w.read e (k * 2 ^ 36 + pteFrame pte) (2 * kvHeads g * kvHdim g * kvPpp g)


/-- The granules of one page are taken and written, its entry becomes CODED, its frame is released. -/
def writeCoded (s : State) (e : Env) (k : Nat) (a : ActiveCmd) (y n pte lossy : Nat) (slot : Option (Nat × CodecSlot))
    (cuts : List Cut) (gs : List Nat) (x : KvWork) : State × KvWork :=
  let p := a.cmd.part
  let g := (s.part p).kvgeom.toNat
  let sl := imm a.cmd.iss.block 43 32
  let name := match slot with | some (i, t) => (i, t.gen) | none => (0, 0)
  let x := ((List.range gs.length).zip (gs.zip cuts)).foldl (fun (x : KvWork) q =>
    x.put e (k * 2 ^ 36 + 4096 * q.2.1) (granBytes (kvFormat g) lossy name.1 name.2 (q.1 + 1 == gs.length) q.2.2)) x
  let x := x.setEntry e (s.pteAddrOf p sl y n) (pteCoded false false k gs)
  let coded := (cuts.filter (fun c => !c.raw)).length
  let s := s.updEngine k (fun en =>
    let en := en.labDrop p sl y n
    let en := match slot with | some (i, _) => en.useSlot i coded | none => en
    { en with codedGran := (en.codedGran + coded) % 2 ^ 24, rawGran := (en.rawGran + (cuts.length - coded)) % 2 ^ 24 })
  (s.updPart p (fun t => { t with released := t.released ++ [(k, pteFrame pte / 65536)] }), x)

/-- Energy of one pass of the encoder over units of 32 elements, in 1/40 pJ: 0.5 pJ per element (R269). -/
def passCost (units : Nat) : Nat := 20 * 32 * units

/-- One page is coded, or left RAW and counted (R261, R262). -/
def encodePage (s : State) (e : Env) (k : Nat) (a : ActiveCmd) (y n pte lossy : Nat) (slot : Option (Nat × CodecSlot))
    (x : KvWork) : State × KvWork :=
  let t := s.part a.cmd.part
  let g := t.kvgeom.toNat
  let (bs, w) := pageBytes e g k pte x.w
  let us := pageUnits g lossy bs
  let x := { x with w := { w with mem := { w.mem with fresh := w.mem.fresh + 1 } }.spend (passCost us.length) }
  let codes := match slot with | some (_, q) => q.tables.codes | none => ⟨[], [], []⟩
  let units := ((List.range us.length).zip us).map (fun u =>
    (u.2, if slot.isSome then unitBits codes lossy (unitIsKey g u.1) u.2 else []))
  let cuts := cutPage lossy slot.isNone (us.length + 1) units
  if 15 < cuts.length then (s.updEngine k (fun en => { en with keptRaw := satAdd 16 en.keptRaw 1 }), x)
  else match x.takeN e t.granPool k cuts.length with
    | (none, x) => (s.updEngine k (fun en => { en with noGran := satAdd 16 en.noGran 1 }), x)
    | (some gs, x) => writeCoded s e k a y n pte lossy slot cuts gs x

/-- The slot bound to an id. -/
def Engine.bound (g : Engine) (id : Nat) : Option (Nat × CodecSlot) :=
  ((List.range 64).find? (fun i => (Table.get {} g.table i).state == .bound && (Table.get {} g.table i).id == id)).map
    (fun i => (i, Table.get {} g.table i))

/-- UNBIND: the slot becomes RETIRED, or FREE when its count is zero. -/
def Engine.unbind (g : Engine) (id : Nat) : Engine :=
  match g.bound id with
  | some (i, t) => { g with table := Table.set g.table i { t with state := if t.count = 0 then .free else .retired } }
  | none => g

/-- A new table takes the lowest FREE slot and the id; or there is none (R263, R265). -/
def Engine.bind (g : Engine) (id lossy : Nat) (t : Tables) : Option Engine :=
  match (List.range 64).find? (fun i => (Table.get {} g.table i).state == .free) with
  | none => none
  | some i =>
    let g := g.unbind id
    let old := Table.get {} g.table i
    some { g with
      table := Table.set g.table i { state := .bound, gen := (old.gen + 1) % 256, lossy := lossy, id := id, count := 0,
                                     key := t.key, val := t.val, scl := t.scl }
      tables := satAdd 16 g.tables 1 }

/-- The first eligible pages of the range, at most `n`. -/
def buildGroup (s : State) (e : Env) (k : Nat) (a : ActiveCmd) : Nat → List (Nat × Nat) → KvWork → List Nat × KvWork
  | _, [], x => ([], x)
  | 0, _, x => ([], x)
  | n + 1, q :: t, x =>
    let (v, x) := eligible s e k a q.1 q.2 x
    match v with
    | some pte =>
      let (l, x) := buildGroup s e k a n t x
      (pte :: l, x)
    | none => buildGroup s e k a (n + 1) t x

/-- Units of several pages with their kinds: the encoder's first pass. -/
def groupUnits (e : Env) (g k lossy : Nat) : List Nat → Wk → List (Bool × KvUnit) × Wk
  | [], w => ([], w)
  | pte :: t, w =>
    let (bs, w) := pageBytes e g k pte w
    let us := pageUnits g lossy bs
    let (rest, w) := groupUnits e g k lossy t (w.spend (passCost us.length))
    (((List.range us.length).zip us).map (fun u => (unitIsKey g u.1, u.2)) ++ rest, w)

/-- The first pass of BUILD. -/
def buildPass (s : State) (e : Env) (k : Nat) (a : ActiveCmd) (w : Wk) : State × ActiveCmd × Wk :=
  let b := a.cmd.iss.block
  let g := (s.part a.cmd.part).kvgeom.toNat
  let (l, x) := buildGroup s e k a (keGroup b) (s.encPages k a.cmd) { w := w }
  if l.isEmpty then (s, a, x.w)
  else
    let (us, w) := groupUnits e g k (keLossy b) l x.w
    match (s.engine k).bind (keTable b) (keLossy b) (buildTables (keLossy b) us) with
    | some en => (s.setEngine k en, a, w)
    | none => (s.updEngine k (fun en => { en with noSlot := satAdd 16 en.noSlot 1 }), { a with plain := true }, w)

/-! ## Transit images (R275) -/

/-- The header of an image. -/
def transitHeader (g np nt layer : Nat) : Nat :=
  0x4B43 + 2 ^ 16 + 2 ^ 24 * np + 2 ^ 28 * nt + 2 ^ 32 * kvHeads g + 2 ^ 36 * kvHdim g + 2 ^ 48 * kvPpp g +
  2 ^ 59 * kvFormat g + 2 ^ 64 * layer

/-- A page record. -/
def transitRecord (form gcount page : Nat) : Nat := form + 2 ^ 8 * gcount + 2 ^ 32 * page

/-- Bytes of granules. -/
def readGrans (e : Env) (k : Nat) : List Nat → Wk → List (List Byte) × Wk
  | [], w => ([], w)
  | n :: t, w =>
    let (b, w) := w.read e (k * 2 ^ 36 + 4096 * n) 4096
    let (bs, w) := readGrans e k t w
    (b :: bs, w)

/-- Records and data of the pages, with the slots their coded granules name. -/
def transitPages (e : Env) (k : Nat) (a : ActiveCmd) : List (Nat × Nat) → Wk → List Byte × List Nat × Wk
  | [], w => ([], [], w)
  | (y, n) :: t, w =>
    match a.page y n with
    | .inr st => ([], [], w.fail st)
    | .inl pte =>
      let (data, slots, w) :=
        if pteForm pte = 2 then
          let (gs, w) := readGrans e k (pteGrans pte) w
          (gs.flatten, (gs.map (fun d => leNat (d.take 4))).filterMap (fun h => if granRaw h then none else some (granSlot h)), w)
        else
          let (bs, w) := w.read e (k * 2 ^ 36 + pteFrame pte) 65536
          (bs, [], w)
      let (rest, more, w) := transitPages e k a t w
      (leBytes 64 (transitRecord (pteForm pte) (if pteForm pte = 2 then pteGcount pte else 0) n) ++ data ++ rest, slots ++ more, w)

/-- EXPORT. -/
def exportPages (s : State) (e : Env) (k : Nat) (a : ActiveCmd) (w : Wk) : State × ActiveCmd × Wk :=
  let b := a.cmd.iss.block
  let g := (s.part a.cmd.part).kvgeom.toNat
  let pages := s.encPages k a.cmd
  let (body, slots, w) := transitPages e k a pages w
  let slots := (sortBy (fun a b => decide (a ≤ b)) slots).dedup
  let images := slots.flatMap (fun i => tableImage i ((Table.get {} (s.engine k).table i).shown k i))
  let image := leBytes 64 (transitHeader g pages.length slots.length (keLayer b)) ++ images ++ body
  let o := plainOpn (a.cmd.iss.descs.getD 2 0)
  if w.fault.isSome || w.wait then (s, a, w)
  else if dExt o.d 0 < image.length then (s, a, w.fail 0x0102)
  else
    let (bs, w) := elemWrites e w o (((List.range image.length).zip image).map (fun p => ([(p.1 : Int), 0, 0, 0, 0, 0], p.2.toNat, none)))
    (s, a, w.put e bs)

/-! ## S_KVENC -/

/-- The table and stored form that a page is coded with: a slot, PLAIN, or nothing to code with. -/
inductive CodeWith where
  | slot (i : Nat) (t : CodecSlot)
  | plain (lossy : Nat)
  | unbound

def Engine.codeWith (g : Engine) (a : ActiveCmd) : CodeWith :=
  let b := a.cmd.iss.block
  if stkFn b = 2 || a.plain then .plain (keLossy b)
  else match g.bound (keTable b) with
    | some (i, t) => .slot i t
    | none => .unbound

/-- Work units of S_KVENC: the first is BUILD's first pass, UNBIND or EXPORT; then one for each page. -/
def keUnit : StkUnit := fun s e k a n =>
  let b := a.cmd.iss.block
  let w : Wk := { mem := s.mem }
  if n = 0 then
    if stkFn b = 0 then buildPass s e k a w
    else if stkFn b = 3 then exportPages s e k a w
    else if stkFn b = 4 then (s.updEngine k (fun g => g.unbind (keTable b)), a, w)
    else (s, a, w)
  else
    let (y, m) := (s.encPages k a.cmd).getD (n - 1) (0, 0)
    let (v, x) := eligible s e k a y m { w := w }
    match v with
    | none => (s, a, x.w)
    | some pte =>
      match (s.engine k).codeWith a with
      | .unbound => (s.updEngine k (fun g => { g with noTable := satAdd 16 g.noTable 1 }), a, x.w)
      | .plain l =>
        let (s, x) := encodePage s e k a y m pte l none x
        (s.countKv a.cmd.part x, a, x.w)
      | .slot i t =>
        let (s, x) := encodePage s e k a y m pte t.lossy (some (i, t)) x
        (s.countKv a.cmd.part x, a, x.w)

/-- The encoder serves one S_KVENC at a time (R269): whether another area's is under way. -/
def Engine.encoderBusy (g : Engine) (area : Nat) : Bool :=
  g.active.any (fun x => x.1 != area && cbOp x.2.cmd.iss.block == 0x5008 && !x.2.done && x.2.fault.isNone &&
    (!x.2.trans.isEmpty || decide (0 < x.2.cmd.iss.iter)))

def kePrep (k area : Nat) (s : State) (a : ActiveCmd) : State :=
  if (s.engine k).encoderBusy area then s
  else s.translate k area (imm a.cmd.iss.block 43 32) (s.encPages k a.cmd)

def keTotal (k area : Nat) (s : State) (a : ActiveCmd) : Option Nat :=
  let pages := s.encPages k a.cmd
  if (s.engine k).encoderBusy area || !a.resolved pages then none
  else if stkFn a.cmd.iss.block = 3 || stkFn a.cmd.iss.block = 4 then some 1
  else some (1 + pages.length)

/-- S_KVENC (R265, R267, R268, R275). -/
def execSKvenc (site : StkSite) (s : State) : Host.Outcome State Fault Refusal :=
  match site with
  | .forward core => .next (s.forward core 0x5008 keUses false 5 (fun s e _ i => keOk s e i))
  | .run stack area => .next (s.stkRun 0x5008 stack area (kePrep stack area) (keTotal stack area) keUnit)

/-! ## S_KVEXP (R270) -/

def kxUses (b : BitVec 512) : List StkUse :=
  [if stkFn b = 1 then { kind := .inStack } else noStk, noStk, { write := true }, noStk]

def kxOk (s : State) (e : Env) (i : Issued) : Bool :=
  let b := i.block
  let d := i.descs.getD 2 0
  let g := (s.part e.part).kvgeom.toNat
  (e.accept.testBit 2 || e.accept.testBit 3) && imm b 255 128 == 0 && (stkFn b == 0 || imm b 51 32 == 0) && imm b 63 52 == 0 &&
  !isPI (dFmt d) && dFmt d != fINT8 && dFmt d != fINT32 && dRank d == 4 &&
  dExt d 0 == kvHdim g && dExt d 1 == imm b 127 96 && dExt d 2 == 2 && dExt d 3 == kvHeads g &&
  (stkFn b == 0 || (dFmt (i.descs.getD 0 0) == fINT8 && dRank (i.descs.getD 0 0) == 1))

/-- Elements of blocks of a page as they are written: first unit `u`, page `n` of the sequence. -/
def blockElems (g start len n u : Nat) (us : List KvUnit) : List (List Int × Nat × Nat) :=
  ((List.range us.length).zip us).flatMap (fun p =>
    let v := (u + p.1) / kvBlocks g
    let blk := (u + p.1) % kvBlocks g
    let h := v / (2 * kvPpp g)
    let val := v / kvPpp g % 2
    let k := n * kvPpp g + v % kvPpp g
    if start ≤ k ∧ k < start + len then
      ((List.range 32).zip p.2.elems).map (fun x =>
        ([((32 * blk + x.1 : Nat) : Int), ((k - start : Nat) : Int), (val : Int), (h : Int), 0, 0], x.2, p.2.scale.getD 0x7F))
    else [])

/-- Elements reach the destination: unchanged between equal formats, else through the FP32 unit. -/
def writeExpanded (e : Env) (w : Wk) (o : Opn) (fmt : Nat) (l : List (List Int × Nat × Nat)) : Wk :=
  if dFmt o.d = fmt then
    let (bs, w) := elemWrites e w o (l.map (fun x => (x.1, x.2.1, some x.2.2)))
    w.put e bs
  else vStoreMem e (w.spend (laneOp * l.length)) o (l.map (fun x => (x.1, .f (flush (widen fmt x.2.1 x.2.2)))))

/-- A RAW page's units. -/
def rawPageUnits (g : Nat) (bs : List Byte) : List KvUnit := pageUnits g 0 bs

/-- Work units of EXPAND: each RAW page whole, each granule of a CODED page, each page that fails. -/
def State.kxSteps (s : State) (k : Nat) (a : ActiveCmd) : List AttStep :=
  (s.readPages k a.cmd).flatMap (fun x => match a.page x.1 x.2 with
    | .inr st => [.bad st]
    | .inl pte => if pteForm pte = 2 then (List.range (pteGcount pte)).map (fun j => .gran x.2 (j == 0)) else [.raw (pteFrame pte) x.2 []])

/-- The next delivered granule reaches the destination as positions of page `page`. -/
def granuleOut (e : Env) (g page : Nat) (a : ActiveCmd) (w : Wk) : ActiveCmd × Wk :=
  let b := a.cmd.iss.block
  let (x, a, w) := a.takeGranule w
  (a, writeExpanded e w (plainOpn (a.cmd.iss.descs.getD 2 0)) (lossyFmt (kvFormat g) x.lossy)
    (blockElems g (saStart b) (saLen b) page x.first x.units))

/-- The bytes of a RAW page reach the destination as positions of page `page`. -/
def rawOut (e : Env) (g page : Nat) (a : ActiveCmd) (bs : List Byte) (w : Wk) : Wk :=
  let b := a.cmd.iss.block
  writeExpanded e w (plainOpn (a.cmd.iss.descs.getD 2 0)) (kvFormat g) (blockElems g (saStart b) (saLen b) page 0 (rawPageUnits g bs))

/-- A work unit of EXPAND: one RAW page, or one granule. -/
def kxUnit : StkUnit := fun s e k a n =>
  let g := (s.part a.cmd.part).kvgeom.toNat
  let w : Wk := { mem := s.mem }
  match (s.kxSteps k a)[n]? with
  | none => (s, a, w)
  | some (.bad st) => (s, a, w.fail st)
  | some (.raw frame page _) =>
    let (bs, w) := w.read e (k * 2 ^ 36 + frame) (2 * kvHeads g * kvHdim g * kvPpp g)
    (s, a, rawOut e g page a bs w)
  | some (.gran page _) =>
    let (a, w) := granuleOut e g page a w
    (s, a, w)

/-- Tables of an image: (SLOT, GEN) and lengths; none where they break R275. -/
def imageTables (e : Env) (o : Opn) : List Nat → Wk → Option (List ((Nat × Nat) × Tables)) × Wk
  | [], w => (some [], w)
  | t :: ts, w =>
    let (bs, w) := imageBytes e o (64 + 2048 * t) 2048 w
    let v := leNat bs
    let q : Tables := { key := imageLens v 0x10, val := imageLens v 0xA0, scl := imageLens v 0x130 }
    let (rest, w) := imageTables e o ts w
    if lensOk q.key && lensOk q.val && lensOk q.scl then (rest.map (fun l => ((granSlot v, granGen v), q) :: l), w) else (none, w)

/-- Whether an image's header is good for a partition (R275). -/
def transitOk (g h : Nat) : Bool :=
  fld h 15 0 == 0x4B43 && fld h 23 16 == 1 && decide (1 ≤ fld h 27 24) && decide (fld h 27 24 ≤ 8) && decide (fld h 31 28 ≤ 8) &&
  fld h 35 32 == kvHeads g && fld h 47 36 == kvHdim g && fld h 58 48 == kvPpp g && fld h 63 59 == kvFormat g

/-- The first work unit of IMPORT: the header is checked, the tables are loaded into the operand area. -/
def importTables (e : Env) (g : Nat) (o : Opn) (a : ActiveCmd) (w : Wk) : ActiveCmd × Wk :=
  let (hb, w) := imageBytes e o 0 64 w
  let h := leNat hb
  if !transitOk g h then (a, w.fail 0x0102)
  else match imageTables e o (List.range (fld h 31 28)) w with
    | (none, w) => (a, w.fail 0x0102)
    | (some t, w) => ({ a with image := some { tables := t, pages := fld h 27 24, next := 64 + 2048 * fld h 31 28 } }, w)

/-- A page of an image begins: its record is read; a RAW page is written, a CODED page's granules go to the expander. A FORM that
R275 does not list fails as R274 has it (log 26). -/
def importPage (e : Env) (g : Nat) (o : Opn) (a : ActiveCmd) (i : Import) (w : Wk) : ActiveCmd × Wk :=
  let (rb, w) := imageBytes e o i.next 64 w
  let r := leNat rb
  let form := fld r 1 0
  let data := i.next + 64
  let size := if form = 2 then 4096 * fld r 12 8 else 65536
  let i := { i with page := some (form, fld r 12 8, fld r 63 32, data), next := data + size }
  let a := { a with image := some i, fetched := 0, used := 0, granules := [] }
  if form = 1 then
    let (bs, w) := imageBytes e o data (2 * kvHeads g * kvHdim g * kvPpp g) w
    (a, rawOut e g (fld r 63 32) a bs w)
  else if form = 2 then (a, w)
  else (a, w.fail 0x0201)

/-- Work units of IMPORT: the header and the tables; then for each page its record, with a RAW page's data, and one for each
granule that a record can name. -/
def kiUnit : StkUnit := fun s e _ a n =>
  let g := (s.part a.cmd.part).kvgeom.toNat
  let o := plainOpn (a.cmd.iss.descs.getD 0 0)
  let w : Wk := { mem := s.mem }
  let (a, w) := match a.image with
    | none => importTables e g o a w
    | some i =>
      let j := (n - 1) % 32
      if i.pages ≤ (n - 1) / 32 then (a, w)
      else if j = 0 then importPage e g o a i w
      else match i.page with
        | some (2, count, page, _) => if j ≤ count then granuleOut e g page a w else (a, w)
        | _ => (a, w)
  (s, a, w)

/-- Units of EXPAND once every page has its answer; of IMPORT, those of eight pages of up to 31 granules. -/
def kxTotal (k : Nat) (s : State) (a : ActiveCmd) : Option Nat :=
  if stkFn a.cmd.iss.block = 1 then some (1 + 8 * 32)
  else if a.resolved (s.readPages k a.cmd) then some (s.kxSteps k a).length else none

/-- S_KVEXP (R270, R275). -/
def execSKvexp (site : StkSite) (s : State) : Host.Outcome State Fault Refusal :=
  match site with
  | .forward core => .next (s.forward core 0x5009 kxUses false 2 (fun s e _ i => kxOk s e i))
  | .run stack area =>
    .next (s.stkRun 0x5009 stack area (readPrep stack area) (kxTotal stack)
      (fun s e k a n => if stkFn a.cmd.iss.block = 1 then kiUnit s e k a n else kxUnit s e k a n))

end Sys2Proof.Machine
end

