-- ==== Sys2Proof/Machine/Slots.lean ====
section
/-! DEFINITION. Sequence slots and their pages: opening, sharing, step assembly, commit, copies on write, bivouac and the
prefix directory (R232 to R249). -/

namespace Sys2Proof.Machine

/-! ## Pieces of a boundary -/

/-- A boundary under way: the part as it becomes, and whether no piece waits for lines that the host holds. One that
waits leaves no trace but its snoops, and runs again (R358). -/
structure Bd where
  s : State
  ok : Bool := true

def Bd.on (b : Bd) (f : State → State) : Bd := { b with s := f b.s }

/-- A piece of work on pools and tables. -/
def Bd.kv {α : Type} (b : Bd) (p : Nat) (f : Env → KvWork → α × KvWork) : α × Bd :=
  let (a, x) := f (b.s.dieEnv p) { w := { mem := b.s.mem } }
  let (s, ok) := b.s.kvDo p x
  (a, { s := s, ok := b.ok && ok })

def Bd.kvOn (b : Bd) (p : Nat) (f : Env → KvWork → KvWork) : Bd := (b.kv p (fun e x => ((), f e x))).2

/-- Bytes that the scheduler reads at an address of the partition, or the status of the read. -/
def Bd.read (b : Bd) (p a n : Nat) : (List Byte ⊕ Nat) × Bd :=
  let (bs, w) := Wk.read (b.s.partEnv p) { mem := b.s.mem } a n
  (match w.fault with | some st => .inr st | none => .inl bs,
   { s := b.s.takeWork w, ok := b.ok && (w.fault.isSome || !w.wait) })

/-- The whole of it takes effect, or its snoops go out. -/
def State.whole (s : State) (f : Bd → Bd) : State × Bool :=
  let b := f { s := s }
  if b.ok then (b.s, true) else (s.sendSnoops b.s.host.snoops, false)

/-! ## Slots -/

def State.slot (s : State) (p k : Nat) : Slot := Table.get {} (s.part p).slots k
def State.setSlot (s : State) (p k : Nat) (q : Slot) : State := s.updPart p (fun t => { t with slots := Table.set t.slots k q })
def State.updSlot (s : State) (p k : Nat) (f : Slot → Slot) : State := s.setSlot p k (f (s.slot p k))
/-- The slots of a partition that are not FREE, ascending. -/
def State.openSlots (s : State) (p : Nat) : List Nat := (s.part p).slots.map Prod.fst
/-- The function that opened a sequence. -/
def slotFn (p : Nat) (q : Slot) : Nat := p + 4 * q.func

def kvg (s : State) (p : Nat) : Nat := (s.part p).kvgeom.toNat

/-- Layers and logical pages [a, b), layer by layer. -/
def pageCells (g a b : Nat) : List (Nat × Nat) :=
  (List.range (kvLayers g)).flatMap (fun y => (List.range (b - a)).map (fun i => (y, a + i)))

/-- A record of the variant table (R238). -/
def State.variantRec (s : State) (p v : Nat) : Nat := Table.get 0 (s.part p).variants v
def vrValid (r : Nat) : Bool := bit r 0
def vrPages (r : Nat) : Nat := fld r 31 16
def vrBase (r : Nat) : Nat := fld r 93 64 * 64

/-- Variant pages of a sequence. -/
def State.variantPages (s : State) (p : Nat) (q : Slot) : Nat := if q.varen then vrPages (s.variantRec p q.variant) else 0

/-! ## Releases (R232, R236) -/

/-- The entries of pages [a, b) of a slot are released, and ABSENT is written. -/
def dropPages (s : State) (p k a b : Nat) (e : Env) (x : KvWork) : KvWork :=
  (pageCells (kvg s p) a b).foldl (fun x c => x.drop e (s.part p) (s.pteAddrOf p k c.1 c.2)) x

/-- Units return to their pools. -/
def giveUnits (t : Part) (e : Env) (l : List (Nat × Nat × Bool)) (x : KvWork) : KvWork :=
  l.foldl (fun x u => x.giveBack e (if u.2.2 then t.framePool else t.granPool) u.1 u.2.1) x

/-- A slot closes: every entry is released, the units of a transfer return, the table uses of parked granules end. -/
def Bd.close (b : Bd) (p k : Nat) : Bd :=
  let q := b.s.slot p k
  let b := b.kvOn p (fun e x =>
    let x := dropPages b.s p k 0 (kvMaxPages (kvg b.s p)) e x
    let x := { x with uses := x.uses ++ q.uses.map (fun u => (u.1, u.2, -1)) }
    giveUnits (b.s.part p) e q.units x)
  b.on (fun s => s.updPart p (fun t => { t with slots := Table.del t.slots k, parked := t.parked.filter (· != k) }))

/-! ## Shares (R240) -/

/-- A share of an entry's page: none, or the status that stops it; 0x0102 stands for a count that is full. -/
def KvWork.share (e : Env) (t : Part) (x : KvWork) (pte : Nat) : Option Nat × KvWork :=
  if (pteForm pte != 1 && pteForm pte != 2) || pteVariant pte then (none, x)
  else
    let (q, u) := t.counter pte
    let (r, x) := x.tryRead e (q.countAddr (pteStack pte) u) 2
    match r with
    | (some bs, _) => if 65535 ≤ leNat bs then (some 0x0102, x) else (none, x.setCount e q (pteStack pte) u (leNat bs + 1))
    | (none, st) => (some (st.getD 0x0201), x)

/-- Shares of several entries, up to the first that cannot be had. -/
def KvWork.shareAll (e : Env) (t : Part) : List Nat → KvWork → Option Nat × KvWork
  | [], x => (none, x)
  | pte :: rest, x =>
    match x.share e t pte with
    | (none, x) => KvWork.shareAll e t rest x
    | (some st, x) => (some st, x)

/-- What work has read stays, what it was about to write does not. -/
def KvWork.rollback (old new : KvWork) : KvWork :=
  { new with w := { new.w with pend := old.w.pend }, frames := old.frames, grans := old.grans, uses := old.uses, drops := old.drops }

/-- The entry of a page under a share. -/
def pteShare (pte : Nat) : Nat := pte ||| 4

/-! ## The prefix directory (R241 to R244) -/

/-- chunk_hash of R241. -/
def chunkHash (h : Nat) (tokens : List Nat) : Nat :=
  let h := tokens.foldl (fun h t => ((h ^^^ t) * 0x100000001B3) % 2 ^ 64) h
  let h := (h ^^^ (h >>> 29)) % 2 ^ 64
  let h := (h * 0xBF58476D1CE4E5B9) % 2 ^ 64
  h ^^^ (h >>> 32)

/-- h0: the seed is the variant, or 0xFFFF. -/
def hashSeed (varen : Bool) (variant : Nat) : Nat := 0xCBF29CE484222325 ^^^ (if varen then variant else 0xFFFF)

/-- Whether the partition has a prefix directory (R28, R362). -/
def State.treeOn (s : State) (p : Nat) : Bool := s.mode != 0 && s.accepts p 4

/-- Bytes of one directory entry in the backing (R244). -/
def dirBytes (g : Nat) : Nat := 64 * (1 + kvLayers g + ceilDiv (4 * kvPpp g) 64)

/-- Where the backing holds directory entry `i`; the order is the part's own (log 10). -/
def State.dirAddr (s : State) (p i : Nat) : Nat :=
  (partStacks s.mode p).headD 0 * 2 ^ 36 + fld (s.part p).pdbase.toNat 35 16 * 65536 + i * dirBytes (kvg s p)

/-- A directory entry's backing is read: none, or the status of a failed read. -/
def dirRead (s : State) (p i : Nat) (e : Env) (x : KvWork) : Option Nat × KvWork :=
  let (r, x) := x.tryRead e (s.dirAddr p i) (dirBytes (kvg s p))
  (match r with | (some _, _) => none | (none, st) => some (st.getD 0x0201), x)

/-- A directory entry's backing is written, in whole lines of the part's own. -/
def dirWrite (s : State) (p i : Nat) (e : Env) (x : KvWork) : KvWork :=
  x.put e (s.dirAddr p i) ((List.range (dirBytes (kvg s p))).map (Config.freeByte x.w.mem.fresh))

/-- The entry with a hash at a page. -/
def dirFind (l : List DirEntry) (h page : Nat) : Option DirEntry := l.find? (fun d => d.hash == h && d.page == page)

/-! ## Allocation (R235, R246) -/

/-- What an assembly finds for one sequence: its pages, a shortage, or a failed read. -/
inductive Prep where
  | ok
  | short
  | failed (status : Nat)
  deriving DecidableEq, Repr

/-- A page that needs a frame: its layer and number, its entry, and the frame once taken. -/
structure Need where
  layer : Nat
  page : Nat
  pte : Nat
  frame : Nat := 0
  deriving DecidableEq, Repr

/-- The needs of an append; the status of a failed read of an entry. -/
def findNeeds (s : State) (p k : Nat) (e : Env) : List (Nat × Nat) → KvWork → (List Need ⊕ Nat) × KvWork
  | [], x => (.inl [], x)
  | (y, n) :: t, x =>
    let (r, x) := x.tryRead e (s.pteAddrOf p k y n) 64
    match r with
    | (none, st) => (.inr (st.getD 0x0201), x)
    | (some bs, _) =>
      let pte := leNat bs
      let (c, x) := if pteForm pte = 1 then x.count e (s.part p).framePool (pteStack pte) (pteFrame pte / 65536) else (0, x)
      match findNeeds s p k e t x with
      | (.inr st, x) => (.inr st, x)
      | (.inl l, x) =>
        if pteForm pte = 0 ∨ pteForm pte = 2 ∨ (pteForm pte = 1 ∧ (1 < c ∨ pteVariant pte)) then
          (.inl ({ layer := y, page := n, pte := pte } :: l), x)
        else (.inl l, x)

/-- Frames for all needs, or none. -/
def takeFrames (s : State) (p : Nat) (e : Env) : List Need → KvWork → Option (List Need) × KvWork
  | [], x => (some [], x)
  | d :: t, x =>
    match x.take e (s.part p).framePool (pageStack s.mode p d.page) with
    | (none, x) => (none, x)
    | (some u, x) =>
      match takeFrames s p e t x with
      | (some l, x) => (some ({ d with frame := u } :: l), x)
      | (none, x) => (none, x)

/-- The pages of an append of `a` positions, page by page and layer by layer within each (R235). -/
def appendCells (s : State) (p : Nat) (c a : Nat) : List (Nat × Nat) :=
  let ppp := max 1 (kvPpp (kvg s p))
  (List.range ((c + a - 1) / ppp + 1 - c / ppp)).flatMap (fun i => (List.range (kvLayers (kvg s p))).map (fun y => (y, c / ppp + i)))

/-- Granules of a page as the expander takes them. -/
def readGranules (e : Env) (en : Engine) (k : Nat) : List Nat → KvWork → List Gran × KvWork
  | [], x => ([], x)
  | g :: t, x =>
    let (r, x) := x.tryRead e (k * 2 ^ 36 + 4096 * g) 4096
    let one : Gran := match r with
      | (some bs, _) => { bad := none, slot := en.namedSlot (leNat (bs.take 4)), data := bs }
      | (none, st) => { bad := some (st.getD 0x0201), slot := none, data := [] }
    let (rest, x) := readGranules e en k t x
    (one :: rest, x)

/-- An element of an expanded page in the page's format (R42, R44, R270). The copy has no descriptor, so no SAT of R44: a finite value
past the range of E5M2 becomes infinity here (DESIGN CHOICE, log 26). -/
def pageElem (fmt lossy : Nat) (code scale : Nat) : Byte :=
  let f := lossyFmt fmt lossy
  BitVec.ofNat 8 (if f = fmt then code else (narrow fmt .nearest false (ofF32 (flush (widen f code scale)))).1)

/-- The bytes of a CODED page in the page's format, from unit `u` and its granules on; the status of a failure (R274). -/
def expandPage (g : Nat) (tables : Nat → Nat → Option Tables) (stored : Option Nat) (u : Nat) : List Gran → List Byte ⊕ Nat
  | [] => .inl []
  | x :: t =>
    match x.bad, expandGranule g tables stored u t.isEmpty x.data with
    | some st, _ => .inr st
    | none, none => .inr 0x0201
    | none, some us =>
      let lossy := granLossy (leNat (x.data.take 4))
      let bs := us.flatMap (fun v => v.elems.map (fun c => pageElem (kvFormat g) lossy c (v.scale.getD 0x7F)))
      match expandPage g tables (some lossy) (u + us.length) t with
      | .inl more => .inl (bs ++ more)
      | .inr st => .inr st

/-- Whether every line of a frame can be written (R335). -/
def frameOnline (m : MemSys) (k frame : Nat) : Bool :=
  (List.range 1024).all (fun i => !(m.stack k).offline (frame * 1024 + i))

/-- The bytes that a copy on write of an entry's page writes. -/
def copyBytes (s : State) (p : Nat) (e : Env) (pte : Nat) (x : KvWork) : (List Byte ⊕ Nat) × KvWork :=
  let k := pteStack pte
  if pteForm pte = 2 then
    let en := s.engine k
    let (gs, x) := readGranules e en k (pteGrans pte) x
    (expandPage (kvg s p) en.tablesAt none 0 gs, { x with grown := x.grown ++ [(k, gs.length)] })
  else
    let (r, x) := x.tryRead e (k * 2 ^ 36 + pteFrame pte) 65536
    (match r with | (some bs, _) => .inl bs | (none, st) => .inr (st.getD 0x0201), x)

/-- One need is met: the copy where the page has contents, which the stack's walker finds (R183), the entry, the release of the
old page. -/
def meetNeed (s : State) (p k : Nat) (e : Env) (d : Need) (x : KvWork) : Option Nat × KvWork :=
  let st := pageStack s.mode p d.page
  let a := s.pteAddrOf p k d.layer d.page
  let entry := pteRaw false false st d.frame
  if pteForm d.pte = 0 then (none, x.setEntry e a entry)
  else
    let l : LabEntry := { part := p, slot := k, layer := d.layer, page := d.page, pte := d.pte }
    let pte := (((s.engine st).labFind p k d.layer d.page).getD l).pte
    match copyBytes s p e pte { x with walks := x.walks ++ [(st, l)] } with
    | (.inr f, x) => (some f, x)
    | (.inl bs, x) =>
      if frameOnline x.w.mem st d.frame then
        let x := x.put e (st * 2 ^ 36 + d.frame * 65536) bs
        (none, { (x.setEntry e a entry).release e (s.part p) d.pte with drops := x.drops ++ [(st, l)] })
      else (some 0x0204, x)

/-- All needs are met, or the status of the first failure. -/
def meetNeeds (s : State) (p k : Nat) (e : Env) : List Need → KvWork → Option Nat × KvWork
  | [], x => (none, x)
  | d :: t, x =>
    match meetNeed s p k e d x with
    | (some st, x) => (some st, x)
    | (none, x) => meetNeeds s p k e t x

/-- Step assembly for one sequence, all or nothing (R235). -/
def prepare (s : State) (p k c a : Nat) (e : Env) (x : KvWork) : Prep × KvWork :=
  match findNeeds s p k e (appendCells s p c a) x with
  | (.inr st, y) => (.failed st, x.rollback y)
  | (.inl needs, y) =>
    match takeFrames s p e needs y with
    | (none, z) => (.short, x.rollback z)
    | (some needs, z) =>
      match meetNeeds s p k e needs z with
      | (none, z) => (.ok, z)
      | (some st, z) => (.failed st, x.rollback z)

/-- LAB entries of pages [a, b) of a slot go (R184). -/
def State.labForget (s : State) (p k a b : Nat) : State :=
  let ls := pageCells (kvg s p) a b
  (partStacks s.mode p).foldl (fun s j => s.updEngine j (fun en => ls.foldl (fun en c => en.labDrop p k c.1 c.2) en)) s

def Bd.prepare (b : Bd) (p k c a : Nat) : Prep × Bd := b.kv p (Sys2Proof.Machine.prepare b.s p k c a)

/-- Commit (R235, R236): the pages beyond the committed length are released. -/
def Bd.rollPages (b : Bd) (p k c last : Nat) : Bd :=
  b.kvOn p (dropPages b.s p k (ceilDiv c (max 1 (kvPpp (kvg b.s p)))) (last + 1))

/-! ## Bivouac (R247 to R249) -/

def State.bivouacOn (s : State) (p : Nat) : Bool := s.accepts p 10 && (s.part p).bivbase.toNat.testBit 0
/-- Bytes of a slot's area, and its host address. -/
def State.areaSize (s : State) (p : Nat) : Nat := fld (s.part p).bivsize.toNat 31 0 * 65536
def State.areaAt (s : State) (p k : Nat) : Nat := (s.part p).bivbase.toNat / 4096 * 4096 + k * s.areaSize p

/-- Bytes of a page in the area. -/
def pteBytes (gcount : Nat) : Nat := if gcount = 0 then 65536 else 4096 * gcount

/-- The pages of a parking: each one's entry, and the offset in the area that it takes; the bytes they fill; an entry that could
not be read. -/
structure ParkPlan where
  pages : List (Nat × Nat × Nat) := []      -- entry address, entry, offset
  size : Nat := 0
  bad : Bool := false
  deriving DecidableEq, Repr

/-- A page that parks: one in the pools, neither SHARED nor VARIANT, that no other entry holds (log 25). -/
def parkPage (s : State) (p k : Nat) (e : Env) (y n : Nat) (d : ParkPlan) (x : KvWork) : ParkPlan × KvWork :=
  let a := s.pteAddrOf p k y n
  match x.entry e a with
  | (none, x) => ({ d with bad := true }, x)
  | (some pte, x) =>
    if (pteForm pte != 1 && pteForm pte != 2) || pteShared pte || pteVariant pte then (d, x)
    else
      let (q, u) := (s.part p).counter pte
      let (c, x) := x.count e q (pteStack pte) u
      if c ≠ 1 then (d, x)
      else ({ d with pages := d.pages ++ [(a, pte, d.size)], size := d.size + pteBytes (pteGcount pte) }, x)

/-- The parking of a slot's private pages, layer by layer: what it takes, before any page is read (R248). -/
def parkPlan (s : State) (p k : Nat) (e : Env) (x : KvWork) : ParkPlan × KvWork :=
  (pageCells (kvg s p) 0 (kvMaxPages (kvg s p))).foldl (fun z c => parkPage s p k e c.1 c.2 z.1 z.2) ({}, x)

/-- Bytes at several places, one after the other; none where a read fails. -/
def readPlaces (e : Env) (n : Nat) : List Nat → KvWork → Option (List Byte) × KvWork
  | [], x => (some [], x)
  | a :: t, x =>
    let (r, x) := x.tryRead e a n
    let (rest, x) := readPlaces e n t x
    (r.1.bind (fun bs => rest.map (bs ++ ·)), x)

/-- The units of an entry's page: stack, unit, whether a frame. -/
def pteUnits (pte : Nat) : List (Nat × Nat × Bool) :=
  if pteForm pte = 2 then (pteGrans pte).map (fun g => (pteStack pte, g, false)) else [(pteStack pte, pteFrame pte / 65536, true)]

/-- The data of a parking's pages, in order; none where one cannot be read. -/
def parkData (e : Env) : List (Nat × Nat × Nat) → KvWork → Option (List (List Byte)) × KvWork
  | [], x => (some [], x)
  | (_, pte, _) :: t, x =>
    let size := if pteForm pte = 2 then 4096 else 65536
    let (bs, x) := readPlaces e size ((pteUnits pte).map (fun u => u.1 * 2 ^ 36 + size * u.2.1)) x
    let (rest, x) := parkData e t x
    (bs.bind (fun b => rest.map (b :: ·)), x)

/-- The table slots that the coded granules of a page's data name. -/
def dataSlots (pte : Nat) (bs : List Byte) : List (Nat × Nat) :=
  if pteForm pte = 2 then
    (chunks 4096 16 bs).filterMap (fun g => let h := leNat (g.take 4); if granRaw h then none else some (pteStack pte, granSlot h))
  else []

/-- Bivouac transfers count as host bytes of their sequence (R297). -/
def State.seqHost (s : State) (p ident tx rx : Nat) : State :=
  s.updPart p (fun t => t.charge ident [0, 0, 0, 0, 0, 0, 0, 0, tx, rx, 0])

/-- What happened to a parking: it began, the pages do not fit, or a read failed. -/
inductive Parked where
  | begun
  | noRoom
  | failed (status : Nat)
  deriving DecidableEq, Repr

/-- Parking begins (R248). R248 names a status for uncorrectable page data alone: 0x0201 stands here for every read that fails, also in
a failed channel, and for a page-table entry that cannot be read (DESIGN CHOICE, log 25). -/
def Bd.park (b : Bd) (p k : Nat) : Parked × Bd :=
  let s := b.s
  let ((d, data), b) := b.kv p (fun e x =>
    let (d, y) := parkPlan s p k e x
    if s.areaSize p < d.size then ((d, none), x.rollback y)
    else match parkData e d.pages y with
      | (some l, z) =>
        if d.bad then ((d, none), x.rollback z)
        else ((d, some l), d.pages.foldl (fun x a => x.setEntry e a.1 (pteParked (pteStack a.2.1) (pteGcount a.2.1) a.2.2)) z)
      | (none, z) => ((d, none), x.rollback z))
  if s.areaSize p < d.size then (.noRoom, b.on (fun s => s.updSlot p k (fun q => { q with park := false })))
  else match data with
    | none => (.failed 0x0201, b)
    | some l =>
      (.begun, b.on (fun s =>
        let pages := d.pages.zip l
        let s := pages.foldl (fun s x => s.emit (.hostWrite .memWrite p (s.areaAt p k + x.1.2.2) x.2)) s
        let s := s.seqHost p (s.slot p k).ident d.size 0
        s.updSlot p k (fun q => { q with
          state := .parking, wasGen := q.state == .generate, park := false, status := 0x0303, moved := false
          units := d.pages.flatMap (fun x => pteUnits x.2.1), uses := pages.flatMap (fun x => dataSlots x.1.2.1 x.2) })))

/-- The PARKED entries of a slot in their order: layer, page, entry. -/
def parkedEntries (s : State) (p k : Nat) (e : Env) (x : KvWork) : List (Nat × Nat × Nat) × KvWork :=
  (pageCells (kvg s p) 0 (kvMaxPages (kvg s p))).foldl (fun (z : List (Nat × Nat × Nat) × KvWork) c =>
    let (v, x) := z.2.entry e (s.pteAddrOf p k c.1 c.2)
    match v with
    | some pte => (if pteForm pte = 3 then z.1 ++ [(c.1, c.2, pte)] else z.1, x)
    | none => (z.1, x)) ([], x)

/-- Units for parked pages, in order; none where a pool has too few. -/
def returnUnits (t : Part) (mode p : Nat) (e : Env) : List (Nat × Nat × Nat) → KvWork → Option (List (Nat × Nat × Bool)) × KvWork
  | [], x => (some [], x)
  | (_, n, pte) :: rest, x =>
    let k := pageStack mode p n
    let raw := pteGcount pte == 0
    match x.takeN e (if raw then t.framePool else t.granPool) k (max 1 (pteGcount pte)) with
    | (none, x) => (none, x)
    | (some us, x) =>
      match returnUnits t mode p e rest x with
      | (none, x) => (none, x)
      | (some l, x) => (some (us.map (fun u => (k, u, raw)) ++ l), x)

/-- Whether the pools hold the frames of a sequence's next append besides what is taken (R249); none where it has no positions left.
A page of the append
that is parked needs a copy only if its granules must be expanded. -/
def appendFits (s : State) (p k c a : Nat) (e : Env) (x : KvWork) : Bool :=
  if a = 0 then true
  else match findNeeds s p k e (appendCells s p c a) x with
  | (.inr _, _) => true
  | (.inl l, y) =>
    let coded := (appendCells s p c a).filter (fun z =>
      match (y.entry e (s.pteAddrOf p k z.1 z.2)).1 with
      | some pte => pteForm pte == 3 && pteGcount pte != 0
      | none => false)
    (takeFrames s p e (l ++ coded.map (fun z => { layer := z.1, page := z.2, pte := 0 })) y).1.isSome

/-- A parked sequence whose needs can be met begins its return (R249); false while the pools hold too little. -/
def Bd.bringBack (b : Bd) (p k a : Nat) : Bool × Bd :=
  let s := b.s
  let q := s.slot p k
  let (us, b) := b.kv p (fun e x =>
    let (l, y) := parkedEntries s p k e x
    match returnUnits (s.part p) s.mode p e l y with
    | (none, z) => (none, x.rollback z)
    | (some us, z) => if appendFits s p k q.c a e z then (some (us, l), z) else (none, x.rollback z))
  match us with
  | none => (false, b)
  | some (us, l) =>
    let n := (l.map (fun v => pteBytes (pteGcount v.2.2))).foldl (· + ·) 0
    (true, b.on (fun s =>
      let s := l.foldl (fun s v => s.emit (.hostRead .memRead p (s.areaAt p k + pteAddr v.2.2) (pteBytes (pteGcount v.2.2)))) s
      let s := s.seqHost p q.ident 0 n
      let s := s.updPart p (fun t => { t with parked := t.parked.filter (· != k) })
      s.updSlot p k (fun q => { q with state := .returning, moved := false, units := us })))

/-- The pages that came back are written, their entries restored. -/
def restorePages (s : State) (p k : Nat) (e : Env) (data : List Byte) :
    List (Nat × Nat × Nat) → List (Nat × Nat × Bool) → KvWork → KvWork
  | [], _, x => x
  | (y, n, pte) :: rest, us, x =>
    let cnt := max 1 (pteGcount pte)
    let mine := us.take cnt
    let size := if pteGcount pte = 0 then 65536 else 4096
    let bs := fit 0 (pteBytes (pteGcount pte)) (data.drop (pteAddr pte))
    let x := ((List.range cnt).zip mine).foldl (fun (x : KvWork) u =>
      x.put e (u.2.1 * 2 ^ 36 + u.2.2.1 * size) ((bs.drop (size * u.1)).take size)) x
    let k' := pageStack s.mode p n
    let entry := if pteGcount pte = 0 then pteRaw false false k' ((mine.map (fun u => u.2.1)).headD 0)
      else pteCoded false false k' (mine.map (fun u => u.2.1))
    restorePages s p k e data rest (us.drop cnt) (x.setEntry e (s.pteAddrOf p k y n) entry)

/-! ## Publishing (R243) -/

/-- The entries of a page in every layer, if it may be published: CODED, or RAW while the partition has no codec. -/
def publishable (s : State) (p k n : Nat) (e : Env) (x : KvWork) : Option (List Nat) × KvWork :=
  let raw := !s.accepts p 2 && !s.accepts p 3
  (List.range (kvLayers (kvg s p))).foldl (fun (z : Option (List Nat) × KvWork) y =>
    let (v, x) := z.2.entry e (s.pteAddrOf p k y n)
    (match z.1, v with
     | some l, some pte => if (pteForm pte = 2 ∨ (raw ∧ pteForm pte = 1)) ∧ !pteVariant pte then some (l ++ [pte]) else none
     | _, _ => none, x)) (some [], x)

/-- The shares of a directory entry are released: of each whose line in the backing can be read; ABSENT goes over each (R232). The
backing has a line for each layer's share after its first (log 10). -/
def dirRelease (s : State) (p : Nat) (d : DirEntry) (e : Env) (x : KvWork) : KvWork :=
  ((List.range d.ptes.length).zip d.ptes).foldl (fun x v =>
    let a := s.dirAddr p d.place + 64 * (1 + v.1)
    let (line, x) := x.entry e a
    (if line.isSome then x.release e (s.part p) v.2 else x).setEntry e a 0) x

/-- The least recently hit entry leaves a full directory. -/
def Bd.evict (b : Bd) (p : Nat) : Bd :=
  let t := b.s.part p
  if t.dir.length < 65536 then b
  else match t.dir with
    | [] => b
    | d :: rest =>
      let b := b.kvOn p (dirRelease b.s p d)
      b.on (fun s => s.updPart p (fun t => { t with dir := rest, evictions := satAdd 16 t.evictions 1 }))

/-- A free place of the backing. -/
def freePlace (l : List DirEntry) : Nat := ((List.range (l.length + 1)).find? (fun i => !l.any (fun d => d.place == i))).getD 0

/-- One chunk of a slot is published if R243 allows it. R243 evicts the least recently hit entry and does not say where one stands that
was never hit: publication counts as a hit here (DESIGN CHOICE, log 25). -/
def Bd.publishChunk (b : Bd) (p k n h : Nat) (tokens : List Nat) : Bd :=
  if (dirFind (b.s.part p).dir h n).isSome then b
  else
    let (v, c) := b.kv p (publishable b.s p k n)
    match v with
    | none => c
    | some ptes =>
      let d := c.evict p
      let place := freePlace (d.s.part p).dir
      let (r, d) := d.kv p (fun e x =>
        match x.shareAll e (d.s.part p) ptes with
        | (none, y) => (true, dirWrite d.s p place e y)
        | (some _, y) => (false, x.rollback y))
      if r then
        d.on (fun s => s.updPart p (fun t => { t with dir := t.dir ++ [{ hash := h, page := n, tokens := tokens, ptes := ptes.map pteShare, place := place }] }))
      else d

/-- The chunks of a slot in order: page, hash and tokens of each. -/
def chunkList (vp : Nat) : Nat → Nat → List (List Nat) → List (Nat × Nat × List Nat)
  | _, _, [] => []
  | i, h, c :: t => (vp + i, chunkHash h c, c) :: chunkList vp (i + 1) (chunkHash h c) t

/-- Publishing of one slot. -/
def Bd.publishSlot (b : Bd) (p k : Nat) : Bd :=
  let q := b.s.slot p k
  if !q.publish || !b.s.treeOn p || q.state == .free then b
  else
    let ppp := max 1 (kvPpp (kvg b.s p))
    let full := q.history.length / ppp
    (chunkList (b.s.variantPages p q) 0 (hashSeed q.varen q.variant) (chunks ppp full (q.history.take (full * ppp)))).foldl
      (fun b c => b.publishChunk p k c.1 c.2.1 c.2.2) b

/-! ## Opening (R232, R239, R242, R245) -/

/-- How the tables of an opening came out: written, refused, or met by a failed read. -/
inductive Opened where
  | ok (hits : Nat)
  | refused
  | failed (status : Nat)
  deriving DecidableEq, Repr

/-- Address of a variant's template entry (R239). -/
def State.templateAt (s : State) (p r y n : Nat) : Nat :=
  let ns := (partStacks s.mode p).length
  pageStack s.mode p n * 2 ^ 36 + vrBase r + (y * ceilDiv (vrPages r) ns + n / ns) * 64

/-- Entries read at several addresses, or the status of the first failure. -/
def readEntries (e : Env) : List Nat → KvWork → (List Nat ⊕ Nat) × KvWork
  | [], x => (.inl [], x)
  | a :: t, x =>
    let (r, x) := x.tryRead e a 64
    match r with
    | (none, st) => (.inr (st.getD 0x0201), x)
    | (some bs, _) =>
      match readEntries e t x with
      | (.inl l, x) => (.inl (leNat bs :: l), x)
      | (.inr st, x) => (.inr st, x)

/-- Shares of directory hits, in order: how many, or the status of a count that cannot be read (R285). A share that would pass
65,535 is not taken (R240) and ends the hits. -/
def shareHits (e : Env) (t : Part) : List DirEntry → KvWork → (Nat ⊕ Nat) × KvWork
  | [], x => (.inl 0, x)
  | d :: rest, x =>
    match x.shareAll e t d.ptes with
    | (none, y) =>
      match shareHits e t rest y with
      | (.inl n, z) => (.inl (n + 1), z)
      | r => r
    | (some 0x0102, y) => (.inl 0, x.rollback y)
    | (some st, y) => (.inr st, y)

/-- Every entry of the slot is written. -/
def writeEntries (s : State) (p k : Nat) (e : Env) (l : List ((Nat × Nat) × Nat)) (x : KvWork) : KvWork :=
  (pageCells (kvg s p) 0 (kvMaxPages (kvg s p))).foldl (fun x c =>
    x.setEntry e (s.pteAddrOf p k c.1 c.2) (((l.find? (fun v => v.1 == c)).map Prod.snd).getD 0)) x

/-- The tables of an opening: variant pages, a donor's pages [vp, upTo), directory hits. -/
def openTables (s : State) (p k : Nat) (vrec : Option Nat) (donor : Option (Nat × Nat)) (hits : List DirEntry) (e : Env) (x : KvWork) :
    Opened × KvWork :=
  let g := kvg s p
  let vp := match vrec with | some r => vrPages r | none => 0
  let vcells := pageCells g 0 vp
  let (tv, y) := readEntries e (vcells.map (fun c => s.templateAt p (vrec.getD 0) c.1 c.2)) x
  match tv with
  | .inr st => (.failed st, writeEntries s p k e [] (x.rollback y))
  | .inl tpl =>
    let dcells := match donor with | some (_, upTo) => pageCells g vp upTo | none => []
    let (dv, y) := readEntries e (dcells.map (fun c => s.pteAddrOf p ((donor.map Prod.fst).getD 0) c.1 c.2)) y
    match dv with
    | .inr st => (.failed st, writeEntries s p k e [] (x.rollback y))
    | .inl dl =>
      match y.shareAll e (s.part p) dl with
      | (some 0x0102, z) => (.refused, x.rollback z)
      | (some st, z) => (.failed st, writeEntries s p k e [] (x.rollback z))
      | (none, z) =>
       match shareHits e (s.part p) hits z with
       | (.inr st, z) => (.failed st, writeEntries s p k e [] (x.rollback z))
       | (.inl n, z) =>
        let hc := ((List.range n).zip hits).flatMap (fun v =>
          ((List.range v.2.ptes.length).zip v.2.ptes).map (fun w => ((w.1, vp + v.1), pteShare w.2)))
        let l := vcells.zip (tpl.map (fun t => t ||| 12)) ++ dcells.zip (dl.map pteShare) ++ hc
        (.ok n, writeEntries s p k e l z)

end Sys2Proof.Machine
end

