-- ==== Sys2Proof/Machine/Serving.lean ====
section
/-! DEFINITION. The step scheduler: requests, the step boundary, assembly, the batch descriptor, completion records,
budgets and accounting (R278 to R298, R355). -/

namespace Sys2Proof.Machine

/-! ## The batch descriptor (R281) -/

def Part.tokAt (t : Part) : Nat := alignUp (64 + 32 * t.seqmax) 64
def Part.spAt (t : Part) : Nat := alignUp (t.tokAt + 4 * t.rowsmax) 64
def Part.srAt (t : Part) : Nat := t.spAt + 64 * t.rowsmax
def Part.eoAt (t : Part) : Nat := alignUp (t.srAt + 16 * t.rowsmax) 64
def Part.bufSize (t : Part) : Nat := alignUp (t.eoAt + 128 * t.seqmax) 65536
/-- Buffer of step `n`. -/
def Part.bufAt (t : Part) (n : Nat) : Nat := t.bdbase.toNat + n % 2 * t.bufSize

/-- An entry of the descriptor. -/
def BatchEntry.bits (e : BatchEntry) : Nat :=
  e.slot + 2 ^ 12 * e.kind + 2 ^ 16 * e.ident + 2 ^ 32 * e.c + 2 ^ 64 * e.a + 2 ^ 96 * e.row0 + 2 ^ 128 * e.srow0 + 2 ^ 160 * e.nsrow

/-- The header. -/
def batchHeader (n : Nat) (l : List BatchEntry) : Nat :=
  n % 2 ^ 64 + 2 ^ 64 * l.length + 2 ^ 80 * (l.filter (fun e => e.kind == 0)).length +
  2 ^ 96 * (l.map BatchEntry.a).sum + 2 ^ 128 * (l.map BatchEntry.nsrow).sum

/-- Rows and sampling rows assigned in entry order, with no gaps. -/
def packRows : Nat → Nat → List BatchEntry → List BatchEntry
  | _, _, [] => []
  | r, q, e :: t => { e with row0 := r, srow0 := q } :: packRows (r + e.a) (q + e.nsrow) t

/-- Bytes in whole lines; what follows the last of them is the part's own (log 4). -/
def wholeLines (fresh : Nat) (bs : List Byte) : List Byte :=
  bs ++ (List.range (alignUp bs.length 64 - bs.length)).map (Config.freeByte fresh)

/-- A stored sampling record with its counter. -/
def sampleAt (sample counter : Nat) : Nat := setFld sample 255 192 counter

/-- What the scheduler writes of a batch, region by region. -/
def batchRegions (s : State) (p n : Nat) (l : List BatchEntry) : List (Nat × List Byte) :=
  let t := s.part p
  let a := t.bufAt n
  let fresh := s.mem.fresh
  [(a, wholeLines fresh (leBytes 64 (batchHeader n l) ++ l.flatMap (fun e => leBytes 32 e.bits))),
   (a + t.tokAt, wholeLines fresh (l.flatMap (fun e => e.tokens.flatMap (leBytes 4)))),
   (a + t.spAt, l.flatMap (fun e => (List.range e.nsrow).flatMap (fun j =>
      leBytes 64 (sampleAt (s.slot p e.slot).sample ((s.slot p e.slot).counter + j)))))]

/-! ## Completion records (R286, R287, R355) -/

/-- The number of the last step that has ended. -/
def Part.lastStep (t : Part) : Nat := t.steps - 1

/-- A record with PHASE 0. -/
def recordBits (t : Part) (status : Nat) (final : Bool) (tag slot first logprob : Nat) (tokens : List Nat) : BitVec 1024 :=
  BitVec.ofNat 1024 (status + 2 ^ 16 * tokens.length + 2 ^ 21 * b2n final + 2 ^ 32 * tag + 2 ^ 64 * slot + 2 ^ 96 * (first % 2 ^ 32) +
    2 ^ 128 * (t.lastStep % 2 ^ 64) + 2 ^ 192 * logprob +
    ((List.range tokens.length).zip tokens).foldl (fun a v => a + v.2 * 2 ^ (256 + 32 * v.1)) 0)

/-- A record is due to a function's ring. -/
def State.owe (s : State) (p fn : Nat) (bits : BitVec 1024) : State :=
  s.updPart p (fun t => { t with owed := t.owed ++ [⟨fn, bits⟩] })

def ringOrder (c : Quad) : Nat := fld c.toNat 4 0
def ringEn (c : Quad) : Bool := c.toNat.testBit 11
def ringAddr (c : Quad) (k : Nat) : Nat := c.toNat / 4096 * 4096 + 128 * (k % 2 ^ ringOrder c)

/-- Whether a function's completion ring has room. -/
def Func.room (f : Func) : Bool := ringEn f.cq.cfg && decide ((f.cq.tail + 2 ^ 32 - f.cq.head) % 2 ^ 32 < 2 ^ ringOrder f.cq.cfg)

/-- A record goes to its ring, with its PHASE, then CQTAIL. -/
def State.writeRecord (s : State) (p : Nat) (r : Record) : State :=
  let f := s.func r.fn
  let i := f.cq.tail % 2 ^ ringOrder f.cq.cfg
  let bits := r.bits.toNat + 2 ^ 22 * b2n (f.cq.wraps % 2 == 0)
  let s := s.hostPut (ringPut r.fn) p r.fn (ringAddr f.cq.cfg f.cq.tail) (leBytes 128 bits)
  let s := s.updFunc r.fn (fun f => { f with cq := { f.cq with
    tail := (f.cq.tail + 1) % 2 ^ 32, wraps := if i + 1 = 2 ^ ringOrder f.cq.cfg then f.cq.wraps + 1 else f.cq.wraps } })
  s.updPart p (fun t => { t with wroteFns := if t.wroteFns.contains r.fn then t.wroteFns else t.wroteFns ++ [r.fn] })

/-- The boundary stops at a record whose ring has no room. -/
def State.stallOn (s : State) (p fn : Nat) : State :=
  let t := s.part p
  let s := if t.stalledFns.contains fn then s
    else (s.updFunc fn (fun f => { f with cqstalls := (f.cqstalls + 1) % 2 ^ 32 })).updPart p (fun t => { t with stalledFns := fn :: t.stalledFns })
  let s := if t.phase == .stalled then s else s.irq p 2
  s.updPart p (fun t => { t with phase := .stalled })

/-- Records that are due go out in order; none to a disabled function (R366). -/
def State.flushOwed (p : Nat) : Nat → State → State
  | 0, s => s
  | n + 1, s =>
    match (s.part p).owed with
    | [] => s
    | r :: rest =>
      if (s.func r.fn).disabled then State.flushOwed p n (s.updPart p (fun t => { t with owed := rest }))
      else if (s.func r.fn).room then State.flushOwed p n ((s.writeRecord p r).updPart p (fun t => { t with owed := rest }))
      else s.stallOn p r.fn

/-- A sequence ends: its record, then its pages and slot. -/
def Bd.endSeq (b : Bd) (p k status first logprob : Nat) (tokens : List Nat) : Bd :=
  let q := b.s.slot p k
  (b.on (fun s => s.owe p (slotFn p q) (recordBits (s.part p) status true q.tag k first logprob tokens))).close p k

/-- A sequence ends without tokens. -/
def Bd.endBare (b : Bd) (p k status : Nat) : Bd := b.endSeq p k status (b.s.slot p k).generated negInf.toNat []

/-! ## Requests (R284, R285) -/

def rqOp (r : Nat) : Nat := fld r 7 0
def rqTag (r : Nat) : Nat := fld r 63 32
def rqSlot (r : Nat) : Nat := fld r 75 64

/-- Reserved bits of a request are zero. -/
def rqClear (r : Nat) : Bool :=
  if rqOp r = 1 then
    fld r 15 11 == 0 && fld r 31 26 == 0 && fld r 127 100 == 0 && fld r 255 224 == 0 && fld r 511 320 == 0 &&
    fld r (512 + 63) (512 + 48) == 0 && fld r (512 + 127) (512 + 96) == 0
  else fld r 31 8 == 0 && fld r 1023 76 == 0

/-- The work of a function is being aborted: it, or its PF (R365). -/
def State.aborting (s : State) (fn : Nat) : Bool :=
  (s.func fn).disabled || (s.func fn).quiescing || (s.func (funcPart fn)).quiescing

/-- Whether CANCEL or PARK names a sequence of the requesting function. -/
def State.namesOwn (s : State) (p fn r : Nat) : Bool :=
  let q := s.slot p (rqSlot r)
  rqClear r && q.state != .free && q.tag == rqTag r && slotFn p q == fn

/-- A refusal, with its record. -/
def Bd.refuse (b : Bd) (p fn r status : Nat) : Bd :=
  b.on (fun s => (s.owe p fn (recordBits (s.part p) status false (rqTag r) (rqSlot r) 0 negInf.toNat [])).updFunc fn
    (fun f => { f with refused := (f.refused + 1) % 2 ^ 32 }))

/-- The checks of an OPEN. R245 refuses a donor that is parked: one whose transfer is still under way, out or back, counts as parked here
(DESIGN CHOICE, log 25). -/
def State.openOk (s : State) (p fn r : Nat) : Bool :=
  let k := rqSlot r
  let g := kvg s p
  let f := s.func fn
  let ident := fld r 25 16
  let plen := fld r 159 128
  let prompt := fld r 319 256
  let varen := bit r 10
  let vrec := s.variantRec p (fld r 87 80)
  let vp := if varen then vrPages vrec else 0
  let len := fld r 223 192
  let dslot := fld r 99 88
  let d := s.slot p dslot
  rqClear r && decide (k < slotsPer s.mode) && (s.slot p k).state == .free &&
  decide (fld f.idrange 9 0 ≤ ident) && decide (ident ≤ fld f.idrange 25 16) && decide (ident < identsPer s.mode) &&
  decide (1 ≤ plen) && decide (1 ≤ fld r 191 160) &&
  decide (stackBase s.mode p ≤ prompt) && decide (prompt + 4 * plen ≤ stackBase s.mode p + stackSpan s.mode) &&
  (!bit r 9 || s.accepts p 5) && (!varen || s.accepts p 12) && kvPpp g != 0 &&
  (!varen || (decide (fld r 87 80 < variantsPer s.mode) && vrValid vrec && decide (vp < kvMaxPages g))) &&
  (!bit r 9 ||
    (s.mode == 0 && (d.state == .prefill || d.state == .generate) &&
     d.varen == varen && (!varen || d.variant == fld r 87 80) &&
     decide (vp * kvPpp g ≤ len) && decide (len ≤ d.c) && decide (len - vp * kvPpp g < plen)))

/-- The lookup of R242: the directory entries hit, or the status of a failed read; COLLISIONS and recency are kept. -/
def lookup (p prompt ppp vp maxPages want : Nat) : Nat → Nat → Nat → Bd → (List DirEntry ⊕ Nat) × Bd
  | 0, _, _, b => (.inl [], b)
  | fuel + 1, hits, h, b =>
    if want ≤ hits ∨ maxPages ≤ vp + hits then (.inl [], b)
    else
      let (r, b) := b.read p (prompt + 4 * ppp * hits) (4 * ppp)
      match r with
      | .inr st => (.inr st, b)
      | .inl bs =>
        let tokens := (chunks 4 ppp bs).map leNat
        let h := chunkHash h tokens
        match dirFind (b.s.part p).dir h (vp + hits) with
        | none => (.inl [], b)
        | some d =>
          let (f, b) := b.kv p (dirRead b.s p d.place)
          match f with
          | some st => (.inr st, b)
          | none =>
            if d.tokens != tokens then
              (.inl [], b.on (fun s => s.updPart p (fun t => { t with collisions := satAdd 16 t.collisions 1 })))
            else
              let (rest, b) := lookup p prompt ppp vp maxPages want fuel (hits + 1) h
                (b.on (fun s => s.updPart p (fun t => { t with dir := t.dir.filter (fun x => x.place != d.place) ++ [d] })))
              match rest with
              | .inl l => (.inl (d :: l), b)
              | .inr st => (.inr st, b)

/-- Every entry of a slot is written ABSENT (R285). -/
def Bd.absent (b : Bd) (p k : Nat) : Bd := b.kvOn p (writeEntries b.s p k · [] ·)

/-- OPEN (R285, R289): refused, abandoned at a failed read, or a sequence in PREFILL. -/
def Bd.openSeq (b : Bd) (p fn r : Nat) : Bd :=
  if !b.s.openOk p fn r then b.refuse p fn r 0x0102
  else
    let s := b.s
    let k := rqSlot r
    let g := kvg s p
    let ppp := kvPpp g
    let varen := bit r 10
    let variant := fld r 87 80
    let vp := if varen then vrPages (s.variantRec p variant) else 0
    let plen := fld r 159 128
    let prompt := fld r 319 256
    let want := (plen - 1) / ppp
    let (found, b) := if s.treeOn p then lookup p prompt ppp vp (kvMaxPages g) want (want + 1) 0 (hashSeed varen variant) b
      else (.inl [], b)
    match found with
    | .inr st => (b.absent p k).refuse p fn r st
    | .inl hits =>
      let donor := if bit r 9 then some (fld r 99 88, ceilDiv (fld r 223 192) ppp) else none
      let (o, b) := b.kv p (openTables b.s p k (if varen then some (s.variantRec p variant) else none) donor hits)
      match o with
      | .refused => b.refuse p fn r 0x0102
      | .failed st => b.refuse p fn r st
      | .ok n =>
        let c := if bit r 9 then fld r 223 192 else (vp + n) * ppp
        b.on (fun s =>
          let s := s.updPart p (fun t => { t with joined := t.joined + 1 })
          s.setSlot p k {
            state := .prefill, publish := bit r 8, varen := varen
            specmax := if s.accepts p 7 then fld r 79 76 else 0
            ident := fld r 25 16, variant := variant, func := funcVf fn, tag := rqTag r, c := c, t := c
            plen := plen, pdone := c - vp * ppp, maxnew := fld r 191 160
            joinseq := (s.part p).joined, counter := fld r (512 + 255) (512 + 192), prompt := prompt
            sample := fld r 1023 512, history := if bit r 8 then (hits.take n).flatMap DirEntry.tokens else [] })

/-- PARK (R285, R289). -/
def Bd.parkRequest (b : Bd) (p fn r : Nat) : Bd :=
  if b.s.namesOwn p fn r && b.s.bivouacOn p then b.on (fun s => s.updSlot p (rqSlot r) (fun q => { q with park := true }))
  else b.refuse p fn r 0x0102

/-- A request other than a cancel. -/
def Bd.request (b : Bd) (p : Nat) (q : Request) : Bd :=
  let r := q.entry.toNat
  if rqOp r = 1 then b.openSeq p q.fn r else if rqOp r = 3 then b.parkRequest p q.fn r else b.refuse p q.fn r 0x0102

/-- Requests taken for a boundary: ring by ring in ascending function number; none of a disabled function's. R243 has the lookups of a
boundary in slot order, R289 the OPENs that make them in ring order: the lookups, and with them the order of the last hits, follow
the rings here (DESIGN CHOICE, log 25). -/
def State.taken (s : State) (p : Nat) : List Request :=
  sortBy (fun a b => decide (a.fn ≤ b.fn)) ((s.part p).reqs.filter (fun r => !s.aborting r.fn))

/-- The sequences that a boundary's cancels name. -/
def State.cancelled (s : State) (p : Nat) : List Nat :=
  ((s.taken p).filter (fun r => rqOp r.entry.toNat == 2 && s.namesOwn p r.fn r.entry.toNat)).map (fun r => rqSlot r.entry.toNat)

/-! ## Commit and delivery (R235, R291 to R294) -/

/-- The stop tokens of a sampling record. -/
def stopTokens (sample : Nat) : List Nat :=
  ((List.range 8).map (fun i => fld sample (256 + 32 * i + 31) (256 + 32 * i))).filter (fun t => decide (t < 2 ^ 31))

/-- What an entry delivers: tokens, LOGPROB of the sampled one, and the code that ends the sequence, or 0. -/
structure Delivery where
  tokens : List Nat
  logprob : Nat := negInf.toNat
  code : Nat := 0
  deriving DecidableEq, Repr

/-- Accepted drafts, then the sampled token with its result record (R292); `gen` tokens were delivered before. -/
def delivery (stops : List Nat) (maxnew : Nat) (res : Nat) : Nat → List Nat → Delivery
  | gen, [] =>
    let t := fld res 31 0
    if bit res 65 then ⟨[], negInf.toNat, 0x0102⟩
    else ⟨[t], fld res 63 32, if bit res 64 then 0x0002 else if maxnew ≤ gen + 1 then 0x0003 else 0⟩
  | gen, d :: ds =>
    if stops.contains d then ⟨[d], negInf.toNat, 0x0002⟩
    else if maxnew ≤ gen + 1 then ⟨[d], negInf.toNat, 0x0003⟩
    else
      let r := delivery stops maxnew res (gen + 1) ds
      { r with tokens := d :: r.tokens }

/-- Weight of an entry (R298). -/
def BatchEntry.weight (pw : Nat) (e : BatchEntry) : Nat :=
  if e.kind = 0 then 256 * e.a else (if e.kind = 2 then 256 else 0) + pw * e.a

/-- The charge of an entry and its tokens in accounting (R296, R297). -/
def State.chargeEntry (s : State) (p : Nat) (e : BatchEntry) (delivered committed : Nat) : State :=
  s.updPart p (fun t =>
    let cost : Int := (if e.kind = 1 then 0 else 256 * delivered) + (if e.kind = 0 then 0 else t.promptW * e.a)
    { t with
      balance := if e.spill then t.balance else Table.upd 0 t.balance e.ident (fun x => x - cost)
      accounts := Table.upd {} t.accounts e.ident (fun a => { a with tokens := addCounters a.tokens [delivered, committed] }) })

/-- An entry commits nothing: its pages go, its length stays. -/
def Bd.commitNone (b : Bd) (p : Nat) (e : BatchEntry) : Bd :=
  let ppp := max 1 (kvPpp (kvg b.s p))
  (b.rollPages p e.slot e.c ((e.c + e.a - 1) / ppp)).on (fun s =>
    (s.updSlot p e.slot (fun q => { q with t := q.c, laststep := (s.part p).lastStep % 2 ^ 32 })).chargeEntry p e 0 0)

/-- The entry's output record and sampling results, or the status of a failed read (R282, R291). -/
def Bd.outputs (b : Bd) (p i : Nat) (e : BatchEntry) : ((Nat × Nat) ⊕ Nat) × Bd :=
  let t := b.s.part p
  let a := t.bufAt t.lastStep
  let (o, b) := b.read p (a + t.eoAt + 128 * i) 128
  let (r, b) := b.read p (a + t.srAt + 16 * e.srow0) (16 * e.nsrow)
  match o, r with
  | .inl x, .inl y => (.inl (leNat x, leNat y), b)
  | .inr st, _ => (.inr st, b)
  | _, .inr st => (.inr st, b)

/-- The most drafts of a sequence: none while SPEC_APPEND is not accepted (R234, R282). -/
def State.specOf (s : State) (p : Nat) (q : Slot) : Nat := if s.accepts p 7 then q.specmax else 0

/-- The slot after its entry's delivery; `most` bounds its drafts. -/
def Slot.delivered (q : Slot) (e : BatchEntry) (acc out step most : Nat) (d : Delivery) : Slot :=
  let nd := min (fld out 35 32) most
  let q := { q with
    c := e.c + acc, t := e.c + acc, laststep := step % 2 ^ 32, generated := q.generated + d.tokens.length
    pdone := if e.kind = 0 then q.pdone else q.pdone + e.a
    history := if q.publish then q.history ++ e.tokens.take acc else [] }
  if e.kind = 1 then q
  else { q with
    state := .generate, lasttok := d.tokens.getLast?.getD q.lasttok, ndraft := nd
    drafts := (List.range nd).map (fun j => fld out (64 + 32 * j + 31) (64 + 32 * j)), counter := (q.counter + e.nsrow) % 2 ^ 64 }

/-- An entry of a step that was not abandoned commits and delivers. -/
def Bd.commitRun (b : Bd) (p i : Nat) (e : BatchEntry) (cancelled : Bool) : Bd :=
  let (v, b) := b.outputs p i e
  match v with
  | .inr st => (b.commitNone p e).endBare p e.slot (if cancelled then 0x0301 else st)
  | .inl (out, res) =>
    let q := b.s.slot p e.slot
    let acc := if e.kind = 0 then min (max (fld out 31 0) 1) e.a else e.a
    let row := if e.kind = 0 then acc - 1 else 0
    let d := if e.kind = 1 then ⟨[], negInf.toNat, 0⟩
      else delivery (stopTokens q.sample) q.maxnew (fld res (128 * row + 127) (128 * row)) q.generated
        (if e.kind = 0 then (e.tokens.drop 1).take (acc - 1) else [])
    let ppp := max 1 (kvPpp (kvg b.s p))
    let b := b.rollPages p e.slot (e.c + acc) ((e.c + e.a - 1) / ppp)
    let b := b.on (fun s => (s.setSlot p e.slot (q.delivered e acc out (s.part p).lastStep (s.specOf p q) d)).chargeEntry p e d.tokens.length
      (if e.kind = 0 then 0 else e.a))
    let code := if cancelled then (if d.code = 2 ∨ d.code = 3 then 0x0001 else 0x0301) else d.code
    if code ≠ 0 then b.endSeq p e.slot code q.generated d.logprob d.tokens
    else if d.tokens.isEmpty then b
    else b.on (fun s => s.owe p (slotFn p q) (recordBits (s.part p) 0 false q.tag e.slot q.generated d.logprob d.tokens))

/-- One entry of the ended step (R289 step 1). -/
def Bd.commitEntry (b : Bd) (p i : Nat) (e : BatchEntry) (gone : Bool) : Bd :=
  let t := b.s.part p
  if b.s.aborting (slotFn p (b.s.slot p e.slot)) then b.commitNone p e
  else match t.stepFault with
    | some st =>
      let b := b.commitNone p e
      if st = 0x0301 ∨ st = 0x0304 then (if gone then b.endBare p e.slot 0x0301 else b) else b.endBare p e.slot st
    | none =>
      if t.rope.abandoned && e.roped then (b.commitNone p e).endBare p e.slot 0x0401
      else b.commitRun p i e gone

/-- What a step used, split among its entries (R298). -/
def Part.splitUse (t : Part) : Part :=
  let w := (t.batch.map (BatchEntry.weight t.promptW)).sum
  let ids := (t.batch.map BatchEntry.ident).dedup
  let share := fun (i : Nat) => ((t.batch.filter (fun e => e.ident == i)).map (BatchEntry.weight t.promptW)).sum
  let part := fun (x i : Nat) => x * share i / max 1 w
  let rest := t.stepUse.map (fun x => x - (ids.map (part x)).sum)
  let most := t.batch.foldl (fun (m : Option BatchEntry) e => match m with
    | some o => if o.weight t.promptW < e.weight t.promptW then some e else m
    | none => some e) none
  let t := ids.foldl (fun (t' : Part) i => t'.charge i (t.stepUse.map (fun x => part x i))) t
  match most with
  | some e => { t.charge e.ident rest with stepUse := [] }
  | none => t

/-- The ended messages of a side less those of the step that is over, one of each of its rounds (R252). -/
def Rope.spend (r : Rope) (t : Table Int) : Table Int := (List.range r.round).foldl (fun t i => t.bump i (-1)) t

/-- The step is over: what it used is split among its entries. -/
def Bd.stepOver (b : Bd) (p : Nat) : Bd :=
  b.on (fun s => s.updPart p (fun t =>
    let r := t.rope
    { t.splitUse with
      batch := [], stepFault := none, kidx := 0
      rope := if r.abandoned then {} else { prevEnded := r.spend r.prevEnded, nextEnded := r.spend r.nextEnded } }))

/-! ## Steps 2 to 4 -/

/-- A cancel that takes effect now, or waits for a transfer (R249, R293). -/
def Bd.cancelSlot (b : Bd) (p k : Nat) : Bd :=
  let q := b.s.slot p k
  if (q.state == .parking || q.state == .returning) && !q.moved then b.on (fun s => s.updSlot p k (fun q => { q with cancel := true }))
  else b.endBare p k 0x0301

/-- A cancel: of a sequence of the requesting function, or refused. -/
def Bd.cancelRequest (b : Bd) (p : Nat) (q : Request) : Bd :=
  let r := q.entry.toNat
  if b.s.namesOwn p q.fn r then b.cancelSlot p (rqSlot r) else b.refuse p q.fn r 0x0102

/-- A cancel that waited for a transfer takes effect once the transfer is complete; a disable overrides it (R365). -/
def Bd.lateCancel (b : Bd) (p k : Nat) : Bd :=
  let q := b.s.slot p k
  if q.cancel && q.state != .parking && !(q.state == .returning && !q.moved) && !b.s.aborting (slotFn p q) then b.endBare p k 0x0301 else b

/-- The cancels of step 2 among a boundary's requests, each with whether it named its sequence when the boundary began: the first
that names a sequence of the ended step (`step`) was met at that sequence's commit. -/
def stepCancels (step : List Nat) : List Nat → List (Request × Bool) → List Request
  | _, [] => []
  | met, (q, own) :: t =>
    let k := rqSlot q.entry.toNat
    if rqOp q.entry.toNat != 2 then stepCancels step met t
    else if own && step.contains k && !met.contains k then stepCancels step (k :: met) t
    else q :: stepCancels step met t

/-- A sequence ended by a disable is counted; a counter that has saturated changes no FUNCSTAT (R356, R366). -/
def State.countAbortedSeq (s : State) (p : Nat) : State :=
  if (s.func p).abortedSeqs < 0xFFFF then (s.updFunc p (fun f => { f with abortedSeqs := satAdd 16 f.abortedSeqs 1 })).irq p 2 else s

/-- Step 3: the sequences of disabled functions end without a record (R365, R366). -/
def Bd.dropDisabled (b : Bd) (p : Nat) : Bd :=
  (b.s.openSlots p).foldl (fun b k =>
    if b.s.aborting (slotFn p (b.s.slot p k)) then
      (b.on (fun s => s.countAbortedSeq p)).close p k
    else b) b

/-- Frames coded away return to their pool, and the units of sequences whose transfer is complete, in the order in which the
transfers completed (R248, R249, R268; log 25). -/
def Bd.returnUnits (b : Bd) (p : Nat) : Bd :=
  let t := b.s.part p
  let done := t.parked.filter (fun k => (b.s.slot p k).state == .parking)
  let b := b.kvOn p (fun e x =>
    giveUnits t e (t.released.map (fun r => (r.1, r.2, true)) ++ done.flatMap (fun k => (b.s.slot p k).units)) x)
  b.on (fun s =>
    done.foldl (fun s k => s.updSlot p k (fun q => { q with state := .parked, moved := false, units := [] }))
      (s.updPart p (fun t => { t with released := [] })))

/-- The LABs of a partition's stacks are cleared (R184). -/
def State.labClear (s : State) (p : Nat) : State :=
  (partStacks s.mode p).foldl (fun s k => s.updEngine k (fun g => { g with lab := [] })) s

/-- A boundary begins: EN, the requests that belong to it, and the pieces it will run in order (R286, R289). -/
def Bd.firstPart (b : Bd) (p : Nat) (ended : Bool) : Bd :=
  let b := b.on (fun s => (s.labClear p).updPart p (fun t => { t with
    phase := .boundary, wake := false, srvEn := t.srvEn && !t.srvOff, srvOff := false
    steps := if ended then t.steps + 1 else t.steps }))
  let b := b.returnUnits p
  let s := b.s
  let reqs := s.taken p
  let named := reqs.map (fun r => (r, s.namesOwn p r.fn r.entry.toNat))
  let l := (s.part p).batch
  let commits := ((List.range l.length).zip l).map (fun v => Job.commit v.1 v.2 ((s.cancelled p).contains v.2.slot))
  let step := l.map BatchEntry.slot
  b.on (fun s => s.updPart p (fun t => { t with
    reqs := []
    jobs := (if ended then commits ++ [.stepOver] else []) ++ (stepCancels step [] named).map Job.cancel ++ [.lateCancels, .disabled] ++
      (reqs.filter (fun r => rqOp r.entry.toNat != 2)).map Job.request ++
      [.settle, .rejoins, .hostParks, .returns, .publish, .budgets, .assemble, .last] }))

/-- The accounts of a boundary are settled, and the work of disables may have ended. -/
def Bd.settle (b : Bd) (p : Nat) : Bd :=
  b.on (fun s =>
    let n := s.mem.fresh
    ({ s with mem := { s.mem with fresh := n + 1 } }.updPart p (fun t => t.settle n)).quiesceDone)

/-! ## Steps 5 and 6 -/

/-- Positions left to a sequence (R236). -/
def State.positionsLeft (s : State) (p : Nat) (q : Slot) : Nat := kvMaxPages (kvg s p) * kvPpp (kvg s p) - q.c

/-- The append count of a sequence when `rows` token rows are taken (R290). -/
def State.appendOf (s : State) (p : Nat) (q : Slot) (rows : Nat) : Nat :=
  let t := s.part p
  let a := if q.state == .generate || q.wasGen then min (min (1 + min q.ndraft (s.specOf p q)) t.rowsmax) (q.maxnew - q.generated)
    else min (min (q.plen - q.pdone) t.chunkmax) (t.rowsmax - rows)
  min a (s.positionsLeft p q)

/-- A sequence whose return is complete rejoins, or ends where a read failed. -/
def Bd.rejoin (b : Bd) (p k : Nat) : Bd :=
  let q := b.s.slot p k
  if q.state == .returning && q.moved then
    match q.endCode with
    | some st => b.endBare p k st
    | none => b.on (fun s => s.updSlot p k (fun q => { q with
        state := if q.wasGen then .generate else .prefill, wasGen := false, status := 0, moved := false }))
  else b

/-- A parking, or the end of a sequence whose page cannot be read. -/
def Bd.parkOrEnd (b : Bd) (p k : Nat) : Parked × Bd :=
  match b.park p k with
  | (.failed st, b) => (.failed st, b.endBare p k st)
  | r => r

/-- A park that the host asked for; a disabled function's sequence begins no transfer (R364). -/
def Bd.hostPark (b : Bd) (p k : Nat) : Bd :=
  let q := b.s.slot p k
  if !q.park || b.s.aborting (slotFn p q) then b
  else if q.state == .prefill || q.state == .generate then (b.parkOrEnd p k).2
  else if q.state == .returning then b
  else b.on (fun s => s.updSlot p k (fun q => { q with park := false }))

/-- Returns, in the order of parking, while the pools hold enough. -/
def returns (p : Nat) : List Nat → Bd → Bd
  | [], b => b
  | k :: t, b =>
    match b.bringBack p k (b.s.appendOf p (b.s.slot p k) 0) with
    | (true, b) => returns p t b
    | (false, b) => b

/-- Budgets as the dictionary has them come into force; enabling them fills every balance (R295). -/
def State.loadBudgets (s : State) (p : Nat) : State :=
  let ipp := identsPer s.mode
  let ctl := s.dictVal 0x1800 3 0xF0
  let on := ctl.testBit p && s.accepts p 11
  let refill := s.dictVal 0x1800 4 0
  let weights := s.dictVal 0x1801 1 (leNat (List.replicate 1024 [1, 0]).flatten)
  let ids := List.range ipp
  let rf := ids.map (fun i => (i, fld refill (32 * (p * ipp + i) + 31) (32 * (p * ipp + i))))
  let wt := ids.map (fun i => (i, fld weights (16 * (p * ipp + i) + 15) (16 * (p * ipp + i))))
  s.updPart p (fun t =>
    let rf := rf.filter (fun v => v.2 != 0)
    let t := { t with refill := rf, weights := wt.filter (fun v => v.2 != 1), epochLen := s.dictVal 0x1800 1 50000000
                      promptW := s.dictVal 0x1800 2 0x40, spillOn := ctl.testBit (4 + p) }
    if on && !t.budgets then { t with budgets := true, epochCount := 0, balance := rf.map (fun v => (v.1, (256 * v.2 : Nat))) }
    else { t with budgets := on })

/-- Refill of the epochs that have passed (R296). -/
def Part.refillEpochs (t : Part) (ipp : Nat) : Part :=
  let len := max 1 t.epochLen
  let k := t.epochCount / len
  if k = 0 then t
  else { t with
    epochCount := t.epochCount % len
    balance := (List.range ipp).foldl (fun b i =>
      let r : Int := (256 * Table.get 0 t.refill i : Nat)
      let v := min (Table.get 0 b i + k * r) r
      if v = Table.get 0 b i then b else Table.set b i v) t.balance }

/-- Parked sequences return (R249), but those of disabled functions (R364). -/
def Bd.returns (b : Bd) (p : Nat) : Bd :=
  Sys2Proof.Machine.returns p
    ((b.s.part p).parked.filter (fun k => (b.s.slot p k).state == .parked && !b.s.aborting (slotFn p (b.s.slot p k)))) b

/-- Publishing, slot by slot (R243). -/
def Bd.publish (b : Bd) (p : Nat) : Bd := (b.s.openSlots p).foldl (fun b k => b.publishSlot p k) b

/-- Step 6. -/
def Bd.budgets (b : Bd) (p : Nat) : Bd :=
  b.on (fun s => (s.loadBudgets p).updPart p (fun t => t.refillEpochs (identsPer s.mode)))

/-! ## Assembly (R290, R237) -/

/-- A sequence that may run. -/
def Slot.runs (q : Slot) : Bool := (q.state == .prefill || q.state == .generate) && !q.cancel && !q.park
def Part.okIdent (t : Part) (i : Nat) : Bool := !t.budgets || decide (0 < Table.get 0 t.balance i)

/-- An assembly under way: its entries, what each pass has chosen, who sat out for want of pages. -/
structure Asm where
  b : Bd
  rows : Nat := 0
  list : List BatchEntry := []
  chosen : List Nat := []
  picked : List Nat := []
  short : List Nat := []
  floor : Option Nat := none

/-- The virtual time of an identity at a pick. -/
def Asm.vt (z : Asm) (p i : Nat) : Nat :=
  let v := Table.get 0 (z.b.s.part p).vt i
  match z.floor with
  | some f => if z.picked.contains i then v else max f v
  | none => v

/-- The first of a list under an order, the earlier on equal ones. -/
def firstBy {α : Type} (lt : α → α → Bool) : List α → Option α
  | [] => none
  | a :: t => match firstBy lt t with
    | some c => if lt c a then some c else some a
    | none => some a

/-- The next sequence of a pass. -/
def Asm.next (z : Asm) (p : Nat) (gen spill : Bool) : Option Nat :=
  let s := z.b.s
  let cand := (s.openSlots p).filter (fun k =>
    let q := s.slot p k
    q.runs && (q.state == .generate) == gen && (s.part p).okIdent q.ident != spill && !z.chosen.contains k)
  firstBy (fun j k =>
    let a := s.slot p j
    let c := s.slot p k
    let va := z.vt p a.ident
    let vc := z.vt p c.ident
    if va ≠ vc then decide (va < vc)
    else if a.ident ≠ c.ident then decide (a.ident < c.ident)
    else if a.laststep ≠ c.laststep then decide (a.laststep < c.laststep)
    else decide (a.joinseq < c.joinseq)) cand

/-- A chosen sequence gets its entry. -/
def Asm.add (z : Asm) (p k a : Nat) (spill : Bool) : Asm :=
  let s := z.b.s
  let q := s.slot p k
  let t := s.part p
  let kind := if q.state == .generate then 0 else if q.pdone + a = q.plen then 2 else 1
  let e : BatchEntry := {
    slot := k, kind := kind, ident := q.ident, c := q.c, a := a, row0 := 0, srow0 := 0
    nsrow := if kind = 0 then a else if kind = 2 then 1 else 0, spill := spill
    roped := s.ropeOn p && Config.freeChoice s.mem.fresh (16 + k) != 0
    tokens := if kind = 0 then (q.lasttok :: q.drafts).take a else [] }
  let v := z.vt p q.ident + e.weight t.promptW * 65536 / max 1 (Table.get 1 t.weights q.ident)
  { z with
    rows := z.rows + a, list := z.list ++ [e], picked := q.ident :: z.picked
    b := z.b.on (fun s => (s.updSlot p k (fun q => { q with t := q.c + a })).updPart p (fun t => { t with vt := Table.set t.vt q.ident v })) }

/-- One pick of a pass. -/
def Asm.pick (z : Asm) (p k : Nat) (spill : Bool) : Asm :=
  let s := z.b.s
  let q := s.slot p k
  let z := { z with chosen := k :: z.chosen }
  let a := s.appendOf p q z.rows
  if s.positionsLeft p q = 0 then { z with b := z.b.endBare p k 0x0003 }
  else if a = 0 ∨ (s.part p).rowsmax < z.rows + a ∨ z.list.length = (s.part p).seqmax then z
  else match z.b.prepare p k q.c a with
    | (.ok, b) => ({ z with b := b }).add p k a spill
    | (.short, b) => { z with b := b, short := z.short ++ [k] }
    | (.failed st, b) => { z with b := b.endBare p k st }

/-- A pass. -/
def asmPass (p : Nat) (gen spill : Bool) : Nat → Asm → Asm
  | 0, z => z
  | n + 1, z =>
    match z.next p gen spill with
    | none => z
    | some k => asmPass p gen spill n (z.pick p k spill)

/-- The passes of one assembly. -/
def Bd.passes (b : Bd) (p : Nat) : Asm :=
  let t := b.s.part p
  let floor := t.prevIdents.foldl (fun (m : Option Nat) i =>
    let v := Table.get 0 t.vt i
    some (match m with | some f => min f v | none => v)) none
  let n := t.slots.length
  let z : Asm := { b := b, floor := floor }
  let z := asmPass p false false n (asmPass p true false n z)
  if t.budgets && t.spillOn then asmPass p false true n (asmPass p true true n z) else z

/-- STATUS 0x0302 on sequences left out for want of budget. -/
def State.markBudgets (s : State) (p : Nat) (l : List BatchEntry) : State :=
  (s.openSlots p).foldl (fun s k =>
    let q := s.slot p k
    if q.runs then
      s.setSlot p k { q with status := if !(s.part p).okIdent q.ident && !l.any (fun e => e.slot == k) then 0x0302 else 0 }
    else s) s

/-- The running sequences, the last to join first. -/
def State.lastJoined (s : State) (p : Nat) : List Nat :=
  sortBy (fun j k => decide ((s.slot p k).joinseq ≤ (s.slot p j).joinseq)) ((s.openSlots p).filter (fun k => (s.slot p k).runs))

/-- Whether a sequence could meet its needs once some units are back. -/
def Bd.fitsWith (b : Bd) (p k : Nat) (back : List (Nat × Nat × Bool)) : Bool :=
  let s := b.s
  let q := s.slot p k
  (b.kv p (fun e x =>
    let y := giveUnits (s.part p) e back x
    (match findNeeds s p k e (appendCells s p q.c (s.appendOf p q 0)) y with
     | (.inr _, _) => true
     | (.inl l, z) => (takeFrames s p e l z).1.isSome, x))).1

/-- Units on their way back from sequences that are being parked. -/
def State.parkingUnits (s : State) (p : Nat) : List (Nat × Nat × Bool) :=
  (s.openSlots p).flatMap (fun k => if (s.slot p k).state == .parking then (s.slot p k).units else [])

/-- Parks for want of pages (R248): the last to join first, until the sequence that sat out fits. -/
def starveParks (p victim : Nat) : List Nat → Bd → Bd
  | [], b => b
  | k :: t, b =>
    if b.fitsWith p victim (b.s.parkingUnits p) then b
    else starveParks p victim t (b.parkOrEnd p k).2

/-- Whether some sequence is parked or being parked (R237). -/
def State.anyParked (s : State) (p : Nat) : Bool :=
  (s.openSlots p).any (fun k => let q := s.slot p k; q.state == .parking || q.state == .parked)

/-- The sequence that joined last ends for want of pages (R237). -/
def Bd.endLast (b : Bd) (p : Nat) : Bd :=
  match b.s.lastJoined p with
  | k :: _ => b.endBare p k 0x0203
  | [] => b

/-- One attempt at assembly: the entries, and whether to try again. Where nothing can run for want of pages, sequences park
(R248); where none can, none is parked and no release is pending, the last to join ends (R237). Sequences that the attempt has
ended leave their pages to the next. Where several sat out, `the sequence that sat out' whose needs parking is to meet is the first that
the assembly came to (DESIGN CHOICE, log 25). -/
def Bd.attempt (b : Bd) (p : Nat) : (List BatchEntry × Bool) × Bd :=
  let open_ := b.s.openSlots p
  let z := b.passes p
  let b := z.b.on (fun s => s.markBudgets p z.list)
  match z.list, z.short with
  | [], victim :: _ =>
    if b.s.openSlots p != open_ then (([], true), b)
    else
      let b := if (b.s.parkingUnits p).isEmpty && b.s.bivouacOn p then
        starveParks p victim ((b.s.lastJoined p).filter (fun k => k != victim && !b.s.aborting (slotFn p (b.s.slot p k)))) b else b
      if !(b.s.parkingUnits p).isEmpty then (([], false), b)
      else if b.s.openSlots p != open_ then (([], true), b)
      else if b.s.anyParked p then (([], false), b)
      else if !(b.s.part p).released.isEmpty then (([], false), b.on (fun s => s.updPart p (fun t => { t with wake := true })))
      else (([], true), b.endLast p)
  | l, _ => ((l, false), b)

/-! ## Writing the batch (R279, R281) -/

/-- The chunk of a prompt entry; one that cannot be read leaves its entry out and ends its sequence. -/
def fillTokens (p : Nat) : List BatchEntry → Bd → List BatchEntry × Bd
  | [], b => ([], b)
  | e :: t, b =>
    if e.kind = 0 then
      let (l, b) := fillTokens p t b
      (e :: l, b)
    else
      let q := b.s.slot p e.slot
      let (r, b) := b.read p (q.prompt + 4 * q.pdone) (4 * e.a)
      match r with
      | .inl bs =>
        let (l, b) := fillTokens p t b
        ({ e with tokens := (chunks 4 e.a bs).map leNat } :: l, b)
      | .inr st => fillTokens p t (b.endBare p e.slot st)

/-- Bytes written by the scheduler at addresses of the partition; true if a line could not be written. -/
def Bd.write (b : Bd) (p : Nat) (l : List (Nat × List Byte)) : Bool × Bd :=
  let w := Wk.commit (b.s.partEnv p) { mem := b.s.mem } (l.flatMap (fun v => bytesAt v.1 v.2))
  (w.late.isSome || w.fault.isSome, { s := b.s.takeWork w, ok := b.ok && (w.fault.isSome || !w.wait) })

/-- The descriptor of the next step is written, its GENERATE entries first (R281), and the step is ready to begin. -/
def Bd.writeBatch (b : Bd) (p : Nat) (l : List BatchEntry) : Bd :=
  let (l, b) := fillTokens p l b
  let l := packRows 0 0 (l.filter (fun e => e.kind == 0) ++ l.filter (fun e => e.kind != 0))
  if l.isEmpty then b
  else
    let n := (b.s.part p).steps
    let (bad, b) := b.write p (batchRegions b.s p n l)
    b.on (fun s =>
      { s with mem := { s.mem with fresh := s.mem.fresh + 1 } }.updPart p (fun t => { t with
        batch := l, kidx := 0, kpending := false, stepUse := [], prevIdents := (l.map BatchEntry.ident).dedup
        stepFault := if bad then some 0x0204 else none, srvOff := t.srvOff || bad
        rope := { prevEnded := t.rope.prevEnded, nextEnded := t.rope.nextEnded } }))

/-- The context that serves steps holds no kernel. -/
def State.servingFree (s : State) (p : Nat) : Bool :=
  let c := s.context p (s.part p).srvCtx
  c.kernel.isNone && c.pending.isNone

/-- Step 7: an attempt at a batch, where SRVCTL EN is 1, the serving context holds no kernel of the host's (R280) and no DRAINED
request holds the partition (R391). -/
def Bd.assemble (b : Bd) (p : Nat) : List Job × Bd :=
  let t := b.s.part p
  if t.srvEn && !t.srvOff && b.s.servingFree p && !b.s.drainHeld p then
    let ((l, again), b) := b.attempt p
    (if again then [.assemble] else [.write l], b)
  else ([], b)

/-! ## The boundary as a whole (R286, R289) -/

/-- One piece of a boundary, and the pieces that it brings. -/
def Bd.job (b : Bd) (p : Nat) : Job → List Job × Bd
  | .commit i e gone => ([], b.commitEntry p i e gone)
  | .stepOver => ([], b.stepOver p)
  | .cancel q => ([], if b.s.aborting q.fn then b else b.cancelRequest p q)
  | .lateCancels => ((b.s.openSlots p).map Job.lateCancel, b)
  | .lateCancel k => ([], b.lateCancel p k)
  | .disabled => ([], b.dropDisabled p)
  | .request q => ([], if b.s.aborting q.fn then b else b.request p q)
  | .settle => ([], b.settle p)
  | .rejoins => ((b.s.openSlots p).map Job.rejoin, b)
  | .rejoin k => ([], b.rejoin p k)
  | .hostParks => ((b.s.openSlots p).map Job.hostPark, b)
  | .hostPark k => ([], b.hostPark p k)
  | .returns => ([], b.returns p)
  | .publish => ([], b.publish p)
  | .budgets => ([], b.budgets p)
  | .assemble => b.assemble p
  | .write l => ([], b.writeBatch p l)
  | .last => ([], b.on (fun s => s.labClear p))

/-- A piece runs, and leaves the list of pieces; or it waits for lines that the host holds. -/
def State.runJob (s : State) (p : Nat) (j : Job) (rest : List Job) : State × Bool :=
  s.whole (fun b =>
    let (more, b) := b.job p j
    b.on (fun s => s.updPart p (fun t => { t with jobs := more ++ rest })))

/-- The boundary is over: the interrupts of its records, and a step or none; where none follows, a write of EN 0 that waited for the next
boundary takes effect (R278). -/
def State.boundaryOver (s : State) (p : Nat) : State :=
  let t := s.part p
  let s := t.wroteFns.foldl (fun s f => s.irq f 0) s
  let s := s.updPart p (fun t => { t with
    phase := if t.batch.isEmpty then .idle else .running, stalledFns := [], wroteFns := []
    srvEn := t.srvEn && !(t.batch.isEmpty && t.srvOff), srvOff := t.srvOff && !t.batch.isEmpty })
  s.startPieces p

/-- The scheduler goes on as far as it can: the records that are due, the next piece of the boundary, its end, and a boundary for
requests that wait. It stops at a record that finds no room (R286), and altogether once the part stops (R401). -/
def State.serve (p : Nat) : Nat → State → State
  | 0, s => s
  | n + 1, s =>
    if !s.isLive then s
    else
      let s := State.flushOwed p (s.part p).owed.length s
      let t := s.part p
      if !t.owed.isEmpty then s
      else match t.jobs with
        | j :: rest =>
          match s.runJob p j rest with
          | (s, true) => State.serve p n s
          | (s, false) => s.updPart p (fun t => { t with phase := .boundary })
        | [] =>
          if t.phase == .boundary || t.phase == .stalled then State.serve p n (s.boundaryOver p)
          else if t.phase == .idle && (t.wake || !t.reqs.isEmpty) then
            match s.whole (fun b => b.firstPart p false) with
            | (s, true) => State.serve p n s
            | (s, false) => s
          else s

/-- Turns of the scheduler that one event can need: the pieces of a boundary, and of another for requests that came meanwhile. -/
def Part.turns (t : Part) : Nat :=
  64 + 8 * (t.jobs.length + t.batch.length + t.reqs.length + t.slots.length + t.owed.length)

/-- The scheduler of a partition goes on. -/
def State.goOn (s : State) (p : Nat) : State := s.serve p (s.part p).turns

/-- Something a waiting scheduler looks for has come. -/
def State.wakeUp (s : State) (p : Nat) : State := (s.updPart p (fun t => { t with wake := true })).goOn p

/-- A scheduler that waits is woken. -/
def State.wakeIdle (s : State) (p : Nat) : State := if (s.part p).phase == .idle then s.wakeUp p else s

/-- What a partition held by a DRAINED request in `s` goes on to do where `t` has ended the request with the loss of its unit (R391, R392). -/
def State.freedFrom (t s : State) : State :=
  (List.range (nParts s.mode)).foldl (fun t p =>
    if s.drainHeld p && !t.drainHeld p then (t.startPiecesIdle p).wakeIdle p else t) t

end Sys2Proof.Machine
end

