-- ==== Sys2Proof/Machine/ServingRows.lean ====
section
/-! DEFINITION. Serving events and the host's writes of the serving, ring and cache registers (R228, R252, R278 to R296). -/

namespace Sys2Proof.Machine

/-! ## Step kernels (R279, R280, R252) -/

/-- Whether the step of a partition can take its next kernel start. -/
def State.kernelDue (s : State) (p : Nat) : Bool :=
  let t := s.part p
  s.isLive && decide (p < nParts s.mode) && t.phase == .running && !t.kpending && decide (t.kidx < t.kcount) &&
  t.stepFault.isNone && s.servingFree p

/-- The next record of KLIST becomes the pending start of the serving context; one that cannot be read ends the step. -/
def State.issueKernel (s : State) (p : Nat) : State :=
  let t := s.part p
  let (bs, w) := Wk.read (s.partEnv p) { mem := s.mem } (t.kaddr + 64 * t.kidx) 64
  let s := s.takeWork w
  match w.fault with
  | some st => s.stepReport p st
  | none =>
    if w.wait then s
    else
      let st : Start := { kd := BitVec.ofNat 512 (leNat bs), step := true }
      let s := s.updPart p (fun t => { t with kidx := t.kidx + 1, kpending := true })
      if s.startOk p t.srvCtx st.kd then (s.updContext p t.srvCtx (fun c => { c with pending := some st })).preemptAll p
      else s.endStart p t.srvCtx st 0x0102

/-- STEP_KERNEL_ISSUE (R279). -/
def execStepKernelIssue (part : Nat) (s : State) : Host.Outcome State Fault Refusal :=
  if s.kernelDue part && !s.ropeOn part then .next (s.issueKernel part) else .next s

/-- Whether the next round of a rope step may start (R252): the round before it has ended here, and its ended message has come
from both sides. A message carries its round and no step, so one of an abandoned step counts for the same round (log 28). -/
def Rope.mayStart (r : Rope) : Bool :=
  r.round == 0 || (decide (r.round ≤ r.ownEnded) && decide (1 ≤ Table.get 0 r.prevEnded (r.round - 1)) &&
    decide (1 ≤ Table.get 0 r.nextEnded (r.round - 1)))

/-- ROPE_ROUND_START (R252). -/
def execRopeRoundStart (part : Nat) (s : State) : Host.Outcome State Fault Refusal :=
  let r := (s.part part).rope
  if s.kernelDue part && s.ropeOn part && !r.abandoned && r.mayStart then
    let t := s.issueKernel part
    .next (if (t.part part).kidx = (s.part part).kidx then t
      else t.updPart part (fun q => { q with rope := { q.rope with round := r.round + 1 } }))
  else .next s

/-! ## The boundary (R289) -/

/-- The step's last kernel has ended, or the step is abandoned and none runs (R253, R294). -/
def State.stepDone (s : State) (p : Nat) : Bool :=
  let t := s.part p
  t.phase == .running && !t.kpending && (t.kidx == t.kcount || t.stepFault.isSome || (s.ropeOn p && t.rope.abandoned))

/-- Every entry up to the tails of the partition's request rings has been read. -/
def State.ringsRead (s : State) (p : Nat) : Bool :=
  (List.range 32).all (fun k =>
    let f := s.func (p + 4 * k)
    !ringEn f.rq.cfg || s.aborting (p + 4 * k) || f.rq.head == f.rq.tail)

/-- STEP_BOUNDARY (R289): the boundary of an ended step, or one that waits goes on. -/
def execStepBoundary (part cyclesD : Nat) (s : State) : Host.Outcome State Fault Refusal :=
  if !s.isLive || decide (nParts s.mode ≤ part) then .next s
  else if s.stepDone part && s.ringsRead part then
    match s.whole (fun b => b.firstPart part true) with
    | (t, true) => .next ((t.updPart part (fun q => { q with bndCycles := cyclesD % 2 ^ 32 })).goOn part)
    | (t, false) => .next t
  else .next (s.goOn part)

/-! ## Requests (R284, R285) -/

/-- The scheduler reads the next entry of a request ring. Entries that arrive while a step runs wait for its boundary. -/
def State.takeRequest (s : State) (fn : Nat) (entry : BitVec 1024) (mine : Nat → Bool) : State :=
  let p := funcPart fn
  let f := s.func fn
  if !s.isLive || s.host.link != .up || !s.hasFunc fn || !ringEn f.rq.cfg || s.aborting fn || f.rq.head == f.rq.tail ||
      !mine (rqOp entry.toNat) then s
  else
    let s := s.hostGet (ringGet fn) p fn (ringAddr f.rq.cfg f.rq.head) 128
    let s := s.updFunc fn (fun f => { f with rq := { f.rq with head := (f.rq.head + 1) % 2 ^ 32 } })
    let s := s.updPart p (fun t => { t with reqs := t.reqs ++ [⟨fn, entry⟩] })
    if (s.part p).phase == .idle then s.wakeUp p else s

/-- OPEN (R284, R285, R289): also an entry whose OP is not listed, which is refused. -/
def execOpenReq (fn : Nat) (entry : BitVec 1024) (s : State) : Host.Outcome State Fault Refusal :=
  .next (s.takeRequest fn entry (fun op => op != 2 && op != 3))

/-- CANCEL (R293). -/
def execCancel (fn : Nat) (entry : BitVec 1024) (s : State) : Host.Outcome State Fault Refusal :=
  .next (s.takeRequest fn entry (fun op => op == 2))

/-- PARK (R248). -/
def execPark (fn : Nat) (entry : BitVec 1024) (s : State) : Host.Outcome State Fault Refusal :=
  .next (s.takeRequest fn entry (fun op => op == 3))

/-! ## Bivouac and budgets -/

/-- Whether a transfer of a sequence can complete: its function's accesses have not stopped (R364). -/
def State.transferring (s : State) (p k : Nat) (st : SlotState) : Bool :=
  let q := s.slot p k
  s.isLive && q.state == st && !q.moved && !s.aborting (slotFn p q)

/-- A parking transfer is complete: its slot is the next in the order of returns (R249; log 25). -/
def State.parkDone (s : State) (p k : Nat) : State :=
  (s.updSlot p k (fun q => { q with moved := true })).updPart p (fun t => { t with parked := t.parked ++ [k] })

/-- BIVOUAC_PARK_DONE (R248). -/
def execBivouacParkDone (part slot : Nat) (s : State) : Host.Outcome State Fault Refusal :=
  if s.transferring part slot .parking then .next ((s.parkDone part slot).wakeIdle part) else .next s

/-- BIVOUAC_RETURN_DONE (R249). -/
def execBivouacReturnDone (part slot : Nat) (ok : Bool) (data : List Byte) (s : State) : Host.Outcome State Fault Refusal :=
  if !s.transferring part slot .returning then .next s
  else if !ok then
    .next ((s.updSlot part slot (fun q => { q with moved := true, endCode := some 0x0201 })).wakeIdle part)
  else
    match s.whole (fun b =>
      b.kvOn part (fun e x =>
        let (l, x) := parkedEntries b.s part slot e x
        restorePages b.s part slot e data l (b.s.slot part slot).units x)) with
    | (t, true) =>
      .next (((t.labForget part slot 0 (kvMaxPages (kvg s part))).updSlot part slot (fun q =>
        { q with moved := true, units := [], uses := [] })).wakeIdle part)
    | (t, false) => .next t

/-- BUDGET_EPOCH (R296). -/
def execBudgetEpoch (part periods : Nat) (s : State) : Host.Outcome State Fault Refusal :=
  if s.isLive && decide (part < nParts s.mode) then
    .next ((s.updPart part (fun t => { t with epochCount := t.epochCount + periods })).wakeIdle part)
  else .next s

/-! ## Ring registers (R283, R286, R287) -/

/-- A write of RQTAIL. -/
def State.writeRqtail (s : State) (fn v : Nat) : State :=
  let f := s.func fn
  let t := v % 2 ^ 32
  if f.disabled || decide (2 ^ ringOrder f.rq.cfg < (t + 2 ^ 32 - f.rq.head) % 2 ^ 32) then s
  else s.updFunc fn (fun f => { f with rq := { f.rq with tail := t } })

/-- A write of CQHEAD; a stalled boundary goes on. -/
def State.writeCqhead (s : State) (fn v : Nat) : State :=
  let f := s.func fn
  let h := v % 2 ^ 32
  if 2 ^ ringOrder f.cq.cfg < (f.cq.tail + 2 ^ 32 - h) % 2 ^ 32 then s
  else (s.updFunc fn (fun f => { f with cq := { f.cq with head := h } })).goOn (funcPart fn)

/-- Whether a write of a ring's CFG is taken. -/
def State.cfgOk (s : State) (fn : Nat) (old : Quad) (v : Nat) : Bool :=
  decide (4 ≤ fld v 4 0) && decide (fld v 4 0 ≤ 16) && (!v.testBit 11 || (!ringEn old && s.mayEnableRing fn))

/-- ADDR, EN and ORDER of a CFG value. -/
def cfgValue (v : Nat) : Quad := BitVec.ofNat 64 (v / 4096 * 4096 + 2048 * b2n (v.testBit 11) + fld v 4 0)

/-- A write of RQCFG or CQCFG. -/
def State.writeRingCfg (s : State) (fn : Nat) (completion : Bool) (v : Nat) : State :=
  let f := s.func fn
  if completion then
    if s.cfgOk fn f.cq.cfg v then
      (s.updFunc fn (fun f => { f with cq := { f.cq with cfg := cfgValue v, wraps := if v.testBit 11 then 0 else f.cq.wraps } })).goOn
        (funcPart fn)
    else s
  else if s.cfgOk fn f.rq.cfg v then s.updFunc fn (fun f => { f with rq := { f.rq with cfg := cfgValue v } })
  else s

/-- RQTAIL (R283). -/
def execRqtail (fn value : Nat) (s : State) : Host.Outcome State Fault Refusal :=
  if s.hostReach fn then .next (s.writeRqtail fn value) else .next s

/-- CQHEAD (R283, R286). -/
def execCqhead (fn value : Nat) (s : State) : Host.Outcome State Fault Refusal :=
  if s.hostReach fn then .next (s.writeCqhead fn value) else .next s

/-- RING_CFG (R283, R287). -/
def execRingCfg (fn : Nat) (completion : Bool) (value : Quad) (s : State) : Host.Outcome State Fault Refusal :=
  if s.hostReach fn then .next (s.writeRingCfg fn completion value.toNat) else .next s

/-! ## Cache and serving registers (R224, R228, R278) -/

/-- Cache registers take a write only while no slot is open and no step runs; a boundary is no running step (R279). -/
def State.cacheFree (s : State) (p : Nat) : Bool := (s.part p).slots.isEmpty && (s.part p).phase != .running

/-- A write of KVFRAMES: KVFREE FRAMES is set without a read of memory. -/
def State.writeKvframes (s : State) (p v : Nat) : State :=
  if !s.cacheFree p then s
  else s.updPart p (fun t =>
    let t := { t with kvframes := BitVec.ofNat 64 (fld v 19 0 + 2 ^ 32 * fld v 51 32), released := [] }
    { t with freeFrames := (t.framePool.count - t.framePool.holders) * (partStacks s.mode p).length })

/-- A write of KVGRANS. -/
def State.writeKvgrans (s : State) (p v : Nat) : State :=
  if !s.cacheFree p then s
  else s.updPart p (fun t =>
    let t := { t with kvgrans := BitVec.ofNat 64 (fld v 23 0 + 2 ^ 32 * fld v 55 32) }
    { t with freeGrans := (t.granPool.count - t.granPool.holders) * (partStacks s.mode p).length })

/-- KVFRAMES (R228). -/
def execKvframes (part : Nat) (value : Quad) (s : State) : Host.Outcome State Fault Refusal :=
  if s.reachPf part then .next (s.writeKvframes part value.toNat) else .next s

/-- KVGRANS (R228). -/
def execKvgrans (part : Nat) (value : Quad) (s : State) : Host.Outcome State Fault Refusal :=
  if s.reachPf part then .next (s.writeKvgrans part value.toNat) else .next s

/-- Fields of SRVCTL but EN. -/
def Part.withSrvctl (t : Part) (v : Nat) : Part :=
  { t with chunkmax := fld v 63 48, rowsmax := fld v 47 32, seqmax := fld v 31 16, srvCtx := fld v 13 8 }

/-- Whether EN may be 1 with the limits of `t` (R278, R318, R361, R367, R429). -/
def State.enableOk (s : State) (p : Nat) (t : Part) : Bool :=
  s.mayEnable p && fld s.roles (2 * p + 1) (2 * p) != 3 && t.chunkmax != 0 && t.rowsmax != 0 && t.seqmax != 0 && t.kcount != 0 &&
  decide (t.seqmax ≤ slotsPer s.mode) && decide (stackBase s.mode p ≤ t.bdbase.toNat) &&
  decide (t.bdbase.toNat + 2 * t.bufSize ≤ stackBase s.mode p + stackSpan s.mode)

/-- A write of SRVCTL: whole while EN is 0 and no step runs, else EN alone. EN 0 takes effect at the next boundary, which is now
while no step runs or is about to. -/
def State.writeSrvctl (s : State) (p v : Nat) : State :=
  let t := s.part p
  let n := if t.unlocked then t.withSrvctl v else t
  if v.testBit 0 then
    if !s.enableOk p n then s
    else if t.srvEn then s.setPart p { n with srvOff := false }
    else (s.setPart p { n with srvEn := true, srvOff := false, wake := true }).goOn p
  else if t.srvEn then s.clearEn p
  else s.setPart p n

/-- SRVCTL_EN (R278). -/
def execSrvctlEn (fn : Nat) (value : Quad) (s : State) : Host.Outcome State Fault Refusal :=
  if s.reachPf fn then .next (s.writeSrvctl fn value.toNat) else .next s

end Sys2Proof.Machine
end

