-- ==== Sys2Proof/Machine/HostRegs.lean ====
section
/-! DEFINITION. Registers and memory behind the base address registers: what each offset reads and what a write of it
does (R9, R201, R210, R224 to R251, R278, R283, R288, R347 to R354, R397). -/

namespace Sys2Proof.Machine

/-- The state after a host write; such a command neither faults nor is refused. -/
def afterOf (s : State) (o : Host.Outcome State Fault Refusal) : State := match o with | .next t => t | _ => s

/-! ## The function block (R283, R348, R349) -/

/-- START_STATUS (R397). -/
def Startup.status (t : Startup) : Nat :=
  t.stage + 2 ^ 4 * b2n t.stoppedAt + 2 ^ 8 * t.cause + 2 ^ 16 * t.prevEnd + 2 ^ 20 * t.fwSlot + 2 ^ 21 * b2n t.fwFallback +
  2 ^ 24 * t.partDown + 2 ^ 32 * t.stackDown

/-- FUNCSTAT. -/
def State.funcstat (s : State) (fn : Nat) : Nat :=
  let f := s.func fn
  b2n f.disabled + 2 * b2n f.quiescing + 2 ^ 16 * f.holes +
  (if funcVf fn = 0 then 2 ^ 32 * f.abortedKernels + 2 ^ 48 * f.abortedSeqs else 0)

/-- VFMAP of VF `k` (1 to 31) of a PF, as 128 bits. -/
def State.vfmapOf (s : State) (pf k : Nat) : Nat :=
  let f := s.func (pf + 4 * k)
  f.ctxmask + 2 ^ 80 * f.apbase + 2 ^ 120 * f.apsize

def State.blockReg (s : State) (fn off : Nat) : Nat :=
  let f := s.func fn
  match off with
  | 0x00 => f.rq.cfg.toNat
  | 0x08 => f.rq.tail
  | 0x10 => f.rq.head
  | 0x18 => f.cq.cfg.toNat
  | 0x20 => f.cq.tail
  | 0x28 => f.cq.head
  | 0x30 => f.idrange
  | 0x38 => f.refused + 2 ^ 32 * f.cqstalls
  | 0x40 => f.ctl
  | 0x48 => s.funcstat fn
  | 0x50 => if funcVf fn = 0 then s.start.status else 0
  | _ =>
    if funcVf fn = 0 ∧ 0x100 ≤ off ∧ off < 0x2F0 then
      let v := s.vfmapOf fn ((off - 0x100) / 16 + 1)
      if off % 16 = 0 then v % 2 ^ 64 else v / 2 ^ 64
    else 0

/-- IDRANGE (R283). -/
def State.writeIdrange (s : State) (fn v : Nat) : State := s.updFunc fn (fun f => { f with idrange := fld v 9 0 + 2 ^ 16 * fld v 25 16 })

/-- Whether VFMAP of VF `k` takes a value (R349). -/
def State.vfmapOk (s : State) (pf k v : Nat) : Bool :=
  let mask := fld v (ctxPer s.mode - 1) 0
  let size := fld v 127 120
  let base := fld v 107 80 * 65536
  (s.func (pf + 4 * k)).disabled &&
  (List.range 31).all (fun j => j + 1 == k || (s.func (pf + 4 * (j + 1))).ctxmask &&& mask == 0) &&
  (bitsBelow 64 mask).all (fun x => (s.context pf x).state == .idle) &&
  (size == 0 || (decide (16 ≤ size) && decide (size ≤ 36) && base % 2 ^ size == 0 &&
    decide (stackBase s.mode pf ≤ base) && decide (base + 2 ^ size ≤ stackBase s.mode pf + stackSpan s.mode)))

/-- A write of VFMAP. -/
def State.writeVfmap (s : State) (pf k v : Nat) : State :=
  if s.vfmapOk pf k v then
    s.updFunc (pf + 4 * k) (fun f => { f with ctxmask := fld v (ctxPer s.mode - 1) 0, apsize := fld v 127 120, apbase := fld v 107 80 })
  else s

/-- A write of 8 bytes of the function block; a VF's IDRANGE is not written through the VF. -/
def State.writeBlock (s : State) (fn off v : Nat) : State :=
  match off with
  | 0x00 => s.writeRingCfg fn false v
  | 0x08 => s.writeRqtail fn v
  | 0x18 => s.writeRingCfg fn true v
  | 0x28 => s.writeCqhead fn v
  | 0x30 => if funcVf fn = 0 then s.writeIdrange fn v else s
  | 0x40 => s.updFunc fn (fun f => { f with ctl := fld v 2 0 })
  | _ =>
    if funcVf fn = 0 ∧ 0x100 ≤ off ∧ off < 0x2F0 then
      let k := (off - 0x100) / 16 + 1
      let old := s.vfmapOf fn k
      s.writeVfmap fn k (if off % 16 = 0 then v + old / 2 ^ 64 * 2 ^ 64 else old % 2 ^ 64 + v * 2 ^ 64)
    else s

/-! ## Context windows (R210, R352) -/

/-- KSTAT. -/
def Context.kstat (c : Context) : Nat :=
  b2n (match c.pending with | some st => !st.step | none => false) + 2 * b2n c.overrun + 4 * b2n c.csCopy.isSome + 8 * b2n c.csErr +
  16 * b2n c.serving + 2 ^ 32 * c.kends

def Context.window (c : Context) (off : Nat) : Nat :=
  if off < 0x40 then fld c.kstart.toNat (8 * off + 63) (8 * off)
  else if off = 0x48 then c.krAddr.toNat
  else if off = 0x50 then c.kstat
  else if off = 0x58 then c.csSrc
  else if 0x80 ≤ off ∧ off < 0xA8 then c.reg (off - 0x80)
  else if 0xC0 ≤ off ∧ off < 0xE0 then fld c.kreport.toNat (8 * (off - 0xC0) + 63) (8 * (off - 0xC0))
  else 0

/-- A write of a context register (R210, R211): CTXCORES, CTXSAVE and CTXSCR only while IDLE. -/
def State.writeCtxReg (s : State) (fn p x off v : Nat) : State :=
  let c := s.context p x
  match off with
  | 0 => s.writeCtxctl fn p x v
  | 8 =>
    let m := fld v 47 0
    if c.stateCode != 0 || (m &&& coreMask s.mode p) != m then s else s.setContext p x { c with cores := m }
  | 16 =>
    let base := fld v 43 16 * 65536
    let size := (bitsBelow 48 c.cores).length * 0xC0_0000
    if c.stateCode != 0 || decide (base < stackBase s.mode p) || decide (stackBase s.mode p + stackSpan s.mode < base + size) then s
    else s.setContext p x { c with save := base, saveWritten := true }
  | 24 => if c.stateCode != 0 || decide (32 < fld v 5 0) then s else s.setContext p x { c with units := fld v 5 0 }
  | _ => s

/-- A write of 8 bytes of a context window. -/
def State.writeWindow (s : State) (fn x off v : Nat) : State :=
  let p := funcPart fn
  if off < 0x40 then
    s.updContext p x (fun c => { c with kstart := BitVec.ofNat 512 (setFld c.kstart.toNat (8 * off + 63) (8 * off) v) })
  else if off = 0x40 then afterOf s (execKgo fn x s)
  else if off = 0x48 then s.updContext p x (fun c => { c with krAddr := BitVec.ofNat 64 (v / 32 * 32 + v % 2) })
  else if off = 0x58 then s.updContext p x (fun c => { c with csSrc := v })
  else if off = 0x60 then afterOf s (execCsgo fn x (BitVec.ofNat 64 v) s)
  else if 0x80 ≤ off ∧ off < 0xA8 then s.writeCtxReg fn p x (off - 0x80) v
  else s

/-! ## Cache and serving registers (R224, R278) -/

/-- PHASE of STEPSTAT. -/
def StepPhase.code : StepPhase → Nat
  | .idle => 0
  | .running => 1
  | .boundary => 2
  | .stalled => 3

def State.servingReg (s : State) (p off : Nat) : Nat :=
  let t := s.part p
  match off with
  | 0x00 => t.kvgeom.toNat
  | 0x08 => t.kvptb.toNat
  | 0x10 => t.kvframes.toNat
  | 0x18 => t.kvgrans.toNat
  | 0x20 => t.freeGrans + 2 ^ 32 * t.freeFrames
  | 0x28 => t.pdbase.toNat
  | 0x30 => t.dir.length + 2 ^ 32 * t.collisions + 2 ^ 48 * t.evictions
  | 0x38 => t.bivbase.toNat
  | 0x40 => t.bivsize.toNat
  | 0x48 => if s.accepts p 6 then t.ropecfg.toNat else t.ropecfg.toNat % 2 ^ 63
  | 0x80 => b2n (t.srvEn && !t.srvOff) + 2 ^ 8 * t.srvCtx + 2 ^ 16 * t.seqmax + 2 ^ 32 * t.rowsmax + 2 ^ 48 * t.chunkmax
  | 0x88 => t.klist.toNat
  | 0x90 => t.bdbase.toNat
  | 0x98 => t.phase.code + 2 ^ 16 * t.lastFault + 2 ^ 32 * (t.steps % 2 ^ 32)
  | 0xA0 => t.runPeriods + 2 ^ 32 * t.bndCycles
  | _ => 0

/-- The bits of a value that a mask of fields [hi:lo] names. -/
def keepFields (l : List (Nat × Nat)) (v : Nat) : Quad := BitVec.ofNat 64 ((l.map (fun f => fld v f.1 f.2 * 2 ^ f.2)).sum)

/-- A write of a cache or serving register. -/
def State.writeServing (s : State) (p off v : Nat) : State :=
  let cache := fun (f : Part → Part) => if s.cacheFree p then s.updPart p f else s
  let list := fun (f : Part → Part) => if (s.part p).unlocked then s.updPart p f else s
  match off with
  | 0x00 => if kvGeomOk v then cache (fun t => { t with kvgeom := keepFields [(63, 48), (39, 8), (4, 0)] v }) else s
  | 0x08 => cache (fun t => { t with kvptb := keepFields [(35, 16)] v })
  | 0x10 => s.writeKvframes p v
  | 0x18 => s.writeKvgrans p v
  | 0x28 => cache (fun t => { t with pdbase := keepFields [(35, 16)] v })
  | 0x38 => cache (fun t => { t with bivbase := keepFields [(63, 12), (0, 0)] v })
  | 0x40 => cache (fun t => { t with bivsize := keepFields [(31, 0)] v })
  | 0x48 => cache (fun t => { t with ropecfg := keepFields [(63, 63), (60, 48), (45, 32), (28, 16), (12, 0)] v })
  | 0x80 => s.writeSrvctl p v
  | 0x88 => list (fun t => { t with klist := keepFields [(63, 52), (43, 6)] v })
  | 0x90 => list (fun t => { t with bdbase := keepFields [(43, 16)] v })
  | _ => s

/-! ## Slot records (R288) -/

/-- STATE of a slot in its encoding. -/
def SlotState.code : SlotState → Nat
  | .free => 0
  | .prefill => 1
  | .generate => 2
  | .parking => 3
  | .parked => 4
  | .returning => 5

/-- A slot record. -/
def Slot.bits (q : Slot) : Nat :=
  q.state.code + 2 ^ 3 * b2n q.cancel + 2 ^ 4 * b2n q.park + 2 ^ 5 * b2n q.publish + 2 ^ 6 * b2n q.varen + 2 ^ 8 * q.specmax +
  2 ^ 12 * q.ndraft + 2 ^ 16 * q.status + 2 ^ 32 * q.ident + 2 ^ 42 * q.variant + 2 ^ 50 * q.func + 2 ^ 64 * q.tag +
  2 ^ 96 * (q.c % 2 ^ 32) + 2 ^ 128 * (q.t % 2 ^ 32) + 2 ^ 160 * q.plen + 2 ^ 192 * (q.pdone % 2 ^ 32) +
  2 ^ 224 * (q.generated % 2 ^ 32) + 2 ^ 256 * q.maxnew + 2 ^ 288 * q.lasttok + 2 ^ 320 * (q.joinseq % 2 ^ 32) +
  2 ^ 352 * q.laststep + 2 ^ 384 * q.counter + 2 ^ 448 * q.prompt

/-! ## BAR0 (R347) -/

/-- The 8 bytes at `off` (a multiple of 8) of a function's BAR0. The component and device registers of function 0 (R345) stand where R347
lists nothing, at a place the manual does not give, and read as the standards have them (log 11). -/
def State.hostReg (s : State) (fn off : Nat) : Nat :=
  let p := funcPart fn
  let pf := funcVf fn == 0
  if off < 0x1000 then s.blockReg fn off
  else if 0x1_0000 ≤ off ∧ off < 0x1_4000 then
    let x := (off - 0x1_0000) / 256
    if s.reachCtx fn x then (s.context p x).window (off % 256) else 0
  else if 0x8_0000 ≤ off ∧ off < 0x10_0000 then
    let k := (off - 0x8_0000) / 128
    let q := s.slot p k
    if k < slotsPer s.mode ∧ q.state ≠ .free ∧ slotFn p q = fn then fld q.bits (8 * (off % 128) + 63) (8 * (off % 128)) else 0
  else if !pf then 0
  else if 0x2_0000 ≤ off ∧ off < 0x2_1000 then s.servingReg p (off - 0x2_0000)
  else if 0x100_0000 ≤ off ∧ off < 0x130_0000 then
    let c := (off - 0x100_0000) / 0x1_0000
    if partOfCore s.mode c = p then s.coreReg c (off % 0x1_0000) else 0
  else if 0x140_0000 ≤ off ∧ off < 0x150_0000 then
    let k := (off - 0x140_0000) / 0x1_0000
    if partOfStack s.mode k = p then s.stackReg k (off % 0x1_0000) else 0
  else if fn = 0 ∧ Config.componentBlock ≤ off ∧ off < Config.componentBlock + 0x2_0000 then
    leNat (fit 0 8 (Config.standardAnswer 6 (leBytes 4 (off - Config.componentBlock))))
  else 0

/-- A host write of bytes of the word at `off` of a core's register block: beside what any writer may write, BELAY and
context registers (R201, R210). -/
def State.hostCoreWrite (s : State) (fn c off : Nat) (m : List (Option Byte)) : State :=
  let p := funcPart fn
  let v := mergeReg (s.coreReg c off) m
  if c % 12 = 0 ∧ 0x9000 ≤ off ∧ off < 0x9400 then
    s.writeCtxReg fn p (16 * (c / 12 - lowDie s.mode p) + (off - 0x9000) / 64) (off % 64) v
  else if c % 12 = 0 ∧ c / 12 = lowDie s.mode p ∧ 0x8000 ≤ off ∧ off < 0x8800 then s.writeBelay p ((off - 0x8000) / 8) v
  else s.coreRegWrite c off m

/-- A write of bytes of the 8-byte word at `off` of a function's BAR0. -/
def State.writeReg (s : State) (fn off : Nat) (m : List (Option Byte)) : State :=
  let p := funcPart fn
  let v := mergeReg (s.hostReg fn off) m
  if off < 0x1000 then s.writeBlock fn off v
  else if 0x1_0000 ≤ off ∧ off < 0x1_4000 then
    let x := (off - 0x1_0000) / 256
    if s.reachCtx fn x then s.writeWindow fn x (off % 256) v else s
  else if funcVf fn ≠ 0 then s
  else if 0x2_0000 ≤ off ∧ off < 0x2_1000 then s.writeServing p (off - 0x2_0000) v
  else if 0x100_0000 ≤ off ∧ off < 0x130_0000 then
    let c := (off - 0x100_0000) / 0x1_0000
    if partOfCore s.mode c = p then s.hostCoreWrite fn c (off % 0x1_0000) m else s
  else if 0x140_0000 ≤ off ∧ off < 0x150_0000 then
    let k := (off - 0x140_0000) / 0x1_0000
    if partOfStack s.mode k = p then s.stackRegWrite k (off % 0x1_0000) m else s
  else s

/-- Bytes at consecutive places cut into aligned words of 8, each with its mask. -/
def maskWords (off : Nat) (bs : List Byte) : List (Nat × List (Option Byte)) :=
  let l := List.replicate (off % 8) none ++ bs.map some
  let n := ceilDiv l.length 8
  (List.range n).map (fun i => (off / 8 * 8 + 8 * i, fit none 8 (l.drop (8 * i))))

/-- Bytes of BAR0. -/
def State.readRegs (s : State) (fn off n : Nat) : List Byte :=
  (List.range n).map (fun i => BitVec.ofNat 8 (s.hostReg fn ((off + i) / 8 * 8) >>> (8 * ((off + i) % 8))))

/-! ## BAR2 and BAR4 (R347, R351) -/

/-- Core, and bank or scratch with its offset, of a byte of BAR2. -/
def bar2Place (o : Nat) : Nat × Option Nat × Nat :=
  if o < 0x1800_0000 then (o / 0x80_0000, none, o % 0x80_0000)
  else ((o - 0x1800_0000) / 0x4_0000, some ((o - 0x1800_0000) / 0x2_0000 % 2), (o - 0x1800_0000) % 0x2_0000)

/-- A byte that a PF reads in BAR2. -/
def State.bar2Byte (s : State) (fn o : Nat) : Byte :=
  let (c, b, off) := bar2Place o
  if 48 ≤ c ∨ partOfCore s.mode c ≠ funcPart fn then 0
  else match b with
    | none => if s.sanitising (funcPart fn) then 0xFF else (s.mem.scratchRead c off 1).headD 0
    | some b => (s.mem.bankRead c b off 1).headD 0

/-- Pieces of a write of BAR2 that stay in one 64-byte line. -/
def linePieces (off : Nat) (bs : List Byte) : List (Nat × List Byte) :=
  let head := min bs.length (64 - off % 64)
  (off, bs.take head) :: ((List.range (ceilDiv (bs.length - head) 64)).map (fun i => (off + head + 64 * i, (bs.drop (head + 64 * i)).take 64)))

/-- A PF's write of one piece of BAR2: scratch takes LASTUSE HOST, an applied write of a bank makes its owner ANY. -/
def State.bar2Write (s : State) (fn o : Nat) (bs : List Byte) : State :=
  let (c, b, off) := bar2Place o
  if 48 ≤ c ∨ partOfCore s.mode c ≠ funcPart fn ∨ bs.isEmpty then s
  else match b with
    | none =>
      if s.sanitising (funcPart fn) then s
      else ({ s with mem := s.mem.scratchWrite c off (bs.map some) } : State).updCore c (fun k => { k with lastUse := .host })
    | some b =>
      let live := s.liveBank c b
      let s := s.loadBank c b off (bs.map some)
      if live then s else s.updCore c (fun k => k.setOwner b .any)

/-- The local address of BAR4 offset `o` for an access of `n` bytes, or none for a hole. -/
def State.bar4Addr (s : State) (fn o n : Nat) : Option Nat :=
  let p := funcPart fn
  let (lo, hi) := s.aperture fn
  let e := s.partEnv p
  if s.sanitising p ∨ hi < lo + o + n then none
  else if (List.range ((lo + o + n - 1) / 64 + 1 - (lo + o) / 64)).all (fun i =>
      match e.place s.mem (64 * ((lo + o) / 64 + i)) with | .stack _ _ => true | _ => false) then some (lo + o)
  else none

/-- A host access under R351. -/
def State.hole (s : State) (fn : Nat) : State :=
  if (s.func fn).holes = 65535 then s else (s.updFunc fn (fun f => { f with holes := f.holes + 1 })).irq fn 2

/-- Host bytes in and out (R297). -/
def State.hostBytes (s : State) (p rx tx : Nat) : State := s.updPart p (fun t => { t with hostUse := addCounters t.hostUse [rx, tx] })

end Sys2Proof.Machine
end

