-- ==== Sys2Proof/Machine/Host.lean ====
section
/-! DEFINITION. The host port: the CXL link, the disabling of functions, configuration, CXL.mem and the base address
registers (R342 to R369, R394). -/

namespace Sys2Proof.Machine

/-! ## Disabling and resetting functions (R363 to R367) -/

/-- The functions that a function's disable covers: itself, and every VF of a PF. -/
def coveredFns (fn : Nat) : List Nat := if funcVf fn = 0 then (List.range 32).map (fun k => fn + 4 * k) else [fn]

/-- Contexts that a function holds; of a PF, every context of the partition. -/
def State.heldCtxs (s : State) (fn : Nat) : List Nat :=
  (s.ctxs).filter (fun x => funcVf fn == 0 || s.ctxFn (funcPart fn) x == fn)

/-- SRVCTL EN clears, and the step is abandoned (R365). -/
def State.stopServing (s : State) (p : Nat) : State :=
  let t := s.part p
  let s := s.clearEn p
  if t.phase == .running then s.stepFail p 0x0304 else s

/-- What a disable covers that is not quiescing already. -/
def State.newlyOff (s : State) (fn : Nat) : List Nat := (coveredFns fn).filter (fun f => !(s.func f).quiescing)

/-- The contexts whose kernels a disable ends. -/
def State.endedCtxs (s : State) (fn : Nat) : List Nat := ((s.newlyOff fn).flatMap s.heldCtxs).dedup

/-- A function is disabled: DISABLED and QUIESCING read 1, for it and for what it covers; the kernels and starts of each function
that was not quiescing already (`held`: their contexts) end with 0x0304, its sequences at the next boundary. A function that still
quiesces adds nothing (R367). -/
def State.disableHeld (s : State) (fn : Nat) (held : List Nat) : State :=
  let p := funcPart fn
  let new := s.newlyOff fn
  let s := (coveredFns fn).foldl (fun s f => s.updFunc f (fun v => { v with disabled := true, quiescing := true })) s
  if new.isEmpty then s
  else
    let s := if new.contains p then s.stopServing p else s
    let s := held.foldl (fun s x =>
      (s.updContext p x (fun t => { t with en := false })).cancelContext p x 0x0304 0x0304) s
    let s := if (s.part p).phase == .idle && !(s.part p).slots.isEmpty then s.wakeUp p else s.goOn p
    s.quiesceDone

def State.disable (s : State) (fn : Nat) : State := s.disableHeld fn (s.endedCtxs fn)

/-- The registers of one function at their reset values: rings, FUNCCTL, a PF's VFMAPs, and the windows it holds, the context
registers in them too (R352, R364). -/
def State.resetFn (s : State) (fn : Nat) : State :=
  let p := funcPart fn
  let s := (s.heldCtxs fn).foldl (fun s x => s.updContext p x (fun t => { t with
    kstart := 0, krAddr := 0, overrun := false, csErr := false, serving := false, kends := 0, csSrc := 0, kreport := 0
    prio := 0, status := 0, saves := 0, cores := 0, save := 0, saveWritten := false, units := 0x20, saveCycles := 0, restoreCycles := 0 })) s
  (coveredFns fn).foldl (fun s f => s.updFunc f (fun v => { v with
    rq := {}, cq := {}, idrange := 0, refused := 0, cqstalls := 0, ctl := 0
    ctxmask := if funcVf fn = 0 then 0 else v.ctxmask
    apsize := if funcVf fn = 0 then 0 else v.apsize
    apbase := if funcVf fn = 0 then 0 else v.apbase })) s

/-- The registers of a function reset, and it is disabled with the kernels of the contexts it held before (R364, R365). -/
def State.flr (s : State) (fn : Nat) : State := (s.resetFn fn).disableHeld fn (s.endedCtxs fn)

/-- Every function of the mode is disabled, its registers reset (log 11). -/
def State.disableAll (s : State) : State := (List.range (nParts s.mode)).foldl State.flr s

/-- Whether the host's configuration requests reach a function. -/
def State.cfgReach (s : State) (fn : Nat) : Bool := s.pastNine && s.host.link == .up && s.hasFunc fn

/-- FLR (R363, R364). -/
def execFlr (fn : Nat) (s : State) : Host.Outcome State Fault Refusal :=
  if s.cfgReach fn then .next (s.flr fn) else .next s

/-- D3HOT_ENTRY (R363, R364): the registers stay. -/
def execD3hotEntry (fn : Nat) (s : State) : Host.Outcome State Fault Refusal :=
  if s.cfgReach fn && !(s.func fn).d3hot then .next ((s.updFunc fn (fun f => { f with d3hot := true })).disable fn) else .next s

/-- A function is enabled (R367). -/
def State.enableFn (s : State) (fn : Nat) : State :=
  if (s.func fn).disabled then (s.updFunc fn (fun f => { f with disabled := false })).irq fn 2 else s

/-- D0_RETURN (R364): the registers reset as by an FLR, and DISABLED clears. -/
def execD0Return (fn : Nat) (s : State) : Host.Outcome State Fault Refusal :=
  if s.cfgReach fn && (s.func fn).d3hot then
    .next (((s.resetFn fn).updFunc fn (fun f => { f with d3hot := false })).enableFn fn)
  else .next s

/-- BME_CLEAR (R363, R364): the registers stay. -/
def execBmeClear (fn : Nat) (s : State) : Host.Outcome State Fault Refusal :=
  if s.cfgReach fn then .next (s.disable fn) else .next s

/-- VF_ENABLE_CLEAR (R363): every VF of the PF. -/
def execVfEnableClear (fn : Nat) (s : State) : Host.Outcome State Fault Refusal :=
  if s.cfgReach fn && funcVf fn == 0 then
    .next ((List.range 31).foldl (fun s k => s.disable (fn + 4 * (k + 1))) s)
  else .next s

/-- FUNCTION_ENABLE (R367). -/
def execFunctionEnable (fn : Nat) (s : State) : Host.Outcome State Fault Refusal :=
  if s.cfgReach fn && !(s.func fn).d3hot then .next (s.enableFn fn) else .next s

/-! ## Configuration and the mailboxes of CXL (R342 to R346, R394) -/

/-- The Device Serial Number: EUI-64 of the MAC (R346). -/
def dsnOf (mac : Nat) : Nat := fld mac 23 0 + 2 ^ 24 * 0xFFFE + 2 ^ 40 * fld mac 47 24

/-- The capabilities of R345 that stand in configuration space. -/
inductive Cap where
  | pcie
  | power
  | errors
  | cxl
  | flexBus
  | registerLocator
  | nonCxlMap
  | physical16
  | physical32
  | physical64
  | margining
  | dataLink
  | msix
  | sriov
  | ari
  | ats
  | acs
  | doe
  | ide
  | serial
  deriving DecidableEq, Repr

/-- All of them, in the order of the table. -/
def allCaps : List Cap :=
  [.pcie, .power, .errors, .cxl, .flexBus, .registerLocator, .nonCxlMap, .physical16, .physical32, .physical64, .margining, .dataLink,
   .msix, .sriov, .ari, .ats, .acs, .doe, .ide, .serial]

/-- Whether a function carries a capability (R345). -/
def Cap.carried (c : Cap) (fn : Nat) : Bool :=
  match c with
  | .pcie | .power | .msix | .ari | .doe => true
  | .errors | .sriov | .acs | .serial => funcVf fn == 0
  | _ => fn == 0

/-- Dwords of a capability of which the manual settles something, its header counted. -/
def Cap.dwords (c : Cap) : Nat :=
  match c with
  | .power | .acs => 2
  | .sriov => 7
  | _ => 1

/-- Dword `k` of a capability: an endpoint; D0 and D3hot alone, No_Soft_Reset 0 and the power state; four MSI-X vectors; 31 VFs at
offset 4 and stride 4; of the ACS functions source validation, P2P request redirect and egress control (R344, R345); the rest as the
standards give it, `w`. -/
def State.capDword (s : State) (fn : Nat) (c : Cap) (k w : Nat) : Nat :=
  match c, k with
  | .pcie, 0 => setFld w 23 20 0
  | .power, 0 => setFld w 26 25 0
  | .acs, 1 => setFld w 6 0 0x25
  | .power, 1 => setFld (setFld w 3 3 0) 1 0 (if (s.func fn).d3hot then 3 else 0)
  | .msix, 0 => setFld w 26 16 3
  | .sriov, 3 => 31 + 2 ^ 16 * 31
  | .sriov, 5 => 4 + 2 ^ 16 * 4
  | .sriov, 6 => setFld w 31 16 0x4817
  | _, _ => w

/-- A configuration register: identity, class, serial number and what R344 and R345 settle of the capabilities as the manual gives them,
the rest by the standards (log 11). -/
def State.configReg (s : State) (fn reg : Nat) : List Byte :=
  let pf := funcVf fn == 0
  if reg = 0 then leBytes 4 (if pf then 0x48161FA5 else 0x48171FA5)
  else if reg = 8 then leBytes 4 0x120000A1
  else if pf && reg == 0x100 + Config.dsnOffset + 4 then leBytes 4 (dsnOf s.nv.mac % 2 ^ 32)
  else if pf && reg == 0x100 + Config.dsnOffset + 8 then leBytes 4 (dsnOf s.nv.mac / 2 ^ 32)
  else
    let at_ := leBytes 2 fn ++ leBytes 2 reg
    let off := fun (c : Cap) => Config.capOffset (allCaps.idxOf c)
    match (allCaps.filter (·.carried fn)).find? (fun c => decide (off c ≤ reg) && decide (reg < off c + 4 * c.dwords)) with
    | some c => leBytes 4 (s.capDword fn c ((reg - off c) / 4) (leNat (fit 0 4 (Config.standardAnswer (16 + allCaps.idxOf c) at_))))
    | none => Config.standardAnswer 0 at_

/-- CONFIG_REQUEST (R394): Retry Status before stage 9; a function that the mode lacks answers by the standard. -/
def execConfigRequest (fn reg : Nat) (s : State) : Host.Outcome State Fault Refusal :=
  if s.host.link != .up then .next s
  else if !s.pastNine then .next (s.emit (.configRetry fn))
  else if s.hasFunc fn then .next (s.emit (.configData fn reg (s.configReg fn reg)))
  else .next (s.emit (.configData fn reg (Config.standardAnswer 1 (leBytes 2 fn ++ leBytes 2 reg))))

/-- CXL_IDE_KM (R342): only on a secured session of function 0. -/
def execCxlIdeKm (msg : List Byte) (cacheMem io : Bool) (s : State) : Host.Outcome State Fault Refusal :=
  if s.hostReach 0 && s.sec.sessions.any (fun x => x.1 == .mailbox 0) then
    .next (({ s with host := { s.host with ideMem := cacheMem, ideIo := io } } : State).emit
      (.spdm (.mailbox 0) (Config.standardAnswer 2 msg)))
  else .next s

/-- Protocols of a PF's DOE: Discovery, CMA/SPDM, secured CMA/SPDM, the dictionary object: vendor and type (R342, R385). -/
def doeProtocols : List (Nat × Nat) := [(1, 0), (1, 1), (1, 2), (0x1FA5, 1)]

/-- DOE_DISCOVERY (R342): one entry and the index of the next, 0 after the last (log 11). -/
def execDoeDiscovery (fn index : Nat) (s : State) : Host.Outcome State Fault Refusal :=
  if s.reachPf fn then
    let v := doeProtocols.getD index (0xFFFF, 0)
    let next := if index + 1 < doeProtocols.length then index + 1 else 0
    .next ((s.emit (.doe fn (leBytes 4 (v.1 + 2 ^ 16 * v.2 + 2 ^ 24 * next)))).irq fn 3)
  else .next s

/-- PRIMARY_MAILBOX_IDENTIFY (R345). -/
def execPrimaryMailboxIdentify (s : State) : Host.Outcome State Fault Refusal :=
  if s.hostReach 0 then .next (s.emit (.mailbox (Config.standardAnswer 3 []))) else .next s

/-- GET_SUPPORTED_LOGS (R345). -/
def execGetSupportedLogs (s : State) : Host.Outcome State Fault Refusal :=
  if s.hostReach 0 then .next (s.emit (.mailbox (Config.standardAnswer 4 []))) else .next s

/-- GET_LOG (R345): a window of the Command Effects Log. -/
def execGetLog (offset len : Nat) (s : State) : Host.Outcome State Fault Refusal :=
  if s.hostReach 0 then .next (s.emit (.mailbox (((Config.standardAnswer 5 []).drop offset).take len))) else .next s

/-! ## CXL.mem (R357, R358) -/

/-- HDM_COMMIT (R357): Base and Size are in multiples of 256 MiB. -/
def execHdmCommit (base size iw : Nat) (s : State) : Host.Outcome State Fault Refusal :=
  if !s.hostReach 0 then .next s
  else if iw ≠ 1 ∨ stackSpan s.mode < size ∨ base % 2 ^ 28 ≠ 0 ∨ size % 2 ^ 28 ≠ 0 then
    .next { s with host := { s.host with hdmError := true } }
  else .next { s with host := { s.host with hdmBase := base, hdmSize := size, hdmOn := true, hdmError := false } }

/-- Whether an address of the host lies in the window. -/
def State.inWindow (s : State) (hpa : Nat) : Bool :=
  s.pastNine && s.host.link == .up && s.host.hdmOn && decide (s.host.hdmBase ≤ hpa) && decide (hpa < s.host.hdmBase + s.host.hdmSize)

/-- Stack and line of a line of P0, by the partition's interleave mode; none for a hole. -/
def State.lineOfP0 (s : State) (line : Nat) : Option (Nat × Nat) :=
  if s.sanitising 0 then none
  else match (s.partEnv 0).place s.mem (64 * line) with
    | .stack k off => some (k, off / 64)
    | _ => none

/-- REMAP_THRESHOLD (0x1520.11) as the base dies use it. -/
def State.threshold (s : State) : Nat := s.dictVal 0x1520 0x11 4

/-- A whole line written by the host. -/
def State.hostLine (s : State) (k line : Nat) (bs : List Byte) : State :=
  ((s.withMem (s.mem.writeLine s.start.periods s.threshold k line (bs.map some)).1 3).addLink 0 64).freedFrom s

/-- A CXL.mem read. A full filter sends a back-invalidation first, and the read waits for it (R358). -/
def State.memRead (s : State) (hpa : Nat) (tracked : Bool) : State :=
  if !s.inWindow hpa then s
  else
    let line := (hpa - s.host.hdmBase) / 64
    match s.lineOfP0 line with
    | none => s.emit (.memPoison hpa)
    | some (k, l) =>
      let f := s.host.filter
      if (s.mem.stack k).closed false l then s
      else if tracked && !f.contains line && decide (524288 ≤ f.length) then
        (s.sendSnoops ((f.take 1).map (fun v => (v, true)))).holdHost (.memRead hpa tracked)
      else
        let (m, r) := s.mem.readLine s.start.periods s.threshold k l
        let s := ((s.withMem m 3).addLink 0 64).freedFrom s
        let s := if tracked then { s with host := { s.host with filter := s.host.filter.filter (· != line) ++ [line] } } else s
        match r with
        | .ok bs => (s.hostBytes 0 0 64).emit (.memData hpa bs)
        | .bad _ => s.emit (.memPoison hpa)

/-- CXL_MEM_READ (R357, R358). -/
def execCxlMemRead (hpa : Nat) (tracked : Bool) (s : State) : Host.Outcome State Fault Refusal := .next (s.memRead hpa tracked)

/-- CXL_MEM_WRITE (R357): a write to a hole, or in a failed channel, is dropped with Cmp. -/
def execCxlMemWrite (hpa : Nat) (data : BitVec 512) (s : State) : Host.Outcome State Fault Refusal :=
  if !s.inWindow hpa then .next s
  else match s.lineOfP0 ((hpa - s.host.hdmBase) / 64) with
    | none => .next (s.emit (.memCmp hpa))
    | some (k, l) =>
      if (s.mem.stack k).closed false l then .next s
      else .next (((s.hostLine k l (leBytes 64 data.toNat)).hostBytes 0 64 0).emit (.memCmp hpa))

/-- H2D_SNOOP (R342): RspIHitI, whatever the line. -/
def execH2dSnoop (hpa : Nat) (s : State) : Host.Outcome State Fault Refusal :=
  if s.host.link == .up then .next (s.emit (.snoopRsp hpa)) else .next s

/-! ## Base address registers (R347, R351, R394) -/

/-- Size of a BAR, or none where the function lacks it. -/
def barSize (mode fn bar : Nat) : Option Nat :=
  match bar with
  | 0 => some (if funcVf fn = 0 then 2 ^ 26 else 2 ^ 20)
  | 2 => if funcVf fn = 0 then some (2 ^ 29) else none
  | 4 => some (if funcVf fn = 0 then stackSpan mode else 2 ^ 36)
  | _ => none

/-- Whether an access hits a BAR of a function that takes memory requests. -/
def State.barHit (s : State) (fn bar offset len : Nat) : Bool :=
  s.pastNine && s.hasFunc fn && !(s.func fn).d3hot &&
  (match barSize s.mode fn bar with | some n => decide (offset + len ≤ n) | none => false)

/-- Bytes of the partition's stacks that a host reads through a BAR; none where a line fails. -/
def readBar4 (e : Env) (now threshold : Nat) : MemSys → List Nat → MemSys × Option (List Byte)
  | m, [] => (m, some [])
  | m, l :: t =>
    match e.place m (64 * l) with
    | .stack k off =>
      match m.readLine now threshold k (off / 64) with
      | (m, .bad _) => (m, none)
      | (m, .ok bs) =>
        match readBar4 e now threshold m t with
        | (m, some rest) => (m, some (bs ++ rest))
        | (m, none) => (m, none)
    | _ => (m, none)

/-- Lines that `n` bytes from an address touch. -/
def linesFrom (a n : Nat) : List Nat := (List.range ((a + n - 1) / 64 + 1 - a / 64)).map (fun i => a / 64 + i)

/-- A read through BAR4. -/
def State.barRead4 (s : State) (fn offset len : Nat) : State :=
  let p := funcPart fn
  match s.bar4Addr fn offset len with
  | none => (s.hole fn).emit (.barData fn (List.replicate len 0xFF))
  | some a =>
    if (linesFrom a len).any (fun l => lineClosed (s.partEnv p) s.mem (64 * l)) then s
    else
    let (m, r) := readBar4 (s.partEnv p) s.start.periods s.threshold s.mem (linesFrom a len)
    let s := ((s.withMem m 3).addLink p (64 * (linesFrom a len).length)).freedFrom s
    match r with
    | some bs => (s.hostBytes p 0 len).emit (.barData fn ((bs.drop (a % 64)).take len))
    | none => s.emit (.barPoison fn)

/-- A read through a BAR of a function completes. -/
def State.barRead (s : State) (fn bar offset len : Nat) : State :=
  if bar = 4 then s.barRead4 fn offset len
  else
    let s := s.hostBytes (funcPart fn) 0 len
    if bar = 0 then s.emit (.barData fn (s.readRegs fn offset len))
    else if s.sanitising (funcPart fn) && decide (offset < 0x1800_0000) then
      (s.hole fn).emit (.barData fn (List.replicate len 0xFF))
    else s.emit (.barData fn ((List.range len).map (fun i => s.bar2Byte fn (offset + i))))

/-- HOST_BAR_READ (R347, R351, R359, R394): it returns after every write that came before it through its function. -/
def execHostBarRead (fn bar offset len : Nat) (s : State) : Host.Outcome State Fault Refusal :=
  if s.host.link != .up || len == 0 then .next s
  else if !s.barHit fn bar offset len then .next (s.emit (.barUnsupported fn))
  else .next (if s.behind fn then s.holdHost (.barRead fn bar offset len) else s.barRead fn bar offset len)

/-- A write through BAR4: a tracked line of P0 is invalidated in the host first, and the write waits for it (R358). -/
def State.barWrite4 (s : State) (fn offset : Nat) (data : List Byte) : State :=
  let p := funcPart fn
  match s.bar4Addr fn offset data.length with
  | none => s.hole fn
  | some a =>
    let e := s.partEnv p
    let held := (linesFrom a data.length).filter e.hostHolds
    if !held.isEmpty then (s.sendSnoops (held.map (fun l => (l, true)))).holdHost (.barWrite fn offset data)
    else if (linesFrom a data.length).any (fun l => lineClosed e s.mem (64 * l)) then s
    else
      let m := (linePieces a data).foldl (fun (m : MemSys) v =>
        match v.2, e.place m (v.1 / 64 * 64) with
        | [], _ => m
        | bs, .stack k off =>
          (m.writeLine s.start.periods s.threshold k (off / 64) (fit none 64 (List.replicate (v.1 % 64) none ++ bs.map some))).1
        | _, _ => m) s.mem
      (((s.withMem m 3).addLink p data.length).freedFrom s).hostBytes p data.length 0

/-- HOST_BAR_WRITE (R347, R351, R394). -/
def execHostBarWrite (fn bar offset : Nat) (data : List Byte) (s : State) : Host.Outcome State Fault Refusal :=
  if s.host.link != .up || data.isEmpty then .next s
  else if !s.barHit fn bar offset data.length then .next (s.emit (.barUnsupported fn))
  else if bar = 4 then .next (if s.behind fn then s.holdHost (.barWrite fn offset data) else s.barWrite4 fn offset data)
  else
    let s := s.hostBytes (funcPart fn) data.length 0
    if bar = 0 then .next ((maskWords offset data).foldl (fun s w => s.writeReg fn w.1 w.2) s)
    else if s.sanitising (funcPart fn) && decide (offset < 0x1800_0000) then .next (s.hole fn)
    else .next ((linePieces offset data).foldl (fun s v => s.bar2Write fn v.1 v.2) s)

/-- VFMAP (R349): whole, or ignored whole. -/
def execVfmap (pf vf : Nat) (value : BitVec 128) (s : State) : Host.Outcome State Fault Refusal :=
  if s.reachPf pf && decide (1 ≤ vf) && decide (vf ≤ 31) then .next (s.writeVfmap pf vf value.toNat) else .next s

/-- REGISTER_WRITE (R9): 8 bytes at an aligned offset of a function's BAR0. A VF's IDRANGE is written by its PF (R283; log 30). -/
def execRegisterWrite (fn offset : Nat) (value : Quad) (s : State) : Host.Outcome State Fault Refusal :=
  if offset = 0x30 ∧ funcVf fn ≠ 0 then
    if s.reachPf (funcPart fn) && s.hasFunc fn then .next (s.writeIdrange fn value.toNat) else .next s
  else if s.hostReach fn && offset % 8 == 0 && (match barSize s.mode fn 0 with | some n => decide (offset + 8 ≤ n) | none => false) then
    .next (s.writeReg fn offset ((leBytes 8 value.toNat).map some))
  else .next s

/-! ## Copies of code (R354) -/

/-- CSGO_DONE (R354): the copy completes, or stops at a failed read of its source. -/
def execCsgoDone (part ctx : Nat) (s : State) : Host.Outcome State Fault Refusal :=
  match (s.context part ctx).csCopy with
  | none => .next s
  | some y =>
    let (bs, w) := Wk.read (s.partEnv part) { mem := s.mem } y.src (64 * y.count)
    let s := (s.takeWork w).freedFrom s
    if w.wait && w.fault.isNone then .next s
    else
      let n := s.mem.fresh
      let bs := if w.fault.isSome then (List.range (64 * y.count)).map (Config.freeByte n) else bs
      let s := { s with mem := { s.mem with fresh := n + 1 } }
      let s := (bitsBelow 48 y.cores).foldl (fun s c => s.loadBank c y.bank (64 * y.first) (bs.map some)) s
      .next (s.updContext part ctx (fun t => { t with csCopy := none, csErr := t.csErr || w.fault.isSome }))

/-! ## Accesses that waited (R358) -/

/-- Whether a BAR4 access touches a line that serves no access now (R334, R338). -/
def State.bar4Closed (s : State) (fn offset n : Nat) : Bool :=
  match s.bar4Addr fn offset n with
  | some a => (linesFrom a n).any (fun l => lineClosed (s.partEnv (funcPart fn)) s.mem (64 * l))
  | none => false

/-- Whether a waiting access has to wait on: behind another of its function, or for a line that serves no access now. -/
def State.waitsOn (s : State) (a : HostAccess) : Bool :=
  (match a.fn with | some fn => s.behind fn | none => false) ||
  (match a with
   | .barWrite fn offset data => s.bar4Closed fn offset data.length
   | .barRead fn bar offset len => bar == 4 && s.bar4Closed fn offset len
   | .memRead hpa _ => s.inWindow hpa &&
     (match s.lineOfP0 ((hpa - s.host.hdmBase) / 64) with | some (k, l) => (s.mem.stack k).closed false l | none => false)
   | _ => false)

/-- A waiting access is tried again; it waits again where another line is in its way. -/
def State.hostAccess (s : State) (a : HostAccess) : State :=
  if s.waitsOn a then s.holdHost a
  else match a with
    | .barWrite fn offset data => s.barWrite4 fn offset data
    | .barRead fn bar offset len => s.barRead fn bar offset len
    | .kgo fn ctx kd => s.kgo fn ctx kd
    | .csgo fn ctx value src => s.csgo fn ctx value src
    | .memRead hpa tracked => s.memRead hpa tracked

/-- The accesses that waited, in their order. -/
def State.retryHost (s : State) : State :=
  if s.host.waits.isEmpty then s
  else s.host.waits.foldl State.hostAccess { s with host := { s.host with waits := [] } }

/-- BISNP_RESPONSE (R358): modified data is written; a BISnpInv frees the line, a BISnpData lets one read go on; what waited for it
goes on. -/
def execBisnpResponse (line : Nat) (modified : Option (BitVec 512)) (s : State) : Host.Outcome State Fault Refusal :=
  match s.host.snoops.find? (fun x => x.1 == line) with
  | none => .next s
  | some x =>
    if modified.isSome && lineClosed (s.partEnv 0) s.mem (64 * line) then .next s
    else
    let s := match modified, s.lineOfP0 line with
      | some d, some (k, l) => (s.hostLine k l (leBytes 64 d.toNat)).hostBytes 0 64 0
      | _, _ => s
    let h := s.host
    let h := { h with snoops := h.snoops.erase x }
    let h := if x.2 then { h with filter := h.filter.filter (· != line), granted := h.granted.filter (· != line) }
      else { h with granted := if h.granted.contains line then h.granted else h.granted ++ [line] }
    .next ((({ s with host := h } : State).retryHost).goOn 0)

/-! ## The link (R343, R363, R368) -/

/-- CXL.mem and IDE state without a link: no window, no line tracked, no key (log 11). -/
def HostPort.dropMem (h : HostPort) : HostPort :=
  { h with hdmBase := 0, hdmSize := 0, hdmOn := false, hdmError := false, filter := [], snoops := [], granted := [] }

/-- Whether the link may train: from stage 7 on, with PERST_N high (R343, R393). -/
def State.linkOn (s : State) : Bool :=
  s.start.perstN && (match s.start.phase with
    | .done n => decide (7 ≤ n)
    | .live => true
    | .stopping => true
    | _ => false)

/-- CXL_LINK_UP (R343, R368). -/
def execCxlLinkUp (width : Nat) (s : State) : Host.Outcome State Fault Refusal :=
  if s.linkOn && s.host.link == .training && (width == 4 || width == 8 || width == 16) then
    .next { s with host := { s.host with link := .up, width := width } }
  else .next s

/-- CXL_RETRAIN (R343): in training, no CXL negotiation has succeeded and the link stays down; while it is down, the part tries to
train again (log 30). -/
def execCxlRetrain (s : State) : Host.Outcome State Fault Refusal :=
  if !s.linkOn then .next s
  else match s.host.link with
    | .training => .next { s with host := { s.host with link := .down } }
    | .down => .next { s with host := { s.host with link := .training } }
    | .up => .next s

/-- The host can no longer answer: the tracked lines are gone, and so are the waits for them. Writes that the part had taken are
done; what waited behind them, and reads, have no one to answer (log 11). -/
def State.loseHost (s : State) (next : LinkState) : State :=
  let writes := s.host.waits.filter (fun a => match a with | .barWrite .. => true | _ => false)
  ({ s with host := { s.host.dropMem with link := next, width := 0, ideMem := false, ideIo := false, waits := writes } } : State).retryHost

/-- Every ACCEPT word goes back to not written (R363). -/
def State.clearAccept (s : State) : State :=
  (List.range 4).foldl (fun s p => s.updPart p (fun t => { t with accept0 := 0, accept1 := 0, accepted := false })) s

/-- CXL_LINK_DOWN (R343, R363): training begins again at once. -/
def execCxlLinkDown (s : State) : Host.Outcome State Fault Refusal :=
  if s.host.link == .up then .next (((s.loseHost .training).disableAll).clearAccept) else .next s

/-- HOT_RESET (R363): no line stays tracked, so that writes which waited for one are done. -/
def execHotReset (s : State) : Host.Outcome State Fault Refusal :=
  if s.host.link == .up then .next (({ s with host := s.host.dropMem } : State).retryHost).disableAll else .next s

/-- HOST_LINK_RECOVERY (R368): 0 a recovery, 1 a replay, 2 an IDE failure. -/
def execHostLinkRecovery (kind : Nat) (s : State) : Host.Outcome State Fault Refusal :=
  let h := s.host
  if h.link != .up then .next s
  else match kind with
    | 0 => .next { s with host := { h with recoveries := satAdd 16 h.recoveries 1 } }
    | 1 => .next { s with host := { h with replays := satAdd 32 h.replays 1 } }
    | 2 => .next { s with host := { h with ideFailures := satAdd 16 h.ideFailures 1 } }
    | _ => .next s

end Sys2Proof.Machine
end

