-- ==== Sys2Proof/Machine/Dram.lean ====
section
/-! DEFINITION. Events of the memory stacks: tether retries, command timeouts, refresh windows, lane recalibration and the
age limit of a buffered line (R327, R334, R335, R338). -/

namespace Sys2Proof.Machine

/-- Whether the stacks work: their tether links have been trained (R393). -/
def State.dramOn (s : State) : Bool :=
  match s.start.phase with
  | .done n => decide (5 ≤ n)
  | .live => true
  | .stopping => true
  | _ => false

/-- Whether a stack has the pseudo-channel in use. -/
def State.pcOn (s : State) (k pc : Nat) : Bool :=
  s.dramOn && decide (k < 16) && (s.mem.stack k).pcs.contains pc && !(s.mem.stack k).failed.testBit (pc / 2)

/-- A stack of the part changed, and what failed in it recorded with its cause. -/
def State.updStack (s : State) (k cause : Nat) (f : Stack → Stack) : State :=
  (s.withMem (s.mem.setStack k (f (s.mem.stack k))) cause).freedFrom s

/-- TETHER_RETRY (R334): a resend succeeds and is counted, or fails; the third failure fails the channel. An access of the host that
waited for the line goes on. -/
def execTetherRetry (stack pc : Nat) (ok : Bool) (s : State) : Host.Outcome State Fault Refusal :=
  if !s.pcOn stack pc then .next s
  else .next (s.updStack stack 0 (fun st =>
    let n := Table.get 0 st.retries pc + 1
    if ok then { st with retries := Table.del st.retries pc, tetherRetries := satAdd 32 st.tetherRetries 1 }
    else if 3 ≤ n then { st with retries := Table.del st.retries pc }.failChannel (pc / 2)
    else { st with retries := Table.set st.retries pc n })).retryHost

/-- DRAM_CMD_TIMEOUT (R335). -/
def execDramCmdTimeout (stack channel : Nat) (s : State) : Host.Outcome State Fault Refusal :=
  if s.pcOn stack (2 * channel) then .next (s.updStack stack 1 (fun st => st.failChannel channel)) else .next s

/-- REFRESH_WINDOW (R338): a window opens, while no more of the stack's are open than its period allows. -/
def execRefreshWindow (stack pc : Nat) (s : State) : Host.Outcome State Fault Refusal :=
  let st := s.mem.stack stack
  if s.pcOn stack pc && !st.refreshing.contains pc && decide (st.refreshing.length < if st.hotRefresh then 4 else 2) then
    .next (s.updStack stack 0 (fun st => { st with refreshing := st.refreshing ++ [pc] }))
  else .next s

/-- REFRESH_WINDOW_END (R338). -/
def execRefreshWindowEnd (stack pc : Nat) (s : State) : Host.Outcome State Fault Refusal :=
  if (s.mem.stack stack).refreshing.contains pc then
    .next (s.updStack stack 0 (fun st => { st with refreshing := st.refreshing.filter (· != pc) })).retryHost
  else .next s

/-- LANE_RECALIBRATION (R335, R338): inside a refresh window; a failure fails the channel. -/
def execLaneRecalibration (stack pc : Nat) (ok : Bool) (s : State) : Host.Outcome State Fault Refusal :=
  if s.pcOn stack pc && (s.mem.stack stack).refreshing.contains pc && !ok then
    .next (s.updStack stack 2 (fun st => st.failChannel (pc / 2)))
  else .next s

/-- WC_AGE_FLUSH (R327, R328): a buffered line leaves, once its pseudo-channel serves accesses. -/
def execWcAgeFlush (stack line : Nat) (s : State) : Host.Outcome State Fault Refusal :=
  let st := s.mem.stack stack
  match st.wc.find? (fun w => w.line == line) with
  | none => .next s
  | some w =>
    if !s.dramOn || st.closed true line then .next s
    else
      let m := s.mem.setStack stack (st.leave ⟨s.mem.fresh, s.start.periods, s.threshold⟩ w)
      .next ((s.withMem { m with fresh := m.fresh + 1 } 3).freedFrom s)

end Sys2Proof.Machine
end

