-- ==== Sys2Proof/Machine/DictMap.lean ====
section
/-! DEFINITION. The management dictionary as it reads: messages, the map of its entries, and the value of each
(R10, R12, R109, R238, R295, R297, R306, R325 to R340, R361, R368, R370 to R387, R414, R434). -/

namespace Sys2Proof.Machine

/-! ## Messages (R377) -/

/-- A request: header fields and payload. -/
structure DictMsg where
  op : Nat
  seq : Nat
  index : Nat
  sub : Nat
  last : Bool
  offset : Nat
  len : Nat
  payload : List Byte
  deriving DecidableEq, Repr

/-- The header of a message as a number. -/
def msgHeader (m : List Byte) : Nat := leNat (m.take 16)

/-- Whether a datagram is malformed (R376). A READ has no payload; a mailbox pads with zeros (R385). -/
def malformed (padded : Bool) (m : List Byte) : Bool :=
  let h := msgHeader m
  let n := if fld h 15 8 = 1 then 0 else fld h 111 96
  decide (m.length < 16) || fld h 7 0 != 1 || fld h 119 112 != 0 || decide (1024 < n) ||
  (if padded then decide (m.length < 16 + n) else m.length != 16 + n)

/-- The request in a message. -/
def parseMsg (m : List Byte) : DictMsg :=
  let h := msgHeader m
  { op := fld h 15 8, seq := fld h 31 16, index := fld h 47 32, sub := fld h 55 48, last := h.testBit 56,
    offset := fld h 95 64, len := fld h 111 96, payload := (m.drop 16).take (if fld h 15 8 = 1 then 0 else fld h 111 96) }

/-! ## The map (R370, R371, R386) -/

/-- Type of an entry; a DOMAIN with the longest object it takes. -/
inductive EType where
  | num (bytes : Nat)
  | str
  | dom (max : Nat)
  deriving DecidableEq, Repr

/-- Access of an entry (R9). -/
inductive Acc where
  | ro
  | rw
  | wo
  | rws
  | const
  deriving DecidableEq, Repr

/-- What a row of subindexes counts: nothing, partitions, partitions whose absent ones read zero and refuse writes,
C-dies, stacks or ports. -/
inductive EKind where
  | whole
  | part
  | partKept
  | die
  | stack
  | port
  deriving DecidableEq, Repr

/-- A row of the map: `n` subindexes of one kind from `lo` on. -/
structure Row where
  index : Nat
  lo : Nat
  n : Nat
  ty : EType
  acc : Acc
  kind : EKind := .whole
  deriving DecidableEq, Repr

/-- Indexes 0x1000 to 0x1401. -/
def rowsA : List Row :=
  [⟨0x1000, 1, 2, .str, .const, .whole⟩, ⟨0x1000, 3, 1, .num 1, .const, .whole⟩, ⟨0x1000, 4, 1, .str, .const, .whole⟩,
   ⟨0x1000, 5, 1, .num 4, .ro, .whole⟩, ⟨0x1000, 6, 1, .num 2, .const, .whole⟩,
   ⟨0x1010, 1, 1, .num 1, .ro, .whole⟩, ⟨0x1010, 2, 1, .num 8, .ro, .whole⟩,
   ⟨0x1100, 1, 2, .num 4, .ro, .whole⟩, ⟨0x1101, 1, 4, .num 4, .rw, .part⟩, ⟨0x1101, 5, 4, .num 4, .rw, .part⟩,
   ⟨0x1200, 1, 1, .num 1, .rw, .whole⟩, ⟨0x1200, 2, 1, .num 1, .ro, .whole⟩,
   ⟨0x1201, 1, 1, .num 4, .ro, .whole⟩, ⟨0x1201, 2, 1, .num 1, .ro, .whole⟩, ⟨0x1201, 3, 1, .dom 32, .ro, .whole⟩] ++
  [⟨0x1210, 1, 4, .num 1, .rws, .partKept⟩, ⟨0x1211, 1, 4, .num 1, .rws, .partKept⟩, ⟨0x1220, 1, 4, .num 1, .rws, .partKept⟩,
   ⟨0x1300, 1, 1, .num 2, .rw, .whole⟩, ⟨0x1300, 2, 2, .num 2, .ro, .whole⟩, ⟨0x1300, 4, 1, .num 4, .ro, .whole⟩,
   ⟨0x1301, 1, 4, .num 2, .rw, .die⟩, ⟨0x1301, 5, 1, .num 2, .rw, .whole⟩, ⟨0x1310, 1, 1, .num 1, .rw, .whole⟩,
   ⟨0x1400, 1, 2, .dom 344, .ro, .whole⟩, ⟨0x1400, 3, 1, .dom 336, .ro, .whole⟩, ⟨0x1400, 4, 2, .num 4, .ro, .whole⟩,
   ⟨0x1401, 1, 1, .dom 24, .ro, .whole⟩, ⟨0x1401, 2, 1, .num 1, .wo, .whole⟩]

/-- Indexes 0x1410 to 0x1700. -/
def rowsB : List Row :=
  [⟨0x1410, 1, 4, .num 4, .ro, .die⟩, ⟨0x1411, 1, 16, .num 4, .ro, .stack⟩,
   ⟨0x1500, 1, 16, .dom 64, .ro, .stack⟩, ⟨0x1510, 1, 16, .dom 512, .ro, .stack⟩, ⟨0x1510, 0x11, 1, .num 2, .wo, .whole⟩,
   ⟨0x1520, 1, 16, .dom 4096, .rws, .stack⟩, ⟨0x1520, 0x11, 1, .num 1, .rw, .whole⟩, ⟨0x1530, 1, 16, .num 8, .rw, .stack⟩,
   ⟨0x1600, 1, 1, .num 2, .rws, .whole⟩, ⟨0x1600, 2, 1, .num 1, .rws, .whole⟩] ++
  [⟨0x1610, 1, 8, .num 4, .ro, .port⟩, ⟨0x1610, 9, 8, .num 1, .rw, .port⟩, ⟨0x1610, 0x11, 8, .num 8, .ro, .port⟩,
   ⟨0x1610, 0x19, 4, .dom 16384, .rws, .part⟩, ⟨0x1610, 0x1D, 4, .num 1, .rws, .part⟩, ⟨0x1610, 0x21, 1, .num 4, .rw, .whole⟩,
   ⟨0x1620, 1, 1, .num 8, .const, .whole⟩, ⟨0x1620, 2, 2, .num 1, .rw, .whole⟩, ⟨0x1620, 4, 1, .num 2, .const, .whole⟩,
   ⟨0x1620, 5, 1, .num 8, .ro, .whole⟩,
   ⟨0x1700, 1, 1, .num 4, .ro, .whole⟩, ⟨0x1700, 2, 1, .num 8, .ro, .whole⟩, ⟨0x1700, 3, 1, .num 4, .ro, .whole⟩]

/-- Indexes 0x1800 to 0x1D00. -/
def rowsC : List Row :=
  [⟨0x1800, 1, 1, .num 4, .rw, .whole⟩, ⟨0x1800, 2, 1, .num 2, .rw, .whole⟩, ⟨0x1800, 3, 1, .num 1, .rw, .whole⟩,
   ⟨0x1800, 4, 1, .dom 4096, .rw, .whole⟩, ⟨0x1800, 5, 1, .dom 8192, .ro, .whole⟩, ⟨0x1801, 1, 1, .dom 2048, .rw, .whole⟩,
   ⟨0x1810, 1, 4, .dom 8192, .rws, .partKept⟩,
   ⟨0x1900, 1, 1, .dom 32768, .ro, .whole⟩, ⟨0x1900, 2, 1, .dom 49152, .ro, .whole⟩, ⟨0x1900, 3, 1, .dom 8192, .ro, .whole⟩,
   ⟨0x1900, 4, 1, .dom 16384, .ro, .whole⟩, ⟨0x1900, 5, 1, .dom 96, .ro, .whole⟩, ⟨0x1900, 6, 1, .num 1, .wo, .whole⟩] ++
  [⟨0x1A00, 1, 4, .num 8, .rw, .part⟩, ⟨0x1A00, 5, 4, .num 4, .ro, .part⟩, ⟨0x1A00, 9, 4, .dom 4096, .ro, .part⟩,
   ⟨0x1A10, 1, 4, .num 8, .rw, .part⟩, ⟨0x1A10, 5, 4, .num 4, .ro, .part⟩, ⟨0x1A10, 9, 4, .dom 4096, .ro, .part⟩] ++
  [⟨0x1B00, 1, 2, .dom 65536, .ro, .whole⟩, ⟨0x1B00, 3, 1, .num 1, .rw, .whole⟩, ⟨0x1B00, 4, 1, .dom 65536, .wo, .whole⟩,
   ⟨0x1B00, 5, 1, .num 4, .rw, .whole⟩, ⟨0x1B00, 6, 1, .num 1, .wo, .whole⟩, ⟨0x1B00, 7, 1, .dom 65536, .wo, .whole⟩,
   ⟨0x1B00, 8, 1, .dom 65536, .ro, .whole⟩,
   ⟨0x1C00, 1, 1, .dom 32, .ro, .whole⟩, ⟨0x1C00, 2, 1, .num 8, .ro, .whole⟩, ⟨0x1C00, 3, 1, .dom 65536, .ro, .whole⟩,
   ⟨0x1C00, 4, 1, .num 8, .ro, .whole⟩, ⟨0x1C00, 5, 1, .num 8, .rw, .whole⟩,
   ⟨0x1C10, 1, 4, .dom 40, .wo, .part⟩, ⟨0x1C10, 5, 4, .num 4, .ro, .part⟩, ⟨0x1C10, 9, 4, .dom 640, .ro, .part⟩,
   ⟨0x1D00, 1, 8, .num 8, .rw, .whole⟩, ⟨0x1D00, 9, 1, .num 1, .ro, .whole⟩]

def dictRows : List Row := rowsA ++ rowsB ++ rowsC

/-- Whether a row holds objects. -/
def Row.isDom (r : Row) : Bool := match r.ty with | .dom _ => true | _ => false

/-- The row of an entry. -/
def rowOf (index sub : Nat) : Option Row :=
  dictRows.find? (fun r => r.index == index && decide (r.lo ≤ sub) && decide (sub < r.lo + r.n))

/-- Whether a request names an object. -/
def DictMsg.ofObject (m : DictMsg) : Bool := match rowOf m.index m.sub with | some r => r.isDom | none => false

/-- The response to a request: INDEX and SUB are 0 for IDENTIFY, LAST stays only in a WRITE of an object and OFFSET in its READ or WRITE
(R377). -/
def dictReply (m : DictMsg) (result : Nat) (payload : List Byte) : List Byte :=
  let named := m.op != 3
  let object := m.ofObject && (m.op == 1 || m.op == 2)
  leBytes 16 (1 + 2 ^ 8 * ((m.op + 0x80) % 256) + 2 ^ 16 * m.seq +
    (if named then 2 ^ 32 * m.index + 2 ^ 48 * m.sub else 0) + 2 ^ 56 * b2n (object && m.op == 2 && m.last) +
    (if object then 2 ^ 64 * m.offset else 0) + 2 ^ 96 * payload.length + 2 ^ 112 * result) ++ payload

/-- Subindexes of an index (R12). -/
def subCount (index : Nat) : Nat := ((dictRows.filter (fun r => r.index == index)).map Row.n).sum

/-- The partition that instance `i` of a row belongs to, or none for a part-wide entry. -/
def Row.owner (r : Row) (mode i : Nat) : Option Nat :=
  match r.kind with
  | .whole => none
  | .part => some i
  | .partKept => some i
  | .die => some (partOfDie mode i)
  | .stack => some (partOfStack mode i)
  | .port => some (partOfPort mode i)

/-! ## Values -/

/-- The bytes of an ASCII string. -/
def asciiBytes (t : String) : List Byte := t.toList.map (fun c => BitVec.ofNat 8 c.toNat)

/-- Bytes of numbers, `n` bytes each. -/
def numBytes (n : Nat) (l : List Nat) : List Byte := l.flatMap (leBytes n)

/-- What the controller keeps for a requester. -/
def State.requester (s : State) (who : Requester) : ReqState :=
  match s.dict.reqs.find? (fun r => r.1 == who) with
  | some r => r.2
  | none => {}
/-- READ_FROM of a requester (R428, R434): the entry's default until it writes one. -/
def State.readFrom (s : State) (who : Requester) : Nat := (s.requester who).readFrom.getD (s.dictVal 0x1C00 5 0)
def State.updRequester (s : State) (who : Requester) (f : ReqState → ReqState) : State :=
  { s with dict := { s.dict with reqs := s.dict.reqs.filter (fun r => r.1 != who) ++ [(who, f (s.requester who))] } }

/-- FW_VERSION and SVN of an image (R416). -/
def fwVersion (img : List Byte) : Nat := leNat ((img.drop 4).take 4)
def fwSvn (img : List Byte) : Nat := leNat ((img.drop 8).take 2)
def fwLength (img : List Byte) : Nat := leNat ((img.drop 12).take 4)

/-- STATE of a fabric port in its encoding. -/
def PortState.code : PortState → Nat
  | .disabled => 0
  | .down => 1
  | .training => 2
  | .up => 3

/-- STATE of the CXL link in its encoding. -/
def LinkState.code : LinkState → Nat
  | .down => 0
  | .training => 1
  | .up => 2

/-- A stack's status (R340). -/
def Stack.status (st : Stack) : Nat :=
  let used := (st.remap.filter (fun w => w.2.valid)).length
  (if st.usable = 0 then 2 else if st.failed = 0 ∧ st.applied = 0 then 0 else 1) + 2 ^ 2 * b2n st.hotRefresh + 2 ^ 8 * st.usable +
  2 ^ 32 * st.failed + 2 ^ 64 * st.ceCount + 2 ^ 96 * st.ueCount + 2 ^ 128 * st.tetherRetries + 2 ^ 160 * used +
  2 ^ 176 * st.remapFull + 2 ^ 192 * st.logOverflow + 2 ^ 208 * st.poisonMerges + 2 ^ 256 * st.lastUe

/-- An entry of the correctable-error log (R330). -/
def CeEntry.bits (e : CeEntry) : Nat :=
  1 + 2 * b2n e.remapped + 2 ^ 2 * e.pc + 2 ^ 8 * e.symbol + 2 ^ 13 * e.sector + 2 ^ 32 * e.line + 2 ^ 64 * e.count + 2 ^ 96 * e.first

/-- A remap word (R331). -/
def RemapWord.bits (w : RemapWord) : Nat := w.line + 2 ^ 62 * b2n w.auto + 2 ^ 63 * b2n w.valid

/-- The measurement blocks (R422). -/
def State.cairnGood (s : State) : Nat := (s.nv.cairn.filter (fun r => !r.void)).length
def State.measurement (s : State) (i : Nat) : List Byte :=
  match i with
  | 1 => sha256 (s.start.fw.take (1024 + fwLength s.start.fw))
  | 2 => s.start.imageHash
  | 3 => cairnHead s.nv.cairn ++ leBytes 8 s.cairnGood
  | _ => []
/-- The type of a measurement: an immutable firmware digest, a hardware configuration digest, a raw bit stream, whose further kind the
rule does not give (log 9). -/
def measurementType (i : Nat) : Nat :=
  match i with
  | 1 => 0x00
  | 2 => 0x02
  | _ => 0x80 + Config.rawMeasurement % 128

/-- A block in DMTF form (R422): Index, the DMTF specification, its size, then type, size and value (log 9). -/
def State.measurementBlock (s : State) (i : Nat) : List Byte :=
  let v := s.measurement i
  leBytes 1 i ++ leBytes 1 1 ++ leBytes 2 (v.length + 3) ++ leBytes 1 (measurementType i) ++ leBytes 2 v.length ++ v

def State.measurements (s : State) : List Byte := [1, 2, 3].flatMap s.measurementBlock

/-- The lists of an accounting object: one per identity of every partition (R295, R297). -/
def State.accountList (s : State) (f : Account → List Nat) : List Nat :=
  (List.range 1024).flatMap (fun e => f (Table.get {} (s.part (e / identsPer s.mode)).accounts (e % identsPer s.mode)))

/-- The interface identifier and address of the management port (R373). -/
def mgmtAddr (mac : Nat) : Nat := 0xFE80 * 2 ^ 112 + (dsnOf mac ^^^ 2 ^ 57)

/-- OFFER0 by mode (R361). -/
def offer0 (mode : Nat) : Nat := if mode = 0 then 0xFFEF else 0xFFDF

/-- The bits of BUDGET_CTL that the partitions' features leave readable (R362). -/
def State.budgetCtl (s : State) : Nat :=
  let v := s.dictVal 0x1800 3 0xF0
  ((List.range 4).map (fun p => if s.accepts p 11 then v &&& (2 ^ p + 2 ^ (4 + p)) else 0)).sum

/-- A quotient as a whole number; which neighbour a fraction reads as is open (log 14). -/
def State.wholeOf (s : State) (place num den : Nat) : Nat :=
  num / den + if num % den = 0 then 0 else Config.freeChoice s.power.rounds place % 2

/-- Sensors, in 1/16 °C; before the first round they read nothing the manual states (log 14). -/
def State.temps (s : State) (l : List Int) : List Byte :=
  if l.isEmpty then (List.range 344).map (Config.freeByte s.mem.fresh) else l.flatMap (fun t => leBytes 2 (wrapInt 16 t))

/-- Effective readings in 1/16 °C: the mean of two readings can fall between. -/
def State.effTemps (s : State) : List Int :=
  s.power.eff.map (fun t => t / 2 + if t % 2 = 0 then 0 else ((Config.freeChoice s.power.rounds 35 % 2 : Nat) : Int))

/-- TEST_STATUS (R387). -/
def TestUnit.status (t : TestUnit) : Nat := t.state + 2 ^ 8 * t.result + 2 ^ 16 * t.fails

/-- Failure records (R387). -/
def TestUnit.records (t : TestUnit) : List Byte :=
  t.detail.flatMap (fun d => leBytes 4 d.1 ++ leBytes 4 d.2.1 ++ leBytes 4 d.2.2 ++ leBytes 4 0)

/-- The current size of an RW DOMAIN. -/
def State.sizeOf (s : State) (index sub dflt : Nat) : Nat := Table.get dflt s.dict.sizes (256 * index + sub)

/-- Values of indexes 0x1000 to 0x1401; `i` counts the row's instances. -/
def State.valueA (s : State) (index lo i : Nat) : Nat :=
  match index, lo with
  | 0x1000, 3 => 0xA1
  | 0x1000, 5 => fwVersion s.start.fw
  | 0x1000, 6 => 1
  | 0x1010, 1 => s.nv.grade
  | 0x1010, 2 => ((List.range 16).map (fun k => (s.mem.stack k).capacity)).sum
  | 0x1100, 1 => if i = 0 then offer0 s.mode else 0
  | 0x1101, 1 => (s.part i).accept0
  | 0x1101, 5 => (s.part i).accept1
  | 0x1200, 1 => s.nv.mode
  | 0x1200, 2 => s.start.mode
  | 0x1201, 1 => s.nv.baseVersion
  | 0x1201, 2 => s.start.mode
  | 0x1210, 1 => (s.part i).interleave
  | 0x1211, 1 => (s.part i).tensorView
  | 0x1220, 1 => (s.part i).coupling
  | 0x1300, 1 => s.dictVal 0x1300 1 0x07D0
  | 0x1300, 2 => min 65535 (s.wholeOf (36 + i) (if i = 0 then s.power.watts else s.power.peak) 10000)
  | 0x1300, 4 => s.power.capRounds
  | 0x1301, 1 => s.dictVal 0x1301 (i + 1) 0x01E0
  | 0x1301, 5 => s.dictVal 0x1301 5 0x01A4
  | 0x1310, 1 => s.nv.nextGrade
  | 0x1400, 4 => if i = 0 then s.power.trip else s.power.rounds
  | _, _ => 0

/-- Values of indexes 0x1410 to 0x1700. -/
def State.valueB (s : State) (index lo i : Nat) : Nat :=
  match index, lo with
  | 0x1410, 1 => Table.get 0 s.power.stepA i + 2 ^ 8 * Table.get 0 s.power.tA i + 2 ^ 16 * s.wholeOf (38 + i) (Table.get 0 s.power.limit i) 32
  | 0x1411, 1 => Table.get 0 s.power.stepS i + 2 ^ 8 * Table.get 0 s.power.tS i + 2 ^ 16 * (s.engine i).pause
  | 0x1520, 0x11 => s.threshold
  | 0x1530, 1 => (s.mem.stack i).pending + 2 ^ 32 * (s.mem.stack i).applied
  | 0x1600, 1 => s.nv.node
  | 0x1600, 2 => s.roles
  | 0x1610, 1 => let q := s.port i; q.state.code + 2 ^ 10 * q.peerPort + 2 ^ 16 * q.peerNode + 2 ^ 30 * q.peerRole
  | 0x1610, 9 => b2n (s.port i).en + 2 * b2n (s.port i).dateline
  | 0x1610, 0x11 => let q := s.port i; q.discarded + 2 ^ 24 * q.replays + 2 ^ 48 * q.retrains
  | 0x1610, 0x1D => s.ropePort i true + 8 * s.ropePort i false
  | 0x1610, 0x21 => s.dictVal 0x1610 0x21 5000000
  | 0x1620, 1 => s.nv.mac
  | 0x1620, 2 => if i = 0 then s.dictVal 0x1620 2 0xFF else s.dictVal 0x1620 3 8
  | 0x1620, 4 => 0x4816
  | 0x1620, 5 => s.dict.requests + 2 ^ 32 * s.dict.malformed + 2 ^ 48 * s.dict.droppedFull
  | 0x1700, 1 => s.host.link.code + 2 ^ 2 * s.host.width + 2 ^ 8 * b2n s.host.ideMem + 2 ^ 9 * b2n s.host.ideIo
  | 0x1700, 2 => s.host.ideFailures + 2 ^ 16 * s.host.replays + 2 ^ 48 * s.host.recoveries
  | 0x1700, 3 => s.host.filter.length
  | _, _ => 0

/-- CAIRN_STATUS (R434). -/
def State.cairnStatus (s : State) : Nat :=
  s.cairnFree + 2 ^ 32 * min 65535 (s.nv.cairn.length - s.cairnGood) + 2 ^ 48 * s.nv.dropped

/-- Values of indexes 0x1800 to 0x1D00. -/
def State.valueC (s : State) (who : Requester) (index lo i : Nat) : Nat :=
  match index, lo with
  | 0x1800, 1 => s.dictVal 0x1800 1 50000000
  | 0x1800, 2 => s.dictVal 0x1800 2 0x40
  | 0x1800, 3 => s.budgetCtl
  | 0x1A00, 1 => (s.part i).test.written
  | 0x1A00, 5 => (s.part i).test.status
  | 0x1A10, 1 => (s.part i).cal.written
  | 0x1A10, 5 => (s.part i).cal.status
  | 0x1B00, 3 => s.nv.svnFloor
  | 0x1B00, 5 => s.dictVal 0x1B00 5 0
  | 0x1C00, 2 => s.cairnGood
  | 0x1C00, 4 => s.cairnStatus
  | 0x1C00, 5 => s.readFrom who
  | 0x1C10, 5 => (s.part i).sanitise.state + 2 ^ 8 * (s.part i).sanitise.result
  | 0x1D00, 1 => s.breakSlot i
  | 0x1D00, 9 => s.dictVal 0x1D00 9 0
  | _, _ => 0

/-- Objects and strings. -/
def State.object (s : State) (who : Requester) (index lo i : Nat) : List Byte :=
  match index, lo with
  | 0x1000, 1 => if i = 0 then asciiBytes "Gepada Microsystems" else asciiBytes "UZT4816"
  | 0x1000, 4 => s.nv.serial
  | 0x1201, 3 => s.start.imageHash
  | 0x1400, 1 => if i = 0 then s.temps s.effTemps else s.temps s.power.raw
  | 0x1400, 3 =>
    if s.power.rails.isEmpty then (List.range 336).map (Config.freeByte s.mem.fresh)
    else s.power.rails.flatMap (fun r => leBytes 8 (r.1 + 2 ^ 16 * r.2))
  | 0x1401, 1 => leBytes 24 ((s.power.suspect.map (2 ^ ·)).sum)
  | 0x1500, 1 => leBytes 64 (s.mem.stack i).status
  | 0x1510, 1 => fit 0 512 (numBytes 16 ((s.mem.stack i).ceLog.map CeEntry.bits))
  | 0x1520, 1 =>
    fit 0 (s.sizeOf 0x1520 (i + 1) 4096) (numBytes 8 ((List.range 512).map (fun w => (Table.get {} (s.mem.stack i).remap w).bits)))
  | 0x1610, 0x19 =>
    fit 0 (s.sizeOf 0x1610 (i + 0x19) 16384) (numBytes 2 ((List.range 8192).map (fun m => Table.get 0 (s.part i).routes m)))
  | 0x1800, 4 => leBytes (s.sizeOf 0x1800 4 4096) (s.dictVal 0x1800 4 0)
  | 0x1800, 5 =>
    (List.range 1024).flatMap (fun e => leBytes 8 (wrapInt 64 (Table.get 0 (s.part (e / identsPer s.mode)).balance (e % identsPer s.mode))))
  | 0x1801, 1 => leBytes (s.sizeOf 0x1801 1 2048) (s.dictVal 0x1801 1 (leNat (List.replicate 1024 [1, 0]).flatten))
  | 0x1810, 1 =>
    if i < nParts s.mode then
      fit 0 (s.sizeOf 0x1810 (i + 1) (32 * variantsPer s.mode)) (numBytes 32 ((List.range (variantsPer s.mode)).map (s.variantRec i)))
    else []
  | 0x1900, 1 => numBytes 8 (s.accountList (fun a => fit 0 4 a.engine))
  | 0x1900, 2 => numBytes 8 (s.accountList (fun a => fit 0 6 a.bytes))
  | 0x1900, 3 => numBytes 8 (s.accountList (fun a => [a.energy]))
  | 0x1900, 4 => numBytes 8 (s.accountList (fun a => fit 0 2 a.tokens))
  | 0x1900, 5 => numBytes 8 ((List.range 4).flatMap (fun p => fit 0 3 (s.part p).unattributed))
  | 0x1A00, 9 => (s.part i).test.records
  | 0x1A10, 9 => (s.part i).cal.records
  | 0x1B00, 1 => if i = 0 then s.nv.certChain else s.measurements
  | 0x1B00, 8 => (s.requester who).spdm
  | 0x1C00, 1 => cairnHead s.nv.cairn
  | 0x1C00, 3 => ((s.nv.cairn.drop (s.readFrom who)).take 256).flatMap CairnRec.bytes
  | 0x1C10, 9 => (s.part i).sanitise.cert
  | _, _ => []

/-- The value of a scalar. -/
def State.scalar (s : State) (who : Requester) (index lo i : Nat) : Nat :=
  if index < 0x1410 then s.valueA index lo i else if index < 0x1800 then s.valueB index lo i else s.valueC who index lo i

/-- An entry as a READ gives it; a WO entry reads zero or empty (R9). -/
def State.readEntry (s : State) (who : Requester) (r : Row) (i : Nat) : List Byte :=
  match r.ty with
  | .num n => if r.acc = .wo then leBytes n 0 else leBytes n (s.scalar who r.index r.lo i)
  | .str => s.object who r.index r.lo i
  | .dom _ => if r.acc = .wo then [] else s.object who r.index r.lo i

/-- The payload of IDENTIFY (R378). -/
def State.identity (s : State) : List Byte :=
  fit 0 8 (asciiBytes "UZT4816") ++ fit 0 16 s.nv.serial ++ leBytes 2 1 ++ leBytes 1 s.start.mode ++
  leBytes 1 (s.dictVal 0x1620 2 0xFF) ++ leBytes 2 s.nv.node ++ List.replicate 34 0

end Sys2Proof.Machine
end

