-- ==== Sys2Proof/Machine/DictWrite.lean ====
section
/-! DEFINITION. Writes of dictionary entries: each entry's own rule and effect (R26, R31, R109, R238, R295, R306, R307,
R318, R325, R331, R336, R361, R375, R387 to R392, R414 to R419, R427 to R434). -/

namespace Sys2Proof.Machine

/-! ## Results (R381) -/

def rOK : Nat := 0x00
def rNO_ENTRY : Nat := 0x01
def rACCESS : Nat := 0x02
def rRANGE : Nat := 0x03
def rSTATE : Nat := 0x04
def rLENGTH : Nat := 0x05
def rBUSY : Nat := 0x06
def rDENIED : Nat := 0x07
def rSNAPSHOT_LOST : Nat := 0x08
def rBAD_OP : Nat := 0x09
def rNOT_LIVE : Nat := 0x0A

/-- What a write comes to: refused with a result, done, or done and answered once flash holds it (R33); `old` is the value
before and `grade` a change of grade for Cairn. -/
inductive Wr where
  | no (result : Nat)
  | ok (s : State)
  | stored (s : State) (old : Nat) (grade : Option (Nat × Nat))

/-- A write that must pass a rule, else a result. -/
def Wr.check (ok : Bool) (result : Nat) (w : Wr) : Wr := if ok then w else .no result

/-! ## What writes look at -/

/-- The partition has an open sequence slot. -/
def State.slotOpen (s : State) (p : Nat) : Bool := !(s.openSlots p).isEmpty

/-- The partition has a running step or a running kernel (RWS). -/
def State.partBusy (s : State) (p : Nat) : Bool :=
  (s.part p).phase == .running ||
  (s.ctxs).any (fun x => let st := (s.context p x).state; st == .running || st == .saving || st == .restoring)

/-- A queue of the partition is enabled (R361). -/
def State.queueOn (s : State) (p : Nat) : Bool :=
  (s.part p).srvEn || (s.ctxs).any (fun x => (s.context p x).en) ||
  (List.range 32).any (fun k => let f := s.func (p + 4 * k); ringEn f.rq.cfg || ringEn f.cq.cfg)

/-- Whether a node number fits a mode (R26). -/
def nodeFits (mode n : Nat) : Bool := n % nParts mode == 0 && decide (n + nParts mode - 1 ≤ 8191)

/-- A scalar entry that the dictionary itself holds takes a value. -/
def State.setEntry (s : State) (index sub v : Nat) : State := s.setDictVal index sub v

/-- An object that the dictionary itself holds takes a value and a size. -/
def State.setObject (s : State) (index sub : Nat) (bs : List Byte) : State :=
  let s := s.setDictVal index sub (leNat bs)
  { s with dict := { s.dict with sizes := Table.set s.dict.sizes (256 * index + sub) bs.length } }

/-- The size of an object that another field holds. -/
def State.setSize (s : State) (index sub n : Nat) : State :=
  { s with dict := { s.dict with sizes := Table.set s.dict.sizes (256 * index + sub) n } }

/-- Waiting schedulers look at budgets that have changed (R295). -/
def State.wakeBudgets (s : State) : State :=
  (List.range (nParts s.mode)).foldl (fun s p => if s.slotOpen p then s.wakeIdle p else s) s

/-- The numbers in an object, `n` bytes each. -/
def objectNums (n : Nat) (bs : List Byte) : List Nat := (chunks n (bs.length + 1) bs).map leNat

/-! ## Self-test and calibration (R387 to R392) -/

/-- A write of a request. -/
def State.askTest (s : State) (p : Nat) (cal : Bool) (v : Nat) : Wr :=
  let t := s.tu p cal
  let note := fun (s : State) => s.updTu p cal (fun t => { t with written := v })
  if fld v 63 22 ≠ 0 ∨ fld v 15 9 ≠ 0 then .no rRANGE
  else if tqItem v = 0 then
    let held := match itemKind cal (tqItem t.request) with
      | some .die => t.state == 2
      | some k => s.unitHeld k (tqUnit t.request)
      | none => false
    if t.state = 1 ∨ (t.state = 2 ∧ !tqDrained t.request ∧ !held) then
      .ok (note (s.updTu p cal (fun t => { t with state := 3, result := 2 })))
    else if t.state = 2 ∧ !tqDrained t.request then .ok (note (s.updTu p cal (fun t => { t with cancel := true })))
    else .ok (note s)
  else if t.state = 1 ∨ t.state = 2 ∨ s.sanitising p then .no rBUSY
  else match itemKind cal (tqItem v) with
    | none => .no rRANGE
    | some k =>
      if !unitOk s.mode p k (tqUnit v) || (itemDrainedOnly cal (tqItem v) && !tqDrained v) then .no rRANGE
      else if !cal && tqItem v == 7 && s.slotOpen p then .no rSTATE
      else .ok ((s.updTu p cal (fun _ => { request := v, written := v, state := 1 })).startPiecesIdle p)

/-! ## Features (R361) -/

def State.writeAccept0 (s : State) (p v : Nat) : Wr :=
  if (s.part p).out || s.queueOn p then .no rSTATE
  else if v &&& offer0 s.mode ≠ v then .no rRANGE
  else .ok (s.updPart p (fun t => { t with accept0 := v, accepted := true }))

def State.writeAccept1 (s : State) (p v : Nat) : Wr :=
  if s.queueOn p then .no rSTATE else if v ≠ 0 then .no rRANGE else .ok (s.updPart p (fun t => { t with accept1 := 0 }))

/-! ## Break slots (R109, R360) -/

/-- Whether a path may write a break slot's value. -/
def State.breakAllowed (s : State) (who : Requester) (v : Nat) : Bool :=
  match who with
  | .port _ _ => true
  | .mailbox fn => fld v 53 52 == funcPart fn && (funcVf fn == 0 || s.ctxFn (funcPart fn) (fld v 59 54) == fn)

def State.writeBreak (s : State) (who : Requester) (n v : Nat) : Wr :=
  if !s.breakAllowed who v then .no rDENIED
  else if fld v 51 48 ≠ 0 ∨ (v.testBit 62 ∧ fld v 47 32 ≠ 0) ∨ nParts s.mode ≤ fld v 53 52 then .no rRANGE
  else
    let hit := s.dictVal 0x1D00 9 0
    .ok ((s.setEntry 0x1D00 (n + 1) v).setEntry 0x1D00 9 (if hit.testBit n then hit - 2 ^ n else hit))

/-! ## Partition settings -/

/-- INTERLEAVE (R325). -/
def State.writeInterleave (s : State) (p v : Nat) : Wr :=
  if 1 < v then .no rRANGE
  else if s.slotOpen p || (s.part p).srvEn || (v == 1 && (partStacks s.mode p).any (fun k => (s.mem.stack k).usable == 0)) then .no rSTATE
  else .ok (s.updPart p (fun t => { t with interleave := v }))

/-- VARIANT_TABLE (R238): no change of a record that an open slot names. -/
def State.writeVariants (s : State) (p : Nat) (bs : List Byte) : Wr :=
  let n := variantsPer s.mode
  let l := objectNums 32 (fit 0 (32 * n) bs)
  let old := (List.range n).map (s.variantRec p)
  let held := (s.openSlots p).any (fun k =>
    let q := s.slot p k
    q.varen && l.getD q.variant 0 != old.getD q.variant 0)
  if 32 * n < bs.length then .no rLENGTH
  else if held then .no rSTATE
  else if l.any (fun v => fld v 15 1 != 0 || fld v 63 32 != 0 || fld v 255 94 != 0) then .no rRANGE
  else
    let t := ((List.range n).zip l).filter (fun v => v.2 != 0)
    .ok ((s.updPart p (fun q => { q with variants := t })).setSize 0x1810 (p + 1) bs.length)

/-- ROUTES (R307). -/
def State.writeRoutes (s : State) (p : Nat) (bs : List Byte) : Wr :=
  let l := objectNums 2 bs
  let foreign := fun (v : Nat) =>
    (v.testBit 15 && partOfPort s.mode (fld v 2 0) != p) || (v.testBit 7 && partOfPort s.mode (fld v 6 4) != p)
  if l.any (fun v => foreign v || v.testBit 3 || fld v 14 8 != 0) then .no rRANGE
  else
    let t := ((List.range l.length).zip l).filter (fun v => v.2 != 0)
    .ok ((s.updPart p (fun q => { q with routes := t })).setSize 0x1610 (p + 0x19) bs.length)

/-- ROPE_PORTS (R29, R306). -/
def State.writeRopePorts (s : State) (p v : Nat) : Wr :=
  if fld v 7 6 ≠ 0 ∨ partOfPort s.mode (fld v 2 0) ≠ p ∨ partOfPort s.mode (fld v 5 3) ≠ p then .no rRANGE
  else .ok (s.updPart p (fun q => { q with ropePorts := some v }))

/-- PORT_CTL (R305, R306, R308). -/
def State.writePortCtl (s : State) (q v : Nat) : Wr :=
  if fld v 7 2 ≠ 0 then .no rRANGE
  else
    let t := s.updPort q (fun k => { k with en := v.testBit 0, dateline := v.testBit 1 })
    if v.testBit 0 then
      .ok (t.updPort q (fun k => if k.state == .disabled then { k with state := .down } else k))
    else .ok (((t.portLost q .disabled).losePortTests q).freedFrom s)

/-- NODE_NUMBER (R26, R305): every port goes DOWN and trains again. -/
def State.writeNode (s : State) (v : Nat) : Wr :=
  if fld v 15 13 ≠ 0 ∨ !nodeFits s.mode v ∨ !nodeFits s.nv.mode v then .no rRANGE
  else
    let old := s.nv.node
    let t := (List.range 8).foldl (fun s q => if (s.port q).state == .disabled then s else s.portLost q .down) s
    .stored { t.freedFrom s with nv := { s.nv with node := v } } old none

/-- ROLE (R318). -/
def State.writeRole (s : State) (v : Nat) : Wr :=
  let n := nParts s.mode
  if v / 2 ^ (2 * n) ≠ 0 then .no rRANGE
  else if (List.range n).any (fun p => fld v (2 * p + 1) (2 * p) == 3 && (s.part p).srvEn) then .no rSTATE
  else .stored { s with nv := { s.nv with role := v }, dict := { s.dict with defaults := Table.del s.dict.defaults 0x160002 } } s.nv.role none

/-- STORED_MODE (R26, R31, R427). -/
def State.writeMode (s : State) (v : Nat) : Wr :=
  if 2 < v ∨ !nodeFits v s.nv.node then .no rRANGE
  else if s.cairnFree = 0 then .no rSTATE
  else .stored { s with nv := { s.nv with mode := v } } s.nv.mode none

/-- NEXT_GRADE (R427, R433). -/
def State.writeGrade (s : State) (v : Nat) : Wr :=
  let old := s.nv.nextGrade
  if (v ≠ 0x0C ∧ v ≠ 0x0A ∧ v ≠ 0x08) ∨ old < v then .no rRANGE
  else if v = old then .stored s old none
  else if s.cairnFree = 0 then .no rSTATE
  else .stored { s with nv := { s.nv with nextGrade := v } } old (some (old, v))

/-- MAPOUT (R336). -/
def State.writeMapout (s : State) (k v : Nat) : Wr :=
  let st := s.mem.stack k
  let want := (List.range 32).foldl (fun a c => if v.testBit c && !st.applied.testBit c then a + 2 ^ c else a) 0
  if want ||| st.applied = 2 ^ 32 - 1 then .no rRANGE
  else .stored { s with mem := s.mem.setStack k { st with pending := want } } st.pending none

/-- The current value of a line reaches it, corrected or poisoned: after the writes buffered for it (R331, R339). A failed channel
holds none (R335). -/
def Stack.current (st : Stack) (e : DieEnv) (line : Nat) : Stack :=
  if st.offline line then st
  else match st.wc.find? (fun x => x.line == line) with
    | some x =>
      if fullMask x.bytes then { st with wc := st.wc.filter (fun y => y.line != line) }.store line (maskBytes x.bytes)
      else st.leave e x
    | none => (st.dramRead e line).1

/-- A remap word installed by the host: the line's value moves into the spare (R331). -/
def Stack.installAt (st : Stack) (e : DieEnv) (w line : Nat) : Stack :=
  let st := st.current { e with threshold := 0 } line
  { st with
    remap := Table.set st.remap w { valid := true, auto := false, line := line }
    syms := Table.del (Table.del st.syms (2 * line)) (2 * line + 1)
    ceLog := st.ceLog.map (fun x => if x.line = line then { x with remapped := true } else x) }

/-- Whether word `w` of a REMAP object is allowed. -/
def Stack.remapOk (st : Stack) (w v : Nat) : Bool :=
  let old := Table.get {} st.remap w
  let line := fld v 29 0
  fld v 61 30 == 0 &&
  (if old.valid then v.testBit 63 && line == old.line
   else if v.testBit 63 then decide (64 * line < st.capacity) && st.pcOf line == w / 8
   else line == 0)

/-- REMAP (R331): whole, or refused whole. -/
def State.writeRemap (s : State) (k : Nat) (bs : List Byte) : Wr :=
  let st := s.mem.stack k
  let l := (List.range 512).zip (objectNums 8 (fit 0 4096 bs))
  if !l.all (fun v => st.remapOk v.1 v.2) then .no rRANGE
  else
    let e : DieEnv := ⟨s.mem.fresh, s.start.periods, s.threshold⟩
    let st := l.foldl (fun st v =>
      if v.2.testBit 63 && !(Table.get {} st.remap v.1).valid then st.installAt e v.1 (fld v.2 29 0) else st) st
    .ok (((s.withMem { s.mem.setStack k st with fresh := s.mem.fresh + 1 } 3).freedFrom s).setSize 0x1520 (k + 1) bs.length)

/-- CE_LOG_CLEAR (R330). -/
def State.clearCeLogs (s : State) (v : Nat) : State :=
  { s with mem := (bitsBelow 16 v).foldl (fun m k => m.setStack k { m.stack k with ceLog := [] }) s.mem }

/-- The energy counters of a partition, in µJ (R299). -/
def Part.energySum (t : Part) : Nat := (t.accounts.map (fun a => a.2.energy)).sum + t.unattributed.getD 0 0

/-- CLEAR (R297): the energy of the interval goes on. -/
def State.clearAccounts (s : State) (v : Nat) : State :=
  (bitsBelow 4 v).foldl (fun s p =>
    let e := (s.part p).energySum % 2 ^ 64
    ({ s with start := { s.start with energyMark := (s.start.energyMark + 2 ^ 64 - e) % 2 ^ 64 } } : State).updPart p
      (fun t => { t with accounts := [], unattributed := [0, 0, 0] })) s

/-! ## Firmware, floor and sanitise -/

/-- Whether an image verifies (R417), in the order of its checks. -/
def fwOk (nv : NonVolatile) (img : List Byte) : Bool :=
  let n := fwLength img
  let body := img.take (1024 + n)
  let modulus := (img.drop 16).take 384
  leNat (img.take 4) == 0x4E584657 && decide (64 ≤ n) && decide (n ≤ 4194304) && n % 64 == 0 &&
  decide (1024 + n + 384 ≤ img.length) &&
  sha256 modulus == nv.rootKeyHash && decide (nv.svnFloor ≤ fwSvn img) &&
  rsaPssVerify modulus body ((img.drop (1024 + n)).take 384)

/-- FW_CHUNK (R418): bytes that no chunk has brought are the part's own (log 4). -/
def State.writeChunk (s : State) (who : Requester) (bs : List Byte) : Wr :=
  let off := s.dictVal 0x1B00 5 0
  if off = 0 then .ok { s with sec := { s.sec with fwOwner := some who, fwStage := bs } }
  else if s.sec.fwOwner ≠ some who then .no rSTATE
  else
    let old := s.sec.fwStage
    let gap := (List.range (off - old.length)).map (Config.freeByte s.mem.fresh)
    .ok { s with
      mem := { s.mem with fresh := s.mem.fresh + 1 }
      sec := { s.sec with fwStage := (old ++ gap).take off ++ bs ++ old.drop (off + bs.length) } }

/-- FW_COMMIT (R418, R427). -/
def State.commitFirmware (s : State) (who : Requester) (v : Nat) : Wr :=
  let img := s.sec.fwStage
  if v ≠ 1 then .no rRANGE
  else if s.sec.fwOwner ≠ some who then .no rSTATE
  else if !fwOk s.nv img then .no rRANGE
  else if s.cairnFree = 0 then .no rSTATE
  else
    let slot := 1 - s.nv.fwActive
    let s := { s with nv := { s.nv with
      fw0 := if slot = 0 then img else s.nv.fw0, fw1 := if slot = 0 then s.nv.fw1 else img, fwActive := slot } }
    .ok (s.cairn 7 (leBytes 4 (fwVersion s.start.fw) ++ leBytes 4 (fwVersion img) ++ leBytes 2 (fwSvn img) ++ List.replicate 6 0 ++ sha256 img))

/-- SVN_FLOOR (R419, R427). -/
def State.writeFloor (s : State) (v : Nat) : Wr :=
  let old := s.nv.svnFloor
  if v < old ∨ fwSvn s.start.fw < v then .no rRANGE
  else if v = old then .ok s
  else if s.cairnFree = 0 then .no rSTATE
  else .ok (({ s with nv := { s.nv with svnFloor := v } } : State).cairn 8 (leBytes 1 old ++ leBytes 1 v))

/-- SANITISE (R429). -/
def State.writeSanitise (s : State) (p : Nat) (bs : List Byte) : Wr :=
  let v := leNat bs
  let t := s.part p
  let waits := fun (u : TestUnit) => u.state == 1 || u.state == 2
  if bs.length ≠ 40 then .no rLENGTH
  else if s.slotOpen p || t.srvEn || (s.ctxs).any (fun x => (s.context p x).en) || s.cairnFree == 0 then .no rSTATE
  else if waits t.test || waits t.cal || s.sanitising p then .no rBUSY
  else .ok (s.updPart p (fun t => { t with
    sanitise := { t.sanitise with state := 1, result := 0, pattern := fld v 63 0, nonce := fld v 319 64, begun := s.start.periods } }))

/-! ## Attestation over the management port (R421) -/

/-- SPDM 1.2 request codes of the supported requests (log 9). -/
def spdmCode (msg : List Byte) : Nat := (msg.getD 1 0).toNat
def spdmGET_VERSION : Nat := 0x84
def spdmGET_CAPABILITIES : Nat := 0xE1
def spdmNEGOTIATE : Nat := 0xE3
def spdmGET_DIGESTS : Nat := 0x81
def spdmGET_CERTIFICATE : Nat := 0x82
def spdmCHALLENGE : Nat := 0x83
def spdmGET_MEASUREMENTS : Nat := 0xE0
def spdmKEY_EXCHANGE : Nat := 0xE4
def spdmFINISH : Nat := 0xE5
def spdmEND_SESSION : Nat := 0xEC
def spdmHEARTBEAT : Nat := 0xE8
/-- The code under which `Config.spdmBody` gives an ERROR response. -/
def spdmERROR : Nat := 0x7F

/-- Requests answered in a connection without a session. -/
def spdmPlain : List Nat :=
  [spdmGET_VERSION, spdmGET_CAPABILITIES, spdmNEGOTIATE, spdmGET_DIGESTS, spdmGET_CERTIFICATE, spdmCHALLENGE, spdmGET_MEASUREMENTS]

/-- Requests for a secured session (log 9). -/
def spdmSession : List Nat := [spdmKEY_EXCHANGE, spdmFINISH, spdmEND_SESSION, spdmHEARTBEAT]

/-- Whether a request comes in its order: version, capabilities, algorithms, then the rest (log 9). -/
def Security.inOrder (c : Security) (who : Requester) (op : Nat) : Bool :=
  if op = spdmGET_VERSION then true
  else if op = spdmGET_CAPABILITIES then c.version.contains who
  else if op = spdmNEGOTIATE then c.caps.contains who
  else if op = spdmFINISH then c.handshakes.any (fun h => h.1 == who)
  else if op = spdmEND_SESSION ∨ op = spdmHEARTBEAT then c.sessions.any (fun h => h.1 == who)
  else c.algos.contains who

/-- The list without what names the requester. -/
def dropWho (l : List (Requester × Nat)) (who : Requester) : List (Requester × Nat) := l.filter (fun h => h.1 != who)

/-- What a request that is in order does to the responder: GET_VERSION begins the connection anew; FINISH completes the
handshake; END_SESSION closes the session. -/
def Security.after (c : Security) (who : Requester) (op : Nat) : Security :=
  let add := fun (l : List Requester) => l.filter (· != who) ++ [who]
  let out := fun (l : List Requester) => l.filter (· != who)
  if op = spdmGET_VERSION then
    { c with version := add c.version, caps := out c.caps, algos := out c.algos, handshakes := dropWho c.handshakes who,
             sessions := dropWho c.sessions who }
  else if op = spdmGET_CAPABILITIES then { c with caps := add c.caps }
  else if op = spdmNEGOTIATE then { c with algos := add c.algos }
  else if op = spdmKEY_EXCHANGE then
    { c with handshakes := dropWho c.handshakes who ++ [(who, c.nextSession)], nextSession := c.nextSession + 1 }
  else if op = spdmFINISH then
    { c with handshakes := dropWho c.handshakes who, sessions := dropWho c.sessions who ++ c.handshakes.filter (fun h => h.1 == who) }
  else if op = spdmEND_SESSION then { c with sessions := dropWho c.sessions who }
  else c

/-- Parameters of a request. -/
def spdmP1 (msg : List Byte) : Nat := (msg.getD 2 0).toNat
def spdmP2 (msg : List Byte) : Nat := (msg.getD 3 0).toNat

/-- Whether a request names what the part has: of certificate slots only slot 0 (R420), of measurements an index of R422, their
number (0) or all of them (0xFF). -/
def spdmNames (op : Nat) (msg : List Byte) : Bool :=
  if op = spdmGET_CERTIFICATE ∨ op = spdmCHALLENGE then spdmP1 msg == 0
  else if op = spdmKEY_EXCHANGE then spdmP2 msg == 0
  else if op = spdmGET_MEASUREMENTS then spdmP2 msg ≤ 3 || spdmP2 msg == 0xFF
  else true

/-- Flags of the CAPABILITIES response: certificates, challenge, signed measurements, encryption and authentication of sessions, key
exchange and heartbeat; no mutual authentication, pre-shared keys, SET_CERTIFICATE, GET_CSR or chunking, and no KEY_UPDATE (R421); the
rest is not settled (log 9). -/
def spdmCapabilities : Nat :=
  let yes := [1, 2, 4, 6, 7, 9, 13]
  let no := [3, 8, 10, 11, 14, 17, 19, 20]
  (List.range 32).foldl (fun a k =>
    if yes.contains k || (!no.contains k && Config.spdmFlags.testBit k) then a + 2 ^ k else a) 0

/-- What a NEGOTIATE_ALGORITHMS request offers in its table of a type, or 0 (log 9). -/
def spdmOffer (msg : List Byte) (type : Nat) : Nat :=
  let at0 := 32 + 4 * ((msg.getD 28 0).toNat + (msg.getD 29 0).toNat)
  (List.range (spdmP1 msg)).foldl (fun a k =>
    if (msg.getD (at0 + 4 * k) 0).toNat = type then leNat ((msg.drop (at0 + 4 * k + 2)).take 2) else a) 0

/-- The algorithms selected (R421), of what is offered: SHA-256 for measurements, RSAPSS 3072, SHA-256, secp384r1 and AES-256-GCM. -/
def spdmAlgorithms (msg : List Byte) : List Byte :=
  let word := fun (k : Nat) => leNat ((msg.drop k).take 4)
  leBytes 4 2 ++ leBytes 4 (word 8 &&& 8) ++ leBytes 4 (word 12 &&& 1) ++ leBytes 2 (spdmOffer msg 2 &&& 0x10) ++ leBytes 2 (spdmOffer msg 3 &&& 2)

/-- What the manual fixes of a response: capabilities, algorithms, the chain's digest, a window of the chain, the measurements; CHALLENGE
and signed measurements carry a signature of the identity key (R420 to R422). Field places in the request: log 9. -/
def State.spdmPayload (s : State) (op : Nat) (msg : List Byte) : List Byte :=
  if op = spdmGET_CAPABILITIES then leBytes 4 spdmCapabilities
  else if op = spdmNEGOTIATE then spdmAlgorithms msg
  else if op = spdmGET_DIGESTS then sha256 s.nv.certChain
  else if op = spdmGET_CERTIFICATE then
    (s.nv.certChain.drop (leNat ((msg.drop 4).take 2))).take (leNat ((msg.drop 6).take 2))
  else if op = spdmCHALLENGE then
    let v := sha256 s.nv.certChain ++ (if spdmP2 msg = 0 then [] else sha256 s.measurements)
    v ++ Config.identitySignature (msg ++ v)
  else if op = spdmGET_MEASUREMENTS then
    let k := spdmP2 msg
    let v := if k = 0 then leBytes 1 3 else if k = 0xFF then s.measurements else s.measurementBlock k
    if spdmP1 msg % 2 = 1 then v ++ Config.identitySignature (msg ++ v) else v
  else []

/-- A request is answered: the response and the responder after it; an ERROR out of order, where the request is not supported
(GET_CSR, SET_CERTIFICATE, any other code), or where it names what the part lacks. -/
def State.spdm (s : State) (who : Requester) (op : Nat) (msg : List Byte) : List Byte × State :=
  if (spdmPlain ++ spdmSession).contains op && s.sec.inOrder who op && spdmNames op msg then
    (Config.spdmBody op msg ++ s.spdmPayload op msg, { s with sec := s.sec.after who op })
  else (Config.spdmBody spdmERROR msg, s)

/-- SPDM_REQUEST (R421): a request of a secured session is refused on this path; the response to any other is kept, an ERROR too. -/
def State.writeSpdm (s : State) (who : Requester) (msg : List Byte) : Wr :=
  if spdmSession.contains (spdmCode msg) then .no rRANGE
  else
    let (r, s) := s.spdm who (spdmCode msg) msg
    .ok (s.updRequester who (fun q => { q with spdm := r }))

/-! ## Every entry -/

/-- A write of a scalar of indexes 0x1101 to 0x1401. -/
def State.writeNumA (s : State) (r : Row) (i v : Nat) : Wr :=
  match r.index, r.lo with
  | 0x1101, 1 => s.writeAccept0 i v
  | 0x1101, 5 => s.writeAccept1 i v
  | 0x1200, 1 => s.writeMode v
  | 0x1210, 1 => s.writeInterleave i v
  | 0x1211, 1 => Wr.check (decide (v ≤ 1)) rRANGE (.ok (s.updPart i (fun t => { t with tensorView := v })))
  | 0x1220, 1 => Wr.check (decide (v ≤ 1)) rRANGE (.ok (s.updPart i (fun t => { t with coupling := v })))
  | 0x1300, 1 => Wr.check (decide (800 ≤ v) && decide (v ≤ 2400)) rRANGE (.ok (s.setEntry 0x1300 1 v))
  | 0x1301, 1 => Wr.check (decide (100 ≤ v) && decide (v ≤ 520)) rRANGE (.ok (s.setEntry 0x1301 (i + 1) v))
  | 0x1301, 5 => Wr.check (decide (100 ≤ v) && decide (v ≤ 480)) rRANGE (.ok (s.setEntry 0x1301 5 v))
  | 0x1310, 1 => s.writeGrade v
  | 0x1401, 2 => Wr.check (v == 1) rRANGE (.ok { s with power := { s.power with suspect := [] } })
  | _, _ => .no rACCESS

/-- A write of a scalar of indexes 0x1510 to 0x1620. -/
def State.writeNumB (s : State) (r : Row) (i v : Nat) : Wr :=
  match r.index, r.lo with
  | 0x1510, 0x11 => .ok (s.clearCeLogs v)
  | 0x1520, 0x11 => .ok (s.setEntry 0x1520 0x11 v)
  | 0x1530, 1 => s.writeMapout i v
  | 0x1600, 1 => s.writeNode v
  | 0x1600, 2 => s.writeRole v
  | 0x1610, 9 => s.writePortCtl i v
  | 0x1610, 0x1D => s.writeRopePorts i v
  | 0x1610, 0x21 => Wr.check (decide (50000 ≤ v)) rRANGE (.ok (s.setEntry 0x1610 0x21 v))
  | 0x1620, 2 => Wr.check (i == 0 || decide (2 ≤ v)) rRANGE (.ok (s.setEntry 0x1620 (2 + i) v))
  | _, _ => .no rACCESS

/-- A write of a scalar of indexes 0x1800 to 0x1D00. -/
def State.writeNumC (s : State) (who : Requester) (r : Row) (i v : Nat) : Wr :=
  match r.index, r.lo with
  | 0x1800, 1 => Wr.check (decide (1 ≤ v)) rRANGE (.ok (s.setEntry 0x1800 1 v).wakeBudgets)
  | 0x1800, 2 => .ok (s.setEntry 0x1800 2 v).wakeBudgets
  | 0x1800, 3 => .ok (s.setEntry 0x1800 3 v).wakeBudgets
  | 0x1900, 6 => Wr.check (fld v 7 4 == 0) rRANGE (.ok (s.clearAccounts v))
  | 0x1A00, 1 => s.askTest i false v
  | 0x1A10, 1 => s.askTest i true v
  | 0x1B00, 3 => s.writeFloor v
  | 0x1B00, 5 => Wr.check (v % 65536 == 0) rRANGE (.ok (s.setEntry 0x1B00 5 v))
  | 0x1B00, 6 => s.commitFirmware who v
  | 0x1C00, 5 => .ok (s.updRequester who (fun q => { q with readFrom := some v }))
  | 0x1D00, 1 => s.writeBreak who i v
  | _, _ => .no rACCESS

/-- A whole object. -/
def State.writeObject (s : State) (who : Requester) (r : Row) (i : Nat) (bs : List Byte) : Wr :=
  match r.index, r.lo with
  | 0x1520, 1 => s.writeRemap i bs
  | 0x1610, 0x19 => s.writeRoutes i bs
  | 0x1800, 4 => .ok (s.setObject 0x1800 4 bs).wakeBudgets
  | 0x1801, 1 => .ok (s.setObject 0x1801 1 bs).wakeBudgets
  | 0x1810, 1 => s.writeVariants i bs
  | 0x1B00, 4 => s.writeChunk who bs
  | 0x1B00, 7 => s.writeSpdm who bs
  | 0x1C10, 1 => s.writeSanitise i bs
  | _, _ => .no rACCESS

/-- A scalar. -/
def State.writeNum (s : State) (who : Requester) (r : Row) (i v : Nat) : Wr :=
  if r.index < 0x1410 then s.writeNumA r i v else if r.index < 0x1800 then s.writeNumB r i v else s.writeNumC who r i v

/-! ## Enforcement (R360, R378, R379, R381) -/

/-- Whether a path may write the entry (R109, R306, R360, R434). -/
def mayWrite (mode : Nat) (who : Requester) (r : Row) (i : Nat) : Bool :=
  match who with
  | .port _ _ => true
  | .mailbox fn =>
    if r.index = 0x1D00 then true
    else if funcVf fn ≠ 0 then false
    else if fn = 0 then r.index != 0x1610 || r.kind == .whole || r.owner mode i == some 0
    else r.index != 0x1C10 && r.owner mode i == some (funcPart fn)

/-- Whether an instance is absent in the active mode. -/
def Row.missing (r : Row) (mode i : Nat) : Bool := (r.kind == .part || r.kind == .partKept) && decide (nParts mode ≤ i)

/-- Partitions that an RWS entry concerns are free (R371). -/
def State.rwsFree (s : State) (r : Row) (i : Nat) : Bool :=
  match r.owner s.mode i with
  | some p => !s.partBusy p
  | none => (List.range (nParts s.mode)).all (fun p => !s.partBusy p)

/-- An object's windows: staged, applied at LAST, or refused (R379). -/
def State.stageWindow (s : State) (who : Requester) (m : DictMsg) (max : Nat) (apply : State → List Byte → Wr) : Wr :=
  let q := s.requester who
  let drop := fun (s : State) => s.updRequester who (fun q => { q with staging := none })
  let base : Option (List Byte) :=
    if m.offset = 0 then some []
    else match q.staging with
      | some g => if g.index = m.index ∧ g.sub = m.sub ∧ g.bytes.length = m.offset then some g.bytes else none
      | none => none
  match base with
  | none => .no rLENGTH
  | some b =>
    let bs := b ++ m.payload
    if max < bs.length then .no rLENGTH
    else if m.last then apply (drop s) bs
    else .ok (s.updRequester who (fun q => { q with staging := some ⟨m.index, m.sub, bs⟩ }))

/-- The longest object that an entry takes: of 0x1810 the records of the active mode (R28, R238). -/
def State.objectMax (s : State) (r : Row) (max : Nat) : Nat := if r.index = 0x1810 then 32 * variantsPer s.mode else max

/-- A WRITE. -/
def State.writeMsg (s : State) (who : Requester) (m : DictMsg) : Wr :=
  if m.sub = 0 ∧ subCount m.index ≠ 0 then .no rACCESS
  else match rowOf m.index m.sub with
    | none => .no rNO_ENTRY
    | some r =>
      let i := m.sub - r.lo
      if r.missing s.mode i then .no rNO_ENTRY
      else if r.acc = .ro ∨ r.acc = .const then .no rACCESS
      else if !mayWrite s.mode who r i then .no rDENIED
      else match r.ty with
        | .num n =>
          if m.payload.length ≠ n then .no rLENGTH
          else if r.acc = .rws ∧ !s.rwsFree r i then .no rSTATE
          else s.writeNum who r i (leNat m.payload)
        | .str => .no rACCESS
        | .dom max =>
          s.stageWindow who m (s.objectMax r max) (fun s bs => if r.acc = .rws ∧ !s.rwsFree r i then .no rSTATE else s.writeObject who r i bs)

end Sys2Proof.Machine
end

