-- ==== Sys2Proof/Machine/Dictionary.lean ====
section
/-! DEFINITION. Requests of the management dictionary: how they arrive, are performed and answered, and the rows that name
an entry (R33, R372 to R385, and the rules that the entries' own chapters give). -/

namespace Sys2Proof.Machine

/-! ## Answers (R377, R380, R382) -/

def isPort (w : Requester) : Bool := match w with | .port _ _ => true | .mailbox _ => false

/-- A list by requester, oldest first, with at most eight requesters of the port. -/
def keepEight {α : Type} (l : List (Requester × α)) : List (Requester × α) :=
  match l.find? (fun x => isPort x.1) with
  | some x => if 8 < (l.filter (fun x => isPort x.1)).length then l.filter (fun y => y.1 != x.1) else l
  | none => l

/-- A requester's entry becomes the newest of a list. -/
def renew {α : Type} (l : List (Requester × α)) (who : Requester) (v : α) : List (Requester × α) :=
  keepEight (l.filter (fun x => x.1 != who) ++ [(who, v)])

/-- A response leaves on its path; a mailbox's is padded to whole dwords and signals its function (R356, R385). -/
def State.sendResp (s : State) (who : Requester) (resp : List Byte) : State :=
  match who with
  | .mailbox fn => (s.emit (.dict who (fit 0 (4 * ((resp.length + 3) / 4)) resp))).irq fn 3
  | .port _ _ => s.emit (.dict who resp)

/-- A response leaves and is kept. -/
def State.answer (s : State) (who : Requester) (seq : Nat) (resp : List Byte) : State :=
  ({ s with dict := { s.dict with lasts := renew s.dict.lasts who (seq, resp) } } : State).sendResp who resp

/-- The dictionary answers reads: from stage 9 on, also through a shutdown and after a stop that leaves the controller
running; never where the start did not reach that stage (R20, R372, R401, R413). -/
def State.dictOn (s : State) : Bool :=
  match s.start.phase with
  | .live => true
  | .stopping => true
  | .shutDown => s.start.stage == 9
  | .tripped m => m && s.start.stage == 9
  | .pllLost m => m && s.start.stage == 9
  | _ => false

/-! ## READ (R378, R380) -/

/-- A window of an object. -/
def windowOf (obj : List Byte) (m : DictMsg) : Nat × List Byte :=
  if m.len = 0 then (rOK, leBytes 4 obj.length)
  else if obj.length ≤ m.offset then (rLENGTH, [])
  else (rOK, (obj.drop m.offset).take (min m.len 1024))

/-- A READ of a DOMAIN. -/
def State.readObject (s : State) (who : Requester) (m : DictMsg) (r : Row) (obj : List Byte) : Nat × List Byte × State :=
  let d := s.dict
  let cleared := { s with dict := { d with snaps := d.snaps.filter (fun x => x.1 != who) } }
  if r.acc = .wo then (rOK, if m.len = 0 then leBytes 4 0 else [], if m.offset = 0 then cleared else s)
  else if r.acc ≠ .ro then
    let (c, v) := windowOf obj m
    (c, v, if m.offset = 0 then cleared else s)
  else if m.offset = 0 then
    let (c, v) := windowOf obj m
    (c, v, { s with dict := { d with snaps := renew d.snaps who ⟨m.index, m.sub, obj⟩ } })
  else if m.len = 0 then (rOK, leBytes 4 obj.length, s)
  else match d.snaps.find? (fun x => x.1 == who) with
    | some x =>
      if x.2.index = m.index ∧ x.2.sub = m.sub then
        let (c, v) := windowOf x.2.bytes m
        (c, v, s)
      else (rSNAPSHOT_LOST, [], s)
    | none => (rSNAPSHOT_LOST, [], s)

/-- A READ: result, payload and the state after it. -/
def State.readMsg (s : State) (who : Requester) (m : DictMsg) : Nat × List Byte × State :=
  if m.sub = 0 ∧ subCount m.index ≠ 0 then (rOK, leBytes 1 (subCount m.index), s)
  else match rowOf m.index m.sub with
    | none => (rNO_ENTRY, [], s)
    | some r =>
      let i := m.sub - r.lo
      if r.missing s.mode i && r.kind == .part then (rNO_ENTRY, [], s)
      else
        let v := s.readEntry who r i
        match r.ty with
        | .dom _ => s.readObject who m r v
        | _ => (rOK, if r.missing s.mode i then v.map (fun _ => 0) else v, s)

/-! ## Performing (R381 to R384) -/

/-- A refused window leaves no staging (R379). -/
def State.dropStaging (s : State) (who : Requester) (m : DictMsg) (result : Nat) : State :=
  match rowOf m.index m.sub with
  | some r =>
    match r.ty with
    | .dom _ =>
      if result = rNO_ENTRY ∨ result = rACCESS ∨ result = rDENIED then s
      else s.updRequester who (fun q => { q with staging := none })
    | _ => s
  | none => s

/-- A WRITE is performed and answered; of a stored entry the answer waits for flash (R33). -/
def State.performWrite (s : State) (who : Requester) (m : DictMsg) : State :=
  if !s.isLive then s.answer who m.seq (dictReply m rNOT_LIVE [])
  else match s.writeMsg who m with
    | .no c => (s.dropStaging who m c).answer who m.seq (dictReply m c [])
    | .ok t => t.answer who m.seq (dictReply m rOK [])
    | .stored t old grade =>
      let t := t.sealBase
      { t with dict := { t.dict with
          flash := some { who := who, seq := m.seq, answer := dictReply m rOK [], key := 256 * m.index + m.sub, old := old, grade := grade } } }

/-- A well-formed request is performed, or its kept response sent again. -/
def State.perform (s : State) (who : Requester) (m : DictMsg) : State :=
  match s.dict.lasts.find? (fun x => x.1 == who && x.2.1 == m.seq) with
  | some x => s.sendResp who x.2.2
  | none =>
    if m.op = 1 then
      let (c, v, t) := s.readMsg who m
      t.answer who m.seq (dictReply m c v)
    else if m.op = 2 then s.performWrite who m
    else if m.op = 3 then s.answer who m.seq (dictReply m rOK s.identity)
    else s.answer who m.seq (dictReply m rBAD_OP [])

/-- The controller takes a request (R376, R383). -/
def State.take (s : State) (who : Requester) (msg : List Byte) : State :=
  let d := s.dict
  if malformed (!isPort who) msg then
    if isPort who then { s with dict := { d with malformed := satAdd 16 d.malformed 1 } } else s
  else
    let s := if isPort who then { s with dict := { d with requests := satAdd 32 d.requests 1 } } else s
    s.perform who (parseMsg msg)

/-- Requests that waited are taken, until one waits for flash. -/
def State.drainQueue : Nat → State → State
  | 0, s => s
  | n + 1, s =>
    match s.dict.flash, s.dict.queue with
    | none, (who, msg) :: t => State.drainQueue n (({ s with dict := { s.dict with queue := t } } : State).take who msg)
    | _, _ => s

/-- Whether a mailbox reaches the part. -/
def State.doeReach (s : State) (fn : Nat) : Bool :=
  (s.host.link == .up || s.start.phase == .tripped true) && s.hasFunc fn && !(s.func fn).d3hot

/-- A request arrives: while a stored entry waits for flash, the port holds 16 and each mailbox one (R376, R385). -/
def State.arrive (s : State) (who : Requester) (msg : List Byte) : State :=
  let d := s.dict
  match who with
  | .port _ _ =>
    if !s.dictOn then s
    else if d.flash.isNone then s.take who msg
    else if 16 ≤ (d.queue.filter (fun x => isPort x.1)).length then { s with dict := { d with droppedFull := satAdd 16 d.droppedFull 1 } }
    else { s with dict := { d with queue := d.queue ++ [(who, msg)] } }
  | .mailbox fn =>
    if !s.doeReach fn then s
    else if !s.dictOn then
      if malformed true msg then s else s.sendResp who (dictReply (parseMsg msg) rNOT_LIVE [])
    else if d.flash.isNone then s.take who msg
    else if d.queue.any (fun x => x.1 == who) || d.flash.any (fun w => w.who == who) then s
    else { s with dict := { d with queue := d.queue ++ [(who, msg)] } }

/-- A message of a row: one that is malformed belongs to every row. -/
def State.request (s : State) (who : Requester) (msg : List Byte) (mine : DictMsg → Bool) : State :=
  if malformed (!isPort who) msg || mine (parseMsg msg) then s.arrive who msg else s

/-- Whether the part takes a datagram sent to a destination: of a multicast at ff02::1 an IDENTIFY (R373), and a malformed one, which
it drops and counts (R376). One at another multicast address does not reach the controller (DEDUCED, log 31). A mailbox has no
destination but its function. -/
def heard (x : Sender) (msg : List Byte) : Bool :=
  !isPort x.who || x.dest == .own || (x.dest == .allNodes && (malformed false msg || (parseMsg msg).op == 3))

/-- A WRITE of subindexes `lo` to `hi` of an index. -/
def isWrite (index lo hi : Nat) (m : DictMsg) : Bool :=
  m.op == 2 && m.index == index && decide (lo ≤ m.sub) && decide (m.sub ≤ hi)

/-- A WRITE of a test or calibration request with an ITEM. -/
def isItem (index item : Nat) (m : DictMsg) : Bool := isWrite index 1 4 m && (m.payload.headD 0).toNat == item

/-! ## The rows -/

/-- DICT_READ (R378, R380, R381): also a message whose OP is not listed. -/
def execDictRead (sender : Sender) (msg : List Byte) (s : State) : Host.Outcome State Fault Refusal :=
  .next (if heard sender msg then s.request sender.who msg (fun m => m.op != 2 && m.op != 3) else s)

/-- DICT_WRITE (R378, R379, R381). -/
def execDictWrite (sender : Sender) (msg : List Byte) (s : State) : Host.Outcome State Fault Refusal :=
  .next (if heard sender msg then s.request sender.who msg (fun m => m.op == 2) else s)

/-- IDENTIFY (R378). -/
def execIdentify (sender : Sender) (msg : List Byte) (s : State) : Host.Outcome State Fault Refusal :=
  .next (if heard sender msg then s.request sender.who msg (fun m => m.op == 3) else s)

/-- NEIGHBOUR_DISCOVERY (R373): a solicitation for the port's address is answered with the MAC. -/
def execNeighbourDiscovery (target : Nat) (s : State) : Host.Outcome State Fault Refusal :=
  if s.dictOn && target == mgmtAddr s.nv.mac then .next (s.emit (.neighbour s.nv.mac)) else .next s

/-- STORED_ENTRY_COMMIT (R33, R433): flash holds the entry; a change of grade gets its record; the write is answered. -/
def execStoredEntryCommit (s : State) : Host.Outcome State Fault Refusal :=
  match s.dict.flash with
  | none => .next s
  | some w =>
    if !s.dictOn then .next s
    else
      let s := match w.grade with
        | some (a, b) => s.cairn 0x0A (leBytes 1 a ++ leBytes 1 b)
        | none => s
      let s := ({ s with dict := { s.dict with flash := none } } : State).answer w.who w.seq w.answer
      .next (State.drainQueue s.dict.queue.length s)

/-- STORED_MODE (R31). -/
def execStoredMode (who : Requester) (msg : List Byte) (s : State) : Host.Outcome State Fault Refusal :=
  .next (s.request who msg (isWrite 0x1200 1 1))

/-- NODE_NUMBER (R26). -/
def execNodeNumber (who : Requester) (msg : List Byte) (s : State) : Host.Outcome State Fault Refusal :=
  .next (s.request who msg (isWrite 0x1600 1 1))

/-- ROLE (R318). -/
def execRole (who : Requester) (msg : List Byte) (s : State) : Host.Outcome State Fault Refusal :=
  .next (s.request who msg (isWrite 0x1600 2 2))

/-- BREAK (R109). -/
def execBreakSlot (who : Requester) (msg : List Byte) (s : State) : Host.Outcome State Fault Refusal :=
  .next (s.request who msg (isWrite 0x1D00 1 8))

/-- ACCEPT0 (R361): ACCEPT1 with it. -/
def execAccept0 (who : Requester) (msg : List Byte) (s : State) : Host.Outcome State Fault Refusal :=
  .next (s.request who msg (isWrite 0x1101 1 8))

/-- INTERLEAVE (R325). -/
def execInterleave (who : Requester) (msg : List Byte) (s : State) : Host.Outcome State Fault Refusal :=
  .next (s.request who msg (isWrite 0x1210 1 4))

/-- CAP (R414). -/
def execCap (who : Requester) (msg : List Byte) (s : State) : Host.Outcome State Fault Refusal :=
  .next (s.request who msg (isWrite 0x1300 1 1))

/-- SUSPECT_CLEAR (R404, R414). -/
def execSuspectClear (who : Requester) (msg : List Byte) (s : State) : Host.Outcome State Fault Refusal :=
  .next (s.request who msg (isWrite 0x1401 2 2))

/-- CE_LOG_CLEAR (R330). -/
def execCeLogClear (who : Requester) (msg : List Byte) (s : State) : Host.Outcome State Fault Refusal :=
  .next (s.request who msg (isWrite 0x1510 0x11 0x11))

/-- REMAP (R331). -/
def execRemap (who : Requester) (msg : List Byte) (s : State) : Host.Outcome State Fault Refusal :=
  .next (s.request who msg (isWrite 0x1520 1 16))

/-- MAPOUT (R336). -/
def execMapout (who : Requester) (msg : List Byte) (s : State) : Host.Outcome State Fault Refusal :=
  .next (s.request who msg (isWrite 0x1530 1 16))

/-- PORT_CTL (R306). -/
def execPortCtl (who : Requester) (msg : List Byte) (s : State) : Host.Outcome State Fault Refusal :=
  .next (s.request who msg (isWrite 0x1610 9 16))

/-- ROUTES (R307). -/
def execRoutes (who : Requester) (msg : List Byte) (s : State) : Host.Outcome State Fault Refusal :=
  .next (s.request who msg (isWrite 0x1610 0x19 0x1C))

/-- FW_CHUNK (R418). -/
def execFwChunk (who : Requester) (msg : List Byte) (s : State) : Host.Outcome State Fault Refusal :=
  .next (s.request who msg (isWrite 0x1B00 4 4))

/-- FW_COMMIT (R418). -/
def execFwCommit (who : Requester) (msg : List Byte) (s : State) : Host.Outcome State Fault Refusal :=
  .next (s.request who msg (isWrite 0x1B00 6 6))

/-- SVN_FLOOR (R419). -/
def execSvnFloor (who : Requester) (msg : List Byte) (s : State) : Host.Outcome State Fault Refusal :=
  .next (s.request who msg (isWrite 0x1B00 3 3))

/-- NEXT_GRADE (R433). -/
def execNextGrade (who : Requester) (msg : List Byte) (s : State) : Host.Outcome State Fault Refusal :=
  .next (s.request who msg (isWrite 0x1310 1 1))

/-- CLEAR (R297). -/
def execClear (who : Requester) (msg : List Byte) (s : State) : Host.Outcome State Fault Refusal :=
  .next (s.request who msg (isWrite 0x1900 6 6))

/-- BUDGET_CTL (R295). -/
def execBudgetCtl (who : Requester) (msg : List Byte) (s : State) : Host.Outcome State Fault Refusal :=
  .next (s.request who msg (isWrite 0x1800 3 3))

/-- SANITISE (R429). -/
def execSanitise (who : Requester) (msg : List Byte) (s : State) : Host.Outcome State Fault Refusal :=
  .next (s.request who msg (isWrite 0x1C10 1 4))

/-- SCRATCH (R388). -/
def execScratch (who : Requester) (msg : List Byte) (s : State) : Host.Outcome State Fault Refusal :=
  .next (s.request who msg (isItem 0x1A00 1))

/-- MATRIX (R388). -/
def execMatrix (who : Requester) (msg : List Byte) (s : State) : Host.Outcome State Fault Refusal :=
  .next (s.request who msg (isItem 0x1A00 2))

/-- VECTOR (R388). -/
def execVector (who : Requester) (msg : List Byte) (s : State) : Host.Outcome State Fault Refusal :=
  .next (s.request who msg (isItem 0x1A00 3))

/-- STACK_ENGINE (R388). -/
def execStackEngine (who : Requester) (msg : List Byte) (s : State) : Host.Outcome State Fault Refusal :=
  .next (s.request who msg (isItem 0x1A00 4))

/-- CODEC (R388). -/
def execCodec (who : Requester) (msg : List Byte) (s : State) : Host.Outcome State Fault Refusal :=
  .next (s.request who msg (isItem 0x1A00 5))

/-- DRAM_SCRUB (R388). -/
def execDramScrub (who : Requester) (msg : List Byte) (s : State) : Host.Outcome State Fault Refusal :=
  .next (s.request who msg (isItem 0x1A00 6))

/-- DRAM_MARCH (R388). -/
def execDramMarch (who : Requester) (msg : List Byte) (s : State) : Host.Outcome State Fault Refusal :=
  .next (s.request who msg (isItem 0x1A00 7))

/-- TEST_SPAR (R388). -/
def execTestSpar (who : Requester) (msg : List Byte) (s : State) : Host.Outcome State Fault Refusal :=
  .next (s.request who msg (isItem 0x1A00 8))

/-- TEST_FABRIC_PORT (R388). -/
def execTestFabricPort (who : Requester) (msg : List Byte) (s : State) : Host.Outcome State Fault Refusal :=
  .next (s.request who msg (isItem 0x1A00 9))

/-- TETHER (R388). -/
def execTether (who : Requester) (msg : List Byte) (s : State) : Host.Outcome State Fault Refusal :=
  .next (s.request who msg (isItem 0x1A10 1))

/-- CAL_SPAR (R388). -/
def execCalSpar (who : Requester) (msg : List Byte) (s : State) : Host.Outcome State Fault Refusal :=
  .next (s.request who msg (isItem 0x1A10 2))

/-- SENSOR (R388). -/
def execSensor (who : Requester) (msg : List Byte) (s : State) : Host.Outcome State Fault Refusal :=
  .next (s.request who msg (isItem 0x1A10 3))

/-- CAL_FABRIC_PORT (R388). -/
def execCalFabricPort (who : Requester) (msg : List Byte) (s : State) : Host.Outcome State Fault Refusal :=
  .next (s.request who msg (isItem 0x1A10 4))

/-- TEST_CANCEL (R392): of self-test or calibration. -/
def execTestCancel (who : Requester) (msg : List Byte) (s : State) : Host.Outcome State Fault Refusal :=
  .next (s.request who msg (fun m => isItem 0x1A00 0 m || isItem 0x1A10 0 m))

end Sys2Proof.Machine
end

