-- ==== Sys2Proof/Machine/Startup.lean ====
section
/-! DEFINITION. Start, pins, supplies and shutdown (R20, R31 to R34, R337, R343, R393 to R402, R417, R423 to R426, R435 to R438). -/

namespace Sys2Proof.Machine

/-! ## What a hold clears (R393, R399) -/

/-- What a stack keeps without a start: its stored map-outs (R33, R336). -/
def Stack.cold (st : Stack) : Stack := { applied := st.applied, pending := st.pending }

/-- Dies in reset: flash, fuses, latches and pins stay, and what has left the part. -/
def State.cold (s : State) (ph : Phase) : State :=
  { nv := s.nv
    start := { resetN := s.start.resetN, perstN := s.start.perstN, railsOk := s.start.railsOk, shdnReqN := s.start.shdnReqN
               shdnDone := s.start.shdnDone, phase := ph }
    mem := { stk := s.mem.stk.map (fun k => (k.1, k.2.cold)), fresh := s.mem.fresh }
    jtag := s.jtag, pending := s.pending, out := s.out }

/-- A stored entry back at its old value. -/
def State.oldStored (s : State) (key old : Nat) : State :=
  if key = 0x120001 then { s with nv := { s.nv with mode := old } }
  else if key = 0x160001 then { s with nv := { s.nv with node := old } }
  else if key = 0x160002 then { s with nv := { s.nv with role := old } }
  else if key = 0x131001 then { s with nv := { s.nv with nextGrade := old } }
  else
    let k := key % 256 - 1
    { s with mem := s.mem.setStack k { s.mem.stack k with pending := old } }

/-- The base image back as it was before a stored write. -/
def State.restoreStored (s : State) (key old : Nat) : State := (s.oldStored key old).sealBase

/-- A slot of the ledger that power loss left partly written (R424). -/
def State.cairnVoid (s : State) : State :=
  if s.nv.cairn.length < cairnSlots then
    { s with nv := { s.nv with cairn := s.nv.cairn ++
        [{ seq := s.nv.cairn.length, type := 0, start := s.nv.starts, periods := s.start.periods, payload := [], prev := [], void := true }] } }
  else s

/-- Power or reset takes the controller while a stored entry waits for flash: the old value or the new one stays (R33). -/
def State.loseFlash (s : State) : State :=
  match s.dict.flash with
  | none => s
  | some w =>
    let s := if Config.freeChoice s.mem.fresh 32 = 0 then s.restoreStored w.key w.old else s
    let s := if w.grade.isSome && decide (Config.freeChoice s.mem.fresh 33 = 0) then s.cairnVoid else s
    { s with mem := { s.mem with fresh := s.mem.fresh + 1 }, dict := { s.dict with flash := none } }

/-- Whether a start is in progress or the part runs: its end is not yet known. -/
def Phase.runs (ph : Phase) : Bool :=
  match ph with
  | .done _ => true
  | .stopped => true
  | .live => true
  | .stopping => true
  | _ => false

/-! ## Intervals of the ledger (R425, R426) -/

/-- Sectors corrected and uncorrectable lines over all stacks. -/
def State.ceTotal (s : State) : Nat := (s.mem.stk.map (fun k => k.2.ceCount)).sum
def State.ueTotal (s : State) : Nat := (s.mem.stk.map (fun k => k.2.ueCount)).sum
def State.energyTotal (s : State) : Nat := (s.parts.map (fun p => p.2.energySum)).sum

/-- An interval block, bytes 24 to 177. -/
def State.interval (s : State) : List Byte :=
  let t := s.start
  let used := (s.mem.stk.map (fun k => (k.2.remap.filter (fun w => w.2.valid)).length)).sum
  leBytes 8 (t.periods - t.lastCommit) ++ leBytes 8 ((s.energyTotal + 2 ^ 64 - t.energyMark % 2 ^ 64) % 2 ^ 64) ++
  numBytes 4 ((List.range 16).map (fun i => Table.get 0 t.histC i)) ++ numBytes 4 ((List.range 16).map (fun i => Table.get 0 t.histD i)) ++
  leBytes 4 (s.ceTotal - t.ceMark) ++ leBytes 4 (s.ueTotal - t.ueMark) ++ leBytes 2 used

/-- An interval block is appended, and the next interval begins. -/
def State.commitInterval (s : State) (type : Nat) : State :=
  let s := s.cairn type s.interval
  { s with start := { s.start with
      lastCommit := s.start.periods, histC := [], histD := [], energyMark := s.energyTotal % 2 ^ 64, ceMark := s.ceTotal, ueMark := s.ueTotal } }

/-- PERIODIC (R426, R427): every 2^35 periods from stage 9; none once 8,192 free slots remain. -/
def execPeriodic (s : State) : Host.Outcome State Fault Refusal :=
  if !s.isLive then .next s
  else
    let due := (s.start.lastCommit / 2 ^ 35 + 1) * 2 ^ 35
    let s := { s with start := { s.start with periods := max s.start.periods due } }
    if s.cairnFree ≤ 8192 then .next s else .next (s.commitInterval 3)

/-! ## Shutdown (R401, R402) -/

/-- SHDN_DONE: the links are down, an orderly end is recorded. -/
def State.shutDone (s : State) : State :=
  { s with
    nv := s.nv.ends 1
    start := { s.start with phase := .shutDown, startOk := false, shdnDone := true, shutdownHeld := false } }

/-- What dies in reset no longer hold, while the controller lives: work, queues, contents, links. Requests for tests end
(R392), a sanitise ends without a certificate, and the last one since start still reads (R432, R434). -/
def Part.stopped (t : Part) : Part :=
  let lose := fun (u : TestUnit) => if u.state = 1 ∨ u.state = 2 then { u with state := 3, result := 3 } else u
  { interleave := t.interleave, tensorView := t.tensorView, coupling := t.coupling, routes := t.routes, ropePorts := t.ropePorts,
    accept0 := t.accept0, accept1 := t.accept1, accepted := t.accepted, variants := t.variants, balance := t.balance,
    refill := t.refill, weights := t.weights, accounts := t.accounts, unattributed := t.unattributed, out := t.out,
    test := lose t.test, cal := lose t.cal,
    sanitise := if t.sanitise.state = 1 then { cert := t.sanitise.cert } else t.sanitise }

/-- A stack in reset: its contents are lost, its counters still read. -/
def Stack.stopped (st : Stack) : Stack :=
  { st with bytes := [], fills := [], marks := [], syms := [], wc := [], refreshing := [], retries := [] }

/-- A fabric port whose link is gone. -/
def Port.stopped (q : Port) : Port :=
  { en := q.en, dateline := q.dateline, state := if q.en then .down else .disabled, peerPort := q.peerPort, peerNode := q.peerNode,
    peerRole := q.peerRole, retrains := if q.state = .up then satAdd 16 q.retrains 1 else q.retrains, replays := q.replays, discarded := q.discarded }

/-- Every domain but the controller's goes into reset (R20, R412, R413): the host and the fabric peers lose their links. -/
def State.stopDies (s : State) : State :=
  { s with
    mem := { stk := s.mem.stk.map (fun k => (k.1, k.2.stopped)), fresh := s.mem.fresh }
    cores := [], engines := [], contexts := []
    parts := s.parts.map (fun p => (p.1, p.2.stopped))
    ports := s.ports.map (fun q => (q.1, q.2.stopped))
    host := { recoveries := s.host.recoveries, replays := s.host.replays, ideFailures := s.host.ideFailures } }

/-- Shutdown step 2: no new work, the kernels stop (R401). -/
def State.beginShutdown (s : State) : State :=
  let s := { s with start := { s.start with phase := .stopping, startOk := false, shutdownHeld := false } }
  s.contexts.foldl (fun s c => s.kernelFault (c.1 / 64) (c.1 % 64) { status := 0x0304 }) s

/-- Shutdown step 3: every buffered line leaves (R327, R401). -/
def State.flushStacks (s : State) : State :=
  s.withMem (s.mem.stk.foldl (fun m k =>
    { m.setStack k.1 (k.2.flush ⟨m.fresh, s.start.periods, s.threshold⟩) with fresh := m.fresh + 1 }) s.mem) 3

/-- ORDERLY_SHUTDOWN (R401, R402). -/
def execOrderlyShutdown (s : State) : Host.Outcome State Fault Refusal :=
  let s := { s with start := { s.start with shdnReqN := false } }
  match s.start.phase with
  | .live => .next s.beginShutdown
  | .stopped => .next s.shutDone
  | .done _ => .next { s with start := { s.start with shutdownHeld := true } }
  | _ => .next s

/-- SHUTDOWN_DONE (R401): what the commands that stopped left in the buffers leaves, the final record is made, then the links go down
and SHDN_DONE rises. -/
def execShutdownDone (s : State) : Host.Outcome State Fault Refusal :=
  if s.start.phase = .stopping then .next ((s.flushStacks.commitInterval 4).stopDies).shutDone else .next s

/-! ## The stages (R393, R398) -/

/-- A stage completes. -/
def State.stageDone (s : State) (n : Nat) : State := { s with start := { s.start with stage := n, phase := .done n } }

/-- The start stops; a shutdown that was asked for is done at once (R402). -/
def State.stopStart (s : State) (cause : Nat) : State :=
  let held := s.start.shutdownHeld
  let s := { s with start := { s.start with phase := .stopped, stoppedAt := true, cause := cause } }
  if held then s.shutDone else s

/-- Step 1: the dies come out of reset; a shutdown that is asked for is held (R7, R17, R397, R399, R402, R433). -/
def State.beginStart (s : State) : State :=
  let s := (s.cold (.done 1))
  { s with
    mem := s.mem.coresFree
    nv := { s.nv with starts := s.nv.starts + 1, grade := s.nv.nextGrade }
    start := { s.start with resetN := true, stage := 1, prevEnd := s.nv.prevEnd, shutdownHeld := !s.start.shdnReqN } }

/-- COLD_START (R393, R437, R440): RESET_N is released, and boundary cells drive no ball; with a rail out of range the part
waits for it. -/
def execColdStart (s : State) : Host.Outcome State Fault Refusal :=
  if s.start.phase ≠ .held then .next s
  else
    let s := { s with jtag := { s.jtag with driving := [] } }
    if s.start.railsOk then .next s.beginStart
    else .next { s with start := { s.start with resetN := true, phase := .railLow, stoppedAt := true, cause := 1 } }

/-- PLL_LOCK (R20, R393). -/
def execPllLock (s : State) : Host.Outcome State Fault Refusal :=
  if s.start.phase = .done 1 then .next (s.stageDone 2) else .next s

/-- PLL_LOCK_TIMEOUT (R398). -/
def execPllLockTimeout (s : State) : Host.Outcome State Fault Refusal :=
  if s.start.phase = .done 1 then .next (s.stopStart 2) else .next s

/-- The image in a slot. -/
def NonVolatile.image (nv : NonVolatile) (slot : Nat) : List Byte := if slot = 0 then nv.fw0 else nv.fw1

/-- Stage 3: the active image, then the other (R395). -/
def State.bootFirmware (s : State) : State :=
  let a := s.nv.fwActive
  let run := fun (slot : Nat) (second : Bool) =>
    ({ s with start := { s.start with fw := s.nv.image slot, fwSlot := slot, fwFallback := second, stoppedAt := false, cause := 0 } } : State).stageDone 3
  if fwOk s.nv (s.nv.image a) then run a false
  else if fwOk s.nv (s.nv.image (1 - a)) then run (1 - a) true
  else ({ s with nv := { s.nv with failMarker := 3 }, start := { s.start with fwFallback := true } } : State).stopStart 3

/-- FIRMWARE_BOOT (R395, R398, R417). -/
def execFirmwareBoot (s : State) : Host.Outcome State Fault Refusal :=
  if s.start.phase = .done 2 then .next s.bootFirmware else .next s

/-- Stored entries (R33): the base image holds their values in flash, beside its other entries. -/
def storedKey (key : Nat) : Bool :=
  key == 0x120001 || key == 0x131001 || key == 0x160001 || key == 0x160002 || key / 256 == 0x1530

/-- A default that an image gives goes to the field that holds the entry, or to the dictionary (R32). Of stored entries an overlay
can give ROLE and PENDING of the map-outs; the others are the part's own and change only through their checks (R26; log 33).
APPLIED bits never clear (R337). -/
def State.applyDefault (s : State) (key v : Nat) : State :=
  let sub := key % 256
  let index := key / 256
  let p := sub - 1
  if index = 0x1530 ∧ 1 ≤ sub ∧ sub ≤ 16 then
    let st := s.mem.stack p
    ({ s with mem := s.mem.setStack p { st with
      pending := ((bitsBelow 32 v).filter (fun c => !st.applied.testBit c)).foldl (fun a c => a + 2 ^ c) 0 } } : State).sealBase
  else if storedKey key && key != 0x160002 then s
  else if index = 0x1A00 ∧ 1 ≤ sub ∧ sub ≤ 4 then s.updPart p (fun t => { t with test := { t.test with written := v } })
  else if index = 0x1A10 ∧ 1 ≤ sub ∧ sub ≤ 4 then s.updPart p (fun t => { t with cal := { t.cal with written := v } })
  else if index = 0x1101 ∧ 1 ≤ sub ∧ sub ≤ 4 then s.updPart p (fun t => { t with accept0 := v })
  else if index = 0x1101 ∧ 5 ≤ sub ∧ sub ≤ 8 then s.updPart (sub - 5) (fun t => { t with accept1 := v })
  else if index = 0x1210 ∧ 1 ≤ sub ∧ sub ≤ 4 then s.updPart p (fun t => { t with interleave := v })
  else if index = 0x1211 ∧ 1 ≤ sub ∧ sub ≤ 4 then s.updPart p (fun t => { t with tensorView := v })
  else if index = 0x1220 ∧ 1 ≤ sub ∧ sub ≤ 4 then s.updPart p (fun t => { t with coupling := v })
  else if index = 0x1610 ∧ 9 ≤ sub ∧ sub ≤ 16 then
    s.updPort (sub - 9) (fun q => { q with en := v.testBit 0, dateline := v.testBit 1, state := if v.testBit 0 then .down else .disabled })
  else if index = 0x1610 ∧ 0x19 ≤ sub ∧ sub ≤ 0x1C then
    s.updPart (sub - 0x19) (fun t => { t with
      routes := ((List.range 8192).map (fun m => (m, fld v (16 * m + 15) (16 * m)))).filter (fun r => r.2 != 0) })
  else if index = 0x1610 ∧ 0x1D ≤ sub ∧ sub ≤ 0x20 then s.updPart (sub - 0x1D) (fun t => { t with ropePorts := some v })
  else if index = 0x1810 ∧ 1 ≤ sub ∧ sub ≤ 4 then
    s.updPart p (fun t => { t with
      variants := ((List.range 256).map (fun m => (m, fld v (256 * m + 255) (256 * m)))).filter (fun r => r.2 != 0) })
  else { s with dict := { s.dict with defaults := Table.set s.dict.defaults key v } }

/-- The overlay of the stored mode. -/
def State.overlay (s : State) : ConfigImage := Table.get {} s.nv.overlays s.nv.mode

/-- Whether the base image and the selected overlay hold what their hashes say (R34). -/
def State.imagesOk (s : State) : Bool := sha256 s.baseBytes == s.nv.base.hash && sha256 s.overlay.bytes == s.overlay.hash

/-- CONFIG_IMAGE_APPLY (R32, R34): the base image, then the mode's overlay. A failure leaves a record whose type the manual
does not name (log 33). -/
def execConfigImageApply (s : State) : Host.Outcome State Fault Refusal :=
  if s.start.phase ≠ .done 3 then .next s
  else
    if s.imagesOk then
      let entries := s.nv.base.entries.filter (fun v => !storedKey v.1) ++ s.overlay.entries
      let hash := sha256 (s.baseBytes ++ s.overlay.bytes)
      let s := { s with start := { s.start with mode := s.nv.mode, imageHash := hash } }
      .next ((entries.foldl (fun s v => s.applyDefault v.1 v.2) s).stageDone 4)
    else
      let n := s.mem.fresh
      let s := s.cairn (Config.freeChoice n 34 % 2 ^ 16) ((List.range 168).map (Config.freeByte n))
      .next (({ s with mem := { s.mem with fresh := n + 1 } } : State).stopStart 4)

/-- A stack's PENDING channels become APPLIED (R337). -/
def Stack.applyMaps (st : Stack) : Stack := { st with applied := st.applied ||| st.pending, pending := 0 }

/-- TETHER_TRAINING (R337, R398): map-outs, stacks out of use, channels whose lanes do not train. -/
def execTetherTraining (downStacks : Nat) (failedLanes : List (Nat × Nat)) (s : State) : Host.Outcome State Fault Refusal :=
  if s.start.phase ≠ .done 4 then .next s
  else
    let mapped := (List.range 16).flatMap (fun k => (bitsBelow 32 (s.mem.stack k).pending).map (fun c => (k, c)))
    let down := (bitsBelow 16 downStacks).foldl (fun a k => a + 2 ^ k) 0
    let m := (List.range 16).foldl (fun m k => m.setStack k { (m.stack k).applyMaps with down := down.testBit k }) s.mem
    let lanes := failedLanes.dedup.filter (fun v =>
      decide (v.1 < 16) && decide (v.2 < 32) && !down.testBit v.1 && !(m.stack v.1).applied.testBit v.2)
    let m := lanes.foldl (fun m v => m.setStack v.1 ((m.stack v.1).failChannel v.2)) m
    .next (({ s with mem := m, start := { s.start with stackDown := down, lanesFailed := lanes, mapped := mapped } } : State).sealBase.stageDone 5)

/-- Whether the active mode uses a spar link (R15, R398). -/
def sparUsed (mode u : Nat) : Bool :=
  if u < 6 then mode == 0 || (mode == 1 && (u == 0 || u == 5)) else decide (u < 14)

/-- SPAR_TRAINING (R305, R343, R393, R398): partitions out of use; then the CXL link and the fabric ports begin to train. -/
def execSparTraining (failedLinks : Nat) (s : State) : Host.Outcome State Fault Refusal :=
  if s.start.phase ≠ .done 5 then .next s
  else
    let mode := s.mode
    let out := ((bitsBelow 14 failedLinks).filter (sparUsed mode)).flatMap (sparParts mode)
    let mask := (List.range 4).foldl (fun a p => if out.contains p then a + 2 ^ p else a) 0
    let s := { s with start := { s.start with partDown := mask } }
    let s := (bitsBelow 4 mask).foldl (fun s p => s.updPart p (fun t => { t with out := true })) s
    let s := if s.start.perstN then { s with host := { s.host with link := .training } } else s
    .next (((List.range 8).foldl (fun s q => s.portTrain q) s).stageDone 8)

/-- The records before the dictionary becomes live, in their order (R395, R396, R425). -/
def State.startRecords (s : State) : State :=
  let t := s.start
  let one := fun (n : Nat) => [BitVec.ofNat 8 n]
  let status := Startup.status { t with stage := 9 }
  let s := s.cairn 2 (leBytes 4 t.prevEnd ++ leBytes 4 (fwVersion t.fw) ++ leBytes 1 t.fwSlot ++ leBytes 1 t.mode ++ leBytes 6 s.nv.grade ++
    leBytes 8 status ++ t.imageHash)
  let s := if s.nv.failMarker = 0 then s
    else let r := s.cairn 6 (one s.nv.failMarker); { r with nv := { r.nv with failMarker := 0 } }
  let s := if s.nv.lossLatch then let r := s.cairn 0x0E (one 8); { r with nv := { r.nv with lossLatch := false } } else s
  let s := if t.fwFallback then s.cairn 5 (one (1 - t.fwSlot)) else s
  let s := if s.nv.lastMode ≠ t.mode ∧ 1 < s.nv.starts then s.cairn 9 (one s.nv.lastMode ++ one t.mode) else s
  let s := { s with nv := { s.nv with lastMode := t.mode } }
  let s := t.mapped.foldl (fun s v => s.cairn 0x0B (one v.1 ++ one v.2)) s
  let s := t.lanesFailed.foldl (fun s v => s.cairn 0x0C (one v.1 ++ one v.2 ++ one 2)) s
  let s := (bitsBelow 16 t.stackDown).foldl (fun s k => s.cairn 0x0D (leBytes 2 (2 ^ k) ++ one 0)) s
  (bitsBelow 4 t.partDown).foldl (fun s p => s.cairn 0x0D (leBytes 2 0 ++ one (2 ^ p))) s

/-- DICTIONARY_LIVE (R396, R402): the records, then stage 9; a shutdown that was held begins. -/
def execDictionaryLive (s : State) : Host.Outcome State Fault Refusal :=
  if s.start.phase ≠ .done 8 then .next s
  else
    let s := s.startRecords
    let held := s.start.shutdownHeld
    let s := { s with start := { s.start with stage := 9, phase := .live, startOk := true, periods := 0, lastCommit := 0,
                                              histC := [], histD := [], ceMark := s.ceTotal, ueMark := s.ueTotal } }
    .next (if held then s.beginShutdown else s)

/-! ## Supplies, reset, clocks (R20, R398, R399, R412, R438, R441) -/

/-- RAIL_FAULT (R20, R398, R399, R437, R438, R441): a rail leaves its range, by its place in R436 (0 to 5, VDD_MGMT last); beyond
its absolute maximum the part gives no behaviour. SHDN_DONE stays high but for VDD_MGMT. -/
def execRailFault (loss : RailLoss) (s : State) : Host.Outcome State Fault Refusal :=
  if loss.beyondMax then .fault .beyondAbsoluteLimits
  else
    let ph := s.start.phase
    let s := s.loseFlash
    let nv := if ph.runs || s.nv.latchEnd then s.nv.ends 2 else s.nv
    let s := { s with
      nv := { nv with lossLatch := false }
      start := { s.start with railsOk := false, shdnDone := s.start.shdnDone && loss.rail != 5 } }
    let t := s.cold (if s.start.resetN then .railLow else .held)
    .next { t with start := { t.start with stoppedAt := s.start.resetN, cause := if s.start.resetN then 1 else 0 } }

/-- RAIL_RETURN (R398): with RESET_N released, the start begins again at step 1. -/
def execRailReturn (s : State) : Host.Outcome State Fault Refusal :=
  if s.start.railsOk then .next s
  else
    let s := { s with start := { s.start with railsOk := true } }
    .next (if s.start.phase = .railLow then s.beginStart else s)

/-- Dies whose instruction drives their boundary cells while RESET_N is low (R440). -/
def Jtag.drivers (j : Jtag) : List Nat :=
  (List.range 6).filter (fun d => let i := Table.get .idcode j.ir d; i == .extest || i == .extestPulse || i == .extestTrain)

/-- RESET_ASSERT (R399, R402, R438, R440): SHDN_DONE falls, SHDN_REQ_N is taken as released (log 33), and dies that hold an
instruction of the EXTEST kind drive their balls. -/
def execResetAssert (s : State) : Host.Outcome State Fault Refusal :=
  if !s.start.resetN then .next s
  else
    let ph := s.start.phase
    let s := s.loseFlash
    let s := { s with
      nv := if ph.runs then s.nv.ends 5 else s.nv
      start := { s.start with resetN := false, shdnReqN := true, shdnDone := false }
      jtag := { s.jtag with driving := s.jtag.drivers } }
    .next (s.cold .held)

/-- PERST_ASSERT (R363, R438): the CXL link stays down, and every function of the dies that run is disabled; a link that goes down
takes the ACCEPT words with it. -/
def execPerstAssert (s : State) : Host.Outcome State Fault Refusal :=
  let s := { s with start := { s.start with perstN := false } }
  let up := s.host.link != .down
  let s := s.loseHost .down
  let s := if s.start.phase.runs then s.disableAll else s
  .next (if up then s.clearAccept else s)

/-- PERST_RELEASE (R343, R438). -/
def execPerstRelease (s : State) : Host.Outcome State Fault Refusal :=
  if s.start.perstN then .next s
  else
    let s := { s with start := { s.start with perstN := true } }
    .next (if s.linkOn then { s with host := { s.host with link := .training } } else s)

/-- A PLL other than the [C] PLL of I0 has lost lock: the controller records it and holds the domains (R20). -/
def State.pllLost (s : State) (domain : Nat) : State :=
  let s := s.cairn 0x0E [BitVec.ofNat 8 domain]
  ({ s with nv := s.nv.ends 3, start := { s.start with phase := .pllLost (domain != 7) } } : State).stopDies

/-- PLL_LOSS (R20): domains [A], [S], [T], [D], [F], [H], [K], [M], [C] are 0 to 8. -/
def execPllLoss (domain : Nat) (s : State) : Host.Outcome State Fault Refusal :=
  let on := match s.start.phase with
    | .done n => decide (2 ≤ n)
    | .live => true
    | .stopping => true
    | _ => false
  if !on || decide (8 < domain) then .next s
  else if domain = 8 then
    let s := s.loseFlash
    .next ({ s with nv := { s.nv with prevEnd := 3, lossLatch := true, latchEnd := true }, start := { s.start with phase := .pllLost false } } : State).stopDies
  else .next (s.pllLost domain)

end Sys2Proof.Machine
end

