-- ==== Sys2Proof/Machine/Power.lean ====
section
/-! DEFINITION. Housekeeping rounds, suspect sensors, the governor, throttling and the thermal trip (R338, R403 to R415, R425). -/

namespace Sys2Proof.Machine

/-! ## Sensors (R403 to R406) -/

/-- Neighbours in a grid of `rows` by `cols` whose first sensor is `first` (R404). -/
def gridNear (first rows cols n : Nat) : List Nat :=
  let i := n - first
  (if cols ≤ i then [n - cols] else []) ++ (if i + cols < rows * cols then [n + cols] else []) ++
  (if i % cols = 0 then [] else [n - 1]) ++ (if i % cols + 1 = cols then [] else [n + 1])

/-- Sensors of the die or stack of a sensor: the first, and how many. -/
def sensorGroup (n : Nat) : Nat × Nat :=
  if n < 96 then (n / 24 * 24, 24) else if n < 108 then ((n - 96) / 6 * 6 + 96, 6) else (n / 4 * 4, 4)

def sensorMates (n : Nat) : List Nat := (List.range (sensorGroup n).2).map (fun i => (sensorGroup n).1 + i)

/-- Neighbours of a sensor (R404). -/
def sensorNear (n : Nat) : List Nat :=
  if n < 96 then gridNear (sensorGroup n).1 4 6 n
  else if n < 108 then gridNear (sensorGroup n).1 2 3 n
  else (sensorMates n).filter (· != n)

/-- Twice the median of a list: the middle value, or the mean of the two middle values (R404). -/
def median2 (l : List Int) : Int :=
  let o := sortBy (fun a b => decide (a ≤ b)) l
  o.getD ((o.length - 1) / 2) 0 + o.getD (o.length / 2) 0

/-- The highest of a list. -/
def hottest (l : List Int) : Int := l.foldl max (l.headD 0)

/-- A raw reading in 1/16 °C. -/
def rawOf (raw : List Int) (n : Nat) : Int := raw.getD n 0

/-- Sensors marked by a round: more than 8 °C from the median of their neighbours (R404). -/
def newSuspects (raw : List Int) : List Nat :=
  (List.range 172).filter (fun n =>
    decide (256 < (2 * rawOf raw n - median2 ((sensorNear n).map (rawOf raw))).natAbs))

/-- The effective reading of a sensor, in 1/32 °C (R405). -/
def effectiveOf (raw : List Int) (suspect : List Nat) (n : Nat) : Int :=
  let good := fun (l : List Nat) => (l.filter (fun m => !suspect.contains m)).map (rawOf raw)
  if !suspect.contains n then 2 * rawOf raw n
  else if !(good (sensorNear n)).isEmpty then median2 (good (sensorNear n))
  else if !(good (sensorMates n)).isEmpty then 2 * hottest (good (sensorMates n))
  else 2 * hottest ((sensorMates n).map (rawOf raw))

/-- Degrees in the unit of effective readings. -/
def degrees (t : Int) : Int := 32 * t

/-- Trip limits (R406). -/
def tripLimit (n : Nat) : Int := if n < 108 ∨ n % 4 < 2 then degrees 110 else degrees 100

/-- The sensor that trips the part: the first in channel order at or above its limit (R412; log 34). -/
def tripping (eff : List Int) : Option Nat := (List.range 172).find? (fun n => decide (tripLimit n ≤ eff.getD n 0))

/-- Hottest effective readings: a C-die, the base die and the DRAM core of a stack. -/
def dieHot (eff : List Int) (d : Nat) : Int := hottest ((List.range 24).map (fun i => eff.getD (24 * d + i) 0))
def baseHot (eff : List Int) (k : Nat) : Int := max (eff.getD (108 + 4 * k) 0) (eff.getD (109 + 4 * k) 0)
def dramHot (eff : List Int) (k : Nat) : Int := max (eff.getD (110 + 4 * k) 0) (eff.getD (111 + 4 * k) 0)

/-! ## Power (R403, R409) -/

/-- Power of rail points `a` to `b - 1`, in 0.1 mW. -/
def railPower (rails : List (Nat × Nat)) (a b : Nat) : Nat := (((rails.take b).drop a).map (fun r => r.1 * r.2)).sum
/-- Current of rail points `a` to `b - 1`, in 0.1 A. -/
def railAmps (rails : List (Nat × Nat)) (a b : Nat) : Nat := (((rails.take b).drop a).map Prod.snd).sum

/-- ILIM_A of a C-die and the other settings of the governor (R414). -/
def State.ilimA (s : State) (d : Nat) : Nat := s.dictVal 0x1301 (d + 1) 0x01E0
def State.ilimS (s : State) : Nat := s.dictVal 0x1301 5 0x01A4
def State.cap (s : State) : Nat := s.dictVal 0x1300 1 0x07D0

/-- The power step of class A that brings the limit down to the present draw (R409): of the C-die that draws most; where
several draw the same, which one is open (log 34). -/
def State.drawStep (s : State) (rails : List (Nat × Nat)) : Nat :=
  let amps := (List.range 4).map (fun d => railAmps rails (4 * d) (4 * d + 4))
  let top := amps.foldl max 0
  let dies := (List.range 4).filter (fun d => amps.getD d 0 == top)
  let d := match dies with
    | [d] => d
    | _ => dies.getD (Config.freeChoice s.power.rounds 42 % max 1 dies.length) 0
  32 - ceilDiv (32 * top) (10 * s.ilimA d)

/-- The power steps nA and nS after a round (R409). -/
def State.powerSteps (s : State) (rails : List (Nat × Nat)) : Nat × Nat :=
  let watt := 10000
  let p := railPower rails 0 42
  let pA := railPower rails 0 16
  let pS := railPower rails 16 32
  let excess := p - s.cap * watt
  let share := fun (q w : Nat) => ceilDiv (excess * q) ((pA + pS) * w * watt)
  let (nA, nS) := (s.power.nA, s.power.nS)
  let (nA, nS) :=
    if 0 < excess then
      let a := max nA (s.drawStep rails)
      if pA + pS = 0 then (min 31 (a + ceilDiv excess (40 * watt)), nS)
      else (min 31 (a + share pA 40), min 31 (nS + share pS 20))
    else if p + 60 * watt < s.cap * watt then (nA - 1, nS - 1)
    else (nA, nS)
  (nA, if s.ilimS * 10 < railAmps rails 16 24 then min 31 (nS + 1) else nS)

/-- A thermal step: two up at the target, one down three degrees below it (R409). -/
def thermalStep (t : Nat) (hot cool : Bool) : Nat := if hot then min 31 (t + 2) else if cool then t - 1 else t

/-! ## The round (R338, R403, R409, R412, R425) -/

/-- The governor acts from the end of the first round after stage 2 (R415); after a stop of the controller it does not. -/
def State.governs (s : State) : Bool :=
  match s.start.phase with
  | .done n => decide (2 ≤ n)
  | .stopped => decide (2 < s.start.cause)
  | .live => true
  | .stopping => true
  | .shutDown => decide (2 ≤ s.start.stage)
  | _ => false

/-- The part trips (R412, R413): the ball, the record, the dies in reset. A sensor of I0 takes the controller with it. -/
def State.tripPart (s : State) (n : Nat) : State :=
  let c := s.power.eff.getD n 0
  let deg := c / 32 + if c % 32 = 0 then 0 else ((Config.freeChoice s.power.rounds 43 % 2 : Nat) : Int)
  let trip := 0x0501 + 2 ^ 16 * n + 2 ^ 24 * wrapInt 8 deg
  let i0 := decide (96 ≤ n) && decide (n < 102)
  let s := { s with
    power := { s.power with trip := trip }
    start := { s.start with phase := .tripped (!i0), thermtripN := false, startOk := false } }
  let s := s.cairn 0x0F (leBytes 4 trip)
  let s := { s with nv := s.nv.ends 4 }
  (if i0 then s.loseFlash else s).stopDies

/-- A drogue pause comes into force before the engine's next work unit (R408, R410). -/
def Engine.setPause (g : Engine) (n : Nat) : Engine := if g.pause = n then g else { g with pause := n, pauseOver := n == 0 }

/-- Steps, limits and pauses after a round (R407 to R409). -/
def State.governSteps (s : State) (rails : List (Nat × Nat)) : State :=
  let w := s.power
  let (nA, nS) := s.powerSteps rails
  let tA := (List.range 4).map (fun d =>
    (d, thermalStep (Table.get 0 w.tA d) (decide (degrees 100 ≤ dieHot w.eff d)) (decide (dieHot w.eff d ≤ degrees 97))))
  let tS := (List.range 16).map (fun k =>
    (k, thermalStep (Table.get 0 w.tS k) (decide (degrees 90 ≤ dramHot w.eff k) || decide (degrees 100 ≤ baseHot w.eff k))
      (decide (dramHot w.eff k ≤ degrees 87) && decide (baseHot w.eff k ≤ degrees 97))))
  let stepA := tA.map (fun v => (v.1, max nA v.2))
  let stepS := tS.map (fun v => (v.1, max nS v.2))
  let limit := stepA.map (fun v => (v.1, s.ilimA v.1 * (32 - v.2)))
  let s := { s with power := { w with nA := nA, nS := nS, tA := tA, tS := tS, stepA := stepA, stepS := stepS, limit := limit } }
  stepS.foldl (fun s v => s.updEngine v.1 (fun g => g.setPause (33 * v.2))) s

/-- Refresh doubles above 85 °C and returns below 82 °C (R338). -/
def State.setRefresh (s : State) : State :=
  let m := (List.range 16).foldl (fun m k =>
    let hot := dramHot s.power.eff k
    let st := m.stack k
    let on := if degrees 85 < hot then true else if hot < degrees 82 then false else st.hotRefresh
    if on = st.hotRefresh then m else m.setStack k { st with hotRefresh := on }) s.mem
  { s with mem := m }

/-- The bin of a histogram (R425). -/
def histBin (t : Int) : Nat :=
  if t < degrees 40 then 0 else if degrees 110 ≤ t then 15 else ((t / 32 - 35) / 5).toNat

/-- A round of the part counts in the histograms of the ledger. -/
def State.countRound (s : State) : State :=
  let eff := s.power.eff
  let add := fun (h : Table Nat) (t : Int) => Table.upd 0 h (histBin t) (satAdd 32 · 1)
  let c := hottest ((List.range 4).map (dieHot eff))
  let d := hottest ((List.range 16).map (dramHot eff))
  { s with start := { s.start with histC := add s.start.histC c, histD := add s.start.histD d } }

/-- HOUSEKEEPING_ROUND (R338, R403 to R412): the readings of one round, 172 temperatures in 1/16 °C and 42 rail points. -/
def execHousekeepingRound (temps : List Int) (rails : List (Nat × Nat)) (s : State) : Host.Outcome State Fault Refusal :=
  if !s.governs || temps.length != 172 || rails.length != 42 then .next s
  else
    let live := s.isLive
    let s := if live then { s with start := { s.start with periods := s.start.periods + 204800 } } else s
    let suspect := (List.range 172).filter (fun n => s.power.suspect.contains n || (newSuspects temps).contains n)
    let s := { s with power := { s.power with
      raw := temps, suspect := suspect, rails := rails, eff := (List.range 172).map (effectiveOf temps suspect) } }
    match tripping s.power.eff with
    | some n => .next (s.tripPart n)
    | none =>
      let p := railPower rails 0 42
      let s := { s with power := { s.power with
        watts := p, peak := max s.power.peak p, rounds := (s.power.rounds + 1) % 2 ^ 32
        capRounds := if s.cap * 10000 < p then satAdd 32 s.power.capRounds 1 else s.power.capRounds } }
      let s := (s.governSteps rails).setRefresh
      .next (if live then s.countRound else s)

/-- The limit in force on a C-die, in 1/32 A: of the last round, and before the first the limit that the start gave (R409: a write
takes effect at the end of its round). -/
def State.limitA (s : State) (d : Nat) : Nat :=
  Table.get (32 * Table.get 0x01E0 s.dict.defaults (256 * 0x1301 + d + 1)) s.power.limit d

/-- CLASS_A_WINDOW (R407): the excess of a window's estimate over the limit is withheld from the die's cores in the next;
timing only. -/
def execClassAWindow (cdie amps : Nat) (s : State) : Host.Outcome State Fault Refusal :=
  if !s.governs || decide (4 ≤ cdie) then .next s
  else
    let limit := s.limitA cdie
    let w := if limit < 32 * amps then ceilDiv (1024 * (32 * amps - limit)) (32 * amps) else 0
    .next ((List.range 12).foldl (fun s j => s.updCore (12 * cdie + j) (fun k => { k with withheld := w })) s)

/-- DROGUE_PAUSE (R170, R408): the pause before a work unit is over. -/
def execDroguePause (stack : Nat) (s : State) : Host.Outcome State Fault Refusal :=
  if decide (stack < 16) && !(s.engine stack).pauseOver then .next (s.updEngine stack (fun g => { g with pauseOver := true }))
  else .next s

end Sys2Proof.Machine
end

