-- ==== Sys2Proof/Machine/TestRows.lean ====
section
/-! DEFINITION. Self-test and calibration requests run: the start of a DRAINED request, and the end of a piece (R388 to R392). -/

namespace Sys2Proof.Machine

/-- DRAINED_REQUEST_START (R391): once every partition it holds is drained. A fabric port leaves UP (R388). -/
def execDrainedRequestStart (part : Nat) (calibration : Bool) (s : State) : Host.Outcome State Fault Refusal :=
  let t := s.tu part calibration
  let u := tqUnit t.request
  match itemKind calibration (tqItem t.request) with
  | none => .next s
  | some k =>
    if !s.isLive || decide (nParts s.mode ≤ part) || t.state != 1 || !tqDrained t.request ||
        !(s.drains part calibration).all s.drained || s.unitHeld k u then .next s
    else if s.unitGone k u then .next (s.updTu part calibration (fun t => { t with state := 3, result := 3 }))
    else
      let s := if k = .port then s.portLost u .down else s
      .next ((s.updTu part calibration (fun r => { r with state := 2, result := t.result })).holdUnit k u true)

/-- Lines of a stack that host caches may hold, as the host knows them (R358). -/
def State.heldLines (s : State) (k : Nat) : List Nat :=
  if partOfStack s.mode k = 0 then s.host.filter.filter (fun l => s.stackLine 0 l / 2 ^ 30 == k) else []

/-- Lines found failing by a DRAM item: each that is not poisoned yet becomes an uncorrectable line (R392). -/
def Stack.foundBad (st : Stack) (lines : List Nat) : Stack :=
  lines.foldl (fun st l => if st.poisoned l || st.offline l then st else st.uncorrectable l) st

/-- Lines of one piece of a scrub: 64 MiB (R388). -/
def scrubLines : Nat := 2 ^ 20

/-- A piece of DRAM_SCRUB: every usable line of it is read, corrected and remapped (R330, R331, R388). -/
def MemSys.scrub (m : MemSys) (now threshold k piece : Nat) : MemSys :=
  let lo := piece * scrubLines
  let n := min scrubLines ((m.stack k).capacity / 64 - lo)
  (List.range n).foldl (fun m i =>
    let st := m.stack k
    if st.offline (lo + i) then m
    else { m.setStack k (st.readLine ⟨m.fresh, now, threshold⟩ (lo + i)).1 with fresh := m.fresh + 1 }) m

/-- DRAM_MARCH: every line destroyed, then zero with valid ECC, as S_FILL leaves them (R388). -/
def MemSys.march (m : MemSys) (now threshold k : Nat) (bad : List Nat) : MemSys :=
  let st := ((m.stack k).foundBad bad)
  let st := st.fillLines ⟨m.fresh, now, threshold⟩ 0 (st.capacity / 64) 0
  { m.setStack k st with fresh := m.fresh + 1 }

/-- What a piece leaves in its unit (R388). -/
def State.testEffect (s : State) (item u piece : Nat) (bad : List Nat) : State :=
  let n := s.mem.fresh
  match item with
  | 1 => { s with mem := s.mem.scratchFree u }.updCore u (fun k => { k with lastUse := .ctx 64 })
  | 2 => s.updCore u (fun k => { k with w0 := none, w1 := none, active := none, preload := false, acc := [], spool := {} })
  | 3 => { s with mem := { s.mem with fresh := n + 1 } }.updCore u (fun k => { k with vregs := [], vbase := some n })
  | 4 => s.updEngine u (fun g => { g with lab := [] })
  | 6 =>
    let m := s.mem.scrub s.start.periods s.threshold u piece
    s.withMem (m.setStack u ((m.stack u).foundBad bad)) 3
  | 7 => s.withMem (s.mem.march s.start.periods s.threshold u bad) 3
  | _ => s

/-- The failure records of a piece (R387): those the command names, and for a scrub every line that it found failing besides, whose
words the part does not give (log 4). -/
def testFails (item n : Nat) (old new : Stack) (fails : List (Nat × Nat × Nat)) : List (Nat × Nat × Nat) :=
  if item ≠ 6 then fails
  else
    let named := fails.map (fun f => f.1 / 64)
    let found := (new.marks.filter (fun m => m.2 == .poisoned && !old.poisoned m.1 && !named.contains m.1)).map Prod.fst
    let word := fun (l k : Nat) => leNat ((List.range 4).map (fun i => Config.freeByte n (8 * l + 4 * k + i)))
    fails ++ found.map (fun l => (64 * l, word l 0, word l 1))

/-- Whether this piece of an item is its last: a scrub ends with the stack, a march is one piece. -/
def State.testLast (s : State) (cal : Bool) (item u piece : Nat) (last : Bool) : Bool :=
  if !cal && item == 6 then decide ((s.mem.stack u).capacity / 64 ≤ (piece + 1) * scrubLines)
  else if !cal && item == 7 then true
  else last

/-- The end of a piece in the request's status: failures, detail, and DONE with its result (R387, R392). -/
def TestUnit.ended (t : TestUnit) (fails : List (Nat × Nat × Nat)) (last : Bool) : TestUnit :=
  let n := satAdd 16 t.fails fails.length
  let t := { t with fails := n, pieces := t.pieces + 1, detail := (t.detail ++ fails).take 256 }
  if t.cancel then { t with state := 3, result := 2 }
  else if last then { t with state := 3, result := if n = 0 then 0 else 1 }
  else t

/-- A failing TETHER or SPAR item leaves its channel or link as a live failure does (R20, R335, R392; log 32). -/
def State.testFailure (s : State) (k : UnitKind) (tether : Bool) (u : Nat) (fails : List (Nat × Nat × Nat)) : State :=
  if fails.isEmpty then s
  else if k = .spar then s.pllLost 3
  else if tether then
    fails.foldl (fun s f => s.updStack u 2 (fun st => st.failChannel (st.pcOf (f.1 / 64) / 2))) s
  else s

/-- What waits for a unit or a held partition goes on (R390, R391). -/
def State.testFree (s : State) (p : Nat) (held : List Nat) : State :=
  held.foldl (fun s q => (s.startPiecesIdle q).wakeIdle q) (s.startPiecesIdle p)

/-- TEST_PIECE_DONE (R388, R390 to R392): `fails` are location, expected and observed word of each failure. -/
def execTestPieceDone (part : Nat) (calibration last : Bool) (fails : List (Nat × Nat × Nat)) (s : State) :
    Host.Outcome State Fault Refusal :=
  let t := s.tu part calibration
  let item := tqItem t.request
  let u := tqUnit t.request
  match itemKind calibration item with
  | none => .next s
  | some k =>
    let march := !calibration && item == 7
    let runs := t.state == 2 && (tqDrained t.request || k == .die || s.unitHeld k u)
    if !s.isLive || decide (nParts s.mode ≤ part) || !runs then .next s
    else if march && !(s.heldLines u).isEmpty then .next (s.sendSnoops ((s.heldLines u).map (fun l => (l, true))))
    else
      let held := if tqDrained t.request then s.drains part calibration else []
      let bad := (fails.map (fun f => f.1 / 64)).dedup
      let last := s.testLast calibration item u t.pieces last
      let before := s.mem
      let s := if calibration then s else s.testEffect item u t.pieces bad
      let fails := if calibration then fails else testFails item before.fresh (before.stack u) (s.mem.stack u) fails
      let s := s.updTu part calibration (fun t => if t.state = 2 then t.ended fails last else t)
      let ended := (s.tu part calibration).state != 2
      let s := if ended || !tqDrained t.request then s.holdUnit k u false else s
      let s := if ended && calibration && k == .die then
          { s with power := { s.power with trims := if s.power.trims.contains u then s.power.trims else s.power.trims ++ [u] } }
        else s
      let s := if ended && k == .port then s.portTrain u else s
      let s := s.testFailure k (calibration && item == 1) u fails
      .next (if s.isLive then s.testFree part (if ended then held else []) else s)

end Sys2Proof.Machine
end

