-- ==== Sys2Proof/Machine/Sanitise.lean ====
section
/-! DEFINITION. A sanitise completes (R429 to R432, R277). -/

namespace Sys2Proof.Machine

/-- Channels of a stack that a sanitise does not write: mapped out, failed, or of a stack out of use (R431). -/
def Stack.unwritten (st : Stack) : List Nat :=
  (List.range 32).filter (fun c => st.down || st.applied.testBit c || st.failed.testBit c)

/-- Steps 1 and 2: the buffers are discarded, every usable line takes PATTERN (R430). -/
def Stack.sanitised (st : Stack) (e : DieEnv) (pattern : Nat) : Stack :=
  { st with wc := [] }.fillLines e 0 (st.capacity / 64) pattern

/-- Step 3 on a core: what it held is zero, its coalescer empty (R430). -/
def Core.sanitised (k : Core) : Core :=
  { k with vregs := [], vbase := none, w0 := none, w1 := none, active := none, preload := false, acc := [], spool := {}, lastUse := .none
           qVec := { k.qVec with coal := [] } }

/-- Step 3 on a stack engine's coalescers and LAB, and step 4 on the codec (R277, R430). -/
def Engine.sanitised (g : Engine) : Engine :=
  { g with lab := [], table := [], queue := [], active := g.active.map (fun a => (a.1, { a.2 with coal := [] })) }

/-- Step 4 on a context: its registers of R210, STATE too; a kernel that still runs goes on to its end (log 35). -/
def Context.sanitised (x : Context) : Context :=
  let x := { x with en := false, prio := 0, status := 0, saves := 0, cores := 0, save := 0, saveWritten := false, units := 0x20
                    saveCycles := 0, restoreCycles := 0, pending := none }
  if x.kernel.isSome ∧ (x.state = .running ∨ x.state = .saving ∨ x.state = .restoring) then
    { x with kernel := x.kernel.map (fun k => { k with cleared := true }) }
  else { x with state := .idle, kernel := none, trigger := none, savedCores := [] }

/-- Step 4 on a partition: the registers of R201, R224 and R278, the prefix directory, BALANCE, REFILL and variants. -/
def Part.sanitised (t : Part) : Part :=
  { t with belays := [], arrivalsIn := [], releases := []
           kvgeom := 0, kvptb := 0, kvframes := 0, kvgrans := 0, freeFrames := 0, freeGrans := 0, released := []
           pdbase := 0, evictions := 0, collisions := 0, dir := [], bivbase := 0, bivsize := 0, ropecfg := 0, rope := {}
           chunkmax := 0, rowsmax := 0, seqmax := 0, srvCtx := 0, srvEn := false, srvOff := false, klist := 0, bdbase := 0
           steps := 0, lastFault := 0, phase := .idle, jobs := [], wake := false, bndCycles := 0, runPeriods := 0
           balance := [], refill := [], variants := [] }

/-- The first 256 bytes of the certificate (R431). -/
def State.certificate (s : State) (p result : Nat) : List Byte :=
  let z := (s.part p).sanitise
  let l := partStacks s.mode p
  let head := 0x53C1 + 2 ^ 16 + 2 ^ 24 * p + 2 ^ 26 * s.mode + 2 ^ 28 * result + 2 ^ 32 * (l.map (2 ^ ·)).sum
  let bytes := ((l.map (fun k => 32 - (s.mem.stack k).unwritten.length)).sum) * 2 ^ 31
  let unwritten := (List.range 16).map (fun k => if l.contains k then ((s.mem.stack k).unwritten.map (2 ^ ·)).sum else 0)
  fit 0 256 (leBytes 8 head ++ fit 0 16 s.nv.serial ++ leBytes 8 z.pattern ++ leBytes 32 z.nonce ++ leBytes 8 s.nv.cairn.length ++
    leBytes 4 s.nv.starts ++ leBytes 8 z.begun ++ leBytes 8 s.start.periods ++ leBytes 8 bytes ++ numBytes 4 unwritten)

/-- Steps 1 to 4 on the part. -/
def State.clearPart (s : State) (p : Nat) : State :=
  let cores := partCores s.mode p
  let stacks1 := partStacks s.mode p
  let z := (s.part p).sanitise
  let m := stacks1.foldl (fun m k =>
    { m.setStack k ((m.stack k).sanitised ⟨m.fresh, s.start.periods, s.threshold⟩ z.pattern) with fresh := m.fresh + 1 }) s.mem
  let m := cores.foldl (fun m c =>
    (m.scratchZero c).banksZero c) m
  let s := s.withMem m 3
  let s := cores.foldl (fun s c => s.updCore c Core.sanitised) s
  let s := stacks1.foldl (fun s k => s.updEngine k Engine.sanitised) s
  let s := (s.ctxs).foldl (fun s x => s.updContext p x Context.sanitised) s
  let ipp := identsPer s.mode
  let s := s.setDictVal 0x1800 4 (setFld (s.dictVal 0x1800 4 0) (32 * ipp * (p + 1) - 1) (32 * ipp * p) 0)
  s.updPart p Part.sanitised

/-- Step 5: the certificate, the record, DONE. -/
def State.certify (s : State) (p : Nat) : State :=
  let result := b2n ((partStacks s.mode p).any (fun k => !(s.mem.stack k).unwritten.isEmpty))
  let c := s.certificate p result
  let s := s.updPart p (fun t => { t with
    sanitise := { t.sanitise with state := 2, result := result, cert := c ++ fit 0 384 (Config.identitySignature c) } })
  s.cairn 0x10 (leBytes 1 p ++ leBytes 1 result ++ List.replicate 6 0 ++ sha256 c)

/-- SANITISE_DONE (R430, R431): lines that the host may hold are taken back first (R358). -/
def execSanitiseDone (part : Nat) (s : State) : Host.Outcome State Fault Refusal :=
  if !s.isLive || decide (nParts s.mode ≤ part) || !s.sanitising part then .next s
  else
    let held := (partStacks s.mode part).flatMap s.heldLines
    if held.isEmpty then .next ((s.clearPart part).certify part)
    else .next (s.sendSnoops (held.map (fun l => (l, true))))

end Sys2Proof.Machine
end

