-- ==== Sys2Proof/Machine/Attest.lean ====
section
/-! DEFINITION. Attestation requests (R420 to R422): on the management port through 0x1B00.07 and 0x1B00.08, at a PF's
DOE as SPDM objects. -/

namespace Sys2Proof.Machine

/-- A request of a kind arrives. On the port its response is kept for the requester, and a request for a session is
refused; at a mailbox it is answered as an object, with an interrupt (R356, R421). -/
def State.attest (s : State) (op : Nat) (who : Requester) (msg : List Byte) : State :=
  match who with
  | .port _ _ =>
    if s.isLive && spdmPlain.contains op then
      let (r, t) := s.spdm who op msg
      t.updRequester who (fun q => { q with spdm := r })
    else s
  | .mailbox fn =>
    if s.reachPf fn then
      let (r, t) := s.spdm who op msg
      (t.emit (.spdm who r)).irq fn 3
    else s

/-- GET_VERSION (R421): the connection begins anew. -/
def execGetVersion (who : Requester) (msg : List Byte) (s : State) : Host.Outcome State Fault Refusal := .next (s.attest spdmGET_VERSION who msg)

/-- GET_CAPABILITIES (R421). -/
def execGetCapabilities (who : Requester) (msg : List Byte) (s : State) : Host.Outcome State Fault Refusal :=
  .next (s.attest spdmGET_CAPABILITIES who msg)

/-- NEGOTIATE_ALGORITHMS (R421). -/
def execNegotiateAlgorithms (who : Requester) (msg : List Byte) (s : State) : Host.Outcome State Fault Refusal :=
  .next (s.attest spdmNEGOTIATE who msg)

/-- GET_DIGESTS (R420, R421). -/
def execGetDigests (who : Requester) (msg : List Byte) (s : State) : Host.Outcome State Fault Refusal := .next (s.attest spdmGET_DIGESTS who msg)

/-- GET_CERTIFICATE (R420, R421): slot 0. -/
def execGetCertificate (who : Requester) (msg : List Byte) (s : State) : Host.Outcome State Fault Refusal :=
  .next (s.attest spdmGET_CERTIFICATE who msg)

/-- CHALLENGE (R421). -/
def execChallenge (who : Requester) (msg : List Byte) (s : State) : Host.Outcome State Fault Refusal := .next (s.attest spdmCHALLENGE who msg)

/-- GET_MEASUREMENTS (R422). -/
def execGetMeasurements (who : Requester) (msg : List Byte) (s : State) : Host.Outcome State Fault Refusal :=
  .next (s.attest spdmGET_MEASUREMENTS who msg)

/-- KEY_EXCHANGE (R421): a session's handshake begins. -/
def execKeyExchange (who : Requester) (msg : List Byte) (s : State) : Host.Outcome State Fault Refusal := .next (s.attest spdmKEY_EXCHANGE who msg)

/-- FINISH (R421): the handshake completes. -/
def execFinish (who : Requester) (msg : List Byte) (s : State) : Host.Outcome State Fault Refusal := .next (s.attest spdmFINISH who msg)

/-- END_SESSION (R421). -/
def execEndSession (who : Requester) (msg : List Byte) (s : State) : Host.Outcome State Fault Refusal := .next (s.attest spdmEND_SESSION who msg)

/-- HEARTBEAT (R421). -/
def execHeartbeat (who : Requester) (msg : List Byte) (s : State) : Host.Outcome State Fault Refusal := .next (s.attest spdmHEARTBEAT who msg)

end Sys2Proof.Machine
end

