-- ==== Sys2Proof/Machine/Dma.lean ====
section
/-! DEFINITION. The DMA engine: DMA_COPY with layout conversion and transposition, and DMA_FILL (R66, R75 to R79, R101). -/

namespace Sys2Proof.Machine

/-- TILE0 to TILE5 of the immediates. -/
def dmaTile (b : BitVec 512) : List Nat := (List.range 6).map (fun d => imm b (32 * d + 31) (32 * d))

/-- Every TILEd is at least 1, and 1 at or above RANK (R101). -/
def tileOk (t : List Nat) (rank : Nat) : Bool :=
  (List.range 6).all (fun d => if d < rank then t.getD d 0 != 0 else t.getD d 0 == 1)

/-- Coordinates with dimensions 0 and 1 exchanged (R75). -/
def swap01 {α : Type} (d : α) (l : List α) : List α := l.getD 1 d :: l.getD 0 d :: l.drop 2

/-- What R75 asks of a transposing copy. -/
def transposeOk (src dst : Nat) : Bool :=
  let f := dFmt src
  dFmt dst == f && decide (2 ≤ dRank src) && decide (2 ≤ dRank dst) &&
  dExt dst 0 == dExt src 1 && dExt dst 1 == dExt src 0 &&
  (List.range 4).all (fun k => dExt dst (k + 2) == dExt src (k + 2)) &&
  (isWhole f || (isPI f && dPlane src && dPlane dst && dUniform src && dUniform dst && dUScale src == dUScale dst))

/-- Elements of a tile in 4 KiB, whole blocks of them. -/
def pieceLen (f : Nat) : Nat := 32768 / elemBits f / blockLen f * blockLen f

/-- The elements of a tile that an event handles: all that are left, or the next 4 KiB where the queue stops at its save
boundary (R217); and whether others stay behind. -/
def tilePiece (e : Env) (f part : Nat) (tile : List (List Nat)) : List (List Nat) × Bool :=
  let rest := tile.drop (part * pieceLen f)
  if e.stop then (rest.take (pieceLen f), decide (pieceLen f < rest.length)) else (rest, false)

/-- The elements of one copied tile: destination coordinate, code and scale; synthesised padding brings no scale (R70). -/
def copyElems (tile : List (List Nat)) (org : List Int) (swap : Bool) (vs : List Elem) :
    List (List Int × Nat × Option Nat) :=
  (tile.zip vs).map (fun p =>
    (addCo org (if swap then swap01 0 p.1 else p.1), p.2.code, p.2.ownScale))

/-- A transposing copy leaves the 8 KiB at TSTAGE undefined (R79). -/
def Wk.stageJunk (w : Wk) (core base : Nat) : Wk :=
  if w.good then
    let n := w.mem.fresh
    let m := w.mem.scratchWrite core (base * 8192) ((List.range 8192).map (fun i => some (Config.freeByte n i)))
    { w with mem := { m with fresh := n + 1 } }
  else w

/-- One iteration of DMA_COPY. -/
def copyWork (e : Env) (k : Core) (iss : Issued) (ops : List Opn) (n : Nat) (w : Wk) : Core × Wk :=
  let cnts := nCounts iss.nest k.params
  let src := ops.getD 0 (plainOpn 0)
  let dst := ops.getD 1 (plainOpn 0)
  let swap := dTranspose dst.d
  let (tile, more) := tilePiece e (dFmt src.d) iss.part (tileCoords (dmaTile iss.block))
  let (vs, w) := readElems e src (tile.map (addCo (nOrigin iss.nest cnts 0 n))) w
  let (bs, w) := elemWrites e w dst (copyElems tile (nOrigin iss.nest cnts 1 n) swap vs) (swap || dPlane src.d != dPlane dst.d)
  let w := w.commit e bs
  let w := { w with part := more }
  (k, if swap then w.stageJunk e.core iss.stage else w)

/-- The checks of DMA_COPY (R66, R72, R75, R101). -/
def copyOk (e : Env) (m : MemSys) (k : Core) (iss : Issued) : Bool :=
  let src := iss.descs.getD 0 0
  let dst := iss.descs.getD 1 0
  let t := dmaTile iss.block
  tileOk t (dRank src) && imm iss.block 255 192 == 0 && dFmt src == dFmt dst && dWrite dst &&
  (!dTranspose dst || transposeOk src dst) &&
  commonOk e m k.params iss { uses := [true, true, false, false] } [t, if dTranspose dst then swap01 0 t else t]

/-- DMA_COPY (R101). -/
def execDmaCopy (core : Nat) (s : State) : Host.Outcome State Fault Refusal :=
  .next (s.engineStep core 2 0x2001 (fun _ => { uses := [true, true, false, false] })
    (fun _ e m k i => need (copyOk e m k i)) nestTotal
    (nestBody core 2 true copyWork))

/-- One iteration of DMA_FILL. -/
def fillWork (e : Env) (k : Core) (iss : Issued) (ops : List Opn) (n : Nat) (w : Wk) : Core × Wk :=
  let cnts := nCounts iss.nest k.params
  let dst := ops.getD 0 (plainOpn 0)
  let code := imm iss.block 223 192 % 2 ^ elemBits (dFmt dst.d)
  let org := nOrigin iss.nest cnts 0 n
  let (tile, more) := tilePiece e (dFmt dst.d) iss.part (tileCoords (dmaTile iss.block))
  let (bs, w) := elemWrites e w dst (tile.map (fun t => (addCo org t, code, none)))
  (k, { w.commit e bs with part := more })

/-- The checks of DMA_FILL (R72, R75, R101). -/
def fillOk (e : Env) (m : MemSys) (k : Core) (iss : Issued) : Bool :=
  let dst := iss.descs.getD 0 0
  let t := dmaTile iss.block
  tileOk t (dRank dst) && imm iss.block 255 224 == 0 && isWhole (dFmt dst) && destOk dst &&
  commonOk e m k.params iss { uses := [true, false, false, false] } [t]

/-- DMA_FILL (R101). -/
def execDmaFill (core : Nat) (s : State) : Host.Outcome State Fault Refusal :=
  .next (s.engineStep core 2 0x2002 (fun _ => { uses := [true, false, false, false] })
    (fun _ e m k i => need (fillOk e m k i)) nestTotal (nestBody core 2 true fillWork))

end Sys2Proof.Machine
end

