-- ==== Sys2Proof/Machine/FabricRows.lean ====
section
/-! DEFINITION. Fabric events: training, flits, retry, requests of other nodes, responses, rope messages (R303 to R319). -/

namespace Sys2Proof.Machine

/-! ## Training (R305) -/

/-- Fabric ports work from stage 8 on. -/
def State.fabricOn (s : State) : Bool :=
  match s.start.phase with
  | .done n => decide (8 ≤ n)
  | .live => true
  | .stopping => true
  | _ => false

/-- PORT_TRAIN_RETRY (R305). -/
def execPortTrainRetry (port : Nat) (s : State) : Host.Outcome State Fault Refusal :=
  if s.fabricOn && decide (port < 8) && !(s.port port).testPiece then .next (s.portTrain port) else .next s

/-- TRAINING_TIMEOUT (R305). -/
def execTrainingTimeout (port : Nat) (s : State) : Host.Outcome State Fault Refusal :=
  if (s.port port).state == .training then
    .next (((s.updPort port (fun q => { q with retried := true })).portStays port .down).freedFrom s)
  else .next s

/-- The role of a partition (R318). -/
def State.role (s : State) (p : Nat) : Nat := fld s.roles (2 * p + 1) (2 * p)

/-- HELLO (R305, R317): the port sends its own HELLO, and the exchange completes training, unless the peer has this node's
number. -/
def execHello (port node peerPort role : Nat) (s : State) : Host.Outcome State Fault Refusal :=
  let q := s.port port
  if q.state != .training then .next s
  else
    let p := partOfPort s.mode port
    let q := { q with peerNode := node % 2 ^ 13, peerPort := peerPort % 8, peerRole := role % 4 }
    let owed := (List.range 6).map (fun k => (k, Config.slotBuffers k))
    let t :=
      if q.peerNode = s.node p then
        ((s.setPort port { q with retrains := satAdd 16 q.retrains 1, retried := true }).portStays port .down).freedFrom s
      else s.setPort port { q with state := .up, owed := owed, retried := false }
    .next (t.emit (.hello port (s.node p) port (s.role p)))

/-- LINK_LOSS (R315). -/
def execLinkLoss (port : Nat) (s : State) : Host.Outcome State Fault Refusal :=
  if s.portUp port then .next ((s.portLost port .down).freedFrom s) else .next s

/-- RESPONSE_TIMEOUT (R315). -/
def execResponseTimeout (part tag : Nat) (s : State) : Host.Outcome State Fault Refusal :=
  .next ((s.finishOp part tag 0x0401 []).drainBacklogs part)

/-! ## Sending (R303, R304) -/

/-- The first queued operation that has credits for all its slots; a class and lane that lacks them keeps its order. -/
def pickOp (credits : Table Nat) : List Nat → List (Nat × List (BitVec 128)) → Option (Nat × List (BitVec 128) × List (Nat × List (BitVec 128)))
  | _, [] => none
  | blocked, (k, sl) :: t =>
    if !blocked.contains k && decide (sl.length ≤ Table.get 0 credits k) then some (k, sl, t)
    else (pickOp credits (k :: blocked) t).map (fun p => (p.1, p.2.1, (k, sl) :: p.2.2))

/-- Operations begin until fifteen slots are there to send. -/
def Port.fillSlots : Nat → Port → Port
  | 0, q => q
  | fuel + 1, q =>
    if 15 ≤ q.sending.length then q
    else match pickOp q.credits [] q.egress with
      | none => q
      | some (k, sl, rest) =>
        Port.fillSlots fuel { q with sending := q.sending ++ sl, egress := rest, credits := Table.upd 0 q.credits k (fun c => c - sl.length) }

/-- Credits returned in one flit. -/
def Port.returns (q : Port) : List Nat := (List.range 6).map (fun k => min 255 (Table.get 0 q.owed k))

/-- The next flit of a port: a replayed one, fifteen slots, or an idle one. -/
def Port.nextFlit (q : Port) : Port × BitVec 2048 :=
  match q.resend with
  | f :: t => ({ q with resend := t }, f)
  | [] =>
    let cr := q.returns
    let owed := (List.range 6).map (fun k => (k, Table.get 0 q.owed k - cr.getD k 0))
    let q := if 1024 ≤ q.replay.length then q else q.fillSlots 15
    let slots := if 1024 ≤ q.replay.length then [] else q.sending.take 15
    let f := mkFlit q.txSeq q.rxSeq q.nak slots.isEmpty cr slots
    let q := { q with owed := owed, nak := false }
    if slots.isEmpty then (q, f)
    else ({ q with txSeq := (q.txSeq + 1) % 4096, replay := q.replay ++ [(q.txSeq, f)], sending := q.sending.drop 15 }, f)

/-- FLIT_SEND (R302 to R304). -/
def execFlitSend (port : Nat) (s : State) : Host.Outcome State Fault Refusal :=
  if s.portUp port then
    let (q, f) := (s.port port).nextFlit
    .next ((s.setPort port q).emit (.flit port f))
  else .next s

/-- A replay begins; the sixteenth without ACK progress retrains the port. -/
def State.replayPort (s : State) (port : Nat) : State :=
  let q := s.port port
  if q.replay.isEmpty then s
  else
    let q := { q with resend := q.replay.map Prod.snd, replays := satAdd 24 q.replays 1, stuck := q.stuck + 1 }
    let s := s.setPort port q
    if 16 ≤ q.stuck then s.portLost port .training else s

/-- REPLAY_TIMEOUT (R304). -/
def execReplayTimeout (port : Nat) (s : State) : Host.Outcome State Fault Refusal :=
  if s.portUp port then .next ((s.replayPort port).freedFrom s) else .next s

/-! ## Receiving (R304, R307 to R311) -/

/-- A port counts what it discards. -/
def Port.discard (q : Port) (n : Nat) : Port := { q with discarded := satAdd 24 q.discarded n }

/-- Flits up to ACK leave the replay buffer. -/
def Port.ack (q : Port) (ack : Nat) : Port :=
  if q.replay.any (fun r => r.1 == ack) then
    let rest := (q.replay.dropWhile (fun r => r.1 != ack)).drop 1
    { q with replay := rest, resend := q.resend.filter (fun f => rest.any (fun r => r.2 == f)), stuck := 0 }
  else q

/-- Credits come back. -/
def Port.credit (q : Port) (f : Nat) : Port :=
  { q with credits := (List.range 6).foldl (fun t k => Table.upd 0 t k (fun c => c + fld f (39 + 8 * k) (32 + 8 * k))) q.credits }

/-- What a request that cannot go on gets back (R308, R315): unreachable. -/
def State.unreachable (s : State) (p : Nat) (o : FabOp) : State :=
  if o.op = opREAD then s.respond p o opREADRSP 0 0x0401 []
  else if o.op = opWRITE then s.respond p o opWRITEACK 0 0x0401 []
  else s

/-- An operation for another node is forwarded (R307, R308). -/
def State.forwardOp (s : State) (p : Nat) (o : FabOp) : State :=
  if o.hops = 0 then s.unreachable p o
  else match s.sendOp p { o with hops := o.hops - 1 } with
    | some (s, _) => s
    | none => s.unreachable p o

/-- An operation received: its slots are free again; it is this node's, or goes on. -/
def State.receiveOp (s : State) (port : Nat) (o : FabOp) : State :=
  let p := partOfPort s.mode port
  let n := 1 + opExtra o.op o.lines (o.line % 2 ^ 16) o.masked
  let s := s.updPort port (fun q => { q with owed := Table.upd 0 q.owed (laneKey o.cls o.lane) (fun c => c + n) })
  if o.op = opHELLO then s
  else if o.dst = s.node p then s.updPort port (fun q => { q with arrived := q.arrived ++ [o] })
  else s.forwardOp p o

/-- A flit whose SEQ is the next one: its slots are taken. -/
def State.acceptFlit (s : State) (port : Nat) (f : Nat) : State :=
  let q := s.port port
  let slots := (List.range 15).map (fun i => BitVec.ofNat 128 (fld f (96 + 128 * i + 127) (96 + 128 * i)))
  let (ops, rest, bad) := takeOps 400 (q.partialOp ++ slots)
  let s := s.setPort port { q.discard bad with rxSeq := fld f 11 0, gap := false, nak := false, partialOp := rest }
  ops.foldl (fun s o => s.receiveOp port o) s

/-- FLIT_RECEIVE (R304). -/
def execFlitReceive (port : Nat) (fecOk : Bool) (flit : BitVec 2048) (s : State) : Host.Outcome State Fault Refusal :=
  if !s.portUp port then .next s
  else
    let q := s.port port
    let f := flit.toNat
    if !fecOk || !flitCrcOk flit then .next (s.setPort port { q.discard 1 with gap := true, nak := true })
    else
      let s := s.setPort port (q.ack (fld f 23 12))
      let s := if f.testBit 24 then (s.replayPort port).freedFrom s else s
      if !s.portUp port then .next s
      else
        let q := s.port port
        let next := (q.rxSeq + 1) % 4096
        let ahead := (fld f 11 0 + 4096 - next) % 4096
        if ahead = 0 then
          let s := s.setPort port (q.credit f)
          if f.testBit 25 then .next (s.updPort port (fun q => { q with gap := false, nak := false }))
          else .next (s.acceptFlit port f)
        else if 2048 ≤ ahead then .next (s.setPort port (q.discard 1))
        else .next (s.setPort port { q.discard 1 with gap := true, nak := q.nak || !q.gap })

/-! ## Operations of other nodes (R311) -/

/-- The first operation of a class that has arrived at a port, and the others. -/
def Port.firstOf (q : Port) (cls : Nat) : Option (FabOp × List FabOp) :=
  match q.arrived.find? (fun o => opClass o.op == some cls) with
  | some o => some (o, q.arrived.erase o)
  | none => none

/-- Whether another node may access this one: GLOBAL_SPACE accepted, no sanitise (R362, R429), every line in its stack range. -/
def State.remoteOk (s : State) (p : Nat) (o : FabOp) : Bool :=
  s.accepts p 9 && (s.part p).sanitise.state != 1 &&
  (List.range (o.lines + 1)).all (fun i =>
    match placeLocal s.mode p ((s.part p).interleave == 1) s.mem (64 * (o.line + i)) with
    | .stack _ _ => decide (64 * (o.line + i) < 2 ^ 40)
    | _ => false)

/-- READ (R311): the first request is a READ; its lines are read, or it is refused or fails. -/
def execRead (port : Nat) (s : State) : Host.Outcome State Fault Refusal :=
  match (s.port port).firstOf 0 with
  | none => .next s
  | some (o, rest) =>
    if o.op != opREAD then .next s
    else
      let p := partOfPort s.mode port
      let done := fun (s : State) => s.updPort port (fun q => { q with arrived := rest })
      if !s.remoteOk p o then .next ((done s).respond p o opREADRSP 0 0x0102 [])
      else
        let (bs, w) := Wk.read (s.partEnv p) { mem := s.mem } (64 * o.line) (64 * (o.lines + 1))
        let s := ((s.takeWork w).addLink p w.counted.rd).freedFrom s
        if w.fault.isSome then .next ((done s).respond p o opREADRSP 0 0x0402 [])
        else if w.wait then .next s
        else .next ((done s).respond p o opREADRSP o.lines 0 bs)

/-- The bytes of a WRITE, line by line under its mask. -/
def FabOp.writes (o : FabOp) : List (Nat × Byte) :=
  ((List.range o.data.length).zip o.data).filterMap (fun p =>
    if o.masked && !o.mask.testBit (p.1 % 64) then none else some (64 * o.line + p.1, p.2))

/-- WRITE (R311): acknowledged once it is complete at the target. -/
def execWrite (port : Nat) (s : State) : Host.Outcome State Fault Refusal :=
  match (s.port port).firstOf 0 with
  | none => .next s
  | some (o, rest) =>
    if o.op != opWRITE then .next s
    else
      let p := partOfPort s.mode port
      let done := fun (s : State) => s.updPort port (fun q => { q with arrived := rest })
      if !s.remoteOk p o then .next ((done s).respond p o opWRITEACK 0 0x0102 [])
      else
        let w := Wk.commit (s.partEnv p) { mem := s.mem } o.writes
        let s := ((s.takeWork w).addLink p w.wn).freedFrom s
        if w.wait && w.fault.isNone then .next s
        else .next ((done s).respond p o opWRITEACK 0 (if w.late.isSome || w.fault.isSome then 0x0402 else 0) [])

/-- The status that a response's STATUS gives: a part reports only the codes of R316, so another code counts as one of them
that nothing fixes (R11; log 28). -/
def State.responseStatus (s : State) (v : Nat) : Nat :=
  if [0, 0x0102, 0x0401, 0x0402].contains v then v
  else [0x0102, 0x0401, 0x0402].getD (Config.freeChoice s.mem.fresh v % 3) 0x0402

/-- The first response that has arrived reaches what waits for it (R315, R316). -/
def State.takeResponse (s : State) (port op : Nat) : State :=
  match (s.port port).firstOf 1 with
  | none => s
  | some (o, rest) =>
    if o.op ≠ op then s
    else
      let p := partOfPort s.mode port
      let s := s.updPort port (fun q => { q with arrived := rest })
      match (s.part p).outstanding.find? (fun r => r.1 == o.tag) with
      | some (_, r) =>
        if r.write == (op == opWRITEACK) then
          let st := s.responseStatus (fld o.line 15 0)
          (({ s with mem := { s.mem with fresh := s.mem.fresh + 1 } } : State).finishOp p o.tag st o.data).drainBacklogs p
        else s
      | none => s

/-- READ_RSP (R315, R316). -/
def execReadRsp (port : Nat) (s : State) : Host.Outcome State Fault Refusal := .next (s.takeResponse port opREADRSP)

/-- WRITE_ACK (R189, R316). -/
def execWriteAck (port : Nat) (s : State) : Host.Outcome State Fault Refusal := .next (s.takeResponse port opWRITEACK)

/-! ## Rope messages (R252, R253, R319) -/

/-- The first control message at a port, if it has the code. -/
def State.takeControl (s : State) (port op : Nat) : Option (State × FabOp) :=
  match (s.port port).firstOf 2 with
  | some (o, rest) => if o.op = op then some (s.updPort port (fun q => { q with arrived := rest }), o) else none
  | none => none

/-- ROPE_ENDED (R252): a neighbour's round has ended; with two members one message counts for both sides. -/
def execRopeEnded (port : Nat) (s : State) : Host.Outcome State Fault Refusal :=
  match s.takeControl port opENDED with
  | none => .next s
  | some (s, o) =>
    let p := partOfPort s.mode port
    if !s.ropeOn p then .next s
    else .next (s.updPart p (fun t => { t with rope := { t.rope with
      prevEnded := if o.src = s.ropePrev p then t.rope.prevEnded.bump (fld o.line 31 0) 1 else t.rope.prevEnded
      nextEnded := if o.src = s.ropeNext p then t.rope.nextEnded.bump (fld o.line 31 0) 1 else t.rope.nextEnded } }))

/-- ROPE_ABORT (R253). -/
def execRopeAbort (port : Nat) (s : State) : Host.Outcome State Fault Refusal :=
  match s.takeControl port opABORT with
  | none => .next s
  | some (s, _) => .next (s.ropeAbandon (partOfPort s.mode port))

end Sys2Proof.Machine
end

