-- ==== Sys2Proof/Machine/Sample.lean ====
section
/-! DEFINITION. V_SAMPLE (R151 to R153), V_SPOOL with its opening check (R125 to R129, R154, R155), and SPOOL_FLUSH (R130). -/

namespace Sys2Proof.Machine

/-! ## V_SAMPLE -/

/-- The float formats of R36. -/
def isFloat (f : Nat) : Bool := decide (f ≤ 4) || (decide (8 ≤ f) && decide (f ≤ 0x0C))

def sampleUses (b : BitVec 512) : List VUse :=
  [{ reg := false, tile := fullTile b }, { reg := false, write := true, tile := [16, 1] },
   { reg := false, write := true, tile := [4, 1] }, noUse]

/-- The operands of R151. -/
def sampleOk (i : Issued) : Bool :=
  let d := fun o => i.descs.getD o 0
  let rec_ := fun (o n : Nat) => dFmt (d o) == fINT32 && dRank (d o) == 2 && dExt (d o) 0 == n
  isFloat (dFmt (d 0)) && rec_ 1 16 && rec_ 2 4 &&
  (List.range 6).all (fun l => decide (nDepth i.nest ≤ l) || (nInc i.nest l 1 == 0 && nInc i.nest l 2 == 0))

/-- Order of FP32 values, zeros of both signs alike. -/
def numKey (w : Word) : Int := if w.toNat % 2 ^ 31 = 0 then 0 else orderKey w

/-- Whether candidate a stands before b: larger z, then lower token (R152). -/
def candBefore (a b : Word × Nat) : Bool := numKey b.1 < numKey a.1 || (numKey a.1 == numKey b.1 && a.2 < b.2)

/-- Insertion in order, 256 candidates at most. -/
def candInsert (c : Word × Nat) : List (Word × Nat) → List (Word × Nat)
  | [] => [c]
  | x :: t => if candBefore c x then c :: x :: t else x :: candInsert c t

/-- Word `j` of the parameter record of row `y`. -/
def recWord (e : Env) (w : Wk) (o : Opn) (y : Int) (j : Nat) : Nat × Wk :=
  let (v, w) := readElem e w o [(j : Int), y]
  (v.code, w)

/-- All sixteen words. -/
def recWords (e : Env) (o : Opn) (y : Int) : List Nat → Wk → List Nat × Wk
  | [], w => ([], w)
  | j :: t, w =>
    let (v, w) := recWord e w o y j
    let (vs, w) := recWords e o y t w
    (v :: vs, w)

/-- Greedy is selected: TEMP is 0 or below, or a NaN (R151). -/
def greedy (temp : Word) : Bool := isNaN temp || decide (numKey temp ≤ 0)

/-- The unmasked elements of a row: z and token; a NaN logit counts as minus infinity and records invalid. -/
def sampleZs (e : Env) (k : Core) (b : BitVec 512) (v : VOp) (temp : Word) (r : Nat) : List Nat → Wk → List (Nat × Word) × Wk
  | [], w => ([], w)
  | l :: t, w =>
    if vMasked e b v l r then sampleZs e k b v temp r t w
    else
      let (x, w) := vGet e k w v l r
      let a := if isNaN x.w then negInf else x.w
      let (z, f) := if greedy temp then (a, 0) else divF a temp
      let (rest, w) := sampleZs e k b v temp r t (w.flag (f ||| x.flags ||| flagIf (isNaN x.w) flagNV))
      ((l, z) :: rest, w)

/-- The tile pass of one row (R152). Token number t is the element's local coordinate in dimension 0, in GLOBAL view too
(log 22). -/
def sampleTile (row : SampleRow) (lanes org0 : Nat → Int) (zs : List (Nat × Word)) : SampleRow × LaneFlags :=
  let ys := (List.range 256).map (fun l => match zs.find? (fun p => p.1 == l) with | some p => p.2 | none => negInf)
  let (m, l, f) := online expF row.m row.l ys
  ({ m := m, l := l,
     cand := (zs.foldl (fun c p => candInsert (p.2, wrapInt 32 (org0 0 + lanes p.1)) c) row.cand).take 256 }, f)

/-- The kept candidates with their probabilities, as far as the sum needs (R152): the prefix, and its sum. -/
def nucleus (topp : Word) : List (Word × Nat × Word) → Word → List (Word × Nat × Word) → LaneFlags →
    List (Word × Nat × Word) × Word × LaneFlags
  | [], s, acc, f => (acc.reverse, s, f)
  | c :: t, s, acc, f =>
    let (s2, g) := addF s c.2.2
    if !isNaN s2 && decide (numKey topp ≤ numKey s2) then ((c :: acc).reverse, s2, f ||| g)
    else nucleus topp t s2 (c :: acc) (f ||| g)

/-- The first candidate whose running sum exceeds the target, else the last. -/
def pickAt (target : Word) : List (Word × Nat × Word) → Word → LaneFlags → Option (Word × Nat × Word) → Option (Word × Nat × Word) × LaneFlags
  | [], _, f, last => (last, f)
  | c :: t, s, f, _ =>
    let (s2, g) := addF s c.2.2
    if !isNaN s2 && !isNaN target && decide (numKey target < numKey s2) then (some c, f ||| g)
    else pickAt target t s2 (f ||| g) (some c)

/-- The final part of a row: token, log-probability, empty (R152). -/
def sampleFinal (row : SampleRow) (rec_ : List Nat) : Nat × Word × Bool × LaneFlags :=
  let word := fun j => BitVec.ofNat 32 (rec_.getD j 0)
  if row.l.toNat % 2 ^ 31 = 0 then (0xFFFFFFFF, negInf, true, 0)
  else
    let topk := rec_.getD 1 0 % 65536
    let kept := row.cand.take (if topk = 0 ∨ 256 < topk then 256 else topk)
    let (pick, f) :=
      if greedy (word 0) then (kept.head?.map (fun c => (c.1, c.2, (0 : Word))), 0)
      else
        let topp := if isNaN (word 2) || decide (numKey (word 2) ≤ 0) || decide (orderKey oneF < orderKey (word 2)) then oneF else word 2
        let qs := kept.map (fun c =>
          let (p, f) := powDiff expF c.1 row.m
          let (q, g) := divF p row.l
          ((c.1, c.2, q), f ||| g))
        let (nuc, s, f1) := nucleus topp (qs.map Prod.fst) 0 [] (qs.foldl (fun a q => a ||| q.2) 0)
        let u := (f32 (.fin false (philox0 (rec_.getD 4 0 + 2 ^ 32 * rec_.getD 5 0) (rec_.getD 6 0 + 2 ^ 32 * rec_.getD 7 0) / 256) (-24))).1
        let (target, f2) := mulF u s
        pickAt target nuc 0 (f1 ||| f2) none
    match pick with
    | none => (0xFFFFFFFF, negInf, true, f)
    | some c =>
      let (a, g1) := subF c.1 row.m
      let (ln, g2) := logF 0x10 4 true row.l
      let (lp, g3) := subF a ln
      (c.2.1, lp, false, f ||| g1 ||| g2 ||| g3)

/-- A token equals some STOP (R151, R152). -/
def isStop (rec_ : List Nat) (token : Nat) : Bool :=
  (List.range 8).any (fun i => decide (rec_.getD (8 + i) 0 < 2 ^ 31) && rec_.getD (8 + i) 0 == token)

/-- Key of a logit row. -/
def rowKey (y : Int) : Nat := (y + (2 ^ 31 : Nat)).toNat

/-- One row of one iteration. -/
def sampleRowWork (e : Env) (b : BitVec 512) (v pv rv : VOp) (first last : Bool) (r : Nat) (k : Core) (w : Wk) : Core × Wk :=
  let y := co v.org 1 + r
  let (rc, w) := recWords e pv.o y (List.range 16) w
  let row := if first then {} else Table.get {} k.sample (rowKey y)
  let (zs, w) := sampleZs e k b v (BitVec.ofNat 32 (rc.getD 0 0)) r (List.range (vLanes b)) w
  let (row, f) := sampleTile row (fun l => l) (fun _ => co v.org 0) zs
  let w := w.flag f
  if last then
    let (token, lp, empty, g) := sampleFinal row rc
    let ctr := (rc.getD 6 0 + 2 ^ 32 * rc.getD 7 0 + 1) % 2 ^ 64
    let el := fun (j x : Nat) => (([(j : Int), y], x, none) : List Int × Nat × Option Nat)
    let flags := b2n (isStop rc token) + 2 * b2n empty
    let (x, w) := elemWrites e (w.flag g) rv.o [el 0 token, el 1 lp.toNat, el 2 flags, el 3 0]
    let (z, w) := elemWrites e (w.put e x) pv.o [el 6 (ctr % 2 ^ 32), el 7 (ctr / 2 ^ 32)]
    ({ k with sample := Table.del k.sample (rowKey y) }, w.put e z)
  else ({ k with sample := Table.set k.sample (rowKey y) row }, w)

def sampleWork : VecWork := fun e k iss ops n w =>
  let b := iss.block
  let cnts := nCounts iss.nest k.params
  let i0 := (nIndex cnts n).getD 0 0
  let last := i0 + 1 == cnts.getD 0 1
  -- in its final part a save stops it after a row (R217)
  let rows := (List.range (vRows b)).drop iss.part
  let piece := if e.stop && last then rows.take 1 else rows
  let (k, w) := piece.foldl (fun p r =>
    sampleRowWork e b (vOp k iss ops n 0) (vOp k iss ops n 1) (vOp k iss ops n 2) (i0 == 0) last r p.1 p.2) (k, w)
  (k, { w with part := decide (piece.length < rows.length) })

/-- V_SAMPLE (R151 to R153); refused with BAD_OPCODE while SAMPLER is not accepted (R362). -/
def execVSample (core : Nat) (s : State) : Host.Outcome State Fault Refusal :=
  if s.accepts (partOfCore s.mode core) 15 then
    .next (s.vecStep core 0x400A sampleUses vLanes (fun _ _ i => vecImmOk i.block 1 0 && sampleOk i) sampleWork)
  else .next (s.refuseStep core 1 0x0101 (fun b => cbOp b == 0x400A))

/-! ## V_SPOOL -/

def spoolUses (_ : BitVec 512) : List VUse := [{ size := 32, write := true, tile := [256, 32] }, noUse, noUse, noUse]

/-- The rows a slot holds for expected tag `tag`, read from an opening check in cycle `r` (R125, R129): the filling begun
in cycle w is seen when w + 33 ≤ r, and the former one while r ≤ w' - 32. -/
def SpoolSlot.readAt (t : SpoolSlot) (tag r : Nat) : Option (Table Word × Quad) :=
  if t.tag = tag ∧ t.begun + 33 ≤ r then some (t.rows, slotHeader t.tag t.bank t.group t.dtag)
  else if t.oldTag = tag ∧ t.oldBegun + 33 ≤ r ∧ r + 32 ≤ t.begun then
    some (t.oldRows, slotHeader t.oldTag t.oldBank t.oldGroup t.oldDtag)
  else none

/-- The 32 rows of a slot delivered to OPD0 (R154). DESIGN CHOICE: into an INT32 memory destination the bits of each FP32 value move, as
V_STORE moves a lane's; R154 narrows the values under R139, which gives both a copy of bits and a conversion by value (log 22). -/
def deliverSlot (e : Env) (d : VOp) (rows : Table Word) (k : Core) (w : Wk) : Core × Wk :=
  overRows (fun r k w =>
    vPutRow e k w d r ((List.range 256).map (fun l => (l, storeOut d.o.d (Table.get 0 rows (256 * r + l)))))) 32 k w

/-- The consumer has read a slot in a check that opened in cycle `r`. -/
def Spool.consume (sp : Spool) (r : Nat) : Spool :=
  { sp with
    cons := sp.cons + 1
    credits := if sp.lockstep then sp.credits else min 16 (sp.credits + 1)
    closed := r + 32
    epoch := max sp.epoch (min (r + 32) 0xFFFFFFFF) }

/-- First cycle in which the opening check of iteration `n` may fall (R154). -/
def checkCycle (k : Core) (b : BitVec 512) (n : Nat) : Nat :=
  let t := imm b 31 0 + n * imm b 47 32
  if n = 0 then t else max t k.spool.closed

/-- One iteration of V_SPOOL. Under CREDITED it waits for the slot (R127, R131); under LOCKSTEP it checks in cycle
`cycle`, where one is given (R128, R129). -/
def spoolWork (cycle : Option Nat) : VecWork := fun e k iss ops n w =>
  let d := vOp k iss ops n 0
  let tag := k.spool.cons % 65535
  let t := Table.get {} k.spool.slots (k.spool.cons % 16)
  if k.spool.lockstep then
    match cycle with
    | none => (k, { w with wait := true })
    | some c =>
      if c < imm iss.block 31 0 + n * imm iss.block 47 32 then (k, { w with wait := true })
      else
        let r := max c (checkCycle k iss.block n)
        match t.readAt tag r with
        | none => (k, w.fail 0x0104)
        | some (rows, h) =>
          let (k, w) := deliverSlot e d rows k w
          ({ k with spool := k.spool.consume r, lastslot := h }, w)
  else if t.tag = tag then
    let (k, w) := deliverSlot e d t.rows k w
    ({ k with spool := k.spool.consume k.spool.epoch, lastslot := slotHeader t.tag t.bank t.group t.dtag }, w)
  else if k.qMx.kend then (k, w.fail 0x0102)
  else (k, { w with wait := true })

/-- The checks of V_SPOOL's block (R154). -/
def spoolOk (k : Core) (i : Issued) : Bool :=
  imm i.block 255 48 == 0 && (decide (cbOpd i.block 0 < 0xFF00) || cbOpd i.block 0 == 0xFF00) &&
  (!k.spool.lockstep || decide (32 ≤ imm i.block 47 32))

/-- V_SPOOL (R154): under LOCKSTEP its checks are the events SPOOL_READ_AT. -/
def execVSpool (core : Nat) (s : State) : Host.Outcome State Fault Refusal :=
  .next (s.vecStep core 0x400B spoolUses (fun _ => 256) (fun _ k i => spoolOk k i) (spoolWork none))

/-- SPOOL_READ_AT (R128, R129): in epoch cycle `epoch` the V_SPOOL in progress makes its opening check. -/
def execSpoolReadAt (core epoch : Nat) (s : State) : Host.Outcome State Fault Refusal :=
  match (s.core core).qVec.run with
  | some i =>
    if i.issued && (s.core core).spool.lockstep then
      .next (s.vecStep core 0x400B spoolUses (fun _ => 256) (fun _ k i => spoolOk k i) (spoolWork (some epoch)))
    else .next s
  | none => .next s

/-! ## SPOOL_FLUSH (R130, R131) -/

/-- A new spool epoch (R125); a restored LOCKSTEP kernel takes its coupling back (R222). -/
def Spool.newEpoch (sp : Spool) : Spool := { lockstep := sp.lockstep || sp.returnLockstep }

def flushForm : Form := { uses := [false, false, false, false], nest := false, stream := false, qsel := true }

/-- A SPOOL_FLUSH at the head of queue `q` begins, or is refused; one that waits for a partner that cannot come faults. -/
def State.flushSide (s : State) (c q : Nat) : State :=
  match s.begin c q (fun b => cbOp b == 0x6010) with
  | .idle => s
  | .stopped t => t
  | .go s r iss =>
    match s.issue c q r iss flushForm (fun _ _ _ i => need (decide (q < 2) && imm i.block 255 0 == 0)) with
    | (s, iss, .fault st) => s.cmdFault c q r iss.block st
    | (s, iss, .ok) =>
      if ((s.core c).queue (1 - q)).kend then s.cmdFault c q r iss.block 0x0102
      else (s.setRun c q (some iss)).updQueue c q (fun k => { k with flushing := true })
    | (s, iss, _) => s.setRun c q (some iss)

/-- SPOOL_FLUSH (R130): each side begins where it stands at its queue's head, and a pair completes. -/
def execSpoolFlush (core : Nat) (s : State) : Host.Outcome State Fault Refusal :=
  let s := (List.range 4).foldl (fun s q => s.flushSide core q) s
  match s.running core with
  | none => .next s
  | some (r, _) =>
    if (s.core core).qMx.flushing && (s.core core).qVec.flushing then
      let s := s.updCore core (fun k => { k with spool := k.spool.newEpoch })
      let off := fun (s : State) (q : Nat) => (s.updQueue core q (fun k => { k with flushing := false })).retire core q r
      .next (off (off s 0) 1)
    else .next s

end Sys2Proof.Machine
end

