-- ==== Sys2Proof/Machine/Sequencer.lean ====
section
/-! DEFINITION. The sequencer: SEQ_STRIDE, SEQ_INDEX and SEQ_PAGE (R97, R192). A SEQ command retires once its slot
generates; each event of its row carries the generation on as far as the slot has room (log 16). -/

namespace Sys2Proof.Machine

/-- What makes one entry of a stream: the iteration's entry, and the reads it took. -/
abbrev EntryMaker := State → Env → Issued → Nat → Wk → StreamEntry × Wk

/-- Update of a stream slot. -/
def State.updStream (s : State) (c i : Nat) (f : Stream → Stream) : State :=
  s.updCore c (fun k => { k with streams := Table.upd {} k.streams i f })

/-- Generation of slot `i` until it is full, exhausted, waits or faults. -/
def State.runGen (mk : EntryMaker) (c i : Nat) (r : CoreRun) : Nat → State → State
  | 0, s => s
  | fuel + 1, s =>
    let t := (s.core c).stream i
    match t.gen with
    | none => s
    | some g =>
      if nIters (nCounts g.nest (s.core c).params) ≤ g.iter then s.updStream c i (fun t => { t with gen := none })
      else if 64 ≤ t.entries.length then s
      else
        let (v, w) := mk s (s.env c 3 r) g g.iter { mem := s.mem }
        let s := s.absorbReads c 3 r (cbTag g.block) w.counted
        match w.fault with
        | some st =>
          (s.updStream c i (fun t => { t with gen := none })).kernelFault r.part r.ctx
            { status := st, tag := cbTag g.block, count := t.count, queue := 3, core := c }
        | none =>
          if w.wait then s
          else
            let s := { s with host := { s.host with granted := s.host.granted.filter (fun l => !w.taken.contains l) } }
            let s := s.updQueue c 3 (fun q => { q with landing := [] })
            State.runGen mk c i r fuel
              (s.updStream c i (fun t => { t with entries := t.entries ++ [v], gen := some { g with iter := g.iter + 1 } }))

/-- The slot that a STK command takes its entries from while it is forwarded at a save (R186). -/
def State.forwardSlot (s : State) (c : Nat) : Option Nat :=
  match s.forwarding c, (s.core c).qDma.run with
  | some _, some iss => some (cbStream iss.block)
  | _, _ => none

/-- Generation of every slot of an opcode, earliest command first. -/
def State.generate (s : State) (mk : EntryMaker) (c op : Nat) : State :=
  match ((s.running c).or (s.unstopped c 3)).or (s.forwarding c) with
  | none => s
  | some (r, _) =>
    -- a save stops the sequencer after the entry being generated, but for the slot whose entries forwarding still takes (R186, R217)
    let fuel := fun (i : Nat) =>
      if !s.stopping r || s.forwardSlot c == some i then 66 else if (s.unstopped c 3).isSome then 1 else 0
    let order := sortBy (fun i j => decide (((s.core c).stream i).count ≤ ((s.core c).stream j).count))
      ((List.range 16).filter (fun i => ((s.core c).stream i).gen.isSome))
    (order.foldl (fun s i => if (s.core c).mayGen op i then s.runGen mk c i r (fuel i) else s) s).settle c 3

/-- Whether the slot a SEQ command names is free (R97). -/
def Core.slotFree (k : Core) (b : BitVec 512) : Bool :=
  decide (15 < cbStream b) || ((k.stream (cbStream b)).entries.isEmpty && (k.stream (cbStream b)).gen.isNone)

/-- One event of a SEQ row: generation goes on, the command at the head starts its stream, and generation goes on again. -/
def State.seqStep (s : State) (c op : Nat) (form : Form) (check : Env → Core → Issued → Bool) (mk : EntryMaker) : State :=
  let s := s.generate mk c op
  let q := (s.core c).queue 3
  let mine := fun b => cbOp b == op && (q.run.isSome || (q.landing.isEmpty && (s.core c).slotFree b))
  match s.begin c 3 mine with
  | .idle => s
  | .stopped t => t
  | .go s r iss =>
    match s.issue c 3 r iss form (fun e m k i =>
        need (cbStream i.block != 0xFFFF && cbSbind i.block == 0 && check e k i &&
          commonOk e m k.params i form [[1, 1, 1, 1, 1, 1]])) with
    | (s, iss, .fault st) => s.cmdFault c 3 r iss.block st
    | (s, iss, .ok) =>
      let n := ((s.core c).queue 3).count
      let s := s.updStream c (cbStream iss.block) (fun _ => { gen := some iss, count := n })
      (s.retire c 3 r).generate mk c op
    | (s, iss, _) => s.setRun c 3 (some iss)

/-! ## The three kinds -/

/-- Coordinates as R63 takes them, for any origin (floor division, as R70 takes it; log 20). -/
def elemOffset (e : Env) (d : Nat) (x : List Int) : Int :=
  let f := dFmt d
  let rest := (List.range 5).foldl (fun (a : Int) k => a + co x (k + 1) * dStride d (k + 1)) 0
  dHolder e d * (if dGlobal e d then dPiece d else 0) + rest +
    (if isWhole f then co x 0 * dStride d 0 else co x 0 / (blockLen f : Int) * (blockBytes f : Int))

/-- An entry's 64 bits as a signed offset. -/
def entryBits (v : Int) : Int := sext 64 (wrapInt 64 v)

/-- SEQ_STRIDE's entry: the byte offset of the element or block at the origin. -/
def strideEntry : EntryMaker := fun s e g k w =>
  let cnts := nCounts g.nest (s.core e.core).params
  ({ kind := .stride, value := some (entryBits (elemOffset e (g.descs.getD 0 0) (nOrigin g.nest cnts 0 k))) }, w)

/-- SEQ_INDEX's entry: the effective index times ESTRIDE, or null (R97, R99). -/
def indexEntry : EntryMaker := fun s e g k w =>
  let cnts := nCounts g.nest (s.core e.core).params
  let (v, w) := readElem e w (plainOpn (g.descs.getD 0 0)) (nOrigin g.nest cnts 0 k)
  let x := effIndex (imm g.block 97 96) (imm g.block 95 64) (sext 32 v.code)
  ({ kind := .index, value := x.map (fun i => entryBits ((i : Int) * sext 64 (imm g.block 63 0))) }, w)

/-- SEQ_PAGE's entry: the frame of a RAW page, or absent (R97, R231). -/
def pageEntry : EntryMaker := fun s e g k w =>
  let p := s.part e.part
  let geom := p.kvgeom.toNat
  let n := imm g.block 63 32 + k
  let slot := imm g.block 15 0
  let layer := imm g.block 31 16
  let none : StreamEntry := { kind := .page, value := some 0, absent := true }
  if e.wide || !pteInside e.mode geom slot layer n then (none, w)
  else
    let st := pageStack e.mode e.part n
    let (t, w) := w.readNat e (st * 2 ^ 36 + pteOffset e.mode e.part geom p.kvptb.toNat slot layer n) 64
    if pteAbsent t st || pteForm t != 1 then (none, w)
    else ({ kind := .page, value := some ((pteAddr t % 2 ^ 44 : Nat) : Int) }, w)

/-- SEQ_STRIDE (R97). -/
def execSeqStride (core : Nat) (s : State) : Host.Outcome State Fault Refusal :=
  .next (s.seqStep core 0x1001 { uses := [true, false, false, false] } (fun _ _ i => imm i.block 255 0 == 0) strideEntry)

/-- SEQ_INDEX (R97, R99). -/
def execSeqIndex (core : Nat) (s : State) : Host.Outcome State Fault Refusal :=
  .next (s.seqStep core 0x1002 { uses := [true, false, false, false] }
    (fun _ _ i =>
      dFmt (i.descs.getD 0 0) == fINT32 && dRank (i.descs.getD 0 0) == 1 && imm i.block 95 64 != 0 &&
      imm i.block 97 96 != 3 && imm i.block 255 98 == 0)
    indexEntry)

/-- SEQ_PAGE (R97, R99, R231). -/
def execSeqPage (core : Nat) (s : State) : Host.Outcome State Fault Refusal :=
  .next (s.seqStep core 0x1003 { uses := [false, false, false, false] } (fun _ _ i => imm i.block 255 64 == 0) pageEntry)

end Sys2Proof.Machine
end

