-- ==== Sys2Proof/Machine/Tap.lean ====
section
/-! DEFINITION. Boundary scan (R397, R440). Dies 0 to 3 are C0 to C3, 4 is I0, 5 is I1. -/

namespace Sys2Proof.Machine

/-- A die's instruction register takes an instruction. Under the EXTEST instructions its cells drive their balls, while RESET_N is
low. -/
def State.tap (s : State) (die : Nat) (i : TapInstr) : State :=
  let j := { s.jtag with ir := Table.set s.jtag.ir die i }
  { s with jtag := { j with driving := if s.start.resetN then [] else j.drivers } }

/-- The IDCODE of a die (R440). -/
def idcodeOf (die : Nat) : Nat := 1 + 2 * 0x2D3 + 2 ^ 12 * (0x4810 + die) + 2 ^ 28 * 1

/-- FWLOAD is available while a start has stopped at stage 3 (R417, R440). -/
def State.loadsFw (s : State) : Bool := s.start.phase == .stopped && s.start.cause == 3

/-- The data register that a die's instruction selects: width and what it captures. An instruction that is not available acts as
BYPASS, whose bit captures 0. What FWLOAD's register captures is open (log 4). -/
def State.dataReg (s : State) (die : Nat) : Nat × Nat :=
  let cells := Config.boundarySample die s.mem.fresh
  match Table.get .idcode s.jtag.ir die with
  | .bypass => (1, 0)
  | .idcode => (32, idcodeOf die)
  | .sample => (8 * cells.length, leNat cells)
  | .extest => if s.start.resetN then (1, 0) else (8 * cells.length, leNat cells)
  | .extestPulse => if s.start.resetN then (1, 0) else (8 * cells.length, leNat cells)
  | .extestTrain => if s.start.resetN then (1, 0) else (8 * cells.length, leNat cells)
  | .startstat => if die = 4 then (64, Startup.status s.start) else (1, 0)
  | .fwload => if die = 4 && s.loadsFw then (32, Config.freeChoice s.mem.fresh 44 % 2 ^ 32) else (1, 0)

/-- The chain runs from TDI through I0, C0 to C3 and I1 to TDO: what a scan of the data registers shifts out, I1's first. -/
def State.scan (s : State) : State :=
  let l := [5, 3, 2, 1, 0, 4].map (fun d => (d, s.dataReg d))
  let s := { s with mem := { s.mem with fresh := s.mem.fresh + 1 } }
  l.foldl (fun s v => s.emit (.tdo v.1 v.2.1 v.2.2)) s

/-- BYPASS (R440). -/
def execBypass (die : Nat) (s : State) : Host.Outcome State Fault Refusal :=
  if die < 6 then .next (s.tap die .bypass).scan else .next s

/-- IDCODE (R440). -/
def execIdcode (die : Nat) (s : State) : Host.Outcome State Fault Refusal :=
  if die < 6 then .next (s.tap die .idcode).scan else .next s

/-- SAMPLE/PRELOAD (R440): the cells are sampled and take the preloaded values; no ball is driven. -/
def execSamplePreload (die : Nat) (cells : List Byte) (s : State) : Host.Outcome State Fault Refusal :=
  if die < 6 then
    let t := (s.tap die .sample).scan
    .next { t with jtag := { t.jtag with cells := Table.set t.jtag.cells die cells } }
  else .next s

/-- EXTEST (R440). -/
def execExtest (die : Nat) (s : State) : Host.Outcome State Fault Refusal :=
  if die < 6 then .next (s.tap die .extest).scan else .next s

/-- EXTEST_PULSE (R440). -/
def execExtestPulse (die : Nat) (s : State) : Host.Outcome State Fault Refusal :=
  if die < 6 then .next (s.tap die .extestPulse).scan else .next s

/-- EXTEST_TRAIN (R440). -/
def execExtestTrain (die : Nat) (s : State) : Host.Outcome State Fault Refusal :=
  if die < 6 then .next (s.tap die .extestTrain).scan else .next s

/-- STARTSTAT (R397, R440): START_STATUS is the data register of I0. -/
def execStartstat (die : Nat) (s : State) : Host.Outcome State Fault Refusal :=
  if die = 4 then .next (s.tap die .startstat).scan else .next s

/-- FWLOAD (R417, R440): while a start has stopped at stage 3, an image that verifies is written to slot 0 and stage 3 runs again. -/
def execFwload (image : List Byte) (s : State) : Host.Outcome State Fault Refusal :=
  let s := (s.tap 4 .fwload).scan
  if s.loadsFw && fwOk s.nv image then .next ({ s with nv := { s.nv with fw0 := image, fwActive := 0 } } : State).bootFirmware
  else .next s

end Sys2Proof.Machine
end

