-- ==== Sys2Proof/Machine/Dispatch.lean ====
section
/-! DEFINITION. One arm for each command: a direct call of its meaning. -/

namespace Sys2Proof.Machine

def exec (i : Instr) (s : State) : Host.Outcome State Fault Refusal :=
  match i with
  | .coldStart => Sys2Proof.Machine.execColdStart s
  | .pllLock => Sys2Proof.Machine.execPllLock s
  | .pllLockTimeout => Sys2Proof.Machine.execPllLockTimeout s
  | .firmwareBoot => Sys2Proof.Machine.execFirmwareBoot s
  | .configImageApply => Sys2Proof.Machine.execConfigImageApply s
  | .tetherTraining downStacks failedLanes => Sys2Proof.Machine.execTetherTraining downStacks failedLanes s
  | .sparTraining failedLinks => Sys2Proof.Machine.execSparTraining failedLinks s
  | .dictionaryLive => Sys2Proof.Machine.execDictionaryLive s
  | .railFault loss => Sys2Proof.Machine.execRailFault loss s
  | .resetAssert => Sys2Proof.Machine.execResetAssert s
  | .perstAssert => Sys2Proof.Machine.execPerstAssert s
  | .perstRelease => Sys2Proof.Machine.execPerstRelease s
  | .pllLoss domain => Sys2Proof.Machine.execPllLoss domain s
  | .orderlyShutdown => Sys2Proof.Machine.execOrderlyShutdown s
  | .shutdownDone => Sys2Proof.Machine.execShutdownDone s
  | .housekeepingRound temps rails => Sys2Proof.Machine.execHousekeepingRound temps rails s
  | .classAWindow cdie amps => Sys2Proof.Machine.execClassAWindow cdie amps s
  | .droguePause stack => Sys2Proof.Machine.execDroguePause stack s
  | .periodic => Sys2Proof.Machine.execPeriodic s
  | .storedEntryCommit => Sys2Proof.Machine.execStoredEntryCommit s
  | .portTrainRetry port => Sys2Proof.Machine.execPortTrainRetry port s
  | .trainingTimeout port => Sys2Proof.Machine.execTrainingTimeout port s
  | .hello port node peerPort role => Sys2Proof.Machine.execHello port node peerPort role s
  | .flitReceive port fecOk flit => Sys2Proof.Machine.execFlitReceive port fecOk flit s
  | .replayTimeout port => Sys2Proof.Machine.execReplayTimeout port s
  | .linkLoss port => Sys2Proof.Machine.execLinkLoss port s
  | .responseTimeout part tag => Sys2Proof.Machine.execResponseTimeout part tag s
  | .read port => Sys2Proof.Machine.execRead port s
  | .write port => Sys2Proof.Machine.execWrite port s
  | .readRsp port => Sys2Proof.Machine.execReadRsp port s
  | .writeAck port => Sys2Proof.Machine.execWriteAck port s
  | .ropeEnded port => Sys2Proof.Machine.execRopeEnded port s
  | .ropeAbort port => Sys2Proof.Machine.execRopeAbort port s
  | .ropeRoundStart part => Sys2Proof.Machine.execRopeRoundStart part s
  | .cxlLinkUp width => Sys2Proof.Machine.execCxlLinkUp width s
  | .cxlRetrain => Sys2Proof.Machine.execCxlRetrain s
  | .cxlLinkDown => Sys2Proof.Machine.execCxlLinkDown s
  | .flr fn => Sys2Proof.Machine.execFlr fn s
  | .d3hotEntry fn => Sys2Proof.Machine.execD3hotEntry fn s
  | .d0Return fn => Sys2Proof.Machine.execD0Return fn s
  | .bmeClear fn => Sys2Proof.Machine.execBmeClear fn s
  | .vfEnableClear fn => Sys2Proof.Machine.execVfEnableClear fn s
  | .hotReset => Sys2Proof.Machine.execHotReset s
  | .configRequest fn reg => Sys2Proof.Machine.execConfigRequest fn reg s
  | .hdmCommit base size iw => Sys2Proof.Machine.execHdmCommit base size iw s
  | .cxlMemRead hpa tracked => Sys2Proof.Machine.execCxlMemRead hpa tracked s
  | .cxlMemWrite hpa data => Sys2Proof.Machine.execCxlMemWrite hpa data s
  | .bisnpResponse line modified => Sys2Proof.Machine.execBisnpResponse line modified s
  | .h2dSnoop hpa => Sys2Proof.Machine.execH2dSnoop hpa s
  | .hostBarRead fn bar offset len => Sys2Proof.Machine.execHostBarRead fn bar offset len s
  | .hostBarWrite fn bar offset data => Sys2Proof.Machine.execHostBarWrite fn bar offset data s
  | .kgo fn ctx => Sys2Proof.Machine.execKgo fn ctx s
  | .csgo fn ctx value => Sys2Proof.Machine.execCsgo fn ctx value s
  | .csgoDone part ctx => Sys2Proof.Machine.execCsgoDone part ctx s
  | .preempt fn ctx => Sys2Proof.Machine.execPreempt fn ctx s
  | .resume fn ctx => Sys2Proof.Machine.execResume fn ctx s
  | .contextEn fn ctx value => Sys2Proof.Machine.execContextEn fn ctx value s
  | .belayWrite fn belay value => Sys2Proof.Machine.execBelayWrite fn belay value s
  | .force fn belay value => Sys2Proof.Machine.execForce fn belay value s
  | .cslogClear fn core => Sys2Proof.Machine.execCslogClear fn core s
  | .rqtail fn value => Sys2Proof.Machine.execRqtail fn value s
  | .cqhead fn value => Sys2Proof.Machine.execCqhead fn value s
  | .ringCfg fn completion value => Sys2Proof.Machine.execRingCfg fn completion value s
  | .vfmap pf vf value => Sys2Proof.Machine.execVfmap pf vf value s
  | .kvframes part value => Sys2Proof.Machine.execKvframes part value s
  | .kvgrans part value => Sys2Proof.Machine.execKvgrans part value s
  | .srvctlEn fn value => Sys2Proof.Machine.execSrvctlEn fn value s
  | .registerWrite fn offset value => Sys2Proof.Machine.execRegisterWrite fn offset value s
  | .kernelDispatch part => Sys2Proof.Machine.execKernelDispatch part s
  | .commandRoute core => Sys2Proof.Machine.execCommandRoute core s
  | .unlistedOpcode core queue => Sys2Proof.Machine.execUnlistedOpcode core queue s
  | .nop core queue => Sys2Proof.Machine.execNop core queue s
  | .brk core queue => Sys2Proof.Machine.execBrk core queue s
  | .kend core queue => Sys2Proof.Machine.execKend core queue s
  | .seqStride core => Sys2Proof.Machine.execSeqStride core s
  | .seqIndex core => Sys2Proof.Machine.execSeqIndex core s
  | .seqPage core => Sys2Proof.Machine.execSeqPage core s
  | .dmaCopy core => Sys2Proof.Machine.execDmaCopy core s
  | .dmaFill core => Sys2Proof.Machine.execDmaFill core s
  | .mxLoadw core => Sys2Proof.Machine.execMxLoadw core s
  | .mxMac core => Sys2Proof.Machine.execMxMac core s
  | .mxDrain core cycle => Sys2Proof.Machine.execMxDrain core cycle s
  | .mxZero core => Sys2Proof.Machine.execMxZero core s
  | .vLoad core => Sys2Proof.Machine.execVLoad core s
  | .vStore core => Sys2Proof.Machine.execVStore core s
  | .vEwise core => Sys2Proof.Machine.execVEwise core s
  | .vReduce core => Sys2Proof.Machine.execVReduce core s
  | .vSoftmax core => Sys2Proof.Machine.execVSoftmax core s
  | .vRotary core => Sys2Proof.Machine.execVRotary core s
  | .vConvert core => Sys2Proof.Machine.execVConvert core s
  | .vGather core => Sys2Proof.Machine.execVGather core s
  | .vScatter core => Sys2Proof.Machine.execVScatter core s
  | .vSample core => Sys2Proof.Machine.execVSample core s
  | .vSpool core => Sys2Proof.Machine.execVSpool core s
  | .spoolReadAt core epoch => Sys2Proof.Machine.execSpoolReadAt core epoch s
  | .sAttend site => Sys2Proof.Machine.execSAttend site s
  | .sMatvec site => Sys2Proof.Machine.execSMatvec site s
  | .sGather site => Sys2Proof.Machine.execSGather site s
  | .sScatter site => Sys2Proof.Machine.execSScatter site s
  | .sEwise site => Sys2Proof.Machine.execSEwise site s
  | .sFill site => Sys2Proof.Machine.execSFill site s
  | .sDrain core => Sys2Proof.Machine.execSDrain core s
  | .sKvenc site => Sys2Proof.Machine.execSKvenc site s
  | .sKvexp site => Sys2Proof.Machine.execSKvexp site s
  | .stkActivate stack => Sys2Proof.Machine.execStkActivate stack s
  | .sliceEnd stack => Sys2Proof.Machine.execSliceEnd stack s
  | .pageWalk stack slot layer page => Sys2Proof.Machine.execPageWalk stack slot layer page s
  | .granuleDecode stack => Sys2Proof.Machine.execGranuleDecode stack s
  | .stkComplete stack area => Sys2Proof.Machine.execStkComplete stack area s
  | .stkFaultReport stack area => Sys2Proof.Machine.execStkFaultReport stack area s
  | .belayArrive core queue => Sys2Proof.Machine.execBelayArrive core queue s
  | .belayWait core queue => Sys2Proof.Machine.execBelayWait core queue s
  | .belayArrival core queue belay => Sys2Proof.Machine.execBelayArrival core queue belay s
  | .belayRelease part core => Sys2Proof.Machine.execBelayRelease part core s
  | .spoolFlush core => Sys2Proof.Machine.execSpoolFlush core s
  | .kernelEnd part ctx cycles periods => Sys2Proof.Machine.execKernelEnd part ctx cycles periods s
  | .saveComplete part ctx cycles => Sys2Proof.Machine.execSaveComplete part ctx cycles s
  | .restoreComplete part ctx cycles => Sys2Proof.Machine.execRestoreComplete part ctx cycles s
  | .stepKernelIssue part => Sys2Proof.Machine.execStepKernelIssue part s
  | .stepBoundary part cyclesD => Sys2Proof.Machine.execStepBoundary part cyclesD s
  | .openReq fn entry => Sys2Proof.Machine.execOpenReq fn entry s
  | .cancel fn entry => Sys2Proof.Machine.execCancel fn entry s
  | .park fn entry => Sys2Proof.Machine.execPark fn entry s
  | .bivouacParkDone part slot => Sys2Proof.Machine.execBivouacParkDone part slot s
  | .bivouacReturnDone part slot ok data => Sys2Proof.Machine.execBivouacReturnDone part slot ok data s
  | .budgetEpoch part periods => Sys2Proof.Machine.execBudgetEpoch part periods s
  | .tetherRetry stack pc ok => Sys2Proof.Machine.execTetherRetry stack pc ok s
  | .dramCmdTimeout stack channel => Sys2Proof.Machine.execDramCmdTimeout stack channel s
  | .refreshWindow stack pc => Sys2Proof.Machine.execRefreshWindow stack pc s
  | .laneRecalibration stack pc ok => Sys2Proof.Machine.execLaneRecalibration stack pc ok s
  | .wcAgeFlush stack line => Sys2Proof.Machine.execWcAgeFlush stack line s
  | .dictRead sender msg => Sys2Proof.Machine.execDictRead sender msg s
  | .dictWrite sender msg => Sys2Proof.Machine.execDictWrite sender msg s
  | .identify sender msg => Sys2Proof.Machine.execIdentify sender msg s
  | .neighbourDiscovery target => Sys2Proof.Machine.execNeighbourDiscovery target s
  | .storedMode who msg => Sys2Proof.Machine.execStoredMode who msg s
  | .nodeNumber who msg => Sys2Proof.Machine.execNodeNumber who msg s
  | .role who msg => Sys2Proof.Machine.execRole who msg s
  | .breakSlot who msg => Sys2Proof.Machine.execBreakSlot who msg s
  | .accept0 who msg => Sys2Proof.Machine.execAccept0 who msg s
  | .interleave who msg => Sys2Proof.Machine.execInterleave who msg s
  | .cap who msg => Sys2Proof.Machine.execCap who msg s
  | .suspectClear who msg => Sys2Proof.Machine.execSuspectClear who msg s
  | .ceLogClear who msg => Sys2Proof.Machine.execCeLogClear who msg s
  | .remap who msg => Sys2Proof.Machine.execRemap who msg s
  | .mapout who msg => Sys2Proof.Machine.execMapout who msg s
  | .portCtl who msg => Sys2Proof.Machine.execPortCtl who msg s
  | .routes who msg => Sys2Proof.Machine.execRoutes who msg s
  | .fwChunk who msg => Sys2Proof.Machine.execFwChunk who msg s
  | .fwCommit who msg => Sys2Proof.Machine.execFwCommit who msg s
  | .svnFloor who msg => Sys2Proof.Machine.execSvnFloor who msg s
  | .nextGrade who msg => Sys2Proof.Machine.execNextGrade who msg s
  | .clear who msg => Sys2Proof.Machine.execClear who msg s
  | .budgetCtl who msg => Sys2Proof.Machine.execBudgetCtl who msg s
  | .sanitise who msg => Sys2Proof.Machine.execSanitise who msg s
  | .sanitiseDone part => Sys2Proof.Machine.execSanitiseDone part s
  | .scratch who msg => Sys2Proof.Machine.execScratch who msg s
  | .matrix who msg => Sys2Proof.Machine.execMatrix who msg s
  | .vector who msg => Sys2Proof.Machine.execVector who msg s
  | .stackEngine who msg => Sys2Proof.Machine.execStackEngine who msg s
  | .codec who msg => Sys2Proof.Machine.execCodec who msg s
  | .dramScrub who msg => Sys2Proof.Machine.execDramScrub who msg s
  | .dramMarch who msg => Sys2Proof.Machine.execDramMarch who msg s
  | .testSpar who msg => Sys2Proof.Machine.execTestSpar who msg s
  | .testFabricPort who msg => Sys2Proof.Machine.execTestFabricPort who msg s
  | .tether who msg => Sys2Proof.Machine.execTether who msg s
  | .calSpar who msg => Sys2Proof.Machine.execCalSpar who msg s
  | .sensor who msg => Sys2Proof.Machine.execSensor who msg s
  | .calFabricPort who msg => Sys2Proof.Machine.execCalFabricPort who msg s
  | .testCancel who msg => Sys2Proof.Machine.execTestCancel who msg s
  | .drainedRequestStart part calibration => Sys2Proof.Machine.execDrainedRequestStart part calibration s
  | .testPieceDone part calibration last fails => Sys2Proof.Machine.execTestPieceDone part calibration last fails s
  | .getVersion who msg => Sys2Proof.Machine.execGetVersion who msg s
  | .getCapabilities who msg => Sys2Proof.Machine.execGetCapabilities who msg s
  | .negotiateAlgorithms who msg => Sys2Proof.Machine.execNegotiateAlgorithms who msg s
  | .getDigests who msg => Sys2Proof.Machine.execGetDigests who msg s
  | .getCertificate who msg => Sys2Proof.Machine.execGetCertificate who msg s
  | .challenge who msg => Sys2Proof.Machine.execChallenge who msg s
  | .getMeasurements who msg => Sys2Proof.Machine.execGetMeasurements who msg s
  | .keyExchange who msg => Sys2Proof.Machine.execKeyExchange who msg s
  | .finish who msg => Sys2Proof.Machine.execFinish who msg s
  | .endSession who msg => Sys2Proof.Machine.execEndSession who msg s
  | .heartbeat who msg => Sys2Proof.Machine.execHeartbeat who msg s
  | .bypass die => Sys2Proof.Machine.execBypass die s
  | .idcode die => Sys2Proof.Machine.execIdcode die s
  | .samplePreload die cells => Sys2Proof.Machine.execSamplePreload die cells s
  | .extest die => Sys2Proof.Machine.execExtest die s
  | .extestPulse die => Sys2Proof.Machine.execExtestPulse die s
  | .extestTrain die => Sys2Proof.Machine.execExtestTrain die s
  | .startstat die => Sys2Proof.Machine.execStartstat die s
  | .fwload image => Sys2Proof.Machine.execFwload image s
  | .railReturn => Sys2Proof.Machine.execRailReturn s
  | .functionEnable fn => Sys2Proof.Machine.execFunctionEnable fn s
  | .hostLinkRecovery kind => Sys2Proof.Machine.execHostLinkRecovery kind s
  | .cxlIdeKm msg cacheMem io => Sys2Proof.Machine.execCxlIdeKm msg cacheMem io s
  | .doeDiscovery fn index => Sys2Proof.Machine.execDoeDiscovery fn index s
  | .primaryMailboxIdentify => Sys2Proof.Machine.execPrimaryMailboxIdentify s
  | .getSupportedLogs => Sys2Proof.Machine.execGetSupportedLogs s
  | .getLog offset len => Sys2Proof.Machine.execGetLog offset len s
  | .refreshWindowEnd stack pc => Sys2Proof.Machine.execRefreshWindowEnd stack pc s
  | .flitSend port => Sys2Proof.Machine.execFlitSend port s

end Sys2Proof.Machine
end

