-- ==== Sys2Proof/Safety.lean ====
section
/-! DEFINITION. The terms claims use: runs that go on, the ledger's form, and what every command keeps. -/

namespace Sys2Proof.Machine

/-- The machine goes on from `s`. -/
def Goes (s : State) : Prop := ∃ t, step s = .next t

/-- `n` steps from `s` all go on. -/
def SafeFor : Nat → State → Prop
  | 0, _ => True
  | n + 1, s => ∃ t, step s = .next t ∧ SafeFor n t

/-- The ledger's form (R423, R424): record `i` has SEQ `i`, and a good record's PREV is the hash of the good record before it. -/
def ledgerOk (l : List CairnRec) : Prop :=
  ∀ i r, l[i]? = some r → r.seq = i ∧ (r.void = false → r.prev = cairnHead (l.take i))

/-- What one command may do to the whole part: the ledger and what has left the part only grow, the queue of waiting
commands is no command's business, the memories keep their canonical form, and fuses do not go back. -/
structure Grows (s t : State) : Prop where
  ledger : s.nv.cairn <+: t.nv.cairn
  chain : ledgerOk s.nv.cairn → ledgerOk t.nv.cairn
  queue : t.pending = s.pending
  sent : s.out <+: t.out
  mem : Memory.wf s.mem = true → Memory.wf t.mem = true
  fused : t.nv.serial = s.nv.serial ∧ t.nv.rootKeyHash = s.nv.rootKeyHash ∧ t.nv.certChain = s.nv.certChain
  floor : s.nv.svnFloor ≤ t.nv.svnFloor
  starts : s.nv.starts ≤ t.nv.starts

/-! ## Start and hold -/

/-- `t` is `s` at step 1 of a start, and a shutdown that is asked for is held (R7, R17, R369, R393, R399, R402). -/
structure StartBegun (s t : State) : Prop where
  phase : t.start.phase = .done 1 ∧ t.start.stage = 1 ∧ t.start.resetN = true ∧ t.start.startOk = false ∧
    t.start.thermtripN = true ∧ t.start.railsOk = true ∧ t.start.shdnDone = s.start.shdnDone
  held : t.start.shutdownHeld = !s.start.shdnReqN
  prevEnd : t.start.prevEnd = s.nv.prevEnd
  nv : t.nv = { s.nv with starts := s.nv.starts + 1, grade := s.nv.nextGrade }
  empty : t.cores = [] ∧ t.engines = [] ∧ t.contexts = [] ∧ t.parts = [] ∧ t.ports = [] ∧ t.host = {} ∧ t.dict = {} ∧ t.power = {} ∧ t.sec = {}
  maps : ∀ k, (t.mem.stack k).applied = (s.mem.stack k).applied ∧ (t.mem.stack k).pending = (s.mem.stack k).pending
  kept : t.pending = s.pending ∧ t.out = s.out

/-- A start of `s` stopped at a stage; a shutdown that was held is done (R398, R402). -/
def StartStopped (s t : State) (stage : Nat) : Prop :=
  t.start.cause = stage ∧ t.start.stoppedAt = true ∧ t.start.stage = s.start.stage ∧
  (s.start.shutdownHeld = false → t.start.phase = .stopped ∧ t.start.shdnDone = s.start.shdnDone ∧ t.start.startOk = s.start.startOk) ∧
  (s.start.shutdownHeld = true → t.start.phase = .shutDown ∧ t.start.shdnDone = true)

/-- Every die of `t` is held, with nothing of `s` left in it but flash, fuses, the ledger and stored map-outs. -/
structure DiesHeld (s t : State) : Prop where
  empty : t.cores = [] ∧ t.engines = [] ∧ t.contexts = [] ∧ t.parts = [] ∧ t.ports = [] ∧ t.host = {} ∧ t.dict = {} ∧ t.power = {} ∧ t.sec = {}
  pins : t.start.startOk = false ∧ t.start.thermtripN = true ∧ t.start.perstN = s.start.perstN
  ledger : s.nv.cairn <+: t.nv.cairn
  maps : ∀ k, (t.mem.stack k).applied = (s.mem.stack k).applied
  kept : t.pending = s.pending ∧ t.out = s.out ∧ t.jtag.ir = s.jtag.ir

/-- The last value a list of entries gives a key. -/
def lastSet (key : Nat) (l : List (Nat × Nat)) : Option Nat := (l.reverse.find? (fun e => e.1 == key)).map Prod.snd

/-- What the images give the entry `key`: the overlay's value, else, of an entry that is not stored, the base image's (R32, R33). -/
def State.given (s : State) (key : Nat) : Option Nat :=
  match lastSet key s.overlay.entries with
  | some v => some v
  | none => if storedKey key then none else lastSet key s.nv.base.entries

/-- Entries whose default the dictionary itself keeps: no field of a partition, port or stack does. Of the stored entries ROLE alone is
among them (log 33). -/
def dictHolds (key : Nat) : Bool :=
  (!storedKey key || key == 0x160002) &&
  [(0x110101, 8), (0x121001, 4), (0x121101, 4), (0x122001, 4), (0x161009, 8), (0x161019, 8), (0x181001, 4), (0x1A0001, 4), (0x1A1001, 4)].all
    (fun r => decide (key < r.1) || decide (r.1 + r.2 ≤ key))

/-- Every entry of the dictionary in `t` takes the overlay's value, else the base image's, else stays at its built-in default, which `s`
holds (R32): the words that partitions, ports and stacks keep, and all that the dictionary keeps itself. -/
structure TakesDefaults (s t : State) : Prop where
  words : ∀ p, p < 4 →
    (t.part p).accept0 = (s.given (0x110101 + p)).getD (s.part p).accept0 ∧
    (t.part p).accept1 = (s.given (0x110105 + p)).getD (s.part p).accept1 ∧
    (t.part p).interleave = (s.given (0x121001 + p)).getD (s.part p).interleave ∧
    (t.part p).tensorView = (s.given (0x121101 + p)).getD (s.part p).tensorView ∧
    (t.part p).coupling = (s.given (0x122001 + p)).getD (s.part p).coupling ∧
    (t.part p).test.written = (s.given (0x1A0001 + p)).getD (s.part p).test.written ∧
    (t.part p).cal.written = (s.given (0x1A1001 + p)).getD (s.part p).cal.written ∧
    (t.part p).ropePorts = (match s.given (0x16101D + p) with | some v => some v | none => (s.part p).ropePorts)
  routes : ∀ p m, p < 4 → m < 8192 → Table.get 0 (t.part p).routes m =
    (match s.given (0x161019 + p) with | some v => fld v (16 * m + 15) (16 * m) | none => Table.get 0 (s.part p).routes m)
  variants : ∀ p m, p < 4 → m < 256 → Table.get 0 (t.part p).variants m =
    (match s.given (0x181001 + p) with | some v => fld v (256 * m + 255) (256 * m) | none => Table.get 0 (s.part p).variants m)
  ports : ∀ q, q < 8 → (t.port q).en = ((s.given (0x161009 + q)).map (fun v => v.testBit 0)).getD (s.port q).en ∧
    (t.port q).dateline = ((s.given (0x161009 + q)).map (fun v => v.testBit 1)).getD (s.port q).dateline ∧
    (t.port q).state = (match s.given (0x161009 + q) with
      | some v => if v.testBit 0 then .down else .disabled
      | none => (s.port q).state)
  maps : ∀ k c, k < 16 → c < 32 → (t.mem.stack k).applied = (s.mem.stack k).applied ∧ (t.mem.stack k).pending.testBit c =
    (match s.given (0x153001 + k) with
      | some v => v.testBit c && !(s.mem.stack k).applied.testBit c
      | none => (s.mem.stack k).pending.testBit c)
  others : ∀ key d, dictHolds key = true → Table.get d t.dict.defaults key = (s.given key).getD (Table.get d s.dict.defaults key)
  kept : t.dict.vals = s.dict.vals

/-- Suspect sensors after a round: once marked, marked until cleared (R404). -/
def suspectsAfter (s : State) (temps : List Int) : List Nat :=
  (List.range 172).filter (fun n => s.power.suspect.contains n || (newSuspects temps).contains n)

/-! ## Ports -/

/-- Of everything but what leaves the part, `t` differs from `s` at most in port `q`. -/
def OnlyPort (s t : State) (q : Nat) : Prop :=
  { t with ports := [], out := [] } = { s with ports := [], out := [] } ∧ ∀ k, k ≠ q → t.port k = s.port k

/-- Port `q` has left UP (R315): the loss counts, nothing queued or unacknowledged is left, and no operation is outstanding by it. -/
structure PortFell (s t : State) (q : Nat) (next : PortState) : Prop where
  state : (t.port q).state = next
  retrains : (t.port q).retrains = satAdd 16 (s.port q).retrains 1
  empty : (t.port q).egress = [] ∧ (t.port q).sending = [] ∧ (t.port q).replay = [] ∧ (t.port q).resend = []
  ended : ∀ r ∈ (t.part (partOfPort s.mode q)).outstanding, r.2.port ≠ q
  kept : t.mem = s.mem ∧ t.out = s.out ∧ t.nv = s.nv

/-- No request for self-test or calibration of port `q` waits or runs (R387). -/
def NoPortRequest (s : State) (q : Nat) : Prop :=
  (s.part (partOfPort s.mode q)).test.names [9] q = false ∧ (s.part (partOfPort s.mode q)).cal.names [4] q = false

/-! ## The scheduler's turn -/

/-- No boundary of the partition's scheduler is due: it is between steps with nothing to look at, or a step runs. -/
def NoBoundary (s : State) (p : Nat) : Prop :=
  (s.part p).jobs = [] ∧ (s.part p).owed = [] ∧
    ((s.part p).phase = .running ∨ ((s.part p).phase = .idle ∧ (s.part p).slots = [] ∧ (s.part p).wake = false ∧ (s.part p).reqs = []))

/-- No DRAINED request holds a partition (R391). -/
def NoTestHolds (s : State) : Prop := ∀ p, s.drainHeld p = false

/-- No queue has pieces of remote operations that still wait for room (R310). -/
def NoBacklog (s : State) : Prop := ∀ c q, ((s.core c).queue q).backlog = []

/-! ## Saves -/

/-- A core but for the marks that its queues stand at a save boundary. -/
def Core.unmarked (k : Core) : Core :=
  { k with qMx := { k.qMx with stopped := false }, qVec := { k.qVec with stopped := false }, qDma := { k.qDma with stopped := false },
           qSeq := { k.qSeq with stopped := false } }

/-- Of everything but contexts, `t` differs from `s` at most in queues that now stand at their save boundaries (R217). -/
def OnlyStops (s t : State) : Prop :=
  { t with contexts := [], cores := [] } = { s with contexts := [], cores := [] } ∧ ∀ c, (t.core c).unmarked = (s.core c).unmarked

/-! ## Registers -/

/-- A CSGO may begin (R354): no copy runs, 1 to 2,048 blocks inside the bank, an aligned source inside the function's aperture, and the
bank live on no listed core. -/
def CsgoFits (s : State) (fn x v : Nat) : Prop :=
  let t := s.context (funcPart fn) x
  t.csCopy = none ∧ fld v 34 23 ≠ 0 ∧ fld v 22 12 + fld v 34 23 ≤ 2048 ∧ t.csSrc % 64 = 0 ∧
  stackBase s.mode (funcPart fn) ≤ t.csSrc ∧ t.csSrc + 64 * fld v 34 23 ≤ stackBase s.mode (funcPart fn) + stackSpan s.mode ∧
  (s.aperture fn).1 ≤ t.csSrc ∧ t.csSrc + 64 * fld v 34 23 ≤ (s.aperture fn).2 ∧
  ∀ c ∈ bitsBelow 48 t.cores, s.liveBank c (fld v 0 0) = false

/-- BELAY n takes the write (R201, R206): its context is neither SAVED nor HELD, TARGET is no more than the partition has queues, and CTX stays while
arrivals are counted. -/
def BelayTakes (s : State) (p n v : Nat) : Prop :=
  let b := Table.get {} (s.part p).belays n
  (s.context p b.ctx).state ≠ .saved ∧ (s.context p b.ctx).state ≠ .held ∧ fld v 7 0 ≤ 4 * (48 / nParts s.mode) ∧
  (fld v 37 32 = b.ctx ∨ b.arrived = 0)

/-! ## Queues -/

/-- The block that core `c` fetches next (R89). -/
def fetched (s : State) (c : Nat) (r : CoreRun) : BitVec 512 :=
  BitVec.ofNat 512 (leNat (s.mem.bankRead c (kdBank r.kd) (64 * (s.core c).fetch) 64))

/-- Block `b` is at the head of queue `q` of core `c` and may begin: the kernel runs without a fault, no late fault waits, no break fires. -/
structure AtHead (s : State) (c q : Nat) (r : CoreRun) (k : Kernel) (b : BitVec 512) (rest : List (BitVec 512)) : Prop where
  runs : s.running c = some (r, k)
  good : k.fault = none
  cmds : ((s.core c).queue q).cmds = b :: rest
  free : ((s.core c).queue q).run = none
  onTime : ((s.core c).queue q).lateFault = none
  noBreak : s.breakHits r.part r.ctx q (nextCount ((s.core c).queue q).count) (cbTag b) = []

/-- The head command has counted and left its queue, and nothing else of the part has changed. -/
structure LeftQueue (s t : State) (c q : Nat) (r : CoreRun) (rest : List (BitVec 512)) : Prop where
  left : ((t.core c).queue q).cmds = rest ∧ ((t.core c).queue q).run = none ∧ ((t.core c).queue q).count = nextCount ((s.core c).queue q).count
  queues : ∀ j, j < 4 → j ≠ q → (t.core c).queue j = (s.core c).queue j
  core : (t.core c).acc = (s.core c).acc ∧ (t.core c).vregs = (s.core c).vregs ∧ (t.core c).kflags = (s.core c).kflags ∧
    (t.core c).streams = (s.core c).streams ∧ (t.core c).spool = (s.core c).spool
  cores : ∀ d, d ≠ c → t.core d = s.core d
  context : (t.context r.part r.ctx).state = (s.context r.part r.ctx).state ∧
    (t.context r.part r.ctx).kernel.map Kernel.fault = (s.context r.part r.ctx).kernel.map Kernel.fault
  kept : t.mem = s.mem ∧ t.out = s.out ∧ t.nv = s.nv ∧ t.parts = s.parts ∧ t.engines = s.engines ∧ t.ports = s.ports ∧ t.host = s.host

/-- Lane flags of a kernel: the OR over its cores (R55, R104). -/
def flagsOf (s : State) (k : Kernel) : LaneFlags :=
  (bitsBelow 48 (kdCores k.kd)).foldl (fun a c => a ||| (s.core c).kflags) 0

/-! ## Engine commands -/

/-- Queue `q` of core `c` runs an issued command of opcode `op` with one iteration of its nest to go, under kernel run `r`. -/
structure AtLastIteration (s : State) (c q op : Nat) (r : CoreRun) (iss : Issued) : Prop where
  runs : ∃ k, s.running c = some (r, k)
  cmd : ((s.core c).queue q).run = some iss
  issued : iss.issued = true
  opcode : cbOp iss.block = op
  last : nIters (nCounts iss.nest (s.core c).params) = iss.iter + 1

/-- The last iteration of a command's work, as its engine takes it up (R98): the core's new state and the piece's effects on memory. -/
def lastWork (s : State) (c q : Nat) (r : CoreRun) (iss : Issued) (ops : List Opn)
    (work : Env → Core → Issued → List Opn → Nat → Wk → Core × Wk) : Core × Wk :=
  let p := work (s.env c q r) (s.core c) iss ops iss.iter
    { mem := s.mem, flags := flagIf (takesNull iss.block ((s.core c).entries iss.block)) flagIDX }
  (p.1, p.2.send (s.env c q r))

/-- `cmd` on `s` completes a command of opcode `op` at its last iteration: its entries leave the stream, its work takes effect, it retires. -/
def NestCompletesAt (s : State) (cmd : Instr) (c q op : Nat) (noIndex : Bool)
    (work : Env → Core → Issued → List Opn → Nat → Wk → Core × Wk) : Prop :=
  ∀ (r : CoreRun) (iss : Issued) (ops : List Opn), AtLastIteration s c q op r iss →
    bindOps (fun _ o => addrsOk (s.env c q r) ((s.env c q r).allowed s.mem) o) iss.block iss.descs noIndex ((s.core c).entries iss.block) = .ok ops →
    (lastWork s c q r iss ops work).2.good = true → (lastWork s c q r iss ops work).2.part = false →
    exec cmd s = .next (((((s.setCore c ((lastWork s c q r iss ops work).1.dropEntries (cbStream iss.block) (boundOps iss.block).length)).absorb c q r
      (cbTag iss.block) (lastWork s c q r iss ops work).2).updQueue c q (fun k => { k with landing := [] })).retire c q r))

def NestCompletes (cmd : Instr) (c q op : Nat) (noIndex : Bool)
    (work : Env → Core → Issued → List Opn → Nat → Wk → Core × Wk) : Prop :=
  ∀ s : State, NestCompletesAt s cmd c q op noIndex work

/-- `cmd` completes the stream of the one slot that generates, at its last iteration (R97). -/
def SeqCompletes (cmd : Instr) (c op : Nat) (mk : EntryMaker) : Prop :=
  ∀ (s : State) (r : CoreRun) (k : Kernel) (i : Nat) (g : Issued), s.running c = some (r, k) → i < 16 →
    ((s.core c).stream i).gen = some g → cbOp g.block = op → nIters (nCounts g.nest (s.core c).params) = g.iter + 1 →
    ((s.core c).stream i).entries.length < 64 → (∀ j, j ≠ i → Table.has (s.core c).streams j = false) →
    ((s.core c).queue 3).cmds = [] → ((s.core c).queue 3).run = none → (mk s (s.env c 3 r) g g.iter { mem := s.mem }).2.good = true →
    ∃ t, exec cmd s = .next t ∧
      ((t.core c).stream i).entries = ((s.core c).stream i).entries ++ [(mk s (s.env c 3 r) g g.iter { mem := s.mem }).1] ∧
      ((t.core c).stream i).gen = none ∧ (t.core c).acc = (s.core c).acc ∧ (t.core c).vregs = (s.core c).vregs ∧
      t.mem = (mk s (s.env c 3 r) g g.iter { mem := s.mem }).2.mem

/-! ## Stack commands -/

/-- The engine's record of a command that core `c` forwards: the DMA queue's running command and its core's parameters (R166, R167). -/
def forwardedCmd (s : State) (c : Nat) (r : CoreRun) (iss : Issued) : StkCmd :=
  { core := c, part := r.part, ctx := r.ctx, kid := (match (s.context r.part r.ctx).kernel with | some k => kdKid k.kd | none => 0)
    count := ((s.core c).queue 2).count, iss := { iss with iter := 0 }, params := (s.core c).params }

/-- Core `c` completes the forwarding of a STK command of one iteration: the command joins the core's sub-queue of the named stack with every
stream entry it binds, the entries leave their slot, and the DMA queue goes on. -/
def ForwardCompletesAt (s : State) (cmd : Instr) (c op : Nat) : Prop :=
  ∀ (r : CoreRun) (iss : Issued), AtLastIteration s c 2 op r iss → iss.iter = 0 → ((s.core c).queue 2).lateFault = none →
    ((s.engine (stkStack iss.block)).sub c).length < 32 →
    ((s.engine (stkStack iss.block)).sub c).all (fun x => x.count != ((s.core c).queue 2).count || x.core != c) = true →
    (s.engine (stkStack iss.block)).active.all (fun a => a.2.cmd.count != ((s.core c).queue 2).count || a.2.cmd.core != c) = true →
    ((s.engine (stkStack iss.block)).sub c).all (fun x => x.core == c) = true →
    (boundOps iss.block).length ≤ ((s.core c).entries iss.block).length →
    ∃ t, exec cmd s = .next t ∧
      (t.engine (stkStack iss.block)).sub c = (s.engine (stkStack iss.block)).sub c ++
        [{ forwardedCmd s c r iss with entries := ((s.core c).entries iss.block).take (boundOps iss.block).length, whole := true }] ∧
      (t.engine (stkStack iss.block)).active.map Prod.fst = (s.engine (stkStack iss.block)).active.map Prod.fst ∧
      (∀ k, k ≠ stkStack iss.block → t.engine k = s.engine k) ∧ ((t.core c).queue 2).run = none ∧
      ((t.core c).queue 2).cmds = ((s.core c).queue 2).cmds.drop 1 ∧ (t.core c).acc = (s.core c).acc ∧ (t.core c).vregs = (s.core c).vregs ∧
      t.mem = s.mem ∧ t.out = s.out ∧ ∀ d, d ≠ c → t.core d = s.core d

def ForwardCompletes (cmd : Instr) (c op : Nat) : Prop := ∀ s : State, ForwardCompletesAt s cmd c op

/-- The command of `area` in the engine of stack `k` is prepared as `sp` with its record `a` there, has one work unit of `n` left and the lanes it
needs, and its class S drogue pause has expired (R168, R170). -/
structure AtLastUnit (s sp : State) (k area op : Nat) (a0 a : ActiveCmd) (n : Option Nat) : Prop where
  active : (s.engine k).act area = some a0
  opcode : cbOp a0.cmd.iss.block = op
  works : a0.done = false ∧ a0.fault = none
  prepared : (sp.engine k).act area = some a
  last : n = some (a.cmd.iss.iter + 1)
  slice : (sp.engine k).mayCompute area = true
  paused : (sp.engine k).pause = 0 ∨ (sp.engine k).pauseOver = true
  whole : a.cmd.whole = true ∧ a.fault = none

/-- The slice is the command's, where it needs the lanes (R168). -/
def inSlice (sp : State) (k area : Nat) (a : ActiveCmd) : State :=
  if a.usesLanes then sp.updEngine k (fun g => { g with sliceArea := area }) else sp

/-- The work unit that the command does next: the part, the command and the memory work after it. -/
def nextUnit (sp : State) (k area : Nat) (a : ActiveCmd) (f : StkUnit) : State × ActiveCmd × Wk :=
  let s := inSlice sp k area a
  let x := f s (s.stkEnv a.cmd) k a a.cmd.iss.iter
  (x.1, x.2.1, x.2.2.send (s.stkEnv a.cmd))

/-- The command once the unit has run: it stands behind it, and keeps its index-range flag for its completion (R55). -/
def afterUnit (a : ActiveCmd) (x : State × ActiveCmd × Wk) : ActiveCmd :=
  { x.2.1 with flags := x.2.1.flags ||| (x.2.2.flags &&& flagIDX)
               cmd := { x.2.1.cmd with iss := { x.2.1.cmd.iss with iter := a.cmd.iss.iter + 1 } } }

/-- A command of opcode `op` that is active at stack `k` does its last work unit whole, and is then done: what it read and wrote counts, its
index-range flag is kept for its completion, and its slice passes on. A unit that faults stops it with that status and the command is not
done (R167, R168, R185). -/
def UnitCompletes (op : Nat) (cmd : Nat → Nat → Instr) (prep : Nat → Nat → State → ActiveCmd → State)
    (total : Nat → Nat → State → ActiveCmd → Option Nat) (f : StkUnit) : Prop :=
  ∀ (s : State) (k area : Nat) (a0 a : ActiveCmd),
    AtLastUnit s (prep k area s a0) k area op a0 a (total k area (prep k area s a0) a) →
    ((nextUnit (prep k area s a0) k area a f).2.2.good = true →
      exec (cmd k area) s = .next ((((nextUnit (prep k area s a0) k area a f).1.stkTake a.cmd (nextUnit (prep k area s a0) k area a f).2.2).updAct k area
        (fun _ => afterUnit a (nextUnit (prep k area s a0) k area a f))).updEngine k (fun g => g.afterUnits area a.cmd.iss.iter (a.cmd.iss.iter + 1)))) ∧
    (∀ st, (nextUnit (prep k area s a0) k area a f).2.2.fault = some st →
      ∃ t, exec (cmd k area) s = .next t ∧ ∃ x, (t.engine k).act area = some x ∧ x.fault = some st ∧ x.done = false)

/-- Active commands that wait for a page's walk (R183). -/
def walkWaits (slot layer page : Nat) (a : ActiveCmd) : Bool :=
  imm a.cmd.iss.block 43 32 == slot && Table.get .absent a.trans (transKey layer page) == .walking

/-! ## Serving -/

/-- The scheduler may read the next entry of a function's request ring (R283, R284). -/
structure RingHasEntry (s : State) (fn : Nat) : Prop where
  live : s.isLive = true
  link : s.host.link = .up
  func : s.hasFunc fn = true
  enabled : ringEn (s.func fn).rq.cfg = true
  goesOn : s.aborting fn = false
  waits : (s.func fn).rq.head ≠ (s.func fn).rq.tail

/-- The part after the scheduler has read a request entry (R284). -/
def requestRead (s : State) (fn : Nat) (entry : BitVec 1024) : State :=
  ((s.hostGet (ringGet fn) (funcPart fn) fn (ringAddr (s.func fn).rq.cfg (s.func fn).rq.head) 128).updFunc fn (fun f =>
    { f with rq := { f.rq with head := (f.rq.head + 1) % 2 ^ 32 } })).updPart (funcPart fn) (fun t => { t with reqs := t.reqs ++ [⟨fn, entry⟩] })

/-- The scheduler's read of the next record of KLIST (R279). -/
def stepRecord (s : State) (p : Nat) : List Byte × Wk :=
  Wk.read (s.partEnv p) { mem := s.mem } ((s.part p).kaddr + 64 * (s.part p).kidx) 64

/-- The pieces of the boundary of an ended step, in their order (R289): the commits of its entries, the cancels that name no sequence of the
step, the disables, the other requests ring by ring, and the assembly of the next step. -/
def boundaryPieces (s : State) (p : Nat) : List Job :=
  let l := (s.part p).batch
  ((List.range l.length).zip l).map (fun v => Job.commit v.1 v.2 ((s.cancelled p).contains v.2.slot)) ++ [.stepOver] ++
  (stepCancels (l.map BatchEntry.slot) [] ((s.taken p).map (fun r => (r, s.namesOwn p r.fn r.entry.toNat)))).map Job.cancel ++
  [.lateCancels, .disabled] ++ ((s.taken p).filter (fun r => rqOp r.entry.toNat != 2)).map Job.request ++
  [.settle, .rejoins, .hostParks, .returns, .publish, .budgets, .assemble, .last]

/-- The boundary of an ended step has begun in `u`, and none of its pieces has run (R184, R278, R286, R289). -/
structure BoundaryBegun (s u : State) (p d : Nat) : Prop where
  steps : (u.part p).steps = (s.part p).steps + 1
  phase : (u.part p).phase = .boundary ∧ (u.part p).wake = false
  pieces : (u.part p).jobs = boundaryPieces s p ∧ (u.part p).reqs = []
  enable : (u.part p).srvEn = ((s.part p).srvEn && !(s.part p).srvOff) ∧ (u.part p).srvOff = false
  taken : (u.part p).batch = (s.part p).batch ∧ (u.part p).stepFault = (s.part p).stepFault ∧ (u.part p).bndCycles = d % 2 ^ 32
  lookaside : ∀ k ∈ partStacks s.mode p, (u.engine k).lab = []
  kept : u.contexts = s.contexts ∧ ∀ c, (u.core c).run = (s.core c).run

/-! ## The dictionary -/

/-- A well-formed request reaches the dictionary, which takes it at once and has no kept response to its SEQ (R372, R376, R382). -/
structure RequestArrives (s : State) (who : Requester) (msg : List Byte) : Prop where
  wellFormed : malformed (!isPort who) msg = false
  on : s.dictOn = true
  idle : s.dict.flash = none
  path : ∀ fn, who = .mailbox fn → s.doeReach fn = true
  fresh : s.dict.lasts.find? (fun x => x.1 == who && x.2.1 == (parseMsg msg).seq) = none

/-- The part once a request has been counted: the port counts its requests (R376). -/
def counted (s : State) (who : Requester) : State :=
  if isPort who then { s with dict := { s.dict with requests := satAdd 32 s.dict.requests 1 } } else s

/-- The request in `msg` is answered with `result` and `payload` in state `t`. -/
def answeredWith (t : State) (who : Requester) (msg : List Byte) (result : Nat) (payload : List Byte) : State :=
  t.answer who (parseMsg msg).seq (dictReply (parseMsg msg) result payload)

/-- What a READ of a window of an object is answered with (R378): its size as a U32 for LENGTH 0, LENGTH for an offset at or past its end, else at
most 1,024 bytes from the offset. -/
structure WindowIs (obj : List Byte) (m : DictMsg) (result : Nat) (bytes : List Byte) : Prop where
  size : m.len = 0 → result = rOK ∧ bytes = leBytes 4 obj.length
  past : m.len ≠ 0 → obj.length ≤ m.offset → result = rLENGTH ∧ bytes = []
  inside : m.len ≠ 0 → m.offset < obj.length → result = rOK ∧ bytes = (obj.drop m.offset).take (min m.len (min 1024 (obj.length - m.offset)))

/-- A READ of subindex `sub` of row `r` reaches its entry, which exists in the part's mode (R370, R371, R378). -/
structure ReadReaches (s : State) (who : Requester) (msg : List Byte) (r : Row) : Prop where
  arrives : RequestArrives s who msg
  read : (parseMsg msg).op = 1 ∧ (parseMsg msg).sub ≠ 0
  row : rowOf (parseMsg msg).index (parseMsg msg).sub = some r
  present : r.missing s.mode ((parseMsg msg).sub - r.lo) = false

/-- The object that a READ of row `r` names, as it is now. -/
def namedObject (s : State) (who : Requester) (msg : List Byte) (r : Row) : List Byte :=
  (counted s who).object who r.index r.lo ((parseMsg msg).sub - r.lo)

/-- The part once the requester's snapshot is gone, or `snap` is its newest (R380). -/
def snapped (s : State) (who : Requester) (snap : Option Staging) : State :=
  { counted s who with dict := { (counted s who).dict with snaps := match snap with
      | some x => renew s.dict.snaps who x
      | none => s.dict.snaps.filter (fun x => x.1 != who) } }

/-- A WRITE of subindex `sub` of `index` reaches the rule of its entry `r`: the part is live, the entry exists, the path may write it, and the
partitions that an RWS entry concerns are free (R360, R371, R378, R381). -/
structure WriteReaches (s : State) (who : Requester) (msg : List Byte) (index sub : Nat) (r : Row) : Prop where
  arrives : RequestArrives s who msg
  live : s.isLive = true
  write : (parseMsg msg).op = 2 ∧ (parseMsg msg).index = index ∧ (parseMsg msg).sub = sub
  row : rowOf index sub = some r
  present : r.missing s.mode (sub - r.lo) = false
  writable : r.acc ≠ .ro ∧ r.acc ≠ .const
  allowed : mayWrite s.mode who r (sub - r.lo) = true
  free : r.acc = .rws → s.rwsFree r (sub - r.lo) = true
  named : sub ≠ 0

/-- The same of a scalar whose payload has its width. -/
structure ScalarReaches (s : State) (who : Requester) (msg : List Byte) (index sub : Nat) : Prop where
  at_ : ∃ r n, WriteReaches s who msg index sub r ∧ r.ty = .num n ∧ (parseMsg msg).payload.length = n

/-- The same of an object written whole in one window. -/
structure ObjectReaches (s : State) (who : Requester) (msg : List Byte) (index sub : Nat) : Prop where
  at_ : ∃ r max, WriteReaches s who msg index sub r ∧ r.ty = .dom max ∧ (parseMsg msg).payload.length ≤ max
  whole : (parseMsg msg).offset = 0 ∧ (parseMsg msg).last = true

/-- The value that a message brings. -/
def msgValue (msg : List Byte) : Nat := leNat (parseMsg msg).payload

/-- `cmd` writes instance `i` of scalars `lo` to `lo + n - 1` of an index: where `ok` holds of the part, requester, instance and value, it has the
effect `eff` and is answered OK. -/
def ScalarTakes (cmd : Requester → List Byte → Instr) (index lo n : Nat) (ok : State → Requester → Nat → Nat → Prop)
    (eff : State → Nat → Nat → State) : Prop :=
  ∀ (s : State) (who : Requester) (msg : List Byte) (i : Nat), i < n → ScalarReaches s who msg index (lo + i) → ok s who i (msgValue msg) →
    exec (cmd who msg) s = .next (answeredWith (eff (counted s who) i (msgValue msg)) who msg rOK [])

/-- The same of an object; its bytes are the payload. -/
def ObjectTakes (cmd : Requester → List Byte → Instr) (index lo n : Nat) (ok : State → Requester → Nat → List Byte → Prop)
    (eff : State → Requester → Nat → List Byte → State) : Prop :=
  ∀ (s : State) (who : Requester) (msg : List Byte) (i : Nat), i < n → ObjectReaches s who msg index (lo + i) → ok s who i (parseMsg msg).payload →
    exec (cmd who msg) s =
      .next (answeredWith (eff ((counted s who).updRequester who (fun q => { q with staging := none })) who i (parseMsg msg).payload) who msg rOK [])

/-- The same of a stored entry: it takes its value, and the answer waits for flash, the base image sealed around it, with the value before (R33, R34). -/
def StoredTakes (cmd : Requester → List Byte → Instr) (index lo n : Nat) (ok : State → Requester → Nat → Nat → Prop)
    (eff : State → Nat → Nat → State) (old : State → Nat → Nat) (grade : State → Nat → Option (Nat × Nat)) : Prop :=
  ∀ (s : State) (who : Requester) (msg : List Byte) (i : Nat), i < n → ScalarReaches s who msg index (lo + i) → ok s who i (msgValue msg) →
    ∃ t, exec (cmd who msg) s = .next t ∧ t = { (eff (counted s who) i (msgValue msg)).sealBase with dict := { (eff (counted s who) i (msgValue msg)).dict with
      flash := some { who := who, seq := (parseMsg msg).seq, answer := dictReply (parseMsg msg) rOK [], key := 256 * index + (lo + i), old := old s i
                      grade := grade s (msgValue msg) } } }

/-! ## Self-test and calibration -/

/-- A request for `item` of partition `p` may be taken: its reserved bits are clear, no other request of the kind or sanitise is under way, the
unit is the partition's, and an item that needs DRAINED asks for it (R387, R388, R391, R429). -/
structure MayTest (s : State) (p : Nat) (cal : Bool) (item v : Nat) (k : UnitKind) : Prop where
  named : tqItem v = item
  kind : itemKind cal item = some k
  clear : fld v 63 22 = 0 ∧ fld v 15 9 = 0
  idle : (s.tu p cal).state ≠ 1 ∧ (s.tu p cal).state ≠ 2 ∧ s.sanitising p = false
  unit : unitOk s.mode p k (tqUnit v) = true
  drained : itemDrainedOnly cal item = true → tqDrained v = true
  closed : cal = false → item = 7 → s.slotOpen p = false

/-- `cmd` asks for `item` of self-test or calibration: the request waits, with nothing of an earlier one kept, and its piece starts where its unit
is idle. -/
def TestRequested (cmd : Requester → List Byte → Instr) (cal : Bool) (item : Nat) : Prop :=
  ∀ (s : State) (who : Requester) (msg : List Byte) (p : Nat) (k : UnitKind), p < 4 →
    ScalarReaches s who msg (if cal then 0x1A10 else 0x1A00) (1 + p) → MayTest s p cal item (msgValue msg) k →
    ((parseMsg msg).payload.headD 0).toNat = item →
    exec (cmd who msg) s = .next (answeredWith
      (((counted s who).updTu p cal (fun _ => { request := msgValue msg, written := msgValue msg, state := 1 })).startPiecesIdle p) who msg rOK [])

/-- A piece of a running request has ended on unit `u` (R390): what runs is held, or a die's sensors. -/
structure PieceRuns (s : State) (p : Nat) (cal : Bool) (k : UnitKind) : Prop where
  live : s.isLive = true
  part : p < nParts s.mode
  kind : itemKind cal (tqItem (s.tu p cal).request) = some k
  runs : (s.tu p cal).state = 2
  held : tqDrained (s.tu p cal).request = true ∨ k = .die ∨ s.unitHeld k (tqUnit (s.tu p cal).request) = true

/-! ## Sanitise -/

/-- Steps 3 and 4 of R430 in `t`: cores, stack engines and registers of partition `p` hold nothing of `s`; counters of use and feature
acceptance are kept. -/
structure PartCleared (s t : State) (p : Nat) : Prop where
  scratch : ∀ c ∈ partCores s.mode p, ∀ off, t.mem.scratchRead c off 1 = [0] ∧ t.mem.bankRead c 0 off 1 = [0] ∧ t.mem.bankRead c 1 off 1 = [0]
  cores : ∀ c ∈ partCores s.mode p, (t.core c).vregs = [] ∧ (t.core c).vbase = none ∧ (t.core c).w0 = none ∧ (t.core c).w1 = none ∧
    (t.core c).active = none ∧ (t.core c).preload = false ∧ (t.core c).acc = [] ∧ (t.core c).spool = {} ∧ (t.core c).qVec.coal = [] ∧
    (t.core c).lastUse = .none
  engines : ∀ k ∈ partStacks s.mode p, (t.engine k).lab = [] ∧ (t.engine k).table = [] ∧ (t.engine k).queue = [] ∧
    ∀ a ∈ (t.engine k).active, a.2.coal = []
  belays : (t.part p).belays = []
  contexts : ∀ x, x < ctxPer s.mode → (t.context p x).en = false ∧ (t.context p x).prio = 0 ∧ (t.context p x).status = 0 ∧
    (t.context p x).saves = 0 ∧ (t.context p x).cores = 0 ∧ (t.context p x).save = 0 ∧ (t.context p x).units = 0x20 ∧
    (t.context p x).saveCycles = 0 ∧ (t.context p x).restoreCycles = 0 ∧ (t.context p x).stateCode = 0 ∧ (t.context p x).pending = none
  cache : (t.part p).kvgeom = 0 ∧ (t.part p).kvptb = 0 ∧ (t.part p).kvframes = 0 ∧ (t.part p).kvgrans = 0 ∧ (t.part p).freeFrames = 0 ∧
    (t.part p).freeGrans = 0 ∧ (t.part p).pdbase = 0 ∧ (t.part p).evictions = 0 ∧ (t.part p).collisions = 0 ∧ (t.part p).bivbase = 0 ∧
    (t.part p).bivsize = 0 ∧ (t.part p).ropecfg = 0
  serving : (t.part p).chunkmax = 0 ∧ (t.part p).rowsmax = 0 ∧ (t.part p).seqmax = 0 ∧ (t.part p).srvCtx = 0 ∧ (t.part p).srvEn = false ∧
    (t.part p).klist = 0 ∧ (t.part p).bdbase = 0 ∧ (t.part p).steps = 0 ∧ (t.part p).lastFault = 0 ∧ (t.part p).phase = .idle ∧
    (t.part p).bndCycles = 0 ∧ (t.part p).runPeriods = 0
  budgets : (t.part p).dir = [] ∧ (t.part p).variants = [] ∧ (t.part p).balance = [] ∧ (t.part p).refill = [] ∧
    fld (t.dictVal 0x1800 4 0) (32 * identsPer s.mode * (p + 1) - 1) (32 * identsPer s.mode * p) = 0
  kept : (t.part p).accounts = (s.part p).accounts ∧ (t.part p).accept0 = (s.part p).accept0 ∧ (t.part p).accept1 = (s.part p).accept1 ∧
    t.host = s.host ∧ t.out = s.out

/-- The certificate of a sanitise that `s` asked for, with its signature, where the ledger then holds `n` records (R431). -/
structure CertifiedBy (s t : State) (p n : Nat) (c : List Byte) : Prop where
  stored : (t.part p).sanitise.cert = c ++ fit 0 384 (Config.identitySignature c)
  length : c.length = 256
  result : (t.part p).sanitise.result = (if (partStacks s.mode p).any (fun k => !(t.mem.stack k).unwritten.isEmpty) then 1 else 0)
  head : c.take 8 = leBytes 8 (0x53C1 + 2 ^ 16 + 2 ^ 24 * p + 2 ^ 26 * s.mode + 2 ^ 28 * (t.part p).sanitise.result +
    2 ^ 32 * ((partStacks s.mode p).map (2 ^ ·)).sum)
  serial : (c.drop 8).take 16 = fit 0 16 s.nv.serial
  asked : (c.drop 24).take 40 = leBytes 8 (s.part p).sanitise.pattern ++ leBytes 32 (s.part p).sanitise.nonce
  when_ : (c.drop 64).take 28 = leBytes 8 n ++ leBytes 4 s.nv.starts ++ leBytes 8 (s.part p).sanitise.begun ++ leBytes 8 s.start.periods
  written : (c.drop 92).take 8 = leBytes 8 (((partStacks s.mode p).map (fun k => 32 - (t.mem.stack k).unwritten.length)).sum * 2 ^ 31)
  unwritten : ∀ k, k < 16 → (c.drop (100 + 4 * k)).take 4 =
    leBytes 4 (if k ∈ partStacks s.mode p then ((t.mem.stack k).unwritten.map (2 ^ ·)).sum else 0)
  rest : c.drop 164 = List.replicate 92 0

/-! ## Boundary scan -/

/-- A scan with instruction `i` in die `d` (R440): the die's register takes it, every die's data register leaves on TDO, I1's first, and the
dies that hold an instruction of the EXTEST kind drive their balls while RESET_N is low; no bit of the part's memories or flash changes. -/
structure Scans (i : TapInstr) (d : Nat) (s t : State) : Prop where
  ir : ∀ e, Table.get .idcode t.jtag.ir e = if e = d then i else Table.get .idcode s.jtag.ir e
  out : t.out = s.out ++ [5, 3, 2, 1, 0, 4].map (fun e => Out.tdo e ((s.tap d i).dataReg e).1 ((s.tap d i).dataReg e).2)
  drive : ∀ e, e ∈ t.jtag.driving ↔ s.start.resetN = false ∧ e < 6 ∧
    (Table.get .idcode t.jtag.ir e = .extest ∨ Table.get .idcode t.jtag.ir e = .extestPulse ∨ Table.get .idcode t.jtag.ir e = .extestTrain)
  mem : t.mem = { s.mem with fresh := s.mem.fresh + 1 }
  nv : t.nv = s.nv

/-! ## Attestation -/

/-- `cmd` answers an SPDM request of code `op` (R421): in its order with its body and what the chapter fixes of it, else with an ERROR; on the
management port the response is kept, at a PF's mailbox it is sent with an interrupt. -/
def SpdmAnswers (cmd : Requester → List Byte → Instr) (op : Nat) : Prop :=
  (∀ (s : State) (who : Requester) (msg : List Byte) (fn : Nat), who = .mailbox fn → s.reachPf fn = true → s.sec.inOrder who op = true →
    spdmNames op msg = true →
    exec (cmd who msg) s = .next (({ s with sec := s.sec.after who op }.emit (.spdm who (Config.spdmBody op msg ++ s.spdmPayload op msg))).irq fn 3)) ∧
  (∀ (s : State) (who : Requester) (msg : List Byte) (fn : Nat), who = .mailbox fn → s.reachPf fn = true →
    (s.sec.inOrder who op = false ∨ spdmNames op msg = false) →
    exec (cmd who msg) s = .next ((s.emit (.spdm who (Config.spdmBody spdmERROR msg))).irq fn 3))

/-- The same at the management port, where a request of no session is answered and its response kept. -/
def SpdmKept (cmd : Requester → List Byte → Instr) (op : Nat) : Prop :=
  ∀ (s : State) (a u : Nat) (msg : List Byte), s.isLive = true →
    exec (cmd (.port a u) msg) s = .next (if s.sec.inOrder (.port a u) op && spdmNames op msg then
      { s with sec := s.sec.after (.port a u) op }.updRequester (.port a u) (fun q => { q with spdm := Config.spdmBody op msg ++ s.spdmPayload op msg })
    else s.updRequester (.port a u) (fun q => { q with spdm := Config.spdmBody spdmERROR msg }))

end Sys2Proof.Machine
end

