-- ==== Sys2Proof/Certificates/Slice0/Obligations.lean ====
section
/-! DEFINITION. The statements about the part: what each command does on the states where it has its effect, what it leaves
unchanged, and what no command breaks. -/

open Sys2Proof Sys2Proof.Machine

/-! ## The block (chapters 00, 01) -/

/-- The command at the front of the queue runs with the queue's rest; on an empty queue the block idles (the model's own
form of a block, log 17). -/
def Obligations.StepRunsTheFrontCommand : Prop :=
  (∀ (c : Instr) (rest : List Instr) (s : State), step { s with pending := c :: rest } = exec c { s with pending := rest }) ∧
  ∀ s : State, step { s with pending := [] } = .next { s with pending := [] }

/-- As delivered the part is held in reset, nothing waits and nothing has left it; its memories have their canonical form and
its ledger holds the GENESIS record alone (R425; the form of the memories is the model's own). -/
def Obligations.ResetHoldsTheFormOfMemoryAndLedger : Prop :=
  Memory.wf State.reset.mem = true ∧ ledgerOk State.reset.nv.cairn ∧ State.reset.nv.cairn.map (fun r => (r.seq, r.type)) = [(0, 1)] ∧
  State.reset.start.phase = .held ∧ State.reset.pending = [] ∧ State.reset.out = []

/-- The ledger is append-only and chained: whatever command runs, its records stay, and a ledger of the form stays one (R424). -/
def Obligations.EveryStepKeepsTheLedger : Prop :=
  ∀ s t : State, step s = .next t → s.nv.cairn <+: t.nv.cairn ∧ (ledgerOk s.nv.cairn → ledgerOk t.nv.cairn)

/-- Every command keeps the canonical form of every memory: equal memories stay equal data. -/
def Obligations.EveryStepKeepsTheMemoryForm : Prop :=
  ∀ s t : State, step s = .next t → Memory.wf s.mem = true → Memory.wf t.mem = true

/-- Every command answers a next state, but a rail beyond its absolute maximum (R441); and what no command undoes: the fused identity stays, the
security floor and the count of starts never fall, what has left the part stays sent, and no command touches the commands that wait behind it. That a
command whose condition does not hold goes on, and changes nothing, is the model's choice (log 16). -/
def Obligations.NoCommandUndoesFusesOrOutputs : Prop :=
  (∀ (c : Instr) (s : State), (∀ rail, c ≠ .railFault ⟨rail, true⟩) → ∃ t, exec c s = .next t) ∧
  (∀ (c : Instr) (s t : State), exec c s = .next t →
    t.pending = s.pending ∧ s.out <+: t.out ∧ t.nv.serial = s.nv.serial ∧ t.nv.rootKeyHash = s.nv.rootKeyHash ∧
    s.nv.svnFloor ≤ t.nv.svnFloor ∧ s.nv.starts ≤ t.nv.starts)

/-! ## Start (chapter 17) -/

/-- COLD_START and RAIL_RETURN reach step 1 (R341, R393, R398): the dies leave reset with nothing in them, each stack has no buffered line, log, remap
word, counter or failed channel and its applied map-outs; the count of starts and the clock grade move on; stored map-outs and what has left stay.
That the start is counted at step 1, and that a shutdown is held where SHDN_REQ_N is low then, are the model's readings (log 33). -/
def Obligations.StartBeginsWithNothingKept : Prop :=
  ((∀ s : State, s.start.phase = .held → s.start.railsOk = true → ∃ t, exec .coldStart s = .next t ∧ t.jtag.driving = [] ∧ StartBegun s t) ∧
   (∀ s : State, s.start.phase = .held → s.start.railsOk = false →
     ∃ t, exec .coldStart s = .next t ∧ t.start.phase = .railLow ∧ t.start.resetN = true ∧ t.start.cause = 1 ∧ t.start.stage = s.start.stage ∧
       t.nv = s.nv ∧ t.mem = s.mem) ∧
   (∀ s : State, s.start.phase = .railLow → s.start.railsOk = false → ∃ t, exec .railReturn s = .next t ∧ t.jtag = s.jtag ∧ StartBegun s t)) ∧
  (∀ s : State, s.start.phase = .held → s.start.railsOk = true → ∃ t, exec .coldStart s = .next t ∧
     ∀ k, (t.mem.stack k).wc = [] ∧ (t.mem.stack k).ceLog = [] ∧ (t.mem.stack k).remap = [] ∧
       (t.mem.stack k).ceCount = 0 ∧ (t.mem.stack k).ueCount = 0 ∧ (t.mem.stack k).tetherRetries = 0 ∧ (t.mem.stack k).remapFull = 0 ∧
       (t.mem.stack k).logOverflow = 0 ∧ (t.mem.stack k).poisonMerges = 0 ∧ (t.mem.stack k).lastUe = 0 ∧
       (t.mem.stack k).failed = 0 ∧ (t.mem.stack k).hotRefresh = false ∧ (t.mem.stack k).applied = (s.mem.stack k).applied ∧
       (t.mem.stack k).pending = (s.mem.stack k).pending ∧ (t.mem.stack k).bytes = [] ∧ (t.mem.stack k).fills = [] ∧ (t.mem.stack k).marks = [])

/-- After every start every step is 0, no sensor is suspect and every counter is zero: no governor or sensor state is left; a
housekeeping round acts only after stage 2 and changes nothing before (R415). -/
def Obligations.GovernorAfterStart : Prop :=
  (∀ s : State, s.start.phase = .held → s.start.railsOk = true → ∃ t, exec .coldStart s = .next t ∧ t.power = {} ∧
    t.power.nA = 0 ∧ t.power.nS = 0 ∧ (∀ d, Table.get 0 t.power.tA d = 0 ∧ Table.get 0 t.power.tS d = 0) ∧ t.power.suspect = [] ∧
    t.power.capRounds = 0 ∧ t.power.rounds = 0) ∧
  (∀ s : State, s.start.phase = .railLow → s.start.railsOk = false → ∃ t, exec .railReturn s = .next t ∧ t.power = {}) ∧
  (∀ (temps : List Int) (rails : List (Nat × Nat)) (s : State), s.start.phase = .done 1 → exec (.housekeepingRound temps rails) s = .next s) ∧
  (∀ (temps : List Int) (rails : List (Nat × Nat)) (s : State) (n : Nat), s.start.phase = .done n → 2 ≤ n → temps.length = 172 → rails.length = 42 →
    ∃ t, exec (.housekeepingRound temps rails) s = .next t ∧ t.power.raw = temps ∧ t.power.rails = rails)

/-- Stages 2 to 4 of a start (R32, R34, R393, R395, R398, R402): every PLL locks; the active image that verifies runs, else the other one, as a
fallback; where both configuration images hold what their hashes say, every entry takes the overlay's value, else the base image's, else its default,
as TakesDefaults lists them; a stage that fails stops the start there, and a held shutdown is done. The bytes over which the base image's hash is
taken, and that of the stored entries an overlay gives ROLE and PENDING alone, are the model's (log 33). -/
def Obligations.StartStagesToConfiguration : Prop :=
  ((∀ s : State, s.start.phase = .done 1 → exec .pllLock s = .next { s with start := { s.start with stage := 2, phase := .done 2 } }) ∧
   (∀ s : State, s.start.phase = .done 2 → fwOk s.nv (s.nv.image s.nv.fwActive) = true →
     exec .firmwareBoot s = .next { s with start := { s.start with
       fw := s.nv.image s.nv.fwActive, fwSlot := s.nv.fwActive, fwFallback := false, stoppedAt := false, cause := 0, stage := 3, phase := .done 3 } }) ∧
   (∀ s : State, s.start.phase = .done 2 → fwOk s.nv (s.nv.image s.nv.fwActive) = false → fwOk s.nv (s.nv.image (1 - s.nv.fwActive)) = true →
     exec .firmwareBoot s = .next { s with start := { s.start with
       fw := s.nv.image (1 - s.nv.fwActive), fwSlot := 1 - s.nv.fwActive, fwFallback := true, stoppedAt := false, cause := 0, stage := 3, phase := .done 3 } }) ∧
   (∀ s : State, s.start.phase = .done 3 → sha256 s.baseBytes = s.nv.base.hash → sha256 s.overlay.bytes = s.overlay.hash →
     ∃ t, exec .configImageApply s = .next t ∧ t.start.phase = .done 4 ∧ t.start.stage = 4 ∧ t.start.mode = s.nv.mode ∧
       t.start.imageHash = sha256 (s.baseBytes ++ s.overlay.bytes) ∧ TakesDefaults s t ∧
       { t.nv with base := s.nv.base } = s.nv ∧ t.nv.base.entries = s.nv.base.entries ∧ t.nv.base.bytes = s.nv.base.bytes ∧
       t.cores = s.cores ∧ t.engines = s.engines ∧ t.contexts = s.contexts ∧ t.host = s.host ∧ t.pending = s.pending ∧ t.out = s.out)) ∧
  (∀ (s : State) (index sub dflt : Nat), sub < 256 → dictHolds (256 * index + sub) = true →
     s.start.phase = .done 3 → sha256 s.baseBytes = s.nv.base.hash → sha256 s.overlay.bytes = s.overlay.hash →
     s.dict.defaults = [] → s.dict.vals = [] →
     ∃ t, exec .configImageApply s = .next t ∧ t.dictVal index sub dflt = (s.given (256 * index + sub)).getD dflt) ∧
  ((∀ s : State, s.start.phase = .done 1 → ∃ t, exec .pllLockTimeout s = .next t ∧ StartStopped s t 2) ∧
   (∀ s : State, s.start.phase = .done 2 → fwOk s.nv (s.nv.image s.nv.fwActive) = false → fwOk s.nv (s.nv.image (1 - s.nv.fwActive)) = false →
     ∃ t, exec .firmwareBoot s = .next t ∧ StartStopped s t 3 ∧ t.nv.failMarker = 3) ∧
   (∀ s : State, s.start.phase = .done 3 → (sha256 s.baseBytes ≠ s.nv.base.hash ∨ sha256 s.overlay.bytes ≠ s.overlay.hash) →
     ∃ t, exec .configImageApply s = .next t ∧ StartStopped s t 4))

/-- Stages 5, 8 and 9 (R337, R393, R396, R398): every PENDING map-out is APPLIED, a stack whose link does not train is down, a partition at a failed
spar link is out, ports and CXL link begin to train; DICTIONARY_LIVE appends the start record first, clears the marks and raises START_OK. -/
def Obligations.StartTrainingToStartOk : Prop :=
  ((∀ (s : State) (down : Nat) (lanes : List (Nat × Nat)), s.start.phase = .done 4 →
     ∃ t, exec (.tetherTraining down lanes) s = .next t ∧ t.start.phase = .done 5 ∧ t.start.stage = 5 ∧ { t.nv with base := s.nv.base } = s.nv ∧
       t.nv.base.entries = s.nv.base.entries ∧ t.nv.base.bytes = s.nv.base.bytes ∧
       ∀ k, k < 16 → (t.mem.stack k).applied = (s.mem.stack k).applied ||| (s.mem.stack k).pending ∧
         (t.mem.stack k).down = down.testBit k ∧
         ∀ c, (t.mem.stack k).pending.testBit c = true ↔
           ((k, c) ∈ lanes ∧ c < 32 ∧ down.testBit k = false ∧ ((s.mem.stack k).applied ||| (s.mem.stack k).pending).testBit c = false ∧
             (s.mem.stack k).failed.testBit c = false)) ∧
   (∀ (s : State) (failed : Nat), s.start.phase = .done 5 → ∃ t, exec (.sparTraining failed) s = .next t ∧
     t.start.phase = .done 8 ∧ t.start.stage = 8 ∧ t.nv = s.nv ∧ t.mem = s.mem ∧
     (∀ p, p < 4 → (t.start.partDown.testBit p = true ↔ ∃ u, u < 14 ∧ failed.testBit u = true ∧ sparUsed s.mode u = true ∧ p ∈ sparParts s.mode u)) ∧
     (∀ p, p < 4 → t.start.partDown.testBit p = true → (t.part p).out = true) ∧
     t.host.link = (if s.start.perstN then .training else s.host.link) ∧
     ∀ q, q < 8 → (s.port q).en = true → (s.port q).state = .down → (t.port q).state = .training)) ∧
  (∀ s : State, s.start.phase = .done 8 → s.start.shutdownHeld = false → ∃ t, exec .dictionaryLive s = .next t ∧
     t.start.phase = .live ∧ t.start.stage = 9 ∧ t.start.startOk = true ∧ t.start.periods = 0 ∧
     t.nv.failMarker = 0 ∧ t.nv.lossLatch = false ∧ t.nv.lastMode = s.start.mode ∧
     (s.nv.cairn.length < cairnSlots → ∃ r l, t.nv.cairn = s.nv.cairn ++ r :: l ∧ r.type = 2 ∧ r.start = s.nv.starts) ∧
     t.mem = s.mem ∧ t.cores = s.cores ∧ t.parts = s.parts ∧ t.ports = s.ports ∧ t.host = s.host ∧ t.pending = s.pending ∧ t.out = s.out)

/-! ## Supplies, reset, shutdown, clocks (chapters 01, 17, 20) -/

/-- Supplies, RESET_N and PLLs (R20, R398, R399, R438, R440, R441): a rail that leaves its range, a RESET_N or a PLL that loses lock while the part runs
holds the dies, and the next start reports 2, 5 or 3; SHDN_DONE falls with RESET_N or VDD_MGMT only; dies that hold an EXTEST instruction drive
their balls; with a rail beyond its absolute maximum the part gives no behaviour. That PREV_END 2 comes with the loss that is latched, that rail 5 is
VDD_MGMT (log 33), and that an EXTEST loaded before RESET_N falls drives from then on (log 15) are the model's readings. -/
def Obligations.RailsResetAndPllLossHoldTheDies : Prop :=
  ((∀ (s : State) (rail : Nat), exec (.railFault ⟨rail, true⟩) s = .fault .beyondAbsoluteLimits) ∧
   (∀ (s : State) (rail : Nat), s.start.phase.runs = true → s.start.resetN = true → ∃ t, exec (.railFault ⟨rail, false⟩) s = .next t ∧
     t.start.phase = .railLow ∧ t.start.railsOk = false ∧ t.start.stoppedAt = true ∧ t.start.cause = 1 ∧ t.nv.prevEnd = 2 ∧ t.nv.lossLatch = false ∧
     t.start.shdnDone = (s.start.shdnDone && rail != 5) ∧ t.jtag.driving = s.jtag.driving ∧ DiesHeld s t) ∧
   (∀ s : State, s.start.phase.runs = true → s.start.resetN = true → ∃ t, exec .resetAssert s = .next t ∧
     t.start.phase = .held ∧ t.start.resetN = false ∧ t.start.railsOk = s.start.railsOk ∧ t.nv.prevEnd = 5 ∧ t.nv.lossLatch = s.nv.lossLatch ∧
     t.start.shdnDone = false ∧ t.jtag.driving = s.jtag.drivers ∧ DiesHeld s t)) ∧
  ((∀ (s : State) (d : Nat), s.start.phase = .live → d < 8 → ∃ t, exec (.pllLoss d) s = .next t ∧
     t.start.phase = .pllLost (d != 7) ∧ t.nv.prevEnd = 3 ∧ t.host.link = .down ∧ t.cores = [] ∧ t.contexts = [] ∧ t.engines = [] ∧ t.out = s.out ∧
     (s.nv.cairn.length < cairnSlots → ∃ r, t.nv.cairn = s.nv.cairn ++ [r] ∧ r.type = 0x0E ∧ r.payload = [BitVec.ofNat 8 d])) ∧
   (∀ s : State, s.start.phase = .live → s.dict.flash = none → ∃ t, exec (.pllLoss 8) s = .next t ∧
     t.start.phase = .pllLost false ∧ t.nv = { s.nv with prevEnd := 3, lossLatch := true, latchEnd := true } ∧ t.host.link = .down ∧ t.cores = [] ∧ t.out = s.out))

/-- Orderly shutdown (R401, R402): the running part takes no more work and its kernels end with 0x0304; SHUTDOWN_DONE flushes every buffer, commits
the final interval, takes the links down and raises SHDN_DONE; asked of a stopped start it is done at once; before stage 9 it is held. -/
def Obligations.OrderlyShutdown : Prop :=
  (∀ s : State, s.start.phase = .live → ∃ t, exec .orderlyShutdown s = .next t ∧ t.start.phase = .stopping ∧ t.start.startOk = false ∧
    t.start.shdnReqN = false ∧ t.isLive = false ∧ t.mem = s.mem ∧ t.cores = s.cores ∧ t.pending = s.pending ∧ t.out = s.out ∧
    ∀ p x k, (s.context p x).kernel = some k → k.fault = none →
      (t.context p x).kernel = some { k with fault := some { status := 0x0304 } }) ∧
  (∀ (s : State) (n : Nat), s.start.phase = .done n →
    exec .orderlyShutdown s = .next { s with start := { s.start with shdnReqN := false, shutdownHeld := true } }) ∧
  (∀ s : State, s.start.phase = .stopped → ∃ t, exec .orderlyShutdown s = .next t ∧ t.start.phase = .shutDown ∧ t.start.shdnDone = true ∧ t.nv.prevEnd = 1) ∧
  (∀ s : State, s.start.phase = .stopping → ∃ t, exec .shutdownDone s = .next t ∧ t.start.phase = .shutDown ∧ t.start.shdnDone = true ∧
    t.start.startOk = false ∧ t.nv.prevEnd = 1 ∧ t.host.link = .down ∧ (∀ q, (t.port q).state = .down ∨ (t.port q).state = .disabled) ∧
    (∀ k, (t.mem.stack k).poisonMerges = (s.flushStacks.mem.stack k).poisonMerges ∧ (t.mem.stack k).ueCount = (s.flushStacks.mem.stack k).ueCount) ∧
    (s.flushStacks.nv.cairn.length < cairnSlots → ∃ r, t.nv.cairn = s.flushStacks.nv.cairn ++ [r] ∧ r.type = 4)) ∧
  (∀ (s : State) (k : Nat), (s.flushStacks.mem.stack k).wc = [])

/-! ## Governor and time (chapters 18, 19) -/

/-- A housekeeping round (R403 to R409, R412, R413): without a trip the readings are taken, every step stays within 31, each C-die's limit is ILIM_A
times 32 less its step and the refresh period follows the DRAM core; an effective reading at its trip limit trips the part, with its record. -/
def Obligations.HousekeepingRoundsAndTrips : Prop :=
  (∀ (temps : List Int) (rails : List (Nat × Nat)) (s : State), s.start.phase = .live → temps.length = 172 → rails.length = 42 →
     tripping ((List.range 172).map (effectiveOf temps (suspectsAfter s temps))) = none →
     s.power.nA ≤ 31 → s.power.nS ≤ 31 → (∀ d, Table.get 0 s.power.tA d ≤ 31 ∧ Table.get 0 s.power.tS d ≤ 31) →
     ∃ t, exec (.housekeepingRound temps rails) s = .next t ∧
       t.power.raw = temps ∧ t.power.rails = rails ∧ t.power.suspect = suspectsAfter s temps ∧
       t.power.eff = (List.range 172).map (effectiveOf temps (suspectsAfter s temps)) ∧
       (∀ d, d < 4 → Table.get 0 t.power.stepA d ≤ 31 ∧ Table.get 0 t.power.limit d = s.ilimA d * (32 - Table.get 0 t.power.stepA d)) ∧
       (∀ k, k < 16 → Table.get 0 t.power.stepS k ≤ 31 ∧
         ((t.mem.stack k).hotRefresh = true ↔ degrees 85 < dramHot t.power.eff k ∨ (degrees 82 ≤ dramHot t.power.eff k ∧ (s.mem.stack k).hotRefresh = true))) ∧
       t.nv = s.nv ∧ t.cores = s.cores ∧ t.contexts = s.contexts ∧ t.parts = s.parts ∧ t.ports = s.ports ∧ t.host = s.host ∧ t.out = s.out) ∧
  (∀ (temps : List Int) (rails : List (Nat × Nat)) (s : State) (n : Nat), s.start.phase = .live → temps.length = 172 → rails.length = 42 →
     tripping ((List.range 172).map (effectiveOf temps (suspectsAfter s temps))) = some n →
     ∃ t, exec (.housekeepingRound temps rails) s = .next t ∧
       t.start.phase = .tripped (!(decide (96 ≤ n) && decide (n < 102))) ∧ t.start.thermtripN = false ∧ t.start.startOk = false ∧
       t.nv.prevEnd = 4 ∧ t.host.link = .down ∧ t.cores = [] ∧ t.engines = [] ∧ t.contexts = [] ∧ t.out = s.out ∧
       (s.nv.cairn.length < cairnSlots → s.dict.flash = none → ∃ r, t.nv.cairn = s.nv.cairn ++ [r] ∧ r.type = 0x0F))

/-- The class S step n of a stack, from 0 to 31, sets its drogue pause to 33 n cycles, from 0 to 1,023 (R408). -/
def Obligations.ClassSStepSetsTheDroguePause : Prop :=
  ∀ (temps : List Int) (rails : List (Nat × Nat)) (s : State), s.start.phase = .live → temps.length = 172 → rails.length = 42 →
    tripping ((List.range 172).map (effectiveOf temps (suspectsAfter s temps))) = none →
    s.power.nA ≤ 31 → s.power.nS ≤ 31 → (∀ d, Table.get 0 s.power.tA d ≤ 31 ∧ Table.get 0 s.power.tS d ≤ 31) →
    ∃ t, exec (.housekeepingRound temps rails) s = .next t ∧
      ∀ k, k < 16 → Table.get 0 t.power.stepS k ≤ 31 ∧ (t.engine k).pause = 33 * Table.get 0 t.power.stepS k ∧ (t.engine k).pause ≤ 1023

/-- Class A windows, drogue pauses and the ledger's interval (R407, R408, R170, R426, R427): an estimate above the limit withholds its
excess from the die's twelve cores, one at or below it withholds nothing; a pause that is over lets the next work unit begin; PERIODIC appends one
record of TYPE 3 while more than 8,192 slots are free and none after. The scale of what is withheld, and that PERIODIC moves the periods to the next
multiple of 2^35, are the model's (log 6). -/
def Obligations.WindowsPausesAndIntervals : Prop :=
  (∀ (s : State) (d amps : Nat), s.start.phase = .live → d < 4 → Table.has s.power.limit d = true → Table.get 0 s.power.limit d < 32 * amps →
    ∃ t, exec (.classAWindow d amps) s = .next t ∧
      (∀ c, c < 48 → (t.core c).withheld = if c / 12 = d then ceilDiv (1024 * (32 * amps - Table.get 0 s.power.limit d)) (32 * amps) else (s.core c).withheld) ∧
      (∀ c, { t.core c with withheld := 0 } = { s.core c with withheld := 0 }) ∧ { t with cores := [] } = { s with cores := [] }) ∧
  (∀ (s : State) (d amps : Nat), s.start.phase = .live → d < 4 → 32 * amps ≤ s.limitA d →
    ∃ t, exec (.classAWindow d amps) s = .next t ∧
      (∀ c, c < 48 → t.core c = if c / 12 = d then { s.core c with withheld := 0 } else s.core c) ∧ { t with cores := [] } = { s with cores := [] }) ∧
  (∀ (s : State) (k : Nat), k < 16 → (s.engine k).pauseOver = false →
    exec (.droguePause k) s = .next (s.setEngine k { s.engine k with pauseOver := true })) ∧
  (∀ s : State, s.start.phase = .live → 8192 < s.cairnFree → ∃ t, exec .periodic s = .next t ∧
    (∃ r, t.nv.cairn = s.nv.cairn ++ [r] ∧ r.type = 3 ∧ r.start = s.nv.starts ∧ r.periods = t.start.periods) ∧
    t.start.lastCommit = t.start.periods ∧ (s.start.lastCommit / 2 ^ 35 + 1) * 2 ^ 35 ≤ t.start.periods ∧ t.start.histC = [] ∧ t.start.histD = []) ∧
  (∀ s : State, s.start.phase = .live → s.cairnFree ≤ 8192 → ∃ t, exec .periodic s = .next t ∧ t.nv = s.nv)

/-! ## Fabric (chapter 13) -/

/-- Ports train (R305, R317, R392): a port that is DOWN with EN 1 begins again; training that does not finish leaves it DOWN, and a request for
self-test or calibration of it that waits is DONE with NOT_RUN; in a HELLO exchange this node's HELLO leaves, and the port is UP, or DOWN where the
peer has this node's own number. -/
def Obligations.FabricPortTraining : Prop :=
  (∀ (s : State) (q : Nat), s.fabricOn = true → q < 8 → (s.port q).testPiece = false → (s.port q).en = true → (s.port q).state = .down →
    exec (.portTrainRetry q) s = .next (s.setPort q { (s.port q).cleared with state := .training })) ∧
  (∀ (s : State) (q : Nat), (s.port q).state = .training → NoPortRequest s q →
    exec (.trainingTimeout q) s = .next (s.setPort q { s.port q with state := .down, retried := true })) ∧
  (∀ (s : State) (q : Nat) (cal : Bool), (s.port q).state = .training → NoTestHolds s → (s.tu (partOfPort s.mode q) cal).state = 1 →
    tqItem (s.tu (partOfPort s.mode q) cal).request = (if cal then 4 else 9) → tqUnit (s.tu (partOfPort s.mode q) cal).request = q →
    ∃ t, exec (.trainingTimeout q) s = .next t ∧ (t.port q).state = .down ∧ (t.port q).retried = true ∧
      (t.tu (partOfPort s.mode q) cal).state = 3 ∧ (t.tu (partOfPort s.mode q) cal).result = 3 ∧ t.mem = s.mem ∧ t.out = s.out) ∧
  (∀ (s : State) (q node peer role : Nat), (s.port q).state = .training → node % 2 ^ 13 ≠ s.node (partOfPort s.mode q) →
    ∃ t, exec (.hello q node peer role) s = .next t ∧ (t.port q).state = .up ∧ (t.port q).peerNode = node % 2 ^ 13 ∧
      (t.port q).peerPort = peer % 8 ∧ (t.port q).peerRole = role % 4 ∧ (t.port q).retrains = (s.port q).retrains ∧
      t.out = s.out ++ [.hello q (s.node (partOfPort s.mode q)) q (s.role (partOfPort s.mode q))] ∧ OnlyPort s t q) ∧
  (∀ (s : State) (q node peer role : Nat), (s.port q).state = .training → NoPortRequest s q → node % 2 ^ 13 = s.node (partOfPort s.mode q) →
    ∃ t, exec (.hello q node peer role) s = .next t ∧ (t.port q).state = .down ∧
      (t.port q).retrains = satAdd 16 (s.port q).retrains 1 ∧
      t.out = s.out ++ [.hello q (s.node (partOfPort s.mode q)) q (s.role (partOfPort s.mode q))] ∧ OnlyPort s t q)

/-- Flits of a port that is UP (R303, R304, R315): a replayed one is sent first, else one with the next SEQ, the ACK,
the owed NAK and a correct CRC; a damaged one is discarded and owes a NAK, the next SEQ is taken, a duplicate is
discarded without a NAK, one after a gap owes one; on a NAK, and on a timeout, the unacknowledged flits are sent again
in order, from ACK + 1 on, the sixteenth replay without progress retrains the port, a link loss takes it DOWN, and
either ends what it has outstanding. -/
def Obligations.FlitsCarrySequenceAndKeepOrder : Prop :=
  ((∀ (s : State) (q : Nat) (f : BitVec 2048) (rest : List (BitVec 2048)), s.portUp q = true → (s.port q).resend = f :: rest →
     exec (.flitSend q) s = .next ((s.setPort q { s.port q with resend := rest }).emit (.flit q f))) ∧
   (∀ (s : State) (q : Nat), s.portUp q = true → (s.port q).resend = [] → (s.port q).txSeq < 4096 → (s.port q).rxSeq < 4096 →
     ∃ t f, exec (.flitSend q) s = .next t ∧ t.out = s.out ++ [.flit q f] ∧ OnlyPort s t q ∧
       flitCrcOk f = true ∧ fld f.toNat 11 0 = (s.port q).txSeq ∧ fld f.toNat 23 12 = (s.port q).rxSeq ∧ f.toNat.testBit 24 = (s.port q).nak ∧
       (t.port q).nak = false ∧ (t.port q).rxSeq = (s.port q).rxSeq ∧
       (f.toNat.testBit 25 = true → (t.port q).txSeq = (s.port q).txSeq ∧ (t.port q).replay = (s.port q).replay) ∧
       (f.toNat.testBit 25 = false → (t.port q).txSeq = ((s.port q).txSeq + 1) % 4096 ∧ (t.port q).replay = (s.port q).replay ++ [((s.port q).txSeq, f)]))) ∧
  ((∀ (s : State) (q : Nat) (ok : Bool) (f : BitVec 2048), s.portUp q = true → (ok && flitCrcOk f) = false →
     exec (.flitReceive q ok f) s = .next (s.setPort q { (s.port q).discard 1 with gap := true, nak := true })) ∧
   (∀ (s : State) (q : Nat) (f : BitVec 2048), s.portUp q = true → flitCrcOk f = true → f.toNat.testBit 24 = false → f.toNat.testBit 25 = true →
     fld f.toNat 11 0 = ((s.port q).rxSeq + 1) % 4096 →
     ∃ t, exec (.flitReceive q true f) s = .next t ∧ OnlyPort s t q ∧ t.out = s.out ∧ (t.port q).rxSeq = (s.port q).rxSeq ∧ (t.port q).arrived = (s.port q).arrived ∧
       (t.port q).gap = false ∧ (t.port q).nak = false ∧
       ∀ k, k < 6 → Table.get 0 (t.port q).credits k = Table.get 0 (s.port q).credits k + fld f.toNat (39 + 8 * k) (32 + 8 * k)) ∧
   (∀ (s : State) (q : Nat) (f : BitVec 2048), s.portUp q = true → flitCrcOk f = true → f.toNat.testBit 24 = false → f.toNat.testBit 25 = false →
     fld f.toNat 11 0 = ((s.port q).rxSeq + 1) % 4096 →
     ∃ t, exec (.flitReceive q true f) s = .next t ∧ (t.port q).rxSeq = fld f.toNat 11 0 ∧ (t.port q).gap = false ∧ (t.port q).nak = false ∧
       (t.port q).state = .up ∧ (s.port q).arrived <+: (t.port q).arrived ∧ { t with ports := [] } = { s with ports := [] }) ∧
   (∀ (s : State) (q : Nat) (f : BitVec 2048), s.portUp q = true → flitCrcOk f = true → f.toNat.testBit 24 = false →
     2048 ≤ (fld f.toNat 11 0 + 4096 - ((s.port q).rxSeq + 1) % 4096) % 4096 →
     exec (.flitReceive q true f) s = .next (s.setPort q (((s.port q).ack (fld f.toNat 23 12)).discard 1))) ∧
   (∀ (s : State) (q : Nat) (f : BitVec 2048), s.portUp q = true → flitCrcOk f = true → f.toNat.testBit 24 = false →
     0 < (fld f.toNat 11 0 + 4096 - ((s.port q).rxSeq + 1) % 4096) % 4096 → (fld f.toNat 11 0 + 4096 - ((s.port q).rxSeq + 1) % 4096) % 4096 < 2048 →
     ∃ t, exec (.flitReceive q true f) s = .next t ∧ OnlyPort s t q ∧ (t.port q).gap = true ∧ (t.port q).rxSeq = (s.port q).rxSeq ∧
       (t.port q).nak = ((s.port q).nak || !(s.port q).gap) ∧ (t.port q).discarded = satAdd 24 (s.port q).discarded 1)) ∧
  ((∀ (pt : Port) (a : Nat) (f : BitVec 2048) (l r : List (Nat × BitVec 2048)), pt.replay = l ++ (a, f) :: r → (∀ x ∈ l, x.1 ≠ a) → (pt.ack a).replay = r) ∧
   (∀ (s : State) (q : Nat) (f : BitVec 2048), s.portUp q = true → flitCrcOk f = true → f.toNat.testBit 24 = true →
     ((s.port q).ack (fld f.toNat 23 12)).replay ≠ [] → ((s.port q).ack (fld f.toNat 23 12)).stuck < 15 →
     ∃ t, exec (.flitReceive q true f) s = .next t ∧ (t.port q).resend = ((s.port q).ack (fld f.toNat 23 12)).replay.map Prod.snd ∧
       (t.port q).replay = ((s.port q).ack (fld f.toNat 23 12)).replay ∧ (t.port q).replays = satAdd 24 (s.port q).replays 1 ∧
       (t.port q).stuck = ((s.port q).ack (fld f.toNat 23 12)).stuck + 1 ∧ (t.port q).state = .up ∧ t.mem = s.mem ∧ t.out = s.out) ∧
   (∀ (s : State) (q : Nat) (f : BitVec 2048), s.portUp q = true → flitCrcOk f = true → f.toNat.testBit 24 = true →
     ((s.port q).ack (fld f.toNat 23 12)).replay = [] →
     ∃ t, exec (.flitReceive q true f) s = .next t ∧ (t.port q).replay = [] ∧ (t.port q).replays = (s.port q).replays ∧ (t.port q).state = .up ∧
       t.mem = s.mem ∧ t.out = s.out) ∧
   (∀ (s : State) (q : Nat) (f : BitVec 2048), s.portUp q = true → flitCrcOk f = true → f.toNat.testBit 24 = true →
     ((s.port q).ack (fld f.toNat 23 12)).replay ≠ [] → 15 ≤ ((s.port q).ack (fld f.toNat 23 12)).stuck → NoTestHolds s →
     ∃ t, exec (.flitReceive q true f) s = .next t ∧ PortFell s t q .training)) ∧
  ((∀ (s : State) (q : Nat), s.portUp q = true → (s.port q).replay ≠ [] → (s.port q).stuck < 15 →
     exec (.replayTimeout q) s = .next (s.setPort q { s.port q with
       resend := (s.port q).replay.map Prod.snd, replays := satAdd 24 (s.port q).replays 1, stuck := (s.port q).stuck + 1 })) ∧
   (∀ (s : State) (q : Nat), s.portUp q = true → (s.port q).replay ≠ [] → 15 ≤ (s.port q).stuck → NoTestHolds s →
     ∃ t, exec (.replayTimeout q) s = .next t ∧ PortFell s t q .training) ∧
   (∀ (s : State) (q : Nat), s.portUp q = true → NoTestHolds s → ∃ t, exec (.linkLoss q) s = .next t ∧ PortFell s t q .down))

/-- Requests of other nodes (R161, R297, R311, R362): a READ this node may serve is answered with its lines, a WRITE is acknowledged when its bytes
are in memory, and the bytes that crossed the tether links count for the partition's unattributed energy; a request it may not serve is answered
with 0x0102 and reaches no memory. -/
def Obligations.RemoteRequestsAreServedOrRefused : Prop :=
  (∀ (s : State) (q : Nat) (o : FabOp) (rest : List FabOp), (s.port q).firstOf 0 = some (o, rest) → o.op = opREAD →
    s.remoteOk (partOfPort s.mode q) o = true → NoTestHolds s →
    (Wk.read (s.partEnv (partOfPort s.mode q)) { mem := s.mem } (64 * o.line) (64 * (o.lines + 1))).2.good = true →
    exec (.read q) s = .next ((((s.takeWork (Wk.read (s.partEnv (partOfPort s.mode q)) { mem := s.mem } (64 * o.line) (64 * (o.lines + 1))).2).addLink
      (partOfPort s.mode q) (Wk.read (s.partEnv (partOfPort s.mode q)) { mem := s.mem } (64 * o.line) (64 * (o.lines + 1))).2.counted.rd).updPort q
      (fun x => { x with arrived := rest })).respond (partOfPort s.mode q) o opREADRSP o.lines 0
        (Wk.read (s.partEnv (partOfPort s.mode q)) { mem := s.mem } (64 * o.line) (64 * (o.lines + 1))).1)) ∧
  (∀ (s : State) (q : Nat) (o : FabOp) (rest : List FabOp), (s.port q).firstOf 0 = some (o, rest) → o.op = opWRITE →
    s.remoteOk (partOfPort s.mode q) o = true → NoTestHolds s →
    (Wk.commit (s.partEnv (partOfPort s.mode q)) { mem := s.mem } o.writes).good = true →
    (Wk.commit (s.partEnv (partOfPort s.mode q)) { mem := s.mem } o.writes).late = none →
    exec (.write q) s = .next ((((s.takeWork (Wk.commit (s.partEnv (partOfPort s.mode q)) { mem := s.mem } o.writes)).addLink
      (partOfPort s.mode q) (Wk.commit (s.partEnv (partOfPort s.mode q)) { mem := s.mem } o.writes).wn).updPort q
      (fun x => { x with arrived := rest })).respond (partOfPort s.mode q) o opWRITEACK 0 0 [])) ∧
  (∀ (s : State) (q : Nat) (o : FabOp) (rest : List FabOp), (s.port q).firstOf 0 = some (o, rest) → s.remoteOk (partOfPort s.mode q) o = false →
    (o.op = opREAD → ∃ t, exec (.read q) s = .next t ∧ t.mem = s.mem ∧ t.parts = s.parts ∧ t.cores = s.cores ∧ (t.port q).arrived = rest ∧
      t = (s.updPort q (fun x => { x with arrived := rest })).respond (partOfPort s.mode q) o opREADRSP 0 0x0102 []) ∧
    (o.op = opWRITE → ∃ t, exec (.write q) s = .next t ∧ t.mem = s.mem ∧ t.parts = s.parts ∧ t.cores = s.cores ∧ (t.port q).arrived = rest ∧
      t = (s.updPort q (fun x => { x with arrived := rest })).respond (partOfPort s.mode q) o opWRITEACK 0 0x0102 []))

/-- Answers (R11, R315, R316): a READ_RSP lands its lines or its status for the queue that waits, a WRITE_ACK takes one write off its queue's count and
leaves a fault for a status, and an operation that times out ends with 0x0401. Each removes its entry of the outstanding operations. The statuses
reported are the rule's, whatever a response holds (which one an unlisted code counts as is free: log 28). -/
def Obligations.AnswersReachTheQueueThatWaits : Prop :=
  (∀ (s : State) (q : Nat) (o : FabOp) (rest : List FabOp) (r : OutReq), (s.port q).firstOf 1 = some (o, rest) → o.op = opREADRSP →
    (s.part (partOfPort s.mode q)).outstanding.find? (fun x => x.1 == o.tag) = some (o.tag, r) → r.write = false → NoBacklog s →
    ∃ t, exec (.readRsp q) s = .next t ∧ (t.port q).arrived = rest ∧ Table.has (t.part (partOfPort s.mode q)).outstanding o.tag = false ∧
      (∀ i, i < r.lines → Table.get .asked ((t.core r.core).queue r.queue).landing (r.line + i) =
        if fld o.line 15 0 = 0 then .data ((o.data.drop (64 * i)).take 64) else .failed (s.responseStatus (fld o.line 15 0))) ∧
      { t.mem with fresh := s.mem.fresh } = s.mem ∧ t.out = s.out) ∧
  (∀ (s : State) (q : Nat) (o : FabOp) (rest : List FabOp) (r : OutReq), (s.port q).firstOf 1 = some (o, rest) → o.op = opWRITEACK →
    (s.part (partOfPort s.mode q)).outstanding.find? (fun x => x.1 == o.tag) = some (o.tag, r) → r.write = true → NoBacklog s →
    ∃ t, exec (.writeAck q) s = .next t ∧ (t.port q).arrived = rest ∧ Table.has (t.part (partOfPort s.mode q)).outstanding o.tag = false ∧
      ((t.core r.core).queue r.queue).remoteOut = ((s.core r.core).queue r.queue).remoteOut - 1 ∧
      (fld o.line 15 0 = 0 → ((t.core r.core).queue r.queue).lateFault = ((s.core r.core).queue r.queue).lateFault) ∧
      (fld o.line 15 0 ≠ 0 → ((s.core r.core).queue r.queue).lateFault = none → ((t.core r.core).queue r.queue).lateFault =
        some { status := s.responseStatus (fld o.line 15 0), tag := r.cmdTag, count := r.cmdCount, queue := r.queue, core := r.core }) ∧
      { t.mem with fresh := s.mem.fresh } = s.mem ∧ t.out = s.out) ∧
  (∀ (s : State) (v : Nat), (v = 0 → s.responseStatus v = 0) ∧ (v ≠ 0 → s.responseStatus v = 0x0102 ∨ s.responseStatus v = 0x0401 ∨ s.responseStatus v = 0x0402)) ∧
  (∀ (s : State) (p tag : Nat) (r : OutReq), (s.part p).outstanding.find? (fun x => x.1 == tag) = some (tag, r) → NoBacklog s →
    ∃ t, exec (.responseTimeout p tag) s = .next t ∧ Table.has (t.part p).outstanding tag = false ∧
      (r.write = false → ∀ i, i < r.lines → Table.get .asked ((t.core r.core).queue r.queue).landing (r.line + i) = .failed 0x0401) ∧
      (r.write = true → ((s.core r.core).queue r.queue).lateFault = none → ((t.core r.core).queue r.queue).lateFault =
        some { status := 0x0401, tag := r.cmdTag, count := r.cmdCount, queue := r.queue, core := r.core }) ∧
      t.mem = s.mem ∧ t.out = s.out)

/-- The rope (R252, R253): a neighbour's message that a round has ended counts for its side and that round, an abort abandons the step, and a round
starts with the next record of the list once this member and both neighbours have ended the round before. -/
def Obligations.RopeRoundsFollowTheNeighbours : Prop :=
  (∀ (s u : State) (q : Nat) (o : FabOp), s.takeControl q opENDED = some (u, o) → u.ropeOn (partOfPort s.mode q) = true →
    ∃ t, exec (.ropeEnded q) s = .next t ∧
      (∀ r, Table.get 0 (t.part (partOfPort s.mode q)).rope.prevEnded r = Table.get 0 (s.part (partOfPort s.mode q)).rope.prevEnded r +
        (if o.src = s.ropePrev (partOfPort s.mode q) ∧ r = fld o.line 31 0 then 1 else 0)) ∧
      (∀ r, Table.get 0 (t.part (partOfPort s.mode q)).rope.nextEnded r = Table.get 0 (s.part (partOfPort s.mode q)).rope.nextEnded r +
        (if o.src = s.ropeNext (partOfPort s.mode q) ∧ r = fld o.line 31 0 then 1 else 0)) ∧
      (t.part (partOfPort s.mode q)).rope.round = (s.part (partOfPort s.mode q)).rope.round ∧ t.out = s.out ∧ t.mem = s.mem) ∧
  (∀ (s u : State) (q : Nat) (o : FabOp), s.takeControl q opABORT = some (u, o) → u.ropeOn (partOfPort s.mode q) = true →
    ∃ t, exec (.ropeAbort q) s = .next t ∧ (t.part (partOfPort s.mode q)).rope.abandoned = true ∧ t.out = s.out ∧ t.mem = s.mem) ∧
  (∀ (s : State) (p : Nat), s.kernelDue p = true → s.ropeOn p = true → (s.part p).rope.abandoned = false →
    ((s.part p).rope.round = 0 ∨ ((s.part p).rope.round ≤ (s.part p).rope.ownEnded ∧
      1 ≤ Table.get 0 (s.part p).rope.prevEnded ((s.part p).rope.round - 1) ∧ 1 ≤ Table.get 0 (s.part p).rope.nextEnded ((s.part p).rope.round - 1))) →
    (Wk.read (s.partEnv p) { mem := s.mem } ((s.part p).kaddr + 64 * (s.part p).kidx) 64).2.good = true →
    ∃ t, exec (.ropeRoundStart p) s = .next t ∧ (t.part p).kidx = (s.part p).kidx + 1 ∧ (t.part p).rope.round = (s.part p).rope.round + 1)

/-! ## Host port (chapter 15) -/

/-- A function is disabled by its FLR, D3hot, Bus Master Enable clearing or VF Enable of its PF clearing (R363 to R367): its contexts lose EN and their
pending starts; FUNCTION_ENABLE clears DISABLED and raises vector 2, where FUNCCTL enables it; a return to D0 resets. Shown while no boundary is due. -/
def Obligations.FunctionsAreDisabledAndEnabled : Prop :=
  ((∀ (s : State) (fn : Nat), s.cfgReach fn = true → (s.func fn).quiescing = false → NoBoundary s (funcPart fn) →
     ∃ t, exec (.flr fn) s = .next t ∧ (∀ f ∈ coveredFns fn, (t.func f).disabled = true) ∧
       (∀ x ∈ s.heldCtxs fn, (t.context (funcPart fn) x).en = false ∧ (t.context (funcPart fn) x).pending = none ∧ (t.context (funcPart fn) x).kstart = 0 ∧
         (t.context (funcPart fn) x).prio = 0 ∧ (t.context (funcPart fn) x).cores = 0 ∧ (t.context (funcPart fn) x).units = 0x20) ∧
       (t.func fn).rq = {} ∧ (t.func fn).cq = {} ∧ (t.func fn).ctl = 0 ∧ (t.func fn).idrange = 0) ∧
   (∀ (s : State) (fn : Nat), s.cfgReach fn = true → (s.func fn).d3hot = false → (s.func fn).quiescing = false → NoBoundary s (funcPart fn) →
     ∃ t, exec (.d3hotEntry fn) s = .next t ∧ (t.func fn).d3hot = true ∧ (∀ f ∈ coveredFns fn, (t.func f).disabled = true) ∧
       (∀ x ∈ s.heldCtxs fn, (t.context (funcPart fn) x).en = false ∧ (t.context (funcPart fn) x).pending = none) ∧
       (t.func fn).rq = (s.func fn).rq ∧ (t.func fn).cq = (s.func fn).cq ∧ (t.func fn).ctl = (s.func fn).ctl) ∧
   (∀ (s : State) (fn : Nat), s.cfgReach fn = true → (s.func fn).quiescing = false → NoBoundary s (funcPart fn) →
     ∃ t, exec (.bmeClear fn) s = .next t ∧ (∀ f ∈ coveredFns fn, (t.func f).disabled = true) ∧
       (∀ x ∈ s.heldCtxs fn, (t.context (funcPart fn) x).en = false ∧ (t.context (funcPart fn) x).pending = none) ∧
       (t.func fn).d3hot = (s.func fn).d3hot ∧ (t.func fn).rq = (s.func fn).rq ∧ (t.func fn).cq = (s.func fn).cq) ∧
   (∀ (s : State) (fn : Nat), s.cfgReach fn = true → funcVf fn = 0 → NoBoundary s (funcPart fn) →
     ∃ t, exec (.vfEnableClear fn) s = .next t ∧ (∀ k, k < 31 → (t.func (fn + 4 * (k + 1))).disabled = true) ∧
       (t.func fn).disabled = (s.func fn).disabled)) ∧
  ((∀ (s : State) (fn : Nat), s.cfgReach fn = true → (s.func fn).d3hot = false → (s.func fn).disabled = true →
     exec (.functionEnable fn) s = .next ((s.updFunc fn (fun f => { f with disabled := false })).irq fn 2)) ∧
   (∀ (s : State) (fn : Nat), s.cfgReach fn = true → (s.func fn).d3hot = true → (s.func fn).disabled = true →
     ∃ t, exec (.d0Return fn) s = .next t ∧ (t.func fn).d3hot = false ∧ (t.func fn).disabled = false ∧ (t.func fn).rq = {} ∧ (t.func fn).cq = {} ∧
       (t.func fn).ctl = 0 ∧ (t.func fn).quiescing = (s.func fn).quiescing ∧ t.out = s.out ∧ t.mem = s.mem ∧ t.parts = s.parts ∧ t.cores = s.cores) ∧
   (∀ (s : State) (fn v : Nat), s.isLive = true →
     ((s.func fn).disabled = false → (v < 3 → (s.func fn).ctl.testBit v = true) → s.irq fn v = s.emit (.msix fn v)) ∧
     ((s.func fn).disabled = true ∨ (v < 3 ∧ (s.func fn).ctl.testBit v = false) → s.irq fn v = s)))

/-- The CXL link (R343, R363, R368, R438): trained it is UP with its width, after a failed attempt it is down and tried again, link events are
counted; a link that goes down drops the HDM window, disables every function and withdraws every ACCEPT; a hot reset keeps the link; PERST_N low holds
it down and disables every function of a part that runs. That CXL_RETRAIN is both the end of a failed attempt and the next one, and that a link going
down clears ACCEPT0 and ACCEPT1 alike, are the model's readings (log 30). -/
def Obligations.CxlLinkAndPerst : Prop :=
  ((∀ (s : State) (w : Nat), s.linkOn = true → s.host.link = .training → (w = 4 ∨ w = 8 ∨ w = 16) →
     exec (.cxlLinkUp w) s = .next { s with host := { s.host with link := .up, width := w } }) ∧
   (∀ s : State, s.linkOn = true → s.host.link = .training → exec .cxlRetrain s = .next { s with host := { s.host with link := .down } }) ∧
   (∀ s : State, s.linkOn = true → s.host.link = .down → exec .cxlRetrain s = .next { s with host := { s.host with link := .training } }) ∧
   (∀ s : State, s.host.link = .up →
     exec (.hostLinkRecovery 0) s = .next { s with host := { s.host with recoveries := satAdd 16 s.host.recoveries 1 } } ∧
     exec (.hostLinkRecovery 1) s = .next { s with host := { s.host with replays := satAdd 32 s.host.replays 1 } } ∧
     exec (.hostLinkRecovery 2) s = .next { s with host := { s.host with ideFailures := satAdd 16 s.host.ideFailures 1 } }) ∧
   (∀ s : State, s.host.link = .up → s.host.waits = [] → (∀ p, NoBoundary s p) → ∃ t, exec .cxlLinkDown s = .next t ∧
     t.host.link = .training ∧ t.host.width = 0 ∧ t.host.hdmOn = false ∧ t.host.filter = [] ∧ t.host.ideMem = false ∧ t.host.ideIo = false ∧
     (∀ fn, fn < nParts s.mode → (t.func fn).disabled = true) ∧ ∀ p, p < 4 → (t.part p).accept0 = 0 ∧ (t.part p).accept1 = 0 ∧ (t.part p).accepted = false) ∧
   (∀ s : State, s.host.link = .up → s.host.waits = [] → (∀ p, NoBoundary s p) → ∃ t, exec .hotReset s = .next t ∧
     t.host.link = .up ∧ t.host.hdmOn = false ∧ t.host.filter = [] ∧ ∀ fn, fn < nParts s.mode → (t.func fn).disabled = true)) ∧
  ((∀ s : State, s.host.waits = [] → s.start.phase.runs = false → s.host.link = .down → exec .perstAssert s = .next { s with
     start := { s.start with perstN := false }, host := { s.host.dropMem with link := .down, width := 0, ideMem := false, ideIo := false } }) ∧
   (∀ s : State, s.host.waits = [] → s.start.phase.runs = true → (∀ p, NoBoundary s p) → ∃ t, exec .perstAssert s = .next t ∧
     t.start.perstN = false ∧ t.host.link = .down ∧ t.host.width = 0 ∧ t.host.hdmOn = false ∧ t.host.filter = [] ∧
     (∀ fn, fn < nParts s.mode → (t.func fn).disabled = true) ∧
     (s.host.link ≠ .down → ∀ p, p < 4 → (t.part p).accept0 = 0 ∧ (t.part p).accept1 = 0 ∧ (t.part p).accepted = false)) ∧
   (∀ s : State, s.start.perstN = false → s.start.phase = .live →
     exec .perstRelease s = .next { s with start := { s.start with perstN := true }, host := { s.host with link := .training } }))

/-- The Device Serial Number of every PF is the EUI-64 of the management MAC (R346): its two halves are what a configuration request of the
capability reads, the same for every PF, and two MACs give two numbers. -/
def Obligations.SerialNumberIsTheMacEui64 : Prop :=
  (∀ mac : Nat, fld (dsnOf mac) 63 40 = fld mac 47 24 ∧ fld (dsnOf mac) 39 24 = 0xFFFE ∧ fld (dsnOf mac) 23 0 = fld mac 23 0) ∧
  (∀ a b : Nat, a < 2 ^ 48 → b < 2 ^ 48 → dsnOf a = dsnOf b → a = b) ∧
  (∀ (s : State) (fn : Nat), s.host.link = .up → s.isLive = true → s.hasFunc fn = true → funcVf fn = 0 →
    exec (.configRequest fn (0x100 + Config.dsnOffset + 4)) s = .next (s.emit (.configData fn (0x100 + Config.dsnOffset + 4) (leBytes 4 (dsnOf s.nv.mac % 2 ^ 32)))) ∧
    exec (.configRequest fn (0x100 + Config.dsnOffset + 8)) s = .next (s.emit (.configData fn (0x100 + Config.dsnOffset + 8) (leBytes 4 (dsnOf s.nv.mac / 2 ^ 32)))))

/-- Configuration and the mailboxes (R342, R345, R357, R394): requests before stage 9 get Retry Status; identity and class; an HDM window is taken
or refused whole; DOE discovery, the primary mailbox and IDE_KM answer, and a snoop of the host misses. -/
def Obligations.ConfigurationAndMailboxes : Prop :=
  (∀ (s : State) (fn reg : Nat), s.host.link = .up → s.pastNine = false → exec (.configRequest fn reg) s = .next (s.emit (.configRetry fn))) ∧
  (∀ (s : State) (fn : Nat), s.host.link = .up → s.isLive = true → s.hasFunc fn = true →
    exec (.configRequest fn 0) s = .next (s.emit (.configData fn 0 (leBytes 4 (if funcVf fn = 0 then 0x48161FA5 else 0x48171FA5)))) ∧
    exec (.configRequest fn 8) s = .next (s.emit (.configData fn 8 (leBytes 4 0x120000A1)))) ∧
  (∀ (s : State) (base size : Nat), s.hostReach 0 = true → size ≤ stackSpan s.mode → base % 2 ^ 28 = 0 → size % 2 ^ 28 = 0 →
    exec (.hdmCommit base size 1) s = .next { s with host := { s.host with hdmBase := base, hdmSize := size, hdmOn := true, hdmError := false } }) ∧
  (∀ (s : State) (base size iw : Nat), s.hostReach 0 = true → (iw ≠ 1 ∨ stackSpan s.mode < size) →
    exec (.hdmCommit base size iw) s = .next { s with host := { s.host with hdmError := true } }) ∧
  (∀ (s : State) (msg : List Byte) (m io : Bool), s.hostReach 0 = true → (∃ k, (Requester.mailbox 0, k) ∈ s.sec.sessions) →
    exec (.cxlIdeKm msg m io) s =
      .next (({ s with host := { s.host with ideMem := m, ideIo := io } } : State).emit (.spdm (.mailbox 0) (Config.standardAnswer 2 msg)))) ∧
  (∀ (s : State) (fn i : Nat), s.reachPf fn = true → i < 4 → ∃ t, exec (.doeDiscovery fn i) s = .next t ∧
    t.out = s.out ++ .doe fn (leBytes 4 ((doeProtocols.getD i (0, 0)).1 + 2 ^ 16 * (doeProtocols.getD i (0, 0)).2 + 2 ^ 24 * ((i + 1) % 4))) ::
      (if (s.func fn).disabled then [] else [.msix fn 3]) ∧ { t with out := [] } = { s with out := [] }) ∧
  (∀ s : State, s.hostReach 0 = true → exec .primaryMailboxIdentify s = .next (s.emit (.mailbox (Config.standardAnswer 3 []))) ∧
    exec .getSupportedLogs s = .next (s.emit (.mailbox (Config.standardAnswer 4 []))) ∧
    ∀ offset len, exec (.getLog offset len) s = .next (s.emit (.mailbox (((Config.standardAnswer 5 []).drop offset).take len)))) ∧
  (∀ (s : State) (hpa : Nat), s.host.link = .up → exec (.h2dSnoop hpa) s = .next (s.emit (.snoopRsp hpa)))

/-- CXL.mem (R357, R358): a read of a good line returns its data and tracks it if asked, a hole reads as poison, a whole-line write reaches its stack;
a full filter invalidates its oldest line first, and the read waits for it; BISnpInv frees a line, BISnpData lets one read go on, modified data is
written first. -/
def Obligations.CxlMemAndBackInvalidation : Prop :=
  ((∀ (s : State) (hpa k l : Nat) (tracked : Bool) (bs : List Byte), s.inWindow hpa = true → s.lineOfP0 ((hpa - s.host.hdmBase) / 64) = some (k, l) →
     NoTestHolds s → (s.mem.stack k).closed false l = false → (s.host.filter.contains ((hpa - s.host.hdmBase) / 64) = true ∨ s.host.filter.length < 524288) →
     (s.mem.readLine s.start.periods s.threshold k l).2 = .ok bs →
     ∃ t, exec (.cxlMemRead hpa tracked) s = .next t ∧ t.out = s.out ++ [.memData hpa bs] ∧
       t.mem = (s.mem.readLine s.start.periods s.threshold k l).1 ∧
       t.host = { s.host with filter := if tracked then s.host.filter.filter (· != (hpa - s.host.hdmBase) / 64) ++ [(hpa - s.host.hdmBase) / 64] else s.host.filter }) ∧
   (∀ (s : State) (hpa : Nat) (tracked : Bool), s.inWindow hpa = true → s.lineOfP0 ((hpa - s.host.hdmBase) / 64) = none →
     exec (.cxlMemRead hpa tracked) s = .next (s.emit (.memPoison hpa))) ∧
   (∀ (s : State) (hpa k l : Nat), s.inWindow hpa = true → s.lineOfP0 ((hpa - s.host.hdmBase) / 64) = some (k, l) →
     (s.mem.stack k).closed false l = false → s.host.filter.contains ((hpa - s.host.hdmBase) / 64) = false → 524288 ≤ s.host.filter.length →
     exec (.cxlMemRead hpa true) s = .next ((s.sendSnoops ((s.host.filter.take 1).map (fun v => (v, true)))).holdHost (.memRead hpa true))) ∧
   (∀ (s : State) (hpa k l : Nat) (data : BitVec 512), s.inWindow hpa = true → s.lineOfP0 ((hpa - s.host.hdmBase) / 64) = some (k, l) →
     NoTestHolds s → (s.mem.stack k).closed false l = false →
     ∃ t, exec (.cxlMemWrite hpa data) s = .next t ∧ t.out = s.out ++ [.memCmp hpa] ∧ t.host = s.host ∧
       t.mem = (s.mem.writeLine s.start.periods s.threshold k l ((leBytes 64 data.toNat).map some)).1) ∧
   (∀ (s : State) (hpa : Nat) (data : BitVec 512), s.inWindow hpa = true → s.lineOfP0 ((hpa - s.host.hdmBase) / 64) = none →
     exec (.cxlMemWrite hpa data) s = .next (s.emit (.memCmp hpa)))) ∧
  ((∀ (s : State) (line : Nat), NoBoundary s 0 → s.host.waits = [] → s.host.snoops.find? (fun x => x.1 == line) = some (line, true) →
     exec (.bisnpResponse line none) s = .next { s with host := { s.host with
       snoops := s.host.snoops.erase (line, true), filter := s.host.filter.filter (· != line), granted := s.host.granted.filter (· != line) } }) ∧
   (∀ (s : State) (line : Nat), NoBoundary s 0 → s.host.waits = [] → s.host.snoops.find? (fun x => x.1 == line) = some (line, false) → s.host.granted.contains line = false →
     exec (.bisnpResponse line none) s = .next { s with host := { s.host with
       snoops := s.host.snoops.erase (line, false), granted := s.host.granted ++ [line] } }) ∧
   (∀ (s : State) (line k l : Nat) (d : BitVec 512), NoBoundary s 0 → NoTestHolds s → s.host.waits = [] → s.host.snoops.find? (fun x => x.1 == line) = some (line, true) →
     s.lineOfP0 line = some (k, l) → lineClosed (s.partEnv 0) s.mem (64 * line) = false →
     ∃ t, exec (.bisnpResponse line (some d)) s = .next t ∧ t.mem = (s.mem.writeLine s.start.periods s.threshold k l ((leBytes 64 d.toNat).map some)).1 ∧
       line ∉ t.host.filter ∧ t.out = s.out))

/-- Base address registers (R347, R351, R358, R359, R394): a read of BAR0 returns the registers it names, of BAR2 core memory, of BAR4 stack lines;
writes reach them, after the host's copy is gone where it holds the line; what comes through a function behind a BAR4 write that waits for that, a
read of any BAR and a further BAR4 write, waits behind it; an access that hits no BAR is unsupported, and one to a hole reads ones, writes nothing and
counts. -/
def Obligations.HostBarAccesses : Prop :=
  (∀ (s : State) (fn bar offset len : Nat), s.host.link = .up → 0 < len → s.barHit fn bar offset len = false →
    exec (.hostBarRead fn bar offset len) s = .next (s.emit (.barUnsupported fn))) ∧
  (∀ (s : State) (fn bar offset : Nat) (data : List Byte), s.host.link = .up → data ≠ [] → s.barHit fn bar offset data.length = false →
    exec (.hostBarWrite fn bar offset data) s = .next (s.emit (.barUnsupported fn))) ∧
  (∀ (s : State) (fn offset : Nat) (data : List Byte), s.host.link = .up → data.length = 8 → offset % 8 = 0 → s.barHit fn 0 offset 8 = true →
    exec (.hostBarWrite fn 0 offset data) s = .next ((s.hostBytes (funcPart fn) 8 0).writeReg fn offset (data.map some))) ∧
  (∀ (s : State) (fn offset : Nat) (data : List Byte), s.host.link = .up → data ≠ [] → s.barHit fn 4 offset data.length = true → s.behind fn = false →
    s.bar4Addr fn offset data.length = none → (s.func fn).holes < 65535 →
    ∃ t, exec (.hostBarWrite fn 4 offset data) s = .next t ∧ (t.func fn).holes = (s.func fn).holes + 1 ∧ t.mem = s.mem) ∧
  (∀ (s : State) (fn offset len : Nat), s.host.link = .up → 0 < len → s.barHit fn 0 offset len = true → s.behind fn = false →
    ∃ t bs, exec (.hostBarRead fn 0 offset len) s = .next t ∧ t.out = s.out ++ [.barData fn bs] ∧ t.mem = s.mem ∧ bs.length = len ∧
      ∀ i, i < len → bs.getD i 0 = BitVec.ofNat 8 (s.hostReg fn ((offset + i) / 8 * 8) >>> (8 * ((offset + i) % 8)))) ∧
  (∀ (s : State) (fn offset len : Nat), s.host.link = .up → 0 < len → s.barHit fn 2 offset len = true → s.behind fn = false →
    s.sanitising (funcPart fn) = false →
    ∃ t bs, exec (.hostBarRead fn 2 offset len) s = .next t ∧ t.out = s.out ++ [.barData fn bs] ∧ t.mem = s.mem ∧ bs.length = len ∧
      ∀ i, i < len → bs.getD i 0 = s.bar2Byte fn (offset + i)) ∧
  (∀ (s : State) (fn offset len : Nat), s.host.link = .up → 0 < len → s.barHit fn 4 offset len = true → s.behind fn = false →
    s.bar4Addr fn offset len = none → (s.func fn).holes < 65535 →
    ∃ t, exec (.hostBarRead fn 4 offset len) s = .next t ∧ (t.func fn).holes = (s.func fn).holes + 1 ∧ t.mem = s.mem ∧
      .barData fn (List.replicate len 0xFF) ∈ t.out) ∧
  (∀ (s : State) (fn offset a k off : Nat) (bs : List Byte), s.host.link = .up → s.barHit fn 4 offset 64 = true → s.behind fn = false →
    s.bar4Addr fn offset 64 = some a → a % 64 = 0 →
    (s.partEnv (funcPart fn)).place s.mem a = .stack k off → (s.mem.stack k).closed false (off / 64) = false → NoTestHolds s →
    (s.mem.readLine s.start.periods s.threshold k (off / 64)).2 = .ok bs → bs.length = 64 →
    ∃ t, exec (.hostBarRead fn 4 offset 64) s = .next t ∧ t.out = s.out ++ [.barData fn bs]) ∧
  (∀ (s : State) (fn offset a k off : Nat) (data : List Byte), s.host.link = .up → data.length = 64 → s.barHit fn 4 offset 64 = true → s.behind fn = false →
    s.bar4Addr fn offset 64 = some a → a % 64 = 0 → (s.partEnv (funcPart fn)).place s.mem a = .stack k off → (s.mem.stack k).closed false (off / 64) = false →
    (s.partEnv (funcPart fn)).hostHolds (a / 64) = false → NoTestHolds s →
    ∃ t, exec (.hostBarWrite fn 4 offset data) s = .next t ∧ t.out = s.out ∧
      t.mem = (s.mem.writeLine s.start.periods s.threshold k (off / 64) (data.map some)).1) ∧
  (∀ (s : State) (fn offset a : Nat) (data : List Byte), s.host.link = .up → data.length = 64 → s.barHit fn 4 offset 64 = true → s.behind fn = false →
    s.bar4Addr fn offset 64 = some a → a % 64 = 0 → (s.partEnv (funcPart fn)).hostHolds (a / 64) = true →
    exec (.hostBarWrite fn 4 offset data) s = .next ((s.sendSnoops [(a / 64, true)]).holdHost (.barWrite fn offset data))) ∧
  (∀ (s : State) (fn bar offset len : Nat) (data : List Byte), s.host.link = .up → s.behind fn = true →
    (0 < len → s.barHit fn bar offset len = true → exec (.hostBarRead fn bar offset len) s = .next (s.holdHost (.barRead fn bar offset len))) ∧
    (data ≠ [] → s.barHit fn 4 offset data.length = true → exec (.hostBarWrite fn 4 offset data) s = .next (s.holdHost (.barWrite fn offset data)))) ∧
  (∀ (s : State) (fn offset : Nat) (data : List Byte), s.host.link = .up → data ≠ [] → offset % 64 + data.length ≤ 64 → offset < 0x1800_0000 →
    s.barHit fn 2 offset data.length = true → s.sanitising (funcPart fn) = false → partOfCore s.mode (offset / 0x80_0000) = funcPart fn →
    ∃ t, exec (.hostBarWrite fn 2 offset data) s = .next t ∧ t.out = s.out ∧
      t.mem = s.mem.scratchWrite (offset / 0x80_0000) (offset % 0x80_0000) (data.map some) ∧
      (t.core (offset / 0x80_0000)).lastUse = .host)

/-! ## Registers with behaviour of their own (chapters 09, 10, 12, 15) -/

/-- KGO (R81, R212, R280, R352, R359): in the running part a good record becomes the pending start, a bad one ends with 0x0102, a second one sets
OVERRUN, and a context that the scheduler owns only says so; behind a BAR4 write of its function that waits, KGO waits with its record. -/
def Obligations.KgoStartsOrRefuses : Prop :=
  ((∀ (s : State) (fn x : Nat), s.isLive = true → s.hears fn x = true → s.behind fn = false →
     s.serves (funcPart fn) x = false → (s.context (funcPart fn) x).pending = none →
     s.startOk (funcPart fn) x (s.context (funcPart fn) x).kstart = true →
     ∃ t, exec (.kgo fn x) s = .next t ∧ (t.context (funcPart fn) x).pending = some { kd := (s.context (funcPart fn) x).kstart } ∧
       (t.context (funcPart fn) x).overrun = false ∧ (t.context (funcPart fn) x).serving = false ∧ OnlyStops s t) ∧
   (∀ (s : State) (fn x : Nat), s.isLive = true → s.hears fn x = true → s.behind fn = false →
     s.serves (funcPart fn) x = false → (s.context (funcPart fn) x).pending = none →
     s.startOk (funcPart fn) x (s.context (funcPart fn) x).kstart = false →
     ∃ t, exec (.kgo fn x) s = .next t ∧ (t.context (funcPart fn) x).pending = none ∧
       (t.context (funcPart fn) x).kreport = mkReport 0x0102 0 (kdKid (s.context (funcPart fn) x).kstart) 0 0 0 0 0 0 ∧
       (t.context (funcPart fn) x).kends = ((s.context (funcPart fn) x).kends + 1) % 2 ^ 32 ∧
       (t.context (funcPart fn) x).state = (s.context (funcPart fn) x).state ∧ t.mem = s.mem) ∧
   (∀ (s : State) (fn x : Nat), s.isLive = true → s.hears fn x = true → s.behind fn = false →
     s.serves (funcPart fn) x = false → (s.context (funcPart fn) x).pending.isSome = true →
     exec (.kgo fn x) s = .next (s.updContext (funcPart fn) x (fun t => { t with overrun := true }))) ∧
   (∀ (s : State) (fn x : Nat), s.isLive = true → s.hears fn x = true → s.behind fn = false →
     s.serves (funcPart fn) x = true → exec (.kgo fn x) s = .next (s.updContext (funcPart fn) x (fun t => { t with serving := true }))) ∧
   (∀ (s : State) (fn x : Nat), s.isLive = true → s.hears fn x = true → s.behind fn = true →
     exec (.kgo fn x) s = .next (s.holdHost (.kgo fn x (s.context (funcPart fn) x).kstart))) ∧
   (∀ (s : State) (fn x : Nat), s.hears fn x = true ↔ s.reachCtx fn x = true ∧ (s.func fn).disabled = false ∧ s.sanitising (funcPart fn) = false))

/-- Pre-emption (R214): a start that KGO makes pending pre-empts each running kernel without a fault of lower priority that holds a core it lists, and,
where no other start is pending, none of equal or higher priority; a HELD kernel stays as it is and does not wait. -/
def Obligations.PendingStartsPreemptLowerPriority : Prop :=
  (∀ (s : State) (fn x y : Nat) (k : Kernel), s.isLive = true → s.hears fn x = true → s.behind fn = false →
    s.serves (funcPart fn) x = false → (s.context (funcPart fn) x).pending = none → (s.context (funcPart fn) x).kernel = none →
    s.startOk (funcPart fn) x (s.context (funcPart fn) x).kstart = true →
    y ≠ x → y < ctxPer s.mode → (s.context (funcPart fn) y).kernel = some k → k.fault = none →
    ∃ t, exec (.kgo fn x) s = .next t ∧
      ((s.context (funcPart fn) y).state = .running → (s.context (funcPart fn) y).prio < (s.context (funcPart fn) x).prio →
        kdCores k.kd &&& kdCores (s.context (funcPart fn) x).kstart ≠ 0 →
        (t.context (funcPart fn) y).state = .saving ∧ (t.context (funcPart fn) y).trigger = some (false, 0x0303)) ∧
      ((∀ z, z < ctxPer s.mode → z ≠ x → (s.context (funcPart fn) z).pending = none) → (s.context (funcPart fn) x).prio ≤ (s.context (funcPart fn) y).prio →
        t.context (funcPart fn) y = s.context (funcPart fn) y) ∧
      ((s.context (funcPart fn) y).state = .held → t.context (funcPart fn) y = s.context (funcPart fn) y)) ∧
  (∀ c : Context, c.kernel.isSome = true → c.state = .held → c.waits = none)

/-- CSGO and its copy (R354, R359, R107): a copy that may begin takes the listed cores' bank and sets CSBUSY, another one sets CSERR, behind a BAR4
write of its function that waits it waits; when it completes the bank of every listed core where it is not live holds the source's bytes. That a
source which does not lie whole in the partition's stack range sets CSERR is the model's reading (log 24). -/
def Obligations.CsgoCopiesCode : Prop :=
  (∀ (s : State) (fn x : Nat) (v : Quad), s.hears fn x = true → s.behind fn = false →
    CsgoFits s fn x v.toNat → ∃ t, exec (.csgo fn x v) s = .next t ∧ (t.context (funcPart fn) x).csErr = false ∧
      (t.context (funcPart fn) x).csCopy = some {
        bank := fld v.toNat 0 0, first := fld v.toNat 22 12, count := fld v.toNat 34 23, src := (s.context (funcPart fn) x).csSrc, cores := (s.context (funcPart fn) x).cores } ∧
      (∀ c ∈ bitsBelow 48 (s.context (funcPart fn) x).cores, (t.core c).owner (fld v.toNat 0 0) = .ctx x) ∧ t.mem = s.mem ∧ t.out = s.out) ∧
  (∀ (s : State) (fn x : Nat) (v : Quad), s.hears fn x = true → s.behind fn = false →
    ¬ CsgoFits s fn x v.toNat → exec (.csgo fn x v) s = .next (s.updContext (funcPart fn) x (fun t => { t with csErr := true }))) ∧
  (∀ (s : State) (fn x : Nat) (v : Quad), s.hears fn x = true → s.behind fn = true →
    exec (.csgo fn x v) s = .next (s.holdHost (.csgo fn x v (s.context (funcPart fn) x).csSrc))) ∧
  (∀ (s : State) (p x : Nat) (y : CsCopy), (s.context p x).csCopy = some y →
    (Wk.read (s.partEnv p) { mem := s.mem } y.src (64 * y.count)).2.good = true →
    ∃ t, exec (.csgoDone p x) s = .next t ∧ (t.context p x).csCopy = none ∧ (t.context p x).csErr = (s.context p x).csErr ∧
      ∀ c ∈ bitsBelow 48 y.cores, s.liveBank c y.bank = false → y.bank < 2 →
        t.mem.bankRead c y.bank (64 * y.first) (64 * y.count) = (Wk.read (s.partEnv p) { mem := s.mem } y.src (64 * y.count)).1)

/-- PREEMPT, RESUME and CTXCTL (R210, R216 to R218, R223): PREEMPT begins a save that ends HELD, every queue that waits for no memory then stands at its
boundary, and a kernel that a fault has stopped is not saved; while RESTORING it is held, and without a running kernel dropped; RESUME makes it SAVED,
EN of 1 is taken where features are accepted and no function concerned quiesces, EN of 0 stops the running kernel with 0x0301 and discards a SAVED
or HELD one with that status; a changed PRIO can begin a save of the kernel for a pending start. That an EN of 1 that is not taken leaves EN while
the other fields are taken, and that PRIO acts at once, are the model's readings (log 24); the CYCLES of a discarded kernel are free (log 6). -/
def Obligations.ContextControl : Prop :=
  (∀ (s : State) (fn x : Nat) (k : Kernel), s.reachCtx fn x = true → (s.context (funcPart fn) x).kernel = some k → (s.context (funcPart fn) x).state = .running →
    (k.fault = none → ∃ t, exec (.preempt fn x) s = .next t ∧ OnlyStops s t ∧
      t.contexts = (s.setContext (funcPart fn) x { s.context (funcPart fn) x with state := .saving, trigger := some (true, 0x0303) }).contexts ∧
      ∀ c ∈ bitsBelow 48 (kdCores k.kd), ∀ r, (s.core c).run = some r → r.part = funcPart fn → r.ctx = x →
        ∀ q, q < 4 → ((t.core c).queue q).stopped = (((s.core c).queue q).stopped || !((s.core c).queue q).stalled)) ∧
    (k.fault.isSome = true → exec (.preempt fn x) s = .next s)) ∧
  (∀ (s : State) (fn x : Nat), s.reachCtx fn x = true →
    ((s.context (funcPart fn) x).kernel = none ∨ (s.context (funcPart fn) x).state = .saving ∨ (s.context (funcPart fn) x).state = .saved ∨
      (s.context (funcPart fn) x).state = .held) → exec (.preempt fn x) s = .next s) ∧
  (∀ (s : State) (fn x : Nat) (k : Kernel), s.reachCtx fn x = true → (s.context (funcPart fn) x).kernel = some k → k.fault = none →
    (s.context (funcPart fn) x).state = .restoring →
    exec (.preempt fn x) s = .next (s.setContext (funcPart fn) x { s.context (funcPart fn) x with
      trigger := some (true, match (s.context (funcPart fn) x).trigger with | some h => h.2 | none => 0x0303) })) ∧
  (∀ (s : State) (fn x : Nat), s.reachCtx fn x = true → (s.context (funcPart fn) x).state = .held →
    exec (.resume fn x) s = .next (s.setContext (funcPart fn) x { s.context (funcPart fn) x with state := .saved })) ∧
  (∀ (s : State) (fn x : Nat) (v : Quad), s.reachCtx fn x = true → v.toNat.testBit 0 = true → v.toNat.testBit 2 = false → v.toNat.testBit 3 = false →
    ∃ t, exec (.contextEn fn x v) s = .next t ∧ OnlyStops s t ∧
      { t.context (funcPart fn) x with state := .idle, trigger := none } = { s.context (funcPart fn) x with
        prio := fld v.toNat 5 4, en := s.mayEnableCtx fn x || (s.context (funcPart fn) x).en, state := .idle, trigger := none } ∧
      ((∀ z, z < ctxPer s.mode → (s.context (funcPart fn) z).pending = none) → t.context (funcPart fn) x = { s.context (funcPart fn) x with
        prio := fld v.toNat 5 4, en := s.mayEnableCtx fn x || (s.context (funcPart fn) x).en })) ∧
  (∀ (s : State) (fn x : Nat) (v : Quad) (k : Kernel), s.reachCtx fn x = true → v.toNat.testBit 0 = false → v.toNat.testBit 2 = false → v.toNat.testBit 3 = false →
    (s.context (funcPart fn) x).pending = none → (s.context (funcPart fn) x).kernel = some k → k.fault = none → k.step = false →
    ((s.context (funcPart fn) x).state = .saved ∨ (s.context (funcPart fn) x).state = .held) → (s.part (funcPart fn)).arrivalsIn = [] →
    ∃ t, exec (.contextEn fn x v) s = .next t ∧ (t.context (funcPart fn) x).en = false ∧ (t.context (funcPart fn) x).kernel = none ∧
      (t.context (funcPart fn) x).state = .idle ∧ (t.context (funcPart fn) x).prio = fld v.toNat 5 4 ∧
      (t.context (funcPart fn) x).kends = ((s.context (funcPart fn) x).kends + 1) % 2 ^ 32 ∧
      ∃ (flags : LaneFlags) (cycles : Nat), (t.context (funcPart fn) x).kreport = mkReport 0x0301 0 (kdKid k.kd) 0 0 0 flags k.stalls cycles) ∧
  (∀ (s : State) (fn x : Nat) (v : Quad) (k : Kernel), s.reachCtx fn x = true → v.toNat.testBit 0 = false → v.toNat.testBit 2 = false → v.toNat.testBit 3 = false →
    (s.context (funcPart fn) x).pending = none → (s.context (funcPart fn) x).kernel = some k → k.fault = none → (s.context (funcPart fn) x).state = .running →
    ∃ t, exec (.contextEn fn x v) s = .next t ∧ OnlyStops s t ∧
      { t.context (funcPart fn) x with state := .idle, trigger := none } = { s.context (funcPart fn) x with
        prio := fld v.toNat 5 4, en := false, kernel := some { k with fault := some { status := 0x0301 } }, state := .idle, trigger := none } ∧
      ((∀ z, z < ctxPer s.mode → (s.context (funcPart fn) z).pending = none) → t.context (funcPart fn) x = { s.context (funcPart fn) x with
        prio := fld v.toNat 5 4, en := false, kernel := some { k with fault := some { status := 0x0301 } } }))

/-- BELAY registers and CSLOG (R107, R201, R206): a write sets TARGET and CTX, a write with FORCE or a TARGET that is reached releases the round to
every core of the partition; a belay whose context is SAVED or HELD takes no write, nor does a TARGET beyond the partition's queues or another CTX
while arrivals are counted; clearing CSLOG clears VALID and DROP_COUNT. -/
def Obligations.BelayAndLogRegisters : Prop :=
  (∀ (s : State) (fn n : Nat) (v : Quad), s.reachPf fn = true → n < 256 → BelayTakes s (funcPart fn) n v.toNat → v.toNat.testBit 8 = false →
    ((Table.get {} (s.part (funcPart fn)).belays n).arrived = 0 ∨ (Table.get {} (s.part (funcPart fn)).belays n).arrived < fld v.toNat 7 0) →
    exec (.belayWrite fn n v) s = .next (s.updPart (funcPart fn) (fun t => { t with
      belays := Table.set t.belays n { Table.get {} t.belays n with target := fld v.toNat 7 0, ctx := fld v.toNat 37 32 } }))) ∧
  (∀ (s : State) (fn n : Nat) (v : Quad), s.reachPf fn = true → n < 256 → BelayTakes s (funcPart fn) n v.toNat →
    ∃ t, exec (.force fn n v) s = .next t ∧
      Table.get {} (t.part (funcPart fn)).belays n = {
        gen := ((Table.get {} (s.part (funcPart fn)).belays n).gen + 1) % 65536, arrived := 0, ctx := fld v.toNat 37 32, target := fld v.toNat 7 0 } ∧
      (t.part (funcPart fn)).releases = (s.part (funcPart fn)).releases ++
        (partCores s.mode (funcPart fn)).map (fun c => (c, n, ((Table.get {} (s.part (funcPart fn)).belays n).gen + 1) % 65536)) ∧
      t.mem = s.mem ∧ t.cores = s.cores ∧ t.out = s.out) ∧
  (∀ (s : State) (fn n : Nat) (v : Quad), s.reachPf fn = true → n < 256 → BelayTakes s (funcPart fn) n v.toNat →
    (v.toNat.testBit 8 = true ∨ ((Table.get {} (s.part (funcPart fn)).belays n).arrived ≠ 0 ∧ fld v.toNat 7 0 ≤ (Table.get {} (s.part (funcPart fn)).belays n).arrived)) →
    ∃ t, exec (.belayWrite fn n v) s = .next t ∧
      Table.get {} (t.part (funcPart fn)).belays n = {
        gen := ((Table.get {} (s.part (funcPart fn)).belays n).gen + 1) % 65536, arrived := 0, ctx := fld v.toNat 37 32, target := fld v.toNat 7 0 } ∧
      (t.part (funcPart fn)).releases = (s.part (funcPart fn)).releases ++
        (partCores s.mode (funcPart fn)).map (fun c => (c, n, ((Table.get {} (s.part (funcPart fn)).belays n).gen + 1) % 65536)) ∧
      t.mem = s.mem ∧ t.cores = s.cores ∧ t.out = s.out) ∧
  (∀ (s : State) (fn n : Nat) (v : Quad), s.reachPf fn = true → n < 256 → ¬ BelayTakes s (funcPart fn) n v.toNat →
    exec (.belayWrite fn n v) s = .next s ∧ exec (.force fn n v) s = .next s) ∧
  (∀ (s : State) (fn c : Nat), s.reachPf fn = true → c < 48 → partOfCore s.mode c = funcPart fn →
    exec (.cslogClear fn c) s = .next (s.setCore c { s.core c with cslog := { (s.core c).cslog with valid := false, drops := 0 } }))

/-- Rings and apertures (R283, R287, R349, R361, R367): a tail or head within the ring is taken and one beyond it ignored, a disabled function's tail is
ignored, a CFG is taken whole or ignored whole, and VFMAP gives a disabled VF its contexts and aperture, or is ignored whole. That a CFG whose EN of 1
may not be taken is ignored with its other fields is the model's reading (log 30). -/
def Obligations.RingAndVfmapRegisters : Prop :=
  (∀ (s : State) (fn v : Nat), s.hostReach fn = true → (s.func fn).disabled = false →
    (v % 2 ^ 32 + 2 ^ 32 - (s.func fn).rq.head) % 2 ^ 32 ≤ 2 ^ ringOrder (s.func fn).rq.cfg →
    exec (.rqtail fn v) s = .next (s.updFunc fn (fun f => { f with rq := { f.rq with tail := v % 2 ^ 32 } }))) ∧
  (∀ (s : State) (fn v : Nat), s.hostReach fn = true →
    ((s.func fn).disabled = true ∨ 2 ^ ringOrder (s.func fn).rq.cfg < (v % 2 ^ 32 + 2 ^ 32 - (s.func fn).rq.head) % 2 ^ 32) → exec (.rqtail fn v) s = .next s) ∧
  (∀ (s : State) (fn v : Nat), s.hostReach fn = true → NoBoundary s (funcPart fn) →
    ((s.func fn).cq.tail + 2 ^ 32 - v % 2 ^ 32) % 2 ^ 32 ≤ 2 ^ ringOrder (s.func fn).cq.cfg →
    exec (.cqhead fn v) s = .next (s.updFunc fn (fun f => { f with cq := { f.cq with head := v % 2 ^ 32 } }))) ∧
  (∀ (s : State) (fn v : Nat), s.hostReach fn = true →
    2 ^ ringOrder (s.func fn).cq.cfg < ((s.func fn).cq.tail + 2 ^ 32 - v % 2 ^ 32) % 2 ^ 32 → exec (.cqhead fn v) s = .next s) ∧
  (∀ (s : State) (fn : Nat) (old : Quad) (v : Nat), s.cfgOk fn old v = true ↔ 4 ≤ fld v 4 0 ∧ fld v 4 0 ≤ 16 ∧ (v.testBit 11 = true → ringEn old = false ∧
    (s.part (funcPart fn)).accepted = true ∧ (s.func fn).quiescing = false ∧ (s.func fn).disabled = false)) ∧
  (∀ (s : State) (fn : Nat) (v : Quad), s.hostReach fn = true → s.cfgOk fn (s.func fn).rq.cfg v.toNat = true →
    exec (.ringCfg fn false v) s = .next (s.updFunc fn (fun f => { f with rq := { f.rq with cfg := cfgValue v.toNat } }))) ∧
  (∀ (s : State) (fn : Nat) (v : Quad), s.hostReach fn = true → NoBoundary s (funcPart fn) → s.cfgOk fn (s.func fn).cq.cfg v.toNat = true →
    exec (.ringCfg fn true v) s = .next (s.updFunc fn (fun f => { f with cq := { f.cq with
      cfg := cfgValue v.toNat, wraps := if v.toNat.testBit 11 then 0 else f.cq.wraps } }))) ∧
  (∀ (s : State) (fn : Nat) (v : Quad), s.hostReach fn = true →
    (s.cfgOk fn (s.func fn).rq.cfg v.toNat = false → exec (.ringCfg fn false v) s = .next s) ∧
    (s.cfgOk fn (s.func fn).cq.cfg v.toNat = false → exec (.ringCfg fn true v) s = .next s)) ∧
  (∀ (s : State) (pf k : Nat) (v : BitVec 128), s.reachPf pf = true → 1 ≤ k → k ≤ 31 → s.vfmapOk pf k v.toNat = true →
    exec (.vfmap pf k v) s = .next (s.updFunc (pf + 4 * k) (fun f => { f with
      ctxmask := fld v.toNat (ctxPer s.mode - 1) 0, apsize := fld v.toNat 127 120, apbase := fld v.toNat 107 80 }))) ∧
  (∀ (s : State) (pf k : Nat) (v : BitVec 128), s.reachPf pf = true → s.vfmapOk pf k v.toNat = false → exec (.vfmap pf k v) s = .next s)

/-- Cache and serving registers and the rest (R9, R224, R228, R278, R283, R347, R352): KVFRAMES and KVGRANS are taken with an empty cache, SRVCTL whole
while EN is 0 and no step runs; an EN of 1 that may not be taken changes nothing, an EN of 0 acts after the step under way, else at once; FUNCCTL, the
staged record, the batch base and a VF's IDRANGE take their fields; an offset of no register takes nothing. The model's readings: SRVCTL is ignored
whole, a written KVFRAMES drops the frames still to return, only the PF writes IDRANGE (log 30); an EN of 0 outside a step acts at once (log 27). -/
def Obligations.ServingAndPlainRegisters : Prop :=
  ((∀ (s : State) (p : Nat) (v : Quad), s.reachPf p = true → s.cacheFree p = true → ∃ t, exec (.kvframes p v) s = .next t ∧
     (t.part p).kvframes = BitVec.ofNat 64 (fld v.toNat 19 0 + 2 ^ 32 * fld v.toNat 51 32) ∧ (t.part p).released = [] ∧
     (t.part p).kvgrans = (s.part p).kvgrans ∧ t.mem = s.mem ∧ t.out = s.out ∧
     (t.part p).freeFrames = ((t.part p).framePool.count - (t.part p).framePool.holders) * (partStacks s.mode p).length) ∧
   (∀ (s : State) (p : Nat) (v : Quad), s.reachPf p = true → s.cacheFree p = true → ∃ t, exec (.kvgrans p v) s = .next t ∧
     (t.part p).kvgrans = BitVec.ofNat 64 (fld v.toNat 23 0 + 2 ^ 32 * fld v.toNat 55 32) ∧ (t.part p).kvframes = (s.part p).kvframes ∧
     t.mem = s.mem ∧ t.out = s.out ∧
     (t.part p).freeGrans = ((t.part p).granPool.count - (t.part p).granPool.holders) * (partStacks s.mode p).length) ∧
   (∀ (s : State) (p : Nat) (v : Quad), s.reachPf p = true → s.cacheFree p = false → exec (.kvframes p v) s = .next s ∧ exec (.kvgrans p v) s = .next s) ∧
   (∀ (s : State) (p : Nat) (v : Quad), s.reachPf p = true → (s.part p).srvEn = false → (s.part p).phase ≠ .running → v.toNat.testBit 0 = false →
     exec (.srvctlEn p v) s = .next (s.setPart p { s.part p with
       chunkmax := fld v.toNat 63 48, rowsmax := fld v.toNat 47 32, seqmax := fld v.toNat 31 16, srvCtx := fld v.toNat 13 8 })) ∧
   (∀ (s : State) (p : Nat) (v : Quad), s.reachPf p = true → (s.part p).srvEn = false → (s.part p).phase ≠ .running → v.toNat.testBit 0 = true →
     (s.enableOk p ((s.part p).withSrvctl v.toNat) = true → exec (.srvctlEn p v) s =
       .next ((s.setPart p { (s.part p).withSrvctl v.toNat with srvEn := true, srvOff := false, wake := true }).goOn p)) ∧
     (s.enableOk p ((s.part p).withSrvctl v.toNat) = false → exec (.srvctlEn p v) s = .next s)) ∧
   (∀ (s : State) (p : Nat) (v : Quad), s.reachPf p = true → (s.part p).srvEn = false → (s.part p).phase = .running → NoBoundary s p →
     v.toNat.testBit 0 = true → s.enableOk p (s.part p) = true →
     exec (.srvctlEn p v) s = .next (s.setPart p { s.part p with srvEn := true, srvOff := false, wake := true })) ∧
   (∀ (s : State) (p : Nat) (v : Quad), s.reachPf p = true → (s.part p).srvEn = true → v.toNat.testBit 0 = true →
     (s.enableOk p (s.part p) = true → exec (.srvctlEn p v) s = .next (s.setPart p { s.part p with srvOff := false })) ∧
     (s.enableOk p (s.part p) = false → exec (.srvctlEn p v) s = .next s)) ∧
   (∀ (s : State) (p : Nat) (v : Quad), s.reachPf p = true → (s.part p).srvEn = true → v.toNat.testBit 0 = false →
     ((s.part p).stepAhead = true → exec (.srvctlEn p v) s = .next (s.setPart p { s.part p with srvOff := true })) ∧
     ((s.part p).stepAhead = false → exec (.srvctlEn p v) s = .next ((s.updPart p (fun t => { t with srvEn := false, srvOff := false })).startPieces p)))) ∧
  ((∀ (s : State) (fn : Nat) (v : Quad), s.hostReach fn = true →
     exec (.registerWrite fn 0x40 v) s = .next (s.updFunc fn (fun f => { f with ctl := fld v.toNat 2 0 }))) ∧
   (∀ (s : State) (fn x i : Nat) (v : Quad), s.reachCtx fn x = true → i < 8 →
     exec (.registerWrite fn (0x1_0000 + 256 * x + 8 * i) v) s = .next (s.updContext (funcPart fn) x (fun c => { c with
       kstart := BitVec.ofNat 512 (setFld c.kstart.toNat (64 * i + 63) (64 * i) v.toNat) }))) ∧
   (∀ (s : State) (p : Nat) (v : Quad), s.reachPf p = true → (s.part p).srvEn = false → (s.part p).phase ≠ .running →
     exec (.registerWrite p 0x2_0090 v) s = .next (s.updPart p (fun t => { t with bdbase := BitVec.ofNat 64 (fld v.toNat 43 16 * 2 ^ 16) }))) ∧
   (∀ (s : State) (fn : Nat) (v : Quad), s.reachPf (funcPart fn) = true → s.hasFunc fn = true → funcVf fn ≠ 0 →
     exec (.registerWrite fn 0x30 v) s = .next (s.updFunc fn (fun f => { f with idrange := fld v.toNat 9 0 + 2 ^ 16 * fld v.toNat 25 16 }))) ∧
   (∀ (s : State) (fn : Nat) (v : Quad), s.hostReach fn = true → exec (.registerWrite fn 0x60 v) s = .next s))

/-! ## Kernels: dispatch, routing, control commands (chapters 04, 08, 09) -/

/-- Where the regions of core c and of stack k begin (R22): every byte of each is reached at its base plus its offset, by a partition that holds it. -/
def Obligations.AddressesOfCoresAndStacks : Prop :=
  (∀ (mode part c off : Nat) (wide : Bool) (m : MemSys), c < 48 → partOfCore mode c = part →
    (off < 0x80_0000 → placeLocal mode part wide m (0x100_0000_0000 + c * 0x80_0000 + off) = .scratch c off) ∧
    (∀ b, b < 2 → off < 0x2_0000 → placeLocal mode part wide m (0x101_0000_0000 + c * 0x4_0000 + b * 0x2_0000 + off) = .bank c b off) ∧
    (off < 0x1_0000 → placeLocal mode part wide m (0x103_0000_0000 + c * 0x1_0000 + off) = .reg (0x103_0000_0000 + c * 0x1_0000 + off) ∧
      ∀ s : State, s.regByte (0x103_0000_0000 + c * 0x1_0000 + off) = BitVec.ofNat 8 (s.coreReg c (off / 8 * 8) >>> (8 * (off % 8))))) ∧
  (∀ (mode part k off : Nat) (wide : Bool) (m : MemSys), k < 16 → partOfStack mode k = part →
    (off < 0x10_0000 → placeLocal mode part wide m (0x102_0000_0000 + k * 0x10_0000 + off) = .subq k off) ∧
    (off < 0x1_0000 → placeLocal mode part wide m (0x103_0040_0000 + k * 0x1_0000 + off) = .reg (0x103_0040_0000 + k * 0x1_0000 + off) ∧
      ∀ s : State, s.regByte (0x103_0040_0000 + k * 0x1_0000 + off) = BitVec.ofNat 8 (s.stackReg k (off / 8 * 8) >>> (8 * (off % 8)))))

/-- KERNEL_DISPATCH (R82, R112, R113, R125, R213, R221): the chosen start begins on every listed core, with an empty set of queues from its
entry point, zeroed accumulators, flags and spool; a SAVED kernel begins its restore, with the scratch units that its image does not hold zeroed on
each core that another context used last (R215); a start that fails its checks ends with 0x0102. Which context counts as chosen last is the model's
choice (log 13). -/
def Obligations.KernelDispatchBeginsTheChosenKernel : Prop :=
  (∀ (s : State) (p x : Nat) (st : Start), s.isLive = true → s.drainHeld p = false → s.choose p = some x → (s.context p x).kernel = none →
    (s.context p x).pending = some st → s.startOk p x st.kd = true →
    ∃ t, exec (.kernelDispatch p) s = .next t ∧ (t.context p x).state = .running ∧ (t.context p x).pending = none ∧
      (∃ k, (t.context p x).kernel = some k ∧ k.kd = st.kd ∧ k.step = st.step) ∧ (t.part p).lastCtx = x ∧
      ∀ c ∈ bitsBelow 48 (kdCores st.kd),
        (t.core c).run = some ⟨p, x, st.kd, (bitsBelow c (kdCores st.kd)).length⟩ ∧ (t.core c).fetch = kdEntry st.kd ∧ (t.core c).fetchDone = false ∧
        (t.core c).qMx.cmds = [] ∧ (t.core c).qVec.cmds = [] ∧ (t.core c).qDma.cmds = [] ∧ (t.core c).qSeq.cmds = [] ∧
        (t.core c).acc = [] ∧ (t.core c).kflags = 0 ∧ (t.core c).w0 = none ∧ (t.core c).w1 = none ∧ (t.core c).active = none ∧
        (t.core c).streams = [] ∧ (t.core c).spool.credits = 16 ∧ (t.core c).spool.epoch = 0 ∧ (t.core c).lastUse = .ctx x) ∧
  (∀ (s : State) (p x : Nat) (k : Kernel), s.isLive = true → s.drainHeld p = false → s.choose p = some x → (s.context p x).kernel = some k →
    ∃ t, exec (.kernelDispatch p) s = .next t ∧ (t.context p x).state = .restoring ∧ (t.context p x).kernel = some k ∧
      (∀ c ∈ bitsBelow 48 (kdCores k.kd), (t.core c).run = (Table.get {} (s.context p x).savedCores c).run) ∧
      (∀ c off, Memory.wf s.mem = true → c ∈ bitsBelow 48 (kdCores k.kd) → (∃ y, (s.core c).lastUse = .ctx y ∧ y ≠ x) →
        (s.context p x).units * 0x4_0000 ≤ off → off < 0x80_0000 →
        t.mem.scratchRead c off 1 = [0]) ∧
      ((∀ c ∈ bitsBelow 48 (kdCores k.kd), ∀ y, (s.core c).lastUse = .ctx y → y = x) → t.mem = s.mem) ∧ t.out = s.out) ∧
  (∀ (s : State) (p x : Nat) (st : Start), s.isLive = true → s.drainHeld p = false → s.choose p = some x → (s.context p x).kernel = none →
    (s.context p x).pending = some st → st.step = false → s.startOk p x st.kd = false →
    ∃ t, exec (.kernelDispatch p) s = .next t ∧ (t.context p x).pending = none ∧ (t.context p x).kernel = none ∧
      (t.context p x).kreport = mkReport 0x0102 0 (kdKid st.kd) 0 0 0 0 0 0 ∧ t.mem = s.mem)

/-- COMMAND_ROUTE (R87, R89): the next block enters the queue of its class, KEND enters all four and ends the fetch, and a fetch past index 2,047
stops the kernel with 0x0101. -/
def Obligations.CommandRouteFillsTheQueues : Prop :=
  (∀ (s : State) (c : Nat) (r : CoreRun) (k : Kernel), s.running c = some (r, k) → k.copying = 0 → k.fault = none → (s.core c).fetchDone = false →
    (s.core c).fetch < 2048 → cbOp (fetched s c r) ≠ 0x0001 → ((s.core c).queue (cbQueue (fetched s c r))).room = true →
    ∃ t, exec (.commandRoute c) s = .next t ∧ (t.core c).fetch = (s.core c).fetch + 1 ∧
      ((t.core c).queue (cbQueue (fetched s c r))).cmds = ((s.core c).queue (cbQueue (fetched s c r))).cmds ++ [fetched s c r] ∧
      (∀ q, q < 4 → q ≠ cbQueue (fetched s c r) → cbQueue (fetched s c r) < 4 → (t.core c).queue q = (s.core c).queue q) ∧
      { t with cores := [] } = { s with cores := [] } ∧ ∀ d, d ≠ c → t.core d = s.core d) ∧
  (∀ (s : State) (c : Nat) (r : CoreRun) (k : Kernel), s.running c = some (r, k) → k.copying = 0 → k.fault = none → (s.core c).fetchDone = false →
    (s.core c).fetch < 2048 → cbOp (fetched s c r) = 0x0001 → (∀ q, q < 4 → ((s.core c).queue q).room = true) →
    ∃ t, exec (.commandRoute c) s = .next t ∧ (t.core c).fetchDone = true ∧
      (∀ q, q < 4 → ((t.core c).queue q).cmds = ((s.core c).queue q).cmds ++ [fetched s c r]) ∧
      { t with cores := [] } = { s with cores := [] } ∧ ∀ d, d ≠ c → t.core d = s.core d) ∧
  (∀ (s : State) (c : Nat) (r : CoreRun) (k : Kernel), s.running c = some (r, k) → k.copying = 0 → k.fault = none → (s.core c).fetchDone = false →
    2048 ≤ (s.core c).fetch →
    ∃ t, exec (.commandRoute c) s = .next t ∧ (t.context r.part r.ctx).kernel = some { k with fault := some { status := 0x0101, core := c } } ∧ t.mem = s.mem)

/-- NOP, KEND, BRK and an unlisted opcode (R87, R102, R103, R108, R110): NOP and KEND count, retire and change nothing else, KEND ends its queue; BRK
holds the context with 0x0106 and retires after the resume; an opcode that is not listed stops the kernel with 0x0101. -/
def Obligations.ControlCommandsAndBreaks : Prop :=
  ((∀ (s : State) (c q : Nat) (r : CoreRun) (k : Kernel) (b : BitVec 512) (rest : List (BitVec 512)), q < 4 → AtHead s c q r k b rest →
     cbOp b = 0x0000 → cbFormOk b ctlForm = true → imm b 255 0 = 0 → cbNest b = 0xFFFF →
     ∃ t, exec (.nop c q) s = .next t ∧ LeftQueue s t c q r rest ∧ ((t.core c).queue q).kend = ((s.core c).queue q).kend) ∧
   (∀ (s : State) (c q : Nat) (r : CoreRun) (k : Kernel) (b : BitVec 512) (rest : List (BitVec 512)), q < 4 → AtHead s c q r k b rest →
     cbOp b = 0x0001 → cbFormOk b { uses := [false, false, false, false] } = true → imm b 255 0 = 0 → cbNest b = 0xFFFF →
     ∃ t, exec (.kend c q) s = .next t ∧ LeftQueue s t c q r rest ∧ ((t.core c).queue q).kend = true) ∧
   (∀ (s : State) (c q : Nat) (r : CoreRun) (k : Kernel) (b : BitVec 512) (rest : List (BitVec 512)), q < 4 → AtHead s c q r k b rest →
     opListed (cbOp b) = false →
     ∃ t, exec (.unlistedOpcode c q) s = .next t ∧ ((t.core c).queue q).count = nextCount ((s.core c).queue q).count ∧
       ((t.core c).queue q).cmds = b :: rest ∧ t.mem = s.mem ∧ t.out = s.out ∧
       (t.context r.part r.ctx).kernel = some { k with
         fault := some { status := 0x0101, tag := cbTag b, count := nextCount ((s.core c).queue q).count, queue := q, core := c } })) ∧
  ((∀ (s : State) (c q : Nat) (r : CoreRun) (k : Kernel) (b : BitVec 512) (rest : List (BitVec 512)), q < 4 → AtHead s c q r k b rest →
     cbOp b = 0x0002 → ((s.core c).queue q).brkTaken = false →
     ∃ t, exec (.brk c q) s = .next t ∧ (t.context r.part r.ctx).state = .saving ∧ (t.context r.part r.ctx).trigger = some (true, 0x0106) ∧
       ((t.core c).queue q).brkTaken = true ∧ ((t.core c).queue q).cmds = b :: rest ∧ ((t.core c).queue q).count = ((s.core c).queue q).count ∧ t.mem = s.mem) ∧
   (∀ (s : State) (c q : Nat) (r : CoreRun) (k : Kernel) (b : BitVec 512) (rest : List (BitVec 512)), q < 4 → AtHead s c q r k b rest →
     cbOp b = 0x0002 → ((s.core c).queue q).brkTaken = true → cbFormOk b ctlForm = true → imm b 255 0 = 0 → cbNest b = 0xFFFF →
     ∃ t, exec (.brk c q) s = .next t ∧ LeftQueue s t c q r rest ∧ ((t.core c).queue q).brkTaken = false))

/-- Belays (R201 to R204, R207): BELAY_ARRIVE adds an entry, which leaves for the unit once the queue's earlier
commands are complete; an arrival from another die comes after those sent before it on its link; the unit counts an
arrival, replies with its GEN and releases the round at TARGET, or stops the kernel where the belay is not the
context's; a release reaches the entries that have their reply, and ends the wait of an entry of an older round. -/
def Obligations.BelaysArriveCountAndRelease : Prop :=
  (∀ (s : State) (c q : Nat) (r : CoreRun) (k : Kernel) (b : BitVec 512) (rest : List (BitVec 512)), q < 4 → AtHead s c q r k b rest →
    cbOp b = 0x6001 → cbFormOk b belayForm = true → imm b 255 8 = 0 → ((s.core c).queue q).arrivals = [] →
    s.arriveReady r.part c q (nextCount ((s.core c).queue q).count) = true →
    ∃ t, exec (.belayArrive c q) s = .next t ∧ ((t.core c).queue q).cmds = rest ∧ ((t.core c).queue q).run = none ∧
      (∃ a, ((t.core c).queue q).arrivals = [a] ∧ a.belay = cbBelay b ∧ a.sent = true ∧ a.gen = none) ∧
      (t.part r.part).arrivalsIn = (s.part r.part).arrivalsIn ++ [(c, q, cbBelay b, r.ctx)] ∧ t.mem = s.mem ∧ t.out = s.out) ∧
  (∀ (s : State) (c q n x : Nat), (s.part (partOfCore s.mode c)).arrivalsIn.find? (fun t => t.1 == c && t.2.1 == q && t.2.2.1 == n) = some (c, q, n, x) →
    s.arrivalNext (partOfCore s.mode c) (c, q, n, x) = true →
    (Table.get {} (s.part (partOfCore s.mode c)).belays n).ctx = x → (Table.get {} (s.part (partOfCore s.mode c)).belays n).target ≠ 0 →
    (s.part (partOfCore s.mode c)).releases = [] →
    ∃ t, exec (.belayArrival c q n) s = .next t ∧
      (t.part (partOfCore s.mode c)).arrivalsIn = (s.part (partOfCore s.mode c)).arrivalsIn.erase (c, q, n, x) ∧
      ((Table.get {} (s.part (partOfCore s.mode c)).belays n).arrived + 1 < (Table.get {} (s.part (partOfCore s.mode c)).belays n).target →
        Table.get {} (t.part (partOfCore s.mode c)).belays n =
          { Table.get {} (s.part (partOfCore s.mode c)).belays n with arrived := (Table.get {} (s.part (partOfCore s.mode c)).belays n).arrived + 1 } ∧
        (t.part (partOfCore s.mode c)).releases = []) ∧
      ((Table.get {} (s.part (partOfCore s.mode c)).belays n).target ≤ (Table.get {} (s.part (partOfCore s.mode c)).belays n).arrived + 1 →
        Table.get {} (t.part (partOfCore s.mode c)).belays n = { Table.get {} (s.part (partOfCore s.mode c)).belays n with
          gen := ((Table.get {} (s.part (partOfCore s.mode c)).belays n).gen + 1) % 65536, arrived := 0 } ∧
        (t.part (partOfCore s.mode c)).releases = (partCores s.mode (partOfCore s.mode c)).map (fun d =>
          (d, n, ((Table.get {} (s.part (partOfCore s.mode c)).belays n).gen + 1) % 65536))) ∧
      (∀ (r : CoreRun) (k : Kernel), s.running c = some (r, k) → r.part = partOfCore s.mode c → r.ctx = x → q < 4 → ((t.core c).queue q).arrivals =
        ((s.core c).queue q).arrivals.map (fun a => if a.belay = n then
          { a with gen := some (Table.get {} (s.part (partOfCore s.mode c)).belays n).gen, released := none } else a)) ∧
      t.mem = s.mem ∧ t.out = s.out) ∧
  (∀ (s : State) (c q n x : Nat), (s.part (partOfCore s.mode c)).arrivalsIn.find? (fun t => t.1 == c && t.2.1 == q && t.2.2.1 == n) = some (c, q, n, x) →
    c / 12 ≠ s.belayDie (partOfCore s.mode c) →
    (∃ u, (s.part (partOfCore s.mode c)).arrivalsIn.find? (fun u => u.1 / 12 == c / 12) = some u ∧ u ≠ (c, q, n, x)) → exec (.belayArrival c q n) s = .next s) ∧
  (∀ (s : State) (c q n x : Nat) (k : Kernel), (s.part (partOfCore s.mode c)).arrivalsIn.find? (fun t => t.1 == c && t.2.1 == q && t.2.2.1 == n) = some (c, q, n, x) →
    s.arrivalNext (partOfCore s.mode c) (c, q, n, x) = true →
    ((Table.get {} (s.part (partOfCore s.mode c)).belays n).target = 0 ∨ (Table.get {} (s.part (partOfCore s.mode c)).belays n).ctx ≠ x) →
    (s.context (partOfCore s.mode c) x).kernel = some k → k.fault = none →
    ∃ t f, exec (.belayArrival c q n) s = .next t ∧ (t.context (partOfCore s.mode c) x).kernel = some { k with fault := some f } ∧ f.status = 0x0102 ∧ f.queue = q ∧ f.core = c) ∧
  (∀ (s : State) (c q : Nat) (r : CoreRun) (k : Kernel) (b : BitVec 512) (rest : List (BitVec 512)) (a : Arrival), q < 4 → AtHead s c q r k b rest →
    cbOp b = 0x6002 → cbFormOk b belayForm = true → imm b 255 8 = 0 → ((s.core c).queue q).arrivals = [a] → a.belay = cbBelay b → a.over = true →
    ∃ t, exec (.belayWait c q) s = .next t ∧ LeftQueue s t c q r rest ∧ ((t.core c).queue q).arrivals = []) ∧
  (∀ (s : State) (p c n g : Nat) (l : List (Nat × Nat × Nat)), (s.part p).releases = (c, n, g) :: l →
    ∃ t, exec (.belayRelease p c) s = .next t ∧ (t.part p).releases = l ∧ t.mem = s.mem ∧ t.out = s.out) ∧
  (∀ (s : State) (c n g q : Nat) (l : List (Nat × Nat × Nat)) (r : CoreRun) (k : Kernel), s.running c = some (r, k) → r.ctx < ctxPer s.mode → q < 4 →
    (s.part r.part).releases = (c, n, g) :: l → (∀ j, j < 4 → ((s.core c).queue j).run = none) →
    ∃ t, exec (.belayRelease r.part c) s = .next t ∧ ((t.core c).queue q).arrivals =
      ((s.core c).queue q).arrivals.map (fun a => if a.belay = n ∧ a.gen.isSome = true then { a with released := some g } else a)) ∧
  (∀ (s : State) (c n g old q : Nat) (l : List (Nat × Nat × Nat)) (r : CoreRun) (k : Kernel) (i : Issued) (a : Arrival), s.running c = some (r, k) →
    r.ctx < ctxPer s.mode → q < 4 → (s.part r.part).releases = (c, n, g) :: l → (∀ j, j < 4 → j ≠ q → ((s.core c).queue j).run = none) →
    ((s.core c).queue q).run = some i → i.issued = true → cbOp i.block = 0x6002 → cbBelay i.block = n → ((s.core c).queue q).lateFault = none →
    ((s.core c).queue q).arrivals = [a] → a.belay = n → a.gen = some old → g ≠ old →
    ∃ t, exec (.belayRelease r.part c) s = .next t ∧ ((t.core c).queue q).run = none ∧ ((t.core c).queue q).cmds = ((s.core c).queue q).cmds.drop 1 ∧
      ((t.core c).queue q).arrivals = [])

/-- KERNEL_END (R102, R104, R105): a kernel whose queues have all retired KEND ends; its cores are free, and its report carries the STATUS, KID
and the OR of the lane flags. -/
def Obligations.KernelEndReportsAndFreesCores : Prop :=
  ∀ (s : State) (p x cycles periods : Nat) (k : Kernel), (s.context p x).kernel = some k → k.step = false → k.fault = none → (s.context p x).state = .running →
    s.anyLate (bitsBelow 48 (kdCores k.kd)) = none → s.ended p x k = true → (s.part p).arrivalsIn = [] →
    ∃ t, exec (.kernelEnd p x cycles periods) s = .next t ∧ (t.context p x).kernel = none ∧ (t.context p x).state = .idle ∧
      (∀ c ∈ bitsBelow 48 (kdCores k.kd), (t.core c).run = none ∧ ∀ q, q < 4 →
        ((t.core c).queue q).cmds = [] ∧ ((t.core c).queue q).count = ((s.core c).queue q).count) ∧
      (t.context p x).kends = ((s.context p x).kends + 1) % 2 ^ 32 ∧
      (t.context p x).kreport = mkReport (reportStatus none k.liveWrite (flagsOf s k)) 0 (kdKid k.kd) 0 0 0 (flagsOf s k) k.stalls cycles

/-- SAVE_COMPLETE and RESTORE_COMPLETE (R211, R216, R219, R221): a save at its boundary writes every core's image and frees the cores, HELD or SAVED
as its trigger says; a restore whose images are good runs the kernel again, and one with a bad header ends it with 0x0102, its CYCLES free (log 6). -/
def Obligations.SaveAndRestore : Prop :=
  (∀ (s : State) (p x cycles status : Nat) (hold : Bool) (k : Kernel), (s.context p x).kernel = some k → (s.context p x).trigger = some (hold, status) →
    (s.context p x).state = .saving → k.fault = none → s.coresQuiet p (bitsBelow 48 (kdCores k.kd)) = true → s.stkBusy p x = false →
    (∀ c ∈ bitsBelow 48 (kdCores k.kd), s.forwardsOn c = false ∧ ∀ q, q < 4 → (s.core c).atBoundary q = true) → s.host.filter = [] →
    (∀ j, (s.mem.stack j).refreshing = [] ∧ (s.mem.stack j).retries = []) →
    ∃ t, exec (.saveComplete p x cycles) s = .next t ∧ (t.context p x).state = (if hold then .held else .saved) ∧ (t.context p x).trigger = none ∧
      (t.context p x).status = status ∧ (t.context p x).saves = satAdd 32 (s.context p x).saves 1 ∧ (t.context p x).saveCycles = cycles % 2 ^ 32 ∧
      (∀ c ∈ bitsBelow 48 (kdCores k.kd), (t.core c).run = none) ∧
      t.mem = { (s.imagesOf p x k).foldl (fun m l => saveLine (s.partEnv p) m l.1 l.2) s.mem with
        fresh := ((s.imagesOf p x k).foldl (fun m l => saveLine (s.partEnv p) m l.1 l.2) s.mem).fresh + 1 }) ∧
  (∀ (s : State) (p x cycles : Nat) (k : Kernel), (s.context p x).kernel = some k → (s.context p x).state = .restoring → k.fault = none →
    (∀ c ∈ bitsBelow 48 (kdCores k.kd), s.headerWaits p x c = false) →
    (imagesRead s p x k).2.good = true → (∀ c ∈ bitsBelow 48 (kdCores k.kd), s.headerBad p x c = false) →
    ∃ t, exec (.restoreComplete p x cycles) s = .next t ∧
      (t.context p x).kernel = some { k with kd := withKid k.kd ((((imagesRead s p x k).1.head?).map (fun i => fld i.2.hdr 95 64)).getD (kdKid k.kd)) } ∧
      (t.context p x).state = (if (s.context p x).trigger.isSome then .saving else .running) ∧ (t.context p x).restoreCycles = cycles % 2 ^ 32 ∧
      ∀ i ∈ (imagesRead s p x k).1, (t.core i.1).lastUse = .ctx x ∧ (t.core i.1).run = (Table.get {} (s.context p x).savedCores i.1).run.map (fun r =>
          { r with kd := withKid r.kd ((((imagesRead s p x k).1.head?).map (fun i => fld i.2.hdr 95 64)).getD (kdKid k.kd)) }) ∧
        (t.core i.1).spool.lockstep = false ∧ (t.core i.1).kflags = BitVec.ofNat 6 (fld i.2.hdr 127 96)) ∧
  (∀ (s : State) (p x cycles : Nat) (k : Kernel), (s.context p x).kernel = some k → (s.context p x).state = .restoring → k.fault = none → k.step = false →
    (∀ c ∈ bitsBelow 48 (kdCores k.kd), s.headerWaits p x c = false) →
    (imagesRead s p x k).2.good = true → (∃ c ∈ bitsBelow 48 (kdCores k.kd), s.headerBad p x c = true) → (s.part p).arrivalsIn = [] →
    ∃ t, exec (.restoreComplete p x cycles) s = .next t ∧ (t.context p x).kernel = none ∧ (t.context p x).state = .idle ∧
      (∃ (flags : LaneFlags) (n : Nat), (t.context p x).kreport = mkReport 0x0102 0 (kdKid k.kd) 0 0 0 flags k.stalls n) ∧
      (t.context p x).kends = ((s.context p x).kends + 1) % 2 ^ 32)

/-! ## Engines (chapters 04 to 06) -/

/-- DMA, MXM and VEC commands that carry a nest (R98, R101, R114, R117, R134, R139 to R153): at its last iteration a command whose operands are bound
and whose work neither faults nor waits takes effect whole, and retires; V_SAMPLE needs its feature accepted. -/
def Obligations.EngineCommandsComplete : Prop :=
  ((∀ c, NestCompletes (.dmaCopy c) c 2 0x2001 true copyWork) ∧ (∀ c, NestCompletes (.dmaFill c) c 2 0x2002 true fillWork) ∧
   (∀ c, NestCompletes (.mxLoadw c) c 0 0x3001 true loadWork) ∧ (∀ c, NestCompletes (.mxMac c) c 0 0x3002 true macWork)) ∧
  ((∀ c, NestCompletes (.vLoad c) c 1 0x4001 false loadRowWork) ∧ (∀ c, NestCompletes (.vStore c) c 1 0x4002 false storeRowWork) ∧
   (∀ c, NestCompletes (.vEwise c) c 1 0x4003 false ewiseWork) ∧ (∀ c, NestCompletes (.vReduce c) c 1 0x4004 false reduceWork) ∧
   (∀ c, NestCompletes (.vSoftmax c) c 1 0x4005 false softmaxWork) ∧ (∀ c, NestCompletes (.vRotary c) c 1 0x4006 false rotaryWork) ∧
   (∀ c, NestCompletes (.vConvert c) c 1 0x4007 false convertWork) ∧ (∀ c, NestCompletes (.vGather c) c 1 0x4008 false gatherWork) ∧
   (∀ c, NestCompletes (.vScatter c) c 1 0x4009 false scatterWork) ∧
   (∀ (c : Nat) (s : State), s.accepts (partOfCore s.mode c) 15 = true → NestCompletesAt s (.vSample c) c 1 0x400A false sampleWork))

/-- V_EWISE on registers (R138, R141, R142): each lane of each row of the destination block takes the function of the sources' lanes, and every other
register lane and all memory stay. -/
def Obligations.EwiseWritesItsRegisterBlock : Prop :=
  ∀ (s : State) (c : Nat) (r : CoreRun) (iss : Issued) (ops : List Opn) (a b d : Nat), AtLastIteration s c 1 0x4003 r iss →
    bindOps (fun _ o => addrsOk (s.env c 1 r) ((s.env c 1 r).allowed s.mem) o) iss.block iss.descs false ((s.core c).entries iss.block) = .ok ops →
    (s.core c).compat = false → cbOpd iss.block 0 = 0xFF00 + a → cbOpd iss.block 1 = 0xFF00 + b → cbOpd iss.block 3 = 0xFF00 + d →
    a < 64 → b < 64 → d < 64 → vFn iss.block ≠ 4 → ewBmode iss.block = 0 → vTail iss.block = false → cbStream iss.block = 0xFFFF → cbSbind iss.block = 0 →
    vLanes iss.block ≤ 256 → (a = d ∨ a + vRows iss.block ≤ d ∨ d + vRows iss.block ≤ a) → (b = d ∨ b + vRows iss.block ≤ d ∨ d + vRows iss.block ≤ b) →
    ∃ t, exec (.vEwise c) s = .next t ∧ t.mem = s.mem ∧ t.out = s.out ∧ ((t.core c).queue 1).run = none ∧
      ((t.core c).queue 1).cmds = ((s.core c).queue 1).cmds.drop 1 ∧
      (∀ l i, l < vLanes iss.block → i < vRows iss.block → (t.core c).vregWord (256 * (d + i) + l) =
        (ewise (vFn iss.block) ((s.core c).vregWord (256 * (a + i) + l)) (if fnTakesB (vFn iss.block) then (s.core c).vregWord (256 * (b + i) + l) else 0) 0).1) ∧
      (∀ l i, l < 256 → ¬ (l < vLanes iss.block ∧ d ≤ i ∧ i < d + vRows iss.block) → (t.core c).vregWord (256 * i + l) = (s.core c).vregWord (256 * i + l))

/-- MX_MAC with the active tile (R113, R114, R120): each accumulator element at an activation row and a weight column takes one pass: the sum of the
products in ascending k, begun at +0, is added to it; every other element stays. -/
def Obligations.MacAccumulatesRowByColumn : Prop :=
  ∀ (k : Core) (b : BitVec 512) (t : WTile) (af : Nat) (rows : List (List Elem)), mxMode t.format ≠ some 3 → mxMode t.format ≠ none →
    t.n ≤ mxN ((mxMode t.format).getD 0) → rows.length + 32 * macRgroup b ≤ 256 → (mxMode t.format ≠ some 2 → macChalf b = 0) → macAbank b < 8 →
    (∀ r n, r < rows.length → n < t.n →
      (k.accumulate b t af rows).accAt (macAbank b) (32 * macRgroup b + r) (n + 128 * macChalf b) =
        mxAdd (k.accAt (macAbank b) (32 * macRgroup b + r) (n + 128 * macChalf b))
          ((((rows.getD r []).map (fun v => elemValue af v.code v.scale)).zip ((List.range t.k).map (fun i => t.value i n))).foldl
            (fun s p => mxAddProd s (p.1.mul p.2).1) 0)) ∧
    (∀ bank row col, row < 256 → col < 256 → ¬ (bank = macAbank b ∧ 32 * macRgroup b ≤ row ∧ row < 32 * macRgroup b + rows.length ∧
        128 * macChalf b ≤ col ∧ col < 128 * macChalf b + t.n) →
      (k.accumulate b t af rows).accAt bank row col = k.accAt bank row col) ∧
    { k.accumulate b t af rows with acc := [] } = { k with acc := [] }

/-- MX_ZERO, MX_DRAIN and the spool's consumer (R118, R123, R125, R127 to R130, R154, R155): the named groups become +0; a drained slot carries its tag,
place and rows and takes a credit; V_SPOOL delivers the slot whose tag is due and returns the credit; a pair of flushes begins a new epoch. -/
def Obligations.AccumulatorsAndSpool : Prop :=
  ((∀ (s : State) (c : Nat) (r : CoreRun) (iss : Issued), (∃ k, s.running c = some (r, k)) → ((s.core c).queue 0).run = some iss → iss.issued = true →
     iss.iter = 0 → cbOp iss.block = 0x3004 → ((s.core c).queue 0).lateFault = none →
     ∃ t, exec (.mxZero c) s = .next t ∧ ((t.core c).queue 0).run = none ∧ ((t.core c).queue 0).cmds = ((s.core c).queue 0).cmds.drop 1 ∧
       (∀ bank row col, bank < 8 → row < 256 → col < 256 → (t.core c).accAt bank row col =
         if (imm iss.block 7 0).testBit bank ∧ (imm iss.block 15 8).testBit (row / 32) then 0 else (s.core c).accAt bank row col) ∧
       t.mem = s.mem ∧ t.out = s.out ∧ (t.core c).spool = (s.core c).spool ∧ (t.core c).vregs = (s.core c).vregs ∧ ∀ e, e ≠ c → t.core e = s.core e) ∧
   (∀ (s : State) (c cycle : Nat) (r : CoreRun) (iss : Issued), (∃ k, s.running c = some (r, k)) → ((s.core c).queue 0).run = some iss → iss.issued = true →
     cbOp iss.block = 0x3003 → iss.iter + 1 = (maskPairs iss.block).length → ((s.core c).spool.lockstep = true ∨ 0 < (s.core c).spool.credits) →
     ((s.core c).queue 0).lateFault = none →
     ∃ t, exec (.mxDrain c cycle) s = .next t ∧ ((t.core c).queue 0).run = none ∧ ((t.core c).queue 0).cmds = ((s.core c).queue 0).cmds.drop 1 ∧
       (t.core c).spool.prod = (s.core c).spool.prod + 1 ∧
       (t.core c).spool.credits = (if (s.core c).spool.lockstep then (s.core c).spool.credits else (s.core c).spool.credits - 1) ∧
       (Table.get {} (t.core c).spool.slots ((s.core c).spool.prod % 16)).tag = (s.core c).spool.prod % 65535 ∧
       (Table.get {} (t.core c).spool.slots ((s.core c).spool.prod % 16)).bank = ((maskPairs iss.block).getD iss.iter (0, 0)).1 ∧
       (Table.get {} (t.core c).spool.slots ((s.core c).spool.prod % 16)).group = ((maskPairs iss.block).getD iss.iter (0, 0)).2 ∧
       (Table.get {} (t.core c).spool.slots ((s.core c).spool.prod % 16)).rows =
         (s.core c).groupRows ((maskPairs iss.block).getD iss.iter (0, 0)).1 ((maskPairs iss.block).getD iss.iter (0, 0)).2 ∧
       (t.core c).acc = (if imm iss.block 16 16 = 1 then
         (s.core c).zeroGroup ((maskPairs iss.block).getD iss.iter (0, 0)).1 ((maskPairs iss.block).getD iss.iter (0, 0)).2 else s.core c).acc ∧
       t.mem = s.mem ∧ t.out = s.out)) ∧
  ((∀ c, NestCompletes (.vSpool c) c 1 0x400B false (spoolWork none)) ∧
   (∀ (c epoch : Nat) (s : State), (s.core c).spool.lockstep = true → NestCompletesAt s (.spoolReadAt c epoch) c 1 0x400B false (spoolWork (some epoch))) ∧
   (∀ (e : Env) (k : Core) (iss : Issued) (ops : List Opn) (n : Nat) (w : Wk), k.spool.lockstep = false →
     (Table.get {} k.spool.slots (k.spool.cons % 16)).tag = k.spool.cons % 65535 →
     (spoolWork none e k iss ops n w).1.spool = k.spool.consume k.spool.epoch ∧ (k.spool.consume k.spool.epoch).cons = k.spool.cons + 1 ∧
     (k.spool.consume k.spool.epoch).credits = min 16 (k.spool.credits + 1) ∧
     (spoolWork none e k iss ops n w).1.lastslot = slotHeader (k.spool.cons % 65535) (Table.get {} k.spool.slots (k.spool.cons % 16)).bank
       (Table.get {} k.spool.slots (k.spool.cons % 16)).group (Table.get {} k.spool.slots (k.spool.cons % 16)).dtag) ∧
   (∀ (s : State) (c : Nat) (r : CoreRun) (k : Kernel) (i j : Issued), s.running c = some (r, k) → (s.core c).qMx.run = some i → (s.core c).qVec.run = some j →
     i.issued = true → j.issued = true → cbOp i.block = 0x6010 → cbOp j.block = 0x6010 → (s.core c).qMx.kend = false → (s.core c).qVec.kend = false →
     (s.core c).qMx.lateFault = none → (s.core c).qVec.lateFault = none →
     (∀ q, 2 ≤ q → q < 4 → ((s.core c).queue q).cmds = [] ∧ ((s.core c).queue q).run = none) →
     ∃ t, exec (.spoolFlush c) s = .next t ∧
       (t.core c).spool = (s.core c).spool.newEpoch ∧ (t.core c).spool.prod = 0 ∧ (t.core c).spool.cons = 0 ∧ (t.core c).spool.credits = 16 ∧
       (t.core c).spool.epoch = 0 ∧ (t.core c).qMx.run = none ∧ (t.core c).qVec.run = none ∧
       (t.core c).qMx.cmds = (s.core c).qMx.cmds.drop 1 ∧ (t.core c).qVec.cmds = (s.core c).qVec.cmds.drop 1 ∧
       (t.core c).acc = (s.core c).acc ∧ (t.core c).vregs = (s.core c).vregs ∧ t.mem = s.mem ∧ t.out = s.out))

/-- The sequencer (R97, R99, R192, R231): the slot of a stride, index or page command takes the entry of its last iteration behind the ones it holds,
and its stream is then exhausted. -/
def Obligations.SequencerFillsItsSlots : Prop :=
  (∀ c, SeqCompletes (.seqStride c) c 0x1001 strideEntry) ∧ (∀ c, SeqCompletes (.seqIndex c) c 0x1002 indexEntry) ∧
  (∀ c, SeqCompletes (.seqPage c) c 0x1003 pageEntry)

/-! ## Stack engines (chapter 07, 11) -/

/-- Forwarding (R88, R166, R167): the DMA queue hands a STK command of one iteration to its core's sub-queue of the named stack, with its stream
entries, and goes on; S_GATHER and S_SCATTER need their feature accepted. -/
def Obligations.StackCommandsAreForwarded : Prop :=
  (∀ c, ForwardCompletes (.sAttend (.forward c)) c 0x5001) ∧ (∀ c, ForwardCompletes (.sMatvec (.forward c)) c 0x5002) ∧
  (∀ (c : Nat) (s : State), (∀ r, (s.core c).run = some r → s.accepts r.part 14 = true) →
    ForwardCompletesAt s (.sGather (.forward c)) c 0x5003 ∧ ForwardCompletesAt s (.sScatter (.forward c)) c 0x5004) ∧
  (∀ c, ForwardCompletes (.sEwise (.forward c)) c 0x5005) ∧ (∀ c, ForwardCompletes (.sFill (.forward c)) c 0x5006) ∧
  (∀ c, ForwardCompletes (.sKvenc (.forward c)) c 0x5008) ∧ (∀ c, ForwardCompletes (.sKvexp (.forward c)) c 0x5009)

/-- Work units (R168, R170, R173, R176, R178 to R181, R185, R265, R270): an active STK command does its last work unit whole and is done; a unit
that faults stops the command with that status. -/
def Obligations.StackCommandsComplete : Prop :=
  UnitCompletes 0x5001 (fun k x => .sAttend (.run k x)) readPrep (fun k _ s a => saTotal k s a) saUnit ∧
  UnitCompletes 0x5002 (fun k x => .sMatvec (.run k x)) (fun _ _ => noPrep)
    (fun _ _ _ a => some (mvTotal a)) mvUnit ∧
  UnitCompletes 0x5003 (fun k x => .sGather (.run k x)) (fun _ _ => noPrep) (fun _ _ _ a => some (a.iters * max 1 (sgRows a.cmd.iss.block))) gaUnit ∧
  UnitCompletes 0x5004 (fun k x => .sScatter (.run k x)) (fun _ _ => noPrep) (fun _ _ _ a => some (a.iters * max 1 (sgRows a.cmd.iss.block))) scUnit ∧
  UnitCompletes 0x5005 (fun k x => .sEwise (.run k x)) (fun _ _ => noPrep) (fun _ _ _ a => some (a.iters * max 1 (seRows a.cmd.iss.block))) seUnit ∧
  UnitCompletes 0x5006 (fun k x => .sFill (.run k x)) (fun _ _ => noPrep) (fun _ _ _ a => some (ceilDiv (sfLines a.cmd.iss.block) 64)) sfUnit ∧
  UnitCompletes 0x5008 (fun k x => .sKvenc (.run k x)) kePrep keTotal keUnit ∧
  UnitCompletes 0x5009 (fun k x => .sKvexp (.run k x)) readPrep (fun k _ => kxTotal k)
    (fun s e k a n => if stkFn a.cmd.iss.block = 1 then kiUnit s e k a n else kxUnit s e k a n)

/-- The engine's turns (R167, R168, R171, R182): S_DRAIN retires once no command of its core is left, and clears the LABs if asked; the head of the next
core's sub-queue takes the lowest free area; at a slice's end a waiting SE_ARB write takes effect and the lanes pass on. -/
def Obligations.DrainActivationAndSlices : Prop :=
  ((∀ (s : State) (c : Nat) (r : CoreRun) (iss : Issued), AtLastIteration s c 2 0x5007 r iss → ((s.core c).queue 2).lateFault = none →
     (∀ k ∈ drainStacks c iss.block, (s.engine k).holds c = false) →
     ∃ t, exec (.sDrain c) s = .next t ∧ ((t.core c).queue 2).run = none ∧ ((t.core c).queue 2).cmds = ((s.core c).queue 2).cmds.drop 1 ∧
       (∀ k ∈ drainStacks c iss.block, t.engine k = if imm iss.block 33 33 = 1 then { s.engine k with lab := [] } else s.engine k) ∧
       (∀ k, k ∉ drainStacks c iss.block → t.engine k = s.engine k) ∧ t.mem = s.mem ∧ t.out = s.out ∧ ∀ d, d ≠ c → t.core d = s.core d) ∧
   (∀ (s : State) (c : Nat) (r : CoreRun) (iss : Issued), AtLastIteration s c 2 0x5007 r iss → (∃ k ∈ drainStacks c iss.block, (s.engine k).holds c = true) →
     ∃ t, exec (.sDrain c) s = .next t ∧ ((t.core c).queue 2).run = some iss ∧ t.engines = s.engines ∧ t.mem = s.mem)) ∧
  ((∀ (s : State) (k area i : Nat) (x : StkCmd) (rest : List StkCmd), area < 4 → i < 12 → ((s.engine k).act area) = none →
     (∀ a, a < area → ((s.engine k).act a).isSome = true) →
     Table.get [] (s.engine k).subq (((s.engine k).lastCore + 1 + i) % 12) = x :: rest →
     (s.engine k).active.any (fun a => a.2.cmd.core % 12 == ((s.engine k).lastCore + 1 + i) % 12) = false →
     (∀ j, j < i → Table.get [] (s.engine k).subq (((s.engine k).lastCore + 1 + j) % 12) = [] ∨
       (s.engine k).active.any (fun a => a.2.cmd.core % 12 == ((s.engine k).lastCore + 1 + j) % 12) = true) →
     exec (.stkActivate k) s = .next (s.setEngine k { ((s.engine k).setAct area { cmd := x }) with
       subq := Table.set (s.engine k).subq (((s.engine k).lastCore + 1 + i) % 12) rest, lastCore := ((s.engine k).lastCore + 1 + i) % 12 })) ∧
   (∀ (s : State) (k i : Nat), i < 4 → (s.engine k).lanesLive (((s.engine k).sliceArea + 1 + i) % 4) = true →
     (∀ j, j < i → (s.engine k).lanesLive (((s.engine k).sliceArea + 1 + j) % 4) = false) →
     ∃ t, exec (.sliceEnd k) s = .next t ∧ (t.engine k).sliceArea = ((s.engine k).sliceArea + 1 + i) % 4 ∧ (t.engine k).arbPending = none ∧
       (t.engine k).slice = (match (s.engine k).arbPending with | some v => v.1 | none => (s.engine k).slice) ∧
       (t.engine k).linkres = (match (s.engine k).arbPending with | some v => v.2 | none => (s.engine k).linkres) ∧
       (t.engine k).active = (s.engine k).active ∧ t.mem = s.mem ∧ t.out = s.out ∧ ∀ j, j ≠ k → t.engine j = s.engine j) ∧
   (∀ (s : State) (k area : Nat) (a : ActiveCmd), (s.engine k).act area = some a → a.usesLanes = true → a.done = false → a.fault = none →
     ((s.engine k).mayCompute area = true ↔ area = (s.engine k).sliceArea ∨ ((s.engine k).lanesLive (s.engine k).sliceArea = false ∧ (s.engine k).nextLanes = some area))))

/-- Walker, expander and ends (R55, R167, R182 to R185, R231, R264, R272, R273): a walk's answer reaches every command that waits and the LAB; the
oldest granule whose command has credit is expanded, delivered and counted; a command that is done frees its area and leaves its index-range flag; a
fault waits at the issuing core's DMA queue. -/
def Obligations.WalksGranulesAndCompletions : Prop :=
  ((∀ (s : State) (k slot layer page : Nat) (x : Nat × ActiveCmd), (s.engine k).active.find? (fun a => walkWaits slot layer page a.2) = some x →
     (Wk.readNat (s.stkEnv x.2.cmd) { mem := s.mem } (s.pteAddrOf x.2.cmd.part slot layer page) 64).2.good = true →
     ∃ t, exec (.pageWalk k slot layer page) s = .next t ∧
       (∀ y ∈ (t.engine k).active, walkWaits slot layer page y.2 = false) ∧
       (∀ area a, (s.engine k).act area = some a → walkWaits slot layer page a = true → ∃ b, (t.engine k).act area = some b ∧ b.cmd = a.cmd ∧
         Table.get .walking b.trans (transKey layer page) =
           if pteAbsent (Wk.readNat (s.stkEnv x.2.cmd) { mem := s.mem } (s.pteAddrOf x.2.cmd.part slot layer page) 64).1 k then .absent
           else .found (Wk.readNat (s.stkEnv x.2.cmd) { mem := s.mem } (s.pteAddrOf x.2.cmd.part slot layer page) 64).1) ∧
       (pteAbsent (Wk.readNat (s.stkEnv x.2.cmd) { mem := s.mem } (s.pteAddrOf x.2.cmd.part slot layer page) 64).1 k = false →
         ((t.engine k).labFind x.2.cmd.part slot layer page).map LabEntry.pte =
           some (Wk.readNat (s.stkEnv x.2.cmd) { mem := s.mem } (s.pteAddrOf x.2.cmd.part slot layer page) 64).1) ∧
       ((s.engine k).lab.length ≤ 64 → (t.engine k).lab.length ≤ 64)) ∧
   (∀ (s : State) (k area : Nat) (g : Gran) (a : ActiveCmd), (s.engine k).queue.find? (fun q => (s.engine k).credit q.1) = some (area, g) →
     (s.engine k).act area = some a →
     ∃ t, exec (.granuleDecode k) s = .next t ∧ (t.engine k).expanded = ((s.engine k).expanded + 1) % 2 ^ 32 ∧
       ((t.engine k).act area).map ActiveCmd.granules = some (a.granules ++ [s.expand k a g]) ∧ (s.engine k).queue.erase (area, g) <+: (t.engine k).queue ∧
       ((s.engine k).queue.length ≤ 32 → (t.engine k).queue.length ≤ 32))) ∧
  ((∀ (s : State) (k area : Nat) (a : ActiveCmd), (s.engine k).act area = some a → a.done = true →
     ∃ t, exec (.stkComplete k area) s = .next t ∧ (t.engine k).active = Table.del (s.engine k).active area ∧
       (t.core a.cmd.core).kflags = (s.core a.cmd.core).kflags ||| a.flags ∧ (t.core a.cmd.core).qDma = (s.core a.cmd.core).qDma ∧
       (t.engine k).subq = (s.engine k).subq ∧ (∀ j, t.mem.stack j = s.mem.stack j) ∧ t.out = s.out ∧ (∀ j, j ≠ k → t.engine j = s.engine j) ∧
       ∀ d, d ≠ a.cmd.core → t.core d = s.core d) ∧
   (∀ (s : State) (k area st : Nat) (a : ActiveCmd), (s.engine k).act area = some a → a.fault = some st →
     ∃ t, exec (.stkFaultReport k area) s = .next t ∧ (t.engine k).active = Table.del (s.engine k).active area ∧
       (∀ q ∈ (t.engine k).queue, q.1 ≠ area) ∧
       (t.core a.cmd.core).qDma.lateFault = (match (s.core a.cmd.core).qDma.lateFault with
         | some f => some f
         | none => some { status := st, tag := cbTag a.cmd.iss.block, count := a.cmd.count, queue := 2, core := a.cmd.core }) ∧
       (t.core a.cmd.core).qDma.cmds = (s.core a.cmd.core).qDma.cmds ∧ (t.core a.cmd.core).kflags = (s.core a.cmd.core).kflags ||| a.flags ∧
       { t.mem with fresh := s.mem.fresh } = s.mem ∧ t.out = s.out ∧ ∀ j, j ≠ k → t.engine j = s.engine j))

/-! ## Serving (chapter 12) -/

/-- Step kernels and boundaries (R279, R289, R294): the next record of KLIST becomes the serving context's pending start; one that a start refuses
ends with 0x0102 and abandons the step, as does one that cannot be read; an ended step's boundary counts one step, lists its pieces in R289's order
and goes on through them. -/
def Obligations.StepsIssueKernelsAndEnd : Prop :=
  (∀ (s : State) (p : Nat), s.kernelDue p = true → s.ropeOn p = false → (stepRecord s p).2.good = true →
    (s.takeWork (stepRecord s p).2).startOk p (s.part p).srvCtx (BitVec.ofNat 512 (leNat (stepRecord s p).1)) = true →
    ∃ t, exec (.stepKernelIssue p) s = .next t ∧ (t.part p).kidx = (s.part p).kidx + 1 ∧ (t.part p).kpending = true ∧
      (t.context p (s.part p).srvCtx).pending = some { kd := BitVec.ofNat 512 (leNat (stepRecord s p).1), step := true } ∧
      t.mem = (s.takeWork (stepRecord s p).2).mem ∧ t.out = (s.takeWork (stepRecord s p).2).out) ∧
  (∀ (s : State) (p st : Nat), s.kernelDue p = true → s.ropeOn p = false →
    (stepRecord s p).2.fault = some st → st ≠ 0 →
    ∃ t, exec (.stepKernelIssue p) s = .next t ∧ (t.part p).kidx = (s.part p).kidx ∧ (t.part p).lastFault = st ∧ (t.part p).kpending = false ∧
      (st ≠ 0x0103 → st ≠ 0x0105 → (t.part p).stepFault = some st)) ∧
  (∀ (s : State) (p : Nat), s.kernelDue p = true → s.ropeOn p = false → (stepRecord s p).2.good = true →
    (s.takeWork (stepRecord s p).2).startOk p (s.part p).srvCtx (BitVec.ofNat 512 (leNat (stepRecord s p).1)) = false →
    ∃ t, exec (.stepKernelIssue p) s = .next t ∧ (t.part p).kidx = (s.part p).kidx + 1 ∧ (t.part p).kpending = false ∧
      (t.part p).lastFault = 0x0102 ∧ (t.part p).stepFault = some 0x0102 ∧ (t.part p).srvOff = true ∧ t.contexts = s.contexts ∧
      t.mem = (s.takeWork (stepRecord s p).2).mem ∧ t.out = (s.takeWork (stepRecord s p).2).out ∧
      (t.part p).jobs = (s.part p).jobs ∧ (t.part p).steps = (s.part p).steps) ∧
  (∀ (s : State) (p d : Nat), s.isLive = true → p < nParts s.mode → s.stepDone p = true → s.ringsRead p = true →
    (s.whole (fun b => b.firstPart p true)).2 = true →
    ∃ u, exec (.stepBoundary p d) s = .next (u.goOn p) ∧ BoundaryBegun s u p d)

/-- Requests (R283, R284, R289, R293): OPEN, CANCEL and PARK take the entry at the ring's head, whatever it asks; while a step runs the entry waits
for the boundary, and a waiting scheduler is woken. That OPEN_REQ also reads an entry whose OP is not listed, and that requests come as operands and
wait in the partition's list, are the model's readings (log 27). -/
def Obligations.RequestsAreReadFromTheRing : Prop :=
  (∀ (s : State) (fn : Nat) (v : BitVec 1024), RingHasEntry s fn → (s.part (funcPart fn)).phase ≠ .idle →
    (rqOp v.toNat ≠ 2 → rqOp v.toNat ≠ 3 → exec (.openReq fn v) s = .next (requestRead s fn v)) ∧
    (rqOp v.toNat = 2 → exec (.cancel fn v) s = .next (requestRead s fn v)) ∧
    (rqOp v.toNat = 3 → exec (.park fn v) s = .next (requestRead s fn v))) ∧
  (∀ (s : State) (fn : Nat) (v : BitVec 1024), RingHasEntry s fn → (s.part (funcPart fn)).phase = .idle →
    (rqOp v.toNat ≠ 2 → rqOp v.toNat ≠ 3 → exec (.openReq fn v) s = .next ((requestRead s fn v).wakeUp (funcPart fn))) ∧
    (rqOp v.toNat = 2 → exec (.cancel fn v) s = .next ((requestRead s fn v).wakeUp (funcPart fn))) ∧
    (rqOp v.toNat = 3 → exec (.park fn v) s = .next ((requestRead s fn v).wakeUp (funcPart fn)))) ∧
  (∀ (s : State) (fn : Nat) (v : BitVec 1024), (requestRead s fn v).out = s.out ++ [.hostRead (ringGet fn) fn (ringAddr (s.func fn).rq.cfg (s.func fn).rq.head) 128] ∧
    ((requestRead s fn v).func fn).rq.head = ((s.func fn).rq.head + 1) % 2 ^ 32 ∧
    ((requestRead s fn v).part (funcPart fn)).reqs = (s.part (funcPart fn)).reqs ++ [⟨fn, v⟩] ∧ (requestRead s fn v).mem = s.mem)

/-- Bivouac and epochs (R248, R249, R296): a completed transfer marks its sequence, a parked one comes last in the order of returns, a failed return
gives it the end code 0x0201, returned units are the sequence's own no longer; an epoch adds its periods; an idle scheduler is woken, one at work is
not. That returns follow the order in which transfers out complete, held in Part.parked, is the model's reading (log 25). -/
def Obligations.TransfersAndEpochs : Prop :=
  (∀ (s : State) (p k : Nat), s.transferring p k .parking = true →
    exec (.bivouacParkDone p k) s = .next (((s.updSlot p k (fun q => { q with moved := true })).updPart p (fun t => { t with
      parked := t.parked ++ [k] })).wakeIdle p)) ∧
  (∀ (s : State) (p k : Nat) (data : List Byte), s.transferring p k .returning = true →
    exec (.bivouacReturnDone p k false data) s = .next ((s.updSlot p k (fun q => { q with moved := true, endCode := some 0x0201 })).wakeIdle p)) ∧
  (∀ (s : State) (p k : Nat) (data : List Byte), s.transferring p k .returning = true → (s.part p).phase ≠ .idle →
    (s.whole (fun b => b.kvOn p (fun e x => restorePages b.s p k e data (parkedEntries b.s p k e x).1 (b.s.slot p k).units (parkedEntries b.s p k e x).2))).2 = true →
    ∃ t, exec (.bivouacReturnDone p k true data) s = .next t ∧ (t.slot p k).moved = true ∧ (t.slot p k).units = [] ∧ (t.slot p k).uses = [] ∧
      t.mem = (s.whole (fun b => b.kvOn p (fun e x =>
        restorePages b.s p k e data (parkedEntries b.s p k e x).1 (b.s.slot p k).units (parkedEntries b.s p k e x).2))).1.mem) ∧
  (∀ (s : State) (p n : Nat), s.isLive = true → p < nParts s.mode →
    exec (.budgetEpoch p n) s = .next ((s.updPart p (fun t => { t with epochCount := t.epochCount + n })).wakeIdle p)) ∧
  (∀ (s : State) (p : Nat), ((s.part p).phase ≠ .idle → s.wakeIdle p = s) ∧
    ((s.part p).phase = .idle → s.wakeIdle p = (s.updPart p (fun t => { t with wake := true })).goOn p))

/-! ## Memory stacks (chapter 14) -/

/-- A stack's channels and buffers (R327, R328, R334, R335, R338): resends are counted, the third failing one, a timeout and a failed recalibration fail
the channel with its record, refresh windows open and close, an aged line leaves its buffer; accesses of the host that waited for the channel then
go on in their order. -/
def Obligations.ChannelsAndBuffersOfAStack : Prop :=
  ((∀ (s : State) (k pc : Nat), s.pcOn k pc = true → s.host.waits = [] →
     (∃ t, exec (.tetherRetry k pc true) s = .next t ∧ (t.mem.stack k).tetherRetries = satAdd 32 (s.mem.stack k).tetherRetries 1 ∧
       (t.mem.stack k).failed = (s.mem.stack k).failed ∧ t.nv.cairn = s.nv.cairn ∧ t.out = s.out) ∧
     (Table.get 0 (s.mem.stack k).retries pc < 2 → ∃ t, exec (.tetherRetry k pc false) s = .next t ∧
       Table.get 0 (t.mem.stack k).retries pc = Table.get 0 (s.mem.stack k).retries pc + 1 ∧ (t.mem.stack k).failed = (s.mem.stack k).failed) ∧
     (2 ≤ Table.get 0 (s.mem.stack k).retries pc → NoTestHolds s → ∃ t, exec (.tetherRetry k pc false) s = .next t ∧
       (t.mem.stack k).failed.testBit (pc / 2) = true ∧
       (0 < s.cairnFree → ∃ r, t.nv.cairn = s.nv.cairn ++ [r] ∧ r.type = 0x0C ∧ r.payload = [BitVec.ofNat 8 k, BitVec.ofNat 8 (pc / 2), 0]) ∧ t.out = s.out)) ∧
   (∀ (s : State) (k c : Nat), s.pcOn k (2 * c) = true → c < 32 → NoTestHolds s → ∃ t, exec (.dramCmdTimeout k c) s = .next t ∧ (t.mem.stack k).failed.testBit c = true ∧
     (0 < s.cairnFree → ∃ r, t.nv.cairn = s.nv.cairn ++ [r] ∧ r.type = 0x0C ∧ r.payload = [BitVec.ofNat 8 k, BitVec.ofNat 8 c, 1]) ∧ t.out = s.out) ∧
   (∀ (s : State) (k pc : Nat), s.pcOn k pc = true → pc ∉ (s.mem.stack k).refreshing →
     (s.mem.stack k).refreshing.length < (if (s.mem.stack k).hotRefresh then 4 else 2) → ∃ t, exec (.refreshWindow k pc) s = .next t ∧
       (t.mem.stack k).refreshing = (s.mem.stack k).refreshing ++ [pc] ∧ (∀ j, j ≠ k → t.mem.stack j = s.mem.stack j) ∧ t.out = s.out) ∧
   (∀ (s : State) (k pc : Nat), pc ∈ (s.mem.stack k).refreshing → s.host.waits = [] → ∃ t, exec (.refreshWindowEnd k pc) s = .next t ∧
     (t.mem.stack k).refreshing = (s.mem.stack k).refreshing.filter (· != pc) ∧ (∀ j, j ≠ k → t.mem.stack j = s.mem.stack j) ∧ t.out = s.out) ∧
   (∀ (s : State) (k pc : Nat), pc ∈ (s.mem.stack k).refreshing →
     ∃ u, exec (.refreshWindowEnd k pc) { s with host := { s.host with waits := [] } } = .next u ∧
       exec (.refreshWindowEnd k pc) s = .next (s.host.waits.foldl State.hostAccess u)) ∧
   (∀ (s : State) (k pc : Nat) (ok : Bool), s.pcOn k pc = true → NoTestHolds s →
     ∃ u, exec (.tetherRetry k pc ok) { s with host := { s.host with waits := [] } } = .next u ∧
       exec (.tetherRetry k pc ok) s = .next (s.host.waits.foldl State.hostAccess u)) ∧
   (∀ (s : State) (k pc : Nat), s.pcOn k pc = true → pc ∈ (s.mem.stack k).refreshing → NoTestHolds s →
     exec (.laneRecalibration k pc true) s = .next s ∧ ∃ t, exec (.laneRecalibration k pc false) s = .next t ∧ (t.mem.stack k).failed.testBit (pc / 2) = true ∧
       (0 < s.cairnFree → ∃ r, t.nv.cairn = s.nv.cairn ++ [r] ∧ r.type = 0x0C ∧ r.payload = [BitVec.ofNat 8 k, BitVec.ofNat 8 (pc / 2), 2]) ∧ t.out = s.out)) ∧
  (∀ (s : State) (k line : Nat) (w : WcLine), s.dramOn = true → (s.mem.stack k).wc.find? (fun x => x.line == line) = some w →
     (s.mem.stack k).closed true line = false → NoTestHolds s →
     ∃ t, exec (.wcAgeFlush k line) s = .next t ∧ (t.mem.stack k).wc = ((s.mem.stack k).leave ⟨s.mem.fresh, s.start.periods, s.threshold⟩ w).wc ∧
       (∀ x ∈ (t.mem.stack k).wc, x.line ≠ line) ∧ (∀ j, j ≠ k → t.mem.stack j = s.mem.stack j) ∧ t.out = s.out ∧ t.cores = s.cores)

/-! ## The management dictionary (chapter 16) -/

/-- Reads and identity (R373, R376 to R378, R380 to R382, R385): a READ of a scalar is answered with its value, of subindex 0 with the count of
subindexes, of no entry with NO_ENTRY, of an object with a window of it, which for a read-only object comes from its requester's snapshot, taken at
offset 0; IDENTIFY is answered with the identity object, an unlisted OP with BAD_OP, a solicitation of the port's own address with its MAC; a request
with the SEQ of its requester's kept response is answered with it once more and not performed; a mailbox's response is whole dwords; of a multicast at
ff02::1 an IDENTIFY is taken and a malformed datagram counted. That a datagram at another multicast address does not reach the controller, and is not
counted, is the model's reading (log 31). -/
def Obligations.DictionaryAnswers : Prop :=
  (∀ (s : State) (who : Requester) (msg : List Byte), RequestArrives s who msg → (parseMsg msg).op = 1 →
    exec (.dictRead ⟨who, .own⟩ msg) s = .next (answeredWith ((counted s who).readMsg who (parseMsg msg)).2.2 who msg
      ((counted s who).readMsg who (parseMsg msg)).1 ((counted s who).readMsg who (parseMsg msg)).2.1)) ∧
  (∀ (s : State) (who : Requester) (msg : List Byte), RequestArrives s who msg → (parseMsg msg).op = 1 →
    ((parseMsg msg).sub = 0 → subCount (parseMsg msg).index ≠ 0 →
      exec (.dictRead ⟨who, .own⟩ msg) s = .next (answeredWith (counted s who) who msg rOK (leBytes 1 (subCount (parseMsg msg).index)))) ∧
    (rowOf (parseMsg msg).index (parseMsg msg).sub = none → ((parseMsg msg).sub = 0 → subCount (parseMsg msg).index = 0) →
      exec (.dictRead ⟨who, .own⟩ msg) s = .next (answeredWith (counted s who) who msg rNO_ENTRY [])) ∧
    (∀ r, rowOf (parseMsg msg).index (parseMsg msg).sub = some r → (parseMsg msg).sub ≠ 0 → r.kind = .part →
      nParts s.mode ≤ (parseMsg msg).sub - r.lo →
      exec (.dictRead ⟨who, .own⟩ msg) s = .next (answeredWith (counted s who) who msg rNO_ENTRY []))) ∧
  (∀ (s : State) (who : Requester) (msg : List Byte) (r : Row), ReadReaches s who msg r →
    (∀ n, r.ty = .num n → exec (.dictRead ⟨who, .own⟩ msg) s = .next (answeredWith (counted s who) who msg rOK
      (leBytes n (if r.acc = .wo then 0 else (counted s who).scalar who r.index r.lo ((parseMsg msg).sub - r.lo))))) ∧
    (r.ty = .str → exec (.dictRead ⟨who, .own⟩ msg) s = .next (answeredWith (counted s who) who msg rOK (namedObject s who msg r)))) ∧
  (∀ (s : State) (who : Requester) (msg : List Byte) (r : Row) (max : Nat), ReadReaches s who msg r → r.ty = .dom max →
    (r.acc = .ro → (parseMsg msg).offset = 0 → ∃ c v, WindowIs (namedObject s who msg r) (parseMsg msg) c v ∧
      exec (.dictRead ⟨who, .own⟩ msg) s = .next (answeredWith
        (snapped s who (some ⟨(parseMsg msg).index, (parseMsg msg).sub, namedObject s who msg r⟩)) who msg c v)) ∧
    (r.acc = .ro → (parseMsg msg).offset ≠ 0 → (parseMsg msg).len = 0 → exec (.dictRead ⟨who, .own⟩ msg) s = .next
      (answeredWith (counted s who) who msg rOK (leBytes 4 (namedObject s who msg r).length))) ∧
    (r.acc = .ro → (parseMsg msg).offset ≠ 0 → (parseMsg msg).len ≠ 0 → ∀ x, s.dict.snaps.find? (fun x => x.1 == who) = some x →
      x.2.index = (parseMsg msg).index → x.2.sub = (parseMsg msg).sub → ∃ c v, WindowIs x.2.bytes (parseMsg msg) c v ∧
        exec (.dictRead ⟨who, .own⟩ msg) s = .next (answeredWith (counted s who) who msg c v)) ∧
    (r.acc = .ro → (parseMsg msg).offset ≠ 0 → (parseMsg msg).len ≠ 0 →
      (∀ x, s.dict.snaps.find? (fun x => x.1 == who) = some x → x.2.index ≠ (parseMsg msg).index ∨ x.2.sub ≠ (parseMsg msg).sub) →
      exec (.dictRead ⟨who, .own⟩ msg) s = .next (answeredWith (counted s who) who msg rSNAPSHOT_LOST [])) ∧
    (r.acc ≠ .ro → r.acc ≠ .wo → ∃ c v, WindowIs (namedObject s who msg r) (parseMsg msg) c v ∧
      exec (.dictRead ⟨who, .own⟩ msg) s = .next (answeredWith (if (parseMsg msg).offset = 0 then snapped s who none else counted s who) who msg c v)) ∧
    (r.acc = .wo → exec (.dictRead ⟨who, .own⟩ msg) s = .next (answeredWith
      (if (parseMsg msg).offset = 0 then snapped s who none else counted s who) who msg rOK (if (parseMsg msg).len = 0 then leBytes 4 0 else [])))) ∧
  (∀ (s : State) (who : Requester) (msg : List Byte), RequestArrives s who msg → 3 < (parseMsg msg).op ∨ (parseMsg msg).op = 0 →
    exec (.dictRead ⟨who, .own⟩ msg) s = .next (answeredWith (counted s who) who msg rBAD_OP [])) ∧
  (∀ (s : State) (who : Requester) (msg : List Byte), RequestArrives s who msg → (parseMsg msg).op = 3 →
    exec (.identify ⟨who, .own⟩ msg) s = .next (answeredWith (counted s who) who msg rOK (counted s who).identity)) ∧
  (∀ (s : State) (fn : Nat) (msg : List Byte), RequestArrives s (.mailbox fn) msg → (parseMsg msg).op = 3 →
    ∃ t bs, exec (.identify ⟨.mailbox fn, .own⟩ msg) s = .next t ∧ .dict (.mailbox fn) bs ∈ t.out ∧ bs.length % 4 = 0 ∧
      dictReply (parseMsg msg) rOK s.identity <+: bs) ∧
  (∀ (s : State) (a u : Nat) (d : Dest) (msg : List Byte), d = .multicast ∨ (d = .allNodes ∧ malformed false msg = false ∧ (parseMsg msg).op ≠ 3) →
    exec (.dictRead ⟨.port a u, d⟩ msg) s = .next s ∧ exec (.dictWrite ⟨.port a u, d⟩ msg) s = .next s ∧
    exec (.identify ⟨.port a u, d⟩ msg) s = .next s) ∧
  (∀ (s : State) (a u : Nat) (msg : List Byte), malformed false msg = false → (parseMsg msg).op = 3 →
    exec (.identify ⟨.port a u, .allNodes⟩ msg) s = exec (.identify ⟨.port a u, .own⟩ msg) s) ∧
  (∀ s : State, s.dictOn = true → exec (.neighbourDiscovery (mgmtAddr s.nv.mac)) s = .next (s.emit (.neighbour s.nv.mac))) ∧
  (∀ (s : State) (target : Nat), target ≠ mgmtAddr s.nv.mac → exec (.neighbourDiscovery target) s = .next s) ∧
  (∀ (s : State) (a u : Nat) (d : Dest) (msg : List Byte), d = .own ∨ d = .allNodes → malformed false msg = true → s.dictOn = true →
    s.dict.flash = none →
    exec (.dictRead ⟨.port a u, d⟩ msg) s = .next { s with dict := { s.dict with malformed := satAdd 16 s.dict.malformed 1 } }) ∧
  (∀ (s : State) (a u : Nat) (msg resp : List Byte) (x : Requester × Nat × List Byte), malformed false msg = false → s.dictOn = true →
     s.dict.flash = none → s.dict.lasts.find? (fun x => x.1 == .port a u && x.2.1 == (parseMsg msg).seq) = some x → x.2.2 = resp →
     ((parseMsg msg).op = 2 → exec (.dictWrite ⟨.port a u, .own⟩ msg) s = .next ((counted s (.port a u)).emit (.dict (.port a u) resp))) ∧
     ((parseMsg msg).op ≠ 2 → (parseMsg msg).op ≠ 3 → exec (.dictRead ⟨.port a u, .own⟩ msg) s = .next ((counted s (.port a u)).emit (.dict (.port a u) resp))) ∧
     ((parseMsg msg).op = 3 → exec (.identify ⟨.port a u, .own⟩ msg) s = .next ((counted s (.port a u)).emit (.dict (.port a u) resp))))

/-- Writes (R109, R295, R297, R306, R325, R330, R361, R378, R381, R404, R414): a WRITE before the part is live, of no entry or of a read-only one is
answered with its result; each entry takes a value that its rule allows, with the effect of its own chapter. That ACCESS comes before DENIED, that a
part which is not live answers NOT_LIVE (log 31), and that EN 1 of PORT_CTL takes a DISABLED port to DOWN (log 28) are the model's readings. -/
def Obligations.WritesAreRefusedOrTaken : Prop :=
  ((∀ (s : State) (who : Requester) (msg : List Byte), RequestArrives s who msg → (parseMsg msg).op = 2 → s.isLive = false →
     exec (.dictWrite ⟨who, .own⟩ msg) s = .next (answeredWith (counted s who) who msg rNOT_LIVE [])) ∧
   (∀ (s : State) (who : Requester) (msg : List Byte), RequestArrives s who msg → (parseMsg msg).op = 2 → s.isLive = true →
     (parseMsg msg).sub ≠ 0 → rowOf (parseMsg msg).index (parseMsg msg).sub = none →
     exec (.dictWrite ⟨who, .own⟩ msg) s = .next (answeredWith (counted s who) who msg rNO_ENTRY [])) ∧
   (∀ (s : State) (who : Requester) (msg : List Byte) (r : Row), RequestArrives s who msg → (parseMsg msg).op = 2 → s.isLive = true →
     (parseMsg msg).sub ≠ 0 → rowOf (parseMsg msg).index (parseMsg msg).sub = some r → r.acc = .ro ∨ r.acc = .const →
     r.missing s.mode ((parseMsg msg).sub - r.lo) = false →
     exec (.dictWrite ⟨who, .own⟩ msg) s = .next (answeredWith (counted s who) who msg rACCESS [])) ∧
   ScalarTakes (fun who msg => .dictWrite ⟨who, .own⟩ msg) 0x1211 1 4 (fun _ _ _ v => v ≤ 1) (fun s i v => s.updPart i (fun t => { t with tensorView := v })) ∧
   ScalarTakes (fun who msg => .dictWrite ⟨who, .own⟩ msg) 0x1220 1 4 (fun _ _ _ v => v ≤ 1) (fun s i v => s.updPart i (fun t => { t with coupling := v }))) ∧
  (ScalarTakes .accept0 0x1101 1 4 (fun s _ p v => (s.part p).out = false ∧ s.queueOn p = false ∧ v &&& offer0 s.mode = v)
     (fun s p v => s.updPart p (fun t => { t with accept0 := v, accepted := true })) ∧
   ScalarTakes .interleave 0x1210 1 4 (fun s _ p v => v ≤ 1 ∧ s.slotOpen p = false ∧ (s.part p).srvEn = false ∧
       (v = 1 → ∀ k ∈ partStacks s.mode p, (s.mem.stack k).usable ≠ 0))
     (fun s p v => s.updPart p (fun t => { t with interleave := v })) ∧
   ScalarTakes .cap 0x1300 1 1 (fun _ _ _ v => 800 ≤ v ∧ v ≤ 2400) (fun s _ v => s.setDictVal 0x1300 1 v) ∧
   ScalarTakes .suspectClear 0x1401 2 1 (fun _ _ _ v => v = 1) (fun s _ _ => { s with power := { s.power with suspect := [] } }) ∧
   ScalarTakes .ceLogClear 0x1510 0x11 1 (fun _ _ _ _ => True)
     (fun s _ v => { s with mem := (bitsBelow 16 v).foldl (fun m k => m.setStack k { m.stack k with ceLog := [] }) s.mem }) ∧
   ScalarTakes .portCtl 0x1610 9 8 (fun _ _ _ v => fld v 7 2 = 0 ∧ v.testBit 0 = true)
     (fun s q v => (s.updPort q (fun k => { k with en := true, dateline := v.testBit 1 })).updPort q (fun k =>
       if k.state == .disabled then { k with state := .down } else k)) ∧
   ScalarTakes .portCtl 0x1610 9 8 (fun _ _ _ v => fld v 7 2 = 0 ∧ v.testBit 0 = false)
     (fun s q v => (((s.updPort q (fun k => { k with en := false, dateline := v.testBit 1 })).portLost q .disabled).losePortTests q).freedFrom s) ∧
   ScalarTakes .clear 0x1900 6 1 (fun _ _ _ v => fld v 7 4 = 0) (fun s _ v => s.clearAccounts v) ∧
   ScalarTakes .budgetCtl 0x1800 3 1 (fun _ _ _ _ => True) (fun s _ v => (s.setDictVal 0x1800 3 v).wakeBudgets) ∧
   ScalarTakes .breakSlot 0x1D00 1 8 (fun s who _ v => s.breakAllowed who v = true ∧ fld v 51 48 = 0 ∧ (v.testBit 62 = true → fld v 47 32 = 0) ∧
       fld v 53 52 < nParts s.mode)
     (fun s n v => (s.setDictVal 0x1D00 (n + 1) v).setDictVal 0x1D00 9
       (if (s.dictVal 0x1D00 9 0).testBit n then s.dictVal 0x1D00 9 0 - 2 ^ n else s.dictVal 0x1D00 9 0)))

/-- Stored entries (R26, R31, R33, R318, R336, R433): a good write takes effect and waits for flash; once flash holds it, it is answered, and a change
of grade has its record. That the value shows at once while its answer waits (log 31), and that ROLE has a default of the overlay (log 33), are the
model's readings. -/
def Obligations.StoredEntriesWaitForFlash : Prop :=
  StoredTakes .storedMode 0x1200 1 1 (fun s _ _ v => v ≤ 2 ∧ nodeFits v s.nv.node = true ∧ s.cairnFree ≠ 0)
    (fun s _ v => { s with nv := { s.nv with mode := v } }) (fun s _ => s.nv.mode) (fun _ _ => none) ∧
  StoredTakes .nodeNumber 0x1600 1 1 (fun s _ _ v => fld v 15 13 = 0 ∧ nodeFits s.mode v = true ∧ nodeFits s.nv.mode v = true)
    (fun s _ v => { ((List.range 8).foldl (fun s q => if (s.port q).state == .disabled then s else s.portLost q .down) s).freedFrom s with
      nv := { s.nv with node := v } })
    (fun s _ => s.nv.node) (fun _ _ => none) ∧
  StoredTakes .role 0x1600 2 1 (fun s _ _ v => v < 2 ^ (2 * nParts s.mode) ∧
      ∀ p, p < nParts s.mode → fld v (2 * p + 1) (2 * p) = 3 → (s.part p).srvEn = false)
    (fun s _ v => { s with nv := { s.nv with role := v }, dict := { s.dict with defaults := Table.del s.dict.defaults 0x160002 } }) (fun s _ => s.nv.role) (fun _ _ => none) ∧
  StoredTakes .nextGrade 0x1310 1 1 (fun s _ _ v => (v = 0x0C ∨ v = 0x0A ∨ v = 0x08) ∧ v < s.nv.nextGrade ∧ s.cairnFree ≠ 0)
    (fun s _ v => { s with nv := { s.nv with nextGrade := v } }) (fun s _ => s.nv.nextGrade) (fun s v => some (s.nv.nextGrade, v)) ∧
  (∀ (s : State) (who : Requester) (msg : List Byte) (k : Nat), k < 16 → ScalarReaches s who msg 0x1530 (1 + k) →
    (s.mem.stack k).applied ||| msgValue msg % 2 ^ 32 ≠ 2 ^ 32 - 1 → (s.mem.stack k).applied < 2 ^ 32 →
    ∃ t, exec (.mapout who msg) s = .next t ∧ (∀ c, c < 32 → (t.mem.stack k).pending.testBit c =
      ((msgValue msg).testBit c && !(s.mem.stack k).applied.testBit c)) ∧ (t.mem.stack k).applied = (s.mem.stack k).applied ∧
      t.dict.flash.map (fun w => w.old) = some (s.mem.stack k).pending ∧ t.out = s.out) ∧
  (∀ (s : State) (w : StoredWrite), s.dict.flash = some w → s.dictOn = true → s.dict.queue = [] →
    exec .storedEntryCommit s = .next (({ (match w.grade with | some (a, b) => s.cairn 0x0A (leBytes 1 a ++ leBytes 1 b) | none => s) with
      dict := { s.dict with flash := none } } : State).answer w.who w.seq w.answer))

/-- Objects and firmware (R307, R331, R417 to R419, R427, R429): routes, remap words, a firmware chunk and the begin of a sanitise take effect whole; an
image that verifies becomes the active slot with its record; the security floor only rises, and not above the image that runs. -/
def Obligations.ObjectsAndFirmwareAreApplied : Prop :=
  ((∀ (s : State) (who : Requester) (msg : List Byte) (p : Nat), p < 4 → ObjectReaches s who msg 0x1610 (0x19 + p) →
     (∀ v ∈ objectNums 2 (parseMsg msg).payload, (v.testBit 15 = true → partOfPort s.mode (fld v 2 0) = p) ∧
       (v.testBit 7 = true → partOfPort s.mode (fld v 6 4) = p) ∧ v.testBit 3 = false ∧ fld v 14 8 = 0) →
     ∃ t, exec (.routes who msg) s = .next t ∧ (∀ m, Table.get 0 (t.part p).routes m = (objectNums 2 (parseMsg msg).payload).getD m 0) ∧
       (∀ q, q ≠ p → t.part q = s.part q) ∧ t.mem = s.mem) ∧
   ObjectTakes .remap 0x1520 1 16 (fun s _ k bs => ((List.range 512).zip (objectNums 8 (fit 0 4096 bs))).all (fun v => (s.mem.stack k).remapOk v.1 v.2) = true)
     (fun s _ k bs => ((s.withMem { s.mem.setStack k (((List.range 512).zip (objectNums 8 (fit 0 4096 bs))).foldl (fun st v =>
       if v.2.testBit 63 && !(Table.get {} st.remap v.1).valid then st.installAt ⟨s.mem.fresh, s.start.periods, s.threshold⟩ v.1 (fld v.2 29 0) else st)
       (s.mem.stack k)) with fresh := s.mem.fresh + 1 } 3).freedFrom s).setSize 0x1520 (k + 1) bs.length) ∧
   ObjectTakes .fwChunk 0x1B00 4 1 (fun s _ _ _ => s.dictVal 0x1B00 5 0 = 0)
     (fun s who _ bs => { s with sec := { s.sec with fwOwner := some who, fwStage := bs } }) ∧
   (∀ (s : State) (who : Requester) (msg : List Byte), ObjectReaches s who msg 0x1B00 4 → s.sec.fwOwner = some who → 0 < s.dictVal 0x1B00 5 0 →
     s.dictVal 0x1B00 5 0 ≤ s.sec.fwStage.length →
     ∃ t, exec (.fwChunk who msg) s = .next t ∧ t.sec.fwOwner = some who ∧ t.sec.fwStage = s.sec.fwStage.take (s.dictVal 0x1B00 5 0) ++
       (parseMsg msg).payload ++ s.sec.fwStage.drop (s.dictVal 0x1B00 5 0 + (parseMsg msg).payload.length)) ∧
   ObjectTakes .sanitise 0x1C10 1 4 (fun s _ p bs => bs.length = 40 ∧ s.slotOpen p = false ∧ (s.part p).srvEn = false ∧
       (s.ctxs).any (fun x => (s.context p x).en) = false ∧ s.cairnFree ≠ 0 ∧ (s.part p).test.state ≠ 1 ∧ (s.part p).test.state ≠ 2 ∧
       (s.part p).cal.state ≠ 1 ∧ (s.part p).cal.state ≠ 2 ∧ s.sanitising p = false)
     (fun s _ p bs => s.updPart p (fun t => { t with sanitise := { t.sanitise with
       state := 1, result := 0, pattern := fld (leNat bs) 63 0, nonce := fld (leNat bs) 319 64, begun := s.start.periods } }))) ∧
  (ScalarTakes .fwCommit 0x1B00 6 1 (fun s who _ v => v = 1 ∧ s.sec.fwOwner = some who ∧ fwOk s.nv s.sec.fwStage = true ∧ s.cairnFree ≠ 0)
     (fun s _ _ => ({ s with nv := { s.nv with
         fw0 := if 1 - s.nv.fwActive = 0 then s.sec.fwStage else s.nv.fw0, fw1 := if 1 - s.nv.fwActive = 0 then s.nv.fw1 else s.sec.fwStage
         fwActive := 1 - s.nv.fwActive } } : State).cairn 7 (leBytes 4 (fwVersion s.start.fw) ++ leBytes 4 (fwVersion s.sec.fwStage) ++
           leBytes 2 (fwSvn s.sec.fwStage) ++ List.replicate 6 0 ++ sha256 s.sec.fwStage)) ∧
   (∀ (s : State) (who : Requester) (msg : List Byte), ScalarReaches s who msg 0x1B00 6 → msgValue msg = 1 → s.sec.fwOwner = some who →
     fwOk s.nv s.sec.fwStage = false → exec (.fwCommit who msg) s = .next (answeredWith (counted s who) who msg rRANGE [])) ∧
   ScalarTakes .svnFloor 0x1B00 3 1 (fun s _ _ v => s.nv.svnFloor < v ∧ v ≤ fwSvn s.start.fw ∧ s.cairnFree ≠ 0)
     (fun s _ v => ({ s with nv := { s.nv with svnFloor := v } } : State).cairn 8 (leBytes 1 s.nv.svnFloor ++ leBytes 1 v)) ∧
   (∀ (s : State) (who : Requester) (msg : List Byte), ScalarReaches s who msg 0x1B00 3 → msgValue msg < s.nv.svnFloor →
     exec (.svnFloor who msg) s = .next (answeredWith (counted s who) who msg rRANGE [])))

/-- Self-test and calibration (R387, R388, R390 to R392): a good request of each item waits, its piece starts where its unit is idle; ITEM 0 ends one
that waits; a DRAINED request runs on a drained partition, or ends with NOT_RUN where its unit is gone; the last piece ends with PASS or FAIL, a
cancelled one with CANCELLED. -/
def Obligations.TestRequestsRunAndEnd : Prop :=
  (TestRequested .scratch false 1 ∧ TestRequested .matrix false 2 ∧ TestRequested .vector false 3 ∧ TestRequested .stackEngine false 4 ∧
   TestRequested .codec false 5 ∧ TestRequested .dramScrub false 6 ∧ TestRequested .dramMarch false 7 ∧ TestRequested .testSpar false 8 ∧
   TestRequested .testFabricPort false 9 ∧ TestRequested .tether true 1 ∧ TestRequested .calSpar true 2 ∧ TestRequested .sensor true 3 ∧
   TestRequested .calFabricPort true 4 ∧
   (∀ (s : State) (who : Requester) (msg : List Byte) (p : Nat) (cal : Bool), p < 4 → ScalarReaches s who msg (if cal then 0x1A10 else 0x1A00) (1 + p) →
     tqItem (msgValue msg) = 0 → ((parseMsg msg).payload.headD 0).toNat = 0 → fld (msgValue msg) 63 22 = 0 → fld (msgValue msg) 15 9 = 0 →
     ((s.tu p cal).state = 1 → exec (.testCancel who msg) s = .next (answeredWith
       (((counted s who).updTu p cal (fun t => { t with state := 3, result := 2 })).updTu p cal (fun t => { t with written := msgValue msg })) who msg rOK [])) ∧
     ((s.tu p cal).state = 3 → exec (.testCancel who msg) s = .next (answeredWith
       ((counted s who).updTu p cal (fun t => { t with written := msgValue msg })) who msg rOK [])))) ∧
  ((∀ (s : State) (p : Nat) (cal : Bool) (k : UnitKind), s.isLive = true → p < nParts s.mode → (s.tu p cal).state = 1 →
     tqDrained (s.tu p cal).request = true → itemKind cal (tqItem (s.tu p cal).request) = some k → (s.drains p cal).all s.drained = true →
     s.unitHeld k (tqUnit (s.tu p cal).request) = false → s.unitGone k (tqUnit (s.tu p cal).request) = false → k ≠ .port →
     ∃ t, exec (.drainedRequestStart p cal) s = .next t ∧ (t.tu p cal).state = 2 ∧ (t.tu p cal).request = (s.tu p cal).request ∧
       (k = .core ∨ k = .stack → t.unitHeld k (tqUnit (s.tu p cal).request) = true) ∧ t.mem = s.mem ∧ t.out = s.out) ∧
   (∀ (s : State) (p : Nat) (cal : Bool), s.isLive = true → p < nParts s.mode → (s.tu p cal).state = 1 →
     tqDrained (s.tu p cal).request = true → itemKind cal (tqItem (s.tu p cal).request) = some .port → (s.drains p cal).all s.drained = true →
     s.unitHeld .port (tqUnit (s.tu p cal).request) = false → s.unitGone .port (tqUnit (s.tu p cal).request) = false →
     exec (.drainedRequestStart p cal) s = .next (((s.portLost (tqUnit (s.tu p cal).request) .down).updTu p cal (fun t =>
       { t with state := 2, result := (s.tu p cal).result })).holdUnit .port (tqUnit (s.tu p cal).request) true)) ∧
   (∀ (s : State) (p : Nat) (cal : Bool) (k : UnitKind), s.isLive = true → p < nParts s.mode → (s.tu p cal).state = 1 →
     tqDrained (s.tu p cal).request = true → itemKind cal (tqItem (s.tu p cal).request) = some k → (s.drains p cal).all s.drained = true →
     s.unitHeld k (tqUnit (s.tu p cal).request) = false → s.unitGone k (tqUnit (s.tu p cal).request) = true →
     exec (.drainedRequestStart p cal) s = .next (s.updTu p cal (fun t => { t with state := 3, result := 3 }))) ∧
   (∀ (s : State) (p : Nat) (k : UnitKind), PieceRuns s p false k → k = .core → (s.part p).srvEn = true → tqDrained (s.tu p false).request = false →
     ∃ t, exec (.testPieceDone p false true []) s = .next t ∧ (t.tu p false).pieces = (s.tu p false).pieces + 1 ∧
       ((s.tu p false).cancel = true → (t.tu p false).state = 3 ∧ (t.tu p false).result = 2) ∧
       ((s.tu p false).cancel = false → (t.tu p false).state = 3 ∧ (t.tu p false).result = if satAdd 16 (s.tu p false).fails 0 = 0 then 0 else 1) ∧
       t.unitHeld .core (tqUnit (s.tu p false).request) = false ∧ t.out = s.out) ∧
   (∀ (s : State) (p : Nat) (fails : List (Nat × Nat × Nat)), PieceRuns s p true .die → (s.part p).srvEn = true → tqDrained (s.tu p true).request = false →
     ∃ t, exec (.testPieceDone p true true fails) s = .next t ∧ (t.tu p true).state = 3 ∧ tqUnit (s.tu p true).request ∈ t.power.trims ∧
       (t.tu p true).fails = satAdd 16 (s.tu p true).fails fails.length ∧ t.mem = s.mem ∧ t.out = s.out))

/-- A sanitise (R277, R358, R429 to R432): with no line of its stacks left to the host, its completion writes PATTERN to the partition's stacks,
zeroes what its cores and stack engines hold, resets the registers of R201, R210, R224 and R278, and ends in the certificate of R431, signed by the
identity key, with its record. That lines the host may hold are taken back first is the model's reading (log 32); so is that a context whose kernel
still runs reads IDLE (log 35). -/
def Obligations.SanitiseClearsAndCertifies : Prop :=
  (∀ (s : State) (p : Nat), s.isLive = true → p < nParts s.mode → s.sanitising p = true → (∀ k ∈ partStacks s.mode p, s.heldLines k = []) →
    ∃ t, exec (.sanitiseDone p) s = .next t ∧ (t.part p).sanitise.state = 2 ∧ PartCleared s t p ∧
      (∀ k ∈ partStacks s.mode p,
        ∃ n, t.mem.stack k = (s.mem.stack k).sanitised ⟨n, s.start.periods, s.threshold⟩ (s.part p).sanitise.pattern) ∧
      (∀ k, k ∉ partStacks s.mode p → k < 16 → t.mem.stack k = s.mem.stack k) ∧
      (∃ c, CertifiedBy s t p (s.clearPart p).nv.cairn.length c ∧
        ((s.clearPart p).nv.cairn.length < cairnSlots → ∃ r, t.nv.cairn = (s.clearPart p).nv.cairn ++ [r] ∧ r.type = 0x10 ∧
          r.payload = leBytes 1 p ++ leBytes 1 (t.part p).sanitise.result ++ List.replicate 6 0 ++ sha256 c))) ∧
  (∀ (s : State) (p : Nat), s.isLive = true → p < nParts s.mode → s.sanitising p = true → (partStacks s.mode p).flatMap s.heldLines ≠ [] →
    exec (.sanitiseDone p) s = .next (s.sendSnoops (((partStacks s.mode p).flatMap s.heldLines).map (fun l => (l, true)))))

/-! ## Attestation and boundary scan (chapters 17, 19) -/

/-- SPDM (R420 to R422): each supported request is answered in its order, and with an ERROR out of it; FINISH completes a handshake and END_SESSION
closes a session; the request codes and the order are the model's (log 9). -/
def Obligations.SpdmRequestsAreAnswered : Prop :=
  SpdmAnswers .getVersion spdmGET_VERSION ∧ SpdmAnswers .getCapabilities spdmGET_CAPABILITIES ∧
  SpdmAnswers .negotiateAlgorithms spdmNEGOTIATE ∧ SpdmAnswers .getDigests spdmGET_DIGESTS ∧ SpdmAnswers .getCertificate spdmGET_CERTIFICATE ∧
  SpdmAnswers .challenge spdmCHALLENGE ∧ SpdmAnswers .getMeasurements spdmGET_MEASUREMENTS ∧ SpdmAnswers .keyExchange spdmKEY_EXCHANGE ∧
  SpdmAnswers .finish spdmFINISH ∧ SpdmAnswers .endSession spdmEND_SESSION ∧ SpdmAnswers .heartbeat spdmHEARTBEAT ∧
  SpdmKept .getVersion spdmGET_VERSION ∧ SpdmKept .getCapabilities spdmGET_CAPABILITIES ∧ SpdmKept .negotiateAlgorithms spdmNEGOTIATE ∧
  SpdmKept .getDigests spdmGET_DIGESTS ∧ SpdmKept .getCertificate spdmGET_CERTIFICATE ∧ SpdmKept .challenge spdmCHALLENGE ∧
  SpdmKept .getMeasurements spdmGET_MEASUREMENTS ∧
  (∀ (s : State) (a u : Nat) (msg : List Byte), exec (.keyExchange (.port a u) msg) s = .next s ∧ exec (.finish (.port a u) msg) s = .next s ∧
    exec (.endSession (.port a u) msg) s = .next s ∧ exec (.heartbeat (.port a u) msg) s = .next s) ∧
  (∀ (c : Security) (who : Requester), (c.after who spdmFINISH).sessions.filter (fun h => h.1 == who) = c.handshakes.filter (fun h => h.1 == who) ∧
    (c.after who spdmEND_SESSION).sessions.filter (fun h => h.1 == who) = [] ∧ (c.after who spdmGET_VERSION).algos.contains who = false)

/-- Boundary scan (R397, R417, R440): each instruction enters its die's register and the chain shifts out every die's data register, I1's first;
IDCODE and STARTSTAT hold their values; EXTEST drives while RESET_N is low and bypasses while it is high; FWLOAD boots an image that verifies, and
acts as BYPASS but while a start has stopped at stage 3. -/
def Obligations.BoundaryScanInstructions : Prop :=
  ((∀ (s : State) (d : Nat), d < 6 →
     (∃ t, exec (.bypass d) s = .next t ∧ Scans .bypass d s t ∧ t.jtag.cells = s.jtag.cells) ∧ (s.tap d .bypass).dataReg d = (1, 0) ∧
     (∃ t, exec (.idcode d) s = .next t ∧ Scans .idcode d s t ∧ t.jtag.cells = s.jtag.cells) ∧
     (s.tap d .idcode).dataReg d = (32, 1 + 2 * 0x2D3 + 2 ^ 12 * (0x4810 + d) + 2 ^ 28)) ∧
   (∀ (s : State) (d : Nat) (v : List Byte), d < 6 → ∃ t, exec (.samplePreload d v) s = .next t ∧ Scans .sample d s t ∧
     (∀ e, Table.get [] t.jtag.cells e = if e = d then v else Table.get [] s.jtag.cells e) ∧
     (s.tap d .sample).dataReg d = (8 * (Config.boundarySample d s.mem.fresh).length, leNat (Config.boundarySample d s.mem.fresh))) ∧
   (∀ (s : State) (d : Nat), d < 6 →
     (∃ t, exec (.extest d) s = .next t ∧ Scans .extest d s t ∧ t.jtag.cells = s.jtag.cells) ∧
     (∃ t, exec (.extestPulse d) s = .next t ∧ Scans .extestPulse d s t ∧ t.jtag.cells = s.jtag.cells) ∧
     (∃ t, exec (.extestTrain d) s = .next t ∧ Scans .extestTrain d s t ∧ t.jtag.cells = s.jtag.cells)) ∧
   (∀ (s : State) (d : Nat) (i : TapInstr), i = .extest ∨ i = .extestPulse ∨ i = .extestTrain → (s.tap d i).dataReg d =
     if s.start.resetN then (1, 0) else (8 * (Config.boundarySample d s.mem.fresh).length, leNat (Config.boundarySample d s.mem.fresh)))) ∧
  (∀ s : State, ∃ t, exec (.startstat 4) s = .next t ∧ Scans .startstat 4 s t ∧ t.jtag.cells = s.jtag.cells ∧
    (s.tap 4 .startstat).dataReg 4 = (64, Startup.status s.start)) ∧
  ((∀ (s : State) (img : List Byte), s.start.phase = .stopped → s.start.cause = 3 → fwOk s.nv img = true →
     exec (.fwload img) s = .next (State.bootFirmware { (s.tap 4 .fwload).scan with nv := { s.nv with fw0 := img, fwActive := 0 } })) ∧
   (∀ (s : State) (img : List Byte), ¬ (s.start.phase = .stopped ∧ s.start.cause = 3 ∧ fwOk s.nv img = true) →
     ∃ t, exec (.fwload img) s = .next t ∧ Scans .fwload 4 s t ∧ t.jtag.cells = s.jtag.cells ∧ t.start = s.start ∧
       (¬ (s.start.phase = .stopped ∧ s.start.cause = 3) → (s.tap 4 .fwload).dataReg 4 = (1, 0))))
end

