-- ==== Sys2Proof/Laws/Table.lean ====
section
/-! SUPPORT. Laws of the tables keyed by number, and of little-endian bytes. -/

namespace Sys2Proof.Machine

variable {α : Type}

/-- Reading what was set. -/
@[simp] theorem Table.get_set_same (d : α) (t : Table α) (k : Nat) (v : α) : Table.get d (Table.set t k v) k = v := by
  induction t with
  | nil => simp [Table.set, Table.get]
  | cons h t ih =>
    obtain ⟨j, a⟩ := h
    simp only [Table.set]
    split
    · simp only [Table.get]
      rw [if_neg (by omega)]
      exact ih
    · split <;> simp [Table.get]

/-- Setting one key leaves the others. -/
theorem Table.get_set_ne (d : α) (t : Table α) {k j : Nat} (v : α) (h : j ≠ k) :
    Table.get d (Table.set t k v) j = Table.get d t j := by
  induction t with
  | nil => simp [Table.set, Table.get, Ne.symm h]
  | cons x t ih =>
    obtain ⟨i, a⟩ := x
    simp only [Table.set]
    split
    · simp only [Table.get, ih]
    · split
      · rename_i h2
        subst h2
        simp [Table.get, Ne.symm h]
      · simp [Table.get, Ne.symm h]

/-- Reading after a set, by key. -/
theorem Table.get_set (d : α) (t : Table α) (k j : Nat) (v : α) :
    Table.get d (Table.set t k v) j = if j = k then v else Table.get d t j := by
  by_cases h : j = k
  · simp [h]
  · rw [if_neg h, Table.get_set_ne d t v h]

/-- A property of every entry holds after a set if it holds of the entry set. -/
theorem Table.forall_set {P : Nat × α → Prop} {t : Table α} {k : Nat} {v : α} (h : ∀ x ∈ t, P x) (hv : P (k, v)) :
    ∀ x ∈ Table.set t k v, P x := by
  induction t with
  | nil => simpa [Table.set] using hv
  | cons a t ih =>
    obtain ⟨j, b⟩ := a
    intro x hx
    simp only [Table.set] at hx
    have ht : ∀ x ∈ t, P x := fun y hy => h y (List.mem_cons_of_mem _ hy)
    split at hx
    · rcases List.mem_cons.1 hx with rfl | hx
      · exact h _ (List.mem_cons_self ..)
      · exact ih ht x hx
    · split at hx
      · rcases List.mem_cons.1 hx with rfl | hx
        · exact hv
        · exact ht x hx
      · rcases List.mem_cons.1 hx with rfl | hx
        · exact hv
        · exact h x hx

/-- What every entry has, a removed key's table has. -/
theorem Table.forall_del {P : Nat × α → Prop} {t : Table α} {k : Nat} (h : ∀ x ∈ t, P x) : ∀ x ∈ Table.del t k, P x :=
  fun x hx => h x (List.mem_filter.1 hx).1

/-- What every entry and the default have, the entry read has. -/
theorem Table.get_of_forall {P : α → Prop} {t : Table α} {d : α} (k : Nat) (h : ∀ x ∈ t, P x.2) (hd : P d) : P (Table.get d t k) := by
  induction t with
  | nil => exact hd
  | cons a t ih =>
    obtain ⟨j, b⟩ := a
    simp only [Table.get]
    split
    · exact h (j, b) (List.mem_cons_self ..)
    · exact ih (fun x hx => h x (List.mem_cons_of_mem _ hx))

/-- The bytes of a value are as many as asked for. -/
@[simp] theorem leBytes_length (n v : Nat) : (leBytes n v).length = n := by
  induction n generalizing v with
  | zero => rfl
  | succ n ih => simp [leBytes, ih]

/-- A value that fits comes back from its bytes (R8). -/
theorem leNat_leBytes (n v : Nat) : leNat (leBytes n v) = v % 256 ^ n := by
  induction n generalizing v with
  | zero => simp [leBytes, leNat, Nat.mod_one]
  | succ n ih =>
    simp only [leBytes, leNat, ih, BitVec.toNat_ofNat]
    show v % 256 + 256 * (v / 256 % 256 ^ n) = v % 256 ^ (n + 1)
    rw [pow_succ, mul_comm (256 ^ n) 256, Nat.mod_mul]

end Sys2Proof.Machine
end

