-- ==== Sys2Proof/Laws/Memory.lean ====
section
/-! SUPPORT. Every memory operation keeps the canonical form; a read after a write of a cell. -/

namespace Sys2Proof.Machine

/-! ## Cells -/

/-- Every listed address lies above `lo`. -/
def Above (lo : Option Nat) (a : Nat) : Prop := ∀ j, lo = some j → j < a

theorem cellsFrom_cons (d : Nat → Byte) (lo : Option Nat) (k : Nat) (b : Byte) (t : List Host.Cell) :
    cellsFrom d lo ((k, b) :: t) = true ↔ Above lo k ∧ b ≠ d k ∧ cellsFrom d (some k) t = true := by
  cases lo with
  | none => simp [cellsFrom, Above]
  | some j => simp [cellsFrom, Above, and_assoc]

theorem cellsFrom_weaken (d : Nat → Byte) {lo : Option Nat} {k : Nat} {t : List Host.Cell} (h : cellsFrom d (some k) t = true)
    (hk : Above lo k) : cellsFrom d lo t = true := by
  cases t with
  | nil => rfl
  | cons a t =>
    obtain ⟨j, b⟩ := a
    rw [cellsFrom_cons] at h ⊢
    exact ⟨fun i hi => Nat.lt_trans (hk i hi) (h.1 k rfl), h.2⟩

/-- A cell write keeps the form above any bound below its address. -/
theorem cellsFrom_cellPut (d : Nat → Byte) (a : Nat) (b : Byte) : ∀ (l : List Host.Cell) (lo : Option Nat),
    cellsFrom d lo l = true → Above lo a → cellsFrom d lo (cellPut (d a) l a b) = true
  | [], lo, _, hlo => by
    simp only [cellPut]
    split
    · rfl
    · rw [cellsFrom_cons]
      exact ⟨hlo, ‹_›, rfl⟩
  | (k, v) :: t, lo, h, hlo => by
    rw [cellsFrom_cons] at h
    simp only [cellPut]
    split
    · rename_i hk
      rw [cellsFrom_cons]
      exact ⟨h.1, h.2.1, cellsFrom_cellPut d a b t (some k) h.2.2 (fun j hj => by cases hj; exact hk)⟩
    · split
      · rename_i hk
        subst hk
        split
        · exact cellsFrom_weaken d h.2.2 h.1
        · rw [cellsFrom_cons]
          exact ⟨h.1, ‹_›, h.2.2⟩
      · split
        · rw [cellsFrom_cons]
          exact h
        · rw [cellsFrom_cons, cellsFrom_cons]
          exact ⟨hlo, ‹_›, fun j hj => by cases hj; omega, h.2⟩

theorem cellsWf_cellPut (d : Nat → Byte) (l : List Host.Cell) (a : Nat) (b : Byte) (h : cellsWf d l = true) :
    cellsWf d (cellPut (d a) l a b) = true := cellsFrom_cellPut d a b l none h (fun _ hj => by cases hj)

theorem cellsWf_cellPuts (d : Nat → Byte) (bs : List Byte) : ∀ (l : List Host.Cell) (a : Nat),
    cellsWf d l = true → cellsWf d (cellPuts d l a bs) = true := by
  induction bs with
  | nil => exact fun _ _ h => h
  | cons b bs ih => exact fun l a h => ih _ _ (cellsWf_cellPut d l a b h)

theorem cellsWf_cellMask (d : Nat → Byte) (bs : List (Option Byte)) : ∀ (l : List Host.Cell) (a : Nat),
    cellsWf d l = true → cellsWf d (cellMask d l a bs) = true := by
  induction bs with
  | nil => exact fun _ _ h => h
  | cons b bs ih =>
    intro l a h
    cases b with
    | none => exact ih _ _ h
    | some b => exact ih _ _ (cellsWf_cellPut d l a b h)

/-- A read after a write of one cell. -/
theorem cellGet_cellPut (d : Nat → Byte) (a : Nat) (b : Byte) (x : Nat) : ∀ (l : List Host.Cell) (lo : Option Nat),
    cellsFrom d lo l = true → cellGet (d x) (cellPut (d a) l a b) x = if x = a then b else cellGet (d x) l x
  | [], _, _ => by
    simp only [cellPut]
    by_cases hx : x = a
    · subst hx
      split <;> simp_all [cellGet]
    · split
      · simp [cellGet]
      · simp [cellGet, Ne.symm hx]
  | (k, v) :: t, lo, h => by
    rw [cellsFrom_cons] at h
    have ih := cellGet_cellPut d a b x t (some k) h.2.2
    simp only [cellPut]
    split
    · simp only [cellGet]
      by_cases hkx : k = x
      · rw [if_pos hkx, if_pos hkx, if_neg (by omega)]
      · rw [if_neg hkx, if_neg hkx, ih]
    · split
      · rename_i hk
        subst hk
        by_cases hx : x = k
        · subst hx
          rw [if_pos rfl]
          split
          · rename_i hb
            subst hb
            exact cellGet_above d x t x h.2.2 (Nat.le_refl _)
          · simp [cellGet]
        · rw [if_neg hx]
          split
          · simp [cellGet, Ne.symm hx]
          · simp [cellGet, Ne.symm hx]
      · by_cases hx : x = a
        · subst hx
          rw [if_pos rfl]
          split
          · rename_i hb
            subst hb
            simp only [cellGet]
            rw [if_neg (by omega)]
            exact cellGet_above d k t x h.2.2 (by omega)
          · simp [cellGet]
        · rw [if_neg hx]
          split
          · rfl
          · simp [cellGet, Ne.symm hx]
where
  /-- No cell is listed at or below the bound of its list. -/
  cellGet_above (d : Nat → Byte) (k : Nat) : ∀ (t : List Host.Cell) (x : Nat), cellsFrom d (some k) t = true → x ≤ k →
      cellGet (d x) t x = d x
    | [], _, _, _ => rfl
    | (j, v) :: t, x, h, hx => by
      rw [cellsFrom_cons] at h
      have hj : k < j := h.1 k rfl
      simp only [cellGet]
      rw [if_neg (by omega)]
      exact cellGet_above d j t x h.2.2 (by omega)

/-- Dropping cells keeps the form. -/
theorem cellsFrom_filter (d : Nat → Byte) (p : Host.Cell → Bool) : ∀ (l : List Host.Cell) (lo : Option Nat),
    cellsFrom d lo l = true → cellsFrom d lo (l.filter p) = true
  | [], _, _ => rfl
  | (k, b) :: t, lo, h => by
    rw [cellsFrom_cons] at h
    have ih := cellsFrom_filter d p t (some k) h.2.2
    rw [List.filter_cons]
    split
    · rw [cellsFrom_cons]
      exact ⟨h.1, h.2.1, ih⟩
    · exact cellsFrom_weaken d ih h.1

/-- The form depends on the unlisted bytes of listed addresses alone. -/
theorem cellsFrom_congr {d e : Nat → Byte} : ∀ (l : List Host.Cell) (lo : Option Nat),
    (∀ c ∈ l, d c.1 = e c.1) → cellsFrom d lo l = true → cellsFrom e lo l = true
  | [], _, _, _ => rfl
  | (k, b) :: t, lo, hd, h => by
    rw [cellsFrom_cons] at h ⊢
    refine ⟨h.1, ?_, cellsFrom_congr t (some k) (fun c hc => hd c (List.mem_cons_of_mem _ hc)) h.2.2⟩
    rw [← hd (k, b) (List.mem_cons_self ..)]
    exact h.2.1

/-! ## One stack -/

/-- A stack's form is a matter of its bytes and fills. -/
theorem Stack.wf_of_eq {st u : Stack} (h : u.wf = true) (hb : st.bytes = u.bytes) (hf : st.fills = u.fills) : st.wf = true := by
  unfold Stack.wf at h ⊢
  rw [hb, hf]
  exact h

theorem Stack.wf_default : ({} : Stack).wf = true := rfl

theorem Stack.wf_store {st : Stack} (line : Nat) (bs : List Byte) (h : st.wf = true) : (st.store line bs).wf = true :=
  cellsWf_cellPuts _ _ _ _ h

theorem Stack.wf_poison {st : Stack} (line : Nat) (h : st.wf = true) : (st.poison line).wf = true := by
  unfold Stack.poison
  generalize cellRead _ _ _ _ = bs
  have hs := Stack.wf_store line bs h
  generalize st.store line bs = u at hs ⊢
  exact Stack.wf_of_eq hs rfl rfl

theorem Stack.wf_failChannel {st : Stack} (c : Nat) (h : st.wf = true) : (st.failChannel c).wf = true := by
  unfold Stack.failChannel
  split
  · exact h
  · exact Stack.wf_of_eq h rfl rfl

theorem Stack.wf_uncorrectable {st : Stack} (line : Nat) (h : st.wf = true) : (st.uncorrectable line).wf = true := by
  have hp := Stack.wf_poison line h
  unfold Stack.uncorrectable
  dsimp only
  generalize (if st.ueLines.contains line = true then st.ueLines else line :: st.ueLines) = ue
  generalize st.poison line = u at hp ⊢
  split
  · exact Stack.wf_failChannel _ (Stack.wf_of_eq hp rfl rfl)
  · exact Stack.wf_of_eq hp rfl rfl

theorem Stack.wf_install {st : Stack} (line : Nat) (auto : Bool) (h : st.wf = true) : (st.install line auto).wf = true := by
  unfold Stack.install
  split
  · exact h
  · dsimp only
    split
    · exact Stack.wf_of_eq h rfl rfl
    · exact Stack.wf_of_eq h rfl rfl

theorem Stack.logCorrection_bytes (st : Stack) (line symbol sector now : Nat) :
    (st.logCorrection line symbol sector now).bytes = st.bytes ∧ (st.logCorrection line symbol sector now).fills = st.fills := by
  unfold Stack.logCorrection
  dsimp only
  split
  · exact ⟨rfl, rfl⟩
  · split
    · exact ⟨rfl, rfl⟩
    · split <;> exact ⟨rfl, rfl⟩

theorem Stack.wf_logCorrection {st : Stack} (line symbol sector now : Nat) (h : st.wf = true) :
    (st.logCorrection line symbol sector now).wf = true :=
  Stack.wf_of_eq h (Stack.logCorrection_bytes ..).1 (Stack.logCorrection_bytes ..).2

theorem Stack.wf_correctSector {st : Stack} (e : DieEnv) (line sec : Nat) (logs : Bool) (h : st.wf = true) :
    (st.correctSector e line sec logs).1.wf = true := by
  unfold Stack.correctSector
  split
  · exact h
  · dsimp only
    split
    · exact Stack.wf_logCorrection _ _ _ _ (Stack.wf_of_eq h rfl rfl)
    · exact Stack.wf_of_eq h rfl rfl

theorem Stack.wf_correct {st : Stack} (e : DieEnv) (line : Nat) (logs : Bool) (h : st.wf = true) :
    (st.correct e line logs).wf = true := by
  have h1 := Stack.wf_correctSector e line 1 logs (Stack.wf_correctSector e line 0 logs h)
  unfold Stack.correct
  dsimp only
  split
  · exact Stack.wf_install _ _ h1
  · exact h1

theorem Stack.wf_dramRead {st : Stack} (e : DieEnv) (line : Nat) (h : st.wf = true) : (st.dramRead e line).1.wf = true := by
  unfold Stack.dramRead
  split
  · exact h
  split
  · exact h
  split
  · split
    · exact Stack.wf_uncorrectable _ h
    · exact Stack.wf_store _ _ h
  dsimp only
  split
  · exact Stack.wf_uncorrectable _ (Stack.wf_correct _ _ _ h)
  split
  · exact Stack.wf_store _ _ (Stack.wf_correct _ _ _ h)
  · exact Stack.wf_correct _ _ _ h

theorem Stack.wf_writeWhole {st : Stack} (line : Nat) (bs : List Byte) (h : st.wf = true) : (st.writeWhole line bs).wf = true := by
  unfold Stack.writeWhole
  split
  · exact Stack.wf_store _ _ (Stack.wf_install _ _ h)
  · exact Stack.wf_store _ _ h

theorem Stack.wf_leave {st : Stack} (e : DieEnv) (w : WcLine) (h : st.wf = true) : (st.leave e w).wf = true := by
  have h0 : ({ st with wc := st.wc.filter (fun x => x.line != w.line) } : Stack).wf = true := Stack.wf_of_eq h rfl rfl
  have hr := Stack.wf_dramRead e w.line h0
  unfold Stack.leave
  dsimp only
  split
  · exact Stack.wf_writeWhole _ _ h0
  · split
    · rename_i heq
      rw [heq] at hr
      exact Stack.wf_store _ _ hr
    · rename_i heq
      rw [heq] at hr
      have hp := Stack.wf_poison w.line hr
      revert hp
      generalize Stack.poison _ w.line = u
      exact fun hp => Stack.wf_of_eq hp rfl rfl

theorem Stack.wf_flush {st : Stack} (e : DieEnv) (h : st.wf = true) : (st.flush e).wf = true := by
  have go : ∀ (l : List WcLine) (st : Stack), st.wf = true →
      (l.foldl (fun st w => if st.wc.contains w then st.leave e w else st) st).wf = true := by
    intro l
    induction l with
    | nil => exact fun _ h => h
    | cons w l ih =>
      intro st h
      refine ih _ ?_
      beta_reduce
      split
      · exact Stack.wf_leave e w h
      · exact h
  exact go _ _ h

theorem Stack.wf_readLine {st : Stack} (e : DieEnv) (line : Nat) (h : st.wf = true) : (st.readLine e line).1.wf = true := by
  unfold Stack.readLine
  split
  · exact h
  split
  · split
    · exact h
    dsimp only
    split
    · exact Stack.wf_leave _ _ h
    split
    · exact Stack.wf_leave _ _ h
    · exact Stack.wf_leave _ _ h
  · exact Stack.wf_dramRead _ _ h

theorem Stack.wf_makeRoom {st : Stack} (e : DieEnv) (line : Nat) (h : st.wf = true) : (st.makeRoom e line).wf = true := by
  unfold Stack.makeRoom
  split
  · split
    · exact Stack.wf_leave _ _ h
    · exact h
  · exact h

theorem Stack.wf_writeLine {st : Stack} (e : DieEnv) (line : Nat) (m : List (Option Byte)) (h : st.wf = true) :
    (st.writeLine e line m).1.wf = true := by
  unfold Stack.writeLine
  split
  · exact h
  split
  · exact Stack.wf_writeWhole _ _ (Stack.wf_of_eq h rfl rfl)
  split
  · exact Stack.wf_of_eq h rfl rfl
  · have h1 := Stack.wf_makeRoom e line h
    revert h1
    dsimp only
    generalize st.makeRoom e line = u
    intro h1
    split
    · exact h1
    · exact Stack.wf_of_eq h1 rfl rfl

/-- Cutting a range out of the fills leaves the other lines as they were. -/
theorem fillByte_cutFills (lo hi o : Nat) (h : ¬ (lo ≤ o / 64 ∧ o / 64 < hi)) : ∀ fs : List Fill,
    fillByte (cutFills lo hi fs) o = fillByte fs o
  | [] => rfl
  | f :: t => by
    have ih := fillByte_cutFills lo hi o h t
    have hc : cutFills lo hi (f :: t) = ((if f.lo < min f.hi lo then [{ f with hi := min f.hi lo }] else []) ++
        (if max f.lo hi < f.hi then [{ f with lo := max f.lo hi }] else [])) ++ cutFills lo hi t := by
      simp [cutFills]
    rw [hc]
    split <;> split <;> simp only [List.nil_append, List.cons_append, fillByte, ih] <;> (repeat' split) <;>
      first | rfl | (exfalso; omega)

theorem Stack.wf_fill {st : Stack} (lo hi pattern : Nat) (h : st.wf = true) : (st.fill lo hi pattern).wf = true := by
  unfold Stack.fill Stack.wf cellsWf
  refine cellsFrom_congr (d := fillByte st.fills) _ _ ?_ (cellsFrom_filter _ _ _ _ h)
  intro c hc
  have hin := (List.mem_filter.1 hc).2
  have hout : ¬ (lo ≤ c.1 / 64 ∧ c.1 / 64 < hi) := by
    intro hx
    simp [hx.1, hx.2] at hin
  dsimp only
  split
  · rw [fillByte, if_neg hout, fillByte_cutFills lo hi c.1 hout]
  · rfl

theorem Stack.wf_fillLines {st : Stack} (e : DieEnv) (lo hi pattern : Nat) (h : st.wf = true) :
    (st.fillLines e lo hi pattern).wf = true := by
  have go : ∀ (l : List Nat) (st : Stack), st.wf = true → (l.foldl (fun st x => st.install x true) st).wf = true := by
    intro l
    induction l with
    | nil => exact fun _ h => h
    | cons x l ih => exact fun st h => ih _ (Stack.wf_install x true h)
  exact Stack.wf_fill _ _ _ (go _ _ (Stack.wf_flush e h))

/-! ## All memories -/

theorem Memory.wf_iff (m : MemSys) : Memory.wf m = true ↔
    (∀ p ∈ m.stk, p.2.wf = true) ∧ (∀ p ∈ m.scratch, cellsWf (m.scratchByte p.1) p.2 = true) ∧
    (∀ p ∈ m.cmdStore, cellsWf (m.bankByte p.1) p.2 = true) := by
  simp [Memory.wf, and_assoc]

/-- The form does not look at the counter of free values. -/
theorem Memory.wf_fresh {m : MemSys} (n : Nat) (h : Memory.wf m = true) : Memory.wf { m with fresh := n } = true := h

theorem Memory.wf_stack {m : MemSys} (k : Nat) (h : Memory.wf m = true) : (m.stack k).wf = true :=
  Table.get_of_forall (P := fun st : Stack => st.wf = true) k ((Memory.wf_iff m).1 h).1 rfl

theorem Memory.wf_setStack {m : MemSys} (k : Nat) {st : Stack} (h : Memory.wf m = true) (hs : st.wf = true) :
    Memory.wf (m.setStack k st) = true := by
  obtain ⟨h1, h2, h3⟩ := (Memory.wf_iff m).1 h
  exact (Memory.wf_iff _).2 ⟨Table.forall_set (P := fun p : Nat × Stack => p.2.wf = true) h1 hs, h2, h3⟩

/-- What a table of cell lists answers is canonical for its key. -/
theorem cellsWf_get {t : Table (List Host.Cell)} {d : Nat → Nat → Byte} (k : Nat) (h : ∀ p ∈ t, cellsWf (d p.1) p.2 = true) :
    cellsWf (d k) (Table.get [] t k) = true := by
  induction t with
  | nil => rfl
  | cons a t ih =>
    obtain ⟨j, l⟩ := a
    simp only [Table.get]
    split
    · rename_i hj
      subst hj
      exact h (j, l) (List.mem_cons_self ..)
    · exact ih (fun p hp => h p (List.mem_cons_of_mem _ hp))

theorem Memory.wf_scratchWrite {m : MemSys} (c off : Nat) (bs : List (Option Byte)) (h : Memory.wf m = true) :
    Memory.wf (m.scratchWrite c off bs) = true := by
  obtain ⟨h1, h2, h3⟩ := (Memory.wf_iff m).1 h
  exact (Memory.wf_iff _).2 ⟨h1, Table.forall_set (P := fun p => cellsWf (m.scratchByte p.1) p.2 = true) h2
    (cellsWf_cellMask _ _ _ _ (cellsWf_get (d := m.scratchByte) c h2)), h3⟩

theorem Memory.wf_bankWrite {m : MemSys} (c b off : Nat) (bs : List (Option Byte)) (h : Memory.wf m = true) :
    Memory.wf (m.bankWrite c b off bs) = true := by
  obtain ⟨h1, h2, h3⟩ := (Memory.wf_iff m).1 h
  exact (Memory.wf_iff _).2 ⟨h1, h2, Table.forall_set (P := fun p => cellsWf (m.bankByte p.1) p.2 = true) h3
    (cellsWf_cellMask _ _ _ _ (cellsWf_get (d := m.bankByte) (2 * c + b) h3))⟩

/-- Reading another key's default from a table that lost one. -/
theorem Table.get_del_ne {α : Type} (d : α) (t : Table α) {k j : Nat} (h : j ≠ k) : Table.get d (Table.del t k) j = Table.get d t j := by
  induction t with
  | nil => rfl
  | cons a t ih =>
    obtain ⟨i, v⟩ := a
    by_cases hi : i = k
    · subst hi
      rw [show Table.del ((i, v) :: t) i = Table.del t i by simp [Table.del], ih]
      simp [Table.get, Ne.symm h]
    · rw [show Table.del ((i, v) :: t) k = (i, v) :: Table.del t k by simp [Table.del, hi]]
      simp only [Table.get, ih]

theorem Memory.wf_scratchZero {m : MemSys} (c : Nat) (h : Memory.wf m = true) : Memory.wf (m.scratchZero c) = true := by
  obtain ⟨h1, h2, h3⟩ := (Memory.wf_iff m).1 h
  refine (Memory.wf_iff _).2 ⟨h1, ?_, h3⟩
  intro p hp
  have hp := List.mem_filter.1 hp
  have hc : p.1 ≠ c := by simpa using hp.2
  have hb : (m.scratchZero c).scratchByte p.1 = m.scratchByte p.1 := by
    funext o
    simp [MemSys.scratchByte, MemSys.scratchZero, Table.get_del_ne _ _ hc]
  rw [hb]
  exact h2 p hp.1

theorem Memory.wf_scratchFree {m : MemSys} (c : Nat) (h : Memory.wf m = true) : Memory.wf (m.scratchFree c) = true := by
  obtain ⟨h1, h2, h3⟩ := (Memory.wf_iff m).1 h
  refine (Memory.wf_iff _).2 ⟨h1, ?_, h3⟩
  intro p hp
  have hp := List.mem_filter.1 hp
  have hc : p.1 ≠ c := by simpa using hp.2
  have hb : (m.scratchFree c).scratchByte p.1 = m.scratchByte p.1 := by
    funext o
    simp [MemSys.scratchByte, MemSys.scratchFree, Table.get_set_ne _ _ _ hc]
  rw [hb]
  exact h2 p hp.1

theorem Memory.wf_banksZero {m : MemSys} (c : Nat) (h : Memory.wf m = true) : Memory.wf (m.banksZero c) = true := by
  obtain ⟨h1, h2, h3⟩ := (Memory.wf_iff m).1 h
  refine (Memory.wf_iff _).2 ⟨h1, h2, ?_⟩
  intro p hp
  have hp := List.mem_filter.1 hp
  have hq := List.mem_filter.1 hp.1
  have ha : p.1 ≠ 2 * c + 1 := by simpa using hp.2
  have hb : p.1 ≠ 2 * c := by simpa using hq.2
  have he : (m.banksZero c).bankByte p.1 = m.bankByte p.1 := by
    funext o
    simp [MemSys.bankByte, MemSys.banksZero, Table.get_del_ne _ _ ha, Table.get_del_ne _ _ hb]
  rw [he]
  exact h3 p hq.1

theorem Memory.wf_coresFree {m : MemSys} (h : Memory.wf m = true) : Memory.wf m.coresFree = true := by
  obtain ⟨h1, _, _⟩ := (Memory.wf_iff m).1 h
  exact (Memory.wf_iff _).2 ⟨h1, by simp [MemSys.coresFree], by simp [MemSys.coresFree]⟩

theorem Memory.wf_readLine {m : MemSys} (now threshold s line : Nat) (h : Memory.wf m = true) :
    Memory.wf (m.readLine now threshold s line).1 = true :=
  Memory.wf_setStack s h (Stack.wf_readLine _ _ (Memory.wf_stack s h))

theorem Memory.wf_writeLine {m : MemSys} (now threshold s line : Nat) (bs : List (Option Byte)) (h : Memory.wf m = true) :
    Memory.wf (m.writeLine now threshold s line bs).1 = true :=
  Memory.wf_setStack s h (Stack.wf_writeLine _ _ _ (Memory.wf_stack s h))

end Sys2Proof.Machine
end

