-- ==== Sys2Proof/Laws/State.lean ====
section
/-! SUPPORT. What each update of the state leaves as it was, field by field, and what it makes of its own field. -/

namespace Sys2Proof.Machine

variable (s : State)

/-! ### setCore -/

@[simp] theorem State.setCore_nv (c : Nat) (v : Core) : (s.setCore c v).nv = s.nv := rfl
@[simp] theorem State.setCore_start (c : Nat) (v : Core) : (s.setCore c v).start = s.start := rfl
@[simp] theorem State.setCore_mem (c : Nat) (v : Core) : (s.setCore c v).mem = s.mem := rfl
@[simp] theorem State.setCore_engines (c : Nat) (v : Core) : (s.setCore c v).engines = s.engines := rfl
@[simp] theorem State.setCore_contexts (c : Nat) (v : Core) : (s.setCore c v).contexts = s.contexts := rfl
@[simp] theorem State.setCore_parts (c : Nat) (v : Core) : (s.setCore c v).parts = s.parts := rfl
@[simp] theorem State.setCore_ports (c : Nat) (v : Core) : (s.setCore c v).ports = s.ports := rfl
@[simp] theorem State.setCore_host (c : Nat) (v : Core) : (s.setCore c v).host = s.host := rfl
@[simp] theorem State.setCore_dict (c : Nat) (v : Core) : (s.setCore c v).dict = s.dict := rfl
@[simp] theorem State.setCore_power (c : Nat) (v : Core) : (s.setCore c v).power = s.power := rfl
@[simp] theorem State.setCore_sec (c : Nat) (v : Core) : (s.setCore c v).sec = s.sec := rfl
@[simp] theorem State.setCore_jtag (c : Nat) (v : Core) : (s.setCore c v).jtag = s.jtag := rfl
@[simp] theorem State.setCore_pending (c : Nat) (v : Core) : (s.setCore c v).pending = s.pending := rfl
@[simp] theorem State.setCore_out (c : Nat) (v : Core) : (s.setCore c v).out = s.out := rfl

/-! ### setContext -/

@[simp] theorem State.setContext_nv (p x : Nat) (v : Context) : (s.setContext p x v).nv = s.nv := rfl
@[simp] theorem State.setContext_start (p x : Nat) (v : Context) : (s.setContext p x v).start = s.start := rfl
@[simp] theorem State.setContext_mem (p x : Nat) (v : Context) : (s.setContext p x v).mem = s.mem := rfl
@[simp] theorem State.setContext_engines (p x : Nat) (v : Context) : (s.setContext p x v).engines = s.engines := rfl
@[simp] theorem State.setContext_cores (p x : Nat) (v : Context) : (s.setContext p x v).cores = s.cores := rfl
@[simp] theorem State.setContext_parts (p x : Nat) (v : Context) : (s.setContext p x v).parts = s.parts := rfl
@[simp] theorem State.setContext_ports (p x : Nat) (v : Context) : (s.setContext p x v).ports = s.ports := rfl
@[simp] theorem State.setContext_host (p x : Nat) (v : Context) : (s.setContext p x v).host = s.host := rfl
@[simp] theorem State.setContext_dict (p x : Nat) (v : Context) : (s.setContext p x v).dict = s.dict := rfl
@[simp] theorem State.setContext_power (p x : Nat) (v : Context) : (s.setContext p x v).power = s.power := rfl
@[simp] theorem State.setContext_sec (p x : Nat) (v : Context) : (s.setContext p x v).sec = s.sec := rfl
@[simp] theorem State.setContext_jtag (p x : Nat) (v : Context) : (s.setContext p x v).jtag = s.jtag := rfl
@[simp] theorem State.setContext_pending (p x : Nat) (v : Context) : (s.setContext p x v).pending = s.pending := rfl
@[simp] theorem State.setContext_out (p x : Nat) (v : Context) : (s.setContext p x v).out = s.out := rfl

/-! ### setPart -/

@[simp] theorem State.setPart_nv (p : Nat) (v : Part) : (s.setPart p v).nv = s.nv := rfl
@[simp] theorem State.setPart_start (p : Nat) (v : Part) : (s.setPart p v).start = s.start := rfl
@[simp] theorem State.setPart_mem (p : Nat) (v : Part) : (s.setPart p v).mem = s.mem := rfl
@[simp] theorem State.setPart_engines (p : Nat) (v : Part) : (s.setPart p v).engines = s.engines := rfl
@[simp] theorem State.setPart_cores (p : Nat) (v : Part) : (s.setPart p v).cores = s.cores := rfl
@[simp] theorem State.setPart_contexts (p : Nat) (v : Part) : (s.setPart p v).contexts = s.contexts := rfl
@[simp] theorem State.setPart_ports (p : Nat) (v : Part) : (s.setPart p v).ports = s.ports := rfl
@[simp] theorem State.setPart_host (p : Nat) (v : Part) : (s.setPart p v).host = s.host := rfl
@[simp] theorem State.setPart_dict (p : Nat) (v : Part) : (s.setPart p v).dict = s.dict := rfl
@[simp] theorem State.setPart_power (p : Nat) (v : Part) : (s.setPart p v).power = s.power := rfl
@[simp] theorem State.setPart_sec (p : Nat) (v : Part) : (s.setPart p v).sec = s.sec := rfl
@[simp] theorem State.setPart_jtag (p : Nat) (v : Part) : (s.setPart p v).jtag = s.jtag := rfl
@[simp] theorem State.setPart_pending (p : Nat) (v : Part) : (s.setPart p v).pending = s.pending := rfl
@[simp] theorem State.setPart_out (p : Nat) (v : Part) : (s.setPart p v).out = s.out := rfl

/-! ### setEngine -/

@[simp] theorem State.setEngine_nv (k : Nat) (v : Engine) : (s.setEngine k v).nv = s.nv := rfl
@[simp] theorem State.setEngine_start (k : Nat) (v : Engine) : (s.setEngine k v).start = s.start := rfl
@[simp] theorem State.setEngine_mem (k : Nat) (v : Engine) : (s.setEngine k v).mem = s.mem := rfl
@[simp] theorem State.setEngine_cores (k : Nat) (v : Engine) : (s.setEngine k v).cores = s.cores := rfl
@[simp] theorem State.setEngine_contexts (k : Nat) (v : Engine) : (s.setEngine k v).contexts = s.contexts := rfl
@[simp] theorem State.setEngine_parts (k : Nat) (v : Engine) : (s.setEngine k v).parts = s.parts := rfl
@[simp] theorem State.setEngine_ports (k : Nat) (v : Engine) : (s.setEngine k v).ports = s.ports := rfl
@[simp] theorem State.setEngine_host (k : Nat) (v : Engine) : (s.setEngine k v).host = s.host := rfl
@[simp] theorem State.setEngine_dict (k : Nat) (v : Engine) : (s.setEngine k v).dict = s.dict := rfl
@[simp] theorem State.setEngine_power (k : Nat) (v : Engine) : (s.setEngine k v).power = s.power := rfl
@[simp] theorem State.setEngine_sec (k : Nat) (v : Engine) : (s.setEngine k v).sec = s.sec := rfl
@[simp] theorem State.setEngine_jtag (k : Nat) (v : Engine) : (s.setEngine k v).jtag = s.jtag := rfl
@[simp] theorem State.setEngine_pending (k : Nat) (v : Engine) : (s.setEngine k v).pending = s.pending := rfl
@[simp] theorem State.setEngine_out (k : Nat) (v : Engine) : (s.setEngine k v).out = s.out := rfl

/-! ### setPort -/

@[simp] theorem State.setPort_nv (q : Nat) (v : Port) : (s.setPort q v).nv = s.nv := rfl
@[simp] theorem State.setPort_start (q : Nat) (v : Port) : (s.setPort q v).start = s.start := rfl
@[simp] theorem State.setPort_mem (q : Nat) (v : Port) : (s.setPort q v).mem = s.mem := rfl
@[simp] theorem State.setPort_engines (q : Nat) (v : Port) : (s.setPort q v).engines = s.engines := rfl
@[simp] theorem State.setPort_cores (q : Nat) (v : Port) : (s.setPort q v).cores = s.cores := rfl
@[simp] theorem State.setPort_contexts (q : Nat) (v : Port) : (s.setPort q v).contexts = s.contexts := rfl
@[simp] theorem State.setPort_parts (q : Nat) (v : Port) : (s.setPort q v).parts = s.parts := rfl
@[simp] theorem State.setPort_host (q : Nat) (v : Port) : (s.setPort q v).host = s.host := rfl
@[simp] theorem State.setPort_dict (q : Nat) (v : Port) : (s.setPort q v).dict = s.dict := rfl
@[simp] theorem State.setPort_power (q : Nat) (v : Port) : (s.setPort q v).power = s.power := rfl
@[simp] theorem State.setPort_sec (q : Nat) (v : Port) : (s.setPort q v).sec = s.sec := rfl
@[simp] theorem State.setPort_jtag (q : Nat) (v : Port) : (s.setPort q v).jtag = s.jtag := rfl
@[simp] theorem State.setPort_pending (q : Nat) (v : Port) : (s.setPort q v).pending = s.pending := rfl
@[simp] theorem State.setPort_out (q : Nat) (v : Port) : (s.setPort q v).out = s.out := rfl

/-! ### setFunc -/

@[simp] theorem State.setFunc_nv (f : Nat) (v : Func) : (s.setFunc f v).nv = s.nv := rfl
@[simp] theorem State.setFunc_start (f : Nat) (v : Func) : (s.setFunc f v).start = s.start := rfl
@[simp] theorem State.setFunc_mem (f : Nat) (v : Func) : (s.setFunc f v).mem = s.mem := rfl
@[simp] theorem State.setFunc_engines (f : Nat) (v : Func) : (s.setFunc f v).engines = s.engines := rfl
@[simp] theorem State.setFunc_cores (f : Nat) (v : Func) : (s.setFunc f v).cores = s.cores := rfl
@[simp] theorem State.setFunc_contexts (f : Nat) (v : Func) : (s.setFunc f v).contexts = s.contexts := rfl
@[simp] theorem State.setFunc_parts (f : Nat) (v : Func) : (s.setFunc f v).parts = s.parts := rfl
@[simp] theorem State.setFunc_ports (f : Nat) (v : Func) : (s.setFunc f v).ports = s.ports := rfl
@[simp] theorem State.setFunc_dict (f : Nat) (v : Func) : (s.setFunc f v).dict = s.dict := rfl
@[simp] theorem State.setFunc_power (f : Nat) (v : Func) : (s.setFunc f v).power = s.power := rfl
@[simp] theorem State.setFunc_sec (f : Nat) (v : Func) : (s.setFunc f v).sec = s.sec := rfl
@[simp] theorem State.setFunc_jtag (f : Nat) (v : Func) : (s.setFunc f v).jtag = s.jtag := rfl
@[simp] theorem State.setFunc_pending (f : Nat) (v : Func) : (s.setFunc f v).pending = s.pending := rfl
@[simp] theorem State.setFunc_out (f : Nat) (v : Func) : (s.setFunc f v).out = s.out := rfl

/-! ### updCore -/

@[simp] theorem State.updCore_nv (c : Nat) (f : Core → Core) : (s.updCore c f).nv = s.nv := rfl
@[simp] theorem State.updCore_start (c : Nat) (f : Core → Core) : (s.updCore c f).start = s.start := rfl
@[simp] theorem State.updCore_mem (c : Nat) (f : Core → Core) : (s.updCore c f).mem = s.mem := rfl
@[simp] theorem State.updCore_engines (c : Nat) (f : Core → Core) : (s.updCore c f).engines = s.engines := rfl
@[simp] theorem State.updCore_contexts (c : Nat) (f : Core → Core) : (s.updCore c f).contexts = s.contexts := rfl
@[simp] theorem State.updCore_parts (c : Nat) (f : Core → Core) : (s.updCore c f).parts = s.parts := rfl
@[simp] theorem State.updCore_ports (c : Nat) (f : Core → Core) : (s.updCore c f).ports = s.ports := rfl
@[simp] theorem State.updCore_host (c : Nat) (f : Core → Core) : (s.updCore c f).host = s.host := rfl
@[simp] theorem State.updCore_dict (c : Nat) (f : Core → Core) : (s.updCore c f).dict = s.dict := rfl
@[simp] theorem State.updCore_power (c : Nat) (f : Core → Core) : (s.updCore c f).power = s.power := rfl
@[simp] theorem State.updCore_sec (c : Nat) (f : Core → Core) : (s.updCore c f).sec = s.sec := rfl
@[simp] theorem State.updCore_jtag (c : Nat) (f : Core → Core) : (s.updCore c f).jtag = s.jtag := rfl
@[simp] theorem State.updCore_pending (c : Nat) (f : Core → Core) : (s.updCore c f).pending = s.pending := rfl
@[simp] theorem State.updCore_out (c : Nat) (f : Core → Core) : (s.updCore c f).out = s.out := rfl

/-! ### updQueue -/

@[simp] theorem State.updQueue_nv (c q : Nat) (f : QueueSt → QueueSt) : (s.updQueue c q f).nv = s.nv := rfl
@[simp] theorem State.updQueue_start (c q : Nat) (f : QueueSt → QueueSt) : (s.updQueue c q f).start = s.start := rfl
@[simp] theorem State.updQueue_mem (c q : Nat) (f : QueueSt → QueueSt) : (s.updQueue c q f).mem = s.mem := rfl
@[simp] theorem State.updQueue_engines (c q : Nat) (f : QueueSt → QueueSt) : (s.updQueue c q f).engines = s.engines := rfl
@[simp] theorem State.updQueue_contexts (c q : Nat) (f : QueueSt → QueueSt) : (s.updQueue c q f).contexts = s.contexts := rfl
@[simp] theorem State.updQueue_parts (c q : Nat) (f : QueueSt → QueueSt) : (s.updQueue c q f).parts = s.parts := rfl
@[simp] theorem State.updQueue_ports (c q : Nat) (f : QueueSt → QueueSt) : (s.updQueue c q f).ports = s.ports := rfl
@[simp] theorem State.updQueue_host (c q : Nat) (f : QueueSt → QueueSt) : (s.updQueue c q f).host = s.host := rfl
@[simp] theorem State.updQueue_dict (c q : Nat) (f : QueueSt → QueueSt) : (s.updQueue c q f).dict = s.dict := rfl
@[simp] theorem State.updQueue_power (c q : Nat) (f : QueueSt → QueueSt) : (s.updQueue c q f).power = s.power := rfl
@[simp] theorem State.updQueue_sec (c q : Nat) (f : QueueSt → QueueSt) : (s.updQueue c q f).sec = s.sec := rfl
@[simp] theorem State.updQueue_jtag (c q : Nat) (f : QueueSt → QueueSt) : (s.updQueue c q f).jtag = s.jtag := rfl
@[simp] theorem State.updQueue_pending (c q : Nat) (f : QueueSt → QueueSt) : (s.updQueue c q f).pending = s.pending := rfl
@[simp] theorem State.updQueue_out (c q : Nat) (f : QueueSt → QueueSt) : (s.updQueue c q f).out = s.out := rfl

/-! ### updContext -/

@[simp] theorem State.updContext_nv (p x : Nat) (f : Context → Context) : (s.updContext p x f).nv = s.nv := rfl
@[simp] theorem State.updContext_start (p x : Nat) (f : Context → Context) : (s.updContext p x f).start = s.start := rfl
@[simp] theorem State.updContext_mem (p x : Nat) (f : Context → Context) : (s.updContext p x f).mem = s.mem := rfl
@[simp] theorem State.updContext_engines (p x : Nat) (f : Context → Context) : (s.updContext p x f).engines = s.engines := rfl
@[simp] theorem State.updContext_cores (p x : Nat) (f : Context → Context) : (s.updContext p x f).cores = s.cores := rfl
@[simp] theorem State.updContext_parts (p x : Nat) (f : Context → Context) : (s.updContext p x f).parts = s.parts := rfl
@[simp] theorem State.updContext_ports (p x : Nat) (f : Context → Context) : (s.updContext p x f).ports = s.ports := rfl
@[simp] theorem State.updContext_host (p x : Nat) (f : Context → Context) : (s.updContext p x f).host = s.host := rfl
@[simp] theorem State.updContext_dict (p x : Nat) (f : Context → Context) : (s.updContext p x f).dict = s.dict := rfl
@[simp] theorem State.updContext_power (p x : Nat) (f : Context → Context) : (s.updContext p x f).power = s.power := rfl
@[simp] theorem State.updContext_sec (p x : Nat) (f : Context → Context) : (s.updContext p x f).sec = s.sec := rfl
@[simp] theorem State.updContext_jtag (p x : Nat) (f : Context → Context) : (s.updContext p x f).jtag = s.jtag := rfl
@[simp] theorem State.updContext_pending (p x : Nat) (f : Context → Context) : (s.updContext p x f).pending = s.pending := rfl
@[simp] theorem State.updContext_out (p x : Nat) (f : Context → Context) : (s.updContext p x f).out = s.out := rfl

/-! ### updPart -/

@[simp] theorem State.updPart_nv (p : Nat) (f : Part → Part) : (s.updPart p f).nv = s.nv := rfl
@[simp] theorem State.updPart_start (p : Nat) (f : Part → Part) : (s.updPart p f).start = s.start := rfl
@[simp] theorem State.updPart_mem (p : Nat) (f : Part → Part) : (s.updPart p f).mem = s.mem := rfl
@[simp] theorem State.updPart_engines (p : Nat) (f : Part → Part) : (s.updPart p f).engines = s.engines := rfl
@[simp] theorem State.updPart_cores (p : Nat) (f : Part → Part) : (s.updPart p f).cores = s.cores := rfl
@[simp] theorem State.updPart_contexts (p : Nat) (f : Part → Part) : (s.updPart p f).contexts = s.contexts := rfl
@[simp] theorem State.updPart_ports (p : Nat) (f : Part → Part) : (s.updPart p f).ports = s.ports := rfl
@[simp] theorem State.updPart_host (p : Nat) (f : Part → Part) : (s.updPart p f).host = s.host := rfl
@[simp] theorem State.updPart_dict (p : Nat) (f : Part → Part) : (s.updPart p f).dict = s.dict := rfl
@[simp] theorem State.updPart_power (p : Nat) (f : Part → Part) : (s.updPart p f).power = s.power := rfl
@[simp] theorem State.updPart_sec (p : Nat) (f : Part → Part) : (s.updPart p f).sec = s.sec := rfl
@[simp] theorem State.updPart_jtag (p : Nat) (f : Part → Part) : (s.updPart p f).jtag = s.jtag := rfl
@[simp] theorem State.updPart_pending (p : Nat) (f : Part → Part) : (s.updPart p f).pending = s.pending := rfl
@[simp] theorem State.updPart_out (p : Nat) (f : Part → Part) : (s.updPart p f).out = s.out := rfl

/-! ### updEngine -/

@[simp] theorem State.updEngine_nv (k : Nat) (f : Engine → Engine) : (s.updEngine k f).nv = s.nv := rfl
@[simp] theorem State.updEngine_start (k : Nat) (f : Engine → Engine) : (s.updEngine k f).start = s.start := rfl
@[simp] theorem State.updEngine_mem (k : Nat) (f : Engine → Engine) : (s.updEngine k f).mem = s.mem := rfl
@[simp] theorem State.updEngine_cores (k : Nat) (f : Engine → Engine) : (s.updEngine k f).cores = s.cores := rfl
@[simp] theorem State.updEngine_contexts (k : Nat) (f : Engine → Engine) : (s.updEngine k f).contexts = s.contexts := rfl
@[simp] theorem State.updEngine_parts (k : Nat) (f : Engine → Engine) : (s.updEngine k f).parts = s.parts := rfl
@[simp] theorem State.updEngine_ports (k : Nat) (f : Engine → Engine) : (s.updEngine k f).ports = s.ports := rfl
@[simp] theorem State.updEngine_host (k : Nat) (f : Engine → Engine) : (s.updEngine k f).host = s.host := rfl
@[simp] theorem State.updEngine_dict (k : Nat) (f : Engine → Engine) : (s.updEngine k f).dict = s.dict := rfl
@[simp] theorem State.updEngine_power (k : Nat) (f : Engine → Engine) : (s.updEngine k f).power = s.power := rfl
@[simp] theorem State.updEngine_sec (k : Nat) (f : Engine → Engine) : (s.updEngine k f).sec = s.sec := rfl
@[simp] theorem State.updEngine_jtag (k : Nat) (f : Engine → Engine) : (s.updEngine k f).jtag = s.jtag := rfl
@[simp] theorem State.updEngine_pending (k : Nat) (f : Engine → Engine) : (s.updEngine k f).pending = s.pending := rfl
@[simp] theorem State.updEngine_out (k : Nat) (f : Engine → Engine) : (s.updEngine k f).out = s.out := rfl

/-! ### updPort -/

@[simp] theorem State.updPort_nv (q : Nat) (f : Port → Port) : (s.updPort q f).nv = s.nv := rfl
@[simp] theorem State.updPort_start (q : Nat) (f : Port → Port) : (s.updPort q f).start = s.start := rfl
@[simp] theorem State.updPort_mem (q : Nat) (f : Port → Port) : (s.updPort q f).mem = s.mem := rfl
@[simp] theorem State.updPort_engines (q : Nat) (f : Port → Port) : (s.updPort q f).engines = s.engines := rfl
@[simp] theorem State.updPort_cores (q : Nat) (f : Port → Port) : (s.updPort q f).cores = s.cores := rfl
@[simp] theorem State.updPort_contexts (q : Nat) (f : Port → Port) : (s.updPort q f).contexts = s.contexts := rfl
@[simp] theorem State.updPort_parts (q : Nat) (f : Port → Port) : (s.updPort q f).parts = s.parts := rfl
@[simp] theorem State.updPort_host (q : Nat) (f : Port → Port) : (s.updPort q f).host = s.host := rfl
@[simp] theorem State.updPort_dict (q : Nat) (f : Port → Port) : (s.updPort q f).dict = s.dict := rfl
@[simp] theorem State.updPort_power (q : Nat) (f : Port → Port) : (s.updPort q f).power = s.power := rfl
@[simp] theorem State.updPort_sec (q : Nat) (f : Port → Port) : (s.updPort q f).sec = s.sec := rfl
@[simp] theorem State.updPort_jtag (q : Nat) (f : Port → Port) : (s.updPort q f).jtag = s.jtag := rfl
@[simp] theorem State.updPort_pending (q : Nat) (f : Port → Port) : (s.updPort q f).pending = s.pending := rfl
@[simp] theorem State.updPort_out (q : Nat) (f : Port → Port) : (s.updPort q f).out = s.out := rfl

/-! ### updFunc -/

@[simp] theorem State.updFunc_nv (n : Nat) (f : Func → Func) : (s.updFunc n f).nv = s.nv := rfl
@[simp] theorem State.updFunc_start (n : Nat) (f : Func → Func) : (s.updFunc n f).start = s.start := rfl
@[simp] theorem State.updFunc_mem (n : Nat) (f : Func → Func) : (s.updFunc n f).mem = s.mem := rfl
@[simp] theorem State.updFunc_engines (n : Nat) (f : Func → Func) : (s.updFunc n f).engines = s.engines := rfl
@[simp] theorem State.updFunc_cores (n : Nat) (f : Func → Func) : (s.updFunc n f).cores = s.cores := rfl
@[simp] theorem State.updFunc_contexts (n : Nat) (f : Func → Func) : (s.updFunc n f).contexts = s.contexts := rfl
@[simp] theorem State.updFunc_parts (n : Nat) (f : Func → Func) : (s.updFunc n f).parts = s.parts := rfl
@[simp] theorem State.updFunc_ports (n : Nat) (f : Func → Func) : (s.updFunc n f).ports = s.ports := rfl
@[simp] theorem State.updFunc_dict (n : Nat) (f : Func → Func) : (s.updFunc n f).dict = s.dict := rfl
@[simp] theorem State.updFunc_power (n : Nat) (f : Func → Func) : (s.updFunc n f).power = s.power := rfl
@[simp] theorem State.updFunc_sec (n : Nat) (f : Func → Func) : (s.updFunc n f).sec = s.sec := rfl
@[simp] theorem State.updFunc_jtag (n : Nat) (f : Func → Func) : (s.updFunc n f).jtag = s.jtag := rfl
@[simp] theorem State.updFunc_pending (n : Nat) (f : Func → Func) : (s.updFunc n f).pending = s.pending := rfl
@[simp] theorem State.updFunc_out (n : Nat) (f : Func → Func) : (s.updFunc n f).out = s.out := rfl

/-! ### emit -/

@[simp] theorem State.emit_nv (o : Out) : (s.emit o).nv = s.nv := rfl
@[simp] theorem State.emit_start (o : Out) : (s.emit o).start = s.start := rfl
@[simp] theorem State.emit_mem (o : Out) : (s.emit o).mem = s.mem := rfl
@[simp] theorem State.emit_engines (o : Out) : (s.emit o).engines = s.engines := rfl
@[simp] theorem State.emit_cores (o : Out) : (s.emit o).cores = s.cores := rfl
@[simp] theorem State.emit_contexts (o : Out) : (s.emit o).contexts = s.contexts := rfl
@[simp] theorem State.emit_parts (o : Out) : (s.emit o).parts = s.parts := rfl
@[simp] theorem State.emit_ports (o : Out) : (s.emit o).ports = s.ports := rfl
@[simp] theorem State.emit_host (o : Out) : (s.emit o).host = s.host := rfl
@[simp] theorem State.emit_dict (o : Out) : (s.emit o).dict = s.dict := rfl
@[simp] theorem State.emit_power (o : Out) : (s.emit o).power = s.power := rfl
@[simp] theorem State.emit_sec (o : Out) : (s.emit o).sec = s.sec := rfl
@[simp] theorem State.emit_jtag (o : Out) : (s.emit o).jtag = s.jtag := rfl
@[simp] theorem State.emit_pending (o : Out) : (s.emit o).pending = s.pending := rfl

/-! ### setDictVal -/

@[simp] theorem State.setDictVal_nv (i sub v : Nat) : (s.setDictVal i sub v).nv = s.nv := rfl
@[simp] theorem State.setDictVal_start (i sub v : Nat) : (s.setDictVal i sub v).start = s.start := rfl
@[simp] theorem State.setDictVal_mem (i sub v : Nat) : (s.setDictVal i sub v).mem = s.mem := rfl
@[simp] theorem State.setDictVal_engines (i sub v : Nat) : (s.setDictVal i sub v).engines = s.engines := rfl
@[simp] theorem State.setDictVal_cores (i sub v : Nat) : (s.setDictVal i sub v).cores = s.cores := rfl
@[simp] theorem State.setDictVal_contexts (i sub v : Nat) : (s.setDictVal i sub v).contexts = s.contexts := rfl
@[simp] theorem State.setDictVal_parts (i sub v : Nat) : (s.setDictVal i sub v).parts = s.parts := rfl
@[simp] theorem State.setDictVal_ports (i sub v : Nat) : (s.setDictVal i sub v).ports = s.ports := rfl
@[simp] theorem State.setDictVal_host (i sub v : Nat) : (s.setDictVal i sub v).host = s.host := rfl
@[simp] theorem State.setDictVal_power (i sub v : Nat) : (s.setDictVal i sub v).power = s.power := rfl
@[simp] theorem State.setDictVal_sec (i sub v : Nat) : (s.setDictVal i sub v).sec = s.sec := rfl
@[simp] theorem State.setDictVal_jtag (i sub v : Nat) : (s.setDictVal i sub v).jtag = s.jtag := rfl
@[simp] theorem State.setDictVal_pending (i sub v : Nat) : (s.setDictVal i sub v).pending = s.pending := rfl
@[simp] theorem State.setDictVal_out (i sub v : Nat) : (s.setDictVal i sub v).out = s.out := rfl

/-! ### updStream -/

@[simp] theorem State.updStream_nv (c i : Nat) (f : Stream → Stream) : (s.updStream c i f).nv = s.nv := rfl
@[simp] theorem State.updStream_start (c i : Nat) (f : Stream → Stream) : (s.updStream c i f).start = s.start := rfl
@[simp] theorem State.updStream_mem (c i : Nat) (f : Stream → Stream) : (s.updStream c i f).mem = s.mem := rfl
@[simp] theorem State.updStream_engines (c i : Nat) (f : Stream → Stream) : (s.updStream c i f).engines = s.engines := rfl
@[simp] theorem State.updStream_contexts (c i : Nat) (f : Stream → Stream) : (s.updStream c i f).contexts = s.contexts := rfl
@[simp] theorem State.updStream_parts (c i : Nat) (f : Stream → Stream) : (s.updStream c i f).parts = s.parts := rfl
@[simp] theorem State.updStream_ports (c i : Nat) (f : Stream → Stream) : (s.updStream c i f).ports = s.ports := rfl
@[simp] theorem State.updStream_host (c i : Nat) (f : Stream → Stream) : (s.updStream c i f).host = s.host := rfl
@[simp] theorem State.updStream_dict (c i : Nat) (f : Stream → Stream) : (s.updStream c i f).dict = s.dict := rfl
@[simp] theorem State.updStream_power (c i : Nat) (f : Stream → Stream) : (s.updStream c i f).power = s.power := rfl
@[simp] theorem State.updStream_sec (c i : Nat) (f : Stream → Stream) : (s.updStream c i f).sec = s.sec := rfl
@[simp] theorem State.updStream_jtag (c i : Nat) (f : Stream → Stream) : (s.updStream c i f).jtag = s.jtag := rfl
@[simp] theorem State.updStream_pending (c i : Nat) (f : Stream → Stream) : (s.updStream c i f).pending = s.pending := rfl
@[simp] theorem State.updStream_out (c i : Nat) (f : Stream → Stream) : (s.updStream c i f).out = s.out := rfl

/-! ### updRequester -/

@[simp] theorem State.updRequester_nv (w : Requester) (f : ReqState → ReqState) : (s.updRequester w f).nv = s.nv := rfl
@[simp] theorem State.updRequester_start (w : Requester) (f : ReqState → ReqState) : (s.updRequester w f).start = s.start := rfl
@[simp] theorem State.updRequester_mem (w : Requester) (f : ReqState → ReqState) : (s.updRequester w f).mem = s.mem := rfl
@[simp] theorem State.updRequester_engines (w : Requester) (f : ReqState → ReqState) : (s.updRequester w f).engines = s.engines := rfl
@[simp] theorem State.updRequester_cores (w : Requester) (f : ReqState → ReqState) : (s.updRequester w f).cores = s.cores := rfl
@[simp] theorem State.updRequester_contexts (w : Requester) (f : ReqState → ReqState) : (s.updRequester w f).contexts = s.contexts := rfl
@[simp] theorem State.updRequester_parts (w : Requester) (f : ReqState → ReqState) : (s.updRequester w f).parts = s.parts := rfl
@[simp] theorem State.updRequester_ports (w : Requester) (f : ReqState → ReqState) : (s.updRequester w f).ports = s.ports := rfl
@[simp] theorem State.updRequester_host (w : Requester) (f : ReqState → ReqState) : (s.updRequester w f).host = s.host := rfl
@[simp] theorem State.updRequester_power (w : Requester) (f : ReqState → ReqState) : (s.updRequester w f).power = s.power := rfl
@[simp] theorem State.updRequester_sec (w : Requester) (f : ReqState → ReqState) : (s.updRequester w f).sec = s.sec := rfl
@[simp] theorem State.updRequester_jtag (w : Requester) (f : ReqState → ReqState) : (s.updRequester w f).jtag = s.jtag := rfl
@[simp] theorem State.updRequester_pending (w : Requester) (f : ReqState → ReqState) : (s.updRequester w f).pending = s.pending := rfl
@[simp] theorem State.updRequester_out (w : Requester) (f : ReqState → ReqState) : (s.updRequester w f).out = s.out := rfl

/-! ### Reading back -/

@[simp] theorem State.core_setCore (c : Nat) (v : Core) : (s.setCore c v).core c = v := Table.get_set_same ..
@[simp] theorem State.context_setContext (p x : Nat) (v : Context) : (s.setContext p x v).context p x = v := Table.get_set_same ..
@[simp] theorem State.part_setPart (p : Nat) (v : Part) : (s.setPart p v).part p = v := Table.get_set_same ..
@[simp] theorem State.engine_setEngine (k : Nat) (v : Engine) : (s.setEngine k v).engine k = v := Table.get_set_same ..
@[simp] theorem State.port_setPort (q : Nat) (v : Port) : (s.setPort q v).port q = v := Table.get_set_same ..
@[simp] theorem State.func_setFunc (f : Nat) (v : Func) : (s.setFunc f v).func f = v := Table.get_set_same ..
@[simp] theorem State.core_updCore (c : Nat) (f : Core → Core) : (s.updCore c f).core c = f (s.core c) := Table.get_set_same ..
@[simp] theorem State.context_updContext (p x : Nat) (f : Context → Context) :
    (s.updContext p x f).context p x = f (s.context p x) := Table.get_set_same ..
@[simp] theorem State.part_updPart (p : Nat) (f : Part → Part) : (s.updPart p f).part p = f (s.part p) := Table.get_set_same ..
@[simp] theorem State.engine_updEngine (k : Nat) (f : Engine → Engine) : (s.updEngine k f).engine k = f (s.engine k) := Table.get_set_same ..
@[simp] theorem State.port_updPort (q : Nat) (f : Port → Port) : (s.updPort q f).port q = f (s.port q) := Table.get_set_same ..
@[simp] theorem State.func_updFunc (n : Nat) (f : Func → Func) : (s.updFunc n f).func n = f (s.func n) := Table.get_set_same ..

theorem State.core_updCore_ne {c d : Nat} (f : Core → Core) (h : d ≠ c) : (s.updCore c f).core d = s.core d := Table.get_set_ne _ _ _ h
theorem State.part_updPart_ne {p q : Nat} (f : Part → Part) (h : q ≠ p) : (s.updPart p f).part q = s.part q := Table.get_set_ne _ _ _ h
theorem State.engine_updEngine_ne {k j : Nat} (f : Engine → Engine) (h : j ≠ k) : (s.updEngine k f).engine j = s.engine j :=
  Table.get_set_ne _ _ _ h
theorem State.port_updPort_ne {q r : Nat} (f : Port → Port) (h : r ≠ q) : (s.updPort q f).port r = s.port r := Table.get_set_ne _ _ _ h
theorem State.func_updFunc_ne {n m : Nat} (f : Func → Func) (h : m ≠ n) : (s.updFunc n f).func m = s.func m := Table.get_set_ne _ _ _ h

/-! ### Queues of a core -/

@[simp] theorem Core.queue_setQueue (k : Core) (q : Nat) (v : QueueSt) (h : q < 4) : (k.setQueue q v).queue q = v := by
  match q, h with
  | 0, _ => rfl
  | 1, _ => rfl
  | 2, _ => rfl
  | 3, _ => rfl

theorem Core.queue_setQueue_ne (k : Core) {q j : Nat} (v : QueueSt) (hq : q < 4) (hj : j < 4) (h : j ≠ q) :
    (k.setQueue q v).queue j = k.queue j := by
  match q, j, hq, hj with
  | 0, 0, _, _ => exact absurd rfl h
  | 0, 1, _, _ => rfl
  | 0, 2, _, _ => rfl
  | 0, 3, _, _ => rfl
  | 1, 0, _, _ => rfl
  | 1, 1, _, _ => exact absurd rfl h
  | 1, 2, _, _ => rfl
  | 1, 3, _, _ => rfl
  | 2, 0, _, _ => rfl
  | 2, 1, _, _ => rfl
  | 2, 2, _, _ => exact absurd rfl h
  | 2, 3, _, _ => rfl
  | 3, 0, _, _ => rfl
  | 3, 1, _, _ => rfl
  | 3, 2, _, _ => rfl
  | 3, 3, _, _ => exact absurd rfl h

theorem State.queue_updQueue (c q : Nat) (f : QueueSt → QueueSt) (h : q < 4) :
    ((s.updQueue c q f).core c).queue q = f ((s.core c).queue q) := by
  simp [State.updQueue, h]

end Sys2Proof.Machine
end

