-- ==== Sys2Proof/Laws/Grow.lean ====
section
/-! SUPPORT. `Grows` for the shared operations: one lemma for each says what it keeps of the whole part. -/

namespace Sys2Proof.Machine

/-! ## The relation -/

theorem Grows.refl (s : State) : Grows s s :=
  ⟨List.prefix_refl _, id, rfl, List.prefix_refl _, id, ⟨rfl, rfl, rfl⟩, Nat.le_refl _, Nat.le_refl _⟩

theorem Grows.trans {s t u : State} (h : Grows s t) (k : Grows t u) : Grows s u :=
  ⟨h.ledger.trans k.ledger, fun x => k.chain (h.chain x), k.queue.trans h.queue, h.sent.trans k.sent, fun x => k.mem (h.mem x),
    ⟨k.fused.1.trans h.fused.1, k.fused.2.1.trans h.fused.2.1, k.fused.2.2.trans h.fused.2.2⟩,
    Nat.le_trans h.floor k.floor, Nat.le_trans h.starts k.starts⟩

/-- The same, the last change first. -/
theorem Grows.after {s t u : State} (k : Grows t u) (h : Grows s t) : Grows s u := h.trans k

/-- A change of anything but the non-volatile memory, the queue, the outputs and the memories. -/
theorem Grows.same {s t : State} (h1 : t.nv = s.nv) (h2 : t.pending = s.pending) (h3 : t.out = s.out) (h4 : t.mem = s.mem) :
    Grows s t := by
  obtain ⟨nv, _, mem, _, _, _, _, _, _, _, _, _, _, pend, out⟩ := t
  subst h1 h2 h3 h4
  exact ⟨List.prefix_refl _, id, rfl, List.prefix_refl _, id, ⟨rfl, rfl, rfl⟩, Nat.le_refl _, Nat.le_refl _⟩

/-- A change of the memories that keeps their form. -/
theorem Grows.memory (s : State) {m : MemSys} (h : Memory.wf s.mem = true → Memory.wf m = true) : Grows s { s with mem := m } :=
  ⟨List.prefix_refl _, id, rfl, List.prefix_refl _, h, ⟨rfl, rfl, rfl⟩, Nat.le_refl _, Nat.le_refl _⟩

theorem Grows.foldl {α : Type} {f : State → α → State} (h : ∀ s a, Grows s (f s a)) (l : List α) (s : State) : Grows s (l.foldl f s) := by
  induction l generalizing s with
  | nil => exact .refl s
  | cons a l ih => exact (h s a).trans (ih _)

theorem Grows.ite {c : Prop} [Decidable c] {s t u : State} (h : c → Grows s t) (k : ¬ c → Grows s u) : Grows s (if c then t else u) := by
  split
  · exact h ‹_›
  · exact k ‹_›

/-! ## Updates -/

theorem State.setCore_grows (s : State) (c : Nat) (v : Core) : Grows s (s.setCore c v) := .same rfl rfl rfl rfl
theorem State.setContext_grows (s : State) (p x : Nat) (v : Context) : Grows s (s.setContext p x v) := .same rfl rfl rfl rfl
theorem State.setPart_grows (s : State) (p : Nat) (v : Part) : Grows s (s.setPart p v) := .same rfl rfl rfl rfl
theorem State.setEngine_grows (s : State) (k : Nat) (v : Engine) : Grows s (s.setEngine k v) := .same rfl rfl rfl rfl
theorem State.setPort_grows (s : State) (q : Nat) (v : Port) : Grows s (s.setPort q v) := .same rfl rfl rfl rfl
theorem State.updCore_grows (s : State) (c : Nat) (f : Core → Core) : Grows s (s.updCore c f) := .same rfl rfl rfl rfl
theorem State.updQueue_grows (s : State) (c q : Nat) (f : QueueSt → QueueSt) : Grows s (s.updQueue c q f) := .same rfl rfl rfl rfl
theorem State.updContext_grows (s : State) (p x : Nat) (f : Context → Context) : Grows s (s.updContext p x f) := .same rfl rfl rfl rfl
theorem State.updPart_grows (s : State) (p : Nat) (f : Part → Part) : Grows s (s.updPart p f) := .same rfl rfl rfl rfl
theorem State.updEngine_grows (s : State) (k : Nat) (f : Engine → Engine) : Grows s (s.updEngine k f) := .same rfl rfl rfl rfl
theorem State.updPort_grows (s : State) (q : Nat) (f : Port → Port) : Grows s (s.updPort q f) := .same rfl rfl rfl rfl
theorem State.updFunc_grows (s : State) (n : Nat) (f : Func → Func) : Grows s (s.updFunc n f) := .same rfl rfl rfl rfl
theorem State.setDictVal_grows (s : State) (i sub v : Nat) : Grows s (s.setDictVal i sub v) := .same rfl rfl rfl rfl
theorem State.updRequester_grows (s : State) (w : Requester) (f : ReqState → ReqState) : Grows s (s.updRequester w f) :=
  .same rfl rfl rfl rfl

theorem State.emit_grows (s : State) (o : Out) : Grows s (s.emit o) :=
  ⟨List.prefix_refl _, id, rfl, List.prefix_append .., id, ⟨rfl, rfl, rfl⟩, Nat.le_refl _, Nat.le_refl _⟩

/-! ## The ledger -/

/-- A record with its place and the head's hash, or a void slot, keeps the form. -/
theorem ledgerOk_append {l : List CairnRec} {r : CairnRec} (h : ledgerOk l) (hs : r.seq = l.length)
    (hp : r.void = false → r.prev = cairnHead l) : ledgerOk (l ++ [r]) := by
  intro i x hx
  by_cases hi : i < l.length
  · rw [List.getElem?_append_left hi] at hx
    rw [List.take_append_of_le_length (Nat.le_of_lt hi)]
    exact h i x hx
  · rw [List.getElem?_append_right (by omega)] at hx
    have h0 : i - l.length = 0 := by
      by_contra hne
      rw [List.getElem?_eq_none (by simp; omega)] at hx
      cases hx
    rw [h0] at hx
    cases hx
    have : i = l.length := by omega
    subst this
    rw [List.take_left]
    exact ⟨hs, hp⟩

/-- A record is appended with its place and the head's hash, or counted as dropped (R424, R427). -/
theorem State.cairn_grows (s : State) (type : Nat) (payload : List Byte) : Grows s (s.cairn type payload) := by
  unfold State.cairn
  split
  · exact ⟨List.prefix_append .., fun h => ledgerOk_append h rfl (fun _ => rfl), rfl, List.prefix_refl _, id, ⟨rfl, rfl, rfl⟩,
      Nat.le_refl _, Nat.le_refl _⟩
  · exact ⟨List.prefix_refl _, id, rfl, List.prefix_refl _, id, ⟨rfl, rfl, rfl⟩, Nat.le_refl _, Nat.le_refl _⟩

theorem State.cairnVoid_grows (s : State) : Grows s s.cairnVoid := by
  unfold State.cairnVoid
  split
  · exact ⟨List.prefix_append .., fun h => ledgerOk_append h rfl (fun hv => Bool.noConfusion hv), rfl, List.prefix_refl _, id,
      ⟨rfl, rfl, rfl⟩, Nat.le_refl _, Nat.le_refl _⟩
  · exact .refl s

theorem State.loseStack_grows (s : State) (k : Nat) : Grows s (s.loseStack k) := by
  unfold State.loseStack
  dsimp only
  split
  · exact .same rfl rfl rfl rfl
  · exact .refl s

/-- The base image takes the hash of what it holds and nothing else changes (R33). -/
theorem State.sealBase_grows (s : State) : Grows s s.sealBase :=
  ⟨List.prefix_refl _, id, rfl, List.prefix_refl _, id, ⟨rfl, rfl, rfl⟩, Nat.le_refl _, Nat.le_refl _⟩

/-- A new memory of the canonical form is taken; channels that failed in it are recorded, and the base image then holds their
PENDING bits (R335, R337). -/
theorem State.withMem_grows (s : State) (m : MemSys) (cause : Nat) (h : Memory.wf s.mem = true → Memory.wf m = true) :
    Grows s (s.withMem m cause) := by
  unfold State.withMem
  dsimp only
  have lost : ∀ l : List (Nat × Nat), Grows s (l.foldl (fun (s : State) (f : Nat × Nat) =>
      (s.cairn 0x0C [BitVec.ofNat 8 f.1, BitVec.ofNat 8 f.2, BitVec.ofNat 8 cause]).loseStack f.1) { s with mem := m }) := fun l =>
    (Grows.memory s h).trans (Grows.foldl (fun s _ => (s.cairn_grows _ _).trans (State.loseStack_grows _ _)) l _)
  split
  · exact lost _
  · exact (lost _).trans (State.sealBase_grows _)

/-- Where no DRAINED request runs, the loss of a unit frees no partition (R391). -/
theorem State.freedFrom_idle (t : State) {s : State} (h : NoTestHolds s) : t.freedFrom s = t := by
  unfold State.freedFrom
  generalize List.range (nParts s.mode) = l
  induction l with
  | nil => rfl
  | cons p l ih => simpa [h p] using ih

/-- What frees no partition of a DRAINED request: a stack takes its change and its failures their records. -/
theorem State.updStack_grows (s : State) (k cause : Nat) (f : Stack → Stack) (h : ∀ st : Stack, st.wf = true → (f st).wf = true)
    (idle : NoTestHolds s) : Grows s (s.updStack k cause f) := by
  unfold State.updStack
  rw [State.freedFrom_idle _ idle]
  exact s.withMem_grows _ cause (fun w => Memory.wf_setStack k w (h _ (Memory.wf_stack k w)))

/-! ## Messages and snoops -/

theorem State.irq_grows (s : State) (fn vec : Nat) : Grows s (s.irq fn vec) := by
  unfold State.irq
  split
  · exact .refl s
  · exact s.emit_grows _

theorem State.sendSnoops_grows (s : State) (l : List (Nat × Bool)) : Grows s (s.sendSnoops l) := by
  unfold State.sendSnoops
  refine Grows.foldl (fun s x => ?_) _ _
  split
  · exact .refl s
  · exact Grows.after (State.emit_grows _ _) (.same rfl rfl rfl rfl)

/-! ## The fabric's shared operations -/

theorem State.addMoved_grows (s : State) (c i n : Nat) : Grows s (s.addMoved c i n) := by
  unfold State.addMoved
  split
  · exact State.updContext_grows ..
  · exact .refl s

theorem State.addCharge_grows (s : State) (c n : Nat) : Grows s (s.addCharge c n) := by
  unfold State.addCharge
  split
  · exact State.updContext_grows ..
  · exact .refl s

theorem State.egress_grows (s : State) (q : Nat) (o : FabOp) : Grows s (s.egress q o) := .same rfl rfl rfl rfl

theorem State.sendOp_grows {s t : State} {p q : Nat} {o : FabOp} (h : s.sendOp p o = some (t, q)) : Grows s t := by
  unfold State.sendOp at h
  split at h
  · simp only [Option.some.injEq, Prod.mk.injEq] at h
    rw [← h.1]
    exact s.egress_grows _ _
  · cases h

theorem State.respond_grows (s : State) (p : Nat) (o : FabOp) (op lines status : Nat) (data : List Byte) :
    Grows s (s.respond p o op lines status data) := by
  unfold State.respond
  split
  · exact State.sendOp_grows ‹_›
  · exact .refl s

theorem State.finishOp_grows (s : State) (p tag status : Nat) (data : List Byte) : Grows s (s.finishOp p tag status data) := by
  unfold State.finishOp
  split
  · exact .refl s
  · refine Grows.trans (s.updPart_grows p (fun x => { x with outstanding := Table.del x.outstanding tag })) ?_
    split
    · exact State.updQueue_grows ..
    split
    · exact (State.addMoved_grows _ _ _ _).trans (State.updQueue_grows ..)
    · exact State.updQueue_grows ..

theorem State.issueOp_grows (s : State) (p : Nat) (req : OutReq) (o : FabOp) : Grows s (s.issueOp p req o) := by
  unfold State.issueOp
  dsimp only
  split
  · exact .after (State.updPart_grows ..) (.after (State.sendOp_grows ‹_›) (State.updPart_grows ..))
  · exact .after (State.finishOp_grows ..) (.after (State.updPart_grows ..) (State.updPart_grows ..))

theorem State.askRemote_grows (s : State) (p c q tag count : Nat) (lines : List Nat) : Grows s (s.askRemote p c q tag count lines) := by
  unfold State.askRemote
  refine Grows.foldl (fun s r => ?_) _ _
  split
  · exact .refl s
  · exact ((State.updQueue_grows ..).trans (State.addMoved_grows ..)).trans (State.issueOp_grows ..)

theorem State.drainBacklog_grows (p c q n : Nat) (s : State) : Grows s (State.drainBacklog p c q n s) := by
  induction n generalizing s with
  | zero => exact .refl s
  | succ n ih =>
    rw [State.drainBacklog]
    split
    · exact .refl s
    · split
      · exact .refl s
      · exact ((State.updQueue_grows ..).trans (State.issueOp_grows ..)).trans (ih _)

theorem State.drainBacklogs_grows (s : State) (p : Nat) : Grows s (s.drainBacklogs p) :=
  Grows.foldl (fun _ _ => Grows.foldl (fun _ _ => State.drainBacklog_grows ..) _ _) _ _

theorem State.sendRemote_grows (s : State) (p c q tag count : Nat) (lines : List (Nat × List (Option Byte))) :
    Grows s (s.sendRemote p c q tag count lines) := by
  unfold State.sendRemote
  dsimp only
  split
  · exact .refl s
  · exact ((State.addMoved_grows ..).trans (State.updQueue_grows ..)).trans (State.drainBacklog_grows ..)

theorem State.ropeSend_grows (s : State) (p op round : Nat) : Grows s (s.ropeSend p op round) := by
  have one : ∀ (s : State) (dst q : Nat), Grows s (if s.portUp q then s.egress q (newOp s p op dst 0 0 round) else s) :=
    fun s dst q => Grows.ite (fun _ => s.egress_grows _ _) (fun _ => .refl s)
  unfold State.ropeSend
  dsimp only
  split
  · exact one ..
  · exact (one ..).trans (one ..)

theorem State.ropeAbandon_grows (s : State) (p : Nat) : Grows s (s.ropeAbandon p) := by
  unfold State.ropeAbandon
  dsimp only
  split
  · exact .refl s
  · exact (State.updPart_grows ..).trans (State.ropeSend_grows ..)

theorem State.losePortTests_grows (s : State) (q : Nat) : Grows s (s.losePortTests q) := by
  unfold State.losePortTests
  dsimp only
  split
  · exact .same rfl rfl rfl rfl
  · exact .refl s

/-- A port that does not leave UP takes its new state; its held tests end where it leaves TRAINING (R392). -/
theorem State.portStays_grows (s : State) (q : Nat) (next : PortState) : Grows s (s.portStays q next) :=
  Grows.ite (fun _ => .after (State.losePortTests_grows ..) (State.updPort_grows ..)) (fun _ => State.updPort_grows ..)

theorem State.portLost_grows (s : State) (q : Nat) (next : PortState) : Grows s (s.portLost q next) := by
  unfold State.portLost
  dsimp only
  split
  · exact State.portStays_grows ..
  · have h : ∀ (l : List Nat) (v : Port), Grows s
        ((l.foldl (fun u t => u.finishOp (partOfPort s.mode q) t 0x0401 []) ((s.setPort q v).losePortTests q)).drainBacklogs (partOfPort s.mode q)) :=
      fun l v => .after (State.drainBacklogs_grows ..) (.after (Grows.foldl (fun u t => u.finishOp_grows _ t _ _) l _)
        ((s.setPort_grows q v).trans (State.losePortTests_grows ..)))
    split
    · exact .after (State.ropeAbandon_grows ..) (h ..)
    · exact h ..

theorem State.portTrain_grows (s : State) (q : Nat) : Grows s (s.portTrain q) := s.updPort_grows _ _

/-! ## Faults, saves, breaks -/

theorem State.kernelFault_grows (s : State) (p x : Nat) (f : FaultInfo) : Grows s (s.kernelFault p x f) := State.updContext_grows ..

theorem State.settle_grows (s : State) (c q : Nat) : Grows s (s.settle c q) := by
  unfold State.settle
  split
  · exact .refl s
  · exact Grows.ite (fun _ => State.updQueue_grows ..) (fun _ => .refl s)

theorem State.stopQueues_grows (s : State) (kd : BitVec 512) : Grows s (s.stopQueues kd) :=
  Grows.foldl (fun _ _ => Grows.foldl (fun _ _ => State.settle_grows ..) _ _) _ _

theorem State.triggerSave_grows (s : State) (p x : Nat) (hold : Bool) (status : Nat) : Grows s (s.triggerSave p x hold status) := by
  unfold State.triggerSave
  dsimp only
  split
  · exact .refl s
  · split
    · exact .refl s
    · split
      · exact (State.setContext_grows ..).trans (State.stopQueues_grows ..)
      · split <;> exact State.setContext_grows ..
      · exact .refl s

theorem State.fireBreak_grows (s : State) (p x : Nat) (slots : List Nat) : Grows s (s.fireBreak p x slots) :=
  .after (State.triggerSave_grows ..)
    (Grows.foldl (fun s _ => (State.setDictVal_grows s ..).trans (State.setDictVal_grows ..)) slots s)

theorem State.takeLate_grows {s t : State} {c q : Nat} {r : CoreRun} (h : s.takeLate c q r = some t) : Grows s t := by
  unfold State.takeLate at h
  split at h
  · simp only [Option.some.injEq] at h
    rw [← h]
    exact (State.updQueue_grows ..).trans (State.kernelFault_grows ..)
  · cases h

theorem State.setRun_grows (s : State) (c q : Nat) (i : Option Issued) : Grows s (s.setRun c q i) :=
  (State.updQueue_grows ..).trans (State.settle_grows ..)
theorem State.cmdFault_grows (s : State) (c q : Nat) (r : CoreRun) (b : BitVec 512) (st : Nat) : Grows s (s.cmdFault c q r b st) :=
  (State.updQueue_grows ..).trans (State.kernelFault_grows ..)

theorem State.retire_grows (s : State) (c q : Nat) (r : CoreRun) : Grows s (s.retire c q r) := by
  unfold State.retire
  dsimp only
  refine .after (State.settle_grows ..) (Grows.trans (s.updQueue_grows c q (fun k => { k.clearCmd with cmds := k.cmds.drop 1, run := none })) ?_)
  split
  · exact State.takeLate_grows ‹_›
  · exact .refl _

/-- What beginning a command answers has grown from the state before. -/
theorem State.begin_grows (s : State) (c q : Nat) (isMine : BitVec 512 → Bool) :
    match s.begin c q isMine with
    | .idle => True
    | .stopped t => Grows s t
    | .go t _ _ => Grows s t := by
  cases h : s.begin c q isMine with
  | idle => trivial
  | stopped t =>
    unfold State.begin at h
    split at h
    · cases h
    · dsimp only at h
      split at h
      · split at h <;> cases h
      · split at h
        · cases h
        · split at h
          · cases h
          · split at h
            · cases h
              exact State.takeLate_grows ‹_›
            · split at h
              · cases h
                exact State.fireBreak_grows ..
              · cases h
  | go t r iss =>
    unfold State.begin at h
    split at h
    · cases h
    · dsimp only at h
      split at h
      · split at h
        · cases h
          exact .refl _
        · cases h
      · split at h
        · cases h
        · split at h
          · cases h
          · split at h
            · cases h
            · split at h
              · cases h
              · cases h
                exact State.updQueue_grows ..

/-! ## Registers an engine writes -/

theorem State.coreRegWrite_grows (s : State) (c off : Nat) (m : List (Option Byte)) : Grows s (s.coreRegWrite c off m) := by
  unfold State.coreRegWrite
  dsimp only
  split
  · exact State.updCore_grows ..
  split
  · exact State.updCore_grows ..
  split
  · exact State.updCore_grows ..
  · exact .refl s

theorem State.stackRegWrite_grows (s : State) (k off : Nat) (m : List (Option Byte)) : Grows s (s.stackRegWrite k off m) := by
  unfold State.stackRegWrite
  split
  · exact State.updEngine_grows ..
  · exact .refl s

theorem State.engineRegs_grows (s : State) (l : List (Nat × Byte)) : Grows s (s.engineRegs l) := by
  unfold State.engineRegs
  refine Grows.foldl (fun s p => ?_) _ _
  dsimp only
  split
  · exact State.coreRegWrite_grows ..
  · exact State.stackRegWrite_grows ..

/-! ## What a piece of work does (R185, R327, R358) -/

/-- Reads leave their traces; a memory of canonical form stays one. -/
theorem State.absorbReads_grows (s : State) (c q : Nat) (r : CoreRun) (tag : Nat) (w : Wk)
    (h : Memory.wf s.mem = true → Memory.wf w.mem = true) : Grows s (s.absorbReads c q r tag w) := by
  unfold State.absorbReads
  dsimp only
  refine Grows.trans ?_ (State.askRemote_grows ..)
  have h1 := ((((s.withMem_grows w.mem 3 h).trans (State.addMoved_grows _ c 0 w.rd)).trans (State.addMoved_grows _ c 1 w.wn)).trans
    (State.addCharge_grows _ c (linkByte * (w.rd + w.wn)))).trans (State.sendSnoops_grows _ w.snoops.reverse)
  split
  · exact h1
  · exact h1.trans (State.updQueue_grows ..)

theorem State.absorb_grows (s : State) (c q : Nat) (r : CoreRun) (tag : Nat) (w : Wk)
    (h : Memory.wf s.mem = true → Memory.wf w.mem = true) : Grows s (s.absorb c q r tag w) := by
  unfold State.absorb
  dsimp only
  refine Grows.trans ?_ (State.updCore_grows ..)
  have h1 := (s.absorbReads_grows c q r tag w h)
  have h2 := h1.trans (t := s.absorbReads c q r tag w)
    (u := { s.absorbReads c q r tag w with host := { (s.absorbReads c q r tag w).host with
      granted := (s.absorbReads c q r tag w).host.granted.filter (fun l => !w.taken.contains l) } }) (.same rfl rfl rfl rfl)
  have h3 := (h2.trans (State.engineRegs_grows _ w.regs)).trans
    (Grows.foldl (fun s d => State.updCore_grows s d.1 (fun k => { k with cslog := k.cslog.drop d.2.1 d.2.2 })) w.drops _)
  have h4 := h3.trans (Grows.ite (c := q = 2 ∧ (!w.drops.isEmpty) = true)
    (fun _ => State.updContext_grows _ r.part r.ctx (fun x => { x with kernel := x.kernel.map (fun k => { k with liveWrite := true }) }))
    (fun _ => .refl _))
  have h5 := h4.trans (Grows.ite (c := q = 2)
    (fun _ => Grows.foldl (fun s o => State.updCore_grows s o.1 (fun k => k.setOwner o.2 (.ctx r.ctx))) w.owners _) (fun _ => .refl _))
  have h6 := h5.trans (State.sendRemote_grows _ r.part c q tag ((s.core c).queue q).count w.wr)
  split
  · exact h6.trans (State.updQueue_grows ..)
  · exact h6

end Sys2Proof.Machine
end

