-- ==== Sys2Proof/Laws/Work.lean ====
section
/-! SUPPORT. An engine's work keeps the form of the memories; what an event of an engine's row keeps of the part. -/

namespace Sys2Proof.Machine

/-! ## Reads and writes of a piece of work -/

@[simp] theorem Wk.fail_mem (w : Wk) (st : Nat) : (w.fail st).mem = w.mem := by
  unfold Wk.fail
  split
  · rfl
  · split <;> rfl

@[simp] theorem Wk.counted_mem (w : Wk) : w.counted.mem = w.mem := by
  unfold Wk.counted
  split <;> rfl

@[simp] theorem Wk.flag_mem (w : Wk) (f : LaneFlags) : (w.flag f).mem = w.mem := rfl

theorem Wk.fetchLine_wf (e : Env) (w : Wk) (a : Nat) (h : Memory.wf w.mem = true) : Memory.wf (w.fetchLine e a).2.mem = true := by
  unfold Wk.fetchLine
  dsimp only
  split
  · rename_i s off heq
    split
    · exact h
    split
    · exact h
    · have hr := Memory.wf_readLine e.now e.threshold s (off / 64) h
      split
      · exact hr
      · rw [Wk.fail_mem]
        exact hr
  · exact h
  · exact h
  · exact h
  · exact h
  · split
    · exact h
    · rw [Wk.fail_mem]
      exact h
    · exact h
  · rw [Wk.fail_mem]
    exact h

theorem Wk.readLine_wf (e : Env) (w : Wk) (a : Nat) (h : Memory.wf w.mem = true) : Memory.wf (w.readLine e a).2.mem = true := by
  have hf := w.fetchLine_wf e a h
  unfold Wk.readLine
  split
  · exact h
  · dsimp only
    split <;> exact hf

theorem Wk.readLines_wf (e : Env) (n : Nat) : ∀ (w : Wk) (a : Nat), Memory.wf w.mem = true →
    Memory.wf (Wk.readLines e n w a).2.mem = true := by
  induction n with
  | zero => exact fun _ _ h => h
  | succ n ih =>
    intro w a h
    exact ih _ _ (Wk.readLine_wf e w a h)

theorem Wk.read_wf (e : Env) (w : Wk) (a n : Nat) (h : Memory.wf w.mem = true) : Memory.wf (w.read e a n).2.mem = true := by
  unfold Wk.read
  split
  · exact h
  · exact Wk.readLines_wf e _ _ _ h

theorem Wk.readNat_wf (e : Env) (w : Wk) (a n : Nat) (h : Memory.wf w.mem = true) : Memory.wf (w.readNat e a n).2.mem = true :=
  Wk.read_wf e w a n h

theorem Wk.writeLine_wf (e : Env) (w : Wk) (a : Nat) (m : List (Option Byte)) (h : Memory.wf w.mem = true) :
    Memory.wf (w.writeLine e a m).mem = true := by
  unfold Wk.writeLine
  split
  · rename_i s off heq
    have hw := Memory.wf_writeLine e.now e.threshold s (off / 64) m h
    dsimp only
    split
    · exact hw
    split
    · rw [Wk.fail_mem]
      exact hw
    · exact hw
  · exact Memory.wf_scratchWrite _ _ _ h
  · split
    · exact h
    · exact Memory.wf_bankWrite _ _ _ _ h
  · exact h
  · exact h
  · exact h
  · rw [Wk.fail_mem]
    exact h

/-- Asking for snoops changes no memory. -/
theorem Wk.askWrite_mem (e : Env) (w : Wk) (lines : List Nat) : (w.askWrite e lines).mem = w.mem := by
  unfold Wk.askWrite
  have go : ∀ (l : List Nat) (w : Wk), (l.foldl (fun w l =>
      match e.place w.mem (64 * l) with
      | .stack k off =>
        let h := 64 * l % 2 ^ 44 / 64
        if e.se && (w.mem.stack k).offline (off / 64) then w.fail 0x0204
        else if e.hostHolds h then { w with wait := true, stalled := true, snoops := (h, true) :: w.snoops }
        else if (w.mem.stack k).closed e.se (off / 64) then { w with wait := true, stalled := true } else w
      | .refused => w.fail 0x0102
      | _ => w) w).mem = w.mem := by
    intro l
    induction l with
    | nil => exact fun _ => rfl
    | cons x l ih =>
      intro w
      rw [List.foldl_cons, ih]
      split
      · dsimp only
        split
        · simp
        split
        · rfl
        split <;> rfl
      · simp
      · rfl
  refine (go _ _).trans ?_
  split <;> rfl

theorem Wk.send_wf (e : Env) (w : Wk) (h : Memory.wf w.mem = true) : Memory.wf (w.send e).mem = true := by
  have go : ∀ (l : Table (List (Option Byte))) (w : Wk), Memory.wf w.mem = true →
      Memory.wf (l.foldl (fun w p => w.writeLine e (64 * p.1) p.2) w).mem = true := by
    intro l
    induction l with
    | nil => exact fun _ h => h
    | cons p l ih => exact fun w h => ih _ (Wk.writeLine_wf e w _ _ h)
  unfold Wk.send
  split
  · dsimp only
    have hm := Wk.askWrite_mem e w ((linesOf w.pend).map Prod.fst)
    split
    · refine go _ _ ?_
      show Memory.wf (w.askWrite e _).mem = true
      rw [hm]
      exact h
    · rw [hm]
      exact h
  · exact h

theorem Wk.put_mem (e : Env) (w : Wk) (l : List (Nat × Byte)) : (w.put e l).mem = w.mem := rfl

theorem Wk.commit_wf (e : Env) (w : Wk) (l : List (Nat × Byte)) (h : Memory.wf w.mem = true) : Memory.wf (w.commit e l).mem = true :=
  Wk.send_wf e _ h

/-! ## Elements and tables -/

theorem readElem_wf (e : Env) (w : Wk) (o : Opn) (x : List Int) (h : Memory.wf w.mem = true) :
    Memory.wf (readElem e w o x).2.mem = true := by
  unfold readElem
  dsimp only
  split
  · exact h
  split
  · exact h
  · exact h
  · split
    · exact Wk.readNat_wf _ _ _ _ h
    split
    · exact Wk.readNat_wf _ _ _ _ h
    · dsimp only
      exact Wk.readNat_wf e _ _ _ (Wk.readNat_wf e _ _ _ h)

theorem readElems_wf (e : Env) (o : Opn) : ∀ (l : List (List Int)) (w : Wk), Memory.wf w.mem = true →
    Memory.wf (readElems e o l w).2.mem = true
  | [], _, h => h
  | x :: l, w, h => readElems_wf e o l _ (readElem_wf e w o x h)

/-- Reading what lies under a write of part of a line keeps the form of memory: at most the free count moves (R73). -/
theorem Wk.readUnder_wf (e : Env) (w : Wk) (a n : Nat) (h : Memory.wf w.mem = true) : Memory.wf (w.readUnder e a n).2.mem = true := by
  unfold Wk.readUnder
  dsimp only
  split
  · exact Wk.readNat_wf e w a n h
  · exact Wk.readNat_wf e w a n h

theorem blockBytesOf_wf (e : Env) (w : Wk) (o : Opn) (a : Nat) (b : BlockWrite) (zeros : Bool) (h : Memory.wf w.mem = true) :
    Memory.wf (blockBytesOf e w o a b zeros).2.mem = true := by
  have old : ∀ c : Bool, Memory.wf (if c = true then ((0 : Nat), w) else w.readUnder e a (dUnit o.d)).2.mem = true := by
    intro c
    split
    · exact h
    · exact Wk.readUnder_wf _ _ _ _ h
  have body : Memory.wf (elementBytes e w o a b zeros).2.mem = true := old _
  unfold blockBytesOf
  dsimp only
  split
  · exact body
  split <;> exact body

theorem blocksBytes_wf (e : Env) (o : Opn) (zeros : Bool) : ∀ (t : Table BlockWrite) (w : Wk), Memory.wf w.mem = true →
    Memory.wf (blocksBytes e o zeros t w).2.mem = true
  | [], _, h => h
  | (a, b) :: t, w, h => blocksBytes_wf e o zeros t _ (blockBytesOf_wf e w o a b zeros h)

theorem elemWrites_wf (e : Env) (w : Wk) (o : Opn) (l : List (List Int × Nat × Option Nat)) (zeros : Bool) (h : Memory.wf w.mem = true) :
    Memory.wf (elemWrites e w o l zeros).2.mem = true := by
  unfold elemWrites
  split
  · exact h
  · exact blocksBytes_wf _ _ _ _ _ h

theorem readTables_wf (e : Env) (w : Wk) (kd b : BitVec 512) (f : Form) (h : Memory.wf w.mem = true) :
    Memory.wf (readTables e w kd b f).2.2.mem = true := by
  have go : ∀ (l : List Nat) (p : List Nat × Wk), Memory.wf p.2.mem = true →
      Memory.wf (l.foldl (fun (p : List Nat × Wk) (o : Nat) =>
        if f.uses.getD o false && !f.regs.getD o false then
          let (n, w) := p.2.readNat e (kdDt kd + 192 * cbOpd b o) 192
          (p.1 ++ [n], w)
        else (p.1 ++ [0], p.2)) p).2.mem = true := by
    intro l
    induction l with
    | nil => exact fun _ h => h
    | cons o l ih =>
      intro p hp
      rw [List.foldl_cons]
      refine ih _ ?_
      split
      · dsimp only
        exact Wk.readNat_wf e _ _ _ hp
      · exact hp
  have h0 := go (List.range 4) ([], w) h
  unfold readTables
  dsimp only
  split
  · exact h0
  · dsimp only
    exact Wk.readNat_wf e _ _ _ h0

/-! ## Issue, iterations, retirement -/

theorem iteFst {α : Type} {c : Prop} [Decidable c] {s : State} {x y : State × α} (h : c → Grows s x.1) (k : ¬ c → Grows s y.1) :
    Grows s (if c then x else y).1 := by
  split
  · exact h ‹_›
  · exact k ‹_›

theorem State.issue_grows (s : State) (c q : Nat) (r : CoreRun) (iss : Issued) (form : Form)
    (check : Env → MemSys → Core → Issued → Option Nat) : Grows s (s.issue c q r iss form check).1 := by
  unfold State.issue
  refine iteFst (fun _ => .refl s) (fun _ => ?_)
  dsimp only
  refine iteFst (fun _ => .refl s) (fun _ => ?_)
  have h : Grows s (s.absorbReads c q r (cbTag iss.block) (readTables (s.env c q r) { mem := s.mem } r.kd iss.block form).2.2.counted) :=
    s.absorbReads_grows c q r _ _ (fun w => by rw [Wk.counted_mem]; exact readTables_wf _ { mem := s.mem } _ _ _ w)
  split
  · exact h
  split
  · exact h
  split
  · exact h
  · dsimp only
    exact Grows.trans h (State.updQueue_grows ..)

theorem runIters_grows {body : State → CoreRun → Issued → Nat → State × Done} (hb : ∀ s r iss k, Grows s (body s r iss k).1)
    (r : CoreRun) (n : Nat) : ∀ (s : State) (iss : Issued), Grows s (runIters body r n s iss).1 := by
  induction n with
  | zero => exact fun s _ => .refl s
  | succ n ih =>
    intro s iss
    have h := hb s r iss iss.iter
    unfold runIters
    split
    · rename_i heq
      rw [heq] at h
      exact h.trans (ih _ _)
    · rename_i heq
      rw [heq] at h
      exact h
    · rename_i heq
      rw [heq] at h
      exact h

/-- One event of an engine's row: whatever its iterations keep, the whole event keeps. -/
theorem State.engineStep_grows (s : State) (c q op : Nat) (form : BitVec 512 → Form)
    (check : CoreRun → Env → MemSys → Core → Issued → Option Nat) (total : State → Core → Issued → Nat)
    {body : State → CoreRun → Issued → Nat → State × Done} (hb : ∀ s r iss k, Grows s (body s r iss k).1) :
    Grows s (s.engineStep c q op form check total body) := by
  have h0 := s.begin_grows c q (fun b => cbOp b == op)
  unfold State.engineStep
  split
  · exact .refl s
  · rename_i t heq
    rw [heq] at h0
    exact h0
  · rename_i u r iss heq
    rw [heq] at h0
    have h1 := h0.trans (u.issue_grows c q r iss (form iss.block) (check r))
    split
    · rename_i heq1
      rw [heq1] at h1
      exact .after (State.cmdFault_grows ..) h1
    · rename_i v jss heq1
      rw [heq1] at h1
      dsimp only
      have h2 := h1.trans (runIters_grows hb r (v.turns r iss.issued (total v (v.core c) jss - jss.iter)) v jss)
      split
      · rename_i heq2
        rw [heq2] at h2
        exact .after (State.cmdFault_grows ..) h2
      · rename_i heq2
        rw [heq2] at h2
        exact h2.trans (Grows.ite (fun _ => State.retire_grows ..) (fun _ => State.setRun_grows ..))
      · rename_i heq2
        rw [heq2] at h2
        exact .after (State.setRun_grows ..) h2
    · rename_i heq1
      rw [heq1] at h1
      exact .after (State.setRun_grows ..) h1

/-- One iteration of a command with a nest keeps what its work keeps of the memories. -/
theorem nestBody_grows (c q : Nat) (noIndex : Bool) {work : Env → Core → Issued → List Opn → Nat → Wk → Core × Wk}
    (hw : ∀ e k iss ops n w, Memory.wf w.mem = true → Memory.wf (work e k iss ops n w).2.mem = true)
    (s : State) (r : CoreRun) (iss : Issued) (k : Nat) : Grows s (nestBody c q noIndex work s r iss k).1 := by
  unfold nestBody
  dsimp only
  split
  · split <;> exact .refl s
  · exact .refl s
  · rename_i ops _
    have hm : Memory.wf s.mem = true → Memory.wf ((work (s.env c q r) (s.core c) iss ops k
        { mem := s.mem, flags := flagIf (takesNull iss.block ((s.core c).entries iss.block)) flagIDX }).2.send (s.env c q r)).mem = true :=
      fun h => Wk.send_wf _ _ (hw _ _ _ _ _ _ h)
    split
    · exact s.absorbReads_grows _ _ _ _ _ hm
    split
    · exact s.absorbReads_grows _ _ _ _ _ (by rw [Wk.counted_mem]; exact hm)
    · dsimp only
      refine Grows.after (State.updQueue_grows _ c q _) ?_
      exact Grows.trans (s.setCore_grows c _) (State.absorb_grows _ c q r _ _ hm)

end Sys2Proof.Machine
end

