-- ==== Sys2Proof/WellFormed.lean ====
section
/-! DEFINITION. Which commands are well formed: every operand names something the part has (R2, R12, R21, R22), and data has
the length of its kind. -/

namespace Sys2Proof

/-! ## Numbers of units -/

def okDie (d : Nat) : Bool := decide (d < 6)
def okCdie (d : Nat) : Bool := decide (d < 4)
def okCore (c : Nat) : Bool := decide (c < 48)
def okQueue (q : Nat) : Bool := decide (q < 4)
def okStack (k : Nat) : Bool := decide (k < 16)
def okArea (a : Nat) : Bool := decide (a < 4)
def okPc (p : Nat) : Bool := decide (p < 64)
def okChannel (c : Nat) : Bool := decide (c < 32)
def okPort (q : Nat) : Bool := decide (q < 8)
def okPart (p : Nat) : Bool := decide (p < 4)
def okCtx (x : Nat) : Bool := decide (x < 64)
def okBelay (n : Nat) : Bool := decide (n < 256)
def okSlot (k : Nat) : Bool := decide (k < 4096)
def okFn (f : Nat) : Bool := decide (f < 128)
def okPf (f : Nat) : Bool := decide (f < 4)
/-- A PLL's domain: [A], [S], [T], [D], [F], [H], [K], [M], [C] (R425). -/
def okDomain (d : Nat) : Bool := decide (d < 9)
/-- A value of 32 bits. -/
def okWord (v : Nat) : Bool := decide (v < 2 ^ 32)

/-! ## Operands of several parts -/

/-- The unit that carries out an STK row. -/
def StkSite.ok : StkSite → Bool
  | .forward core => okCore core
  | .run stack area => okStack stack && okArea area

/-- A requester: a 48-bit address with a UDP port, or a function. -/
def Requester.ok : Requester → Bool
  | .port addr udp => decide (addr < 2 ^ 48) && decide (udp < 2 ^ 16)
  | .mailbox fn => okFn fn

/-- An object of a mailbox goes to its own function. -/
def Sender.ok (x : Sender) : Bool := match x.who with | .port _ _ => true | .mailbox _ => x.dest == .own

/-- A message of the management network or of a mailbox is bounded (R372, R385). -/
def okMsg (who : Requester) (msg : List Byte) : Bool := who.ok && decide (msg.length ≤ 65536)

/-- The readings of a round: 172 temperatures of 16 bits, 42 rail points of 16 bits each (R403, R414). -/
def okRound (temps : List Int) (rails : List (Nat × Nat)) : Bool :=
  temps.length == 172 && rails.length == 42 && temps.all (fun t => decide (-32768 ≤ t) && decide (t < 32768)) &&
  rails.all (fun r => decide (r.1 < 65536) && decide (r.2 < 65536))

/-- Channels whose lanes fail in training. -/
def okLanes (l : List (Nat × Nat)) : Bool := l.all (fun v => okStack v.1 && okChannel v.2)

/-- What a HELLO carries (R305, R317). -/
def okHello (node peerPort r : Nat) : Bool := decide (node < 2 ^ 13) && okPort peerPort && decide (r < 4)

/-- A host access to a BAR: 1 to 4,096 bytes of BAR 0, 2 or 4 (R347). -/
def okBar (bar len : Nat) : Bool := (bar == 0 || bar == 2 || bar == 4) && decide (1 ≤ len) && decide (len ≤ 4096)

/-- A host physical address of a line. -/
def okHpa (a : Nat) : Bool := a % 64 == 0 && decide (a < 2 ^ 52)

/-- Failures of a test piece: an offset in the unit and two words. -/
def okFails (l : List (Nat × Nat × Nat)) : Bool := l.all (fun f => decide (f.1 < 2 ^ 36) && okWord f.2.1 && okWord f.2.2)

/-- Well-formed commands. -/
def Instr.wf (i : Instr) : Bool :=
  match i with
  | .coldStart => true
  | .pllLock => true
  | .pllLockTimeout => true
  | .firmwareBoot => true
  | .configImageApply => true
  | .tetherTraining down lanes => decide (down < 2 ^ 16) && okLanes lanes
  | .sparTraining links => decide (links < 2 ^ 14)
  | .dictionaryLive => true
  | .railFault loss => decide (loss.rail < 6)
  | .resetAssert => true
  | .perstAssert => true
  | .perstRelease => true
  | .pllLoss d => okDomain d
  | .orderlyShutdown => true
  | .shutdownDone => true
  | .housekeepingRound t r => okRound t r
  | .classAWindow d _ => okCdie d
  | .droguePause k => okStack k
  | .periodic => true
  | .storedEntryCommit => true
  | .portTrainRetry q => okPort q
  | .trainingTimeout q => okPort q
  | .hello q node peer r => okPort q && okHello node peer r
  | .flitReceive q _ _ => okPort q
  | .replayTimeout q => okPort q
  | .linkLoss q => okPort q
  | .responseTimeout p tag => okPart p && decide (tag < 2 ^ 16)
  | .read q => okPort q
  | .write q => okPort q
  | .readRsp q => okPort q
  | .writeAck q => okPort q
  | .ropeEnded q => okPort q
  | .ropeAbort q => okPort q
  | .ropeRoundStart p => okPart p
  | .cxlLinkUp w => w == 4 || w == 8 || w == 16
  | .cxlRetrain => true
  | .cxlLinkDown => true
  | .flr f => okFn f
  | .d3hotEntry f => okFn f
  | .d0Return f => okFn f
  | .bmeClear f => okFn f
  | .vfEnableClear f => okPf f
  | .hotReset => true
  | .configRequest f r => okFn f && decide (r < 4096)
  | .hdmCommit b z w => b % 2 ^ 28 == 0 && z % 2 ^ 28 == 0 && decide (w < 16)
  | .cxlMemRead a _ => okHpa a
  | .cxlMemWrite a _ => okHpa a
  | .bisnpResponse l _ => decide (l < 2 ^ 38)
  | .h2dSnoop a => okHpa a
  | .hostBarRead f b o n => okFn f && okBar b n && decide (o < 2 ^ 64)
  | .hostBarWrite f b o d => okFn f && okBar b d.length && decide (o < 2 ^ 64)
  | .kgo f x => okFn f && okCtx x
  | .csgo f x _ => okFn f && okCtx x
  | .csgoDone p x => okPart p && okCtx x
  | .preempt f x => okFn f && okCtx x
  | .resume f x => okFn f && okCtx x
  | .contextEn f x _ => okFn f && okCtx x
  | .belayWrite f n _ => okFn f && okBelay n
  | .force f n _ => okFn f && okBelay n
  | .cslogClear f c => okFn f && okCore c
  | .rqtail f v => okFn f && okWord v
  | .cqhead f v => okFn f && okWord v
  | .ringCfg f _ _ => okFn f
  | .vfmap pf vf _ => okPf pf && decide (1 ≤ vf) && decide (vf < 32)
  | .kvframes p _ => okPart p
  | .kvgrans p _ => okPart p
  | .srvctlEn f _ => okFn f
  | .registerWrite f o _ => okFn f && o % 8 == 0
  | .kernelDispatch p => okPart p
  | .commandRoute c => okCore c
  | .unlistedOpcode c q => okCore c && okQueue q
  | .nop c q => okCore c && okQueue q
  | .brk c q => okCore c && okQueue q
  | .kend c q => okCore c && okQueue q
  | .seqStride c => okCore c
  | .seqIndex c => okCore c
  | .seqPage c => okCore c
  | .dmaCopy c => okCore c
  | .dmaFill c => okCore c
  | .mxLoadw c => okCore c
  | .mxMac c => okCore c
  | .mxDrain c _ => okCore c
  | .mxZero c => okCore c
  | .vLoad c => okCore c
  | .vStore c => okCore c
  | .vEwise c => okCore c
  | .vReduce c => okCore c
  | .vSoftmax c => okCore c
  | .vRotary c => okCore c
  | .vConvert c => okCore c
  | .vGather c => okCore c
  | .vScatter c => okCore c
  | .vSample c => okCore c
  | .vSpool c => okCore c
  | .spoolReadAt c _ => okCore c
  | .sAttend z => z.ok
  | .sMatvec z => z.ok
  | .sGather z => z.ok
  | .sScatter z => z.ok
  | .sEwise z => z.ok
  | .sFill z => z.ok
  | .sDrain c => okCore c
  | .sKvenc z => z.ok
  | .sKvexp z => z.ok
  | .stkActivate k => okStack k
  | .sliceEnd k => okStack k
  | .pageWalk k slot layer page => okStack k && okSlot slot && decide (layer < 2 ^ 10) && decide (page < 2 ^ 20)
  | .granuleDecode k => okStack k
  | .stkComplete k a => okStack k && okArea a
  | .stkFaultReport k a => okStack k && okArea a
  | .belayArrive c q => okCore c && okQueue q
  | .belayWait c q => okCore c && okQueue q
  | .belayArrival c q n => okCore c && okQueue q && okBelay n
  | .belayRelease p c => okPart p && okCore c
  | .spoolFlush c => okCore c
  | .kernelEnd p x _ _ => okPart p && okCtx x
  | .saveComplete p x _ => okPart p && okCtx x
  | .restoreComplete p x _ => okPart p && okCtx x
  | .stepKernelIssue p => okPart p
  | .stepBoundary p c => okPart p && okWord c
  | .openReq f _ => okFn f
  | .cancel f _ => okFn f
  | .park f _ => okFn f
  | .bivouacParkDone p k => okPart p && okSlot k
  | .bivouacReturnDone p k _ _ => okPart p && okSlot k
  | .budgetEpoch p _ => okPart p
  | .tetherRetry k pc _ => okStack k && okPc pc
  | .dramCmdTimeout k c => okStack k && okChannel c
  | .refreshWindow k pc => okStack k && okPc pc
  | .laneRecalibration k pc _ => okStack k && okPc pc
  | .wcAgeFlush k l => okStack k && decide (l < 2 ^ 30)
  | .dictRead x m => okMsg x.who m && x.ok
  | .dictWrite x m => okMsg x.who m && x.ok
  | .identify x m => okMsg x.who m && x.ok
  | .neighbourDiscovery t => decide (t < 2 ^ 128)
  | .storedMode w m => okMsg w m
  | .nodeNumber w m => okMsg w m
  | .role w m => okMsg w m
  | .breakSlot w m => okMsg w m
  | .accept0 w m => okMsg w m
  | .interleave w m => okMsg w m
  | .cap w m => okMsg w m
  | .suspectClear w m => okMsg w m
  | .ceLogClear w m => okMsg w m
  | .remap w m => okMsg w m
  | .mapout w m => okMsg w m
  | .portCtl w m => okMsg w m
  | .routes w m => okMsg w m
  | .fwChunk w m => okMsg w m
  | .fwCommit w m => okMsg w m
  | .svnFloor w m => okMsg w m
  | .nextGrade w m => okMsg w m
  | .clear w m => okMsg w m
  | .budgetCtl w m => okMsg w m
  | .sanitise w m => okMsg w m
  | .sanitiseDone p => okPart p
  | .scratch w m => okMsg w m
  | .matrix w m => okMsg w m
  | .vector w m => okMsg w m
  | .stackEngine w m => okMsg w m
  | .codec w m => okMsg w m
  | .dramScrub w m => okMsg w m
  | .dramMarch w m => okMsg w m
  | .testSpar w m => okMsg w m
  | .testFabricPort w m => okMsg w m
  | .tether w m => okMsg w m
  | .calSpar w m => okMsg w m
  | .sensor w m => okMsg w m
  | .calFabricPort w m => okMsg w m
  | .testCancel w m => okMsg w m
  | .drainedRequestStart p _ => okPart p
  | .testPieceDone p _ _ fails => okPart p && okFails fails
  | .getVersion w m => okMsg w m
  | .getCapabilities w m => okMsg w m
  | .negotiateAlgorithms w m => okMsg w m
  | .getDigests w m => okMsg w m
  | .getCertificate w m => okMsg w m
  | .challenge w m => okMsg w m
  | .getMeasurements w m => okMsg w m
  | .keyExchange w m => okMsg w m
  | .finish w m => okMsg w m
  | .endSession w m => okMsg w m
  | .heartbeat w m => okMsg w m
  | .bypass d => okDie d
  | .idcode d => okDie d
  | .samplePreload d _ => okDie d
  | .extest d => okDie d
  | .extestPulse d => okDie d
  | .extestTrain d => okDie d
  | .startstat d => d == 4
  | .fwload image => decide (image.length ≤ 1024 + 4194304 + 384)
  | .railReturn => true
  | .functionEnable f => okFn f
  | .hostLinkRecovery k => decide (k < 3)
  | .cxlIdeKm _ _ _ => true
  | .doeDiscovery f i => okFn f && decide (i < 256)
  | .primaryMailboxIdentify => true
  | .getSupportedLogs => true
  | .getLog o n => okWord o && okWord n
  | .refreshWindowEnd k pc => okStack k && okPc pc
  | .flitSend q => okPort q

end Sys2Proof
end

