-- ==== Sys2Proof/Tests/Slice0.lean ====
section
/-! SUPPORT. Tests: ill-formed commands, the spec's own examples, and for every statement with hypotheses a state that meets them. -/

open Sys2Proof Sys2Proof.Machine

namespace Sys2Proof.Tests

set_option Elab.async false

/-! ## States of the tests -/

def testSignature : Nat :=
  0x515d6620413a439d2779c3c7104a66e2b02801d17ecc670c1378f166540659e4f9cb3e3781ce9519d089f5b0fb916dc6260f6a6cd3d9aa2dd0420e77 * 2 ^ 2592 +
  0xbf61725e8a7dea35ddc8cf08cd934094e4920ec807f393131606ca27771d3d118c39709b316123aaa284d6d3d1e001933a51ad95f2a55bd0cdd4883f * 2 ^ 2112 +
  0xf5af8e89b8b3fda5d32f3534a0da56200c47588c96371222bf65f7ae7d79b51c4a95761433d82129a07492be2a03f4700787f38b4d8b07b243aee459 * 2 ^ 1632 +
  0x4919f5c97a03a0c95d216b77d117ea5025476ed7b8cd289b336b8ac54d8ec8eeed88aa87a977c7d969df210cda0322c66fac6ce20c002fcad4bb2a39 * 2 ^ 1152 +
  0xf386af8649bf0b4952dd0c5635a4548385bb9dc5e1c8849be066fe57b71f9c446b9dbb243355e73de87e9de5d40c7f28cec71af361d8b13dd0830fc5 * 2 ^ 672 +
  0xa12988b8d36d21e71cb4c53398a64d025d09af8bc3d15ad797f469287c9ef545e7c8bca51c4795d928761f533be4c130ae9898be8f2e2585f848f5b8 * 2 ^ 192 +
  0x8ffaaa32569d2af204127358d58b3ddea9175605f5e9a4f2

/-- A firmware image of version 1, SVN 1 and 64 bytes, signed with a key made for this test. -/
def testImage : List Byte :=
  leBytes 4 0x4E584657 ++ leBytes 4 1 ++ leBytes 2 1 ++ leBytes 2 0 ++ leBytes 4 64 ++ List.replicate 383 0xFF ++ [0xD1] ++
  List.replicate 688 0 ++ beBytes 384 testSignature

/-- The SHA-256 of the test key's modulus. -/
def testKeyHash : List Byte := beBytes 32 0xc0b76447f182c71dfc95fb6af1c6f9610089f9f88dac223bc74f7fce5d1bb960

/-- The running part after stage 9, its CXL link up. -/
def live : State := { State.reset with
  start := { phase := .live, stage := 9, resetN := true, startOk := true }, host := { link := .up } }

/-- The part in a phase of its life. -/
def inPhase (ph : Phase) : State := { State.reset with start := { phase := ph, resetN := true } }

/-- The state that an outcome goes on with. -/
def nextOf (o : Host.Outcome State Fault Refusal) : State := match o with | .next t => t | _ => State.reset

/-- `live` with one partition, context, port, core, engine or stack. -/
def livePart (t : Part) : State := { live with parts := [(0, t)] }
def liveCtx (x : Nat) (t : Context) : State := { live with contexts := [(x, t)] }
def livePort (q : Nat) (t : Port) : State := { live with ports := [(q, t)] }
def liveEngine (k : Nat) (g : Engine) : State := { live with engines := [(k, g)] }
def liveStack (k : Nat) (t : Stack) : State := { live with mem := { stk := [(k, t)] } }
def liveFunc (f : Nat) (t : Func) : State := { live with host := { link := .up, funcs := [(f, t)] } }
def liveDict (d : Dict) : State := { live with dict := d }

/-- `live` with `n` ledger records. -/
def liveLedger (n : Nat) : State := { live with nv := { State.reset.nv with cairn := List.replicate n ⟨0, 1, 0, 0, [], [], false⟩ } }

theorem liveLedger_free (n : Nat) : (liveLedger n).cairnFree = 1048576 - n := by
  simp [liveLedger, State.cairnFree, cairnSlots]

/-- `live` with the whole P0 open to the host and `n` tracked lines. -/
def liveFilter (n : Nat) : State := { live with host := { link := .up, hdmOn := true, hdmSize := 2 ^ 40, filter := List.replicate n 1 } }

theorem liveFilter_length (n : Nat) : n ≤ (liveFilter n).host.filter.length := by simp [liveFilter]
theorem liveFilter_misses (n : Nat) : (liveFilter n).host.filter.contains ((0 - (liveFilter n).host.hdmBase) / 64) = false := by
  simp [liveFilter]

/-- Flash whose active slot is `slot`, the signed image in slot 0. -/
def fwNv (slot : Nat) : NonVolatile := { State.reset.nv with rootKeyHash := testKeyHash, fw0 := testImage, fwActive := slot }

def fwState (ph : Phase) (slot : Nat) : State := { inPhase ph with nv := fwNv slot }

set_option maxRecDepth 10000 in
/-- The signed image verifies. -/
theorem test_image_verifies : fwOk { State.reset.nv with rootKeyHash := testKeyHash, fw0 := testImage, fwActive := 0 } testImage = true := by decide +kernel

/-- A flit of this port's peer. -/
def peerFlit (seq : Nat) (idle : Bool) : BitVec 2048 := mkFlit seq 4095 false idle [1, 0, 0, 0, 0, 2] []

/-- A flit with a NAK. -/
def nakFlit : BitVec 2048 := mkFlit 0 4095 true true [] []

/-- An operation from node 9 to this node. -/
def fromNode9 (op cls line : Nat) : FabOp :=
  { op := op, cls := cls, lane := 0, src := 9, dst := 0, hops := 63, lines := 0, tag := 7, line := line, masked := false, mask := 0
    data := if op = opWRITE ∨ op = opREADRSP then List.replicate 64 5 else [] }

/-- `live` with written lines in stack 0, GLOBAL_SPACE and ROPE accepted, and an operation received at port 7. -/
def received (o : FabOp) (t : Part) : State := { livePart t with
  mem := { stk := [(0, { fills := [⟨0, 4096, 0⟩] })] }, ports := [(7, { state := .up, arrived := [o] })] }

/-- The kernel of context 3 on core 47. -/
def runOf47 : CoreRun := ⟨0, 3, BitVec.ofNat 512 (2 ^ 111), 0⟩

/-- A command block: opcode, operands, immediates, stream slot and bound operands. -/
def block (op : Nat) (opds : List Nat) (imms : Nat) (slot : Nat := 0xFFFF) (sbind : Nat := 0) : BitVec 512 :=
  BitVec.ofNat 512 (op + 2 ^ 32 * sbind + 2 ^ 64 * opds.getD 0 0xFFFF + 2 ^ 80 * opds.getD 1 0xFFFF + 2 ^ 96 * opds.getD 2 0xFFFF +
    2 ^ 112 * opds.getD 3 0xFFFF + 2 ^ 128 * 0xFFFF + 2 ^ 144 * slot + 2 ^ 256 * imms)

/-- Core 47 runs that kernel. -/
def live47 (k : Core) : State := { live with
  contexts := [(3, { state := .running, kernel := some { kd := runOf47.kd }, en := true, cores := 2 ^ 47, saveWritten := true })]
  cores := [(47, { k with run := some runOf47 })] }

/-- A queue whose command is issued, with no nest. -/
def working (b : BitVec 512) (descs : List Nat) : QueueSt := { cmds := [b], run := some { block := b, descs := descs, nest := 0, issued := true } }

def issuedOf (b : BitVec 512) (descs : List Nat) : Issued := { block := b, descs := descs, nest := 0, issued := true }

def opsOf (descs : List Nat) : List Opn := (List.range 4).map (fun o => plainOpn (descs.getD o 0))

/-- A descriptor of one FP32 element at an offset of core 47's scratch, writable. -/
def scratchDesc (off : Nat) : Nat := 2 ^ 40 + 47 * 0x80_0000 + off + 2 ^ 201

/-- An active command of stack 15, whole, with its pages' answers and the work units done. -/
def activeOf (b : BitVec 512) (descs : List Nat) (trans : Table PageTrans := []) (iter : Nat := 0) : ActiveCmd :=
  { cmd := { core := 47, part := 0, ctx := 3, kid := 0, count := 1, iss := { issuedOf b descs with iter := iter }, params := [], whole := true }
    trans := trans }

/-- The smallest cache: one head of 32 E4M3 elements, one position a page, 16 pages. -/
def smallCache : Quad := BitVec.ofNat 64 (3 + 2 ^ 8 + 2 ^ 12 * 32 + 2 ^ 21 + 2 ^ 32 + 2 ^ 48 * 16)

/-- Stack 15 with its first lines written. -/
def written15 : Stack := { fills := [⟨0, 4096, 0⟩] }

/-- Stack 15 with its first lines poisoned. -/
def poisoned15 : Stack := { fills := [⟨0, 4096, 0⟩], marks := [(0, .poisoned), (1, .poisoned), (2, .poisoned)] }

/-- The part with an active command in area 3 of stack 15. -/
def live15 (a : ActiveCmd) (st : Stack) : State := { live47 {} with
  engines := [(15, { active := [(3, a)] })], mem := { stk := [(15, st)] }, parts := [(0, { kvgeom := smallCache })] }

/-- An FP32 operand of one element at an offset of stack 15, writable. -/
def stackDesc (off : Nat) : Nat := 15 * 2 ^ 36 + off + 2 ^ 201

/-- The first four such operands. -/
def stackDescs : List Nat := [stackDesc 0, stackDesc 64, stackDesc 128, stackDesc 192]

/-- A requester on the management network. -/
def port5 : Requester := .port 5 7

/-- A dictionary message (R372). -/
def request (op index sub : Nat) (payload : List Byte := []) (offset : Nat := 0) : List Byte :=
  leBytes 16 (1 + 2 ^ 8 * op + 2 ^ 16 * 9 + 2 ^ 32 * index + 2 ^ 48 * sub + 2 ^ 56 + 2 ^ 64 * offset + 2 ^ 96 * payload.length) ++ payload

/-- A READ of `len` bytes. -/
def readOf (index sub len : Nat) (offset : Nat := 0) : List Byte :=
  leBytes 16 (1 + 2 ^ 8 + 2 ^ 16 * 9 + 2 ^ 32 * index + 2 ^ 48 * sub + 2 ^ 64 * offset + 2 ^ 96 * len)

/-- A WRITE of a number of `n` bytes. -/
def writeOf (index sub n v : Nat) : List Byte := request 2 index sub (leBytes n v)

/-- `RequestArrives`, as a program decides it. -/
def arrivesB (s : State) (who : Requester) (msg : List Byte) : Bool :=
  !malformed (!isPort who) msg && s.dictOn && s.dict.flash.isNone && (match who with | .mailbox fn => s.doeReach fn | .port _ _ => true) &&
    (s.dict.lasts.find? (fun x => x.1 == who && x.2.1 == (parseMsg msg).seq)).isNone

theorem arrives_of {s : State} {who : Requester} {msg : List Byte} (h : arrivesB s who msg = true) : RequestArrives s who msg := by
  simp only [arrivesB, Bool.and_eq_true, Bool.not_eq_true', Option.isNone_iff_eq_none] at h
  obtain ⟨⟨⟨⟨h1, h2⟩, h3⟩, h4⟩, h5⟩ := h
  exact ⟨h1, h2, h3, fun fn hf => by subst hf; exact h4, h5⟩

/-- `WriteReaches`, as a program decides it. -/
def reachesB (s : State) (who : Requester) (msg : List Byte) (index sub : Nat) (r : Row) : Bool :=
  arrivesB s who msg && s.isLive && ((parseMsg msg).op == 2) && ((parseMsg msg).index == index) && ((parseMsg msg).sub == sub) &&
    (rowOf index sub == some r) && !r.missing s.mode (sub - r.lo) && (r.acc != .ro) && (r.acc != .const) && mayWrite s.mode who r (sub - r.lo) &&
    (r.acc != .rws || s.rwsFree r (sub - r.lo)) && (sub != 0)

theorem writeReaches_of {s : State} {who : Requester} {msg : List Byte} {index sub : Nat} {r : Row} (h : reachesB s who msg index sub r = true) :
    WriteReaches s who msg index sub r := by
  simp only [reachesB, Bool.and_eq_true, Bool.not_eq_true', bne_iff_ne, beq_iff_eq, ne_eq, Bool.or_eq_true] at h
  obtain ⟨⟨⟨⟨⟨⟨⟨⟨⟨⟨⟨h1, h2⟩, h3⟩, h4⟩, h5⟩, h6⟩, h7⟩, h8⟩, h9⟩, h10⟩, h11⟩, h12⟩ := h
  exact ⟨arrives_of h1, h2, ⟨h3, h4, h5⟩, h6, h7, ⟨h8, h9⟩, h10, fun h => h11.resolve_left (fun hn => hn h), h12⟩

/-- `ReadReaches`, as a program decides it. -/
theorem readReaches_of {s : State} {who : Requester} {msg : List Byte} {r : Row} (h : arrivesB s who msg = true)
    (hr : ((parseMsg msg).op = 1 ∧ (parseMsg msg).sub ≠ 0) ∧ rowOf (parseMsg msg).index (parseMsg msg).sub = some r ∧
      r.missing s.mode ((parseMsg msg).sub - r.lo) = false) : ReadReaches s who msg r :=
  ⟨arrives_of h, hr.1, hr.2.1, hr.2.2⟩

/-- `live` in mode 2: four partitions. -/
def modeTwo : State := { live with start := { live.start with mode := 2 } }

/-! ## A tile of one element in scratch -/

/-- The environment of core 47's matrix queue. -/
def env47 (b : BitVec 512) (descs : List Nat) : Env := (live47 { qMx := working b descs }).env 47 0 runOf47

/-- A BF16 operand of one element in core 47's scratch. -/
def bfDesc : Nat := 2 ^ 40 + 47 * 0x80_0000 + 2 ^ 192

theorem servedDim_one (b : BitVec 512) (descs : List Nat) (k : Nat) (x : Int) :
    servedDim (env47 b descs) bfDesc 0 k x = if 0 ≤ x ∧ x < 1 then some (0, x.toNat) else none := by
  have hg : dGlobal (env47 b descs) bfDesc = false := by rfl
  have hr : dRank bfDesc = 0 := by decide
  have hx : localExt (env47 b descs) bfDesc k 0 = 1 := by simp [localExt, hg, dExt, dimField, hr]
  simp [servedDim, gridOf, hg, hx]

theorem served_one (b : BitVec 512) (descs : List Nat) (x : List Int) :
    served (env47 b descs) bfDesc 0 x = .zero ∨ served (env47 b descs) bfDesc 0 x = .elem false 0 [0, 0, 0, 0, 0, 0] := by
  have hg : dGlobal (env47 b descs) bfDesc = false := by rfl
  have hp : dPad bfDesc = 0 := by decide
  unfold served
  simp only [servedDim_one, hg, hp]
  split
  · rename_i h
    right
    simp only [List.all_map, List.all_eq_true, List.mem_range, Function.comp] at h
    have hk : ∀ k, k < 6 → (if 0 ≤ co x k ∧ co x k < 1 then some ((0 : Nat), (co x k).toNat) else none) = some (0, 0) := by
      intro k hk
      have := h k hk
      split at this
      · rename_i hc
        rw [if_pos hc]
        congr 2
        omega
      · simp at this
    have : (List.range 6).map (fun k => if 0 ≤ co x k ∧ co x k < 1 then some ((0 : Nat), (co x k).toNat) else none) =
        (List.range 6).map (fun _ => some (0, 0)) := by
      apply List.map_congr_left
      intro k hk'
      exact hk k (List.mem_range.mp hk')
    rw [this]
    rfl
  · left
    rfl

theorem place_one (b : BitVec 512) (descs : List Nat) (m : MemSys) :
    (env47 b descs).place m 1099905892352 = .scratch 47 0 := by
  show (if 1099905892352 < 2 ^ 44 then placeLocal 0 0 false m 1099905892352 else _) = _
  rw [if_pos (by decide)]
  simp [placeLocal, partOfCore, partOfDie, nParts]

/-- Work that neither waits, nor has failed, nor holds a byte to write. -/
structure Still (w : Wk) : Prop where
  fault : w.fault = none
  wait : w.wait = false
  pend : w.pend = []
  whole : w.part = false

theorem Still.good {w : Wk} (h : Still w) : w.good = true := by simp [Wk.good, h.fault, h.wait]

/-- A line whose fetch changes nothing is read without harm. -/
theorem Still.readLine {e : Env} {w : Wk} {a : Nat} (hf : (Wk.fetchLine e w a).2 = w) (h : Still w) : Still (Wk.readLine e w a).2 := by
  unfold Wk.readLine
  split
  · exact h
  · dsimp only
    rw [hf, if_pos h.good]
    exact ⟨h.fault, h.wait, h.pend, h.whole⟩

theorem readLine_one (b : BitVec 512) (descs : List Nat) (w : Wk) (h : Still w) : Still (Wk.readLine (env47 b descs) w 1099905892352).2 :=
  h.readLine (by unfold Wk.fetchLine; rw [place_one])

theorem readNat_line {e : Env} {w : Wk} {a n : Nat} (hn : n ≠ 0) (h1 : (a + n - 1) / 64 + 1 - a / 64 = 1) (h2 : 64 * (a / 64) = a)
    (h : Still (Wk.readLine e w a).2) : Still (Wk.readNat e w a n).2 := by
  unfold Wk.readNat Wk.read
  rw [if_neg hn]
  simpa only [h1, h2, Wk.readLines] using h

theorem readNat_one (b : BitVec 512) (descs : List Nat) (w : Wk) (h : Still w) : Still (Wk.readNat (env47 b descs) w 1099905892352 2).2 :=
  readNat_line (by decide) (by decide) (by decide) (readLine_one b descs w h)

theorem readElem_still (e : Env) (w : Wk) (o : Opn) (x : List Int) (z : List Nat) (hn : o.null = false) (hf : isWhole (dFmt o.d) = true)
    (hs : served e o.d (dHolder e o.d) x = .zero ∨ served e o.d (dHolder e o.d) x = .elem false 0 z)
    (hw : Still w) (hr : Still (Wk.readNat e w (elemAddr o 0 z).toNat (dUnit o.d)).2) : Still (readElem e w o x).2 := by
  unfold readElem
  rcases hs with h | h
  · simpa [hn, h] using hw
  · simpa [hn, h, hf] using hr

theorem holder_one (b : BitVec 512) (descs : List Nat) : dHolder (env47 b descs) bfDesc = 0 := by rfl

theorem bfDesc_whole : isWhole (dFmt (plainOpn bfDesc).d) = true := by decide
theorem bfDesc_addr : (elemAddr (plainOpn bfDesc) 0 [0, 0, 0, 0, 0, 0]).toNat = 1099905892352 := by decide +kernel
theorem bfDesc_unit : dUnit (plainOpn bfDesc).d = 2 := by decide +kernel

theorem readElem_one (b : BitVec 512) (descs : List Nat) (w : Wk) (x : List Int) (h : Still w) :
    Still (readElem (env47 b descs) w (plainOpn bfDesc) x).2 := by
  have hd : (plainOpn bfDesc).d = bfDesc := rfl
  refine readElem_still _ _ _ x [0, 0, 0, 0, 0, 0] rfl bfDesc_whole ?_ h ?_
  · rw [hd, holder_one]
    exact served_one b descs x
  · rw [bfDesc_addr, bfDesc_unit]
    exact readNat_one b descs w h

theorem readElems_one (b : BitVec 512) (descs : List Nat) (l : List (List Int)) (w : Wk) (h : Still w) :
    Still (readElems (env47 b descs) (plainOpn bfDesc) l w).2 := by
  induction l generalizing w with
  | nil => exact h
  | cons x l ih => exact ih _ (readElem_one b descs w x h)

theorem readColumns_one (b : BitVec 512) (descs : List Nat) (org : List Int) (kk : Nat) (l : List Nat) (w : Wk) (h : Still w) :
    Still (readColumns (env47 b descs) (plainOpn bfDesc) org kk l w).2 := by
  induction l generalizing w with
  | nil => exact h
  | cons n l ih => exact ih _ (readElems_one b descs _ w h)

theorem readTile_snd (e : Env) (o : Opn) (org : List Int) (w : Wk) :
    (readTile e o org w).2 = (readColumns e o org (mxK ((mxMode (dFmt o.d)).getD 0)) (List.range (mxN ((mxMode (dFmt o.d)).getD 0))) w).2 := rfl

theorem readTile_one (b : BitVec 512) (descs : List Nat) (org : List Int) (w : Wk) (h : Still w) :
    Still (readTile (env47 b descs) (plainOpn bfDesc) org w).2 := by
  rw [readTile_snd]
  exact readColumns_one b descs org _ _ w h

theorem loadWork_snd (e : Env) (k : Core) (iss : Issued) (ops : List Opn) (n : Nat) (w : Wk) :
    (loadWork e k iss ops n w).2 = (readTile e (ops.getD 0 (plainOpn 0)) [] w).2 := rfl

theorem loadWork_one (k : Core) (iss : Issued) (b : BitVec 512) (descs : List Nat) (w : Wk) (h : Still w) :
    Still (loadWork (env47 b descs) k iss (opsOf [bfDesc]) 0 w).2 := by
  have ho : (opsOf [bfDesc]).getD 0 (plainOpn 0) = plainOpn bfDesc := rfl
  rw [loadWork_snd, ho]
  exact readTile_one b descs [] w h

theorem Still.send {e : Env} {w : Wk} (h : Still w) : (w.send e).good = true ∧ (w.send e).part = false := by
  have ha : w.askWrite e [] = w := rfl
  unfold Wk.send
  simp [h.pend, linesOf, ha, Wk.good, h.fault, h.wait, h.whole]

/-- MX_LOADW of that tile, issued. -/
def loadw47 : State := live47 { qMx := working (block 0x3001 [0] 0) [bfDesc] }

theorem loadw47_good :
    (lastWork loadw47 47 0 runOf47 (issuedOf (block 0x3001 [0] 0) [bfDesc]) (opsOf [bfDesc]) loadWork).2.good = true ∧
    (lastWork loadw47 47 0 runOf47 (issuedOf (block 0x3001 [0] 0) [bfDesc]) (opsOf [bfDesc]) loadWork).2.part = false := by
  unfold lastWork
  have he : loadw47.env 47 0 runOf47 = env47 (block 0x3001 [0] 0) [bfDesc] := rfl
  rw [he]
  have hi : (issuedOf (block 0x3001 [0] 0) [bfDesc]).iter = 0 := rfl
  dsimp only
  rw [hi]
  exact Still.send (loadWork_one _ _ _ _ _ ⟨rfl, rfl, rfl, rfl⟩)

/-! ## Save images in scratch -/

theorem context_withMem (s : State) (m : MemSys) (p x : Nat) : ({ s with mem := m } : State).context p x = s.context p x := rfl

/-- Context 63 restores a kernel of core 0 from an image of one unit at the start of scratch, with this header. -/
def restoring63 (hdr : Nat) : State := { liveCtx 63 { state := .restoring, kernel := some { kd := 2 ^ 64 }, cores := 1, save := 2 ^ 40, units := 1 } with
  mem := live.mem.scratchWrite 0 0 ((leBytes 64 hdr).map some) }

theorem readLine_scratch (hdr i : Nat) (w : Wk) (h : i < 196608) (hw : Still w) :
    Still (Wk.readLine ((restoring63 hdr).partEnv 0) w (2 ^ 40 + 64 * i)).2 := by
  have hp : ((restoring63 hdr).partEnv 0).place w.mem (2 ^ 40 + 64 * i) = .scratch ((2 ^ 40 + 64 * i - 2 ^ 40) / 0x80_0000) ((2 ^ 40 + 64 * i) % 0x80_0000) := by
    have hm : ((restoring63 hdr).partEnv 0).mode = 0 := rfl
    have hq : ((restoring63 hdr).partEnv 0).part = 0 := rfl
    unfold Env.place placeLocal
    rw [if_pos (by omega), if_neg (by omega), if_pos (by omega), hm, hq]
    dsimp only
    rw [if_pos]
    unfold partOfCore partOfDie
    simp [nParts]
    omega
  exact hw.readLine (by unfold Wk.fetchLine; rw [hp])

theorem readLines_scratch (hdr n : Nat) : ∀ (i : Nat) (w : Wk), i + n ≤ 196608 → Still w →
    Still (Wk.readLines ((restoring63 hdr).partEnv 0) n w (2 ^ 40 + 64 * i)).2 := by
  induction n with
  | zero => exact fun _ _ _ h => h
  | succ n ih =>
    intro i w h hw
    simp only [Wk.readLines]
    rw [show 2 ^ 40 + 64 * i + 64 = 2 ^ 40 + 64 * (i + 1) by omega]
    exact ih (i + 1) _ (by omega) (readLine_scratch hdr i w (by omega) hw)

theorem read_scratch (hdr i n : Nat) (w : Wk) (hn : 0 < n) (h : i + n ≤ 196608) (hw : Still w) :
    Still (Wk.read ((restoring63 hdr).partEnv 0) w (2 ^ 40 + 64 * i) (64 * n)).2 := by
  unfold Wk.read
  rw [if_neg (by omega)]
  have h1 : (2 ^ 40 + 64 * i + 64 * n - 1) / 64 + 1 - (2 ^ 40 + 64 * i) / 64 = n := by omega
  have h2 : 64 * ((2 ^ 40 + 64 * i) / 64) = 2 ^ 40 + 64 * i := by omega
  dsimp only
  rw [h1, h2]
  exact readLines_scratch hdr n i w h hw

theorem readRanges_still (e : Env) (base : Nat) (l : List (Nat × Nat)) (h : ∀ r ∈ l, ∀ v : Wk, Still v → Still (v.read e (base + r.1) r.2).2)
    (w : Wk) (hw : Still w) : Still (Wk.readRanges e base l w).2 := by
  induction l generalizing w with
  | nil => exact hw
  | cons r l ih => exact ih (fun x hx => h x (by simp [hx])) _ (h r (by simp) w hw)

theorem imageRanges_lie (x : Nat × Nat) (h : x ∈ imageRanges 1) : x.1 % 64 = 0 ∧ x.2 % 64 = 0 ∧ 0 < x.2 ∧ x.1 + x.2 ≤ 0x44_0000 := by
  have all : (imageRanges 1).all (fun x => x.1 % 64 == 0 && x.2 % 64 == 0 && decide (0 < x.2) && decide (x.1 + x.2 ≤ 0x44_0000)) = true := by decide +kernel
  have hx := List.all_eq_true.mp all x h
  simp only [Bool.and_eq_true, beq_iff_eq, decide_eq_true_eq] at hx
  omega

theorem readImage_snd (e : Env) (w : Wk) (base units : Nat) : (readImage e w base units).2 = (Wk.readRanges e base (imageRanges units) w).2 := by
  simp only [readImage]

theorem readImage_scratch (hdr : Nat) (w : Wk) (hw : Still w) : Still (readImage ((restoring63 hdr).partEnv 0) w (2 ^ 40) 1).2 := by
  rw [readImage_snd]
  refine readRanges_still _ _ _ (fun r hr v hv => ?_) w hw
  obtain ⟨h1, h2, h3, h4⟩ := imageRanges_lie r hr
  have ha : r.1 = 64 * (r.1 / 64) := by omega
  have hb : r.2 = 64 * (r.2 / 64) := by omega
  rw [ha, hb]
  exact read_scratch hdr _ _ v (by omega) (by omega) hv

theorem imagesFold (f : Wk → Nat → Nat → Image × Wk) (g : Nat → Nat) (u : Nat) (w : Wk) :
    ([0].foldl (fun (a : List (Nat × Image) × Wk) c => let r := f a.2 (g c) u; (a.1 ++ [(c, r.1)], r.2)) ([], w)).2 = (f w (g 0) u).2 := rfl

theorem imagesRead_one (s : State) (p x : Nat) (k : Kernel) (hb : bitsBelow 48 (kdCores k.kd) = [0]) :
    (imagesRead s p x k).2 = (readImage (s.partEnv p) { mem := s.mem } ((s.context p x).imageAt 0) (s.context p x).units).2 := by
  have h := imagesFold (readImage (s.partEnv p)) (s.context p x).imageAt (s.context p x).units { mem := s.mem }
  rw [← hb] at h
  exact h

theorem imagesRead_scratch (hdr : Nat) : (imagesRead (restoring63 hdr) 0 63 { kd := 2 ^ 64 }).2.good = true := by
  have hc : (restoring63 hdr).context 0 63 = (liveCtx 63 { state := .restoring, kernel := some { kd := 2 ^ 64 }, cores := 1, save := 2 ^ 40, units := 1 }).context 0 63 :=
    context_withMem _ _ _ _
  have hi : ((restoring63 hdr).context 0 63).imageAt 0 = 2 ^ 40 := by rw [hc]; decide +kernel
  have hu : ((restoring63 hdr).context 0 63).units = 1 := by rw [hc]; decide +kernel
  rw [imagesRead_one _ _ _ _ (by decide +kernel), hi, hu]
  exact Still.good (readImage_scratch hdr _ ⟨rfl, rfl, rfl, rfl⟩)

/-! ## Ill-formed commands are refused -/

/-- Numbers of units past the last one. -/
theorem test_units_past_the_last_are_ill_formed :
    [Instr.idcode 6, .classAWindow 4 0, .dmaCopy 48, .nop 0 4, .stkActivate 16, .stkComplete 0 4, .sMatvec (.run 0 4), .sMatvec (.run 16 0),
     .sMatvec (.forward 48), .tetherRetry 0 64 true, .dramCmdTimeout 0 32, .read 8, .kernelDispatch 4, .preempt 0 64, .force 0 256 0,
     .bivouacParkDone 0 4096, .flr 128, .vfEnableClear 4, .pllLoss 9, .startstat 3].all (fun i => !i.wf) = true := by decide +kernel

/-- The last units are well formed. -/
theorem test_last_units_are_well_formed :
    [Instr.idcode 5, .classAWindow 3 0, .dmaCopy 47, .nop 47 3, .stkActivate 15, .stkComplete 15 3, .sMatvec (.run 15 3), .sMatvec (.forward 47),
     .tetherRetry 15 63 true, .dramCmdTimeout 15 31, .read 7, .kernelDispatch 3, .preempt 127 63, .force 127 255 0, .bivouacParkDone 3 4095, .flr 127,
     .vfEnableClear 3, .pllLoss 8, .startstat 4].all Instr.wf = true := by decide +kernel

/-- Values past their fields. -/
theorem test_values_past_their_fields_are_ill_formed :
    [Instr.rqtail 0 (2 ^ 32), .tetherTraining (2 ^ 16) [], .tetherTraining 0 [(16, 0)], .sparTraining (2 ^ 14), .housekeepingRound [] [],
     .hello 0 (2 ^ 13) 0 0, .responseTimeout 0 (2 ^ 16), .cxlLinkUp 2, .configRequest 0 4096, .hdmCommit 1 0 0, .cxlMemRead 63 true, .bisnpResponse (2 ^ 38) none,
     .hostBarRead 0 1 0 8, .hostBarRead 0 0 0 4097, .registerWrite 0 4 0, .vfmap 0 0 0, .pageWalk 0 0 (2 ^ 10) 0, .wcAgeFlush 0 (2 ^ 30),
     .neighbourDiscovery (2 ^ 128), .dictRead ⟨.port (2 ^ 48) 0, .own⟩ [], .dictRead ⟨.mailbox 128, .own⟩ [], .identify ⟨.mailbox 0, .allNodes⟩ [], .railFault ⟨6, false⟩, .hostLinkRecovery 3, .doeDiscovery 0 256,
     .getLog (2 ^ 32) 0, .testPieceDone 0 false true [(2 ^ 36, 0, 0)]].all (fun i => !i.wf) = true := by decide +kernel

theorem test_a_long_message_is_ill_formed (who : Sender) (m : List Byte) (h : m.length = 65537) : (Instr.dictWrite who m).wf = false := by
  simp [Instr.wf, okMsg, h]

theorem test_a_long_image_is_ill_formed (m : List Byte) (h : m.length = 4195713) : (Instr.fwload m).wf = false := by
  simp [Instr.wf, h]

/-! ## Commands and words -/

/-- No row of the table gives bits, so no word spells a command and the queue stays. -/
theorem test_no_word_spells_a_command (s : State) (nbits w : Nat) : decodeTableWord nbits w = none ∧ s.withFetchWord nbits w = s := ⟨rfl, rfl⟩

/-! ## The spec's own examples -/

/-- Chapter 01, "global address in Col": stack 9 of node 302 is P2's. -/
theorem test_global_address_in_col :
    (({ modeTwo with nv := { modeTwo.nv with node := 300 }, parts := [(2, { accept0 := 2 ^ 9 })] } : State).env 24 2 ⟨2, 0, 0, 0⟩).place {} 0x12E0900000_1234 =
      .stack 9 0x1234 := by decide +kernel

/-- Chapter 01: P0 refuses its own window's address of stack 9. -/
theorem test_global_address_in_col_refused :
    (({ modeTwo with nv := { modeTwo.nv with node := 300 }, parts := [(0, { accept0 := 2 ^ 9 })] } : State).env 0 2 ⟨0, 0, 0, 0⟩).place {} 0x12C0900000_1234 =
      .refused := by decide +kernel

/-- Chapter 02, "a PI3 block": weights 3, -4, -1 under scale 0x7C read 0.375, -0.5, -0.125. -/
theorem test_pi3_block :
    (List.range 4).map (fun i => widen 0x12 (unpackElem 0x12 true (0x05 + 2 ^ 64 * 0x05 + 2 ^ 128 * 0x06) i) 0x7C) =
      [0x3EC00000, 0xBF000000, 0xBE000000, 0] := by decide +kernel

/-- Chapter 02, "one E4M3 activation block": 448, 11/128 and 3/512 become 28,672, 6 and 0 steps of 2^-6. -/
theorem test_e4m3_activation_block :
    let b := [elemValue 3 0x7E 0, .fin false 11 (-7), elemValue 3 0x03 0]
    blockExp b = some 8 ∧ b.map (mantissa 8) = [28672, 6, 0] := by decide +kernel

/-- Chapter 03, "the feed-forward weight sharded over C0": the address of weight 5,000 in column 7,000. -/
theorem test_feed_forward_weight :
    let d := 2 ^ 192 * 0x13 + 2 ^ 197 * 2 + 2 ^ 128 * 11796480 + 2 ^ 205 * 2 + 2 ^ 384 * (9216 + 2 ^ 96) +
      2 ^ 576 * (30720 + 2 ^ 96 * 12 + 2 ^ 104 + 2 ^ 112 * 256 + 2 ^ 128 * 4608)
    let e := { (live.env 0 2 runOf47) with cores := 4095 }
    ofGlobal e d 1 0 7000 = (3, 600) ∧ elemAddr (plainOpn d) 3 [5000, 600] = 38156736 ∧ scaleAddr (plainOpn d) 38156736 = 1192398 ∧
      localExt e d 1 3 = 2560 := by decide +kernel

/-- Chapter 04, "a nest that stages activations": origins and addresses at iteration 20. -/
theorem test_nest_origin :
    let n := 1 + 2 ^ 64 * 36 + 2 ^ 96 * 0x100 + 2 ^ 128 * 0x40000001
    let s := 0x40000000 + 2 ^ 192 * 3 + 2 ^ 197 * 2 + 2 ^ 384 * (9216 + 2 ^ 128) + 2 ^ 576 * (256 + 2 ^ 128 * 9216)
    nOrigin n (nCounts n []) 0 20 = [5120, 0, 0, 0, 0, 0] ∧ nOrigin n (nCounts n []) 1 20 = [0, 0, 20, 0, 0, 0] ∧
      elemAddr (plainOpn s) 0 [5127, 2] = 0x40005C07 := by decide +kernel

/-- Chapter 05, "a lockstep read one cycle early": slot 3 is seen from opening checks 729 to 1,176. -/
theorem test_lockstep_read :
    let t : SpoolSlot := { tag := 19, begun := 1208, oldTag := 3, oldBegun := 696 }
    (t.readAt 3 728).isSome = false ∧ (t.readAt 3 729).isSome = true ∧ (t.readAt 3 1176).isSome = true ∧ (t.readAt 3 1177).isSome = false := by
  decide +kernel

/-- Chapter 10, "a rejected draft": places of a key and of a page-table entry. -/
theorem test_kv_places :
    let g := 3 + 2 ^ 8 * 6 + 2 ^ 12 * 256 + 2 ^ 21 * 21 + 2 ^ 32 * 62 + 2 ^ 48 * 400
    kvKeyOffset g 2 19 = 26368 ∧ pageStack 0 0 390 = 6 ∧ pteOffset 0 0 g 0x800000000 37 10 390 = 0x800384600 ∧ kvUnits g = 2016 := by
  decide +kernel

/-- Chapter 12, "assembly under budgets": places in a buffer. -/
theorem test_buffer_places :
    let t : Part := { seqmax := 512, rowsmax := 2560, chunkmax := 2048 }
    t.tokAt = 16448 ∧ t.spAt = 26688 ∧ t.srAt = 190528 ∧ t.eoAt = 231488 ∧ t.bufSize = 327680 := by decide +kernel

/-- Chapter 14, "one map-out in Col": what stack 2 keeps, and where offset 2,560 moves. -/
theorem test_map_out :
    let t : Stack := { applied := 2 ^ 5 }
    t.usable = 31 ∧ t.capacity = 62 * 2 ^ 30 ∧ t.pcOf 40 = 12 ∧ ({} : Stack).pcOf 40 = 10 := by decide +kernel

/-- Chapter 16, "a DRAINED march": the fields of 0x0009_0107. -/
theorem test_march_request : tqItem 0x00090107 = 7 ∧ tqDrained 0x00090107 = true ∧ tqUnit 0x00090107 = 9 := by decide +kernel

/-- Chapter 17, "a spar failure in Ridge": START_STATUS. -/
theorem test_start_status : Startup.status { stage := 9, prevEnd := 1, partDown := 2 } = 0x02010009 := by decide +kernel

/-- Chapter 18, "lowering the cap": the steps 11 and 3, and the limit 315. -/
theorem test_governor_steps :
    (liveDict { vals := [(0x130001, 1600)] }).powerSteps ([(800, 4000), (0, 0), (0, 0), (0, 0), (1000, 3000), (0, 0), (0, 0), (0, 0), (1000, 3000), (0, 0),
      (0, 0), (0, 0), (1000, 3000), (0, 0), (0, 0), (0, 0)] ++ List.replicate 16 (1000, 175) ++ List.replicate 10 (1000, 350)) = (11, 3) ∧
    live.ilimA 0 * (32 - 11) / 32 = 315 := by decide +kernel

/-- Chapter 12: a step's energy is split by weight and the rest goes to the entry that weighs most. -/
theorem test_energy_split :
    let e := fun (k kind ident a : Nat) => (⟨k, kind, ident, 0, a, 0, 0, 0, false, false, []⟩ : BatchEntry)
    let t : Part := { promptW := 64, stepUse := [0, 0, 0, 0, 0, 0, 0, 0, 0, 0, 14000000], batch := [e 0 0 1 180, e 1 1 1 2048, e 2 0 2 280, e 3 0 3 6] }
    [1, 2, 3].map (fun i => (Table.get {} t.splitUse.accounts i).energy) = [9905932, 4008179, 85889] := by decide +kernel

/-! ## Shapes of hypotheses -/

/-- No request runs, so none holds a partition. -/
theorem noTests {s : State} (h : (List.range (nParts s.mode)).all (fun q => (s.tu q false).state != 2 && (s.tu q true).state != 2) = true) :
    NoTestHolds s := by
  intro p
  simp only [State.drainHeld, List.any_eq_false]
  intro q hq
  have := List.all_eq_true.mp h q hq
  simp only [Bool.and_eq_true, bne_iff_ne] at this
  simp [this.1, this.2]

/-- No core has work, so none waits for room. -/
theorem noBacklog {s : State} (h : s.cores = []) : NoBacklog s := by
  intro c q
  have : s.core c = {} := by simp [State.core, h, Table.get]
  rw [this]
  rcases q with _ | _ | _ | q <;> rfl

/-- The ledger as delivered has its form. -/
theorem reset_ledger : ledgerOk State.reset.nv.cairn := by
  intro i r h
  cases i with
  | zero =>
    obtain rfl := Option.some.inj h
    exact ⟨rfl, fun _ => rfl⟩
  | succ i => exact absurd h (by simp [State.reset])

theorem sealed_base : sha256 (inPhase (.done 3)).sealBase.baseBytes = (inPhase (.done 3)).sealBase.nv.base.hash :=
  congrArg sha256 (rfl : (inPhase (.done 3)).sealBase.baseBytes = (inPhase (.done 3)).baseBytes)

/-- `AtHead` from one conjunction. -/
theorem atHead {s : State} {c q : Nat} {r : CoreRun} {k : Kernel} {b : BitVec 512} {rest : List (BitVec 512)}
    (h : (s.running c = some (r, k) ∧ k.fault = none ∧ ((s.core c).queue q).cmds = b :: rest) ∧ ((s.core c).queue q).run = none ∧
      ((s.core c).queue q).lateFault = none ∧ s.breakHits r.part r.ctx q (nextCount ((s.core c).queue q).count) (cbTag b) = []) :
    AtHead s c q r k b rest := ⟨h.1.1, h.1.2.1, h.1.2.2, h.2.1, h.2.2.1, h.2.2.2⟩

/-- `AtLastIteration` from one conjunction. -/
theorem atLast {s : State} {c q op : Nat} {r : CoreRun} {iss : Issued} (k : Kernel)
    (h : (s.running c = some (r, k) ∧ ((s.core c).queue q).run = some iss) ∧ iss.issued = true ∧ cbOp iss.block = op ∧
      nIters (nCounts iss.nest (s.core c).params) = iss.iter + 1) : AtLastIteration s c q op r iss :=
  ⟨⟨k, h.1.1⟩, h.1.2, h.2.1, h.2.2.1, h.2.2.2⟩

/-- `AtLastUnit` from one conjunction. -/
theorem atUnit {s sp : State} {k area op : Nat} {a0 a : ActiveCmd} {n : Option Nat}
    (h : ((s.engine k).act area = some a0 ∧ cbOp a0.cmd.iss.block = op ∧ (a0.done = false ∧ a0.fault = none)) ∧
      ((sp.engine k).act area = some a ∧ n = some (a.cmd.iss.iter + 1)) ∧ (sp.engine k).mayCompute area = true ∧
      ((sp.engine k).pause = 0 ∨ (sp.engine k).pauseOver = true) ∧ (a.cmd.whole = true ∧ a.fault = none)) :
    AtLastUnit s sp k area op a0 a n := ⟨h.1.1, h.1.2.1, h.1.2.2, h.2.1.1, h.2.1.2, h.2.2.1, h.2.2.2.1, h.2.2.2.2⟩

/-- `RingHasEntry` from one conjunction. -/
theorem ringHas {s : State} {fn : Nat} (h : (s.isLive = true ∧ s.host.link = .up ∧ s.hasFunc fn = true) ∧ ringEn (s.func fn).rq.cfg = true ∧
    s.aborting fn = false ∧ (s.func fn).rq.head ≠ (s.func fn).rq.tail) : RingHasEntry s fn :=
  ⟨h.1.1, h.1.2.1, h.1.2.2, h.2.1, h.2.2.1, h.2.2.2⟩

/-- A scalar write reaches its rule. -/
theorem scalarAt {s : State} {who : Requester} {msg : List Byte} {index sub : Nat} (r : Row) (n : Nat)
    (h : reachesB s who msg index sub r = true) (hn : r.ty = .num n ∧ (parseMsg msg).payload.length = n) : ScalarReaches s who msg index sub :=
  ⟨r, n, writeReaches_of h, hn.1, hn.2⟩

/-- An object written in one window reaches its rule. -/
theorem objectAt {s : State} {who : Requester} {msg : List Byte} {index sub : Nat} (r : Row) (max : Nat)
    (h : reachesB s who msg index sub r = true) (hn : r.ty = .dom max ∧ (parseMsg msg).payload.length ≤ max)
    (hw : (parseMsg msg).offset = 0 ∧ (parseMsg msg).last = true) : ObjectReaches s who msg index sub :=
  ⟨⟨r, max, writeReaches_of h, hn.1, hn.2⟩, hw⟩

/-- A command of core 47 stands at its last iteration, its operands are bound and its work can be done. -/
def EngineRuns (q op : Nat) (noIndex : Bool) (work : Env → Core → Issued → List Opn → Nat → Wk → Core × Wk) : Prop :=
  ∃ (s : State) (r : CoreRun) (iss : Issued) (ops : List Opn), AtLastIteration s 47 q op r iss ∧
    bindOps (fun _ o => addrsOk (s.env 47 q r) ((s.env 47 q r).allowed s.mem) o) iss.block iss.descs noIndex ((s.core 47).entries iss.block) = .ok ops ∧
    (lastWork s 47 q r iss ops work).2.good = true ∧ (lastWork s 47 q r iss ops work).2.part = false

theorem engineRuns {q op : Nat} {noIndex : Bool} {work : Env → Core → Issued → List Opn → Nat → Wk → Core × Wk} (s : State) (b : BitVec 512)
    (descs : List Nat) (ops : List Opn)
    (h : (s.running 47 = some (runOf47, { kd := runOf47.kd }) ∧ ((s.core 47).queue q).run = some (issuedOf b descs)) ∧ (issuedOf b descs).issued = true ∧
      cbOp (issuedOf b descs).block = op ∧ nIters (nCounts (issuedOf b descs).nest (s.core 47).params) = (issuedOf b descs).iter + 1)
    (hb : bindOps (fun _ o => addrsOk (s.env 47 q runOf47) ((s.env 47 q runOf47).allowed s.mem) o) (issuedOf b descs).block (issuedOf b descs).descs noIndex
      ((s.core 47).entries (issuedOf b descs).block) = .ok ops)
    (hw : (lastWork s 47 q runOf47 (issuedOf b descs) ops work).2.good = true ∧ (lastWork s 47 q runOf47 (issuedOf b descs) ops work).2.part = false) :
    EngineRuns q op noIndex work := ⟨s, runOf47, issuedOf b descs, ops, atLast _ h, hb, hw⟩

/-- Four operands of one FP32 element in core 47's scratch. -/
def scratchDescs : List Nat := [scratchDesc 0, scratchDesc 64, scratchDesc 128, scratchDesc 192]

/-- A vector command of core 47, issued. -/
def vec47 (b : BitVec 512) : State := live47 { qVec := working b scratchDescs }

/-- A stream of slot 15 of core 47 is at its last iteration, with one place left. -/
def SeqRuns (op : Nat) (mk : EntryMaker) : Prop :=
  ∃ (s : State) (r : CoreRun) (k : Kernel) (i : Nat) (g : Issued), s.running 47 = some (r, k) ∧ i < 16 ∧ ((s.core 47).stream i).gen = some g ∧
    cbOp g.block = op ∧ nIters (nCounts g.nest (s.core 47).params) = g.iter + 1 ∧ ((s.core 47).stream i).entries.length < 64 ∧
    ((s.core 47).queue 3).cmds = [] ∧ ((s.core 47).queue 3).run = none ∧ (mk s (s.env 47 3 r) g g.iter { mem := s.mem }).2.good = true ∧
    ∀ j, j ≠ i → Table.has (s.core 47).streams j = false

/-- Slot 15 of core 47 generates for a block. -/
def seq47 (b : BitVec 512) : State := live47 { streams := [(15, { entries := List.replicate 63 ⟨.stride, some 0, false⟩, gen := some (issuedOf b [scratchDesc 0]) })] }

theorem seqRuns {op : Nat} {mk : EntryMaker} (b : BitVec 512) (h : cbOp b = op)
    (hg : (mk (seq47 b) ((seq47 b).env 47 3 runOf47) (issuedOf b [scratchDesc 0]) 0 { mem := (seq47 b).mem }).2.good = true) : SeqRuns op mk := by
  refine ⟨seq47 b, runOf47, { kd := runOf47.kd }, 15, issuedOf b [scratchDesc 0], rfl, by decide, rfl, h, rfl, Nat.lt_succ_self 63, rfl, rfl, hg, ?_⟩
  intro j hj
  show ((15 == j) || false) = false
  simp only [Bool.or_false, beq_eq_false_iff_ne]
  exact fun h => hj h.symm

/-- Core 47 forwards a STK command of one iteration to a sub-queue with one place left. -/
def ForwardRuns (op : Nat) : Prop :=
  ∃ (s : State) (r : CoreRun) (iss : Issued), AtLastIteration s 47 2 op r iss ∧ iss.iter = 0 ∧ ((s.core 47).queue 2).lateFault = none ∧
    s.accepts r.part 14 = true ∧ ((s.engine (stkStack iss.block)).sub 47).length < 32 ∧
    ((s.engine (stkStack iss.block)).sub 47).all (fun x => x.count != ((s.core 47).queue 2).count || x.core != 47) = true ∧
    (s.engine (stkStack iss.block)).active.all (fun a => a.2.cmd.count != ((s.core 47).queue 2).count || a.2.cmd.core != 47) = true ∧
    ((s.engine (stkStack iss.block)).sub 47).all (fun x => x.core == 47) = true ∧
    (boundOps iss.block).length ≤ ((s.core 47).entries iss.block).length

/-- Core 47's DMA queue holds such a command. -/
def forward47 (b : BitVec 512) : State := { live47 { qDma := working b [] } with
  parts := [(0, { accept0 := 2 ^ 14 })], engines := [(15, { subq := [(11, List.replicate 31 ⟨47, 0, 3, 0, 5, issuedOf b [], [], [], true⟩)] })] }

/-- The last work unit of a command in area 3 of stack 15 ends with `P`. -/
def UnitEnds (op : Nat) (prep : Nat → Nat → State → ActiveCmd → State) (total : Nat → Nat → State → ActiveCmd → Option Nat) (f : StkUnit)
    (P : Wk → Prop) : Prop :=
  ∃ (s : State) (a0 a : ActiveCmd), AtLastUnit s (prep 15 3 s a0) 15 3 op a0 a (total 15 3 (prep 15 3 s a0) a) ∧
    P (nextUnit (prep 15 3 s a0) 15 3 a f).2.2

/-- A request for an item of self-test or calibration of P3 in mode 2 is taken. -/
def TestAsked (cal : Bool) (item : Nat) : Prop :=
  ∃ (s : State) (who : Requester) (msg : List Byte) (p : Nat) (k : UnitKind),
    p < 4 ∧ ScalarReaches s who msg (if cal then 0x1A10 else 0x1A00) (1 + p) ∧ MayTest s p cal item (msgValue msg) k ∧
    ((parseMsg msg).payload.headD 0).toNat = item

theorem modeTwo_idle (cal : Bool) : (modeTwo.tu 3 cal).state ≠ 1 ∧ (modeTwo.tu 3 cal).state ≠ 2 ∧ modeTwo.sanitising 3 = false := by
  cases cal <;> decide +kernel

theorem modeTwo_closed : modeTwo.slotOpen 3 = false := by decide +kernel

theorem testAsked {cal : Bool} {item : Nat} (v : Nat) (k : UnitKind)
    (h : reachesB modeTwo port5 (writeOf (if cal then 0x1A10 else 0x1A00) 4 8 v) (if cal then 0x1A10 else 0x1A00) 4
      ⟨if cal then 0x1A10 else 0x1A00, 1, 4, .num 8, .rw, .part⟩ = true)
    (hv : (tqItem (msgValue (writeOf (if cal then 0x1A10 else 0x1A00) 4 8 v)) = item ∧ itemKind cal item = some k) ∧
      (fld (msgValue (writeOf (if cal then 0x1A10 else 0x1A00) 4 8 v)) 63 22 = 0 ∧ fld (msgValue (writeOf (if cal then 0x1A10 else 0x1A00) 4 8 v)) 15 9 = 0) ∧
      unitOk modeTwo.mode 3 k (tqUnit (msgValue (writeOf (if cal then 0x1A10 else 0x1A00) 4 8 v))) = true ∧
      (itemDrainedOnly cal item = true → tqDrained (msgValue (writeOf (if cal then 0x1A10 else 0x1A00) 4 8 v)) = true) ∧
      ((parseMsg (writeOf (if cal then 0x1A10 else 0x1A00) 4 8 v)).payload.length = 8) ∧
      ((parseMsg (writeOf (if cal then 0x1A10 else 0x1A00) 4 8 v)).payload.headD 0).toNat = item) : TestAsked cal item :=
  ⟨modeTwo, port5, writeOf (if cal then 0x1A10 else 0x1A00) 4 8 v, 3, k, by decide, scalarAt _ 8 h ⟨rfl, hv.2.2.2.2.1⟩,
   ⟨hv.1.1, hv.1.2, hv.2.1, modeTwo_idle cal, hv.2.2.1, hv.2.2.2.1, fun _ _ => modeTwo_closed⟩, hv.2.2.2.2.2⟩

/-! ## Witnesses -/

/-- The hypotheses of EveryStepKeepsTheLedger hold somewhere. -/
theorem witness_EveryStepKeepsTheLedger :
  ∃ (s t : State), step s = .next t ∧ ledgerOk s.nv.cairn :=
  ⟨{ State.reset with pending := [.coldStart] }, nextOf (step { State.reset with pending := [.coldStart] }), rfl, reset_ledger⟩

/-- The hypotheses of EveryStepKeepsTheMemoryForm hold somewhere. -/
theorem witness_EveryStepKeepsTheMemoryForm :
  ∃ (s t : State), step s = .next t ∧ Memory.wf s.mem = true :=
  ⟨{ State.reset with pending := [.coldStart] }, nextOf (step { State.reset with pending := [.coldStart] }), rfl, by decide +kernel⟩

/-- The hypotheses of NoCommandUndoesFusesOrOutputs hold somewhere. -/
theorem witness_NoCommandUndoesFusesOrOutputs :
  (∃ (c : Instr) (_s : State), (∀ rail, c ≠ .railFault ⟨rail, true⟩)) ∧
  (∃ (c : Instr) (s t : State), exec c s = .next t) :=
  ⟨⟨.coldStart, live, fun _ h => by cases h⟩,
   ⟨.coldStart, State.reset, nextOf (exec .coldStart State.reset), rfl⟩⟩

/-- The hypotheses of StartBeginsWithNothingKept hold somewhere. -/
theorem witness_StartBeginsWithNothingKept :
  (∃ (s : State), s.start.phase = .held ∧ s.start.railsOk = true) ∧
  (∃ (s : State), s.start.phase = .held ∧ s.start.railsOk = false) ∧
  (∃ (s : State), s.start.phase = .railLow ∧ s.start.railsOk = false) :=
  ⟨⟨State.reset, by decide +kernel⟩,
   ⟨{ State.reset with start := { railsOk := false } }, by decide +kernel⟩,
   ⟨{ State.reset with start := { phase := .railLow, railsOk := false } }, by decide +kernel⟩⟩

/-- The hypotheses of GovernorAfterStart hold somewhere. -/
theorem witness_GovernorAfterStart :
  (∃ (s : State), s.start.phase = .held ∧ s.start.railsOk = true) ∧
  (∃ (s : State), s.start.phase = .railLow ∧ s.start.railsOk = false) ∧
  (∃ (_temps : List Int) (_rails : List (Nat × Nat)) (s : State), s.start.phase = .done 1) ∧
  (∃ (temps : List Int) (rails : List (Nat × Nat)) (s : State) (n : Nat), s.start.phase = .done n ∧ 2 ≤ n ∧ temps.length = 172 ∧ rails.length = 42) :=
  ⟨⟨State.reset, by decide +kernel⟩,
   ⟨{ State.reset with start := { phase := .railLow, railsOk := false } }, by decide +kernel⟩,
   ⟨[], [], inPhase (.done 1), rfl⟩,
   ⟨List.replicate 172 640, List.replicate 42 (800, 100), inPhase (.done 2), 2, by decide +kernel⟩⟩

/-- The hypotheses of StartStagesToConfiguration hold somewhere. -/
theorem witness_StartStagesToConfiguration :
  (∃ (s : State), s.start.phase = .done 1) ∧
  (∃ (s : State), s.start.phase = .done 2 ∧ fwOk s.nv (s.nv.image s.nv.fwActive) = true) ∧
  (∃ (s : State), s.start.phase = .done 2 ∧ fwOk s.nv (s.nv.image s.nv.fwActive) = false ∧ fwOk s.nv (s.nv.image (1 - s.nv.fwActive)) = true) ∧
  (∃ (s : State), s.start.phase = .done 3 ∧ sha256 s.baseBytes = s.nv.base.hash ∧ sha256 s.overlay.bytes = s.overlay.hash) ∧
  (∃ (s : State) (index sub _dflt : Nat), sub < 256 ∧ dictHolds (256 * index + sub) = true ∧ s.start.phase = .done 3 ∧ sha256 s.baseBytes =
   s.nv.base.hash ∧ sha256 s.overlay.bytes = s.overlay.hash ∧ s.dict.defaults = [] ∧ s.dict.vals = []) ∧
  (∃ (s : State), s.start.phase = .done 2 ∧ fwOk s.nv (s.nv.image s.nv.fwActive) = false ∧ fwOk s.nv (s.nv.image (1 - s.nv.fwActive)) = false) ∧
  (∃ (s : State), s.start.phase = .done 3 ∧ (sha256 s.baseBytes ≠ s.nv.base.hash ∨ sha256 s.overlay.bytes ≠ s.overlay.hash)) :=
  ⟨⟨inPhase (.done 1), rfl⟩,
   ⟨fwState (.done 2) 0, rfl, test_image_verifies⟩,
   ⟨fwState (.done 2) 1, rfl, by decide +kernel, test_image_verifies⟩,
   ⟨(inPhase (.done 3)).sealBase, rfl, sealed_base, by decide +kernel⟩,
   ⟨(inPhase (.done 3)).sealBase, 0x1D00, 255, 0, by decide, by decide, rfl, sealed_base, by decide +kernel⟩,
   ⟨inPhase (.done 2), by decide +kernel⟩,
   ⟨{ inPhase (.done 3) with nv := { State.reset.nv with overlays := [(0, { hash := [] })] } }, rfl, .inr (by decide +kernel)⟩⟩

/-- The hypotheses of StartTrainingToStartOk hold somewhere. -/
theorem witness_StartTrainingToStartOk :
  (∃ (s : State) (_down : Nat) (_lanes : List (Nat × Nat)), s.start.phase = .done 4) ∧
  (∃ (s : State) (_failed : Nat), s.start.phase = .done 5) ∧
  (∃ (s : State), s.start.phase = .done 8 ∧ s.start.shutdownHeld = false ∧ s.nv.cairn.length < cairnSlots) :=
  ⟨⟨inPhase (.done 4), 0xFFFF, [(15, 31)], rfl⟩,
   ⟨inPhase (.done 5), 0x3FFF, rfl⟩,
   ⟨inPhase (.done 8), by decide +kernel⟩⟩

/-- The hypotheses of RailsResetAndPllLossHoldTheDies hold somewhere. -/
theorem witness_RailsResetAndPllLossHoldTheDies :
  (∃ (s : State) (_rail : Nat), s.start.phase.runs = true ∧ s.start.resetN = true) ∧
  (∃ (s : State), s.start.phase.runs = true ∧ s.start.resetN = true) ∧
  (∃ (s : State) (d : Nat), s.start.phase = .live ∧ d < 8 ∧ s.nv.cairn.length < cairnSlots) ∧
  (∃ (s : State), s.start.phase = .live ∧ s.dict.flash = none) :=
  ⟨⟨live, 5, by decide +kernel⟩,
   ⟨live, by decide +kernel⟩,
   ⟨live, 7, by decide +kernel⟩,
   ⟨live, by decide +kernel⟩⟩

/-- The hypotheses of OrderlyShutdown hold somewhere. -/
theorem witness_OrderlyShutdown :
  (∃ (s : State), s.start.phase = .live) ∧
  (∃ (s : State) (n : Nat), s.start.phase = .done n) ∧
  (∃ (s : State), s.start.phase = .stopped) ∧
  (∃ (s : State), s.start.phase = .stopping ∧ s.nv.cairn.length < cairnSlots) :=
  ⟨⟨live, rfl⟩,
   ⟨inPhase (.done 8), 8, rfl⟩,
   ⟨inPhase .stopped, rfl⟩,
   ⟨inPhase .stopping, by decide +kernel⟩⟩

/-- The hypotheses of HousekeepingRoundsAndTrips hold somewhere. -/
theorem witness_HousekeepingRoundsAndTrips :
  (∃ (temps : List Int) (rails : List (Nat × Nat)) (s : State), s.start.phase = .live ∧ temps.length = 172 ∧ rails.length = 42 ∧ tripping
   ((List.range 172).map (effectiveOf temps (suspectsAfter s temps))) = none ∧ s.power.nA ≤ 31 ∧ s.power.nS ≤ 31 ∧ (∀ d, Table.get 0 s.power.tA d ≤
   31 ∧ Table.get 0 s.power.tS d ≤ 31)) ∧
  (∃ (temps : List Int) (rails : List (Nat × Nat)) (s : State) (n : Nat), s.start.phase = .live ∧ temps.length = 172 ∧ rails.length = 42 ∧ tripping
   ((List.range 172).map (effectiveOf temps (suspectsAfter s temps))) = some n ∧ s.nv.cairn.length < cairnSlots ∧ s.dict.flash = none) :=
  ⟨⟨List.replicate 172 640, List.replicate 42 (800, 100), { live with power := { nA := 31, nS := 31 } }, rfl, by decide +kernel, by decide +kernel,
    by decide +kernel, by decide +kernel, by decide +kernel, fun _ => ⟨Nat.zero_le _, Nat.zero_le _⟩⟩,
   ⟨List.replicate 172 1760, List.replicate 42 (800, 100), live, 0, by decide +kernel⟩⟩

/-- The hypotheses of ClassSStepSetsTheDroguePause hold somewhere. -/
theorem witness_ClassSStepSetsTheDroguePause :
  ∃ (temps : List Int) (rails : List (Nat × Nat)) (s : State), s.start.phase = .live ∧ temps.length = 172 ∧ rails.length = 42 ∧ tripping ((List.range
   172).map (effectiveOf temps (suspectsAfter s temps))) = none ∧ s.power.nA ≤ 31 ∧ s.power.nS ≤ 31 ∧ (∀ d, Table.get 0 s.power.tA d ≤ 31 ∧ Table.get
   0 s.power.tS d ≤ 31) :=
  ⟨List.replicate 172 640, List.replicate 42 (800, 100), { live with power := { nA := 31, nS := 31 } }, rfl, by decide +kernel, by decide +kernel,
   by decide +kernel, by decide +kernel, by decide +kernel, fun _ => ⟨Nat.zero_le _, Nat.zero_le _⟩⟩

/-- The hypotheses of WindowsPausesAndIntervals hold somewhere. -/
theorem witness_WindowsPausesAndIntervals :
  (∃ (s : State) (d amps : Nat), s.start.phase = .live ∧ d < 4 ∧ Table.has s.power.limit d = true ∧ Table.get 0 s.power.limit d < 32 * amps) ∧
  (∃ (s : State) (d amps : Nat), s.start.phase = .live ∧ d < 4 ∧ 32 * amps ≤ s.limitA d) ∧
  (∃ (s : State) (k : Nat), k < 16 ∧ (s.engine k).pauseOver = false) ∧
  (∃ (s : State), s.start.phase = .live ∧ 8192 < s.cairnFree) ∧
  (∃ (s : State), s.start.phase = .live ∧ s.cairnFree ≤ 8192) :=
  ⟨⟨{ live with power := { limit := [(3, 32)] } }, 3, 2, by decide +kernel⟩,
   ⟨{ live with power := { limit := [(3, 64)] } }, 3, 2, by decide +kernel⟩,
   ⟨liveEngine 15 { pauseOver := false }, 15, by decide +kernel⟩,
   ⟨live, by decide +kernel⟩,
   ⟨liveLedger 1040384, rfl, by rw [liveLedger_free]⟩⟩

/-- The hypotheses of FabricPortTraining hold somewhere. -/
theorem witness_FabricPortTraining :
  (∃ (s : State) (q : Nat), s.fabricOn = true ∧ q < 8 ∧ (s.port q).testPiece = false ∧ (s.port q).en = true ∧ (s.port q).state = .down) ∧
  (∃ (s : State) (q : Nat), (s.port q).state = .training ∧ NoPortRequest s q) ∧
  (∃ (s : State) (q : Nat) (cal : Bool), (s.port q).state = .training ∧ NoTestHolds s ∧ (s.tu (partOfPort s.mode q) cal).state = 1 ∧
   tqItem (s.tu (partOfPort s.mode q) cal).request = (if cal then 4 else 9) ∧ tqUnit (s.tu (partOfPort s.mode q) cal).request = q) ∧
  (∃ (s : State) (q node _peer _role : Nat), (s.port q).state = .training ∧ node % 2 ^ 13 ≠ s.node (partOfPort s.mode q)) ∧
  (∃ (s : State) (q node _peer _role : Nat), (s.port q).state = .training ∧ NoPortRequest s q ∧ node % 2 ^ 13 = s.node (partOfPort s.mode q)) :=
  ⟨⟨live, 7, by decide +kernel⟩,
   ⟨livePort 7 { state := .training }, 7, rfl, rfl, rfl⟩,
   ⟨{ livePort 7 { state := .training } with parts := [(0, { cal := { state := 1, request := 4 + 2 ^ 16 * 7 } })] }, 7, true, rfl,
    noTests (by decide +kernel), by decide +kernel⟩,
   ⟨livePort 7 { state := .training }, 7, 8191, 7, 3, by decide +kernel⟩,
   ⟨livePort 7 { state := .training }, 7, 0, 0, 0, rfl, ⟨rfl, rfl⟩, by decide +kernel⟩⟩

/-- The hypotheses of FlitsCarrySequenceAndKeepOrder hold somewhere. -/
theorem witness_FlitsCarrySequenceAndKeepOrder :
  (∃ (s : State) (q : Nat) (f : BitVec 2048) (rest : List (BitVec 2048)), s.portUp q = true ∧ (s.port q).resend = f :: rest) ∧
  (∃ (s : State) (q : Nat), s.portUp q = true ∧ (s.port q).resend = [] ∧ (s.port q).txSeq < 4096 ∧ (s.port q).rxSeq < 4096) ∧
  (∃ (s : State) (q : Nat) (ok : Bool) (f : BitVec 2048), s.portUp q = true ∧ (ok && flitCrcOk f) = false) ∧
  (∃ (s : State) (q : Nat) (f : BitVec 2048), s.portUp q = true ∧ flitCrcOk f = true ∧ f.toNat.testBit 24 = false ∧ f.toNat.testBit 25 = true ∧ fld
   f.toNat 11 0 = ((s.port q).rxSeq + 1) % 4096) ∧
  (∃ (s : State) (q : Nat) (f : BitVec 2048), s.portUp q = true ∧ flitCrcOk f = true ∧ f.toNat.testBit 24 = false ∧ f.toNat.testBit 25 = false ∧ fld
   f.toNat 11 0 = ((s.port q).rxSeq + 1) % 4096) ∧
  (∃ (s : State) (q : Nat) (f : BitVec 2048), s.portUp q = true ∧ flitCrcOk f = true ∧ f.toNat.testBit 24 = false ∧ 2048 ≤ (fld f.toNat 11 0 + 4096 -
   ((s.port q).rxSeq + 1) % 4096) % 4096) ∧
  (∃ (s : State) (q : Nat) (f : BitVec 2048), s.portUp q = true ∧ flitCrcOk f = true ∧ f.toNat.testBit 24 = false ∧ 0 < (fld f.toNat 11 0 + 4096 -
   ((s.port q).rxSeq + 1) % 4096) % 4096 ∧ (fld f.toNat 11 0 + 4096 - ((s.port q).rxSeq + 1) % 4096) % 4096 < 2048) ∧
  (∃ (pt : Port) (a : Nat) (f : BitVec 2048) (l r : List (Nat × BitVec 2048)), pt.replay = l ++ (a, f) :: r ∧ ∀ x ∈ l, x.1 ≠ a) ∧
  (∃ (s : State) (q : Nat) (f : BitVec 2048), s.portUp q = true ∧ flitCrcOk f = true ∧ f.toNat.testBit 24 = true ∧ ((s.port q).ack (fld f.toNat 23
   12)).replay ≠ [] ∧ ((s.port q).ack (fld f.toNat 23 12)).stuck < 15) ∧
  (∃ (s : State) (q : Nat) (f : BitVec 2048), s.portUp q = true ∧ flitCrcOk f = true ∧ f.toNat.testBit 24 = true ∧ ((s.port q).ack (fld f.toNat 23
   12)).replay = []) ∧
  (∃ (s : State) (q : Nat) (f : BitVec 2048), s.portUp q = true ∧ flitCrcOk f = true ∧ f.toNat.testBit 24 = true ∧ ((s.port q).ack (fld f.toNat 23
   12)).replay ≠ [] ∧ 15 ≤ ((s.port q).ack (fld f.toNat 23 12)).stuck ∧ NoTestHolds s) ∧
  (∃ (s : State) (q : Nat), s.portUp q = true ∧ (s.port q).replay ≠ [] ∧ (s.port q).stuck < 15) ∧
  (∃ (s : State) (q : Nat), s.portUp q = true ∧ (s.port q).replay ≠ [] ∧ 15 ≤ (s.port q).stuck ∧ NoTestHolds s) ∧
  (∃ (s : State) (q : Nat), s.portUp q = true ∧ NoTestHolds s) :=
  ⟨⟨livePort 7 { state := .up, resend := [0] }, 7, 0, [], by decide +kernel⟩,
   ⟨livePort 7 { state := .up, txSeq := 4095 }, 7, by decide +kernel⟩,
   ⟨livePort 7 { state := .up }, 7, false, 0, by decide +kernel⟩,
   ⟨livePort 7 { state := .up }, 7, peerFlit 0 true, by decide +kernel⟩,
   ⟨livePort 7 { state := .up }, 7, peerFlit 0 false, by decide +kernel⟩,
   ⟨livePort 7 { state := .up }, 7, peerFlit 2048 false, by decide +kernel⟩,
   ⟨livePort 7 { state := .up }, 7, peerFlit 2047 false, by decide +kernel⟩,
   ⟨{ replay := [(4095, 0), (0, 1), (1, 2)] }, 0, 1, [(4095, 0)], [(1, 2)], by decide +kernel⟩,
   ⟨livePort 7 { state := .up, replay := [(0, 0)], stuck := 14 }, 7, nakFlit, by decide +kernel⟩,
   ⟨livePort 7 { state := .up, replay := [(4095, 0)] }, 7, nakFlit, by decide +kernel⟩,
   ⟨livePort 7 { state := .up, replay := [(0, 0)], stuck := 15 }, 7, nakFlit, by decide +kernel, by decide +kernel, by decide +kernel,
    by decide +kernel, by decide +kernel, noTests (by decide +kernel)⟩,
   ⟨livePort 7 { state := .up, replay := [(0, 0)], stuck := 14 }, 7, by decide +kernel⟩,
   ⟨livePort 7 { state := .up, replay := [(0, 0)], stuck := 15 }, 7, by decide +kernel, by decide +kernel, by decide +kernel, noTests
    (by decide +kernel)⟩,
   ⟨livePort 7 { state := .up }, 7, by decide +kernel, noTests (by decide +kernel)⟩⟩

/-- The hypotheses of RemoteRequestsAreServedOrRefused hold somewhere. -/
theorem witness_RemoteRequestsAreServedOrRefused :
  (∃ (s : State) (q : Nat) (o : FabOp) (rest : List FabOp), (s.port q).firstOf 0 = some (o, rest) ∧ o.op = opREAD ∧ s.remoteOk (partOfPort s.mode q)
   o = true ∧ NoTestHolds s ∧ (Wk.read (s.partEnv (partOfPort s.mode q)) { mem := s.mem } (64 * o.line) (64 * (o.lines + 1))).2.good = true) ∧
  (∃ (s : State) (q : Nat) (o : FabOp) (rest : List FabOp), (s.port q).firstOf 0 = some (o, rest) ∧ o.op = opWRITE ∧ s.remoteOk (partOfPort s.mode q)
   o = true ∧ NoTestHolds s ∧ (Wk.commit (s.partEnv (partOfPort s.mode q)) { mem := s.mem } o.writes).good = true ∧ (Wk.commit (s.partEnv (partOfPort
   s.mode q)) { mem := s.mem } o.writes).late = none) ∧
  (∃ (s : State) (q : Nat) (o : FabOp) (rest : List FabOp), (s.port q).firstOf 0 = some (o, rest) ∧ s.remoteOk (partOfPort s.mode q) o = false ∧ o.op
   = opREAD) ∧
  (∃ (s : State) (q : Nat) (o : FabOp) (rest : List FabOp), (s.port q).firstOf 0 = some (o, rest) ∧ s.remoteOk (partOfPort s.mode q) o = false ∧ o.op
   = opWRITE) :=
  ⟨⟨received (fromNode9 opREAD 0 1023) { accept0 := 2 ^ 9 }, 7, fromNode9 opREAD 0 1023, [], by decide +kernel, rfl, by decide +kernel, noTests
    (by decide +kernel), by decide +kernel⟩,
   ⟨received (fromNode9 opWRITE 0 0) { accept0 := 2 ^ 9 }, 7, fromNode9 opWRITE 0 0, [], by decide +kernel, rfl, by decide +kernel, noTests
    (by decide +kernel), by decide +kernel⟩,
   ⟨received (fromNode9 opREAD 0 (2 ^ 34)) { accept0 := 2 ^ 9 }, 7, fromNode9 opREAD 0 (2 ^ 34), [], by decide +kernel⟩,
   ⟨received (fromNode9 opWRITE 0 0) {}, 7, fromNode9 opWRITE 0 0, [], by decide +kernel⟩⟩

/-- The hypotheses of AnswersReachTheQueueThatWaits hold somewhere. -/
theorem witness_AnswersReachTheQueueThatWaits :
  (∃ (s : State) (q : Nat) (o : FabOp) (rest : List FabOp) (r : OutReq), (s.port q).firstOf 1 = some (o, rest) ∧ o.op = opREADRSP ∧ (s.part
   (partOfPort s.mode q)).outstanding.find? (fun x => x.1 == o.tag) = some (o.tag, r) ∧ r.write = false ∧ NoBacklog s) ∧
  (∃ (s : State) (q : Nat) (o : FabOp) (rest : List FabOp) (r : OutReq), (s.port q).firstOf 1 = some (o, rest) ∧ o.op = opWRITEACK ∧ (s.part
   (partOfPort s.mode q)).outstanding.find? (fun x => x.1 == o.tag) = some (o.tag, r) ∧ r.write = true ∧ NoBacklog s ∧ fld o.line 15 0 = 0) ∧
  (∃ (s : State) (q : Nat) (o : FabOp) (rest : List FabOp) (r : OutReq), (s.port q).firstOf 1 = some (o, rest) ∧ o.op = opWRITEACK ∧ (s.part
   (partOfPort s.mode q)).outstanding.find? (fun x => x.1 == o.tag) = some (o.tag, r) ∧ r.write = true ∧ NoBacklog s ∧ fld o.line 15 0 ≠ 0 ∧ ((s.core
   r.core).queue r.queue).lateFault = none) ∧
  (∃ (_s : State) (v : Nat), v = 0) ∧
  (∃ (_s : State) (v : Nat), v ≠ 0) ∧
  (∃ (s : State) (p tag : Nat) (r : OutReq), (s.part p).outstanding.find? (fun x => x.1 == tag) = some (tag, r) ∧ NoBacklog s ∧ r.write = false) ∧
  (∃ (s : State) (p tag : Nat) (r : OutReq), (s.part p).outstanding.find? (fun x => x.1 == tag) = some (tag, r) ∧ NoBacklog s ∧ r.write = true ∧
   ((s.core r.core).queue r.queue).lateFault = none) :=
  ⟨⟨received (fromNode9 opREADRSP 1 0) { outstanding := [(7, ⟨47, 2, 2 ^ 38 * 9, 1, 7, false, 3, 4⟩)] }, 7, fromNode9 opREADRSP 1 0, [], ⟨47, 2, 2 ^
    38 * 9, 1, 7, false, 3, 4⟩, by decide +kernel, rfl, by decide +kernel, rfl, noBacklog rfl⟩,
   ⟨received (fromNode9 opWRITEACK 1 0) { outstanding := [(7, ⟨47, 2, 2 ^ 38 * 9, 1, 7, true, 3, 4⟩)] }, 7, fromNode9 opWRITEACK 1 0, [], ⟨47, 2, 2 ^
    38 * 9, 1, 7, true, 3, 4⟩, by decide +kernel, rfl, by decide +kernel, rfl, noBacklog rfl, by decide +kernel⟩,
   ⟨received (fromNode9 opWRITEACK 1 0x0401) { outstanding := [(7, ⟨47, 2, 2 ^ 38 * 9, 1, 7, true, 3, 4⟩)] }, 7, fromNode9 opWRITEACK 1 0x0401, [],
    ⟨47, 2, 2 ^ 38 * 9, 1, 7, true, 3, 4⟩, by decide +kernel, rfl, by decide +kernel, rfl, noBacklog rfl, by decide +kernel⟩,
   ⟨live, 0, rfl⟩,
   ⟨live, 1, by decide⟩,
   ⟨livePart { outstanding := [(7, ⟨47, 2, 2 ^ 38 * 9, 1, 7, false, 3, 4⟩)] }, 0, 7, ⟨47, 2, 2 ^ 38 * 9, 1, 7, false, 3, 4⟩, by decide +kernel,
    noBacklog rfl, rfl⟩,
   ⟨livePart { outstanding := [(7, ⟨47, 2, 2 ^ 38 * 9, 1, 7, true, 3, 4⟩)] }, 0, 7, ⟨47, 2, 2 ^ 38 * 9, 1, 7, true, 3, 4⟩, by decide +kernel,
    noBacklog rfl, by decide +kernel⟩⟩

/-- The hypotheses of RopeRoundsFollowTheNeighbours hold somewhere. -/
theorem witness_RopeRoundsFollowTheNeighbours :
  (∃ (s u : State) (q : Nat) (o : FabOp), s.takeControl q opENDED = some (u, o) ∧ u.ropeOn (partOfPort s.mode q) = true) ∧
  (∃ (s u : State) (q : Nat) (o : FabOp), s.takeControl q opABORT = some (u, o) ∧ u.ropeOn (partOfPort s.mode q) = true) ∧
  (∃ (s : State) (p : Nat), s.kernelDue p = true ∧ s.ropeOn p = true ∧ (s.part p).rope.abandoned = false ∧ ((s.part p).rope.round = 0 ∨ ((s.part
   p).rope.round ≤ (s.part p).rope.ownEnded ∧ 1 ≤ Table.get 0 (s.part p).rope.prevEnded ((s.part p).rope.round - 1) ∧ 1 ≤ Table.get 0 (s.part
   p).rope.nextEnded ((s.part p).rope.round - 1))) ∧ (Wk.read (s.partEnv p) { mem := s.mem } ((s.part p).kaddr + 64 * (s.part p).kidx) 64).2.good =
   true) :=
  ⟨⟨received (fromNode9 opENDED 2 1) { accept0 := 2 ^ 6, ropecfg := 2 ^ 63 + 2 ^ 16 * 9 + 9 }, (received (fromNode9 opENDED 2 1)
    { accept0 := 2 ^ 6, ropecfg := 2 ^ 63 + 2 ^ 16 * 9 + 9 }).updPort 7 (fun q => { q with arrived := [] }), 7, fromNode9 opENDED 2 1, rfl,
    by decide +kernel⟩,
   ⟨received (fromNode9 opABORT 2 1) { accept0 := 2 ^ 6, ropecfg := 2 ^ 63 + 2 ^ 16 * 9 + 9 }, (received (fromNode9 opABORT 2 1)
    { accept0 := 2 ^ 6, ropecfg := 2 ^ 63 + 2 ^ 16 * 9 + 9 }).updPort 7 (fun q => { q with arrived := [] }), 7, fromNode9 opABORT 2 1, rfl,
    by decide +kernel⟩,
   ⟨{ livePart { accept0 := 2 ^ 6, ropecfg := 2 ^ 63 + 2 ^ 16 * 9 + 9, phase := .running, klist := 2 ^ 52, rope := { round := 1, ownEnded := 1, prevEnded := [(0, 1)], nextEnded := [(0, 1)] } } with
     mem := { stk := [(0, { fills := [⟨0, 4096, 0⟩] })] } }, 0, by decide +kernel⟩⟩

/-- The hypotheses of FunctionsAreDisabledAndEnabled hold somewhere. -/
theorem witness_FunctionsAreDisabledAndEnabled :
  (∃ (s : State) (fn : Nat), s.cfgReach fn = true ∧ (s.func fn).quiescing = false ∧ NoBoundary s (funcPart fn)) ∧
  (∃ (s : State) (fn : Nat), s.cfgReach fn = true ∧ (s.func fn).d3hot = false ∧ (s.func fn).quiescing = false ∧ NoBoundary s (funcPart fn)) ∧
  (∃ (s : State) (fn : Nat), s.cfgReach fn = true ∧ funcVf fn = 0 ∧ NoBoundary s (funcPart fn)) ∧
  (∃ (s : State) (fn : Nat), s.cfgReach fn = true ∧ (s.func fn).d3hot = false ∧ (s.func fn).disabled = true) ∧
  (∃ (s : State) (fn : Nat), s.cfgReach fn = true ∧ (s.func fn).d3hot = true ∧ (s.func fn).disabled = true) ∧
  (∃ (s : State) (fn v : Nat), s.isLive = true ∧ (s.func fn).disabled = false ∧ (v < 3 → (s.func fn).ctl.testBit v = true)) ∧
  (∃ (s : State) (fn v : Nat), s.isLive = true ∧ ((s.func fn).disabled = true ∨ (v < 3 ∧ (s.func fn).ctl.testBit v = false))) :=
  ⟨⟨live, 124, by decide +kernel, by decide +kernel, ⟨rfl, rfl, .inr ⟨rfl, rfl, rfl, rfl⟩⟩⟩,
   ⟨live, 124, by decide +kernel, by decide +kernel, by decide +kernel, ⟨rfl, rfl, .inr ⟨rfl, rfl, rfl, rfl⟩⟩⟩,
   ⟨live, 0, by decide +kernel, by decide +kernel, ⟨rfl, rfl, .inr ⟨rfl, rfl, rfl, rfl⟩⟩⟩,
   ⟨liveFunc 124 { disabled := true }, 124, by decide +kernel⟩,
   ⟨liveFunc 124 { disabled := true, d3hot := true }, 124, by decide +kernel⟩,
   ⟨liveFunc 124 { ctl := 4 }, 124, 2, by decide +kernel, by decide +kernel, fun _ => by decide +kernel⟩,
   ⟨live, 124, 2, by decide +kernel, .inr (by decide +kernel)⟩⟩

/-- The hypotheses of CxlLinkAndPerst hold somewhere. -/
theorem witness_CxlLinkAndPerst :
  (∃ (s : State) (w : Nat), s.linkOn = true ∧ s.host.link = .training ∧ (w = 4 ∨ w = 8 ∨ w = 16)) ∧
  (∃ (s : State), s.linkOn = true ∧ s.host.link = .training) ∧
  (∃ (s : State), s.linkOn = true ∧ s.host.link = .down) ∧
  (∃ (s : State), s.host.link = .up ∧ s.host.waits = [] ∧ (∀ p, NoBoundary s p)) ∧
  (∃ (s : State), s.host.waits = [] ∧ s.start.phase.runs = false ∧ s.host.link = .down) ∧
  (∃ (s : State), s.host.waits = [] ∧ s.start.phase.runs = true ∧ (∀ p, NoBoundary s p) ∧ s.host.link ≠ .down) ∧
  (∃ (s : State), s.start.perstN = false ∧ s.start.phase = .live) :=
  ⟨⟨{ live with host := { link := .training } }, 16, by decide +kernel⟩,
   ⟨{ live with host := { link := .training } }, by decide +kernel⟩,
   ⟨{ live with host := { link := .down } }, by decide +kernel⟩,
   ⟨live, rfl, rfl, fun _ => ⟨rfl, rfl, .inr ⟨rfl, rfl, rfl, rfl⟩⟩⟩,
   ⟨State.reset, rfl, rfl, rfl⟩,
   ⟨{ inPhase .stopping with host := { link := .up } }, rfl, rfl, fun _ => ⟨rfl, rfl, .inr ⟨rfl, rfl, rfl, rfl⟩⟩, by decide +kernel⟩,
   ⟨{ live with start := { phase := .live, resetN := true, perstN := false } }, by decide +kernel⟩⟩

/-- The hypotheses of SerialNumberIsTheMacEui64 hold somewhere. -/
theorem witness_SerialNumberIsTheMacEui64 :
  (∃ (a b : Nat), a < 2 ^ 48 ∧ b < 2 ^ 48 ∧ dsnOf a = dsnOf b) ∧
  (∃ (s : State) (fn : Nat), s.host.link = .up ∧ s.isLive = true ∧ s.hasFunc fn = true ∧ funcVf fn = 0) :=
  ⟨⟨2 ^ 48 - 1, 2 ^ 48 - 1, by decide +kernel⟩,
   ⟨live, 0, by decide +kernel⟩⟩

/-- The hypotheses of ConfigurationAndMailboxes hold somewhere. -/
theorem witness_ConfigurationAndMailboxes :
  (∃ (s : State) (_fn _reg : Nat), s.host.link = .up ∧ s.pastNine = false) ∧
  (∃ (s : State) (fn : Nat), s.host.link = .up ∧ s.isLive = true ∧ s.hasFunc fn = true) ∧
  (∃ (s : State) (base size : Nat), s.hostReach 0 = true ∧ size ≤ stackSpan s.mode ∧ base % 2 ^ 28 = 0 ∧ size % 2 ^ 28 = 0) ∧
  (∃ (s : State) (_base size iw : Nat), s.hostReach 0 = true ∧ (iw ≠ 1 ∨ stackSpan s.mode < size)) ∧
  (∃ (s : State) (_msg : List Byte) (_m _io : Bool), s.hostReach 0 = true ∧ (∃ k, (Requester.mailbox 0, k) ∈ s.sec.sessions)) ∧
  (∃ (s : State) (fn i : Nat), s.reachPf fn = true ∧ i < 4) ∧
  (∃ (s : State), s.hostReach 0 = true) ∧
  (∃ (s : State) (_hpa : Nat), s.host.link = .up) :=
  ⟨⟨{ inPhase (.done 8) with host := { link := .up } }, 0, 0, by decide +kernel⟩,
   ⟨live, 124, by decide +kernel⟩,
   ⟨live, 0, 2 ^ 40, by decide +kernel⟩,
   ⟨live, 0, 2 ^ 40 + 2 ^ 28, 1, by decide +kernel⟩,
   ⟨{ live with sec := { sessions := [(.mailbox 0, 1)] } }, [], true, true, by decide +kernel, ⟨1, by decide +kernel⟩⟩,
   ⟨live, 0, 3, by decide +kernel⟩,
   ⟨live, by decide +kernel⟩,
   ⟨live, 0, by decide +kernel⟩⟩

/-- The hypotheses of CxlMemAndBackInvalidation hold somewhere. -/
theorem witness_CxlMemAndBackInvalidation :
  (∃ (s : State) (hpa k l : Nat) (_tracked : Bool) (bs : List Byte), s.inWindow hpa = true ∧ s.lineOfP0 ((hpa - s.host.hdmBase) / 64) = some (k, l) ∧
   NoTestHolds s ∧ (s.mem.stack k).closed false l = false ∧ (s.host.filter.contains ((hpa - s.host.hdmBase) / 64) = true ∨ s.host.filter.length <
   524288) ∧ (s.mem.readLine s.start.periods s.threshold k l).2 = .ok bs) ∧
  (∃ (s : State) (hpa : Nat) (_tracked : Bool), s.inWindow hpa = true ∧ s.lineOfP0 ((hpa - s.host.hdmBase) / 64) = none) ∧
  (∃ (s : State) (hpa k l : Nat), s.inWindow hpa = true ∧ s.lineOfP0 ((hpa - s.host.hdmBase) / 64) = some (k, l) ∧ (s.mem.stack k).closed false l =
   false ∧ s.host.filter.contains ((hpa - s.host.hdmBase) / 64) = false ∧ 524288 ≤ s.host.filter.length) ∧
  (∃ (s : State) (hpa k l : Nat) (_data : BitVec 512), s.inWindow hpa = true ∧ s.lineOfP0 ((hpa - s.host.hdmBase) / 64) = some (k, l) ∧ NoTestHolds s
   ∧ (s.mem.stack k).closed false l = false) ∧
  (∃ (s : State) (hpa : Nat) (_data : BitVec 512), s.inWindow hpa = true ∧ s.lineOfP0 ((hpa - s.host.hdmBase) / 64) = none) ∧
  (∃ (s : State) (line : Nat), NoBoundary s 0 ∧ s.host.waits = [] ∧ s.host.snoops.find? (fun x => x.1 == line) = some (line, true)) ∧
  (∃ (s : State) (line : Nat), NoBoundary s 0 ∧ s.host.waits = [] ∧ s.host.snoops.find? (fun x => x.1 == line) = some (line, false) ∧
   s.host.granted.contains line = false) ∧
  (∃ (s : State) (line k l : Nat) (_d : BitVec 512), NoBoundary s 0 ∧ NoTestHolds s ∧ s.host.waits = [] ∧ s.host.snoops.find? (fun x => x.1 == line)
   = some (line, true) ∧ s.lineOfP0 line = some (k, l) ∧ lineClosed (s.partEnv 0) s.mem (64 * line) = false) :=
  ⟨⟨{ live with host := { link := .up, hdmOn := true, hdmSize := 2 ^ 40 }, mem := { stk := [(0, { fills := [⟨0, 4096, 0⟩] })] } }, 0, 0, 0, true,
    List.replicate 64 0, by decide +kernel, by decide +kernel, noTests (by decide +kernel), by decide +kernel⟩,
   ⟨{ live with host := { link := .up, hdmOn := true, hdmSize := 2 ^ 40 }, mem := { stk := [(0, { fills := [⟨0, 4096, 0⟩] }), (15, { applied := 1 })] } },
    2 ^ 40 - 64, true, by decide +kernel⟩,
   ⟨liveFilter 524288, 0, 0, 0, by decide +kernel, by decide +kernel, by decide +kernel, liveFilter_misses 524288, liveFilter_length 524288⟩,
   ⟨{ live with host := { link := .up, hdmOn := true, hdmSize := 2 ^ 40 }, mem := { stk := [(0, { fills := [⟨0, 4096, 0⟩] })] } }, 0, 0, 0, 0,
    by decide +kernel, by decide +kernel, noTests (by decide +kernel), by decide +kernel⟩,
   ⟨{ live with host := { link := .up, hdmOn := true, hdmSize := 2 ^ 40 }, mem := { stk := [(0, { fills := [⟨0, 4096, 0⟩] }), (15, { applied := 1 })] } },
    2 ^ 40 - 64, 0, by decide +kernel⟩,
   ⟨{ live with host := { link := .up, snoops := [(5, true)] } }, 5, ⟨rfl, rfl, .inr ⟨rfl, rfl, rfl, rfl⟩⟩, rfl, by decide +kernel⟩,
   ⟨{ live with host := { link := .up, snoops := [(5, false)] } }, 5, ⟨rfl, rfl, .inr ⟨rfl, rfl, rfl, rfl⟩⟩, rfl, by decide +kernel⟩,
   ⟨{ live with host := { link := .up, snoops := [(0, true)] } }, 0, 0, 0, 0, ⟨rfl, rfl, .inr ⟨rfl, rfl, rfl, rfl⟩⟩, noTests (by decide +kernel),
    rfl, by decide +kernel⟩⟩

/-- The hypotheses of HostBarAccesses hold somewhere. -/
theorem witness_HostBarAccesses :
  (∃ (s : State) (fn bar offset len : Nat), s.host.link = .up ∧ 0 < len ∧ s.barHit fn bar offset len = false) ∧
  (∃ (s : State) (fn bar offset : Nat) (data : List Byte), s.host.link = .up ∧ data ≠ [] ∧ s.barHit fn bar offset data.length = false) ∧
  (∃ (s : State) (fn offset : Nat) (data : List Byte), s.host.link = .up ∧ data.length = 8 ∧ offset % 8 = 0 ∧ s.barHit fn 0 offset 8 = true) ∧
  (∃ (s : State) (fn offset : Nat) (data : List Byte), s.host.link = .up ∧ data ≠ [] ∧ s.barHit fn 4 offset data.length = true ∧ s.behind fn = false ∧
   s.bar4Addr fn offset data.length = none ∧ (s.func fn).holes < 65535) ∧
  (∃ (s : State) (fn offset len : Nat), s.host.link = .up ∧ 0 < len ∧ s.barHit fn 0 offset len = true ∧ s.behind fn = false) ∧
  (∃ (s : State) (fn offset len : Nat), s.host.link = .up ∧ 0 < len ∧ s.barHit fn 2 offset len = true ∧ s.behind fn = false ∧
   s.sanitising (funcPart fn) = false) ∧
  (∃ (s : State) (fn offset len : Nat), s.host.link = .up ∧ 0 < len ∧ s.barHit fn 4 offset len = true ∧ s.behind fn = false ∧ s.bar4Addr fn offset
   len = none ∧ (s.func fn).holes < 65535) ∧
  (∃ (s : State) (fn offset a k off : Nat) (bs : List Byte), s.host.link = .up ∧ s.barHit fn 4 offset 64 = true ∧ s.behind fn = false ∧ s.bar4Addr fn offset 64 = some a ∧
   a % 64 = 0 ∧ (s.partEnv (funcPart fn)).place s.mem a = .stack k off ∧ (s.mem.stack k).closed false (off / 64) = false ∧ NoTestHolds s ∧
   (s.mem.readLine s.start.periods s.threshold k (off / 64)).2 = .ok bs ∧ bs.length = 64) ∧
  (∃ (s : State) (fn offset a k off : Nat) (data : List Byte), s.host.link = .up ∧ data.length = 64 ∧ s.barHit fn 4 offset 64 = true ∧ s.behind fn =
   false ∧ s.bar4Addr fn offset 64 = some a ∧ a % 64 = 0 ∧ (s.partEnv (funcPart fn)).place s.mem a = .stack k off ∧ (s.mem.stack k).closed false (off / 64) = false ∧
   (s.partEnv (funcPart fn)).hostHolds (a / 64) = false ∧ NoTestHolds s) ∧
  (∃ (s : State) (fn offset a : Nat) (data : List Byte), s.host.link = .up ∧ data.length = 64 ∧ s.barHit fn 4 offset 64 = true ∧ s.behind fn = false ∧
   s.bar4Addr fn offset 64 = some a ∧ a % 64 = 0 ∧ (s.partEnv (funcPart fn)).hostHolds (a / 64) = true) ∧
  (∃ (s : State) (fn bar offset len : Nat) (data : List Byte), s.host.link = .up ∧ s.behind fn = true ∧ 0 < len ∧ s.barHit fn bar offset len = true ∧
   data ≠ [] ∧ s.barHit fn 4 offset data.length = true) ∧
  (∃ (s : State) (fn offset : Nat) (data : List Byte), s.host.link = .up ∧ data ≠ [] ∧ offset % 64 + data.length ≤ 64 ∧ offset < 0x1800_0000 ∧
   s.barHit fn 2 offset data.length = true ∧ s.sanitising (funcPart fn) = false ∧ partOfCore s.mode (offset / 0x80_0000) = funcPart fn) :=
  ⟨⟨live, 0, 0, 2 ^ 26, 1, by decide +kernel⟩,
   ⟨live, 0, 1, 0, [0], by decide +kernel⟩,
   ⟨live, 0, 2 ^ 26 - 8, List.replicate 8 1, by decide +kernel⟩,
   ⟨live, 4, 0, List.replicate 64 5, by decide +kernel⟩,
   ⟨live, 0, 2 ^ 26 - 8, 8, by decide +kernel⟩,
   ⟨live, 0, 2 ^ 29 - 8, 8, by decide +kernel⟩,
   ⟨live, 4, 0, 64, by decide +kernel⟩,
   ⟨{ live with host := { link := .up, hdmOn := true, hdmSize := 2 ^ 40 }, mem := { stk := [(0, { fills := [⟨0, 4096, 0⟩] })] } }, 0, 0, 0, 0, 0,
    List.replicate 64 0, rfl, by decide +kernel, rfl, by decide +kernel, rfl, by decide +kernel, by decide +kernel, noTests (by decide +kernel),
    by decide +kernel⟩,
   ⟨{ live with host := { link := .up, hdmOn := true, hdmSize := 2 ^ 40 }, mem := { stk := [(0, { fills := [⟨0, 4096, 0⟩] })] } }, 0, 0, 0, 0, 0,
    List.replicate 64 5, rfl, rfl, by decide +kernel, rfl, by decide +kernel, rfl, by decide +kernel, by decide +kernel, by decide +kernel, noTests
    (by decide +kernel)⟩,
   ⟨{ live with host := { link := .up, hdmOn := true, hdmSize := 2 ^ 40, filter := [0] } }, 0, 0, 0, List.replicate 64 5, by decide +kernel⟩,
   ⟨{ live with host := { link := .up, waits := [.barWrite 0 0 [5]] } }, 0, 4, 0, 64, [7], by decide +kernel⟩,
   ⟨live, 0, 0x1800_0000 - 1, [5], by decide +kernel⟩⟩

/-- The hypotheses of KgoStartsOrRefuses hold somewhere. -/
theorem witness_KgoStartsOrRefuses :
  (∃ (s : State) (fn x : Nat), s.isLive = true ∧ s.hears fn x = true ∧ s.behind fn = false ∧
   s.serves (funcPart fn) x = false ∧ (s.context (funcPart fn) x).pending = none ∧ s.startOk (funcPart fn) x (s.context (funcPart fn) x).kstart =
   true) ∧
  (∃ (s : State) (fn x : Nat), s.isLive = true ∧ s.hears fn x = true ∧ s.behind fn = false ∧
   s.serves (funcPart fn) x = false ∧ (s.context (funcPart fn) x).pending = none ∧ s.startOk (funcPart fn) x (s.context (funcPart fn) x).kstart =
   false) ∧
  (∃ (s : State) (fn x : Nat), s.isLive = true ∧ s.hears fn x = true ∧ s.behind fn = false ∧
   s.serves (funcPart fn) x = false ∧ (s.context (funcPart fn) x).pending.isSome = true) ∧
  (∃ (s : State) (fn x : Nat), s.isLive = true ∧ s.hears fn x = true ∧ s.behind fn = false ∧
   s.serves (funcPart fn) x = true) ∧
  (∃ (s : State) (fn x : Nat), s.isLive = true ∧ s.hears fn x = true ∧ s.behind fn = true) :=
  ⟨⟨liveCtx 63 { en := true, cores := 4, saveWritten := true, kstart := 2 ^ 66 }, 0, 63, by decide +kernel⟩,
   ⟨liveCtx 63 { en := true }, 0, 63, by decide +kernel⟩,
   ⟨liveCtx 63 { pending := some { kd := 0 } }, 0, 63, by decide +kernel⟩,
   ⟨livePart { srvEn := true, srvCtx := 63 }, 0, 63, by decide +kernel⟩,
   ⟨{ live with host := { link := .up, waits := [.barWrite 0 0 [5]] } }, 0, 63, by decide +kernel⟩⟩

/-- The hypotheses of PendingStartsPreemptLowerPriority hold somewhere. -/
theorem witness_PendingStartsPreemptLowerPriority :
  (∃ (s : State) (fn x y : Nat) (k : Kernel), s.isLive = true ∧ s.hears fn x = true ∧ s.behind fn = false ∧ s.serves (funcPart fn) x = false ∧ (s.context (funcPart fn) x).pending = none ∧ (s.context (funcPart fn) x).kernel = none ∧ s.startOk
   (funcPart fn) x (s.context (funcPart fn) x).kstart = true ∧ y ≠ x ∧ y < ctxPer s.mode ∧ (s.context (funcPart fn) y).kernel = some k ∧ k.fault =
   none ∧ (s.context (funcPart fn) y).state = .running ∧ (s.context (funcPart fn) y).prio < (s.context (funcPart fn) x).prio ∧ kdCores k.kd &&&
   kdCores (s.context (funcPart fn) x).kstart ≠ 0) ∧
  (∃ (s : State) (fn x y : Nat) (k : Kernel), s.isLive = true ∧ s.hears fn x = true ∧ s.behind fn = false ∧ s.serves (funcPart fn) x = false ∧ (s.context (funcPart fn) x).pending = none ∧ (s.context (funcPart fn) x).kernel = none ∧ s.startOk
   (funcPart fn) x (s.context (funcPart fn) x).kstart = true ∧ y ≠ x ∧ y < ctxPer s.mode ∧ (s.context (funcPart fn) y).kernel = some k ∧ k.fault =
   none ∧ (∀ z, z < ctxPer s.mode → z ≠ x → (s.context (funcPart fn) z).pending = none) ∧ (s.context (funcPart fn) x).prio ≤ (s.context (funcPart fn)
   y).prio) ∧
  (∃ (s : State) (fn x y : Nat) (k : Kernel), s.isLive = true ∧ s.hears fn x = true ∧ s.behind fn = false ∧ s.serves (funcPart fn) x = false ∧ (s.context (funcPart fn) x).pending = none ∧ (s.context (funcPart fn) x).kernel = none ∧ s.startOk
   (funcPart fn) x (s.context (funcPart fn) x).kstart = true ∧ y ≠ x ∧ y < ctxPer s.mode ∧ (s.context (funcPart fn) y).kernel = some k ∧ k.fault =
   none ∧ (s.context (funcPart fn) y).state = .held) ∧
  (∃ (c : Context), c.kernel.isSome = true ∧ c.state = .held) :=
  ⟨⟨{ live with contexts := [(0, { state := .running, kernel := some { kd := 2 ^ 66 }, prio := 0 }), (63, { en := true, cores := 4, saveWritten := true, kstart := 2 ^ 66, prio := 1 })] },
    0, 63, 0, { kd := 2 ^ 66 }, by decide +kernel⟩,
   ⟨{ live with contexts := [(0, { state := .running, kernel := some { kd := 2 ^ 66 }, prio := 1 }), (63, { en := true, cores := 4, saveWritten := true, kstart := 2 ^ 66, prio := 1 })] },
    0, 63, 0, { kd := 2 ^ 66 }, by decide +kernel⟩,
   ⟨{ live with contexts := [(0, { state := .held, kernel := some { kd := 2 ^ 66 }, prio := 0 }), (63, { en := true, cores := 4, saveWritten := true, kstart := 2 ^ 66, prio := 1 })] },
    0, 63, 0, { kd := 2 ^ 66 }, by decide +kernel⟩,
   ⟨{ kernel := some { kd := 0 }, state := .held }, by decide +kernel⟩⟩

/-- The hypotheses of CsgoCopiesCode hold somewhere. -/
theorem witness_CsgoCopiesCode :
  (∃ (s : State) (fn x : Nat) (v : Quad), s.hears fn x = true ∧ s.behind fn = false ∧ CsgoFits s fn
   x v.toNat) ∧
  (∃ (s : State) (fn x : Nat) (v : Quad), s.hears fn x = true ∧ s.behind fn = false ∧ ¬ CsgoFits s
   fn x v.toNat) ∧
  (∃ (s : State) (fn x : Nat) (_v : Quad), s.hears fn x = true ∧ s.behind fn = true) ∧
  (∃ (s : State) (p x : Nat) (y : CsCopy), (s.context p x).csCopy = some y ∧ (Wk.read (s.partEnv p) { mem := s.mem } y.src (64 * y.count)).2.good =
   true) :=
  ⟨⟨liveCtx 3 { cores := 4 }, 0, 3, 2 ^ 12 * 2047 + 2 ^ 23, by decide +kernel, by decide +kernel,
    by unfold CsgoFits; decide +kernel⟩,
   ⟨liveCtx 3 { cores := 4 }, 0, 3, 2 ^ 12 * 2047 + 2 ^ 24, by decide +kernel, by decide +kernel,
    by unfold CsgoFits; decide +kernel⟩,
   ⟨{ live with host := { link := .up, waits := [.kgo 0 3 0] } }, 0, 63, 0, by decide +kernel⟩,
   ⟨{ liveCtx 3 { csCopy := some ⟨1, 2047, 1, 0, 4⟩ } with mem := { stk := [(0, { fills := [⟨0, 4096, 0⟩] })] } }, 0, 3, ⟨1, 2047, 1, 0, 4⟩,
    by decide +kernel⟩⟩

/-- The hypotheses of ContextControl hold somewhere. -/
theorem witness_ContextControl :
  (∃ (s : State) (fn x : Nat) (k : Kernel), s.reachCtx fn x = true ∧ (s.context (funcPart fn) x).kernel = some k ∧ (s.context (funcPart fn) x).state
   = .running ∧ k.fault = none) ∧
  (∃ (s : State) (fn x : Nat) (k : Kernel), s.reachCtx fn x = true ∧ (s.context (funcPart fn) x).kernel = some k ∧ (s.context (funcPart fn) x).state
   = .running ∧ k.fault.isSome = true) ∧
  (∃ (s : State) (fn x : Nat), s.reachCtx fn x = true ∧ (s.context (funcPart fn) x).state = .held) ∧
  (∃ (s : State) (fn x : Nat) (v : Quad), s.reachCtx fn x = true ∧ v.toNat.testBit 0 = true ∧ v.toNat.testBit 2 = false ∧ v.toNat.testBit 3 = false ∧
   (∀ z, z < ctxPer s.mode → (s.context (funcPart fn) z).pending = none)) ∧
  (∃ (s : State) (fn x : Nat) (v : Quad) (k : Kernel), s.reachCtx fn x = true ∧ v.toNat.testBit 0 = false ∧ v.toNat.testBit 2 = false ∧
   v.toNat.testBit 3 = false ∧ (s.context (funcPart fn) x).pending = none ∧ (s.context (funcPart fn) x).kernel = some k ∧ k.fault = none ∧ (s.context
   (funcPart fn) x).state = .running ∧ (∀ z, z < ctxPer s.mode → (s.context (funcPart fn) z).pending = none)) ∧
  (∃ (s : State) (fn x : Nat), s.reachCtx fn x = true ∧ (s.context (funcPart fn) x).state = .saved) ∧
  (∃ (s : State) (fn x : Nat) (k : Kernel), s.reachCtx fn x = true ∧ (s.context (funcPart fn) x).kernel = some k ∧ k.fault = none ∧ (s.context
   (funcPart fn) x).state = .restoring) ∧
  (∃ (s : State) (fn x : Nat) (v : Quad) (k : Kernel), s.reachCtx fn x = true ∧ v.toNat.testBit 0 = false ∧ v.toNat.testBit 2 = false ∧
   v.toNat.testBit 3 = false ∧ (s.context (funcPart fn) x).pending = none ∧ (s.context (funcPart fn) x).kernel = some k ∧ k.fault = none ∧
   k.step = false ∧ (s.context (funcPart fn) x).state = .held ∧ (s.part (funcPart fn)).arrivalsIn = []) :=
  ⟨⟨liveCtx 63 { kernel := some { kd := 0 }, state := .running }, 0, 63, { kd := 0 }, by decide +kernel⟩,
   ⟨liveCtx 63 { kernel := some { kd := 0, fault := some { status := 0x0102 } }, state := .running }, 0, 63,
    { kd := 0, fault := some { status := 0x0102 } }, by decide +kernel⟩,
   ⟨liveCtx 63 { state := .held }, 0, 63, by decide +kernel⟩,
   ⟨live, 0, 63, 1, by decide +kernel⟩,
   ⟨liveCtx 63 { kernel := some { kd := 0 }, state := .running }, 0, 63, 0, { kd := 0 }, by decide +kernel⟩,
   ⟨liveCtx 63 { kernel := some { kd := 0 }, state := .saved }, 0, 63, by decide +kernel⟩,
   ⟨liveCtx 63 { kernel := some { kd := 0 }, state := .restoring }, 0, 63, { kd := 0 }, by decide +kernel⟩,
   ⟨liveCtx 63 { kernel := some { kd := 0 }, state := .held }, 0, 63, 0, { kd := 0 }, by decide +kernel⟩⟩

/-- The hypotheses of BelayAndLogRegisters hold somewhere. -/
theorem witness_BelayAndLogRegisters :
  (∃ (s : State) (fn n : Nat) (v : Quad), s.reachPf fn = true ∧ n < 256 ∧ BelayTakes s (funcPart fn) n v.toNat ∧ v.toNat.testBit 8 = false ∧
   ((Table.get {} (s.part (funcPart fn)).belays n).arrived = 0 ∨ (Table.get {} (s.part (funcPart fn)).belays n).arrived < fld v.toNat 7 0)) ∧
  (∃ (s : State) (fn n : Nat) (v : Quad), s.reachPf fn = true ∧ n < 256 ∧ BelayTakes s (funcPart fn) n v.toNat ∧ (v.toNat.testBit 8 = true ∨
   ((Table.get {} (s.part (funcPart fn)).belays n).arrived ≠ 0 ∧ fld v.toNat 7 0 ≤ (Table.get {} (s.part (funcPart fn)).belays n).arrived))) ∧
  (∃ (s : State) (fn n : Nat) (v : Quad), s.reachPf fn = true ∧ n < 256 ∧ ¬ BelayTakes s (funcPart fn) n v.toNat) ∧
  (∃ (s : State) (fn c : Nat), s.reachPf fn = true ∧ c < 48 ∧ partOfCore s.mode c = funcPart fn) :=
  ⟨⟨livePart { belays := [(255, { arrived := 191 })] }, 0, 255, 192, by unfold BelayTakes; decide +kernel⟩,
   ⟨live, 0, 255, 256, by unfold BelayTakes; decide +kernel⟩,
   ⟨{ livePart { belays := [(255, { ctx := 3 })] } with contexts := [(3, { state := .held })] }, 0, 255, 0, by unfold BelayTakes; decide +kernel⟩,
   ⟨live, 0, 47, by decide +kernel⟩⟩

/-- The hypotheses of RingAndVfmapRegisters hold somewhere. -/
theorem witness_RingAndVfmapRegisters :
  (∃ (s : State) (fn v : Nat), s.hostReach fn = true ∧ (s.func fn).disabled = false ∧ (v % 2 ^ 32 + 2 ^ 32 - (s.func fn).rq.head) % 2 ^ 32 ≤ 2 ^
   ringOrder (s.func fn).rq.cfg) ∧
  (∃ (s : State) (fn v : Nat), s.hostReach fn = true ∧ ((s.func fn).disabled = true ∨ 2 ^ ringOrder (s.func fn).rq.cfg < (v % 2 ^ 32 + 2 ^ 32 -
   (s.func fn).rq.head) % 2 ^ 32)) ∧
  (∃ (s : State) (fn v : Nat), s.hostReach fn = true ∧ NoBoundary s (funcPart fn) ∧ ((s.func fn).cq.tail + 2 ^ 32 - v % 2 ^ 32) % 2 ^ 32 ≤ 2 ^
   ringOrder (s.func fn).cq.cfg) ∧
  (∃ (s : State) (fn v : Nat), s.hostReach fn = true ∧ 2 ^ ringOrder (s.func fn).cq.cfg < ((s.func fn).cq.tail + 2 ^ 32 - v % 2 ^ 32) % 2 ^ 32) ∧
  (∃ (_s : State) (_fn : Nat) (_old : Quad) (v : Nat), v.testBit 11 = true) ∧
  (∃ (s : State) (fn : Nat) (v : Quad), s.hostReach fn = true ∧ s.cfgOk fn (s.func fn).rq.cfg v.toNat = true) ∧
  (∃ (s : State) (fn : Nat) (v : Quad), s.hostReach fn = true ∧ NoBoundary s (funcPart fn) ∧ s.cfgOk fn (s.func fn).cq.cfg v.toNat = true) ∧
  (∃ (s : State) (fn : Nat) (v : Quad), s.hostReach fn = true ∧ s.cfgOk fn (s.func fn).rq.cfg v.toNat = false) ∧
  (∃ (s : State) (fn : Nat) (v : Quad), s.hostReach fn = true ∧ s.cfgOk fn (s.func fn).cq.cfg v.toNat = false) ∧
  (∃ (s : State) (pf k : Nat) (v : BitVec 128), s.reachPf pf = true ∧ 1 ≤ k ∧ k ≤ 31 ∧ s.vfmapOk pf k v.toNat = true) ∧
  (∃ (s : State) (pf k : Nat) (v : BitVec 128), s.reachPf pf = true ∧ s.vfmapOk pf k v.toNat = false) :=
  ⟨⟨liveFunc 124 { rq := { cfg := 5 }, cq := { cfg := 5 } }, 124, 32, by decide +kernel⟩,
   ⟨liveFunc 124 { rq := { cfg := 5 }, cq := { cfg := 5 } }, 124, 33, by decide +kernel⟩,
   ⟨liveFunc 124 { cq := { cfg := 5, tail := 32 } }, 124, 0, by decide +kernel, ⟨rfl, rfl, .inr ⟨rfl, rfl, rfl, rfl⟩⟩, by decide +kernel⟩,
   ⟨liveFunc 124 { cq := { cfg := 5 } }, 124, 2 ^ 32 - 33, by decide +kernel⟩,
   ⟨live, 124, 0, 2 ^ 11, by decide +kernel⟩,
   ⟨live, 124, 16, by decide +kernel⟩,
   ⟨livePart { accepted := true }, 124, 2 ^ 11 + 4, by decide +kernel, ⟨rfl, rfl, .inr ⟨rfl, rfl, rfl, rfl⟩⟩, by decide +kernel⟩,
   ⟨live, 124, 17, by decide +kernel⟩,
   ⟨live, 124, 17, by decide +kernel⟩,
   ⟨liveFunc 124 { disabled := true }, 0, 31, 2 ^ 63, by decide +kernel⟩,
   ⟨live, 0, 31, 2 ^ 127, by decide +kernel⟩⟩

/-- The hypotheses of ServingAndPlainRegisters hold somewhere. -/
theorem witness_ServingAndPlainRegisters :
  (∃ (s : State) (p : Nat) (_v : Quad), s.reachPf p = true ∧ s.cacheFree p = true) ∧
  (∃ (s : State) (p : Nat) (_v : Quad), s.reachPf p = true ∧ s.cacheFree p = false) ∧
  (∃ (s : State) (p : Nat) (v : Quad), s.reachPf p = true ∧ (s.part p).srvEn = false ∧ (s.part p).phase ≠ .running ∧ v.toNat.testBit 0 = false) ∧
  (∃ (s : State) (p : Nat) (v : Quad), s.reachPf p = true ∧ (s.part p).srvEn = false ∧ (s.part p).phase ≠ .running ∧ v.toNat.testBit 0 = true ∧
   s.enableOk p ((s.part p).withSrvctl v.toNat) = true) ∧
  (∃ (s : State) (p : Nat) (v : Quad), s.reachPf p = true ∧ (s.part p).srvEn = false ∧ (s.part p).phase ≠ .running ∧ v.toNat.testBit 0 = true ∧
   s.enableOk p ((s.part p).withSrvctl v.toNat) = false) ∧
  (∃ (s : State) (p : Nat) (v : Quad), s.reachPf p = true ∧ (s.part p).srvEn = false ∧ (s.part p).phase = .running ∧ NoBoundary s p ∧ v.toNat.testBit
   0 = true ∧ s.enableOk p (s.part p) = true) ∧
  (∃ (s : State) (p : Nat) (v : Quad), s.reachPf p = true ∧ (s.part p).srvEn = true ∧ v.toNat.testBit 0 = true ∧ s.enableOk p (s.part p) = true) ∧
  (∃ (s : State) (p : Nat) (v : Quad), s.reachPf p = true ∧ (s.part p).srvEn = true ∧ v.toNat.testBit 0 = true ∧ s.enableOk p (s.part p) = false) ∧
  (∃ (s : State) (p : Nat) (v : Quad), s.reachPf p = true ∧ (s.part p).srvEn = true ∧ v.toNat.testBit 0 = false ∧ (s.part p).stepAhead = true) ∧
  (∃ (s : State) (p : Nat) (v : Quad), s.reachPf p = true ∧ (s.part p).srvEn = true ∧ v.toNat.testBit 0 = false ∧ (s.part p).stepAhead = false) ∧
  (∃ (s : State) (fn : Nat) (_v : Quad), s.hostReach fn = true) ∧
  (∃ (s : State) (fn x i : Nat) (_v : Quad), s.reachCtx fn x = true ∧ i < 8) ∧
  (∃ (s : State) (fn : Nat) (_v : Quad), s.reachPf (funcPart fn) = true ∧ s.hasFunc fn = true ∧ funcVf fn ≠ 0) :=
  ⟨⟨live, 0, 0, by decide +kernel⟩,
   ⟨livePart { phase := .running }, 0, 0, by decide +kernel⟩,
   ⟨live, 0, 0, by decide +kernel⟩,
   ⟨livePart { accepted := true, klist := 2 ^ 52 }, 0, 1 + 2 ^ 16 * 4096 + 2 ^ 32 + 2 ^ 48, by decide +kernel⟩,
   ⟨live, 0, 1, by decide +kernel⟩,
   ⟨livePart { accepted := true, chunkmax := 1, rowsmax := 1, seqmax := 4096, klist := 2 ^ 52, phase := .running }, 0, 1, by decide +kernel, rfl,
    rfl, ⟨rfl, rfl, .inl rfl⟩, by decide +kernel⟩,
   ⟨livePart { accepted := true, chunkmax := 1, rowsmax := 1, seqmax := 4096, klist := 2 ^ 52, srvEn := true }, 0, 1, by decide +kernel⟩,
   ⟨livePart { srvEn := true }, 0, 1, by decide +kernel⟩,
   ⟨livePart { srvEn := true, phase := .running }, 0, 0, by decide +kernel⟩,
   ⟨livePart { srvEn := true }, 0, 0, by decide +kernel⟩,
   ⟨live, 124, 0, by decide +kernel⟩,
   ⟨live, 0, 63, 7, 0, by decide +kernel⟩,
   ⟨live, 124, 0, by decide +kernel⟩⟩

/-- The hypotheses of AddressesOfCoresAndStacks hold somewhere. -/
theorem witness_AddressesOfCoresAndStacks :
  (∃ (mode part c off : Nat) (_wide : Bool) (_m : MemSys), c < 48 ∧ partOfCore mode c = part ∧ off < 0x80_0000) ∧
  (∃ (mode part c off : Nat) (_wide : Bool) (_m : MemSys), c < 48 ∧ partOfCore mode c = part ∧ off < 0x1_0000) ∧
  (∃ (mode part k off : Nat) (_wide : Bool) (_m : MemSys), k < 16 ∧ partOfStack mode k = part ∧ off < 0x10_0000) ∧
  (∃ (mode part k off : Nat) (_wide : Bool) (_m : MemSys), k < 16 ∧ partOfStack mode k = part ∧ off < 0x1_0000) :=
  ⟨⟨2, 3, 47, 0x7FFFFF, false, {}, by decide +kernel⟩,
   ⟨2, 3, 47, 0xFFFF, false, {}, by decide +kernel⟩,
   ⟨2, 3, 15, 0xFFFFF, false, {}, by decide +kernel⟩,
   ⟨2, 3, 15, 0xFFFF, false, {}, by decide +kernel⟩⟩

/-- The hypotheses of KernelDispatchBeginsTheChosenKernel hold somewhere. -/
theorem witness_KernelDispatchBeginsTheChosenKernel :
  (∃ (s : State) (p x : Nat) (st : Start), s.isLive = true ∧ s.drainHeld p = false ∧ s.choose p = some x ∧ (s.context p x).kernel = none ∧ (s.context
   p x).pending = some st ∧ s.startOk p x st.kd = true) ∧
  (∃ (s : State) (p x : Nat) (k : Kernel), s.isLive = true ∧ s.drainHeld p = false ∧ s.choose p = some x ∧ (s.context p x).kernel = some k ∧ Memory.wf s.mem = true ∧
   ∃ c ∈ bitsBelow 48 (kdCores k.kd), ∃ y, (s.core c).lastUse = .ctx y ∧ y ≠ x) ∧
  (∃ (s : State) (p x : Nat) (st : Start), s.isLive = true ∧ s.drainHeld p = false ∧ s.choose p = some x ∧ (s.context p x).kernel = none ∧ (s.context
   p x).pending = some st ∧ st.step = false ∧ s.startOk p x st.kd = false) :=
  ⟨⟨{ live with contexts := [(0, { prio := 1, en := true, cores := 4, saveWritten := true, pending := some { kd := 2 ^ 66 } }), (63, { prio := 3, en := true, cores := 4, saveWritten := true, pending := some { kd := 2 ^ 66 } })] },
    0, 63, { kd := 2 ^ 66 }, by decide +kernel⟩,
   ⟨{ liveCtx 63 { state := .saved, kernel := some { kd := 2 ^ 66 } } with cores := [(2, { lastUse := .ctx 3 })] }, 0, 63, { kd := 2 ^ 66 },
    by decide +kernel, by decide +kernel, by decide +kernel, by decide +kernel, by decide +kernel, 2, by decide +kernel, 3, by decide +kernel⟩,
   ⟨liveCtx 63 { pending := some { kd := 2 ^ 66 } }, 0, 63, { kd := 2 ^ 66 }, by decide +kernel⟩⟩

/-- The hypotheses of CommandRouteFillsTheQueues hold somewhere. -/
theorem witness_CommandRouteFillsTheQueues :
  (∃ (s : State) (c : Nat) (r : CoreRun) (k : Kernel), s.running c = some (r, k) ∧ k.copying = 0 ∧ k.fault = none ∧ (s.core c).fetchDone = false ∧
   (s.core c).fetch < 2048 ∧ cbOp (fetched s c r) ≠ 0x0001 ∧ ((s.core c).queue (cbQueue (fetched s c r))).room = true) ∧
  (∃ (s : State) (c : Nat) (r : CoreRun) (k : Kernel), s.running c = some (r, k) ∧ k.copying = 0 ∧ k.fault = none ∧ (s.core c).fetchDone = false ∧
   (s.core c).fetch < 2048 ∧ cbOp (fetched s c r) = 0x0001 ∧ (∀ q, q < 4 → ((s.core c).queue q).room = true)) ∧
  (∃ (s : State) (c : Nat) (r : CoreRun) (k : Kernel), s.running c = some (r, k) ∧ k.copying = 0 ∧ k.fault = none ∧ (s.core c).fetchDone = false ∧
   2048 ≤ (s.core c).fetch) :=
  ⟨⟨live47 { fetchDone := false, fetch := 2047 }, 47, runOf47, { kd := runOf47.kd }, by decide +kernel⟩,
   ⟨{ live47 { fetchDone := false } with mem := { cmdStore := [(94, [(0, 1)])] } }, 47, runOf47, { kd := runOf47.kd }, by decide +kernel⟩,
   ⟨live47 { fetchDone := false, fetch := 2048 }, 47, runOf47, { kd := runOf47.kd }, by decide +kernel⟩⟩

/-- The hypotheses of ControlCommandsAndBreaks hold somewhere. -/
theorem witness_ControlCommandsAndBreaks :
  (∃ (s : State) (c q : Nat) (r : CoreRun) (k : Kernel) (b : BitVec 512) (rest : List (BitVec 512)), q < 4 ∧ AtHead s c q r k b rest ∧ cbOp b =
   0x0000 ∧ cbFormOk b ctlForm = true ∧ imm b 255 0 = 0 ∧ cbNest b = 0xFFFF) ∧
  (∃ (s : State) (c q : Nat) (r : CoreRun) (k : Kernel) (b : BitVec 512) (rest : List (BitVec 512)), q < 4 ∧ AtHead s c q r k b rest ∧ cbOp b =
   0x0001 ∧ cbFormOk b { uses := [false, false, false, false] } = true ∧ imm b 255 0 = 0 ∧ cbNest b = 0xFFFF) ∧
  (∃ (s : State) (c q : Nat) (r : CoreRun) (k : Kernel) (b : BitVec 512) (rest : List (BitVec 512)), q < 4 ∧ AtHead s c q r k b rest ∧ opListed (cbOp
   b) = false) ∧
  (∃ (s : State) (c q : Nat) (r : CoreRun) (k : Kernel) (b : BitVec 512) (rest : List (BitVec 512)), q < 4 ∧ AtHead s c q r k b rest ∧ cbOp b =
   0x0002 ∧ ((s.core c).queue q).brkTaken = false) ∧
  (∃ (s : State) (c q : Nat) (r : CoreRun) (k : Kernel) (b : BitVec 512) (rest : List (BitVec 512)), q < 4 ∧ AtHead s c q r k b rest ∧ cbOp b =
   0x0002 ∧ ((s.core c).queue q).brkTaken = true ∧ cbFormOk b ctlForm = true ∧ imm b 255 0 = 0 ∧ cbNest b = 0xFFFF) :=
  ⟨⟨live47 { qSeq := { cmds := [block 0x0000 [] 0] } }, 47, 3, runOf47, { kd := runOf47.kd }, block 0x0000 [] 0, [], by decide +kernel, atHead
    (by decide +kernel), by decide +kernel⟩,
   ⟨live47 { qSeq := { cmds := [block 0x0001 [] 0] } }, 47, 3, runOf47, { kd := runOf47.kd }, block 0x0001 [] 0, [], by decide +kernel, atHead
    (by decide +kernel), by decide +kernel⟩,
   ⟨live47 { qSeq := { cmds := [block 0x5000 [] 0] } }, 47, 3, runOf47, { kd := runOf47.kd }, block 0x5000 [] 0, [], by decide +kernel, atHead
    (by decide +kernel), by decide +kernel⟩,
   ⟨live47 { qSeq := { cmds := [block 0x0002 [] 0] } }, 47, 3, runOf47, { kd := runOf47.kd }, block 0x0002 [] 0, [], by decide +kernel, atHead
    (by decide +kernel), by decide +kernel⟩,
   ⟨live47 { qSeq := { cmds := [block 0x0002 [] 0], brkTaken := true } }, 47, 3, runOf47, { kd := runOf47.kd }, block 0x0002 [] 0, [],
    by decide +kernel, atHead (by decide +kernel), by decide +kernel⟩⟩

/-- The hypotheses of BelaysArriveCountAndRelease hold somewhere. -/
theorem witness_BelaysArriveCountAndRelease :
  (∃ (s : State) (c q : Nat) (r : CoreRun) (k : Kernel) (b : BitVec 512) (rest : List (BitVec 512)), q < 4 ∧ AtHead s c q r k b rest ∧ cbOp b =
   0x6001 ∧ cbFormOk b belayForm = true ∧ imm b 255 8 = 0 ∧ ((s.core c).queue q).arrivals = [] ∧ s.arriveReady r.part c q (nextCount ((s.core
   c).queue q).count) = true) ∧
  (∃ (s : State) (c q n x : Nat), (s.part (partOfCore s.mode c)).arrivalsIn.find? (fun t => t.1 == c && t.2.1 == q && t.2.2.1 == n) = some (c, q, n,
   x) ∧ (Table.get {} (s.part (partOfCore s.mode c)).belays n).ctx = x ∧ (Table.get {} (s.part (partOfCore s.mode c)).belays n).target ≠ 0 ∧ (s.part
   (partOfCore s.mode c)).releases = [] ∧ (Table.get {} (s.part (partOfCore s.mode c)).belays n).arrived + 1 < (Table.get {} (s.part (partOfCore
   s.mode c)).belays n).target) ∧
  (∃ (s : State) (c q n x : Nat), (s.part (partOfCore s.mode c)).arrivalsIn.find? (fun t => t.1 == c && t.2.1 == q && t.2.2.1 == n) = some (c, q, n,
   x) ∧ (Table.get {} (s.part (partOfCore s.mode c)).belays n).ctx = x ∧ (Table.get {} (s.part (partOfCore s.mode c)).belays n).target ≠ 0 ∧ (s.part
   (partOfCore s.mode c)).releases = [] ∧ (Table.get {} (s.part (partOfCore s.mode c)).belays n).target ≤ (Table.get {} (s.part (partOfCore s.mode
   c)).belays n).arrived + 1) ∧
  (∃ (s : State) (c q n x : Nat), (s.part (partOfCore s.mode c)).arrivalsIn.find? (fun t => t.1 == c && t.2.1 == q && t.2.2.1 == n) = some (c, q, n,
   x) ∧ s.arrivalNext (partOfCore s.mode c) (c, q, n, x) = true ∧ c / 12 ≠ s.belayDie (partOfCore s.mode c)) ∧
  (∃ (s : State) (c q n x : Nat), (s.part (partOfCore s.mode c)).arrivalsIn.find? (fun t => t.1 == c && t.2.1 == q && t.2.2.1 == n) = some (c, q, n,
   x) ∧ c / 12 ≠ s.belayDie (partOfCore s.mode c) ∧ ∃ u, (s.part (partOfCore s.mode c)).arrivalsIn.find? (fun u => u.1 / 12 == c / 12) = some u ∧ u ≠
   (c, q, n, x)) ∧
  (∃ (s : State) (c q n x : Nat) (k : Kernel), (s.part (partOfCore s.mode c)).arrivalsIn.find? (fun t => t.1 == c && t.2.1 == q && t.2.2.1 == n) =
   some (c, q, n, x) ∧ ((Table.get {} (s.part (partOfCore s.mode c)).belays n).target = 0 ∨ (Table.get {} (s.part (partOfCore s.mode c)).belays
   n).ctx ≠ x) ∧ (s.context (partOfCore s.mode c) x).kernel = some k ∧ k.fault = none) ∧
  (∃ (s : State) (c q : Nat) (r : CoreRun) (k : Kernel) (b : BitVec 512) (rest : List (BitVec 512)) (a : Arrival), q < 4 ∧ AtHead s c q r k b rest ∧
   cbOp b = 0x6002 ∧ cbFormOk b belayForm = true ∧ imm b 255 8 = 0 ∧ ((s.core c).queue q).arrivals = [a] ∧ a.belay = cbBelay b ∧ a.over = true) ∧
  (∃ (s : State) (p c n g : Nat) (l : List (Nat × Nat × Nat)), (s.part p).releases = (c, n, g) :: l) ∧
  (∃ (s : State) (c n g q : Nat) (l : List (Nat × Nat × Nat)) (r : CoreRun) (k : Kernel), s.running c = some (r, k) ∧ r.ctx < ctxPer s.mode ∧ q < 4 ∧
   (s.part r.part).releases = (c, n, g) :: l ∧ (∀ j, j < 4 → ((s.core c).queue j).run = none)) ∧
  (∃ (s : State) (c n g old q : Nat) (l : List (Nat × Nat × Nat)) (r : CoreRun) (k : Kernel) (i : Issued) (a : Arrival), s.running c = some (r, k) ∧
   r.ctx < ctxPer s.mode ∧ q < 4 ∧ (s.part r.part).releases = (c, n, g) :: l ∧ (∀ j, j < 4 → j ≠ q → ((s.core c).queue j).run = none) ∧ ((s.core
   c).queue q).run = some i ∧ i.issued = true ∧ cbOp i.block = 0x6002 ∧ cbBelay i.block = n ∧ ((s.core c).queue q).lateFault = none ∧ ((s.core
   c).queue q).arrivals = [a] ∧ a.belay = n ∧ a.gen = some old ∧ g ≠ old) :=
  ⟨⟨live47 { qDma := { cmds := [block 0x6001 [] 255] } }, 47, 2, runOf47, { kd := runOf47.kd }, block 0x6001 [] 255, [], by decide, atHead
    (by decide +kernel), by decide +kernel⟩,
   ⟨livePart { arrivalsIn := [(47, 2, 255, 63)], belays := [(255, { ctx := 63, arrived := 190, target := 192 })] }, 47, 2, 255, 63,
    by decide +kernel⟩,
   ⟨livePart { arrivalsIn := [(47, 2, 255, 63)], belays := [(255, { ctx := 63, arrived := 191, target := 192 })] }, 47, 2, 255, 63,
    by decide +kernel⟩,
   ⟨livePart { arrivalsIn := [(0, 2, 255, 63), (47, 2, 255, 63)] }, 47, 2, 255, 63, by decide +kernel⟩,
   ⟨livePart { arrivalsIn := [(46, 2, 255, 63), (47, 2, 255, 63)] }, 47, 2, 255, 63, by decide +kernel, by decide +kernel, (46, 2, 255, 63),
    by decide +kernel⟩,
   ⟨{ live47 {} with parts := [(0, { arrivalsIn := [(47, 2, 255, 3)] })] }, 47, 2, 255, 3, { kd := runOf47.kd }, by decide +kernel⟩,
   ⟨live47 { qSeq := { cmds := [block 0x6002 [] 255], arrivals := [{ belay := 255, gen := some 0, sent := true, released := some 1 }] } }, 47, 3,
    runOf47, { kd := runOf47.kd }, block 0x6002 [] 255, [], { belay := 255, gen := some 0, sent := true, released := some 1 }, by decide +kernel,
    atHead (by decide +kernel), by decide +kernel⟩,
   ⟨livePart { releases := [(47, 255, 65535)] }, 0, 47, 255, 65535, [], by decide +kernel⟩,
   ⟨{ live47 {} with parts := [(0, { releases := [(47, 255, 65535)] })] }, 47, 255, 65535, 3, [], runOf47, { kd := runOf47.kd }, by decide +kernel⟩,
   ⟨{ live47 { qSeq := { working (block 0x6002 [] 255) [] with arrivals := [{ belay := 255, gen := some 0, sent := true }] } } with parts := [(0, { releases := [(47, 255, 65535)] })] }, 47, 255, 65535, 0, 3, [], runOf47, { kd := runOf47.kd },
   issuedOf (block 0x6002 [] 255) [], { belay := 255, gen := some 0, sent := true }, by decide +kernel⟩⟩

/-- The hypotheses of KernelEndReportsAndFreesCores hold somewhere. -/
theorem witness_KernelEndReportsAndFreesCores :
  ∃ (s : State) (p x _cycles _periods : Nat) (k : Kernel), (s.context p x).kernel = some k ∧ k.step = false ∧ k.fault = none ∧ (s.context p x).state
   = .running ∧ s.anyLate (bitsBelow 48 (kdCores k.kd)) = none ∧ s.ended p x k = true ∧ (s.part p).arrivalsIn = [] :=
  ⟨live47 { qMx := { kend := true }, qVec := { kend := true }, qDma := { kend := true }, qSeq := { kend := true } }, 0, 3, 0, 0,
   { kd := runOf47.kd }, by decide +kernel⟩

/-- The hypotheses of SaveAndRestore hold somewhere. -/
theorem witness_SaveAndRestore :
  (∃ (s : State) (p x _cycles status : Nat) (hold : Bool) (k : Kernel), (s.context p x).kernel = some k ∧ (s.context p x).trigger = some (hold,
   status) ∧ (s.context p x).state = .saving ∧ k.fault = none ∧ s.coresQuiet p (bitsBelow 48 (kdCores k.kd)) = true ∧ s.stkBusy p x = false ∧ (∀ c ∈
   bitsBelow 48 (kdCores k.kd), s.forwardsOn c = false ∧ ∀ q, q < 4 → (s.core c).atBoundary q = true) ∧ s.host.filter = [] ∧ (∀ j, (s.mem.stack
   j).refreshing = [] ∧ (s.mem.stack j).retries = [])) ∧
  (∃ (s : State) (p x _cycles : Nat) (k : Kernel), (s.context p x).kernel = some k ∧ (s.context p x).state = .restoring ∧ k.fault = none ∧
   (imagesRead s p x k).2.good = true ∧ (∀ c ∈ bitsBelow 48 (kdCores k.kd), s.headerWaits p x c = false) ∧ (∀ c ∈ bitsBelow 48 (kdCores k.kd),
   s.headerBad p x c = false)) ∧
  (∃ (s : State) (p x _cycles : Nat) (k : Kernel), (s.context p x).kernel = some k ∧ (s.context p x).state = .restoring ∧ k.fault = none ∧ k.step =
   false ∧ (imagesRead s p x k).2.good = true ∧ (∀ c ∈ bitsBelow 48 (kdCores k.kd), s.headerWaits p x c = false) ∧ (∃ c ∈ bitsBelow 48 (kdCores k.kd), s.headerBad p x c = true) ∧ (s.part p).arrivalsIn = []) :=
  ⟨⟨liveCtx 63 { state := .saving, kernel := some { kd := 2 ^ 111 }, trigger := some (true, 0x0106) }, 0, 63, 0, 0x0106, true, { kd := 2 ^ 111 }, by
   simp only [← and_assoc]
   exact ⟨by decide +kernel, fun _ => ⟨rfl, rfl⟩⟩⟩,
   ⟨restoring63 (0xC7E5 + 2 ^ 16 + 2 ^ 30 * 63 + 2 ^ 40), 0, 63, 0, { kd := 2 ^ 64 }, by decide +kernel, by decide +kernel, rfl, imagesRead_scratch
    _, by decide +kernel, by decide +kernel⟩,
   ⟨restoring63 0, 0, 63, 0, { kd := 2 ^ 64 }, by decide +kernel, by decide +kernel, rfl, rfl, imagesRead_scratch _, by decide +kernel,
    by decide +kernel, by decide +kernel⟩⟩

/-- The hypotheses of EwiseWritesItsRegisterBlock hold somewhere. -/
theorem witness_EwiseWritesItsRegisterBlock :
  ∃ (s : State) (c : Nat) (r : CoreRun) (iss : Issued) (ops : List Opn) (a b d : Nat), AtLastIteration s c 1 0x4003 r iss ∧ bindOps (fun _ o =>
   addrsOk (s.env c 1 r) ((s.env c 1 r).allowed s.mem) o) iss.block iss.descs false ((s.core c).entries iss.block) = .ok ops ∧ (s.core c).compat =
   false ∧ cbOpd iss.block 0 = 0xFF00 + a ∧ cbOpd iss.block 1 = 0xFF00 + b ∧ cbOpd iss.block 3 = 0xFF00 + d ∧ a < 64 ∧ b < 64 ∧ d < 64 ∧ vFn
   iss.block ≠ 4 ∧ ewBmode iss.block = 0 ∧ vTail iss.block = false ∧ cbStream iss.block = 0xFFFF ∧ cbSbind iss.block = 0 ∧ vLanes iss.block ≤ 256 ∧
   (a = d ∨ a + vRows iss.block ≤ d ∨ d + vRows iss.block ≤ a) ∧ (b = d ∨ b + vRows iss.block ≤ d ∨ d + vRows iss.block ≤ b) :=
  ⟨live47 { qVec := working (block 0x4003 [0xFF00, 0xFF3F, 0xFFFF, 0xFF01] (1 + 2 ^ 9)) [] }, 47, runOf47, issuedOf (block 0x4003 [0xFF00, 0xFF3F,
   0xFFFF, 0xFF01] (1 + 2 ^ 9)) [], opsOf [], 0, 63, 1, ⟨⟨{ kd := runOf47.kd }, by decide +kernel⟩, by decide +kernel, by decide +kernel,
   by decide +kernel, by decide +kernel⟩, by decide +kernel⟩

/-- The hypotheses of MacAccumulatesRowByColumn hold somewhere. -/
theorem witness_MacAccumulatesRowByColumn :
  ∃ (_k : Core) (b : BitVec 512) (t : WTile) (_af : Nat) (rows : List (List Elem)), mxMode t.format ≠ some 3 ∧ mxMode t.format ≠ none ∧ t.n ≤ mxN
   ((mxMode t.format).getD 0) ∧ rows.length + 32 * macRgroup b ≤ 256 ∧ (mxMode t.format ≠ some 2 → macChalf b = 0) ∧ macAbank b < 8 :=
  ⟨{}, block 0x3002 [0] 0, ⟨1, 128, 128, [], []⟩, 1, List.replicate 256 [], by decide +kernel⟩

theorem witness_EngineCommandsComplete_0 : EngineRuns 2 0x2001 true copyWork :=
  engineRuns (live47 { qDma := working (block 0x2001 [0, 1] 0) scratchDescs }) (block 0x2001 [0, 1] 0) scratchDescs (opsOf scratchDescs) (by decide +kernel) (by decide +kernel) (by decide +kernel)

theorem witness_EngineCommandsComplete_1 : EngineRuns 2 0x2002 true fillWork :=
  engineRuns (live47 { qDma := working (block 0x2002 [0xFFFF, 1] 0) scratchDescs }) (block 0x2002 [0xFFFF, 1] 0) scratchDescs (opsOf scratchDescs) (by decide +kernel) (by decide +kernel) (by decide +kernel)

theorem witness_EngineCommandsComplete_2 : EngineRuns 1 0x4001 false loadRowWork :=
  engineRuns (vec47 (block 0x4001 [0] 0)) (block 0x4001 [0] 0) scratchDescs (opsOf scratchDescs) (by decide +kernel) (by decide +kernel) (by decide +kernel)

theorem witness_EngineCommandsComplete_3 : EngineRuns 1 0x4002 false storeRowWork :=
  engineRuns (vec47 (block 0x4002 [0] 0)) (block 0x4002 [0] 0) scratchDescs (opsOf scratchDescs) (by decide +kernel) (by decide +kernel) (by decide +kernel)

theorem witness_EngineCommandsComplete_4 : EngineRuns 1 0x4003 false ewiseWork :=
  engineRuns (vec47 (block 0x4003 [0xFF00, 0xFF01, 0xFFFF, 0xFF02] 0)) (block 0x4003 [0xFF00, 0xFF01, 0xFFFF, 0xFF02] 0) scratchDescs (opsOf scratchDescs) (by decide +kernel) (by decide +kernel) (by decide +kernel)

theorem witness_EngineCommandsComplete_5 : EngineRuns 1 0x4004 false reduceWork :=
  engineRuns (vec47 (block 0x4004 [0xFF00] 0)) (block 0x4004 [0xFF00] 0) scratchDescs (opsOf scratchDescs) (by decide +kernel) (by decide +kernel) (by decide +kernel)

theorem witness_EngineCommandsComplete_6 : EngineRuns 1 0x4005 false softmaxWork :=
  engineRuns (vec47 (block 0x4005 [0xFF00] 0)) (block 0x4005 [0xFF00] 0) scratchDescs (opsOf scratchDescs) (by decide +kernel) (by decide +kernel) (by decide +kernel)

theorem witness_EngineCommandsComplete_7 : EngineRuns 1 0x4006 false rotaryWork :=
  engineRuns (vec47 (block 0x4006 [0xFF00] 0)) (block 0x4006 [0xFF00] 0) scratchDescs (opsOf scratchDescs) (by decide +kernel) (by decide +kernel) (by decide +kernel)

theorem witness_EngineCommandsComplete_8 : EngineRuns 1 0x4007 false convertWork :=
  engineRuns (vec47 (block 0x4007 [0xFF00] 0)) (block 0x4007 [0xFF00] 0) scratchDescs (opsOf scratchDescs) (by decide +kernel) (by decide +kernel) (by decide +kernel)

theorem witness_EngineCommandsComplete_9 : EngineRuns 1 0x4008 false gatherWork :=
  engineRuns (vec47 (block 0x4008 [0, 1] 0)) (block 0x4008 [0, 1] 0) scratchDescs (opsOf scratchDescs) (by decide +kernel) (by decide +kernel) (by decide +kernel)

theorem witness_EngineCommandsComplete_10 : EngineRuns 1 0x4009 false scatterWork :=
  engineRuns (vec47 (block 0x4009 [0, 1] 0)) (block 0x4009 [0, 1] 0) scratchDescs (opsOf scratchDescs) (by decide +kernel) (by decide +kernel) (by decide +kernel)

theorem witness_EngineCommandsComplete_11 : EngineRuns 0 0x3001 true loadWork :=
  engineRuns loadw47 (block 0x3001 [0] 0) [bfDesc] (opsOf [bfDesc]) (by decide +kernel) (by decide +kernel) loadw47_good

theorem witness_EngineCommandsComplete_12 :
  ∃ (s : State) (r : CoreRun) (iss : Issued) (ops : List Opn), AtLastIteration s 47 1 0x400A r iss ∧
    bindOps (fun _ o => addrsOk (s.env 47 1 r) ((s.env 47 1 r).allowed s.mem) o) iss.block iss.descs false ((s.core 47).entries iss.block) = .ok ops ∧
    (lastWork s 47 1 r iss ops sampleWork).2.good = true ∧ (lastWork s 47 1 r iss ops sampleWork).2.part = false ∧ s.accepts (partOfCore s.mode 47) 15 = true :=
  ⟨{ vec47 (block 0x400A [0] 0) with parts := [(0, { accept0 := 2 ^ 15 })] }, runOf47, issuedOf (block 0x400A [0] 0) scratchDescs, opsOf scratchDescs,
   atLast { kd := runOf47.kd } (by decide +kernel), by decide +kernel⟩

theorem witness_EngineCommandsComplete_13 : EngineRuns 0 0x3002 true macWork :=
  engineRuns (live47 { qMx := working (block 0x3002 [0] (2 ^ 28 * 2 + 1)) [bfDesc], active := some false
                       w0 := some ⟨1, 128, 128, List.replicate 128 (List.replicate 128 0), []⟩ }) (block 0x3002 [0] (2 ^ 28 * 2 + 1)) [bfDesc] (opsOf [bfDesc])
    (by decide +kernel) (by decide +kernel) (by decide +kernel)

theorem witness_AccumulatorsAndSpool_0 :
  ∃ (s : State) (c : Nat) (r : CoreRun) (iss : Issued),
    (∃ k, s.running c = some (r, k)) ∧ ((s.core c).queue 0).run = some iss ∧ iss.issued = true ∧ iss.iter = 0 ∧ cbOp iss.block = 0x3004 ∧
    ((s.core c).queue 0).lateFault = none :=
  ⟨live47 { qMx := working (block 0x3004 [] 0x8080) [] }, 47, runOf47, issuedOf (block 0x3004 [] 0x8080) [],
   ⟨{ kd := runOf47.kd }, by decide +kernel⟩, by decide +kernel⟩

theorem witness_AccumulatorsAndSpool_1 :
  ∃ (s : State) (c _cycle : Nat) (r : CoreRun) (iss : Issued),
    (∃ k, s.running c = some (r, k)) ∧ ((s.core c).queue 0).run = some iss ∧ iss.issued = true ∧ cbOp iss.block = 0x3003 ∧
    iss.iter + 1 = (maskPairs iss.block).length ∧ ((s.core c).spool.lockstep = true ∨ 0 < (s.core c).spool.credits) ∧
    ((s.core c).queue 0).lateFault = none :=
  ⟨live47 { qMx := working (block 0x3003 [] 0x8080) [], spool := { credits := 1 } }, 47, 0, runOf47, issuedOf (block 0x3003 [] 0x8080) [],
   ⟨{ kd := runOf47.kd }, by decide +kernel⟩, by decide +kernel⟩

theorem witness_AccumulatorsAndSpool_2 :
  ∃ (_e : Env) (k : Core) (_iss : Issued) (_ops : List Opn) (_n : Nat) (_w : Wk),
    k.spool.lockstep = false ∧ (Table.get {} k.spool.slots (k.spool.cons % 16)).tag = k.spool.cons % 65535 :=
  ⟨live.env 47 1 runOf47, { spool := { prod := 1, slots := [(0, { tag := 0 })] } }, issuedOf (block 0x400B [] 0) [], [], 0, { mem := live.mem },
   by decide +kernel⟩

theorem witness_AccumulatorsAndSpool_3 :
  ∃ (s : State) (c : Nat) (r : CoreRun) (k : Kernel) (i j : Issued),
    s.running c = some (r, k) ∧ (s.core c).qMx.run = some i ∧ (s.core c).qVec.run = some j ∧ i.issued = true ∧ j.issued = true ∧
    cbOp i.block = 0x6010 ∧ cbOp j.block = 0x6010 ∧ (s.core c).qMx.kend = false ∧ (s.core c).qVec.kend = false ∧
    (s.core c).qMx.lateFault = none ∧ (s.core c).qVec.lateFault = none ∧ (∀ q, 2 ≤ q → q < 4 → ((s.core c).queue q).cmds = [] ∧
    ((s.core c).queue q).run = none) :=
  ⟨live47 { qMx := working (block 0x6010 [] 0) [], qVec := working (block 0x6010 [] 0) [] }, 47, runOf47, { kd := runOf47.kd }, issuedOf (block 0x6010 [] 0) [], issuedOf (block 0x6010 [] 0) [],
   by
   simp only [← and_assoc]
   exact ⟨by decide +kernel, fun q h1 h2 => by interval_cases q <;> exact ⟨rfl, rfl⟩⟩⟩

theorem witness_AccumulatorsAndSpool_4 : EngineRuns 1 0x400B false (spoolWork none) :=
  engineRuns (live47 { qVec := working (block 0x400B [0xFFFF, 0xFFFF, 0xFFFF, 0xFF00] 0) [], spool := { prod := 1, slots := [(0, { tag := 0 })] } })
    (block 0x400B [0xFFFF, 0xFFFF, 0xFFFF, 0xFF00] 0) [] (opsOf []) (by decide +kernel) (by decide +kernel) (by decide +kernel)

theorem witness_AccumulatorsAndSpool_5 :
  ∃ (s : State) (r : CoreRun) (iss : Issued) (ops : List Opn), AtLastIteration s 47 1 0x400B r iss ∧
    bindOps (fun _ o => addrsOk (s.env 47 1 r) ((s.env 47 1 r).allowed s.mem) o) iss.block iss.descs false ((s.core 47).entries iss.block) = .ok ops ∧
    (lastWork s 47 1 r iss ops (spoolWork (some 33))).2.good = true ∧ (lastWork s 47 1 r iss ops (spoolWork (some 33))).2.part = false ∧
    (s.core 47).spool.lockstep = true :=
  ⟨live47 { qVec := working (block 0x400B [0xFFFF, 0xFFFF, 0xFFFF, 0xFF00] (33 + 2 ^ 37)) [], spool := { prod := 1, slots := [(0, { tag := 0 })], lockstep := true } },
   runOf47, issuedOf (block 0x400B [0xFFFF, 0xFFFF, 0xFFFF, 0xFF00] (33 + 2 ^ 37)) [], opsOf [], atLast { kd := runOf47.kd } (by decide +kernel), by decide +kernel⟩

theorem witness_SequencerFillsItsSlots_0 : SeqRuns 0x1001 strideEntry := seqRuns (block 0x1001 [0] 0 15) (by decide +kernel) (by decide +kernel)

theorem witness_SequencerFillsItsSlots_1 : SeqRuns 0x1002 indexEntry := seqRuns (block 0x1002 [0] 0 15) (by decide +kernel) (by decide +kernel)

theorem witness_SequencerFillsItsSlots_2 : SeqRuns 0x1003 pageEntry := seqRuns (block 0x1003 [0] 0 15) (by decide +kernel) (by decide +kernel)

theorem witness_StackCommandsAreForwarded_0 : ForwardRuns 0x5001 :=
  ⟨forward47 (block 0x5001 [] 15), runOf47, issuedOf (block 0x5001 [] 15) [], atLast { kd := runOf47.kd } (by decide +kernel), by decide +kernel⟩

theorem witness_StackCommandsAreForwarded_1 : ForwardRuns 0x5002 :=
  ⟨forward47 (block 0x5002 [] 15), runOf47, issuedOf (block 0x5002 [] 15) [], atLast { kd := runOf47.kd } (by decide +kernel), by decide +kernel⟩

theorem witness_StackCommandsAreForwarded_2 : ForwardRuns 0x5003 :=
  ⟨forward47 (block 0x5003 [] 15), runOf47, issuedOf (block 0x5003 [] 15) [], atLast { kd := runOf47.kd } (by decide +kernel), by decide +kernel⟩

theorem witness_StackCommandsAreForwarded_3 : ForwardRuns 0x5004 :=
  ⟨forward47 (block 0x5004 [] 15), runOf47, issuedOf (block 0x5004 [] 15) [], atLast { kd := runOf47.kd } (by decide +kernel), by decide +kernel⟩

theorem witness_StackCommandsAreForwarded_4 : ForwardRuns 0x5005 :=
  ⟨forward47 (block 0x5005 [] 15), runOf47, issuedOf (block 0x5005 [] 15) [], atLast { kd := runOf47.kd } (by decide +kernel), by decide +kernel⟩

theorem witness_StackCommandsAreForwarded_5 : ForwardRuns 0x5006 :=
  ⟨forward47 (block 0x5006 [] 15), runOf47, issuedOf (block 0x5006 [] 15) [], atLast { kd := runOf47.kd } (by decide +kernel), by decide +kernel⟩

theorem witness_StackCommandsAreForwarded_6 : ForwardRuns 0x5008 :=
  ⟨forward47 (block 0x5008 [] 15), runOf47, issuedOf (block 0x5008 [] 15) [], atLast { kd := runOf47.kd } (by decide +kernel), by decide +kernel⟩

theorem witness_StackCommandsAreForwarded_7 : ForwardRuns 0x5009 :=
  ⟨forward47 (block 0x5009 [] 15), runOf47, issuedOf (block 0x5009 [] 15) [], atLast { kd := runOf47.kd } (by decide +kernel), by decide +kernel⟩

theorem witness_StackCommandsComplete_0 : UnitEnds 0x5001 readPrep (fun k _ s a => saTotal k s a) saUnit
    (fun w => w.good = true) :=
  ⟨live15 (activeOf (block 0x5001 [0] (2 ^ 64 * 15 + 2 ^ 96)) stackDescs [(15, .found (pteRaw false false 15 0))] 0) written15,
   (activeOf (block 0x5001 [0] (2 ^ 64 * 15 + 2 ^ 96)) stackDescs [(15, .found (pteRaw false false 15 0))] 0), (activeOf (block 0x5001 [0] (2 ^ 64 * 15 + 2 ^ 96)) stackDescs [(15, .found (pteRaw false false 15 0))] 0),
   atUnit (by decide +kernel), by decide +kernel⟩

theorem witness_StackCommandsComplete_1 : UnitEnds 0x5001 readPrep (fun k _ s a => saTotal k s a) saUnit
    (fun w => w.fault = some 0x0203) :=
  ⟨live15 (activeOf (block 0x5001 [0] (2 ^ 64 * 15 + 2 ^ 96)) stackDescs [(15, .absent)] 0) written15,
   (activeOf (block 0x5001 [0] (2 ^ 64 * 15 + 2 ^ 96)) stackDescs [(15, .absent)] 0), (activeOf (block 0x5001 [0] (2 ^ 64 * 15 + 2 ^ 96)) stackDescs [(15, .absent)] 0),
   atUnit (by decide +kernel), by decide +kernel⟩

theorem witness_StackCommandsComplete_2 : UnitEnds 0x5002 (fun _ _ => noPrep) (fun _ _ _ a => some (mvTotal a)) mvUnit
    (fun w => w.good = true) :=
  ⟨live15 (activeOf (block 0x5002 [0] 0) stackDescs [] 0) written15,
   (activeOf (block 0x5002 [0] 0) stackDescs [] 0), (activeOf (block 0x5002 [0] 0) stackDescs [] 0),
   atUnit (by decide +kernel), by decide +kernel⟩

theorem witness_StackCommandsComplete_3 : UnitEnds 0x5002 (fun _ _ => noPrep) (fun _ _ _ a => some (mvTotal a)) mvUnit
    (fun w => w.fault = some 0x0201) :=
  ⟨live15 (activeOf (block 0x5002 [0] 0) stackDescs [] 0) poisoned15,
   (activeOf (block 0x5002 [0] 0) stackDescs [] 0), (activeOf (block 0x5002 [0] 0) stackDescs [] 0),
   atUnit (by decide +kernel), by decide +kernel⟩

theorem witness_StackCommandsComplete_4 : UnitEnds 0x5003 (fun _ _ => noPrep) (fun _ _ _ a => some (a.iters * max 1 (sgRows a.cmd.iss.block))) gaUnit
    (fun w => w.good = true) :=
  ⟨live15 (activeOf (block 0x5003 [0] 0) stackDescs [] 0) written15,
   (activeOf (block 0x5003 [0] 0) stackDescs [] 0), (activeOf (block 0x5003 [0] 0) stackDescs [] 0),
   atUnit (by decide +kernel), by decide +kernel⟩

theorem witness_StackCommandsComplete_5 : UnitEnds 0x5003 (fun _ _ => noPrep) (fun _ _ _ a => some (a.iters * max 1 (sgRows a.cmd.iss.block))) gaUnit
    (fun w => w.fault = some 0x0201) :=
  ⟨live15 (activeOf (block 0x5003 [0] 0) stackDescs [] 0) poisoned15,
   (activeOf (block 0x5003 [0] 0) stackDescs [] 0), (activeOf (block 0x5003 [0] 0) stackDescs [] 0),
   atUnit (by decide +kernel), by decide +kernel⟩

theorem witness_StackCommandsComplete_6 : UnitEnds 0x5004 (fun _ _ => noPrep) (fun _ _ _ a => some (a.iters * max 1 (sgRows a.cmd.iss.block))) scUnit
    (fun w => w.good = true) :=
  ⟨live15 (activeOf (block 0x5004 [0] (2 ^ 32 + 2 ^ 43)) stackDescs [] 0) written15,
   (activeOf (block 0x5004 [0] (2 ^ 32 + 2 ^ 43)) stackDescs [] 0), (activeOf (block 0x5004 [0] (2 ^ 32 + 2 ^ 43)) stackDescs [] 0),
   atUnit (by decide +kernel), by decide +kernel⟩

theorem witness_StackCommandsComplete_7 : UnitEnds 0x5004 (fun _ _ => noPrep) (fun _ _ _ a => some (a.iters * max 1 (sgRows a.cmd.iss.block))) scUnit
    (fun w => w.fault = some 0x0201) :=
  ⟨live15 (activeOf (block 0x5004 [0] (2 ^ 32 + 2 ^ 43)) stackDescs [] 0) poisoned15,
   (activeOf (block 0x5004 [0] (2 ^ 32 + 2 ^ 43)) stackDescs [] 0), (activeOf (block 0x5004 [0] (2 ^ 32 + 2 ^ 43)) stackDescs [] 0),
   atUnit (by decide +kernel), by decide +kernel⟩

theorem witness_StackCommandsComplete_8 : UnitEnds 0x5005 (fun _ _ => noPrep) (fun _ _ _ a => some (a.iters * max 1 (seRows a.cmd.iss.block))) seUnit
    (fun w => w.good = true) :=
  ⟨live15 (activeOf (block 0x5005 [0] (2 ^ 32 + 2 ^ 41)) stackDescs [] 0) written15,
   (activeOf (block 0x5005 [0] (2 ^ 32 + 2 ^ 41)) stackDescs [] 0), (activeOf (block 0x5005 [0] (2 ^ 32 + 2 ^ 41)) stackDescs [] 0),
   atUnit (by decide +kernel), by decide +kernel⟩

theorem witness_StackCommandsComplete_9 : UnitEnds 0x5005 (fun _ _ => noPrep) (fun _ _ _ a => some (a.iters * max 1 (seRows a.cmd.iss.block))) seUnit
    (fun w => w.fault = some 0x0201) :=
  ⟨live15 (activeOf (block 0x5005 [0] (2 ^ 32 + 2 ^ 41)) stackDescs [] 0) poisoned15,
   (activeOf (block 0x5005 [0] (2 ^ 32 + 2 ^ 41)) stackDescs [] 0), (activeOf (block 0x5005 [0] (2 ^ 32 + 2 ^ 41)) stackDescs [] 0),
   atUnit (by decide +kernel), by decide +kernel⟩

theorem witness_StackCommandsComplete_10 : UnitEnds 0x5006 (fun _ _ => noPrep) (fun _ _ _ a => some (ceilDiv (sfLines a.cmd.iss.block) 64)) sfUnit
    (fun w => w.good = true) :=
  ⟨live15 (activeOf (block 0x5006 [0] (2 ^ 64)) stackDescs [] 0) written15,
   (activeOf (block 0x5006 [0] (2 ^ 64)) stackDescs [] 0), (activeOf (block 0x5006 [0] (2 ^ 64)) stackDescs [] 0),
   atUnit (by decide +kernel), by decide +kernel⟩

theorem witness_StackCommandsComplete_11 : UnitEnds 0x5006 (fun _ _ => noPrep) (fun _ _ _ a => some (ceilDiv (sfLines a.cmd.iss.block) 64)) sfUnit
    (fun w => w.fault = some 0x0204) :=
  ⟨live15 (activeOf (block 0x5006 [0] (2 ^ 64)) stackDescs [] 0) { failed := 1 },
   (activeOf (block 0x5006 [0] (2 ^ 64)) stackDescs [] 0), (activeOf (block 0x5006 [0] (2 ^ 64)) stackDescs [] 0),
   atUnit (by decide +kernel), by decide +kernel⟩

theorem witness_StackCommandsComplete_12 : UnitEnds 0x5008 kePrep keTotal keUnit
    (fun w => w.good = true) :=
  ⟨live15 (activeOf (block 0x5008 [0] (2 ^ 8 * 4)) stackDescs [] 0) written15,
   (activeOf (block 0x5008 [0] (2 ^ 8 * 4)) stackDescs [] 0), (activeOf (block 0x5008 [0] (2 ^ 8 * 4)) stackDescs [] 0),
   atUnit (by decide +kernel), by decide +kernel⟩

theorem witness_StackCommandsComplete_13 : UnitEnds 0x5008 kePrep keTotal keUnit
    (fun w => w.fault = some 0x0201) :=
  ⟨live15 (activeOf (block 0x5008 [0] (2 ^ 8 * 2 + 2 ^ 52 + 2 ^ 64 * 15 + 2 ^ 96 + 2 ^ 118)) stackDescs [(15, .failed 0x0201)] 1) written15,
   (activeOf (block 0x5008 [0] (2 ^ 8 * 2 + 2 ^ 52 + 2 ^ 64 * 15 + 2 ^ 96 + 2 ^ 118)) stackDescs [(15, .failed 0x0201)] 1), (activeOf (block 0x5008 [0] (2 ^ 8 * 2 + 2 ^ 52 + 2 ^ 64 * 15 + 2 ^ 96 + 2 ^ 118)) stackDescs [(15, .failed 0x0201)] 1),
   atUnit (by decide +kernel), by decide +kernel⟩

theorem witness_StackCommandsComplete_14 : UnitEnds 0x5009 readPrep (fun k _ => kxTotal k) (fun s e k a n => if stkFn a.cmd.iss.block = 1 then kiUnit s e k a n else kxUnit s e k a n)
    (fun w => w.good = true) :=
  ⟨live15 (activeOf (block 0x5009 [0] (2 ^ 64 * 15 + 2 ^ 96)) stackDescs [(15, .found (pteRaw false false 15 0))] 0) written15,
   (activeOf (block 0x5009 [0] (2 ^ 64 * 15 + 2 ^ 96)) stackDescs [(15, .found (pteRaw false false 15 0))] 0), (activeOf (block 0x5009 [0] (2 ^ 64 * 15 + 2 ^ 96)) stackDescs [(15, .found (pteRaw false false 15 0))] 0),
   atUnit (by decide +kernel), by decide +kernel⟩

theorem witness_StackCommandsComplete_15 : UnitEnds 0x5009 readPrep (fun k _ => kxTotal k) (fun s e k a n => if stkFn a.cmd.iss.block = 1 then kiUnit s e k a n else kxUnit s e k a n)
    (fun w => w.fault = some 0x0203) :=
  ⟨live15 (activeOf (block 0x5009 [0] (2 ^ 64 * 15 + 2 ^ 96)) stackDescs [(15, .absent)] 0) written15,
   (activeOf (block 0x5009 [0] (2 ^ 64 * 15 + 2 ^ 96)) stackDescs [(15, .absent)] 0), (activeOf (block 0x5009 [0] (2 ^ 64 * 15 + 2 ^ 96)) stackDescs [(15, .absent)] 0),
   atUnit (by decide +kernel), by decide +kernel⟩

theorem witness_DrainActivationAndSlices_0 :
  ∃ (s : State) (c : Nat) (r : CoreRun) (iss : Issued),
    AtLastIteration s c 2 0x5007 r iss ∧ ((s.core c).queue 2).lateFault = none ∧ (∀ k ∈ drainStacks c iss.block, (s.engine k).holds c = false) :=
  ⟨live47 { qDma := working (block 0x5007 [] (2 ^ 32 + 2 ^ 33)) [] }, 47, runOf47, issuedOf (block 0x5007 [] (2 ^ 32 + 2 ^ 33)) [],
   atLast { kd := runOf47.kd } (by decide +kernel), by decide +kernel, by decide +kernel⟩

theorem witness_DrainActivationAndSlices_1 :
  ∃ (s : State) (c : Nat) (r : CoreRun) (iss : Issued),
    AtLastIteration s c 2 0x5007 r iss ∧ (∃ k ∈ drainStacks c iss.block, (s.engine k).holds c = true) :=
  ⟨{ live47 { qDma := working (block 0x5007 [] (2 ^ 32 + 2 ^ 33)) [] } with engines := [(15, { subq := [(11, [{ (activeOf (block 0x5001 [] 0) []).cmd with core := 47 }])] })] }, 47, runOf47, issuedOf (block 0x5007 [] (2 ^ 32 + 2 ^ 33)) [],
   atLast { kd := runOf47.kd } (by decide +kernel), by decide +kernel⟩

theorem witness_DrainActivationAndSlices_2 :
  ∃ (s : State) (k area i : Nat) (x : StkCmd) (rest : List StkCmd),
    area < 4 ∧ i < 12 ∧ ((s.engine k).act area) = none ∧ (∀ a, a < area → ((s.engine k).act a).isSome = true) ∧
    Table.get [] (s.engine k).subq (((s.engine k).lastCore + 1 + i) % 12) = x :: rest ∧
    (s.engine k).active.any (fun a => a.2.cmd.core % 12 == ((s.engine k).lastCore + 1 + i) % 12) = false ∧
    (∀ j, j < i → Table.get [] (s.engine k).subq (((s.engine k).lastCore + 1 + j) % 12) = [] ∨ (s.engine k).active.any (fun a => a.2.cmd.core % 12 == ((s.engine k).lastCore + 1 + j) % 12) = true) :=
  ⟨liveEngine 15 { lastCore := 5, subq := [(0, [{ (activeOf (block 0x5001 [] 0) []).cmd with core := 0 }]), (5, [{ (activeOf (block 0x5001 [] 0) []).cmd with core := 5 }])], active := [(0, { (activeOf (block 0x5001 [] 0) []) with cmd := { (activeOf (block 0x5001 [] 0) []).cmd with core := 0 } }), (1, { (activeOf (block 0x5001 [] 0) []) with cmd := { (activeOf (block 0x5001 [] 0) []).cmd with core := 1 } }), (2, { (activeOf (block 0x5001 [] 0) []) with cmd := { (activeOf (block 0x5001 [] 0) []).cmd with core := 2 } })] }, 15, 3, 11, { (activeOf (block 0x5001 [] 0) []).cmd with core := 5 }, [],
   by decide +kernel⟩

theorem witness_DrainActivationAndSlices_3 :
  ∃ (s : State) (k i : Nat),
    i < 4 ∧ (s.engine k).lanesLive (((s.engine k).sliceArea + 1 + i) % 4) = true ∧
    (∀ j, j < i → (s.engine k).lanesLive (((s.engine k).sliceArea + 1 + j) % 4) = false) :=
  ⟨liveEngine 15 { sliceArea := 2, active := [(2, { (activeOf (block 0x5001 [] 0) []) with cmd := { (activeOf (block 0x5001 [] 0) []).cmd with core := 2 } })] }, 15, 3,
   by decide +kernel⟩

/-- One lane user whose slice it is; another whose predecessor has ended. -/
theorem witness_DrainActivationAndSlices_4 :
  ∃ (s : State) (k area : Nat) (a : ActiveCmd), (s.engine k).act area = some a ∧ a.usesLanes = true ∧ a.done = false ∧ a.fault = none ∧
    area ≠ (s.engine k).sliceArea ∧ (s.engine k).mayCompute area = true :=
  ⟨liveEngine 15 { sliceArea := 2, active := [(2, { (activeOf (block 0x5001 [] 0) []) with done := true }), (3, activeOf (block 0x5001 [] 0) [])] }, 15, 3,
   activeOf (block 0x5001 [] 0) [], by decide +kernel⟩

/-- A command of stack 15 waits for the walk of page 0, whose entry is there. -/
def walking15 (fills : Stack) : State := { live15 (activeOf (block 0x5001 [0] 0) stackDescs [(transKey 0 0, .walking)]) written15 with mem := { stk := [(0, fills), (15, written15)] } }

theorem witness_WalksGranulesAndCompletions_0 :
  ∃ (s : State) (k slot layer page : Nat) (x : Nat × ActiveCmd), (s.engine k).active.find? (fun a => walkWaits slot layer page a.2) = some x ∧
    (Wk.readNat (s.stkEnv x.2.cmd) { mem := s.mem } (s.pteAddrOf x.2.cmd.part slot layer page) 64).2.good = true ∧
    pteAbsent (Wk.readNat (s.stkEnv x.2.cmd) { mem := s.mem } (s.pteAddrOf x.2.cmd.part slot layer page) 64).1 k = false ∧ (s.engine k).lab.length ≤ 64 :=
  ⟨walking15 { bytes := (leBytes 8 (pteRaw false false 15 0)).zipIdx.filterMap (fun b => if b.1 = 0 then none else some ⟨b.2, b.1⟩), fills := [⟨0, 4096, 0⟩] },
   15, 0, 0, 0, (3, activeOf (block 0x5001 [0] 0) stackDescs [(transKey 0 0, .walking)]),
   by decide +kernel⟩

theorem witness_WalksGranulesAndCompletions_1 :
  ∃ (s : State) (k area : Nat) (g : Gran) (a : ActiveCmd),
    (s.engine k).queue.find? (fun q => (s.engine k).credit q.1) = some (area, g) ∧ (s.engine k).act area = some a ∧ (s.engine k).queue.length ≤ 32 :=
  ⟨liveEngine 15 { active := [(3, activeOf (block 0x5001 [] 0) [])], queue := List.replicate 32 (3, ⟨none, none, []⟩) }, 15, 3, ⟨none, none, []⟩,
   activeOf (block 0x5001 [] 0) [],
   by decide +kernel⟩

theorem witness_WalksGranulesAndCompletions_2 :
  ∃ (s : State) (k area : Nat) (a : ActiveCmd),
    (s.engine k).act area = some a ∧ a.done = true :=
  ⟨live15 { (activeOf (block 0x5001 [0] 0) stackDescs) with done := true, flags := flagIDX } written15, 15, 3, { (activeOf (block 0x5001 [0] 0) stackDescs) with done := true, flags := flagIDX },
   by decide +kernel⟩

theorem witness_WalksGranulesAndCompletions_3 :
  ∃ (s : State) (k area st : Nat) (a : ActiveCmd),
    (s.engine k).act area = some a ∧ a.fault = some st :=
  ⟨live15 { (activeOf (block 0x5001 [0] 0) stackDescs) with fault := some 0x0203 } written15, 15, 3, 0x0203, { (activeOf (block 0x5001 [0] 0) stackDescs) with fault := some 0x0203 },
   by decide +kernel⟩

theorem witness_StepsIssueKernelsAndEnd_0 :
  ∃ (s : State) (p : Nat),
    s.kernelDue p = true ∧ s.ropeOn p = false ∧ (stepRecord s p).2.good = true ∧
    (s.takeWork (stepRecord s p).2).startOk p (s.part p).srvCtx (BitVec.ofNat 512 (leNat (stepRecord s p).1)) = true :=
  ⟨{ livePart { phase := .running, klist := 2 ^ 52, srvEn := true, srvCtx := 63 } with
     contexts := [(63, { en := true, cores := 4, saveWritten := true })], mem := (live.mem.writeLine 0 0 0 0 ((leBytes 64 (2 ^ 66)).map some)).1 }, 0,
   by decide +kernel⟩

theorem witness_StepsIssueKernelsAndEnd_1 :
  ∃ (s : State) (p st : Nat),
    s.kernelDue p = true ∧ s.ropeOn p = false ∧ (stepRecord s p).2.fault = some st ∧ st ≠ 0 :=
  ⟨{ livePart { phase := .running, klist := 2 ^ 52, srvEn := true, srvCtx := 63 } with mem := { stk := [(0, poisoned15)] } }, 0, 0x0201,
   by decide +kernel⟩

theorem witness_StepsIssueKernelsAndEnd_3 :
  ∃ (s : State) (p : Nat),
    s.kernelDue p = true ∧ s.ropeOn p = false ∧ (stepRecord s p).2.good = true ∧
    (s.takeWork (stepRecord s p).2).startOk p (s.part p).srvCtx (BitVec.ofNat 512 (leNat (stepRecord s p).1)) = false :=
  ⟨{ livePart { phase := .running, klist := 2 ^ 52, srvEn := true, srvCtx := 63 } with mem := { stk := [(0, { fills := [⟨0, 4096, 0⟩] })] } }, 0,
   by decide +kernel⟩

theorem witness_StepsIssueKernelsAndEnd_2 :
  ∃ (s : State) (p _d : Nat),
    s.isLive = true ∧ p < nParts s.mode ∧ s.stepDone p = true ∧ s.ringsRead p = true ∧ (s.whole (fun b => b.firstPart p true)).2 = true :=
  ⟨livePart { phase := .running, srvEn := true }, 0, 7,
   by decide +kernel⟩

theorem witness_RequestsAreReadFromTheRing_0 :
  ∃ (s : State) (fn : Nat) (v : BitVec 1024),
    RingHasEntry s fn ∧ (s.part (funcPart fn)).phase ≠ .idle ∧ rqOp v.toNat ≠ 2 ∧ rqOp v.toNat ≠ 3 :=
  ⟨{ liveFunc 124 { rq := { cfg := 2 ^ 11 + 5, head := 2 ^ 32 - 1 } } with parts := [(0, { phase := .running })] }, 124, 1,
   ringHas (by decide +kernel), by decide +kernel⟩

theorem witness_RequestsAreReadFromTheRing_1 :
  ∃ (s : State) (fn : Nat) (v : BitVec 1024),
    RingHasEntry s fn ∧ (s.part (funcPart fn)).phase = .idle ∧ rqOp v.toNat ≠ 2 ∧ rqOp v.toNat ≠ 3 :=
  ⟨liveFunc 124 { rq := { cfg := 2 ^ 11 + 5, head := 2 ^ 32 - 1 } }, 124, 1,
   ringHas (by decide +kernel), by decide +kernel⟩

theorem witness_RequestsAreReadFromTheRing_2 :
  ∃ (s : State) (fn : Nat) (v : BitVec 1024), RingHasEntry s fn ∧ (s.part (funcPart fn)).phase ≠ .idle ∧ rqOp v.toNat = 2 :=
  ⟨{ liveFunc 124 { rq := { cfg := 2 ^ 11 + 5, head := 2 ^ 32 - 1 } } with parts := [(0, { phase := .running })] }, 124, 2,
   ringHas (by decide +kernel), by decide +kernel⟩

theorem witness_RequestsAreReadFromTheRing_3 :
  ∃ (s : State) (fn : Nat) (v : BitVec 1024), RingHasEntry s fn ∧ (s.part (funcPart fn)).phase ≠ .idle ∧ rqOp v.toNat = 3 :=
  ⟨{ liveFunc 124 { rq := { cfg := 2 ^ 11 + 5, head := 2 ^ 32 - 1 } } with parts := [(0, { phase := .running })] }, 124, 3,
   ringHas (by decide +kernel), by decide +kernel⟩

theorem witness_RequestsAreReadFromTheRing_4 :
  ∃ (s : State) (fn : Nat) (v : BitVec 1024), RingHasEntry s fn ∧ (s.part (funcPart fn)).phase = .idle ∧ rqOp v.toNat = 2 :=
  ⟨liveFunc 124 { rq := { cfg := 2 ^ 11 + 5, head := 2 ^ 32 - 1 } }, 124, 2,
   ringHas (by decide +kernel), by decide +kernel⟩

theorem witness_RequestsAreReadFromTheRing_5 :
  ∃ (s : State) (fn : Nat) (v : BitVec 1024), RingHasEntry s fn ∧ (s.part (funcPart fn)).phase = .idle ∧ rqOp v.toNat = 3 :=
  ⟨liveFunc 124 { rq := { cfg := 2 ^ 11 + 5, head := 2 ^ 32 - 1 } }, 124, 3,
   ringHas (by decide +kernel), by decide +kernel⟩

theorem witness_TransfersAndEpochs_0 :
  ∃ (s : State) (p k : Nat),
    s.transferring p k .parking = true :=
  ⟨livePart { phase := .idle, slots := [(4095, { state := .parking })] }, 0, 4095,
   by decide +kernel⟩

theorem witness_TransfersAndEpochs_1 :
  ∃ (s : State) (p k : Nat) (_data : List Byte),
    s.transferring p k .returning = true :=
  ⟨livePart { phase := .idle, slots := [(4095, { state := .returning })] }, 0, 4095, [],
   by decide +kernel⟩

theorem witness_TransfersAndEpochs_2 :
  ∃ (s : State) (p k : Nat) (data : List Byte),
    s.transferring p k .returning = true ∧ (s.part p).phase ≠ .idle ∧
    (s.whole (fun b => b.kvOn p (fun e x => restorePages b.s p k e data (parkedEntries b.s p k e x).1 (b.s.slot p k).units (parkedEntries b.s p k e x).2))).2 = true :=
  ⟨livePart { phase := .running, slots := [(4095, { state := .returning })] }, 0, 4095, [],
   by decide +kernel⟩

theorem witness_TransfersAndEpochs_3 :
  ∃ (s : State) (p _n : Nat),
    s.isLive = true ∧ p < nParts s.mode :=
  ⟨live, 0, 7,
   by decide +kernel⟩

theorem witness_TransfersAndEpochs_4 :
  ∃ (s : State) (p : Nat),
    (s.part p).phase ≠ .idle :=
  ⟨livePart { phase := .running, slots := [(4095, { state := .parking })] }, 0,
   by decide +kernel⟩

theorem witness_TransfersAndEpochs_5 : ∃ (s : State) (p : Nat), (s.part p).phase = .idle := ⟨live, 0, rfl⟩

theorem witness_ChannelsAndBuffersOfAStack_0 :
  ∃ (s : State) (k pc : Nat),
    s.pcOn k pc = true ∧ s.host.waits = [] :=
  ⟨live, 15, 63,
   by decide +kernel⟩

theorem witness_ChannelsAndBuffersOfAStack_1 :
  ∃ (s : State) (k c : Nat),
    s.pcOn k (2 * c) = true ∧ c < 32 ∧ NoTestHolds s ∧ 0 < s.cairnFree :=
  ⟨live, 15, 31,
   by decide +kernel, by decide, noTests (by decide +kernel), by decide +kernel⟩

theorem witness_ChannelsAndBuffersOfAStack_2 :
  ∃ (s : State) (k pc : Nat),
    s.pcOn k pc = true ∧ pc ∉ (s.mem.stack k).refreshing ∧ (s.mem.stack k).refreshing.length < (if (s.mem.stack k).hotRefresh then 4 else 2) :=
  ⟨liveStack 15 { refreshing := [62] }, 15, 63,
   by decide +kernel⟩

theorem witness_ChannelsAndBuffersOfAStack_3 :
  ∃ (s : State) (k pc : Nat),
    pc ∈ (s.mem.stack k).refreshing ∧ s.host.waits = [] :=
  ⟨liveStack 15 { refreshing := [63] }, 15, 63,
   by decide +kernel⟩

/-- An access of the host waits for a channel that refreshes. -/
theorem witness_ChannelsAndBuffersOfAStack_8 :
  ∃ (s : State) (k pc : Nat), s.pcOn k pc = true ∧ pc ∈ (s.mem.stack k).refreshing ∧ s.host.waits ≠ [] ∧ NoTestHolds s :=
  ⟨{ liveStack 15 { refreshing := [63] } with host := { link := .up, waits := [.memRead 0 true] } }, 15, 63,
   by decide +kernel, by decide +kernel, by decide +kernel, noTests (by decide +kernel)⟩

theorem witness_ChannelsAndBuffersOfAStack_4 :
  ∃ (s : State) (k pc : Nat),
    s.pcOn k pc = true ∧ pc ∈ (s.mem.stack k).refreshing ∧ NoTestHolds s :=
  ⟨liveStack 15 { refreshing := [63] }, 15, 63,
   by decide +kernel, by decide +kernel, noTests (by decide +kernel)⟩

theorem witness_ChannelsAndBuffersOfAStack_5 :
  ∃ (s : State) (k line : Nat) (w : WcLine),
    s.dramOn = true ∧ (s.mem.stack k).wc.find? (fun x => x.line == line) = some w ∧ (s.mem.stack k).closed true line = false ∧ NoTestHolds s :=
  ⟨liveStack 15 { wc := [⟨2 ^ 30 - 1, List.replicate 64 (some 7)⟩] }, 15, 2 ^ 30 - 1, ⟨2 ^ 30 - 1, List.replicate 64 (some 7)⟩,
   by decide +kernel, by decide +kernel, by decide +kernel, noTests (by decide +kernel)⟩

theorem witness_ChannelsAndBuffersOfAStack_6 :
  ∃ (s : State) (k pc : Nat), s.pcOn k pc = true ∧ s.host.waits = [] ∧ Table.get 0 (s.mem.stack k).retries pc < 2 :=
  ⟨liveStack 15 { retries := [(63, 1)] }, 15, 63,
   by decide +kernel⟩

theorem witness_ChannelsAndBuffersOfAStack_7 :
  ∃ (s : State) (k pc : Nat), s.pcOn k pc = true ∧ s.host.waits = [] ∧ 2 ≤ Table.get 0 (s.mem.stack k).retries pc ∧ NoTestHolds s :=
  ⟨liveStack 15 { retries := [(63, 2)] }, 15, 63,
   by decide +kernel, rfl, by decide +kernel, noTests (by decide +kernel)⟩

theorem witness_DictionaryAnswers_0 :
  ∃ (s : State) (who : Requester) (msg : List Byte),
    RequestArrives s who msg ∧ (parseMsg msg).op = 1 :=
  ⟨live, port5, (request 1 0x1100 1),
   arrives_of (by decide +kernel), by decide +kernel⟩

theorem witness_DictionaryAnswers_1 :
  ∃ (s : State) (who : Requester) (msg : List Byte),
    RequestArrives s who msg ∧ (3 < (parseMsg msg).op ∨ (parseMsg msg).op = 0) :=
  ⟨live, port5, (request 4 0x1100 1),
   arrives_of (by decide +kernel), by decide +kernel⟩

theorem witness_DictionaryAnswers_2 :
  ∃ (s : State) (who : Requester) (msg : List Byte),
    RequestArrives s who msg ∧ (parseMsg msg).op = 3 :=
  ⟨live, port5, (request 3 0 0),
   arrives_of (by decide +kernel), by decide +kernel⟩

theorem witness_DictionaryAnswers_3 :
  ∃ (s : State),
    s.dictOn = true :=
  ⟨live,
   by decide +kernel⟩

theorem witness_DictionaryAnswers_4 :
  ∃ (s : State) (target : Nat),
    target ≠ mgmtAddr s.nv.mac :=
  ⟨live, 2 ^ 128 - 1,
   by decide +kernel⟩

theorem witness_DictionaryAnswers_5 :
  ∃ (s : State) (_a _u : Nat) (msg : List Byte),
    malformed false msg = true ∧ s.dictOn = true ∧ s.dict.flash = none :=
  ⟨live, 5, 7, [],
   by decide +kernel⟩

theorem witness_DictionaryAnswers_6 :
  ∃ (s : State) (a u : Nat) (msg resp : List Byte) (x : Requester × Nat × List Byte),
    malformed false msg = false ∧ s.dictOn = true ∧ s.dict.flash = none ∧
    s.dict.lasts.find? (fun x => x.1 == .port a u && x.2.1 == (parseMsg msg).seq) = some x ∧ x.2.2 = resp :=
  ⟨liveDict { lasts := [(port5, 9, [1])] }, 5, 7, (request 2 0x1300 1), [1], (port5, 9, [1]),
   by decide +kernel⟩

theorem witness_DictionaryAnswers_7 :
  ∃ (s : State) (who : Requester) (msg : List Byte), RequestArrives s who msg ∧ who = .mailbox 0 ∧ (parseMsg msg).op = 0 :=
  ⟨live, .mailbox 0, (request 0 0x1100 1),
   arrives_of (by decide +kernel), rfl, by decide +kernel⟩

theorem witness_DictionaryAnswers_8 :
  ∃ (s : State) (a u : Nat) (msg : List Byte) (x : Requester × Nat × List Byte), malformed false msg = false ∧ s.dictOn = true ∧ s.dict.flash = none ∧
    s.dict.lasts.find? (fun x => x.1 == .port a u && x.2.1 == (parseMsg msg).seq) = some x ∧ (parseMsg msg).op = 1 :=
  ⟨liveDict { lasts := [(port5, 9, [1])] }, 5, 7, (request 1 0x1300 1), (port5, 9, [1]),
   by decide +kernel⟩

theorem witness_DictionaryAnswers_9 :
  ∃ (s : State) (a u : Nat) (msg : List Byte) (x : Requester × Nat × List Byte), malformed false msg = false ∧ s.dictOn = true ∧ s.dict.flash = none ∧
    s.dict.lasts.find? (fun x => x.1 == .port a u && x.2.1 == (parseMsg msg).seq) = some x ∧ (parseMsg msg).op = 3 :=
  ⟨liveDict { lasts := [(port5, 9, [1])] }, 5, 7, (request 3 0x1300 1), (port5, 9, [1]),
   by decide +kernel⟩

theorem witness_DictionaryAnswers_10 :
  ∃ (s : State) (fn : Nat) (msg : List Byte), RequestArrives s (.mailbox fn) msg ∧ (parseMsg msg).op = 3 :=
  ⟨live, 0, request 3 0 0, arrives_of (by decide +kernel), by decide +kernel⟩

theorem witness_DictionaryAnswers_11 :
  ∃ (_s : State) (_a _u : Nat) (d : Dest) (msg : List Byte), d = .multicast ∨ (d = .allNodes ∧ malformed false msg = false ∧ (parseMsg msg).op ≠ 3) :=
  ⟨live, 5, 7, .allNodes, request 1 0x1100 1, by decide +kernel⟩

theorem witness_DictionaryAnswers_16 :
  (∃ (s : State) (who : Requester) (msg : List Byte), RequestArrives s who msg ∧ (parseMsg msg).op = 1 ∧ (parseMsg msg).sub = 0 ∧
    subCount (parseMsg msg).index ≠ 0) ∧
  (∃ (s : State) (who : Requester) (msg : List Byte), RequestArrives s who msg ∧ (parseMsg msg).op = 1 ∧
    rowOf (parseMsg msg).index (parseMsg msg).sub = none ∧ ((parseMsg msg).sub = 0 → subCount (parseMsg msg).index = 0)) ∧
  (∃ (s : State) (who : Requester) (msg : List Byte) (r : Row), RequestArrives s who msg ∧ (parseMsg msg).op = 1 ∧
    rowOf (parseMsg msg).index (parseMsg msg).sub = some r ∧ (parseMsg msg).sub ≠ 0 ∧ r.kind = .part ∧ nParts s.mode ≤ (parseMsg msg).sub - r.lo) :=
  ⟨⟨live, port5, readOf 0x1D00 0 1, arrives_of (by decide +kernel), by decide +kernel⟩,
   ⟨live, port5, readOf 0x1D01 0 1, arrives_of (by decide +kernel), by decide +kernel⟩,
   ⟨live, port5, readOf 0x1C10 12 1, ⟨0x1C10, 9, 4, .dom 640, .ro, .part⟩, arrives_of (by decide +kernel), by decide +kernel⟩⟩

theorem witness_DictionaryAnswers_17 :
  (∃ (s : State) (who : Requester) (msg : List Byte) (r : Row) (n : Nat), ReadReaches s who msg r ∧ r.ty = .num n) ∧
  (∃ (s : State) (who : Requester) (msg : List Byte) (r : Row), ReadReaches s who msg r ∧ r.ty = .str) :=
  ⟨⟨modeTwo, port5, readOf 0x1A10 8 4, ⟨0x1A10, 5, 4, .num 4, .ro, .part⟩, 4, readReaches_of (by decide +kernel) (by decide +kernel), rfl⟩,
   ⟨live, .mailbox 0, readOf 0x1000 4 0, ⟨0x1000, 4, 1, .str, .const, .whole⟩, readReaches_of (by decide +kernel) (by decide +kernel), rfl⟩⟩

/-- The first window of a read-only object, and its size behind it. -/
theorem witness_DictionaryAnswers_18 :
  (∃ (s : State) (who : Requester) (msg : List Byte) (r : Row) (max : Nat), ReadReaches s who msg r ∧ r.ty = .dom max ∧ r.acc = .ro ∧
    (parseMsg msg).offset = 0 ∧ (parseMsg msg).len = 65535) ∧
  (∃ (s : State) (who : Requester) (msg : List Byte) (r : Row) (max : Nat), ReadReaches s who msg r ∧ r.ty = .dom max ∧ r.acc = .ro ∧
    (parseMsg msg).offset ≠ 0 ∧ (parseMsg msg).len = 0) :=
  ⟨⟨live, port5, readOf 0x1401 1 65535, ⟨0x1401, 1, 1, .dom 24, .ro, .whole⟩, 24, readReaches_of (by decide +kernel) (by decide +kernel),
    by decide +kernel⟩,
   ⟨live, port5, readOf 0x1401 1 0 24, ⟨0x1401, 1, 1, .dom 24, .ro, .whole⟩, 24, readReaches_of (by decide +kernel) (by decide +kernel),
    by decide +kernel⟩⟩

/-- A later window with its snapshot, inside it and at its end, and one whose snapshot is lost. -/
theorem witness_DictionaryAnswers_19 :
  (∃ (s : State) (who : Requester) (msg : List Byte) (r : Row) (max : Nat) (x : Requester × Staging), ReadReaches s who msg r ∧ r.ty = .dom max ∧
    r.acc = .ro ∧ (parseMsg msg).offset ≠ 0 ∧ (parseMsg msg).len ≠ 0 ∧ s.dict.snaps.find? (fun x => x.1 == who) = some x ∧
    x.2.index = (parseMsg msg).index ∧ x.2.sub = (parseMsg msg).sub ∧ (parseMsg msg).offset < x.2.bytes.length) ∧
  (∃ (s : State) (who : Requester) (msg : List Byte) (r : Row) (max : Nat) (x : Requester × Staging), ReadReaches s who msg r ∧ r.ty = .dom max ∧
    r.acc = .ro ∧ (parseMsg msg).offset ≠ 0 ∧ (parseMsg msg).len ≠ 0 ∧ s.dict.snaps.find? (fun x => x.1 == who) = some x ∧
    x.2.index = (parseMsg msg).index ∧ x.2.sub = (parseMsg msg).sub ∧ (parseMsg msg).offset = x.2.bytes.length) ∧
  (∃ (s : State) (who : Requester) (msg : List Byte) (r : Row) (max : Nat), ReadReaches s who msg r ∧ r.ty = .dom max ∧
    r.acc = .ro ∧ (parseMsg msg).offset ≠ 0 ∧ (parseMsg msg).len ≠ 0 ∧ s.dict.snaps.find? (fun x => x.1 == who) = none) :=
  ⟨⟨liveDict { snaps := [(port5, ⟨0x1401, 1, [1, 2]⟩)] }, port5, readOf 0x1401 1 1 1, ⟨0x1401, 1, 1, .dom 24, .ro, .whole⟩, 24,
    (port5, ⟨0x1401, 1, [1, 2]⟩), readReaches_of (by decide +kernel) (by decide +kernel), by decide +kernel⟩,
   ⟨liveDict { snaps := [(port5, ⟨0x1401, 1, [1, 2]⟩)] }, port5, readOf 0x1401 1 1 2, ⟨0x1401, 1, 1, .dom 24, .ro, .whole⟩, 24,
    (port5, ⟨0x1401, 1, [1, 2]⟩), readReaches_of (by decide +kernel) (by decide +kernel), by decide +kernel⟩,
   ⟨live, port5, readOf 0x1401 1 1 1, ⟨0x1401, 1, 1, .dom 24, .ro, .whole⟩, 24, readReaches_of (by decide +kernel) (by decide +kernel),
    by decide +kernel⟩⟩

/-- Objects that are written: they take no snapshot, and a write-only one reads empty. -/
theorem witness_DictionaryAnswers_20 :
  (∃ (s : State) (who : Requester) (msg : List Byte) (r : Row) (max : Nat), ReadReaches s who msg r ∧ r.ty = .dom max ∧ r.acc ≠ .ro ∧ r.acc ≠ .wo) ∧
  (∃ (s : State) (who : Requester) (msg : List Byte) (r : Row) (max : Nat), ReadReaches s who msg r ∧ r.ty = .dom max ∧ r.acc = .wo) :=
  ⟨⟨live, port5, readOf 0x1801 1 64 64, ⟨0x1801, 1, 1, .dom 2048, .rw, .whole⟩, 2048, readReaches_of (by decide +kernel) (by decide +kernel), rfl,
    by decide, by decide⟩,
   ⟨live, port5, readOf 0x1B00 7 0, ⟨0x1B00, 7, 1, .dom 65536, .wo, .whole⟩, 65536, readReaches_of (by decide +kernel) (by decide +kernel), rfl,
    rfl⟩⟩

/-- A malformed datagram at ff02::1. -/
theorem witness_DictionaryAnswers_21 :
  ∃ (s : State) (_a _u : Nat) (d : Dest) (msg : List Byte), d = .allNodes ∧ malformed false msg = true ∧ s.dictOn = true ∧ s.dict.flash = none :=
  ⟨live, 5, 7, .allNodes, [1], by decide +kernel⟩

theorem witness_DictionaryAnswers_12 :
  ∃ (_s : State) (_a _u : Nat) (msg : List Byte), malformed false msg = false ∧ (parseMsg msg).op = 3 :=
  ⟨live, 5, 7, request 3 0 0, by decide +kernel⟩

theorem witness_DictionaryAnswers_13 :
  ∃ (s : State) (a u : Nat) (msg resp : List Byte) (x : Requester × Nat × List Byte), malformed false msg = false ∧ s.dictOn = true ∧ s.dict.flash = none ∧
    s.dict.lasts.find? (fun x => x.1 == .port a u && x.2.1 == (parseMsg msg).seq) = some x ∧ x.2.2 = resp ∧ (parseMsg msg).op = 2 :=
  ⟨liveDict { lasts := [(port5, 9, [1])] }, 5, 7, request 2 0x1300 1, [1], (port5, 9, [1]), by decide +kernel⟩

theorem witness_DictionaryAnswers_14 :
  ∃ (s : State) (a u : Nat) (msg resp : List Byte) (x : Requester × Nat × List Byte), malformed false msg = false ∧ s.dictOn = true ∧ s.dict.flash = none ∧
    s.dict.lasts.find? (fun x => x.1 == .port a u && x.2.1 == (parseMsg msg).seq) = some x ∧ x.2.2 = resp ∧ (parseMsg msg).op ≠ 2 ∧ (parseMsg msg).op ≠ 3 :=
  ⟨liveDict { lasts := [(port5, 9, [1])] }, 5, 7, request 1 0x1300 1, [1], (port5, 9, [1]), by decide +kernel⟩

theorem witness_DictionaryAnswers_15 :
  ∃ (s : State) (a u : Nat) (msg resp : List Byte) (x : Requester × Nat × List Byte), malformed false msg = false ∧ s.dictOn = true ∧ s.dict.flash = none ∧
    s.dict.lasts.find? (fun x => x.1 == .port a u && x.2.1 == (parseMsg msg).seq) = some x ∧ x.2.2 = resp ∧ (parseMsg msg).op = 3 :=
  ⟨liveDict { lasts := [(port5, 9, [1])] }, 5, 7, request 3 0x1300 1, [1], (port5, 9, [1]), by decide +kernel⟩

theorem witness_WritesAreRefusedOrTaken_0 :
  ∃ (s : State) (who : Requester) (msg : List Byte),
    RequestArrives s who msg ∧ (parseMsg msg).op = 2 ∧ s.isLive = false :=
  ⟨{ live with start := { live.start with phase := .stopping } }, port5, (writeOf 0x1300 1 2 800),
   arrives_of (by decide +kernel), by decide +kernel⟩

theorem witness_WritesAreRefusedOrTaken_1 :
  ∃ (s : State) (who : Requester) (msg : List Byte),
    RequestArrives s who msg ∧ (parseMsg msg).op = 2 ∧ s.isLive = true ∧ (parseMsg msg).sub ≠ 0 ∧
    rowOf (parseMsg msg).index (parseMsg msg).sub = none :=
  ⟨live, port5, (writeOf 0x1300 5 2 800),
   arrives_of (by decide +kernel), by decide +kernel⟩

theorem witness_WritesAreRefusedOrTaken_2 :
  ∃ (s : State) (who : Requester) (msg : List Byte) (r : Row),
    RequestArrives s who msg ∧ (parseMsg msg).op = 2 ∧ s.isLive = true ∧ (parseMsg msg).sub ≠ 0 ∧
    rowOf (parseMsg msg).index (parseMsg msg).sub = some r ∧ (r.acc = .ro ∨ r.acc = .const) ∧
    r.missing s.mode ((parseMsg msg).sub - r.lo) = false :=
  ⟨live, port5, (writeOf 0x1300 2 2 800), ⟨0x1300, 2, 2, .num 2, .ro, .whole⟩,
   arrives_of (by decide +kernel), by decide +kernel⟩

theorem witness_WritesAreRefusedOrTaken_3 :
  ∃ (s : State) (who : Requester) (msg : List Byte) (i : Nat),
    i < 4 ∧ ScalarReaches s who msg 0x1211 (1 + i) ∧ (msgValue msg) ≤ 1 :=
  ⟨modeTwo, port5, (writeOf 0x1211 4 1 1), 3,
   by decide +kernel, scalarAt ⟨0x1211, 1, 4, .num 1, .rws, .partKept⟩ 1 (by decide +kernel) (by decide +kernel), by decide +kernel⟩

theorem witness_WritesAreRefusedOrTaken_4 :
  ∃ (s : State) (who : Requester) (msg : List Byte) (i : Nat),
    i < 4 ∧ ScalarReaches s who msg 0x1220 (1 + i) ∧ (msgValue msg) ≤ 1 :=
  ⟨modeTwo, port5, (writeOf 0x1220 4 1 1), 3,
   by decide +kernel, scalarAt ⟨0x1220, 1, 4, .num 1, .rws, .partKept⟩ 1 (by decide +kernel) (by decide +kernel), by decide +kernel⟩

theorem witness_WritesAreRefusedOrTaken_5 :
  ∃ (s : State) (who : Requester) (msg : List Byte) (i : Nat),
    i < 4 ∧ ScalarReaches s who msg 0x1101 (1 + i) ∧ (s.part i).out = false ∧ s.queueOn i = false ∧
    (msgValue msg) &&& offer0 s.mode = (msgValue msg) :=
  ⟨modeTwo, port5, (writeOf 0x1101 4 4 0xFFDF), 3,
   by decide +kernel, scalarAt ⟨0x1101, 1, 4, .num 4, .rw, .part⟩ 4 (by decide +kernel) (by decide +kernel), by decide +kernel⟩

theorem witness_WritesAreRefusedOrTaken_6 :
  ∃ (s : State) (who : Requester) (msg : List Byte) (i : Nat),
    i < 4 ∧ ScalarReaches s who msg 0x1210 (1 + i) ∧ (msgValue msg) ≤ 1 ∧ s.slotOpen i = false ∧ (s.part i).srvEn = false ∧
    ((msgValue msg) = 1 → ∀ k ∈ partStacks s.mode i, (s.mem.stack k).usable ≠ 0) :=
  ⟨modeTwo, port5, (writeOf 0x1210 4 1 1), 3,
   by decide +kernel, scalarAt ⟨0x1210, 1, 4, .num 1, .rws, .partKept⟩ 1 (by decide +kernel) (by decide +kernel), by decide +kernel⟩

theorem witness_WritesAreRefusedOrTaken_7 :
  ∃ (s : State) (who : Requester) (msg : List Byte) (i : Nat),
    i < 1 ∧ ScalarReaches s who msg 0x1300 (1 + i) ∧ 800 ≤ (msgValue msg) ∧ (msgValue msg) ≤ 2400 :=
  ⟨live, port5, (writeOf 0x1300 1 2 2400), 0,
   by decide +kernel, scalarAt ⟨0x1300, 1, 1, .num 2, .rw, .whole⟩ 2 (by decide +kernel) (by decide +kernel), by decide +kernel⟩

theorem witness_WritesAreRefusedOrTaken_8 :
  ∃ (s : State) (who : Requester) (msg : List Byte) (i : Nat),
    i < 1 ∧ ScalarReaches s who msg 0x1401 (2 + i) ∧ (msgValue msg) = 1 :=
  ⟨live, port5, (writeOf 0x1401 2 1 1), 0,
   by decide +kernel, scalarAt ⟨0x1401, 2, 1, .num 1, .wo, .whole⟩ 1 (by decide +kernel) (by decide +kernel), by decide +kernel⟩

theorem witness_WritesAreRefusedOrTaken_9 :
  ∃ (s : State) (who : Requester) (msg : List Byte) (i : Nat),
    i < 1 ∧ ScalarReaches s who msg 0x1510 (0x11 + i) :=
  ⟨live, port5, (writeOf 0x1510 17 2 0x8000), 0,
   by decide +kernel, scalarAt ⟨0x1510, 0x11, 1, .num 2, .wo, .whole⟩ 2 (by decide +kernel) (by decide +kernel)⟩

theorem witness_WritesAreRefusedOrTaken_10 :
  ∃ (s : State) (who : Requester) (msg : List Byte) (i : Nat),
    i < 8 ∧ ScalarReaches s who msg 0x1610 (9 + i) ∧ fld (msgValue msg) 7 2 = 0 ∧ (msgValue msg).testBit 0 = true :=
  ⟨live, port5, (writeOf 0x1610 16 1 3), 7,
   by decide +kernel, scalarAt ⟨0x1610, 9, 8, .num 1, .rw, .port⟩ 1 (by decide +kernel) (by decide +kernel), by decide +kernel⟩

theorem witness_WritesAreRefusedOrTaken_11 :
  ∃ (s : State) (who : Requester) (msg : List Byte) (i : Nat),
    i < 8 ∧ ScalarReaches s who msg 0x1610 (9 + i) ∧ fld (msgValue msg) 7 2 = 0 ∧ (msgValue msg).testBit 0 = false :=
  ⟨live, port5, (writeOf 0x1610 16 1 2), 7,
   by decide +kernel, scalarAt ⟨0x1610, 9, 8, .num 1, .rw, .port⟩ 1 (by decide +kernel) (by decide +kernel), by decide +kernel⟩

theorem witness_WritesAreRefusedOrTaken_12 :
  ∃ (s : State) (who : Requester) (msg : List Byte) (i : Nat),
    i < 1 ∧ ScalarReaches s who msg 0x1900 (6 + i) ∧ fld (msgValue msg) 7 4 = 0 :=
  ⟨live, port5, (writeOf 0x1900 6 1 15), 0,
   by decide +kernel, scalarAt ⟨0x1900, 6, 1, .num 1, .wo, .whole⟩ 1 (by decide +kernel) (by decide +kernel), by decide +kernel⟩

theorem witness_WritesAreRefusedOrTaken_13 :
  ∃ (s : State) (who : Requester) (msg : List Byte) (i : Nat),
    i < 1 ∧ ScalarReaches s who msg 0x1800 (3 + i) :=
  ⟨live, port5, (writeOf 0x1800 3 1 255), 0,
   by decide +kernel, scalarAt ⟨0x1800, 3, 1, .num 1, .rw, .whole⟩ 1 (by decide +kernel) (by decide +kernel)⟩

theorem witness_WritesAreRefusedOrTaken_14 :
  ∃ (s : State) (who : Requester) (msg : List Byte) (i : Nat),
    i < 8 ∧ ScalarReaches s who msg 0x1D00 (1 + i) ∧ s.breakAllowed who (msgValue msg) = true ∧ fld (msgValue msg) 51 48 = 0 ∧
    ((msgValue msg).testBit 62 = true → fld (msgValue msg) 47 32 = 0) ∧ fld (msgValue msg) 53 52 < nParts s.mode :=
  ⟨live, port5, (writeOf 0x1d00 8 8 (2 ^ 63 + 2 ^ 62)), 7,
   by decide +kernel, scalarAt ⟨0x1D00, 1, 8, .num 8, .rw, .whole⟩ 8 (by decide +kernel) (by decide +kernel), by decide +kernel⟩

theorem witness_StoredEntriesWaitForFlash_0 :
  ∃ (s : State) (who : Requester) (msg : List Byte) (i : Nat),
    i < 1 ∧ ScalarReaches s who msg 0x1200 (1 + i) ∧ (msgValue msg) ≤ 2 ∧ nodeFits (msgValue msg) s.nv.node = true ∧ s.cairnFree ≠ 0 :=
  ⟨live, port5, (writeOf 0x1200 1 1 2), 0,
   by decide +kernel, scalarAt ⟨0x1200, 1, 1, .num 1, .rw, .whole⟩ 1 (by decide +kernel) (by decide +kernel), by decide +kernel⟩

theorem witness_StoredEntriesWaitForFlash_1 :
  ∃ (s : State) (who : Requester) (msg : List Byte) (i : Nat),
    i < 1 ∧ ScalarReaches s who msg 0x1600 (1 + i) ∧ fld (msgValue msg) 15 13 = 0 ∧ nodeFits s.mode (msgValue msg) = true ∧
    nodeFits s.nv.mode (msgValue msg) = true :=
  ⟨live, port5, (writeOf 0x1600 1 2 8191), 0,
   by decide +kernel, scalarAt ⟨0x1600, 1, 1, .num 2, .rws, .whole⟩ 2 (by decide +kernel) (by decide +kernel), by decide +kernel⟩

theorem witness_StoredEntriesWaitForFlash_2 :
  ∃ (s : State) (who : Requester) (msg : List Byte) (i : Nat),
    i < 1 ∧ ScalarReaches s who msg 0x1600 (2 + i) ∧ ((msgValue msg) < 2 ^ (2 * nParts s.mode) ∧
    ∀ p, p < nParts s.mode → fld (msgValue msg) (2 * p + 1) (2 * p) = 3 → (s.part p).srvEn = false) :=
  ⟨live, port5, (writeOf 0x1600 2 1 3), 0,
   by decide +kernel, scalarAt ⟨0x1600, 2, 1, .num 1, .rws, .whole⟩ 1 (by decide +kernel) (by decide +kernel), by decide +kernel⟩

theorem witness_StoredEntriesWaitForFlash_3 :
  ∃ (s : State) (who : Requester) (msg : List Byte) (i : Nat),
    i < 1 ∧ ScalarReaches s who msg 0x1310 (1 + i) ∧ ((msgValue msg) = 0x0C ∨ (msgValue msg) = 0x0A ∨ (msgValue msg) = 0x08) ∧
    (msgValue msg) < s.nv.nextGrade ∧ s.cairnFree ≠ 0 :=
  ⟨live, port5, (writeOf 0x1310 1 1 0x08), 0,
   by decide +kernel, scalarAt ⟨0x1310, 1, 1, .num 1, .rw, .whole⟩ 1 (by decide +kernel) (by decide +kernel), by decide +kernel⟩

theorem witness_StoredEntriesWaitForFlash_4 :
  ∃ (s : State) (who : Requester) (msg : List Byte) (k : Nat),
    k < 16 ∧ ScalarReaches s who msg 0x1530 (1 + k) ∧ (s.mem.stack k).applied ||| msgValue msg % 2 ^ 32 ≠ 2 ^ 32 - 1 ∧
    (s.mem.stack k).applied < 2 ^ 32 :=
  ⟨live, port5, (writeOf 0x1530 16 8 (2 ^ 31)), 15,
   by decide +kernel, scalarAt ⟨0x1530, 1, 16, .num 8, .rw, .stack⟩ 8 (by decide +kernel) (by decide +kernel), by decide +kernel⟩

theorem witness_StoredEntriesWaitForFlash_5 :
  ∃ (s : State) (w : StoredWrite),
    s.dict.flash = some w ∧ s.dictOn = true ∧ s.dict.queue = [] :=
  ⟨liveDict { flash := some { who := port5, seq := 9, answer := [], key := 0x131001, old := 12, grade := some (12, 10) } }, { who := port5, seq := 9, answer := [], key := 0x131001, old := 12, grade := some (12, 10) },
   by decide +kernel⟩

theorem witness_ObjectsAndFirmwareAreApplied_0 :
  ∃ (s : State) (who : Requester) (msg : List Byte) (p : Nat),
    p < 4 ∧ ObjectReaches s who msg 0x1610 (0x19 + p) ∧
    (∀ v ∈ objectNums 2 (parseMsg msg).payload, (v.testBit 15 = true → partOfPort s.mode (fld v 2 0) = p) ∧
    (v.testBit 7 = true → partOfPort s.mode (fld v 6 4) = p) ∧ v.testBit 3 = false ∧ fld v 14 8 = 0) :=
  ⟨modeTwo, port5, (request 2 0x1610 0x1C (leBytes 2 (2 ^ 15 + 6) ++ leBytes 2 (2 ^ 15 + 7))), 3,
   by decide +kernel, objectAt ⟨0x1610, 0x19, 4, .dom 16384, .rws, .part⟩ 16384 (by decide +kernel) (by decide +kernel) (by decide +kernel), by decide +kernel⟩

theorem witness_ObjectsAndFirmwareAreApplied_1 :
  ∃ (s : State) (who : Requester) (msg : List Byte) (i : Nat),
    i < 16 ∧ ObjectReaches s who msg 0x1520 (1 + i) ∧
    ((List.range 512).zip (objectNums 8 (fit 0 4096 (parseMsg msg).payload))).all (fun v => (s.mem.stack i).remapOk v.1 v.2) = true :=
  ⟨live, port5, (request 2 0x1520 16 (leBytes 8 (2 ^ 63))), 15,
   by decide +kernel, objectAt ⟨0x1520, 1, 16, .dom 4096, .rws, .stack⟩ 4096 (by decide +kernel) (by decide +kernel) (by decide +kernel), by decide +kernel⟩

theorem witness_ObjectsAndFirmwareAreApplied_2 :
  ∃ (s : State) (who : Requester) (msg : List Byte) (i : Nat),
    i < 1 ∧ ObjectReaches s who msg 0x1B00 (4 + i) ∧ s.dictVal 0x1B00 5 0 = 0 :=
  ⟨live, port5, (request 2 0x1b00 4 [1, 2, 3]), 0,
   by decide +kernel, objectAt ⟨0x1B00, 4, 1, .dom 65536, .wo, .whole⟩ 65536 (by decide +kernel) (by decide +kernel) (by decide +kernel), by decide +kernel⟩

theorem witness_ObjectsAndFirmwareAreApplied_3 :
  ∃ (s : State) (who : Requester) (msg : List Byte),
    ObjectReaches s who msg 0x1B00 4 ∧ s.sec.fwOwner = some who ∧ 0 < s.dictVal 0x1B00 5 0 ∧ s.dictVal 0x1B00 5 0 ≤ s.sec.fwStage.length :=
  ⟨{ live with sec := { fwOwner := some port5, fwStage := [1, 2, 3] }, dict := { vals := [(0x1B0005, 3)] } }, port5, (request 2 0x1B00 4 [4, 5]),
   objectAt ⟨0x1B00, 4, 1, .dom 65536, .wo, .whole⟩ 65536 (by decide +kernel) (by decide +kernel) (by decide +kernel), by decide +kernel⟩

theorem witness_ObjectsAndFirmwareAreApplied_4 :
  ∃ (s : State) (who : Requester) (msg : List Byte) (i : Nat),
    i < 4 ∧ ObjectReaches s who msg 0x1C10 (1 + i) ∧ (parseMsg msg).payload.length = 40 ∧ s.slotOpen i = false ∧ (s.part i).srvEn = false ∧
    (s.ctxs).any (fun x => (s.context i x).en) = false ∧ s.cairnFree ≠ 0 ∧ (s.part i).test.state ≠ 1 ∧ (s.part i).test.state ≠ 2 ∧
    (s.part i).cal.state ≠ 1 ∧ (s.part i).cal.state ≠ 2 ∧ s.sanitising i = false :=
  ⟨modeTwo, port5, (request 2 0x1c10 4 (List.replicate 40 0xA5)), 3,
   by decide +kernel, objectAt ⟨0x1C10, 1, 4, .dom 40, .wo, .part⟩ 40 (by decide +kernel) (by decide +kernel) (by decide +kernel), by decide +kernel⟩

theorem witness_ObjectsAndFirmwareAreApplied_5 :
  ∃ (s : State) (who : Requester) (msg : List Byte) (i : Nat),
    i < 1 ∧ ScalarReaches s who msg 0x1B00 (6 + i) ∧ (msgValue msg) = 1 ∧ s.sec.fwOwner = some who ∧ fwOk s.nv s.sec.fwStage = true ∧
    s.cairnFree ≠ 0 :=
  ⟨{ live with nv := fwNv 0, sec := { fwOwner := some port5, fwStage := testImage } }, port5, (writeOf 0x1b00 6 1 1), 0,
   by decide +kernel, scalarAt ⟨0x1B00, 6, 1, .num 1, .wo, .whole⟩ 1 (by decide +kernel) (by decide +kernel), by decide +kernel, by decide +kernel, test_image_verifies, by decide +kernel⟩

theorem witness_ObjectsAndFirmwareAreApplied_6 :
  ∃ (s : State) (who : Requester) (msg : List Byte),
    ScalarReaches s who msg 0x1B00 6 ∧ msgValue msg = 1 ∧ s.sec.fwOwner = some who ∧ fwOk s.nv s.sec.fwStage = false :=
  ⟨{ live with nv := fwNv 0, sec := { fwOwner := some port5, fwStage := [] } }, port5, (writeOf 0x1b00 6 1 1),
   scalarAt ⟨0x1B00, 6, 1, .num 1, .wo, .whole⟩ 1 (by decide +kernel) (by decide +kernel), by decide +kernel⟩

theorem witness_ObjectsAndFirmwareAreApplied_7 :
  ∃ (s : State) (who : Requester) (msg : List Byte) (i : Nat),
    i < 1 ∧ ScalarReaches s who msg 0x1B00 (3 + i) ∧ s.nv.svnFloor < (msgValue msg) ∧ (msgValue msg) ≤ fwSvn s.start.fw ∧ s.cairnFree ≠ 0 :=
  ⟨{ live with start := { live.start with fw := testImage } }, port5, (writeOf 0x1b00 3 1 1), 0,
   by decide +kernel, scalarAt ⟨0x1B00, 3, 1, .num 1, .rw, .whole⟩ 1 (by decide +kernel) (by decide +kernel), by decide +kernel⟩

theorem witness_ObjectsAndFirmwareAreApplied_8 :
  ∃ (s : State) (who : Requester) (msg : List Byte),
    ScalarReaches s who msg 0x1B00 3 ∧ msgValue msg < s.nv.svnFloor :=
  ⟨{ live with nv := { live.nv with svnFloor := 2 } }, port5, (writeOf 0x1b00 3 1 1),
   scalarAt ⟨0x1B00, 3, 1, .num 1, .rw, .whole⟩ 1 (by decide +kernel) (by decide +kernel), by decide +kernel⟩

theorem witness_TestRequestsRunAndEnd_0 : TestAsked false 1 := testAsked (1 + 2 ^ 16 * 47) .core (by decide +kernel) (by decide +kernel)

theorem witness_TestRequestsRunAndEnd_1 : TestAsked false 2 := testAsked (2 + 2 ^ 16 * 47) .core (by decide +kernel) (by decide +kernel)

theorem witness_TestRequestsRunAndEnd_2 : TestAsked false 3 := testAsked (3 + 2 ^ 16 * 47) .core (by decide +kernel) (by decide +kernel)

theorem witness_TestRequestsRunAndEnd_3 : TestAsked false 4 := testAsked (4 + 2 ^ 16 * 15) .stack (by decide +kernel) (by decide +kernel)

theorem witness_TestRequestsRunAndEnd_4 : TestAsked false 5 := testAsked (5 + 2 ^ 16 * 15) .stack (by decide +kernel) (by decide +kernel)

theorem witness_TestRequestsRunAndEnd_5 : TestAsked false 6 := testAsked (6 + 2 ^ 16 * 15) .stack (by decide +kernel) (by decide +kernel)

theorem witness_TestRequestsRunAndEnd_6 : TestAsked false 7 := testAsked (263 + 2 ^ 16 * 15) .stack (by decide +kernel) (by decide +kernel)

theorem witness_TestRequestsRunAndEnd_7 : TestAsked false 8 := testAsked (264 + 2 ^ 16 * 13) .spar (by decide +kernel) (by decide +kernel)

theorem witness_TestRequestsRunAndEnd_8 : TestAsked false 9 := testAsked (265 + 2 ^ 16 * 7) .port (by decide +kernel) (by decide +kernel)

theorem witness_TestRequestsRunAndEnd_9 : TestAsked true 1 := testAsked (257 + 2 ^ 16 * 15) .stack (by decide +kernel) (by decide +kernel)

theorem witness_TestRequestsRunAndEnd_10 : TestAsked true 2 := testAsked (258 + 2 ^ 16 * 5) .spar (by decide +kernel) (by decide +kernel)

theorem witness_TestRequestsRunAndEnd_11 : TestAsked true 3 := testAsked (3 + 2 ^ 16 * 5) .die (by decide +kernel) (by decide +kernel)

theorem witness_TestRequestsRunAndEnd_12 : TestAsked true 4 := testAsked (260 + 2 ^ 16 * 7) .port (by decide +kernel) (by decide +kernel)

theorem witness_TestRequestsRunAndEnd_13 :
  ∃ (s : State) (who : Requester) (msg : List Byte) (p : Nat) (cal : Bool),
    p < 4 ∧ ScalarReaches s who msg (if cal then 0x1A10 else 0x1A00) (1 + p) ∧ tqItem (msgValue msg) = 0 ∧
    ((parseMsg msg).payload.headD 0).toNat = 0 ∧ fld (msgValue msg) 63 22 = 0 ∧ fld (msgValue msg) 15 9 = 0 :=
  ⟨{ modeTwo with parts := [(3, { test := { state := 1 } })] }, port5, (writeOf 0x1a00 4 8 0), 3, false,
   by decide +kernel, scalarAt ⟨0x1A00, 1, 4, .num 8, .rw, .part⟩ 8 (by decide +kernel) (by decide +kernel), by decide +kernel⟩

theorem witness_TestRequestsRunAndEnd_14 :
  ∃ (s : State) (p : Nat) (cal : Bool) (k : UnitKind),
    s.isLive = true ∧ p < nParts s.mode ∧ (s.tu p cal).state = 1 ∧ tqDrained (s.tu p cal).request = true ∧
    itemKind cal (tqItem (s.tu p cal).request) = some k ∧ (s.drains p cal).all s.drained = true ∧
    s.unitHeld k (tqUnit (s.tu p cal).request) = false ∧ s.unitGone k (tqUnit (s.tu p cal).request) = false ∧ k ≠ .port ∧ (k = .core ∨ k = .stack) :=
  ⟨{ modeTwo with parts := [(3, { test := { state := 1, request := 7 + 2 ^ 8 + 2 ^ 16 * 15 } })] }, 3, false, .stack,
   by decide +kernel, by decide +kernel⟩

theorem witness_TestRequestsRunAndEnd_15 :
  ∃ (s : State) (p : Nat) (cal : Bool),
    s.isLive = true ∧ p < nParts s.mode ∧ (s.tu p cal).state = 1 ∧ tqDrained (s.tu p cal).request = true ∧
    itemKind cal (tqItem (s.tu p cal).request) = some .port ∧ (s.drains p cal).all s.drained = true ∧
    s.unitHeld .port (tqUnit (s.tu p cal).request) = false ∧ s.unitGone .port (tqUnit (s.tu p cal).request) = false :=
  ⟨{ modeTwo with parts := [(3, { cal := { state := 1, request := 4 + 2 ^ 8 + 2 ^ 16 * 7 } })], ports := [(7, { state := .up })] }, 3, true,
   by decide +kernel, by decide +kernel⟩

theorem witness_TestRequestsRunAndEnd_16 :
  ∃ (s : State) (p : Nat) (k : UnitKind),
    PieceRuns s p false k ∧ k = .core ∧ (s.part p).srvEn = true ∧ tqDrained (s.tu p false).request = false ∧ (s.tu p false).cancel = false :=
  ⟨{ modeTwo with parts := [(3, { srvEn := true, test := { state := 2, request := 1 + 2 ^ 16 * 47, cancel := false } })], cores := [(47, { testPiece := true })] }, 3, .core,
   ⟨by decide +kernel, by decide +kernel, by decide +kernel, by decide +kernel, .inr (.inr (by decide +kernel))⟩, by decide +kernel⟩

theorem witness_TestRequestsRunAndEnd_17 :
  ∃ (s : State) (p : Nat) (_fails : List (Nat × Nat × Nat)),
    PieceRuns s p true .die ∧ (s.part p).srvEn = true ∧ tqDrained (s.tu p true).request = false :=
  ⟨{ modeTwo with parts := [(3, { srvEn := true, cal := { state := 2, request := 3 + 2 ^ 16 * 5 } })] }, 3, [],
   ⟨by decide +kernel, by decide +kernel, by decide +kernel, by decide +kernel, .inr (.inl rfl)⟩, by decide +kernel⟩

theorem witness_TestRequestsRunAndEnd_18 :
  ∃ (s : State) (who : Requester) (msg : List Byte) (p : Nat) (cal : Bool), p < 4 ∧ ScalarReaches s who msg (if cal then 0x1A10 else 0x1A00) (1 + p) ∧
    tqItem (msgValue msg) = 0 ∧ ((parseMsg msg).payload.headD 0).toNat = 0 ∧ fld (msgValue msg) 63 22 = 0 ∧ fld (msgValue msg) 15 9 = 0 ∧ (s.tu p cal).state = 3 :=
  ⟨{ modeTwo with parts := [(3, { test := { state := 3 } })] }, port5, (writeOf 0x1a00 4 8 0), 3, false,
   by decide +kernel, scalarAt ⟨0x1A00, 1, 4, .num 8, .rw, .part⟩ 8 (by decide +kernel) (by decide +kernel), by decide +kernel⟩

theorem witness_TestRequestsRunAndEnd_19 :
  ∃ (s : State) (who : Requester) (msg : List Byte) (p : Nat) (cal : Bool), p < 4 ∧ ScalarReaches s who msg (if cal then 0x1A10 else 0x1A00) (1 + p) ∧
    tqItem (msgValue msg) = 0 ∧ ((parseMsg msg).payload.headD 0).toNat = 0 ∧ fld (msgValue msg) 63 22 = 0 ∧ fld (msgValue msg) 15 9 = 0 ∧ (s.tu p cal).state = 1 :=
  ⟨{ modeTwo with parts := [(3, { cal := { state := 1 } })] }, port5, (writeOf 0x1a10 4 8 0), 3, true,
   by decide +kernel, scalarAt ⟨0x1A10, 1, 4, .num 8, .rw, .part⟩ 8 (by decide +kernel) (by decide +kernel), by decide +kernel⟩

theorem witness_TestRequestsRunAndEnd_20 :
  ∃ (s : State) (who : Requester) (msg : List Byte) (p : Nat) (cal : Bool), p < 4 ∧ ScalarReaches s who msg (if cal then 0x1A10 else 0x1A00) (1 + p) ∧
    tqItem (msgValue msg) = 0 ∧ ((parseMsg msg).payload.headD 0).toNat = 0 ∧ fld (msgValue msg) 63 22 = 0 ∧ fld (msgValue msg) 15 9 = 0 ∧ (s.tu p cal).state = 3 :=
  ⟨{ modeTwo with parts := [(3, { cal := { state := 3 } })] }, port5, (writeOf 0x1a10 4 8 0), 3, true,
   by decide +kernel, scalarAt ⟨0x1A10, 1, 4, .num 8, .rw, .part⟩ 8 (by decide +kernel) (by decide +kernel), by decide +kernel⟩

theorem witness_TestRequestsRunAndEnd_21 :
  ∃ (s : State) (p : Nat), PieceRuns s p false .core ∧ (s.part p).srvEn = true ∧ tqDrained (s.tu p false).request = false ∧ (s.tu p false).cancel = true :=
  ⟨{ modeTwo with parts := [(3, { srvEn := true, test := { state := 2, request := 1 + 2 ^ 16 * 47, cancel := true } })], cores := [(47, { testPiece := true })] }, 3,
   ⟨by decide +kernel, by decide +kernel, by decide +kernel, by decide +kernel, .inr (.inr (by decide +kernel))⟩, by decide +kernel⟩

theorem witness_TestRequestsRunAndEnd_22 :
  ∃ (s : State) (p : Nat) (cal : Bool) (k : UnitKind),
    s.isLive = true ∧ p < nParts s.mode ∧ (s.tu p cal).state = 1 ∧ tqDrained (s.tu p cal).request = true ∧
    itemKind cal (tqItem (s.tu p cal).request) = some k ∧ (s.drains p cal).all s.drained = true ∧
    s.unitHeld k (tqUnit (s.tu p cal).request) = false ∧ s.unitGone k (tqUnit (s.tu p cal).request) = true :=
  ⟨{ modeTwo with parts := [(3, { test := { state := 1, request := 265 + 2 ^ 16 * 7 } })], ports := [(7, { state := .down })] }, 3, false, .port,
   by decide +kernel⟩

theorem witness_SanitiseClearsAndCertifies_0 :
  ∃ (s : State) (p : Nat),
    s.isLive = true ∧ p < nParts s.mode ∧ s.sanitising p = true ∧ (∀ k ∈ partStacks s.mode p, s.heldLines k = []) :=
  ⟨{ modeTwo with parts := [(3, { sanitise := { state := 1 } })] }, 3,
   by decide +kernel⟩

theorem witness_SanitiseClearsAndCertifies_1 :
  ∃ (s : State) (p : Nat),
    s.isLive = true ∧ p < nParts s.mode ∧ s.sanitising p = true ∧ (partStacks s.mode p).flatMap s.heldLines ≠ [] :=
  ⟨{ live with parts := [(0, { sanitise := { state := 1 } })], host := { link := .up, filter := [5] } }, 0,
   by decide +kernel⟩

theorem witness_SpdmRequestsAreAnswered_0 :
  ∃ s : State, s.reachPf 0 = true ∧ s.sec.inOrder (.mailbox 0) spdmGET_VERSION = true ∧ s.sec.inOrder (.mailbox 0) spdmGET_CAPABILITIES = true ∧
    s.sec.inOrder (.mailbox 0) spdmNEGOTIATE = true ∧ s.sec.inOrder (.mailbox 0) spdmGET_DIGESTS = true ∧
    s.sec.inOrder (.mailbox 0) spdmGET_CERTIFICATE = true ∧ s.sec.inOrder (.mailbox 0) spdmCHALLENGE = true ∧
    s.sec.inOrder (.mailbox 0) spdmGET_MEASUREMENTS = true ∧ s.sec.inOrder (.mailbox 0) spdmKEY_EXCHANGE = true ∧
      s.sec.inOrder (.mailbox 0) spdmFINISH = true ∧ s.sec.inOrder (.mailbox 0) spdmEND_SESSION = true ∧
      s.sec.inOrder (.mailbox 0) spdmHEARTBEAT = true :=
  ⟨{ live with sec := { version := [.mailbox 0], caps := [.mailbox 0], algos := [.mailbox 0], handshakes := [(.mailbox 0, 1)], sessions := [(.mailbox 0, 2)] } },
   by decide +kernel⟩

theorem witness_SpdmRequestsAreAnswered_1 :
  ∃ s : State, s.reachPf 0 = true ∧ s.isLive = true ∧ s.sec.inOrder (.mailbox 0) spdmGET_CAPABILITIES = false ∧
    s.sec.inOrder (.mailbox 0) spdmNEGOTIATE = false ∧ s.sec.inOrder (.mailbox 0) spdmGET_DIGESTS = false ∧
    s.sec.inOrder (.mailbox 0) spdmGET_CERTIFICATE = false ∧ s.sec.inOrder (.mailbox 0) spdmCHALLENGE = false ∧
    s.sec.inOrder (.mailbox 0) spdmGET_MEASUREMENTS = false ∧ s.sec.inOrder (.mailbox 0) spdmKEY_EXCHANGE = false ∧
      s.sec.inOrder (.mailbox 0) spdmFINISH = false ∧ s.sec.inOrder (.mailbox 0) spdmEND_SESSION = false ∧
      s.sec.inOrder (.mailbox 0) spdmHEARTBEAT = false :=
  ⟨live,
   by decide +kernel⟩

/-- Requests name what the part has, or not: certificate slots and measurements. -/
theorem witness_SpdmRequestsAreAnswered_2 :
  spdmNames spdmGET_CERTIFICATE [0x12, 0x82, 0, 0] = true ∧ spdmNames spdmGET_CERTIFICATE [0x12, 0x82, 1, 0] = false ∧
  spdmNames spdmCHALLENGE [0x12, 0x83, 0, 0] = true ∧ spdmNames spdmKEY_EXCHANGE [0x12, 0xE4, 0, 0] = true ∧
  spdmNames spdmGET_MEASUREMENTS [0x12, 0xE0, 0, 3] = true ∧ spdmNames spdmGET_MEASUREMENTS [0x12, 0xE0, 0, 4] = false := by decide +kernel

theorem witness_BoundaryScanInstructions_0 :
  ∃ (_s : State) (d : Nat),
    d < 6 :=
  ⟨live, 5,
   by decide +kernel⟩

theorem witness_BoundaryScanInstructions_1 :
  ∃ (_s : State) (d : Nat) (_v : List Byte),
    d < 6 :=
  ⟨live, 5, [],
   by decide +kernel⟩

theorem witness_BoundaryScanInstructions_4 :
  ∃ (s : State) (img : List Byte),
    s.start.phase = .stopped ∧ s.start.cause = 3 ∧ fwOk s.nv img = true :=
  ⟨{ inPhase .stopped with start := { phase := .stopped, resetN := true, cause := 3 }, nv := fwNv 0 }, testImage,
   rfl, rfl, test_image_verifies⟩

theorem witness_BoundaryScanInstructions_2 :
  ∃ (_s : State) (_d : Nat) (i : TapInstr), i = .extest ∨ i = .extestPulse ∨ i = .extestTrain :=
  ⟨live, 5, .extestTrain, by decide⟩

theorem witness_BoundaryScanInstructions_3 :
  ∃ (s : State) (img : List Byte), ¬ (s.start.phase = .stopped ∧ s.start.cause = 3 ∧ fwOk s.nv img = true) ∧
    ¬ (s.start.phase = .stopped ∧ s.start.cause = 3) :=
  ⟨live, [], by decide +kernel⟩

end Sys2Proof.Tests
end

section
/-! PROOFS. The address map (R21, R22): what an address in each range of the map names, and from that where every byte of
a core's and of a stack's regions lies. -/

namespace Sys2Proof.Machine

/-! ## What an address in each range names (R21, R24) -/

variable {mode part a : Nat} {wide : Bool} {m : MemSys}

theorem placeLocal_of_scratchRange (hlo : 0x100_0000_0000 ≤ a) (hhi : a < 0x100_1800_0000) :
    placeLocal mode part wide m a =
      if partOfCore mode ((a - 0x100_0000_0000) / 0x80_0000) = part then
        .scratch ((a - 0x100_0000_0000) / 0x80_0000) (a % 0x80_0000) else .refused := by
  rw [placeLocal, if_neg (by omega), if_pos hhi]
  rfl

theorem placeLocal_of_bankRange (hlo : 0x101_0000_0000 ≤ a) (hhi : a < 0x101_00C0_0000) :
    placeLocal mode part wide m a =
      if partOfCore mode ((a - 0x101_0000_0000) / 0x4_0000) = part then
        .bank ((a - 0x101_0000_0000) / 0x4_0000) ((a - 0x101_0000_0000) / 0x2_0000 % 2) ((a - 0x101_0000_0000) % 0x2_0000)
      else .refused := by
  rw [placeLocal, if_neg (by omega), if_neg (by omega), if_pos ⟨hlo, hhi⟩]

theorem placeLocal_of_subqRange (hlo : 0x102_0000_0000 ≤ a) (hhi : a < 0x102_0100_0000) :
    placeLocal mode part wide m a =
      if partOfStack mode ((a - 0x102_0000_0000) / 0x10_0000) = part then
        .subq ((a - 0x102_0000_0000) / 0x10_0000) ((a - 0x102_0000_0000) % 0x10_0000) else .refused := by
  rw [placeLocal, if_neg (by omega), if_neg (by omega), if_neg (by omega), if_pos ⟨hlo, hhi⟩]

theorem placeLocal_of_coreRegRange (hlo : 0x103_0000_0000 ≤ a) (hhi : a < 0x103_0030_0000) :
    placeLocal mode part wide m a =
      if partOfCore mode ((a - 0x103_0000_0000) / 0x1_0000) = part then .reg a else .refused := by
  rw [placeLocal, if_neg (by omega), if_neg (by omega), if_neg (by omega), if_neg (by omega), if_pos ⟨hlo, hhi⟩]

theorem placeLocal_of_stackRegRange (hlo : 0x103_0040_0000 ≤ a) (hhi : a < 0x103_0050_0000) :
    placeLocal mode part wide m a =
      if partOfStack mode ((a - 0x103_0040_0000) / 0x1_0000) = part then .reg a else .refused := by
  rw [placeLocal, if_neg (by omega), if_neg (by omega), if_neg (by omega), if_neg (by omega), if_neg (by omega),
    if_pos ⟨hlo, hhi⟩]

theorem State.regByte_of_coreRegRange (s : State) (hlo : 0x103_0000_0000 ≤ a) (hhi : a < 0x103_0030_0000) :
    s.regByte a =
      BitVec.ofNat 8 (s.coreReg ((a - 0x103_0000_0000) / 0x1_0000) (a % 0x1_0000 / 8 * 8) >>> (8 * (a % 8))) := by
  rw [State.regByte, if_pos ⟨hlo, hhi⟩]

theorem State.regByte_of_stackRegRange (s : State) (hlo : 0x103_0040_0000 ≤ a) (hhi : a < 0x103_0050_0000) :
    s.regByte a =
      BitVec.ofNat 8 (s.stackReg ((a - 0x103_0040_0000) / 0x1_0000) (a % 0x1_0000 / 8 * 8) >>> (8 * (a % 8))) := by
  rw [State.regByte, if_neg (by omega), if_pos ⟨hlo, hhi⟩]

/-! ## Where each byte of a core's and of a stack's regions lies (R22)

Each address is taken apart into the number of its region and the offset in it. -/

variable {c k b off : Nat}

theorem placeLocal_scratch (hc : c < 48) (hpart : partOfCore mode c = part) (ho : off < 0x80_0000) :
    placeLocal mode part wide m (0x100_0000_0000 + c * 0x80_0000 + off) = .scratch c off := by
  have hcore : (0x100_0000_0000 + c * 0x80_0000 + off - 0x100_0000_0000) / 0x80_0000 = c := by omega
  have hoff : (0x100_0000_0000 + c * 0x80_0000 + off) % 0x80_0000 = off := by omega
  rw [placeLocal_of_scratchRange (by omega) (by omega), hcore, hoff, if_pos hpart]

theorem placeLocal_bank (hc : c < 48) (hpart : partOfCore mode c = part) (hb : b < 2) (ho : off < 0x2_0000) :
    placeLocal mode part wide m (0x101_0000_0000 + c * 0x4_0000 + b * 0x2_0000 + off) = .bank c b off := by
  have hcore : (0x101_0000_0000 + c * 0x4_0000 + b * 0x2_0000 + off - 0x101_0000_0000) / 0x4_0000 = c := by omega
  have hbank : (0x101_0000_0000 + c * 0x4_0000 + b * 0x2_0000 + off - 0x101_0000_0000) / 0x2_0000 % 2 = b := by omega
  have hoff : (0x101_0000_0000 + c * 0x4_0000 + b * 0x2_0000 + off - 0x101_0000_0000) % 0x2_0000 = off := by omega
  rw [placeLocal_of_bankRange (by omega) (by omega), hcore, hbank, hoff, if_pos hpart]

theorem placeLocal_subq (hk : k < 16) (hpart : partOfStack mode k = part) (ho : off < 0x10_0000) :
    placeLocal mode part wide m (0x102_0000_0000 + k * 0x10_0000 + off) = .subq k off := by
  have hstack : (0x102_0000_0000 + k * 0x10_0000 + off - 0x102_0000_0000) / 0x10_0000 = k := by omega
  have hoff : (0x102_0000_0000 + k * 0x10_0000 + off - 0x102_0000_0000) % 0x10_0000 = off := by omega
  rw [placeLocal_of_subqRange (by omega) (by omega), hstack, hoff, if_pos hpart]

theorem placeLocal_coreReg (hc : c < 48) (hpart : partOfCore mode c = part) (ho : off < 0x1_0000) :
    placeLocal mode part wide m (0x103_0000_0000 + c * 0x1_0000 + off) = .reg (0x103_0000_0000 + c * 0x1_0000 + off) := by
  have hcore : (0x103_0000_0000 + c * 0x1_0000 + off - 0x103_0000_0000) / 0x1_0000 = c := by omega
  rw [placeLocal_of_coreRegRange (by omega) (by omega), hcore, if_pos hpart]

theorem placeLocal_stackReg (hk : k < 16) (hpart : partOfStack mode k = part) (ho : off < 0x1_0000) :
    placeLocal mode part wide m (0x103_0040_0000 + k * 0x1_0000 + off) = .reg (0x103_0040_0000 + k * 0x1_0000 + off) := by
  have hstack : (0x103_0040_0000 + k * 0x1_0000 + off - 0x103_0040_0000) / 0x1_0000 = k := by omega
  rw [placeLocal_of_stackRegRange (by omega) (by omega), hstack, if_pos hpart]

theorem State.regByte_coreReg (s : State) (hc : c < 48) (ho : off < 0x1_0000) :
    s.regByte (0x103_0000_0000 + c * 0x1_0000 + off) =
      BitVec.ofNat 8 (s.coreReg c (off / 8 * 8) >>> (8 * (off % 8))) := by
  have hcore : (0x103_0000_0000 + c * 0x1_0000 + off - 0x103_0000_0000) / 0x1_0000 = c := by omega
  have hoff : (0x103_0000_0000 + c * 0x1_0000 + off) % 0x1_0000 = off := by omega
  have hbyte : (0x103_0000_0000 + c * 0x1_0000 + off) % 8 = off % 8 := by omega
  rw [s.regByte_of_coreRegRange (by omega) (by omega), hcore, hoff, hbyte]

theorem State.regByte_stackReg (s : State) (hk : k < 16) (ho : off < 0x1_0000) :
    s.regByte (0x103_0040_0000 + k * 0x1_0000 + off) =
      BitVec.ofNat 8 (s.stackReg k (off / 8 * 8) >>> (8 * (off % 8))) := by
  have hstack : (0x103_0040_0000 + k * 0x1_0000 + off - 0x103_0040_0000) / 0x1_0000 = k := by omega
  have hoff : (0x103_0040_0000 + k * 0x1_0000 + off) % 0x1_0000 = off := by omega
  have hbyte : (0x103_0040_0000 + k * 0x1_0000 + off) % 8 = off % 8 := by omega
  rw [s.regByte_of_stackRegRange (by omega) (by omega), hstack, hoff, hbyte]

end Sys2Proof.Machine

namespace Sys2Proof.Proofs

open Sys2Proof.Machine

/-- Settles O33: an address at a region's base plus an offset below the region's size lies in that region's range of R21,
and its quotient and remainder by the size give back the core or stack and the offset. -/
theorem addressesOfCoresAndStacks : Obligations.AddressesOfCoresAndStacks := by
  unfold Obligations.AddressesOfCoresAndStacks
  constructor
  · intro mode part c off wide m hc hpart
    exact ⟨fun ho => placeLocal_scratch hc hpart ho, fun b hb ho => placeLocal_bank hc hpart hb ho,
      fun ho => ⟨placeLocal_coreReg hc hpart ho, fun s => s.regByte_coreReg hc ho⟩⟩
  · intro mode part k off wide m hk hpart
    exact ⟨fun ho => placeLocal_subq hk hpart ho,
      fun ho => ⟨placeLocal_stackReg hk hpart ho, fun s => s.regByte_stackReg hk ho⟩⟩

end Sys2Proof.Proofs
end

section
/-! PROOFS. The governor (R403 to R415): what one housekeeping round does, branch by branch, what a round makes of the class S
steps and of the drogue pauses, and the power state that a start begins with. -/

namespace Sys2Proof.Machine

/-! ## Tables of consecutive keys, and updates of several engines -/

theorem Table.get_map_range' {α : Type} (d : α) (f : Nat → α) {k i n : Nat} (hlo : i ≤ k) (hhi : k < i + n) :
    Table.get d ((List.range' i n).map (fun j => (j, f j))) k = f k := by
  induction n generalizing i with
  | zero => omega
  | succ n ih =>
    rw [List.range'_succ, List.map_cons, Table.get]
    split
    · next h => rw [h]
    · exact ih (by omega) (by omega)

theorem Table.get_map_range {α : Type} (d : α) (f : Nat → α) {k n : Nat} (h : k < n) :
    Table.get d ((List.range n).map (fun j => (j, f j))) k = f k := by
  rw [List.range_eq_range']
  exact Table.get_map_range' d f (Nat.zero_le k) (by omega)

section Engines

variable {β : Type} (f : β → Engine → Engine) {s : State} {k : Nat}

@[simp] theorem State.foldl_updEngine_power (l : List (Nat × β)) :
    (l.foldl (fun s v => s.updEngine v.1 (f v.2)) s).power = s.power := by
  induction l generalizing s with
  | nil => rfl
  | cons v l ih => rw [List.foldl_cons, ih, State.updEngine_power]

/-- An engine that the list does not name stays. -/
theorem State.engine_foldl_updEngine_of_notMem {l : List (Nat × β)} (h : k ∉ l.map Prod.fst) :
    (l.foldl (fun s v => s.updEngine v.1 (f v.2)) s).engine k = s.engine k := by
  induction l generalizing s with
  | nil => rfl
  | cons v l ih =>
    obtain ⟨hv, hl⟩ := not_or.1 (mt List.mem_cons.2 h)
    rw [List.foldl_cons, ih hl, State.engine_updEngine_ne _ _ hv]

/-- An engine that the list names once is updated once. -/
theorem State.engine_foldl_updEngine_of_mem {l : List (Nat × β)} {b : β} (hl : (l.map Prod.fst).Nodup) (h : (k, b) ∈ l) :
    (l.foldl (fun s v => s.updEngine v.1 (f v.2)) s).engine k = f b (s.engine k) := by
  induction l generalizing s with
  | nil => cases h
  | cons v l ih =>
    obtain ⟨hv, hl⟩ := List.nodup_cons.1 hl
    rw [List.foldl_cons]
    rcases List.mem_cons.1 h with rfl | h
    · rw [State.engine_foldl_updEngine_of_notMem f hv, State.engine_updEngine]
    · have hne : k ≠ v.1 := fun e => hv (e ▸ List.mem_map_of_mem h)
      rw [ih hl h, State.engine_updEngine_ne _ _ hne]

end Engines

/-! ## What leaves the governor's state, and what leaves the engines -/

@[simp] theorem State.cairn_power (s : State) (type : Nat) (payload : List Byte) : (s.cairn type payload).power = s.power := by
  unfold State.cairn
  split <;> rfl

@[simp] theorem State.cairnVoid_power (s : State) : s.cairnVoid.power = s.power := by
  unfold State.cairnVoid
  split <;> rfl

@[simp] theorem State.sealBase_power (s : State) : s.sealBase.power = s.power := rfl

@[simp] theorem State.oldStored_power (s : State) (key old : Nat) : (s.oldStored key old).power = s.power := by
  unfold State.oldStored
  split
  · rfl
  split
  · rfl
  split
  · rfl
  split <;> rfl

@[simp] theorem State.restoreStored_power (s : State) (key old : Nat) : (s.restoreStored key old).power = s.power := by
  rw [State.restoreStored, State.sealBase_power, State.oldStored_power]

@[simp] theorem State.loseFlash_power (s : State) : s.loseFlash.power = s.power := by
  unfold State.loseFlash
  split
  · rfl
  · simp only [apply_ite State.power, State.cairnVoid_power, State.restoreStored_power, ite_self]

@[simp] theorem State.stopDies_power (s : State) : s.stopDies.power = s.power := rfl
@[simp] theorem State.setRefresh_power (s : State) : s.setRefresh.power = s.power := rfl
@[simp] theorem State.setRefresh_engine (s : State) (k : Nat) : s.setRefresh.engine k = s.engine k := rfl
@[simp] theorem State.countRound_power (s : State) : s.countRound.power = s.power := rfl
@[simp] theorem State.countRound_engine (s : State) (k : Nat) : s.countRound.engine k = s.engine k := rfl

/-- A trip leaves the readings that caused it (R412). -/
@[simp] theorem State.tripPart_readings (s : State) (n : Nat) :
    (s.tripPart n).power.raw = s.power.raw ∧ (s.tripPart n).power.rails = s.power.rails := by
  unfold State.tripPart
  simp only [State.stopDies_power, apply_ite State.power, State.loseFlash_power, State.cairn_power, ite_self, and_self]

/-! ## The steps that a round brings (R408, R409) -/

@[simp] theorem Engine.setPause_pause (g : Engine) (n : Nat) : (g.setPause n).pause = n := by
  unfold Engine.setPause
  split
  · assumption
  · rfl

theorem thermalStep_le {t : Nat} (hot cool : Bool) (h : t ≤ 31) : thermalStep t hot cool ≤ 31 := by
  unfold thermalStep
  split
  · exact Nat.min_le_left ..
  split
  · omega
  · exact h

/-- The class S power step stays within 31. -/
theorem State.powerSteps_snd_le (s : State) (rails : List (Nat × Nat)) (h : s.power.nS ≤ 31) : (s.powerSteps rails).2 ≤ 31 := by
  unfold State.powerSteps
  dsimp only
  split
  · exact Nat.min_le_left ..
  split
  · split
    · exact h
    · exact Nat.min_le_left ..
  split
  · exact Nat.le_trans (Nat.sub_le ..) h
  · exact h

/-- The thermal step of a stack after a round, from the hottest readings of its DRAM core and its base die (R409). -/
def State.stackThermal (s : State) (k : Nat) : Nat :=
  thermalStep (Table.get 0 s.power.tS k)
    (decide (degrees 90 ≤ dramHot s.power.eff k) || decide (degrees 100 ≤ baseHot s.power.eff k))
    (decide (dramHot s.power.eff k ≤ degrees 87) && decide (baseHot s.power.eff k ≤ degrees 97))

/-- The class S step of a stack after a round: the greater of its power step and its thermal step (R409). -/
def State.stackStep (s : State) (rails : List (Nat × Nat)) (k : Nat) : Nat := max (s.powerSteps rails).2 (s.stackThermal k)

theorem State.stackStep_le {s : State} {k : Nat} (rails : List (Nat × Nat)) (hn : s.power.nS ≤ 31) (ht : Table.get 0 s.power.tS k ≤ 31) :
    s.stackStep rails k ≤ 31 :=
  max_le (s.powerSteps_snd_le rails hn) (thermalStep_le _ _ ht)

/-- The steps in force after a round: of each of the 16 stacks its own (R409). -/
theorem State.governSteps_stepS (s : State) (rails : List (Nat × Nat)) :
    (s.governSteps rails).power.stepS = (List.range 16).map (fun k => (k, s.stackStep rails k)) := by
  unfold State.governSteps
  dsimp only
  rw [State.foldl_updEngine_power (fun n g => g.setPause (33 * n)), List.map_map]
  rfl

@[simp] theorem State.governSteps_readings (s : State) (rails : List (Nat × Nat)) :
    (s.governSteps rails).power.raw = s.power.raw ∧ (s.governSteps rails).power.rails = s.power.rails := by
  unfold State.governSteps
  dsimp only
  rw [State.foldl_updEngine_power (fun n g => g.setPause (33 * n))]
  exact ⟨rfl, rfl⟩

theorem State.stepS_governSteps (s : State) (rails : List (Nat × Nat)) {k : Nat} (hk : k < 16) :
    Table.get 0 (s.governSteps rails).power.stepS k = s.stackStep rails k := by
  rw [State.governSteps_stepS, Table.get_map_range 0 _ hk]

/-- A stack's drogue pause after a round is 33 times its class S step (R408). -/
theorem State.pause_governSteps (s : State) (rails : List (Nat × Nat)) {k : Nat} (hk : k < 16) :
    ((s.governSteps rails).engine k).pause = 33 * s.stackStep rails k := by
  unfold State.governSteps
  dsimp only
  rw [List.map_map, State.engine_foldl_updEngine_of_mem (fun n g => g.setPause (33 * n)) (b := s.stackStep rails k),
    Engine.setPause_pause]
  · have hkeys : ((List.range 16).map fun j => j).Nodup := by
      rw [List.map_id']
      exact List.nodup_range
    rwa [List.map_map]
  · rw [List.map_map]
    exact List.mem_map.2 ⟨k, List.mem_range.2 hk, rfl⟩

/-! ## One round (R403, R409, R412, R415) -/

/-- A round's readings are taken, and time moves on for a part that is live. -/
def State.takeReadings (s : State) (temps : List Int) (rails : List (Nat × Nat)) : State :=
  let t := if s.isLive then { s with start := { s.start with periods := s.start.periods + 204800 } } else s
  { t with power := { t.power with
      raw := temps, suspect := suspectsAfter t temps, rails := rails
      eff := (List.range 172).map (effectiveOf temps (suspectsAfter t temps)) } }

theorem State.takeReadings_power (s : State) (temps : List Int) (rails : List (Nat × Nat)) :
    (s.takeReadings temps rails).power = { s.power with
      raw := temps, suspect := suspectsAfter s temps, rails := rails
      eff := (List.range 172).map (effectiveOf temps (suspectsAfter s temps)) } := by
  unfold State.takeReadings
  dsimp only
  split <;> rfl

/-- A round's power is counted. -/
def State.countPower (s : State) (rails : List (Nat × Nat)) : State :=
  let p := railPower rails 0 42
  { s with power := { s.power with
      watts := p, peak := max s.power.peak p, rounds := (s.power.rounds + 1) % 2 ^ 32
      capRounds := if s.cap * 10000 < p then satAdd 32 s.power.capRounds 1 else s.power.capRounds } }

@[simp] theorem State.countPower_raw (s : State) (rails : List (Nat × Nat)) : (s.countPower rails).power.raw = s.power.raw := rfl
@[simp] theorem State.countPower_rails (s : State) (rails : List (Nat × Nat)) : (s.countPower rails).power.rails = s.power.rails := rfl
@[simp] theorem State.countPower_nS (s : State) (rails : List (Nat × Nat)) : (s.countPower rails).power.nS = s.power.nS := rfl
@[simp] theorem State.countPower_tS (s : State) (rails : List (Nat × Nat)) : (s.countPower rails).power.tS = s.power.tS := rfl

/-- The governor acts on the readings taken, and the round of a part that is live is counted. -/
def State.governRound (s : State) (live : Bool) (rails : List (Nat × Nat)) : State :=
  let t := ((s.countPower rails).governSteps rails).setRefresh
  if live then t.countRound else t

@[simp] theorem State.governRound_power (s : State) (live : Bool) (rails : List (Nat × Nat)) :
    (s.governRound live rails).power = ((s.countPower rails).governSteps rails).power := by
  cases live with
  | false => exact State.setRefresh_power _
  | true => exact (State.countRound_power _).trans (State.setRefresh_power _)

@[simp] theorem State.governRound_engine (s : State) (live : Bool) (rails : List (Nat × Nat)) (k : Nat) :
    (s.governRound live rails).engine k = ((s.countPower rails).governSteps rails).engine k := by
  cases live with
  | false => exact State.setRefresh_engine _ k
  | true => exact (State.countRound_engine _ k).trans (State.setRefresh_engine _ k)

theorem State.governs_of_live {s : State} (h : s.start.phase = .live) : s.governs = true := by rw [State.governs, h]

/-- While a start is in progress the governor acts from stage 2 on (R415). -/
theorem State.governs_of_done {s : State} {n : Nat} (h : s.start.phase = .done n) : s.governs = decide (2 ≤ n) := by
  rw [State.governs, h]

section Round

variable {s : State} {temps : List Int} {rails : List (Nat × Nat)}

theorem exec_housekeepingRound_of_not_governs (h : s.governs = false) : exec (.housekeepingRound temps rails) s = .next s := by
  have hc : (!s.governs || temps.length != 172 || rails.length != 42) = true := by simp [h]
  exact if_pos hc

/-- Where the governor acts, a round takes its readings; then the part trips, or the governor acts on them. -/
theorem exec_housekeepingRound_of_governs (h : s.governs = true) (ht : temps.length = 172) (hr : rails.length = 42) :
    exec (.housekeepingRound temps rails) s =
      (tripping ((List.range 172).map (effectiveOf temps (suspectsAfter s temps)))).elim
        (.next ((s.takeReadings temps rails).governRound s.isLive rails))
        (fun n => .next ((s.takeReadings temps rails).tripPart n)) := by
  have heff : (s.takeReadings temps rails).power.eff = (List.range 172).map (effectiveOf temps (suspectsAfter s temps)) := by
    rw [State.takeReadings_power]
  have hc : ¬ (!s.governs || temps.length != 172 || rails.length != 42) = true := by simp [h, ht, hr]
  rw [← heff]
  refine (if_neg hc).trans ?_
  change (match tripping (s.takeReadings temps rails).power.eff with
    | some n => Host.Outcome.next ((s.takeReadings temps rails).tripPart n)
    | none => Host.Outcome.next ((s.takeReadings temps rails).governRound s.isLive rails)) = _
  cases tripping (s.takeReadings temps rails).power.eff <;> rfl

end Round

/-! ## What a start begins with (R415) -/

@[simp] theorem State.beginStart_power (s : State) : s.beginStart.power = {} := rfl

theorem exec_coldStart_of_railsOk {s : State} (h : s.start.phase = .held) (hr : s.start.railsOk = true) :
    exec .coldStart s = .next ({ s with jtag := { s.jtag with driving := [] } } : State).beginStart := by
  show execColdStart s = _
  unfold execColdStart
  rw [if_neg (not_not_intro h)]
  exact if_pos hr

theorem exec_railReturn_of_railLow {s : State} (h : s.start.phase = .railLow) (hr : s.start.railsOk = false) :
    exec .railReturn s = .next ({ s with start := { s.start with railsOk := true } } : State).beginStart := by
  show execRailReturn s = _
  unfold execRailReturn
  rw [if_neg (by simp [hr])]
  exact congrArg _ (if_pos h)

end Sys2Proof.Machine

namespace Sys2Proof.Proofs

open Sys2Proof.Machine

/-- Settles O7: a start leaves the power state of a fresh part, and a round acts exactly where the governor does. -/
theorem governorAfterStart : Obligations.GovernorAfterStart := by
  unfold Obligations.GovernorAfterStart
  refine ⟨fun s hs hr => ?_, fun s hs hr => ?_, fun temps rails s hs => ?_, fun temps rails s n hs hn ht hr => ?_⟩
  · exact ⟨_, exec_coldStart_of_railsOk hs hr, rfl, rfl, rfl, fun _ => ⟨rfl, rfl⟩, rfl, rfl, rfl⟩
  · exact ⟨_, exec_railReturn_of_railLow hs hr, rfl⟩
  · exact exec_housekeepingRound_of_not_governs (State.governs_of_done hs)
  · rw [exec_housekeepingRound_of_governs ((State.governs_of_done hs).trans (decide_eq_true hn)) ht hr]
    cases tripping ((List.range 172).map (effectiveOf temps (suspectsAfter s temps))) with
    | some m => exact ⟨_, rfl, by simp [State.takeReadings_power]⟩
    | none => exact ⟨_, rfl, by simp [State.takeReadings_power]⟩

/-- Settles O13: the pause is set from the step just made, which no power step or thermal step lets pass 31. -/
theorem classSStepSetsTheDroguePause : Obligations.ClassSStepSetsTheDroguePause := by
  unfold Obligations.ClassSStepSetsTheDroguePause
  intro temps rails s hs ht hr htrip _ hnS hsteps
  rw [exec_housekeepingRound_of_governs (State.governs_of_live hs) ht hr, htrip]
  refine ⟨_, rfl, fun k hk => ?_⟩
  have hle : ((s.takeReadings temps rails).countPower rails).stackStep rails k ≤ 31 :=
    State.stackStep_le rails (by simpa [State.takeReadings_power] using hnS) (by simpa [State.takeReadings_power] using (hsteps k).2)
  rw [State.governRound_power, State.governRound_engine, State.stepS_governSteps _ _ hk, State.pause_governSteps _ _ hk]
  exact ⟨hle, rfl, by omega⟩

end Sys2Proof.Proofs
end

section
/-! PROOFS. What a piece of work does to the memories: every reader and writer of the engines, the codec and the cache's tables keeps
their canonical form. Where a lemma is about a function that reads at an address with a large literal in it, its reader is first named
by a variable (`obtain ⟨r, hr⟩ : ∃ r, r = …`), so that no step of the proof evaluates the read. -/

namespace Sys2Proof.Machine

/-! ## Commands that go on -/

/-- A command answers a next state, and what it may do to the whole part is what `Grows` allows. -/
def Advances (s : State) (o : Host.Outcome State Fault Refusal) : Prop := ∃ t, o = .next t ∧ Grows s t

theorem Advances.next {s t : State} (h : Grows s t) : Advances s (.next t) := ⟨t, rfl, h⟩

theorem Advances.after {s t : State} {o : Host.Outcome State Fault Refusal} (k : Advances t o) (h : Grows s t) :
    Advances s o := by
  obtain ⟨u, hu, hk⟩ := k
  exact ⟨u, hu, h.trans hk⟩

/-! ## Answers that say something beside the state, and folds that carry it in a pair -/

theorem Grows.fst {α : Type} {s t : State} {p : State × α} {a : α} (h : p = (t, a)) (g : Grows s p.1) : Grows s t := by
  rw [h] at g
  exact g

theorem Grows.snd {α : Type} {s t : State} {p : α × State} {a : α} (h : p = (a, t)) (g : Grows s p.2) : Grows s t := by
  rw [h] at g
  exact g

theorem Grows.trd {α β : Type} {s t : State} {p : α × β × State} {a : α} {b : β} (h : p = (a, b, t)) (g : Grows s p.2.2) :
    Grows s t := by
  rw [h] at g
  exact g

theorem Grows.sndBd {α : Type} {s : State} {b : Bd} {p : α × Bd} {a : α} (h : p = (a, b)) (g : Grows s p.2.s) :
    Grows s b.s := by
  rw [h] at g
  exact g

theorem Grows.foldlOf {α β : Type} (g : β → State) {f : β → α → β} (h : ∀ b a, Grows (g b) (g (f b a))) (l : List α) (b : β) :
    Grows (g b) (g (l.foldl f b)) := by
  induction l generalizing b with
  | nil => exact .refl _
  | cons a l ih => exact (h b a).trans (ih _)

/-! ## Updates written out field by field -/

section Put

variable {s t : State} {start : Startup} {engines : Table Engine} {cores : Table Core} {contexts : Table Context} {parts : Table Part}
  {ports : Table Port} {host : HostPort} {dict : Dict} {power : Power} {sec : Security} {jtag : Jtag}

/-- What is neither non-volatile, nor a memory, nor the queue, nor an output may take any value. -/
theorem Grows.put (h : Grows s t) :
    Grows s ⟨t.nv, start, t.mem, engines, cores, contexts, parts, ports, host, dict, power, sec, jtag, t.pending, t.out⟩ :=
  h.trans (.same rfl rfl rfl rfl)

/-- The memories may take a value of the canonical form. -/
theorem Grows.putMem {m : MemSys} (h : Grows s t) (hm : Memory.wf t.mem = true → Memory.wf m = true) :
    Grows s ⟨t.nv, start, m, engines, cores, contexts, parts, ports, host, dict, power, sec, jtag, t.pending, t.out⟩ :=
  h.trans ((Grows.memory t hm).trans (.same rfl rfl rfl rfl))

/-- Fuses, flash and latches of `n` beside those of `m`: the ledger and the fused identity are the same, floor and starts no lower. -/
structure NonVolatile.Keeps (m n : NonVolatile) : Prop where
  cairn : n.cairn = m.cairn
  fused : n.serial = m.serial ∧ n.rootKeyHash = m.rootKeyHash ∧ n.certChain = m.certChain
  floor : m.svnFloor ≤ n.svnFloor
  starts : m.starts ≤ n.starts

theorem Grows.putNv {n : NonVolatile} (h : Grows s t) (hn : t.nv.Keeps n) :
    Grows s ⟨n, start, t.mem, engines, cores, contexts, parts, ports, host, dict, power, sec, jtag, t.pending, t.out⟩ := by
  refine h.trans ⟨?_, ?_, rfl, List.prefix_refl _, id, hn.fused, hn.floor, hn.starts⟩
  · exact hn.cairn ▸ List.prefix_refl _
  · exact fun hl => hn.cairn.symm ▸ hl

end Put

/-! ## Pieces of work -/

/-- A piece of work keeps the canonical form of the memories. -/
structure Wk.Keeps (v w : Wk) : Prop where
  wf : Memory.wf v.mem = true → Memory.wf w.mem = true

theorem Wk.Keeps.refl (w : Wk) : w.Keeps w := ⟨id⟩

/-- The last change first. -/
theorem Wk.Keeps.after {u v w : Wk} (k : v.Keeps w) (h : u.Keeps v) : u.Keeps w := ⟨k.wf ∘ h.wf⟩

theorem Wk.Keeps.of_mem_eq {v w : Wk} (h : w.mem = v.mem) : v.Keeps w := ⟨fun x => h ▸ x⟩

theorem Wk.Keeps.fst {α : Type} {v w : Wk} {p : Wk × α} {a : α} (h : p = (w, a)) (g : v.Keeps p.1) : v.Keeps w := by
  rw [h] at g
  exact g

theorem Wk.Keeps.snd {α : Type} {v w : Wk} {p : α × Wk} {a : α} (h : p = (a, w)) (g : v.Keeps p.2) : v.Keeps w := by
  rw [h] at g
  exact g

theorem Wk.Keeps.trd {α β : Type} {v w : Wk} {p : α × β × Wk} {a : α} {b : β} (h : p = (a, b, w)) (g : v.Keeps p.2.2) :
    v.Keeps w := by
  rw [h] at g
  exact g

theorem Wk.Keeps.fourth {α β γ : Type} {v w : Wk} {p : α × β × γ × Wk} {a : α} {b : β} {c : γ} (h : p = (a, b, c, w)) (g : v.Keeps p.2.2.2) :
    v.Keeps w := by
  rw [h] at g
  exact g

theorem Wk.Keeps.sndKv {α : Type} {v : Wk} {x : KvWork} {p : α × KvWork} {a : α} (h : p = (a, x)) (g : v.Keeps p.2.w) :
    v.Keeps x.w := by
  rw [h] at g
  exact g

theorem Wk.Keeps.ite_of {β : Type} (g : β → Wk) {c : Prop} [Decidable c] {v : Wk} {p q : β} (hp : v.Keeps (g p)) (hq : v.Keeps (g q)) :
    v.Keeps (g (if c then p else q)) := by
  split
  · exact hp
  · exact hq

theorem Wk.Keeps.ite_snd {α : Type} {c : Prop} [Decidable c] {v : Wk} {p q : α × Wk} (hp : v.Keeps p.2) (hq : v.Keeps q.2) :
    v.Keeps (if c then p else q).2 := .ite_of Prod.snd hp hq

theorem Wk.Keeps.ite_self {α : Type} {c : Prop} [Decidable c] {v : Wk} {q : α × Wk} {a : α} (hq : v.Keeps q.2) :
    v.Keeps (if c then (a, v) else q).2 := .ite_snd (.refl v) hq

theorem Wk.Keeps.foldlOf {α β : Type} (g : β → Wk) {f : β → α → β} (h : ∀ b a, (g b).Keeps (g (f b a))) (l : List α) (b : β) :
    (g b).Keeps (g (l.foldl f b)) := by
  induction l generalizing b with
  | nil => exact .refl _
  | cons a l ih => exact .after (ih _) (h b a)

theorem Wk.Keeps.foldl {α : Type} {f : Wk → α → Wk} (h : ∀ (w : Wk) a, w.Keeps (f w a)) (l : List α) (w : Wk) :
    w.Keeps (l.foldl f w) :=
  Wk.Keeps.foldlOf id h l w

section PutWk

variable {u v w : Wk} {fault late : Option Nat} {wait stalled part : Bool} {asks taken : List Nat} {snoops : List (Nat × Bool)}
  {wr : List (Nat × List (Option Byte))} {regs pend : List (Nat × Byte)} {drops : List (Nat × Nat × Nat)} {owners : List (Nat × Nat)}
  {seen : Table (List Byte)} {flags : LaneFlags} {rd wn charge : Nat}

/-- What is no memory may take any value. -/
theorem Wk.Keeps.put (h : v.Keeps w) :
    v.Keeps ⟨w.mem, fault, wait, stalled, asks, snoops, taken, wr, regs, drops, owners, late, pend, seen, flags, part, rd, wn, charge⟩ := ⟨h.wf⟩

theorem Wk.Keeps.putMem {m : MemSys} (h : v.Keeps w) (hm : Memory.wf w.mem = true → Memory.wf m = true) :
    v.Keeps ⟨m, fault, wait, stalled, asks, snoops, taken, wr, regs, drops, owners, late, pend, seen, flags, part, rd, wn, charge⟩ :=
  ⟨hm ∘ h.wf⟩

end PutWk

theorem Wk.fail_keeps (w : Wk) (st : Nat) : w.Keeps (w.fail st) := .of_mem_eq (w.fail_mem st)
theorem Wk.flag_keeps (w : Wk) (f : LaneFlags) : w.Keeps (w.flag f) := .of_mem_eq rfl
theorem Wk.counted_keeps (w : Wk) : w.Keeps w.counted := .of_mem_eq w.counted_mem
theorem Wk.spend_keeps (w : Wk) (n : Nat) : w.Keeps (w.spend n) := .of_mem_eq rfl
theorem Wk.put_keeps (e : Env) (w : Wk) (l : List (Nat × Byte)) : w.Keeps (w.put e l) := .of_mem_eq rfl
theorem Wk.askWrite_keeps (e : Env) (w : Wk) (l : List Nat) : w.Keeps (w.askWrite e l) := .of_mem_eq (w.askWrite_mem e l)

/-- A free choice drawn moves the index of the next one alone. -/
theorem Wk.drawn_keeps (w : Wk) (n : Nat) : w.Keeps { w with mem := { w.mem with fresh := n } } := ⟨Memory.wf_fresh n⟩

/-! ## Engines, codec and tables -/

theorem elementBytes_keeps (e : Env) (w : Wk) (o : Opn) (a : Nat) (b : BlockWrite) (zeros : Bool) :
    w.Keeps (elementBytes e w o a b zeros).2 := by
  unfold elementBytes
  dsimp only
  split
  · split
    · dsimp only
      exact .refl _
    · exact ⟨Wk.readUnder_wf _ _ _ _⟩
  · split
    · dsimp only
      exact .refl _
    · exact ⟨Wk.readUnder_wf _ _ _ _⟩

theorem readColumns_keeps (e : Env) (o : Opn) (org : List Int) (kk : Nat) (l : List Nat) (w : Wk) :
    w.Keeps (readColumns e o org kk l w).2 := by
  induction l generalizing e o org kk w with
  | nil =>
    unfold readColumns
    dsimp only
    exact .refl _
  | cons y l ih =>
    unfold readColumns
    split
    split
    dsimp only
    exact .after (.snd ‹_› (ih ..)) (.snd ‹_› ⟨readElems_wf _ _ _ _⟩)

theorem readTile_keeps (e : Env) (o : Opn) (org : List Int) (w : Wk) : w.Keeps (readTile e o org w).2 := by
  unfold readTile
  dsimp only
  exact readColumns_keeps ..

theorem macWork_keeps (e : Env) (k : Core) (iss : Issued) (ops : List Opn) (n : Nat) (w : Wk) :
    w.Keeps (macWork e k iss ops n w).2 := by
  unfold macWork
  dsimp only
  split
  · dsimp only
    split
    · dsimp only
      exact readTile_keeps ..
    · split
      · dsimp only
        exact .refl _
      · dsimp only
        exact .refl _
  · dsimp only
    refine .after (readColumns_keeps ..) ?_
    split
    · dsimp only
      exact readTile_keeps ..
    · split
      · dsimp only
        exact .refl _
      · dsimp only
        exact .refl _

theorem loadWork_keeps (e : Env) (k : Core) (n : Issued) (ops : List Opn) (n4 : Nat) (w : Wk) :
    w.Keeps (loadWork e k n ops n4 w).2 := by
  unfold loadWork
  split
  dsimp only
  exact .snd ‹_› (readTile_keeps ..)

theorem readReg_keeps (e : Env) (k : Core) (w : Wk) (reg lane : Nat) : w.Keeps (readReg e k w reg lane).2 := by
  unfold readReg
  split
  · split
    dsimp only
    exact .snd ‹_› ⟨Wk.readNat_wf _ _ _ _⟩
  · dsimp only
    exact .refl _

theorem writeReg_keeps (e : Env) (k : Core) (w : Wk) (reg lane : Nat) (v : Word) : w.Keeps (writeReg e k w reg lane v).2 := by
  unfold writeReg
  split
  · dsimp only
    exact Wk.put_keeps ..
  · dsimp only
    exact .refl _

theorem vGetBy_keeps (f : Nat → Elem → VVal) (e : Env) (k : Core) (w : Wk) (v : VOp) (l r : Nat) :
    w.Keeps (vGetBy f e k w v l r).2 := by
  unfold vGetBy
  split
  · split
    dsimp only
    exact .snd ‹_› (readReg_keeps ..)
  · split
    dsimp only
    exact .snd ‹_› ⟨readElem_wf _ _ _ _⟩

theorem vGet_keeps (e : Env) (k : Core) (w : Wk) (v : VOp) (l r : Nat) : w.Keeps (vGet e k w v l r).2 := by
  unfold vGet
  exact vGetBy_keeps ..

theorem vLoadElem_keeps (e : Env) (k : Core) (w : Wk) (v : VOp) (l r : Nat) : w.Keeps (vLoadElem e k w v l r).2 := by
  unfold vLoadElem
  exact vGetBy_keeps ..

theorem vGetRow_keeps (f : Nat → Elem → VVal) (e : Env) (k : Core) (w : Wk) (v : VOp) (r : Nat) :
    w.Keeps (vGetRow f e k w v r).2 := by
  unfold vGetRow
  split
  · split
    dsimp only
    exact .snd ‹_› (readReg_keeps ..)
  · exact vGetBy_keeps ..

theorem vRow_keeps {get : Wk → Nat → VVal × Wk} (hg : ∀ (w : Wk) l, w.Keeps (get w l).2) (l : List Nat) (w : Wk) :
    w.Keeps (vRow get l w).2 := by
  induction l generalizing w with
  | nil => exact .refl _
  | cons y l ih =>
    unfold vRow
    split
    split
    exact .after (.snd ‹_› (ih ..)) (.snd ‹_› (hg ..))

theorem mxBlocks_keeps (e : Env) (o : Opn) (l : List (List (List Int × VOut))) (w : Wk) : w.Keeps (mxBlocks e o l w).2 := by
  induction l generalizing e o w with
  | nil =>
    unfold mxBlocks
    dsimp only
    exact .refl _
  | cons y l ih =>
    unfold mxBlocks
    split
    split
    dsimp only
    exact .after (.snd ‹_› (ih ..)) (Wk.flag_keeps ..)

theorem vStoreMem_keeps (e : Env) (w : Wk) (o : Opn) (l : List (List Int × VOut)) : w.Keeps (vStoreMem e w o l) := by
  unfold vStoreMem
  dsimp only
  refine .after (Wk.put_keeps ..) (.after ⟨elemWrites_wf _ _ _ _ _⟩ ?_)
  split
  · exact mxBlocks_keeps ..
  · dsimp only
    exact Wk.flag_keeps ..

theorem vPutRow_keeps (e : Env) (k : Core) (w : Wk) (v : VOp) (r : Nat) (l : List (Nat × VOut)) :
    w.Keeps (vPutRow e k w v r l).2 := by
  unfold vPutRow
  split
  · refine .after (Wk.Keeps.foldlOf Prod.snd (fun s x => ?_) _ _) ?_
    · exact writeReg_keeps ..
    · dsimp only
      exact .refl _
  · dsimp only
    exact vStoreMem_keeps ..

theorem vPutOne_keeps (e : Env) (k : Core) (w : Wk) (v : VOp) (r : Nat) (x : VOut) : w.Keeps (vPutOne e k w v r x).2 := by
  unfold vPutOne
  split
  · exact writeReg_keeps ..
  · dsimp only
    exact vStoreMem_keeps ..

theorem overRows_keeps {f : Nat → Core → Wk → Core × Wk} (hf : ∀ r k (w : Wk), w.Keeps (f r k w).2) (rows : Nat) (k : Core) (w : Wk) :
    w.Keeps (overRows f rows k w).2 :=
  Wk.Keeps.foldlOf Prod.snd (fun p r => hf r p.1 p.2) _ (k, w)

theorem moveRow_keeps {get : Wk → Nat → VVal × Wk} (hg : ∀ (w : Wk) l, w.Keeps (get w l).2) (masked : Nat → Bool) (out : Word → VOut) (lanes : Nat) (w : Wk) :
    w.Keeps (moveRow get masked out lanes w).2 :=
  .after (Wk.flag_keeps ..) (vRow_keeps hg ..)

theorem convertRow_keeps (e : Env) (b : BitVec 512) (src dst : VOp) (r : Nat) (l : List Nat) (w : Wk) :
    w.Keeps (convertRow e b src dst r l w).2 := by
  induction l generalizing e b src dst r w with
  | nil =>
    unfold convertRow
    dsimp only
    exact .refl _
  | cons y l ih =>
    unfold convertRow
    split
    · exact ih ..
    · split
      split
      split
      dsimp only
      exact .after (.snd ‹_› (ih ..)) (.after (Wk.flag_keeps ..) (.snd ‹_› ⟨readElem_wf _ _ _ _⟩))

theorem ewiseB_keeps (e : Env) (k : Core) (b : BitVec 512) (v : VOp) (w : Wk) (l r : Nat) :
    w.Keeps (ewiseB e k b v w l r).2 := by
  unfold ewiseB
  split
  · dsimp only
    exact .refl _
  · split
    · dsimp only
      exact .refl _
    · split
      · exact vGetRow_keeps ..
      · split
        · exact vGet_keeps ..
        · exact vGet_keeps ..

theorem ewiseRow_keeps (e : Env) (k : Core) (b : BitVec 512) (va vb vc vd : VOp) (r : Nat) (l : List Nat) (w : Wk) :
    w.Keeps (ewiseRow e k b va vb vc vd r l w).2 := by
  induction l generalizing w with
  | nil => exact .refl _
  | cons y l ih =>
    unfold ewiseRow
    split
    · exact ih ..
    · split
      split
      split
      split
      exact .after (ih ..) (.after (Wk.flag_keeps ..) (.after (.snd ‹_› (.ite_snd (vGet_keeps ..) (.refl _)))
        (.after (.snd ‹_› (ewiseB_keeps ..)) (.snd ‹_› (vGet_keeps ..)))))

theorem reduceRow_keeps (e : Env) (k : Core) (b : BitVec 512) (v : VOp) (r : Nat) (l : List Nat) (w : Wk) :
    w.Keeps (reduceRow e k b v r l w).2 := by
  induction l generalizing e k b v r w with
  | nil =>
    unfold reduceRow
    dsimp only
    exact .refl _
  | cons y l ih =>
    unfold reduceRow
    split
    · split
      dsimp only
      exact .snd ‹_› (ih ..)
    · split
      split
      split
      dsimp only
      exact .after (.snd ‹_› (ih ..)) (.after (Wk.flag_keeps ..) (.snd ‹_› (vGet_keeps ..)))

theorem bitmapBit_keeps (e : Env) (w : Wk) (o : Opn) (org : List Int) (kp y : Int) : w.Keeps (bitmapBit e w o org kp y).2 := by
  unfold bitmapBit
  dsimp only
  split
  · dsimp only
    exact .refl _
  · dsimp only
    exact ⟨readElem_wf _ _ _ _⟩

theorem scoreRow_keeps (e : Env) (k : Core) (b : BitVec 512) (v mv : VOp) (r : Nat) (l : List Nat) (w : Wk) :
    w.Keeps (scoreRow e k b v mv r l w).2 := by
  induction l generalizing e k b v mv r w with
  | nil =>
    unfold scoreRow
    dsimp only
    exact .refl _
  | cons y l ih =>
    unfold scoreRow
    dsimp only
    split
    · split
      · dsimp only
        exact .after (ih ..) (bitmapBit_keeps ..)
      · dsimp only
        exact .after (ih ..) (.after (Wk.flag_keeps ..) (.after (vGet_keeps ..) (bitmapBit_keeps ..)))
    · split
      · dsimp only
        exact ih ..
      · dsimp only
        exact .after (ih ..) (.after (Wk.flag_keeps ..) (vGet_keeps ..))

theorem statsRow_keeps (e : Env) (b : BitVec 512) (v sv mv : VOp) (first : Bool) (r : Nat) (k : Core) (w : Wk) :
    w.Keeps (statsRow e b v sv mv first r k w).2 := by
  unfold statsRow
  split
  dsimp only
  refine .after (writeReg_keeps ..) (.after (writeReg_keeps ..) (.after (Wk.flag_keeps ..) ?_))
  split
  · dsimp only
    exact .snd ‹_› (scoreRow_keeps ..)
  · exact .after (readReg_keeps ..) (.after (readReg_keeps ..) (.snd ‹_› (scoreRow_keeps ..)))

theorem normRow_keeps (e : Env) (b : BitVec 512) (v sv dv mv : VOp) (r : Nat) (k : Core) (w : Wk) :
    w.Keeps (normRow e b v sv dv mv r k w).2 := by
  unfold normRow
  dsimp only
  split
  · exact .after (vPutRow_keeps ..) (.after (scoreRow_keeps ..) (.after (readReg_keeps ..) (readReg_keeps ..)))
  · split
    · exact .after (vPutRow_keeps ..) (.put (.after (scoreRow_keeps ..) (.after (readReg_keeps ..) (readReg_keeps ..))))
    · refine .after (vPutRow_keeps ..) ?_
      exact .after (Wk.flag_keeps ..) (.after (scoreRow_keeps ..) (.after (readReg_keeps ..) (readReg_keeps ..)))

theorem mergeLanes_keeps (e : Env) (k : Core) (ov pv : VOp) (r : Nat) (a1 a2 : Word) (l : List Nat) (w : Wk) :
    w.Keeps (mergeLanes e k ov pv r a1 a2 l w).2 := by
  induction l generalizing e k ov pv r a1 a2 w with
  | nil =>
    unfold mergeLanes
    dsimp only
    exact .refl _
  | cons y l ih =>
    unfold mergeLanes
    split
    split
    split
    split
    dsimp only
    exact .after (.snd ‹_› (ih ..)) (.after (Wk.flag_keeps ..) (.after (.snd ‹_› (vGet_keeps ..)) (.snd ‹_› (vGet_keeps ..))))

theorem mergeRow_keeps (e : Env) (b : BitVec 512) (ov s1 pv s2 : VOp) (r : Nat) (k : Core) (w : Wk) :
    w.Keeps (mergeRow e b ov s1 pv s2 r k w).2 := by
  unfold mergeRow
  dsimp only
  split
  · refine .after (writeReg_keeps ..) (.after (writeReg_keeps ..) (.after (vPutRow_keeps ..) ?_))
    exact .after (readReg_keeps ..) (.after (readReg_keeps ..) (.after (readReg_keeps ..) (readReg_keeps ..)))
  · refine .after (writeReg_keeps ..) ?_
    refine .after (writeReg_keeps ..) (.after (vPutRow_keeps ..) (.after (Wk.flag_keeps ..) (.after (mergeLanes_keeps ..) ?_)))
    exact .after (readReg_keeps ..) (.after (readReg_keeps ..) (.after (readReg_keeps ..) (readReg_keeps ..)))

theorem rotPos_keeps (e : Env) (k : Core) (b : BitVec 512) (v pv : VOp) (w : Wk) (r : Nat) :
    w.Keeps (rotPos e k b v pv w r).2 := by
  unfold rotPos
  split
  · split
    · split
      dsimp only
      exact .snd ‹_› (readReg_keeps ..)
    · split
      dsimp only
      exact .snd ‹_› ⟨readElem_wf _ _ _ _⟩
  · dsimp only
    exact .refl _

theorem rotCopy_keeps (e : Env) (k : Core) (src dst : VOp) (r l : Nat) (w : Wk) : w.Keeps (rotCopy e k src dst r l w).2 := by
  unfold rotCopy
  split
  · split
    dsimp only
    exact .snd ‹_› (readReg_keeps ..)
  · split
    split
    · dsimp only
      exact .after (Wk.flag_keeps ..) (.snd ‹_› ⟨readElem_wf _ _ _ _⟩)
    · split
      dsimp only
      exact .after (Wk.flag_keeps ..) (.snd ‹_› ⟨readElem_wf _ _ _ _⟩)

theorem rotCopies_keeps (e : Env) (k : Core) (src dst : VOp) (r : Nat) (l : List Nat) (w : Wk) :
    w.Keeps (rotCopies e k src dst r l w).2 := by
  induction l generalizing e k src dst r w with
  | nil =>
    unfold rotCopies
    dsimp only
    exact .refl _
  | cons y l ih =>
    unfold rotCopies
    split
    split
    dsimp only
    exact .after (.snd ‹_› (ih ..)) (.snd ‹_› (rotCopy_keeps ..))

theorem gsIndex_keeps (e : Env) (k : Core) (b : BitVec 512) (v : VOp) (w : Wk) (l r : Nat) :
    w.Keeps (gsIndex e k b v w l r).2 := by
  unfold gsIndex
  split
  · split
    exact .snd ‹_› (.ite_snd (readReg_keeps ..) (readReg_keeps ..))
  · split
    exact .snd ‹_› ⟨readElem_wf _ _ _ _⟩

theorem gsIndices_keeps (e : Env) (k : Core) (b : BitVec 512) (v : VOp) (r : Nat) (l : List Nat) (w : Wk) :
    w.Keeps (gsIndices e k b v r l w).2 := by
  induction l generalizing e k b v r w with
  | nil =>
    unfold gsIndices
    dsimp only
    exact .refl _
  | cons y l ih =>
    unfold gsIndices
    split
    split
    dsimp only
    exact .after (.snd ‹_› (ih ..)) (.snd ‹_› (gsIndex_keeps ..))

theorem rowElems_keeps (e : Env) (o : Opn) (l : List GatherRow) (l3 : List (List Int)) (w : Wk) :
    w.Keeps (rowElems e o l l3 w).2.2 := by
  induction l3 generalizing e o l w with
  | nil =>
    unfold rowElems
    dsimp only
    exact .refl _
  | cons y l3 ih =>
    unfold rowElems
    split
    · split
      dsimp only
      exact .trd ‹_› (ih ..)
    · split
      split
      dsimp only
      exact .after (.trd ‹_› (ih ..)) (.snd ‹_› ⟨readElem_wf _ _ _ _⟩)

theorem tableElems_keeps (e : Env) (b : BitVec 512) (o : Opn) (cs : List (List Int)) (q : QueueSt) (w : Wk) :
    w.Keeps (tableElems e b o cs q w).2.2 := by
  unfold tableElems
  split
  · split
    split
    · dsimp only
      exact .trd ‹_› (rowElems_keeps ..)
    · dsimp only
      exact .trd ‹_› (rowElems_keeps ..)
  · split
    dsimp only
    exact .snd ‹_› ⟨readElems_wf _ _ _ _⟩

theorem gatherRow_keeps (e : Env) (b : BitVec 512) (tv iv dv : VOp) (r : Nat) (k : Core) (w : Wk) :
    w.Keeps (gatherRow e b tv iv dv r k w).2 := by
  unfold gatherRow
  split
  split
  · exact .snd ‹_› (gsIndices_keeps ..)
  · exact .after (vPutRow_keeps ..) (.after (Wk.flag_keeps ..) (.after (tableElems_keeps ..) (.snd ‹_› (gsIndices_keeps ..))))

theorem scatterVal_keeps (e : Env) (k : Core) (w : Wk) (sv : VOp) (table reduce l r : Nat) :
    w.Keeps (scatterVal e k w sv table reduce l r).2.2.2 := by
  unfold scatterVal
  split
  · split
    dsimp only
    exact .snd ‹_› (readReg_keeps ..)
  · split
    dsimp only
    split
    · split
      · dsimp only
        exact .snd ‹_› ⟨readElem_wf _ _ _ _⟩
      · split
        · dsimp only
          exact .snd ‹_› ⟨readElem_wf _ _ _ _⟩
        · dsimp only
          exact .snd ‹_› ⟨readElem_wf _ _ _ _⟩
    · dsimp only
      exact .snd ‹_› ⟨readElem_wf _ _ _ _⟩

theorem scatterRow_keeps (e : Env) (k : Core) (b : BitVec 512) (sv iv tv : VOp) (r : Nat) (l : List Nat) (w : Wk) :
    w.Keeps (scatterRow e k b sv iv tv r l w).2 := by
  induction l generalizing w with
  | nil => exact .refl _
  | cons y l ih =>
    unfold scatterRow
    split
    · exact ih ..
    · split
      split
      · exact .snd ‹_› (gsIndex_keeps ..)
      · split
        · exact .after (ih ..) (.after (Wk.flag_keeps ..) (.snd ‹_› (gsIndex_keeps ..)))
        · split
          split
          exact .after (.snd ‹_› (ih ..)) (.after (Wk.flag_keeps ..)
            (.after (.fourth ‹_› (scatterVal_keeps ..)) (.snd ‹_› (gsIndex_keeps ..))))

theorem scatterVals_keeps (e : Env) (k : Core) (b : BitVec 512) (sv iv tv : VOp) (l : List Nat) (w : Wk) :
    w.Keeps (scatterVals e k b sv iv tv l w).2 := by
  induction l generalizing e k b sv iv tv w with
  | nil =>
    unfold scatterVals
    dsimp only
    exact .refl _
  | cons y l ih =>
    unfold scatterVals
    split
    split
    dsimp only
    exact .after (.snd ‹_› (ih ..)) (.snd ‹_› (scatterRow_keeps ..))

theorem scatterElem_keeps (e : Env) (w : Wk) (o : Opn) (red : Nat) (c : List Int) (vs : List GsVal) :
    w.Keeps (scatterElem e w o red c vs).2 := by
  unfold scatterElem
  dsimp only
  split
  · dsimp only
    exact ⟨readElem_wf _ _ _ _⟩
  · dsimp only
    exact ⟨readElem_wf _ _ _ _⟩

theorem scatterElems_keeps (e : Env) (o : Opn) (red : Nat) (vs : List GsVal) (l : List (List Int)) (w : Wk) :
    w.Keeps (scatterElems e o red vs l w).2 := by
  induction l generalizing e o red vs w with
  | nil =>
    unfold scatterElems
    dsimp only
    exact .refl _
  | cons y l ih =>
    unfold scatterElems
    split
    · exact ih ..
    · split
      split
      dsimp only
      exact .after (.snd ‹_› (ih ..)) (.after (Wk.flag_keeps ..) (.snd ‹_› (scatterElem_keeps ..)))

theorem scatterReduce_keeps (e : Env) (b : BitVec 512) (sv iv tv : VOp) (k : Core) (w : Wk) :
    w.Keeps (scatterReduce e b sv iv tv k w).2 := by
  unfold scatterReduce
  split
  split
  · dsimp only
    exact .snd ‹_› (scatterVals_keeps ..)
  · split
    split
    dsimp only
    refine .after (Wk.put_keeps ..) (.after (.snd ‹_› ⟨elemWrites_wf _ _ _ _ _⟩) ?_)
    exact .after (.snd ‹_› (scatterElems_keeps ..)) (.snd ‹_› (scatterVals_keeps ..))

theorem scatterPlain_keeps (e : Env) (b : BitVec 512) (sv iv tv : VOp) (r : Nat) (k : Core) (w : Wk) :
    w.Keeps (scatterPlain e b sv iv tv r k w).2 := by
  unfold scatterPlain
  split
  split
  · exact .snd ‹_› (scatterRow_keeps ..)
  · exact .after (Wk.put_keeps ..) (.after ⟨elemWrites_wf _ _ _ _ _⟩ (.after (Wk.flag_keeps ..)
      (.after (Wk.drawn_keeps _ _) (.snd ‹_› (scatterRow_keeps ..)))))

theorem State.hostLines_keeps (s : State) (w : Wk) : w.Keeps (State.hostLines s w) := by
  unfold State.hostLines
  exact .put (.refl _)

theorem imageBytes_keeps (e : Env) (o : Opn) (i n : Nat) (w : Wk) : w.Keeps (imageBytes e o i n w).2 := by
  unfold imageBytes
  split
  dsimp only
  exact .snd ‹_› ⟨readElems_wf _ _ _ _⟩

theorem KvWork.tryRead_keeps (e : Env) (x : KvWork) (a n : Nat) : x.w.Keeps (KvWork.tryRead e x a n).2.w := by
  unfold KvWork.tryRead
  split
  split
  · dsimp only
    exact .put (.snd ‹_› ⟨Wk.read_wf _ _ _ _⟩)
  · dsimp only
    exact .snd ‹_› ⟨Wk.read_wf _ _ _ _⟩

theorem KvWork.count_keeps (e : Env) (x : KvWork) (q : Pool) (k u : Nat) : x.w.Keeps (KvWork.count e x q k u).2.w := by
  have read := KvWork.tryRead_keeps
  obtain ⟨f, hf⟩ : ∃ f, f = KvWork.count := ⟨_, rfl⟩
  obtain ⟨r, hr⟩ : ∃ r, r = KvWork.tryRead := ⟨_, rfl⟩
  rw [← hf]
  conv at hf => rhs; delta KvWork.count
  rw [← hr] at hf read
  subst hf
  exact read ..

theorem KvWork.put_keeps (e : Env) (x : KvWork) (a : Nat) (bs : List Byte) : x.w.Keeps (KvWork.put e x a bs).w := by
  unfold KvWork.put
  dsimp only
  exact Wk.put_keeps ..

theorem KvWork.setCount_keeps (e : Env) (x : KvWork) (q : Pool) (k u n : Nat) : x.w.Keeps (KvWork.setCount e x q k u n).w := by
  unfold KvWork.setCount
  exact KvWork.put_keeps ..

theorem KvWork.findFree_keeps (e : Env) (q : Pool) (k n u : Nat) (x : KvWork) :
    x.w.Keeps (KvWork.findFree e q k n u x).2.w := by
  have count := KvWork.count_keeps
  obtain ⟨f, hf⟩ : ∃ f, f = KvWork.findFree := ⟨_, rfl⟩
  obtain ⟨c, hc⟩ : ∃ c, c = KvWork.count := ⟨_, rfl⟩
  rw [← hf]
  conv at hf => rhs; delta KvWork.findFree KvWork.findFree._f
  rw [← hc] at hf count
  subst hf
  induction n generalizing u x with
  | zero => exact .refl _
  | succ n ih =>
    dsimp only
    split
    · exact count ..
    · exact .after (ih ..) (count ..)

theorem KvWork.take_keeps (e : Env) (x : KvWork) (q : Pool) (k : Nat) : x.w.Keeps (KvWork.take e x q k).2.w := by
  unfold KvWork.take
  split
  · dsimp only
    split
    · dsimp only
      exact .after (KvWork.setCount_keeps ..) (.sndKv ‹_› (KvWork.findFree_keeps ..))
    · dsimp only
      exact .after (KvWork.setCount_keeps ..) (.sndKv ‹_› (KvWork.findFree_keeps ..))
  · dsimp only
    exact .sndKv ‹_› (KvWork.findFree_keeps ..)

theorem KvWork.giveBack_keeps (e : Env) (x : KvWork) (q : Pool) (k u : Nat) : x.w.Keeps (KvWork.giveBack e x q k u).w := by
  unfold KvWork.giveBack
  dsimp only
  split
  · dsimp only
    exact KvWork.setCount_keeps ..
  · dsimp only
    exact KvWork.setCount_keeps ..

theorem KvWork.takeN_keeps (e : Env) (q : Pool) (k n : Nat) (x : KvWork) : x.w.Keeps (KvWork.takeN e q k n x).2.w := by
  induction n generalizing e q k x with
  | zero =>
    unfold KvWork.takeN
    dsimp only
    exact .refl _
  | succ n ih =>
    unfold KvWork.takeN
    split
    · dsimp only
      exact .sndKv ‹_› (KvWork.take_keeps ..)
    · split
      · dsimp only
        exact .after (.sndKv ‹_› (ih ..)) (.sndKv ‹_› (KvWork.take_keeps ..))
      · dsimp only
        exact .after (KvWork.giveBack_keeps ..) (.after (.sndKv ‹_› (ih ..)) (.sndKv ‹_› (KvWork.take_keeps ..)))

theorem KvWork.slotsOf_keeps (e : Env) (k : Nat) (l : List Nat) (x : KvWork) : x.w.Keeps (KvWork.slotsOf e k l x).2.w := by
  have read := KvWork.tryRead_keeps
  obtain ⟨f, hf⟩ : ∃ f, f = KvWork.slotsOf := ⟨_, rfl⟩
  obtain ⟨r, hr⟩ : ∃ r, r = KvWork.tryRead := ⟨_, rfl⟩
  rw [← hf]
  conv at hf => rhs; delta KvWork.slotsOf KvWork.slotsOf._f
  rw [← hr] at hf read
  subst hf
  induction l generalizing x with
  | nil => exact .refl _
  | cons g l ih => exact .after (ih ..) (read ..)

theorem KvWork.freePage_keeps (e : Env) (t : Part) (x : KvWork) (pte : Nat) : x.w.Keeps (KvWork.freePage e t x pte).w := by
  unfold KvWork.freePage
  dsimp only
  split
  · refine .after (Wk.Keeps.foldlOf KvWork.w (fun s x => ?_) _ _) ?_
    · exact KvWork.giveBack_keeps ..
    · dsimp only
      exact KvWork.slotsOf_keeps ..
  · exact KvWork.giveBack_keeps ..

theorem KvWork.release_keeps (e : Env) (t : Part) (x : KvWork) (pte : Nat) : x.w.Keeps (KvWork.release e t x pte).w := by
  have count := KvWork.count_keeps
  obtain ⟨f, hf⟩ : ∃ f, f = KvWork.release := ⟨_, rfl⟩
  obtain ⟨c, hc⟩ : ∃ c, c = KvWork.count := ⟨_, rfl⟩
  rw [← hf]
  conv at hf => rhs; delta KvWork.release
  rw [← hc] at hf count
  subst hf
  dsimp only
  split
  · exact .refl _
  · split
    · exact .refl _
    · split
      · exact .after (KvWork.freePage_keeps ..) (count ..)
      · exact .after (KvWork.setCount_keeps ..) (count ..)

theorem KvWork.entry_keeps (e : Env) (x : KvWork) (a : Nat) : x.w.Keeps (KvWork.entry e x a).2.w := by
  unfold KvWork.entry
  split
  dsimp only
  exact .sndKv ‹_› (KvWork.tryRead_keeps ..)

theorem KvWork.setEntry_keeps (e : Env) (x : KvWork) (a pte : Nat) : x.w.Keeps (KvWork.setEntry e x a pte).w := by
  unfold KvWork.setEntry
  exact KvWork.put_keeps ..

theorem KvWork.drop_keeps (e : Env) (t : Part) (x : KvWork) (a : Nat) : x.w.Keeps (KvWork.drop e t x a).w := by
  unfold KvWork.drop
  split
  dsimp only
  refine .after (KvWork.setEntry_keeps ..) ?_
  split
  · exact .after (KvWork.release_keeps ..) (.sndKv ‹_› (KvWork.entry_keeps ..))
  · exact .sndKv ‹_› (KvWork.entry_keeps ..)

theorem stkGet_keeps (e : Env) (w : Wk) (v : VOp) (l r : Nat) : w.Keeps (stkGet e w v l r).2 := by
  unfold stkGet
  exact vGetBy_keeps ..

theorem seRow_keeps (e : Env) (b : BitVec 512) (vs : List VOp) (r : Nat) (l : List Nat) (w : Wk) :
    w.Keeps (seRow e b vs r l w).2 := by
  induction l generalizing w with
  | nil => exact .refl _
  | cons y l ih =>
    unfold seRow
    split
    · exact ih ..
    · split
      split
      split
      exact .after (ih ..) (.after (.snd ‹_› (.ite_snd (stkGet_keeps ..) (.refl _)))
        (.after (.snd ‹_› (.ite_self (.ite_self (stkGet_keeps ..)))) (.snd ‹_› (stkGet_keeps ..))))

theorem sgIndex_keeps (e : Env) (w : Wk) (v : VOp) (r : Nat) : w.Keeps (sgIndex e w v r).2 := by
  unfold sgIndex
  split
  dsimp only
  exact .snd ‹_› ⟨readElem_wf _ _ _ _⟩

theorem tableRow_keeps (e : Env) (t : VOp) (x : Nat) (a : ActiveCmd) (w : Wk) : w.Keeps (tableRow e t x a w).2.2 := by
  unfold tableRow
  split
  dsimp only
  exact .trd ‹_› (rowElems_keeps ..)

theorem putGathered_keeps (e : Env) (t d : VOp) (r : Nat) (vs : List Elem) (w : Wk) : w.Keeps (putGathered e t d r vs w) := by
  unfold putGathered
  dsimp only
  split
  · exact .after (Wk.put_keeps ..) (⟨elemWrites_wf _ _ _ _ _⟩)
  · exact .after (vStoreMem_keeps ..) (Wk.spend_keeps ..)

theorem scSource_keeps (e : Env) (sv tv : VOp) (r : Nat) (w : Wk) : w.Keeps (scSource e sv tv r w).2 := by
  unfold scSource
  dsimp only
  exact ⟨readElems_wf _ _ _ _⟩

theorem putTableRow_keeps (e : Env) (tv : VOp) (x : Nat) (codes : List (Nat × Nat)) (w : Wk) :
    w.Keeps (putTableRow e tv x codes w) := by
  unfold putTableRow
  dsimp only
  exact .after (Wk.put_keeps ..) (⟨elemWrites_wf _ _ _ _ _⟩)

theorem scReduce_keeps (e : Env) (red : Nat) (sv tv : VOp) (r x : Nat) (a : ActiveCmd) (w : Wk) :
    w.Keeps (scReduce e red sv tv r x a w).2 := by
  unfold scReduce
  split
  split
  dsimp only
  refine .after (putTableRow_keeps ..) ?_
  exact .after (Wk.spend_keeps ..) (.after (.trd ‹_› (tableRow_keeps ..)) (.snd ‹_› (scSource_keeps ..)))

theorem scPlain_keeps (e : Env) (sv tv : VOp) (r x : Nat) (a : ActiveCmd) (w : Wk) : w.Keeps (scPlain e sv tv r x a w).2 := by
  unfold scPlain
  split
  exact .after (putTableRow_keeps ..) (.after (Wk.spend_keeps ..) (.after (Wk.drawn_keeps _ _) (.snd ‹_› (scSource_keeps ..))))

theorem mvOut_keeps (e : Env) (b : BitVec 512) (yo : Opn) (n v : Nat) (sum : Word) (w : Wk) :
    w.Keeps (mvOut e b yo n v sum w).2 := by
  unfold mvOut
  dsimp only
  split
  · dsimp only
    exact .after ⟨readElem_wf _ _ _ _⟩ (Wk.spend_keeps ..)
  · dsimp only
    exact .refl _

theorem mvOuts_keeps (e : Env) (b : BitVec 512) (yo : Opn) (n : Nat) (l : List (Nat × Word)) (w : Wk) :
    w.Keeps (mvOuts e b yo n l w).2 := by
  induction l generalizing e b yo n w with
  | nil =>
    unfold mvOuts
    dsimp only
    exact .refl _
  | cons y l ih =>
    unfold mvOuts
    split
    split
    dsimp only
    exact .after (.snd ‹_› (ih ..)) (.snd ‹_› (mvOut_keeps ..))

theorem mvColumns_keeps (e : Env) (b : BitVec 512) (yo : Opn) (l : List (Nat × List Word)) (w : Wk) :
    w.Keeps (mvColumns e b yo l w).2 := by
  induction l generalizing e b yo w with
  | nil =>
    unfold mvColumns
    dsimp only
    exact .refl _
  | cons y l ih =>
    unfold mvColumns
    split
    split
    dsimp only
    exact .after (.snd ‹_› (ih ..)) (.snd ‹_› (mvOuts_keeps ..))

theorem mvRun_keeps (e : Env) (xs : List (List Nat)) (xd : Nat) (wo : Opn) (l : List Nat) (sums : List Word) (w : Wk) :
    w.Keeps (mvRun e xs xd wo l sums w).2.2 := by
  induction l generalizing sums w with
  | nil => exact .refl _
  | cons y l ih => exact .after (ih ..) ⟨readElems_wf _ _ _ _⟩

theorem mvVectors_keeps (e : Env) (o : Opn) (l : List Nat) (w : Wk) : w.Keeps (mvVectors e o l w).2 := by
  induction l generalizing e o w with
  | nil =>
    unfold mvVectors
    dsimp only
    exact .refl _
  | cons y l ih =>
    unfold mvVectors
    split
    split
    dsimp only
    exact .after (.snd ‹_› (ih ..)) (.snd ‹_› ⟨readElems_wf _ _ _ _⟩)

theorem rawVector_keeps (e : Env) (w : Wk) (a g : Nat) : w.Keeps (rawVector e w a g).2 := by
  unfold rawVector
  split
  dsimp only
  exact .snd ‹_› ⟨Wk.read_wf _ _ _ _⟩

theorem rawVectors_keeps (e : Env) (g frame head0 page : Nat) (val : Bool) (l : List (Nat × Nat)) (w : Wk) :
    w.Keeps (rawVectors e g frame head0 page val l w).2 := by
  induction l generalizing e g frame head0 page val w with
  | nil =>
    unfold rawVectors
    dsimp only
    exact .refl _
  | cons y l ih =>
    unfold rawVectors
    dsimp only
    exact .after (ih ..) (rawVector_keeps ..)

theorem rawAttUnit_keeps (e : Env) (b : BitVec 512) (g frame n : Nat) (ks : List Nat) (w : Wk) :
    w.Keeps (rawAttUnit e b g frame n ks w).2 := by
  unfold rawAttUnit
  dsimp only
  exact .after (rawVectors_keeps ..) (rawVectors_keeps ..)

theorem ActiveCmd.takeGranule_keeps (a : ActiveCmd) (w : Wk) : w.Keeps (a.takeGranule w).2.2 := by
  unfold ActiveCmd.takeGranule
  split
  · exact .put (.refl _)
  · split
    · exact Wk.fail_keeps ..
    · exact .refl _

theorem attRead_keeps (e : Env) (k g : Nat) (a : ActiveCmd) (w : Wk) (n : AttStep) : w.Keeps (attRead e k g a w n).2.2 := by
  unfold attRead
  split
  · exact Wk.fail_keeps ..
  · exact rawAttUnit_keeps ..
  · exact ActiveCmd.takeGranule_keeps ..

theorem attMasked_keeps (e : Env) (b : BitVec 512) (o : Opn) (y k : Nat) (w : Wk) : w.Keeps (attMasked e b o y k w).2 := by
  unfold attMasked
  split
  · split
    dsimp only
    exact .snd ‹_› (bitmapBit_keeps ..)
  · dsimp only
    exact .refl _

theorem maskedPairs_keeps (e : Env) (b : BitVec 512) (o : Opn) (l : List (Nat × Nat)) (w : Wk) :
    w.Keeps (maskedPairs e b o l w).2 := by
  induction l generalizing e b o w with
  | nil =>
    unfold maskedPairs
    dsimp only
    exact .refl _
  | cons y l ih =>
    unfold maskedPairs
    split
    split
    dsimp only
    exact .after (.snd ‹_› (ih ..)) (.snd ‹_› (attMasked_keeps ..))

theorem attQueries_keeps (e : Env) (o : Opn) (l : List (Nat × Nat)) (w : Wk) : w.Keeps (attQueries e o l w).2 := by
  induction l generalizing e o w with
  | nil =>
    unfold attQueries
    dsimp only
    exact .refl _
  | cons y l ih =>
    unfold attQueries
    split
    split
    dsimp only
    exact .after (.snd ‹_› (ih ..)) (.snd ‹_› ⟨readElems_wf _ _ _ _⟩)

theorem attStart_keeps (e : Env) (o : Opn) (places : List (Nat × Nat)) (a : ActiveCmd) (w : Wk) :
    w.Keeps (attStart e o places a w).2 := by
  unfold attStart
  split
  dsimp only
  exact .snd ‹_› (attQueries_keeps ..)

theorem attWrite_keeps (e : Env) (oo so : Opn) (l : List ((Nat × Nat) × AttRow)) (w : Wk) : w.Keeps (attWrite e oo so l w) := by
  induction l generalizing e oo so w with
  | nil =>
    unfold attWrite
    exact .refl _
  | cons y l ih =>
    unfold attWrite
    split
    dsimp only
    exact .after (ih ..) (.after (Wk.put_keeps ..) (.after ⟨elemWrites_wf _ _ _ _ _⟩ (⟨elemWrites_wf _ _ _ _ _⟩)))

theorem Wk.readRanges_keeps (e : Env) (base : Nat) (l : List (Nat × Nat)) (w : Wk) : w.Keeps (Wk.readRanges e base l w).2 := by
  induction l generalizing e base w with
  | nil =>
    unfold Wk.readRanges
    dsimp only
    exact .refl _
  | cons y l ih =>
    unfold Wk.readRanges
    dsimp only
    exact .after (ih ..) (⟨Wk.read_wf _ _ _ _⟩)

theorem readImage_keeps (e : Env) (w : Wk) (base units : Nat) : w.Keeps (readImage e w base units).2 := by
  have ranges := Wk.readRanges_keeps
  obtain ⟨f, hf⟩ : ∃ f, f = readImage := ⟨_, rfl⟩
  obtain ⟨g', hg⟩ : ∃ x, x = Wk.readRanges := ⟨_, rfl⟩
  rw [← hf]
  conv at hf => rhs; delta readImage
  rw [← hg] at hf ranges
  subst hf
  exact ranges ..

theorem eligible_keeps (s : State) (e : Env) (k : Nat) (a : ActiveCmd) (y n : Nat) (x : KvWork) :
    x.w.Keeps (eligible s e k a y n x).2.w := by
  have count := KvWork.count_keeps
  obtain ⟨f, hf⟩ : ∃ f, f = eligible := ⟨_, rfl⟩
  obtain ⟨c, hc⟩ : ∃ c, c = KvWork.count := ⟨_, rfl⟩
  rw [← hf]
  conv at hf => rhs; delta eligible
  rw [← hc] at hf count
  subst hf
  dsimp only
  split
  · split
    · exact .refl _
    · exact Wk.fail_keeps ..
  · split
    · exact .refl _
    · exact count ..

theorem pageBytes_keeps (e : Env) (g k pte : Nat) (w : Wk) : w.Keeps (pageBytes e g k pte w).2 := by
  unfold pageBytes
  exact ⟨Wk.read_wf _ _ _ _⟩

theorem writeCoded_keeps (s : State) (e : Env) (k : Nat) (a : ActiveCmd) (y n pte lossy : Nat)
    (slot : Option (Nat × CodecSlot)) (cuts : List Cut) (gs : List Nat) (x : KvWork) :
    x.w.Keeps (writeCoded s e k a y n pte lossy slot cuts gs x).2.w := by
  unfold writeCoded
  dsimp only
  refine .after (KvWork.setEntry_keeps ..) ?_
  refine .after (Wk.Keeps.foldlOf KvWork.w (fun s x => ?_) _ _) ?_
  · exact KvWork.put_keeps ..
  · exact .refl _

theorem encodePage_keeps (s : State) (e : Env) (k : Nat) (a : ActiveCmd) (y n pte lossy : Nat)
    (slot : Option (Nat × CodecSlot)) (x : KvWork) :
    x.w.Keeps (encodePage s e k a y n pte lossy slot x).2.w := by
  unfold encodePage
  extract_lets t g
  split
  have hp := Wk.Keeps.snd ‹_› (pageBytes_keeps ..)
  extract_lets us m y codes units
  have hy : x.w.Keeps y.w := (Wk.spend_keeps _ _).after ((Wk.drawn_keeps _ _).after hp)
  split
  · exact hy
  · split
    · exact .after (.sndKv ‹_› (KvWork.takeN_keeps ..)) hy
    · exact .after (writeCoded_keeps ..) (.after (.sndKv ‹_› (KvWork.takeN_keeps ..)) hy)

theorem buildGroup_keeps (s : State) (e : Env) (k : Nat) (a : ActiveCmd) (n : Nat) (l : List (Nat × Nat)) (x : KvWork) :
    x.w.Keeps (buildGroup s e k a n l x).2.w := by
  induction l generalizing n x with
  | nil =>
    unfold buildGroup
    exact .refl _
  | cons y l ih =>
    unfold buildGroup
    split
    · exact .refl _
    · exact .refl _
    · rename_i hq
      cases hq
      split
      split
      · exact .after (ih ..) (.sndKv ‹_› (eligible_keeps ..))
      · exact .after (ih ..) (.sndKv ‹_› (eligible_keeps ..))

theorem groupUnits_keeps (e : Env) (g k lossy : Nat) (l : List Nat) (w : Wk) : w.Keeps (groupUnits e g k lossy l w).2 := by
  induction l generalizing e g k lossy w with
  | nil =>
    unfold groupUnits
    dsimp only
    exact .refl _
  | cons y l ih =>
    unfold groupUnits
    split
    dsimp only
    exact .after (ih ..) (.after (Wk.spend_keeps ..) (.snd ‹_› (pageBytes_keeps ..)))

theorem readGrans_keeps (e : Env) (k : Nat) (l : List Nat) (w : Wk) : w.Keeps (readGrans e k l w).2 := by
  have read (e : Env) (w : Wk) (a n : Nat) : w.Keeps (w.read e a n).2 := ⟨Wk.read_wf e w a n⟩
  obtain ⟨f, hf⟩ : ∃ f, f = readGrans := ⟨_, rfl⟩
  obtain ⟨r', hr⟩ : ∃ x, x = Wk.read := ⟨_, rfl⟩
  rw [← hf]
  conv at hf => rhs; delta readGrans readGrans._f
  rw [← hr] at hf read
  subst hf
  induction l generalizing w with
  | nil => exact .refl _
  | cons n l ih => exact .after (ih ..) (read ..)

theorem buildPass_keeps (s : State) (e : Env) (k : Nat) (a : ActiveCmd) (w : Wk) : w.Keeps (buildPass s e k a w).2.2 := by
  unfold buildPass
  dsimp only
  split
  · exact buildGroup_keeps s e k a _ _ { w := w }
  · split
    · exact .after (groupUnits_keeps ..) (buildGroup_keeps s e k a _ _ { w := w })
    · exact .after (groupUnits_keeps ..) (buildGroup_keeps s e k a _ _ { w := w })

theorem transitPages_keeps (e : Env) (k : Nat) (a : ActiveCmd) (l : List (Nat × Nat)) (w : Wk) :
    w.Keeps (transitPages e k a l w).2.2 := by
  have read (e : Env) (w : Wk) (a n : Nat) : w.Keeps (w.read e a n).2 := ⟨Wk.read_wf e w a n⟩
  have grans := readGrans_keeps
  obtain ⟨f, hf⟩ : ∃ f, f = transitPages := ⟨_, rfl⟩
  obtain ⟨r', hr⟩ : ∃ x, x = Wk.read := ⟨_, rfl⟩
  obtain ⟨q', hq⟩ : ∃ x, x = readGrans := ⟨_, rfl⟩
  rw [← hf]
  conv at hf => rhs; delta transitPages transitPages._f
  rw [← hr] at hf read
  rw [← hq] at hf grans
  subst hf
  induction l generalizing w with
  | nil => exact .refl _
  | cons y l ih =>
    dsimp only
    split
    · exact Wk.fail_keeps ..
    · refine .after (ih ..) ?_
      split
      · exact grans ..
      · exact read ..

theorem exportPages_keeps (s : State) (e : Env) (k : Nat) (a : ActiveCmd) (w : Wk) : w.Keeps (exportPages s e k a w).2.2 := by
  unfold exportPages
  dsimp only
  split
  · exact transitPages_keeps ..
  · split
    · exact .after (Wk.fail_keeps ..) (transitPages_keeps ..)
    · exact .after (Wk.put_keeps ..) (.after ⟨elemWrites_wf _ _ _ _ _⟩ (transitPages_keeps ..))

theorem writeExpanded_keeps (e : Env) (w : Wk) (o : Opn) (fmt : Nat) (l : List (List Int × Nat × Nat)) :
    w.Keeps (writeExpanded e w o fmt l) := by
  unfold writeExpanded
  split
  · split
    exact .after (Wk.put_keeps ..) (.snd ‹_› ⟨elemWrites_wf _ _ _ _ _⟩)
  · exact .after (vStoreMem_keeps ..) (Wk.spend_keeps ..)

theorem granuleOut_keeps (e : Env) (g page : Nat) (a : ActiveCmd) (w : Wk) : w.Keeps (granuleOut e g page a w).2 :=
  .after (writeExpanded_keeps ..) (a.takeGranule_keeps w)

theorem rawOut_keeps (e : Env) (g page : Nat) (a : ActiveCmd) (bs : List Byte) (w : Wk) : w.Keeps (rawOut e g page a bs w) := by
  unfold rawOut
  dsimp only
  exact writeExpanded_keeps ..

theorem imageTables_keeps (e : Env) (o : Opn) (l : List Nat) (w : Wk) : w.Keeps (imageTables e o l w).2 := by
  induction l generalizing e o w with
  | nil =>
    unfold imageTables
    dsimp only
    exact .refl _
  | cons y l ih =>
    unfold imageTables
    split
    dsimp only
    split
    · dsimp only
      exact .after (ih ..) (.snd ‹_› (imageBytes_keeps ..))
    · dsimp only
      exact .after (ih ..) (.snd ‹_› (imageBytes_keeps ..))

theorem importTables_keeps (e : Env) (g : Nat) (o : Opn) (a : ActiveCmd) (w : Wk) : w.Keeps (importTables e g o a w).2 := by
  unfold importTables
  split
  dsimp only
  split
  · dsimp only
    exact .after (Wk.fail_keeps ..) (.snd ‹_› (imageBytes_keeps ..))
  · split
    · dsimp only
      exact .after (Wk.fail_keeps ..) (.after (.snd ‹_› (imageTables_keeps ..)) (.snd ‹_› (imageBytes_keeps ..)))
    · dsimp only
      exact .after (.snd ‹_› (imageTables_keeps ..)) (.snd ‹_› (imageBytes_keeps ..))

theorem importPage_keeps (e : Env) (g : Nat) (o : Opn) (a : ActiveCmd) (i : Import) (w : Wk) :
    w.Keeps (importPage e g o a i w).2 := by
  unfold importPage
  split
  dsimp only
  split
  · dsimp only
    exact .after (rawOut_keeps ..) (.after (imageBytes_keeps ..) (.snd ‹_› (imageBytes_keeps ..)))
  · split
    · dsimp only
      exact .snd ‹_› (imageBytes_keeps ..)
    · dsimp only
      exact .after (Wk.fail_keeps ..) (.snd ‹_› (imageBytes_keeps ..))

theorem dropPages_keeps (s : State) (p k a b : Nat) (e : Env) (x : KvWork) : x.w.Keeps (dropPages s p k a b e x).w := by
  have drop := KvWork.drop_keeps
  obtain ⟨f, hf⟩ : ∃ f, f = dropPages := ⟨_, rfl⟩
  obtain ⟨d', hd⟩ : ∃ x, x = KvWork.drop := ⟨_, rfl⟩
  rw [← hf]
  conv at hf => rhs; delta dropPages
  rw [← hd] at hf drop
  subst hf
  exact .foldlOf KvWork.w (fun x c => drop e (s.part p) x _) _ _

theorem giveUnits_keeps (t : Part) (e : Env) (l : List (Nat × Nat × Bool)) (x : KvWork) : x.w.Keeps (giveUnits t e l x).w := by
  unfold giveUnits
  refine .after (Wk.Keeps.foldlOf KvWork.w (fun s x => ?_) _ _) ?_
  · exact KvWork.giveBack_keeps ..
  · exact .refl _

theorem KvWork.share_keeps (e : Env) (t : Part) (x : KvWork) (pte : Nat) : x.w.Keeps (KvWork.share e t x pte).2.w := by
  have read := KvWork.tryRead_keeps
  obtain ⟨f, hf⟩ : ∃ f, f = KvWork.share := ⟨_, rfl⟩
  obtain ⟨r', hr⟩ : ∃ x, x = KvWork.tryRead := ⟨_, rfl⟩
  rw [← hf]
  conv at hf => rhs; delta KvWork.share
  rw [← hr] at hf read
  subst hf
  dsimp only
  split
  · exact .refl _
  · split
    · split
      · exact read ..
      · exact .after (KvWork.setCount_keeps ..) (read ..)
    · exact read ..

theorem KvWork.shareAll_keeps (e : Env) (t : Part) (l : List Nat) (x : KvWork) : x.w.Keeps (KvWork.shareAll e t l x).2.w := by
  induction l generalizing e t x with
  | nil =>
    unfold KvWork.shareAll
    dsimp only
    exact .refl _
  | cons y l ih =>
    unfold KvWork.shareAll
    split
    · exact .after (ih ..) (.sndKv ‹_› (KvWork.share_keeps ..))
    · dsimp only
      exact .sndKv ‹_› (KvWork.share_keeps ..)

theorem KvWork.rollback_keeps (old new : KvWork) : new.w.Keeps (old.rollback new).w := .put (.refl _)

theorem dirRead_keeps (s : State) (p i : Nat) (e : Env) (x : KvWork) : x.w.Keeps (dirRead s p i e x).2.w := by
  unfold dirRead
  split
  dsimp only
  exact .sndKv ‹_› (KvWork.tryRead_keeps ..)

theorem dirWrite_keeps (s : State) (p i : Nat) (e : Env) (x : KvWork) : x.w.Keeps (dirWrite s p i e x).w := by
  unfold dirWrite
  exact KvWork.put_keeps ..

theorem findNeeds_keeps (s : State) (p k : Nat) (e : Env) (l : List (Nat × Nat)) (x : KvWork) :
    x.w.Keeps (findNeeds s p k e l x).2.w := by
  have read := KvWork.tryRead_keeps
  have count := KvWork.count_keeps
  obtain ⟨f, hf⟩ : ∃ f, f = findNeeds := ⟨_, rfl⟩
  obtain ⟨r', hr⟩ : ∃ x, x = KvWork.tryRead := ⟨_, rfl⟩
  obtain ⟨c', hc⟩ : ∃ x, x = KvWork.count := ⟨_, rfl⟩
  rw [← hf]
  conv at hf => rhs; delta findNeeds findNeeds._f
  rw [← hr] at hf read
  rw [← hc] at hf count
  subst hf
  have counted (y : KvWork) (q : Pool) (i u : Nat) {c : Prop} [Decidable c] : y.w.Keeps (if c then c' e y q i u else (0, y)).2.w := by
    split
    · exact count ..
    · exact .refl _
  induction l generalizing x with
  | nil => exact .refl _
  | cons y l ih =>
    dsimp only at ih ⊢
    split
    · exact read ..
    · split
      next h => exact .sndKv h (.after (ih ..) (.after (counted ..) (read ..)))
      next h =>
        have hz := Wk.Keeps.sndKv h (.after (ih ..) (.after (counted ..) (read ..)))
        exact .ite_of (fun z : _ × KvWork => z.2.w) hz hz

theorem takeFrames_keeps (s : State) (p : Nat) (e : Env) (l : List Need) (x : KvWork) :
    x.w.Keeps (takeFrames s p e l x).2.w := by
  have take := KvWork.take_keeps
  obtain ⟨f, hf⟩ : ∃ f, f = takeFrames := ⟨_, rfl⟩
  obtain ⟨t', ht⟩ : ∃ x, x = KvWork.take := ⟨_, rfl⟩
  rw [← hf]
  conv at hf => rhs; delta takeFrames takeFrames._f
  rw [← ht] at hf take
  subst hf
  induction l generalizing x with
  | nil => exact .refl _
  | cons d l ih =>
    dsimp only
    split
    · exact .sndKv ‹_› (take ..)
    · split
      · exact .after (.sndKv ‹_› (ih ..)) (.sndKv ‹_› (take ..))
      · exact .after (.sndKv ‹_› (ih ..)) (.sndKv ‹_› (take ..))

theorem readGranules_keeps (e : Env) (en : Engine) (k : Nat) (l : List Nat) (x : KvWork) :
    x.w.Keeps (readGranules e en k l x).2.w := by
  have read := KvWork.tryRead_keeps
  obtain ⟨f, hf⟩ : ∃ f, f = readGranules := ⟨_, rfl⟩
  obtain ⟨r', hr⟩ : ∃ x, x = KvWork.tryRead := ⟨_, rfl⟩
  rw [← hf]
  conv at hf => rhs; delta readGranules readGranules._f
  rw [← hr] at hf read
  subst hf
  induction l generalizing x with
  | nil => exact .refl _
  | cons g l ih => exact .after (ih ..) (read ..)

theorem copyBytes_keeps (s : State) (p : Nat) (e : Env) (pte : Nat) (x : KvWork) : x.w.Keeps (copyBytes s p e pte x).2.w := by
  have read := KvWork.tryRead_keeps
  have grans := readGranules_keeps
  obtain ⟨f, hf⟩ : ∃ f, f = copyBytes := ⟨_, rfl⟩
  obtain ⟨r', hr⟩ : ∃ x, x = KvWork.tryRead := ⟨_, rfl⟩
  obtain ⟨q', hq⟩ : ∃ x, x = readGranules := ⟨_, rfl⟩
  rw [← hf]
  conv at hf => rhs; delta copyBytes
  rw [← hr] at hf read
  rw [← hq] at hf grans
  subst hf
  dsimp only
  split
  · exact grans ..
  · exact read ..

theorem meetNeed_keeps (s : State) (p k : Nat) (e : Env) (d : Need) (x : KvWork) : x.w.Keeps (meetNeed s p k e d x).2.w := by
  have copy := copyBytes_keeps
  obtain ⟨f, hf⟩ : ∃ f, f = meetNeed := ⟨_, rfl⟩
  obtain ⟨b', hb⟩ : ∃ x, x = copyBytes := ⟨_, rfl⟩
  rw [← hf]
  conv at hf => rhs; delta meetNeed
  rw [← hb] at hf copy
  subst hf
  have copied (pte : Nat) (l : List (Nat × LabEntry)) : x.w.Keeps (b' s p e pte { x with walks := l }).2.w :=
    copy s p e pte { x with walks := l }
  dsimp only
  split
  · exact KvWork.setEntry_keeps ..
  · split
    next h => exact .sndKv h (copied ..)
    next h =>
      split
      · exact .after (KvWork.release_keeps ..) (.after (KvWork.setEntry_keeps ..) (.after (KvWork.put_keeps ..) (.sndKv h (copied ..))))
      · exact .sndKv h (copied ..)

theorem meetNeeds_keeps (s : State) (p k : Nat) (e : Env) (l : List Need) (x : KvWork) :
    x.w.Keeps (meetNeeds s p k e l x).2.w := by
  induction l generalizing s p k e x with
  | nil =>
    unfold meetNeeds
    dsimp only
    exact .refl _
  | cons y l ih =>
    unfold meetNeeds
    split
    · dsimp only
      exact .sndKv ‹_› (meetNeed_keeps ..)
    · exact .after (ih ..) (.sndKv ‹_› (meetNeed_keeps ..))

theorem prepare_keeps (s : State) (p k c a : Nat) (e : Env) (x : KvWork) : x.w.Keeps (prepare s p k c a e x).2.w := by
  unfold prepare
  split
  · exact .after (KvWork.rollback_keeps ..) (.sndKv ‹_› (findNeeds_keeps ..))
  · split
    · exact .after (KvWork.rollback_keeps ..) (.after (.sndKv ‹_› (takeFrames_keeps ..)) (.sndKv ‹_› (findNeeds_keeps ..)))
    · split
      · exact .after (.sndKv ‹_› (meetNeeds_keeps ..)) (.after (.sndKv ‹_› (takeFrames_keeps ..)) (.sndKv ‹_› (findNeeds_keeps ..)))
      · exact .after (KvWork.rollback_keeps ..) (.after (.sndKv ‹_› (meetNeeds_keeps ..))
          (.after (.sndKv ‹_› (takeFrames_keeps ..)) (.sndKv ‹_› (findNeeds_keeps ..))))

theorem parkPage_keeps (s : State) (p k : Nat) (e : Env) (y n : Nat) (d : ParkPlan) (x : KvWork) :
    x.w.Keeps (parkPage s p k e y n d x).2.w := by
  have entry := KvWork.entry_keeps
  have count := KvWork.count_keeps
  obtain ⟨f, hf⟩ : ∃ f, f = parkPage := ⟨_, rfl⟩
  obtain ⟨g', hg⟩ : ∃ x, x = KvWork.entry := ⟨_, rfl⟩
  obtain ⟨c', hc⟩ : ∃ x, x = KvWork.count := ⟨_, rfl⟩
  rw [← hf]
  conv at hf => rhs; delta parkPage
  rw [← hg] at hf entry
  rw [← hc] at hf count
  subst hf
  dsimp only
  split
  · exact .sndKv ‹_› (entry ..)
  · split
    · exact .sndKv ‹_› (entry ..)
    · split
      · exact .after (count ..) (.sndKv ‹_› (entry ..))
      · exact .after (count ..) (.sndKv ‹_› (entry ..))

theorem parkPlan_keeps (s : State) (p k : Nat) (e : Env) (x : KvWork) : x.w.Keeps (parkPlan s p k e x).2.w := by
  have park := parkPage_keeps
  obtain ⟨f, hf⟩ : ∃ f, f = parkPlan := ⟨_, rfl⟩
  obtain ⟨g', hg⟩ : ∃ x, x = parkPage := ⟨_, rfl⟩
  rw [← hf]
  conv at hf => rhs; delta parkPlan
  rw [← hg] at hf park
  subst hf
  exact .foldlOf (fun z : _ × KvWork => z.2.w) (fun z (c : Nat × Nat) => park s p k e c.1 c.2 z.1 z.2) _ (_, x)

theorem readPlaces_keeps (e : Env) (n : Nat) (l : List Nat) (x : KvWork) : x.w.Keeps (readPlaces e n l x).2.w := by
  induction l generalizing e n x with
  | nil =>
    unfold readPlaces
    dsimp only
    exact .refl _
  | cons y l ih =>
    unfold readPlaces
    split
    split
    dsimp only
    exact .after (.sndKv ‹_› (ih ..)) (.sndKv ‹_› (KvWork.tryRead_keeps ..))

theorem parkData_keeps (e : Env) (l : List (Nat × Nat × Nat)) (x : KvWork) : x.w.Keeps (parkData e l x).2.w := by
  induction l generalizing e x with
  | nil =>
    unfold parkData
    dsimp only
    exact .refl _
  | cons y l ih =>
    unfold parkData
    dsimp only
    exact .after (ih ..) (readPlaces_keeps ..)

theorem parkedEntries_keeps (s : State) (p k : Nat) (e : Env) (x : KvWork) : x.w.Keeps (parkedEntries s p k e x).2.w := by
  have entry := KvWork.entry_keeps
  obtain ⟨f, hf⟩ : ∃ f, f = parkedEntries := ⟨_, rfl⟩
  obtain ⟨g', hg⟩ : ∃ x, x = KvWork.entry := ⟨_, rfl⟩
  rw [← hf]
  conv at hf => rhs; delta parkedEntries
  rw [← hg] at hf entry
  subst hf
  refine .foldlOf (fun z : _ × KvWork => z.2.w) (fun z c => ?_) _ (_, x)
  dsimp only
  split
  · exact entry ..
  · exact entry ..

theorem returnUnits_keeps (t : Part) (mode p : Nat) (e : Env) (l : List (Nat × Nat × Nat)) (x : KvWork) :
    x.w.Keeps (returnUnits t mode p e l x).2.w := by
  have takeN := KvWork.takeN_keeps
  obtain ⟨f, hf⟩ : ∃ f, f = returnUnits := ⟨_, rfl⟩
  obtain ⟨n', hn⟩ : ∃ x, x = KvWork.takeN := ⟨_, rfl⟩
  rw [← hf]
  conv at hf => rhs; delta returnUnits returnUnits._f
  rw [← hn] at hf takeN
  subst hf
  induction l generalizing x with
  | nil => exact .refl _
  | cons y l ih =>
    dsimp only
    split
    · exact .sndKv ‹_› (takeN ..)
    · split
      · exact .after (.sndKv ‹_› (ih ..)) (.sndKv ‹_› (takeN ..))
      · exact .after (.sndKv ‹_› (ih ..)) (.sndKv ‹_› (takeN ..))

theorem restorePages_keeps (s : State) (p k : Nat) (e : Env) (data : List Byte) (l : List (Nat × Nat × Nat))
    (l6 : List (Nat × Nat × Bool)) (x : KvWork) :
    x.w.Keeps (restorePages s p k e data l l6 x).w := by
  induction l generalizing s p k e data l6 x with
  | nil =>
    unfold restorePages
    exact .refl _
  | cons y l ih =>
    unfold restorePages
    dsimp only
    refine .after (ih ..) (.after (KvWork.setEntry_keeps ..) ?_)
    refine .after (Wk.Keeps.foldlOf KvWork.w (fun s x => ?_) _ _) ?_
    · exact KvWork.put_keeps ..
    · exact .refl _

theorem publishable_keeps (s : State) (p k n : Nat) (e : Env) (x : KvWork) : x.w.Keeps (publishable s p k n e x).2.w := by
  have entry := KvWork.entry_keeps
  obtain ⟨f, hf⟩ : ∃ f, f = publishable := ⟨_, rfl⟩
  obtain ⟨g', hg⟩ : ∃ x, x = KvWork.entry := ⟨_, rfl⟩
  rw [← hf]
  conv at hf => rhs; delta publishable
  rw [← hg] at hf entry
  subst hf
  exact .foldlOf (fun z : _ × KvWork => z.2.w) (fun (z : Option (List Nat) × KvWork) y => entry e z.2 (s.pteAddrOf p k y n)) _ (some [], x)

theorem dirRelease_keeps (s : State) (p : Nat) (d : DirEntry) (e : Env) (x : KvWork) : x.w.Keeps (dirRelease s p d e x).w := by
  have entry := KvWork.entry_keeps
  obtain ⟨f, hf⟩ : ∃ f, f = dirRelease := ⟨_, rfl⟩
  obtain ⟨g', hg⟩ : ∃ x, x = KvWork.entry := ⟨_, rfl⟩
  rw [← hf]
  conv at hf => rhs; delta dirRelease
  rw [← hg] at hf entry
  subst hf
  refine .foldlOf KvWork.w (fun x v => ?_) _ _
  dsimp only
  refine .after (KvWork.setEntry_keeps ..) ?_
  split
  · exact .after (KvWork.release_keeps ..) (entry ..)
  · exact entry ..

theorem readEntries_keeps (e : Env) (l : List Nat) (x : KvWork) : x.w.Keeps (readEntries e l x).2.w := by
  induction l generalizing e x with
  | nil =>
    unfold readEntries
    dsimp only
    exact .refl _
  | cons y l ih =>
    unfold readEntries
    split
    split
    · dsimp only
      exact .sndKv ‹_› (KvWork.tryRead_keeps ..)
    · split
      · dsimp only
        exact .after (.sndKv ‹_› (ih ..)) (.sndKv ‹_› (KvWork.tryRead_keeps ..))
      · dsimp only
        exact .after (.sndKv ‹_› (ih ..)) (.sndKv ‹_› (KvWork.tryRead_keeps ..))

theorem shareHits_keeps (e : Env) (t : Part) (l : List DirEntry) (x : KvWork) : x.w.Keeps (shareHits e t l x).2.w := by
  induction l generalizing x with
  | nil => exact .refl _
  | cons y l ih =>
    unfold shareHits
    split
    · split
      · exact .after (.sndKv ‹_› (ih ..)) (.sndKv ‹_› (KvWork.shareAll_keeps ..))
      · exact .after (ih ..) (.sndKv ‹_› (KvWork.shareAll_keeps ..))
    · exact .after (KvWork.rollback_keeps ..) (.sndKv ‹_› (KvWork.shareAll_keeps ..))
    · exact .sndKv ‹_› (KvWork.shareAll_keeps ..)

theorem writeEntries_keeps (s : State) (p k : Nat) (e : Env) (l : List ((Nat × Nat) × Nat)) (x : KvWork) :
    x.w.Keeps (writeEntries s p k e l x).w := by
  unfold writeEntries
  refine .after (Wk.Keeps.foldlOf KvWork.w (fun s x => ?_) _ _) ?_
  · exact KvWork.setEntry_keeps ..
  · exact .refl _

theorem openTables_keeps (s : State) (p k : Nat) (vrec : Option Nat) (donor : Option (Nat × Nat)) (hits : List DirEntry) (e : Env) (x : KvWork) :
    x.w.Keeps (openTables s p k vrec donor hits e x).2.w := by
  have undone {y z : KvWork} (h : x.w.Keeps z.w) := (writeEntries_keeps s p k e [] (y.rollback z)).after (.after (KvWork.rollback_keeps y z) h)
  unfold openTables
  extract_lets g vp vcells
  split
  have ht := Wk.Keeps.sndKv ‹_› (readEntries_keeps ..)
  split
  · exact undone ht
  · split
    have hd := Wk.Keeps.after (.sndKv ‹_› (readEntries_keeps ..)) ht
    split
    · exact undone hd
    · split
      · exact .after (KvWork.rollback_keeps ..) (.after (.sndKv ‹_› (KvWork.shareAll_keeps ..)) hd)
      · exact undone (.after (.sndKv ‹_› (KvWork.shareAll_keeps ..)) hd)
      · have hs := Wk.Keeps.after (.sndKv ‹_› (KvWork.shareAll_keeps ..)) hd
        split
        · exact undone (.after (.sndKv ‹_› (shareHits_keeps ..)) hs)
        · exact .after (writeEntries_keeps ..) (.after (.sndKv ‹_› (shareHits_keeps ..)) hs)

theorem Wk.stageJunk_keeps (w : Wk) (core base : Nat) : w.Keeps (w.stageJunk core base) := by
  unfold Wk.stageJunk
  split
  · exact ⟨Memory.wf_scratchWrite _ _ _⟩
  · exact .refl _

theorem copyWork_keeps (e : Env) (k : Core) (iss : Issued) (ops : List Opn) (n : Nat) (w : Wk) :
    w.Keeps (copyWork e k iss ops n w).2 := by
  unfold copyWork
  dsimp only
  split
  · refine .after (Wk.stageJunk_keeps ..) ?_
    exact .put (.after ⟨Wk.commit_wf _ _ _⟩ (.after ⟨elemWrites_wf _ _ _ _ _⟩ (⟨readElems_wf _ _ _ _⟩)))
  · exact .put (.after ⟨Wk.commit_wf _ _ _⟩ (.after ⟨elemWrites_wf _ _ _ _ _⟩ (⟨readElems_wf _ _ _ _⟩)))

theorem fillWork_keeps (e : Env) (k : Core) (iss : Issued) (ops : List Opn) (n : Nat) (w : Wk) :
    w.Keeps (fillWork e k iss ops n w).2 := by
  unfold fillWork
  dsimp only
  exact .put (.after ⟨Wk.commit_wf _ _ _⟩ (⟨elemWrites_wf _ _ _ _ _⟩))

theorem recWord_keeps (e : Env) (w : Wk) (o : Opn) (y : Int) (j : Nat) : w.Keeps (recWord e w o y j).2 := by
  unfold recWord
  split
  dsimp only
  exact .snd ‹_› ⟨readElem_wf _ _ _ _⟩

theorem recWords_keeps (e : Env) (o : Opn) (y : Int) (l : List Nat) (w : Wk) : w.Keeps (recWords e o y l w).2 := by
  induction l generalizing e o y w with
  | nil =>
    unfold recWords
    dsimp only
    exact .refl _
  | cons y l ih =>
    unfold recWords
    split
    split
    dsimp only
    exact .after (.snd ‹_› (ih ..)) (.snd ‹_› (recWord_keeps ..))

theorem sampleZs_keeps (e : Env) (k : Core) (b : BitVec 512) (v : VOp) (temp : Word) (r : Nat) (l : List Nat) (w : Wk) :
    w.Keeps (sampleZs e k b v temp r l w).2 := by
  induction l generalizing e k b v temp r w with
  | nil =>
    unfold sampleZs
    dsimp only
    exact .refl _
  | cons y l ih =>
    unfold sampleZs
    split
    · exact ih ..
    · split
      dsimp only
      exact .after (ih ..) (.after (Wk.flag_keeps ..) (.snd ‹_› (vGet_keeps ..)))

theorem sampleRowWork_keeps (e : Env) (b : BitVec 512) (v pv rv : VOp) (first last : Bool) (r : Nat) (k : Core) (w : Wk) :
    w.Keeps (sampleRowWork e b v pv rv first last r k w).2 := by
  have writes (e : Env) (w : Wk) (o : Opn) (l : List (List Int × Nat × Option Nat)) (z : Bool) : w.Keeps (elemWrites e w o l z).2 := ⟨elemWrites_wf e w o l z⟩
  have words := recWords_keeps
  have zs := sampleZs_keeps
  obtain ⟨f, hf⟩ : ∃ f, f = sampleRowWork := ⟨_, rfl⟩
  obtain ⟨g, hg⟩ : ∃ g, g = @elemWrites := ⟨_, rfl⟩
  obtain ⟨q, hq⟩ : ∃ q, q = recWords := ⟨_, rfl⟩
  obtain ⟨d, hd⟩ : ∃ d, d = sampleZs := ⟨_, rfl⟩
  obtain ⟨tile, ht⟩ : ∃ t, t = sampleTile := ⟨_, rfl⟩
  obtain ⟨final, hl⟩ : ∃ l, l = sampleFinal := ⟨_, rfl⟩
  rw [← hf]
  conv at hf => rhs; delta sampleRowWork
  rw [← hg] at hf writes
  rw [← hq] at hf words
  rw [← hd] at hf zs
  rw [← ht, ← hl] at hf
  subst hf
  dsimp only
  split
  · exact .after (Wk.put_keeps ..) (.after (writes ..) (.after (Wk.put_keeps ..) (.after (writes ..) (.after (Wk.flag_keeps ..)
      (.after (Wk.flag_keeps ..) (.after (zs ..) (words ..)))))))
  · exact .after (Wk.flag_keeps ..) (.after (zs ..) (words ..))

theorem deliverSlot_keeps (e : Env) (d : VOp) (rows : Table Word) (k : Core) (w : Wk) : w.Keeps (deliverSlot e d rows k w).2 :=
  overRows_keeps (fun _ k w => vPutRow_keeps e k w d _ _) 32 k w

/-! ## Engine commands and streams -/

theorem loadRowWork_keeps (e : Env) (k : Core) (iss : Issued) (ops : List Opn) (n : Nat) (w : Wk) :
    w.Keeps (loadRowWork e k iss ops n w).2 :=
  overRows_keeps (fun _ _ _ => .after (vPutRow_keeps ..) (moveRow_keeps (fun _ _ => vLoadElem_keeps ..) _ VOut.bits _ _)) ..

theorem storeRowWork_keeps (e : Env) (k : Core) (iss : Issued) (ops : List Opn) (n : Nat) (w : Wk) :
    w.Keeps (storeRowWork e k iss ops n w).2 :=
  overRows_keeps (fun _ _ _ => .after (vPutRow_keeps ..) (moveRow_keeps (fun _ _ => vLoadElem_keeps ..) _ (storeOut (vOp k iss ops n 1).o.d) _ _)) ..

theorem convertWork_keeps (e : Env) (k : Core) (iss : Issued) (ops : List Opn) (n : Nat) (w : Wk) :
    w.Keeps (convertWork e k iss ops n w).2 :=
  overRows_keeps (fun _ _ _ => .after (vPutRow_keeps ..) (convertRow_keeps ..)) ..

theorem ewiseWork_keeps (e : Env) (k : Core) (iss : Issued) (ops : List Opn) (n : Nat) (w : Wk) :
    w.Keeps (ewiseWork e k iss ops n w).2 :=
  overRows_keeps (fun _ _ _ => .after (vPutRow_keeps ..) (ewiseRow_keeps ..)) ..

theorem reduceWork_keeps (e : Env) (k : Core) (iss : Issued) (ops : List Opn) (n : Nat) (w : Wk) :
    w.Keeps (reduceWork e k iss ops n w).2 := by
  unfold reduceWork
  refine overRows_keeps (fun r k w => ?_) _ _ _
  dsimp only
  split
  · exact .after (vPutOne_keeps ..) (.after (Wk.flag_keeps ..) (reduceRow_keeps ..))
  · exact .after (vPutOne_keeps ..) (.after (Wk.flag_keeps ..) (.after (vGetRow_keeps ..) (.after (Wk.flag_keeps ..) (reduceRow_keeps ..))))

theorem softmaxWork_keeps (e : Env) (k : Core) (iss : Issued) (ops : List Opn) (n : Nat) (w : Wk) :
    w.Keeps (softmaxWork e k iss ops n w).2 := by
  refine overRows_keeps (fun r k w => ?_) _ _ _
  split
  · exact statsRow_keeps ..
  · split
    · exact normRow_keeps ..
    · exact mergeRow_keeps ..

theorem rotaryWork_keeps (e : Env) (k : Core) (iss : Issued) (ops : List Opn) (n : Nat) (w : Wk) :
    w.Keeps (rotaryWork e k iss ops n w).2 :=
  overRows_keeps (fun _ _ _ => .after (vPutRow_keeps ..) (.after (Wk.flag_keeps ..) (.after (rotCopies_keeps ..)
    (.after (vRow_keeps (fun _ _ => vGet_keeps ..) ..) (rotPos_keeps ..))))) ..

theorem gatherWork_keeps (e : Env) (k : Core) (iss : Issued) (ops : List Opn) (n : Nat) (w : Wk) :
    w.Keeps (gatherWork e k iss ops n w).2 :=
  overRows_keeps (fun _ _ _ => gatherRow_keeps ..) ..

theorem scatterWork_keeps (e : Env) (k : Core) (iss : Issued) (ops : List Opn) (n : Nat) (w : Wk) :
    w.Keeps (scatterWork e k iss ops n w).2 := by
  unfold scatterWork
  dsimp only
  split
  · exact overRows_keeps (fun _ _ _ => scatterPlain_keeps ..) ..
  · exact scatterReduce_keeps ..

theorem sampleWork_keeps (e : Env) (k : Core) (iss : Issued) (ops : List Opn) (n : Nat) (w : Wk) :
    w.Keeps (sampleWork e k iss ops n w).2 :=
  .put (Wk.Keeps.foldlOf Prod.snd (fun p _ => sampleRowWork_keeps _ _ _ _ _ _ _ _ p.1 p.2) _ (k, w))

theorem spoolWork_keeps (cycle : Option Nat) (e : Env) (k : Core) (iss : Issued) (ops : List Opn) (n : Nat) (w : Wk) :
    w.Keeps (spoolWork cycle e k iss ops n w).2 := by
  unfold spoolWork
  dsimp only
  split
  · split
    · exact .put (.refl _)
    · split
      · exact .put (.refl _)
      · split
        · exact Wk.fail_keeps ..
        · exact deliverSlot_keeps ..
  · split
    · exact deliverSlot_keeps ..
    · split
      · exact Wk.fail_keeps ..
      · exact .put (.refl _)

theorem strideEntry_keeps (s : State) (e : Env) (g : Issued) (n : Nat) (w : Wk) : w.Keeps (strideEntry s e g n w).2 := .refl w

theorem indexEntry_keeps (s : State) (e : Env) (g : Issued) (n : Nat) (w : Wk) : w.Keeps (indexEntry s e g n w).2 := by
  unfold indexEntry
  dsimp only
  exact ⟨readElem_wf _ _ _ _⟩

theorem pageEntry_keeps (s : State) (e : Env) (g : Issued) (n : Nat) (w : Wk) : w.Keeps (pageEntry s e g n w).2 := by
  have read (v : Wk) (a n : Nat) : v.Keeps (v.readNat e a n).2 := ⟨Wk.readNat_wf e v a n⟩
  obtain ⟨f, hf⟩ : ∃ f, f = pageEntry := ⟨_, rfl⟩
  obtain ⟨r, hr⟩ : ∃ r, r = Wk.readNat := ⟨_, rfl⟩
  rw [← hf]
  conv at hf => rhs; delta pageEntry
  rw [← hr] at hf read
  subst hf
  dsimp only
  split
  · exact .refl _
  · split
    · exact read ..
    · exact read ..

end Sys2Proof.Machine
end

section
/-! PROOFS. What every command keeps (R424, O3 to O5): for each change of the part, and from these for each command, what `Grows`
says, that the ledger grows by whole records, that the memories keep their form, and that fuses, floor, count of starts and outputs
are not undone. -/

namespace Sys2Proof.Machine

/-! ## Memories -/

/-- A fold of changes that each keep the form keeps it. -/
theorem Memory.wf_foldl {α : Type} {f : MemSys → α → MemSys} (h : ∀ m a, Memory.wf m = true → Memory.wf (f m a) = true) (l : List α) :
    ∀ m, Memory.wf m = true → Memory.wf (l.foldl f m) = true := by
  induction l with
  | nil => exact fun _ hm => hm
  | cons a l ih => exact fun m hm => ih _ (h m a hm)

/-- The stacks of a start: each keeps its form, and nothing else is held. -/
theorem Memory.wf_stacks {m : MemSys} {f : Stack → Stack} (n : Nat) (h : ∀ st, (f st).wf = true) :
    Memory.wf { stk := m.stk.map (fun k => (k.1, f k.2)), fresh := n } = true := by
  refine (Memory.wf_iff _).2 ⟨fun p hp => ?_, by simp, by simp⟩
  obtain ⟨q, _, rfl⟩ := List.mem_map.1 hp
  exact h q.2

theorem Stack.wf_cold (st : Stack) : st.cold.wf = true := Stack.wf_of_eq Stack.wf_default rfl rfl

theorem Stack.wf_stopped (st : Stack) : st.stopped.wf = true := Stack.wf_of_eq Stack.wf_default rfl rfl

theorem Stack.wf_foundBad {st : Stack} (lines : List Nat) (h : st.wf = true) : (st.foundBad lines).wf = true := by
  unfold Stack.foundBad
  induction lines generalizing st with
  | nil => exact h
  | cons l t ih =>
    refine ih ?_
    dsimp only
    split
    · exact h
    · exact Stack.wf_uncorrectable l h

theorem Stack.wf_sanitised {st : Stack} (e : DieEnv) (pattern : Nat) (h : st.wf = true) : (st.sanitised e pattern).wf = true :=
  Stack.wf_fillLines e _ _ _ (Stack.wf_of_eq h rfl rfl)

theorem Memory.wf_march {m : MemSys} (now threshold k : Nat) (bad : List Nat) (h : Memory.wf m = true) :
    Memory.wf (m.march now threshold k bad) = true :=
  Memory.wf_setStack k h (Stack.wf_fillLines _ _ _ _ (Stack.wf_foundBad bad (Memory.wf_stack k h)))

theorem Memory.wf_scrub {m : MemSys} (now threshold k piece : Nat) (h : Memory.wf m = true) :
    Memory.wf (m.scrub now threshold k piece) = true := by
  refine Memory.wf_foldl (fun m i hm => ?_) _ m h
  dsimp only
  split
  · exact hm
  · exact Memory.wf_setStack k hm (Stack.wf_readLine _ _ (Memory.wf_stack k hm))

/-! ## What takes the memories of a piece of work -/

/-- The memories may take what a piece of work that began on the part's made of them. -/
theorem Grows.takeMem {s t : State} {m : MemSys} (h : Grows s t) (hm : Memory.wf s.mem = true → Memory.wf m = true) :
    Grows s { t with mem := m } :=
  ⟨h.ledger, h.chain, h.queue, h.sent, hm, h.fused, h.floor, h.starts⟩

theorem Grows.withMem {s t : State} {m : MemSys} {cause : Nat} (h : Grows s t) (hm : Memory.wf s.mem = true → Memory.wf m = true) :
    Grows s (t.withMem m cause) := by
  unfold State.withMem
  dsimp only
  have lost : ∀ l : List (Nat × Nat), Grows s (l.foldl (fun (s : State) (f : Nat × Nat) =>
      (s.cairn 0x0C [BitVec.ofNat 8 f.1, BitVec.ofNat 8 f.2, BitVec.ofNat 8 cause]).loseStack f.1) { t with mem := m }) := fun l =>
    (h.takeMem hm).trans (Grows.foldl (fun s _ => (s.cairn_grows _ _).trans (State.loseStack_grows _ _)) l _)
  split
  · exact lost _
  · exact (lost _).trans (State.sealBase_grows _)

theorem Grows.takeWork {s t : State} {w : Wk} (h : Grows s t) (hw : Memory.wf s.mem = true → Memory.wf w.mem = true) :
    Grows s (t.takeWork w) := by
  unfold State.takeWork
  have sent : Grows s ((t.withMem w.mem 3).sendSnoops w.snoops.reverse) := .after (State.sendSnoops_grows ..) (h.withMem hw)
  refine .after (Grows.foldl (fun s d => State.updCore_grows ..) _ _) ?_
  split
  · exact sent
  · exact .put sent

theorem State.takeWork_grows (s : State) (w : Wk) (h : Memory.wf s.mem = true → Memory.wf w.mem = true) :
    Grows s (s.takeWork w) :=
  (Grows.refl s).takeWork h

theorem Grows.stkTake {s t : State} {c : StkCmd} {w : Wk} (h : Grows s t) (hw : Memory.wf s.mem = true → Memory.wf w.mem = true) :
    Grows s (t.stkTake c w) :=
  .after (State.addCharge_grows ..) (.after (State.addMoved_grows ..) (.after (State.addMoved_grows ..) (h.takeWork hw)))

theorem State.stkTake_grows (s : State) (c : StkCmd) (w : Wk) (h : Memory.wf s.mem = true → Memory.wf w.mem = true) :
    Grows s (s.stkTake c w) := (Grows.refl s).stkTake h

/-! ## What the rows of an engine take as an argument -/

theorem State.vecStep_grows (s : State) (c op : Nat) (uses : BitVec 512 → List VUse) (lanes : BitVec 512 → Nat)
    (check : Env → Core → Issued → Bool) (work : VecWork) (hw : ∀ e k iss ops n w, Wk.Keeps w (work e k iss ops n w).2) :
    Grows s (s.vecStep c op uses lanes check work) :=
  State.engineStep_grows _ _ _ _ _ _ _ (nestBody_grows c 1 false (fun e k iss ops n w => (hw e k iss ops n w).wf))

/-- The unit of a STK command leaves the part as a command may, and the memories in their form. -/
structure StkUnit.Keeps (f : StkUnit) : Prop where
  state : ∀ s e k a i, Grows s (f s e k a i).1
  mem : ∀ s e k a i, Memory.wf s.mem = true → Memory.wf (f s e k a i).2.2.mem = true

/-- A write is refused, or leaves the part as a command may. -/
inductive Wr.Grows (s : State) : Wr → Prop
  | no (result : Nat) : Wr.Grows s (.no result)
  | ok {t : State} (h : Machine.Grows s t) : Wr.Grows s (.ok t)
  | stored {t : State} {old : Nat} {grade : Option (Nat × Nat)} (h : Machine.Grows s t) : Wr.Grows s (.stored t old grade)

theorem Wr.Grows.after {s t : State} {w : Wr} (k : Wr.Grows t w) (h : Machine.Grows s t) : Wr.Grows s w := by
  cases k with
  | no result => exact .no result
  | ok k => exact .ok (h.trans k)
  | stored k => exact .stored (h.trans k)

theorem Wr.check_grows {s : State} {ok : Bool} {result : Nat} {w : Wr} (h : Wr.Grows s w) :
    Wr.Grows s (Wr.check ok result w) := by
  unfold Wr.check
  split
  · exact h
  · exact .no result

theorem Wr.Grows.of_ok {s t : State} {w : Wr} (h : w = .ok t) (g : Wr.Grows s w) : Machine.Grows s t := by
  subst h
  cases g with
  | ok g => exact g

theorem Wr.Grows.of_stored {s t : State} {w : Wr} {old : Nat} {grade : Option (Nat × Nat)} (h : w = .stored t old grade)
    (g : Wr.Grows s w) : Machine.Grows s t := by
  subst h
  cases g with
  | stored g => exact g

theorem State.begin_stopped {s t : State} {c q : Nat} {mine : BitVec 512 → Bool} (h : s.begin c q mine = .stopped t) :
    Grows s t := by
  have g := s.begin_grows c q mine
  rw [h] at g
  exact g

theorem State.begin_go {s t : State} {c q : Nat} {mine : BitVec 512 → Bool} {r : CoreRun} {iss : Issued}
    (h : s.begin c q mine = .go t r iss) : Grows s t := by
  have g := s.begin_grows c q mine
  rw [h] at g
  exact g

/-! ## Changes of the part, and commands -/

theorem NonVolatile.Keeps.refl (nv : NonVolatile) : nv.Keeps nv := ⟨rfl, ⟨rfl, rfl, rfl⟩, le_rfl, le_rfl⟩

theorem State.setFunc_grows (s : State) (f : Nat) (v : Func) : Grows s (s.setFunc f v) := by
  unfold State.setFunc
  exact .put (.refl _)

theorem State.addLink_grows (s : State) (p n : Nat) : Grows s (s.addLink p n) := by
  unfold State.addLink
  exact State.updPart_grows ..

theorem State.stepFail_grows (s : State) (p status : Nat) : Grows s (s.stepFail p status) := by
  unfold State.stepFail
  exact State.updPart_grows ..

theorem State.stepReport_grows (s : State) (p status : Nat) : Grows s (s.stepReport p status) := by
  unfold State.stepReport
  dsimp only
  split
  · exact .after (State.stepFail_grows ..) (State.updPart_grows ..)
  · exact State.updPart_grows ..

theorem State.hostPut_grows (s : State) (req : HostReq) (p fn addr : Nat) (data : List Byte) :
    Grows s (s.hostPut req p fn addr data) := by
  unfold State.hostPut
  exact .after (State.emit_grows ..) (State.updPart_grows ..)

theorem State.hostGet_grows (s : State) (req : HostReq) (p fn addr n : Nat) : Grows s (s.hostGet req p fn addr n) := by
  unfold State.hostGet
  exact .after (State.emit_grows ..) (State.updPart_grows ..)

theorem State.deliver_grows (s : State) (p x : Nat) (step : Bool) (status : Nat) (report : BitVec 256) :
    Grows s (s.deliver p x step status report) := by
  unfold State.deliver
  split
  · exact State.stepReport_grows ..
  · dsimp only
    split
    · exact .after (State.updPart_grows ..) (State.setContext_grows ..)
    · refine .after (State.irq_grows ..) ?_
      split
      · exact .after (State.hostPut_grows ..) (.after (State.updPart_grows ..) (State.setContext_grows ..))
      · exact .after (State.updPart_grows ..) (State.setContext_grows ..)

theorem State.writeReports_grows (s : State) (p cores : Nat) (report : BitVec 256) :
    Grows s (s.writeReports p cores report) := by
  unfold State.writeReports
  exact Grows.foldl (fun s x => State.updCore_grows ..) _ _

theorem State.countAborted_grows (s : State) (p status : Nat) : Grows s (s.countAborted p status) := by
  unfold State.countAborted
  split
  · exact .after (State.irq_grows ..) (State.updFunc_grows ..)
  · exact .refl _

theorem State.endStart_grows (s : State) (p x : Nat) (st : Start) (status : Nat) : Grows s (s.endStart p x st status) := by
  unfold State.endStart
  exact .after (State.deliver_grows ..) (.after (State.writeReports_grows ..) (State.countAborted_grows ..))

theorem State.preemptAll_grows (s : State) (p : Nat) : Grows s (s.preemptAll p) := by
  unfold State.preemptAll
  refine Grows.foldl (fun s x => ?_) _ _
  dsimp only
  split
  · refine Grows.foldl (fun s x => ?_) _ _
    split
    · split
      · exact State.triggerSave_grows ..
      · exact .refl _
    · exact .refl _
  · exact .refl _

theorem State.takeCore_grows (s : State) (p x : Nat) (kd : BitVec 512) (rank c : Nat) : Grows s (s.takeCore p x kd rank c) := by
  unfold State.takeCore
  extract_lets k other lock q m k'
  refine .after (State.setCore_grows ..) (.putMem (.refl _) fun h => Memory.wf_fresh _ ?_)
  unfold m
  split
  · exact Memory.wf_scratchZero c h
  · exact h

theorem State.copyParams_grows (s : State) (c : Nat) : Grows s (s.copyParams c) := by
  unfold State.copyParams
  split
  · exact .refl _
  · split
    · exact .refl _
    · split
      dsimp only
      split
      · refine State.absorbReads_grows _ _ _ _ _ _ ?_
        exact Wk.Keeps.wf (v := { mem := s.mem }) (.after (Wk.counted_keeps ..) (.snd ‹_› ⟨Wk.read_wf _ _ _ _⟩))
      · split
        · refine .after (State.updQueue_grows ..) (.after (State.updContext_grows ..) (State.absorbReads_grows _ _ _ _ _ _ ?_))
          exact Wk.Keeps.wf (v := { mem := s.mem }) (.after (Wk.counted_keeps ..) (.snd ‹_› ⟨Wk.read_wf _ _ _ _⟩))
        · refine .after (State.updCore_grows ..) ?_
          refine .after (State.updQueue_grows ..) (.after (State.updContext_grows ..) (State.absorbReads_grows _ _ _ _ _ _ ?_))
          exact Wk.Keeps.wf (v := { mem := s.mem }) (.after (Wk.counted_keeps ..) (.snd ‹_› ⟨Wk.read_wf _ _ _ _⟩))

theorem State.startKernel_grows (s : State) (p x : Nat) (st : Start) : Grows s (s.startKernel p x st) := by
  unfold State.startKernel
  dsimp only
  refine .after (Grows.foldl (fun s x => ?_) _ _) ?_
  · exact State.copyParams_grows ..
  · exact .after (Grows.foldl (fun s x => State.takeCore_grows ..) _ _) (State.updContext_grows ..)

theorem State.dropPartial_grows (s : State) (p x : Nat) : Grows s (s.dropPartial p x) := by
  unfold State.dropPartial
  exact .put (Grows.foldl (fun s x => State.updCore_grows ..) _ _)

theorem State.keepCounts_grows (s : State) (p x : Nat) (listed : List Nat) (core : Nat → Core) :
    Grows s (s.keepCounts p x listed core) := by
  unfold State.keepCounts
  exact State.updContext_grows ..

theorem State.quiesceDone_grows (s : State) : Grows s s.quiesceDone := by
  unfold State.quiesceDone
  refine Grows.foldl (fun s x => ?_) _ _
  dsimp only
  split
  · exact .refl _
  · split
    · exact .refl _
    · exact .after (State.irq_grows ..) (State.updFunc_grows ..)

theorem State.endKernel_grows (s : State) (p x : Nat) (k : Kernel) (cycles : Nat) : Grows s (s.endKernel p x k cycles) := by
  unfold State.endKernel
  dsimp only
  refine .after (State.quiesceDone_grows ..) ?_
  refine .after (State.preemptAll_grows ..) (.after (State.deliver_grows ..) (.after (State.updPart_grows ..) ?_))
  refine .after (State.countAborted_grows ..) (.after (State.writeReports_grows ..) (.after (State.updContext_grows ..) ?_))
  split
  · refine .after (Grows.foldl (fun s x => ?_) _ _) ?_
    · exact State.updCore_grows ..
    · refine .after (State.keepCounts_grows ..) ?_
      refine .putMem ?_ ?_
      · exact State.dropPartial_grows ..
      · exact id
  · split
    · refine .after (Grows.foldl (fun s x => ?_) _ _) ?_
      · exact State.updCore_grows ..
      · refine .after (State.keepCounts_grows ..) ?_
        refine .putMem ?_ ?_
        · exact State.dropPartial_grows ..
        · exact id
    · refine .after (State.keepCounts_grows ..) ?_
      refine .putMem ?_ ?_
      · exact State.dropPartial_grows ..
      · exact id

theorem execMxMac_advances (core : Nat) (s : State) : Advances s (execMxMac core s) := by
  unfold execMxMac
  refine .next (State.engineStep_grows _ _ _ _ _ _ _ ?_)
  intro s r iss k
  refine nestBody_grows _ _ _ ?_ _ _ _ _
  intro e k iss ops n w
  exact Wk.Keeps.wf (macWork_keeps ..)

theorem execMxLoadw_advances (core : Nat) (s : State) : Advances s (execMxLoadw core s) := by
  unfold execMxLoadw
  refine .next (State.engineStep_grows _ _ _ _ _ _ _ ?_)
  intro s r iss k
  refine nestBody_grows _ _ _ ?_ _ _ _ _
  intro e k iss ops n w
  exact Wk.Keeps.wf (loadWork_keeps ..)

theorem execMxZero_advances (core : Nat) (s : State) : Advances s (execMxZero core s) := by
  unfold execMxZero
  refine .next (State.engineStep_grows _ _ _ _ _ _ _ ?_)
  intro s r iss k
  dsimp only
  exact State.updCore_grows ..

theorem drainSlot_grows (core cycle first : Nat) (s : State) (n : CoreRun) (iss : Issued) (n6 : Nat) :
    Grows s (drainSlot core cycle first s n iss n6).1 := by
  unfold drainSlot
  dsimp only
  split
  · exact .refl _
  · split
    · split
      · exact .refl _
      · exact .refl _
    · exact State.setCore_grows ..

theorem execMxDrain_advances (core cycle : Nat) (s : State) : Advances s (execMxDrain core cycle s) := by
  unfold execMxDrain
  dsimp only
  refine .next (State.engineStep_grows _ _ _ _ _ _ _ ?_)
  intro s r iss k
  exact drainSlot_grows ..

theorem execVLoad_advances (core : Nat) (s : State) : Advances s (execVLoad core s) := by
  unfold execVLoad
  refine .next (State.vecStep_grows _ _ _ _ _ _ _ ?_)
  intro e k iss ops n w
  exact loadRowWork_keeps ..

theorem execVStore_advances (core : Nat) (s : State) : Advances s (execVStore core s) := by
  unfold execVStore
  refine .next (State.vecStep_grows _ _ _ _ _ _ _ ?_)
  intro e k iss ops n w
  exact storeRowWork_keeps ..

theorem execVConvert_advances (core : Nat) (s : State) : Advances s (execVConvert core s) := by
  unfold execVConvert
  refine .next (State.vecStep_grows _ _ _ _ _ _ _ ?_)
  intro e k iss ops n w
  exact convertWork_keeps ..

theorem execVEwise_advances (core : Nat) (s : State) : Advances s (execVEwise core s) := by
  unfold execVEwise
  refine .next (State.vecStep_grows _ _ _ _ _ _ _ ?_)
  intro e k iss ops n w
  exact ewiseWork_keeps ..

theorem execVReduce_advances (core : Nat) (s : State) : Advances s (execVReduce core s) := by
  unfold execVReduce
  refine .next (State.vecStep_grows _ _ _ _ _ _ _ ?_)
  intro e k iss ops n w
  exact reduceWork_keeps ..

theorem execVSoftmax_advances (core : Nat) (s : State) : Advances s (execVSoftmax core s) := by
  unfold execVSoftmax
  refine .next (State.vecStep_grows _ _ _ _ _ _ _ ?_)
  intro e k iss ops n w
  exact softmaxWork_keeps ..

theorem execVRotary_advances (core : Nat) (s : State) : Advances s (execVRotary core s) := by
  unfold execVRotary
  refine .next (State.vecStep_grows _ _ _ _ _ _ _ ?_)
  intro e k iss ops n w
  exact rotaryWork_keeps ..

theorem execVGather_advances (core : Nat) (s : State) : Advances s (execVGather core s) := by
  unfold execVGather
  refine .next (State.vecStep_grows _ _ _ _ _ _ _ ?_)
  intro e k iss ops n w
  exact gatherWork_keeps ..

theorem execVScatter_advances (core : Nat) (s : State) : Advances s (execVScatter core s) := by
  unfold execVScatter
  refine .next (State.vecStep_grows _ _ _ _ _ _ _ ?_)
  intro e k iss ops n w
  exact scatterWork_keeps ..

theorem execCommandRoute_advances (core : Nat) (s : State) : Advances s (execCommandRoute core s) := by
  unfold execCommandRoute
  dsimp only
  split
  · exact .next (State.copyParams_grows ..)
  · split
    · exact .next (State.copyParams_grows ..)
    · split
      · exact .next (.after (State.kernelFault_grows ..) (.after (State.updCore_grows ..) (State.copyParams_grows ..)))
      · exact .next (.after (State.updCore_grows ..) (State.copyParams_grows ..))

theorem State.refuseStep_grows (s : State) (c q status : Nat) (isMine : BitVec 512 → Bool) :
    Grows s (s.refuseStep c q status isMine) := by
  unfold State.refuseStep
  split
  · exact .refl _
  · exact State.begin_stopped ‹_›
  · exact .after (State.cmdFault_grows ..) (State.begin_go ‹_›)

theorem execUnlistedOpcode_advances (core queue : Nat) (s : State) : Advances s (execUnlistedOpcode core queue s) := by
  unfold execUnlistedOpcode
  split
  · exact .next (.refl _)
  · exact .next (State.refuseStep_grows ..)

theorem NonVolatile.Keeps.trans {a b c : NonVolatile} (h : a.Keeps b) (k : b.Keeps c) : a.Keeps c :=
  ⟨k.cairn.trans h.cairn, ⟨k.fused.1.trans h.fused.1, k.fused.2.1.trans h.fused.2.1, k.fused.2.2.trans h.fused.2.2⟩,
    h.floor.trans k.floor, h.starts.trans k.starts⟩

theorem State.controlStep_grows (s : State) (c q op : Nat) (form : Form) (check : Core → Issued → Bool)
    (act : State → CoreRun → Issued → State)
    (ha : ∀ s r iss, Grows s (act s r iss)) : Grows s (s.controlStep c q op form check act) := by
  unfold State.controlStep
  split
  · exact .refl _
  · split
    · exact .refl _
    · exact State.begin_stopped ‹_›
    · next hb =>
      have hb := State.begin_go hb
      split
      · exact .after (State.cmdFault_grows ..) (.fst ‹_› (hb.trans (State.issue_grows ..)))
      · exact .after (ha ..) (.fst ‹_› (hb.trans (State.issue_grows ..)))
      · exact .after (State.setRun_grows ..) (.fst ‹_› (hb.trans (State.issue_grows ..)))

theorem execNop_advances (core queue : Nat) (s : State) : Advances s (execNop core queue s) := by
  unfold execNop
  refine .next (State.controlStep_grows _ _ _ _ _ _ _ ?_)
  intro s r iss
  exact State.retire_grows ..

theorem execBrk_advances (core queue : Nat) (s : State) : Advances s (execBrk core queue s) := by
  unfold execBrk
  split
  · exact .next (.refl _)
  · split
    · split
      · exact .next (State.takeLate_grows ‹_›)
      · exact .next (.after (State.fireBreak_grows ..) (State.updQueue_grows ..))
    · refine .next (State.controlStep_grows _ _ _ _ _ _ _ ?_)
      intro s r iss
      exact .after (State.retire_grows ..) (State.updQueue_grows ..)

theorem execKend_advances (core queue : Nat) (s : State) : Advances s (execKend core queue s) := by
  unfold execKend
  refine .next (State.controlStep_grows _ _ _ _ _ _ _ ?_)
  intro s r iss
  exact .after (State.retire_grows ..) (State.updQueue_grows ..)

theorem State.updArrivals_grows (s : State) (p x c q : Nat) (f : List Arrival → List Arrival) :
    Grows s (s.updArrivals p x c q f) := by
  unfold State.updArrivals
  dsimp only
  split
  · split
    · exact State.updQueue_grows ..
    · split
      · exact State.updContext_grows ..
      · exact .refl _
  · split
    · exact State.updQueue_grows ..
    · split
      · exact State.updContext_grows ..
      · exact .refl _

theorem State.tablesOf_grows (s : State) (p n g c : Nat) : Grows s (s.tablesOf p n g c) := by
  unfold State.tablesOf
  dsimp only
  refine Grows.foldl (fun s x => ?_) _ _
  split
  · exact Grows.foldl (fun s x => State.updArrivals_grows ..) _ _
  · exact .refl _

theorem State.deliverRelease_grows (s : State) (p c : Nat) : Grows s (s.deliverRelease p c) := by
  unfold State.deliverRelease
  split
  · exact .refl _
  · exact .after (State.tablesOf_grows ..) (State.updPart_grows ..)

theorem State.releaseBelay_grows (s : State) (p n : Nat) : Grows s (s.releaseBelay p n) := by
  unfold State.releaseBelay
  exact State.updPart_grows ..

theorem State.deliverAll_grows (s : State) (p c : Nat) : Grows s (s.deliverAll p c) := by
  unfold State.deliverAll
  exact Grows.foldl (fun s x => State.deliverRelease_grows ..) _ _

theorem State.arriveAt_grows (s : State) (p c q n x : Nat) : Grows s (s.arriveAt p c q n x) := by
  unfold State.arriveAt
  dsimp only
  split
  · exact .after (State.kernelFault_grows ..) (.after (State.updArrivals_grows ..) (State.updPart_grows ..))
  · split
    · refine .after (State.releaseBelay_grows ..) (.after (State.updPart_grows ..) ?_)
      exact .after (State.updArrivals_grows ..) (.after (State.deliverAll_grows ..) (State.updPart_grows ..))
    · refine .after (State.updPart_grows ..) ?_
      exact .after (State.updArrivals_grows ..) (.after (State.deliverAll_grows ..) (State.updPart_grows ..))

theorem State.flushArrivals_grows (s : State) (p x : Nat) : Grows s (s.flushArrivals p x) := by
  unfold State.flushArrivals
  exact Grows.foldl (fun s x => State.arriveAt_grows ..) _ _

theorem State.sendArrivals_grows (s : State) (c q : Nat) : Grows s (s.sendArrivals c q) := by
  unfold State.sendArrivals
  split
  · exact .refl _
  · exact .after (State.updPart_grows ..) (State.updQueue_grows ..)

theorem State.belayStep_grows (s : State) (c q op : Nat) (check : QueueSt → Nat → Bool) (act : State → CoreRun → Issued → State)
    (ha : ∀ s r iss, Grows s (act s r iss)) : Grows s (s.belayStep c q op check act) := by
  unfold State.belayStep
  split
  · exact .refl _
  · exact State.begin_stopped ‹_›
  · next hb =>
    have hb := State.begin_go hb
    split
    · exact .after (State.cmdFault_grows ..) (.fst ‹_› (hb.trans (State.issue_grows ..)))
    · exact .after (ha ..) (.fst ‹_› (hb.trans (State.issue_grows ..)))
    · exact .after (State.setRun_grows ..) (.fst ‹_› (hb.trans (State.issue_grows ..)))

theorem execBelayArrive_advances (core queue : Nat) (s : State) : Advances s (execBelayArrive core queue s) := by
  unfold execBelayArrive
  split
  · exact .next (.refl _)
  · dsimp only
    refine .next (.after (State.sendArrivals_grows ..) (State.belayStep_grows _ _ _ _ _ _ ?_))
    intro s r iss
    exact .after (State.retire_grows ..) (State.updQueue_grows ..)

theorem State.waitStep_grows (s : State) (c q : Nat) (r : CoreRun) (iss : Issued) : Grows s (s.waitStep c q r iss) := by
  unfold State.waitStep
  dsimp only
  split
  · exact .after (State.retire_grows ..) (State.updQueue_grows ..)
  · split
    · exact State.cmdFault_grows ..
    · exact State.setRun_grows ..

theorem execBelayWait_advances (core queue : Nat) (s : State) : Advances s (execBelayWait core queue s) := by
  unfold execBelayWait
  split
  · exact .next (.refl _)
  · refine .next (State.belayStep_grows _ _ _ _ _ _ ?_)
    intro s r iss
    exact State.waitStep_grows ..

theorem execBelayArrival_advances (core queue belay : Nat) (s : State) : Advances s (execBelayArrival core queue belay s) := by
  unfold execBelayArrival
  dsimp only
  split
  · refine .next ?_
    split
    · exact State.arriveAt_grows ..
    · exact .refl _
  · exact .next (.refl _)

theorem State.wake_grows (s : State) (c : Nat) : Grows s (s.wake c) := by
  unfold State.wake
  refine Grows.foldl (fun s x => ?_) _ _
  split
  · split
    · exact State.waitStep_grows ..
    · exact .refl _
  · exact .refl _

theorem execBelayRelease_advances (part core : Nat) (s : State) : Advances s (execBelayRelease part core s) := by
  unfold execBelayRelease
  exact .next (.after (State.wake_grows ..) (State.deliverRelease_grows ..))

theorem State.writeBelay_grows (s : State) (p n v : Nat) : Grows s (s.writeBelay p n v) := by
  unfold State.writeBelay
  dsimp only
  split
  · exact .refl _
  · split
    · exact .after (State.releaseBelay_grows ..) (State.updPart_grows ..)
    · exact State.updPart_grows ..

theorem State.updTu_grows (s : State) (p : Nat) (cal : Bool) (f : TestUnit → TestUnit) : Grows s (s.updTu p cal f) := by
  unfold State.updTu
  exact State.updPart_grows ..

theorem State.holdUnit_grows (s : State) (k : UnitKind) (u : Nat) (on : Bool) : Grows s (s.holdUnit k u on) := by
  unfold State.holdUnit
  split
  · exact State.updCore_grows ..
  · exact State.updEngine_grows ..
  · exact State.updPort_grows ..
  · exact .refl _

theorem State.startPiece_grows (s : State) (p : Nat) (cal : Bool) : Grows s (s.startPiece p cal) := by
  unfold State.startPiece
  dsimp only
  split
  · split
    · exact State.updTu_grows ..
    · split
      · exact .after (State.holdUnit_grows ..) (State.updTu_grows ..)
      · exact .refl _
  · exact .refl _

theorem State.startPieces_grows (s : State) (p : Nat) : Grows s (s.startPieces p) := by
  unfold State.startPieces
  split
  · exact .after (State.startPiece_grows ..) (State.startPiece_grows ..)
  · exact .refl _

theorem State.startPiecesIdle_grows (s : State) (p : Nat) : Grows s (s.startPiecesIdle p) := by
  unfold State.startPiecesIdle
  split
  · exact .refl _
  · exact State.startPieces_grows ..

theorem State.clearEn_grows (s : State) (p : Nat) : Grows s (s.clearEn p) := by
  unfold State.clearEn
  split
  · exact State.updPart_grows ..
  · exact .after (State.startPieces_grows ..) (State.updPart_grows ..)

theorem forwardBody_grows (c : Nat) (s : State) (r : CoreRun) (iss : Issued) (n : Nat) :
    Grows s (forwardBody c s r iss n).1 := by
  unfold forwardBody
  dsimp only
  split
  · exact .refl _
  · split
    · split
      · dsimp only
        split
        · exact .refl _
        · exact State.updEngine_grows ..
      · dsimp only
        split
        · exact .refl _
        · exact State.updEngine_grows ..
    · dsimp only
      refine .after (State.updEngine_grows ..) (.after (State.setCore_grows ..) ?_)
      split
      · exact .refl _
      · exact State.updEngine_grows ..

theorem State.forward_grows (s : State) (c op : Nat) (uses : BitVec 512 → List StkUse) (nest : Bool) (fns : Nat)
    (check : State → Env → MemSys → Issued → Bool) (sized : optParam (Issued → List StkUse → List StkUse) fun _ u => u) : Grows s (s.forward c op uses nest fns check sized) := by
  unfold State.forward
  refine State.engineStep_grows _ _ _ _ _ _ _ ?_
  intro s r iss k
  exact forwardBody_grows ..

theorem State.updAct_grows (s : State) (k area : Nat) (f : ActiveCmd → ActiveCmd) : Grows s (s.updAct k area f) := by
  unfold State.updAct
  exact State.updEngine_grows ..

theorem execStkActivate_advances (stack : Nat) (s : State) : Advances s (execStkActivate stack s) := by
  unfold execStkActivate
  dsimp only
  split
  · split
    · exact .next (.refl _)
    · exact .next (State.setEngine_grows ..)
  · exact .next (.refl _)

theorem execSliceEnd_advances (stack : Nat) (s : State) : Advances s (execSliceEnd stack s) := by
  unfold execSliceEnd
  exact .next (State.updEngine_grows ..)

theorem State.translateOne_grows (k area slot : Nat) (s : State) (layer page : Nat) :
    Grows s (State.translateOne k area slot s layer page) := by
  unfold State.translateOne
  dsimp only
  split
  · exact .refl _
  · split
    · exact .refl _
    · split
      · exact State.setEngine_grows ..
      · split
        · exact State.setEngine_grows ..
        · split
          · exact State.setEngine_grows ..
          · exact .refl _

theorem State.translate_grows (s : State) (k area slot : Nat) (pages : List (Nat × Nat)) :
    Grows s (s.translate k area slot pages) := by
  unfold State.translate
  exact Grows.foldl (fun s x => State.translateOne_grows ..) _ _

theorem execPageWalk_advances (stack slot layer page : Nat) (s : State) :
    Advances s (execPageWalk stack slot layer page s) := by
  have read (e : Env) (w : Wk) (a n : Nat) : w.Keeps (w.readNat e a n).2 := ⟨Wk.readNat_wf e w a n⟩
  obtain ⟨f, hf⟩ : ∃ f, f = execPageWalk := ⟨_, rfl⟩
  obtain ⟨r, hr⟩ : ∃ r, r = Wk.readNat := ⟨_, rfl⟩
  rw [← hf]
  conv at hf => rhs; delta execPageWalk
  rw [← hr] at hf read
  subst hf
  dsimp only
  split
  · exact .next (.refl _)
  · have walked := fun a => s.stkTake_grows a _ (Wk.Keeps.after (Wk.counted_keeps _)
      (read (s.stkEnv a) { mem := s.mem } (s.pteAddrOf a.part slot layer page) 64)).wf
    split
    · exact .next (walked _)
    · exact .next (.after (State.updEngine_grows ..) (walked _))

theorem State.fetchOne_grows {s t : State} {k area : Nat} {g : GranPlace} {c : StkCmd} (h : s.fetchOne k area g c = some t) :
    Grows s t := by
  have read (e : Env) (v : Wk) (a n : Nat) : v.Keeps (v.read e a n).2 := ⟨Wk.read_wf e v a n⟩
  have image := imageBytes_keeps
  obtain ⟨f, hf⟩ : ∃ f, f = State.fetchOne := ⟨_, rfl⟩
  obtain ⟨r, hr⟩ : ∃ r, r = Wk.read := ⟨_, rfl⟩
  obtain ⟨i, hi⟩ : ∃ i, i = imageBytes := ⟨_, rfl⟩
  rw [← hf] at h
  conv at hf => rhs; delta State.fetchOne
  rw [← hr, ← hi] at hf
  rw [← hr] at read
  rw [← hi] at image
  subst hf
  revert h
  dsimp only
  have fetched : Wk.Keeps { mem := s.mem } (if g.inImage then i (s.stkEnv c) (plainOpn (c.iss.descs.getD 0 0)) g.place 4096 { mem := s.mem }
    else r (s.stkEnv c) { mem := s.mem } (k * 2 ^ 36 + 4096 * g.place) 4096).2 := .ite_snd (image ..) (read ..)
  generalize (if g.inImage then i (s.stkEnv c) (plainOpn (c.iss.descs.getD 0 0)) g.place 4096 { mem := s.mem }
    else r (s.stkEnv c) { mem := s.mem } (k * 2 ^ 36 + 4096 * g.place) 4096) = v at fetched ⊢
  split
  · exact fun h => nomatch h
  · intro h
    cases h
    exact .after (State.updEngine_grows ..) (.after (State.addCharge_grows ..) (.after (State.addMoved_grows ..)
      (State.takeWork_grows _ _ (Wk.Keeps.after (State.hostLines_keeps ..) fetched).wf)))

theorem State.fetchGranules_grows (n : Nat) (s : State) (n2 : Nat) : Grows s (State.fetchGranules n s n2) := by
  induction n generalizing s n2 with
  | zero =>
    unfold State.fetchGranules
    exact .refl _
  | succ n ih =>
    unfold State.fetchGranules
    dsimp only
    split
    · exact .refl _
    · split
      · exact .refl _
      · split
        · exact .refl _
        · exact .after (ih ..) (State.fetchOne_grows ‹_›)

theorem execGranuleDecode_advances (stack : Nat) (s : State) : Advances s (execGranuleDecode stack s) := by
  unfold execGranuleDecode
  split
  · exact .next (.refl _)
  · dsimp only
    refine .next (.after (State.fetchGranules_grows ..) (.after (State.updEngine_grows ..) ?_))
    split
    · exact State.addCharge_grows ..
    · exact .refl _

theorem State.leave_grows (s : State) (k : Nat) (a : ActiveCmd) : Grows s (s.leave k a) := by
  unfold State.leave
  dsimp only
  refine .after (State.updCore_grows ..) ?_
  exact .after (State.updContext_grows ..) (.after (State.updEngine_grows ..) (.putMem (.refl _) (id)))

theorem execStkComplete_advances (stack area : Nat) (s : State) : Advances s (execStkComplete stack area s) := by
  unfold execStkComplete
  split
  · exact .next (.refl _)
  · split
    · exact .next (.refl _)
    · exact .next (.after (State.leave_grows ..) (State.updEngine_grows ..))

theorem execStkFaultReport_advances (stack area : Nat) (s : State) : Advances s (execStkFaultReport stack area s) := by
  unfold execStkFaultReport
  split
  · exact .next (.refl _)
  · split
    · exact .next (.refl _)
    · exact .next (.after (State.updQueue_grows ..) (.after (State.leave_grows ..) (State.updEngine_grows ..)))

theorem State.countKv_grows (s : State) (p : Nat) (x : KvWork) : Grows s (s.countKv p x) := by
  unfold State.countKv
  dsimp only
  refine .after (Grows.foldl (fun s x => ?_) _ _) ?_
  · exact State.updEngine_grows ..
  · refine .after (Grows.foldl (fun s x => ?_) _ _) ?_
    · exact State.updEngine_grows ..
    · refine .after (Grows.foldl (fun s x => ?_) _ _) ?_
      · exact State.updEngine_grows ..
      · exact .after (Grows.foldl (fun s x => State.updEngine_grows ..) _ _) (State.updPart_grows ..)

theorem noPrep_grows (s : State) (n : ActiveCmd) : Grows s (noPrep s n) := by
  unfold noPrep
  exact .refl _

theorem State.stkUnits_grows {f : StkUnit} (hf : f.Keeps) (k area n : Nat) (s : State) :
    Grows s (State.stkUnits f k area n s) := by
  induction n generalizing s with
  | zero => exact .refl _
  | succ n ih =>
    unfold State.stkUnits
    split
    · exact .refl _
    · rename_i a _
      have hs := hf.state s (s.stkEnv a.cmd) k a a.cmd.iss.iter
      have hw (h : Memory.wf s.mem = true) := Wk.send_wf (s.stkEnv a.cmd) _ (hf.mem s (s.stkEnv a.cmd) k a a.cmd.iss.iter h)
      dsimp only
      split
      · exact .after (State.updAct_grows ..) (State.stkTake_grows _ _ _ hw)
      · split
        · exact State.stkTake_grows _ _ _ hw
        · exact .after (ih ..) (.after (State.updAct_grows ..) (hs.stkTake hw))

theorem State.stkRun_grows (s : State) (op k area : Nat) (prepare : State → ActiveCmd → State)
    (total : State → ActiveCmd → Option Nat)
    (f : StkUnit) (hp : ∀ s a, Grows s (prepare s a)) (hf : f.Keeps) : Grows s (s.stkRun op k area prepare total f) := by
  unfold State.stkRun
  split
  · exact .refl _
  · split
    · exact .refl _
    · dsimp only
      split
      · exact hp ..
      · split
        · exact .after (State.updEngine_grows ..) (hp ..)
        · split
          · exact hp ..
          · refine .after (State.updEngine_grows ..) (.after (State.stkUnits_grows hf ..) ?_)
            exact (hp ..).trans (Grows.ite (fun _ => State.updEngine_grows ..) (fun _ => .refl _))

theorem stkIter_grows (uses : List StkUse) (n : Nat) (f : Env → ActiveCmd → List VOp → Wk → ActiveCmd × Wk) (s : State)
    (e : Env) (a : ActiveCmd) :
    Grows s (stkIter uses n f s e a).1 := by
  unfold stkIter
  dsimp only
  split
  · exact .refl _
  · exact .refl _
  · exact .refl _

theorem stkIter_wf (uses : List StkUse) (n : Nat) (f : Env → ActiveCmd → List VOp → Wk → ActiveCmd × Wk)
    (hf : ∀ e a vs w, Wk.Keeps w (f e a vs w).2) (s : State) (e : Env) (a : ActiveCmd) (h : Memory.wf s.mem = true) :
    Memory.wf (stkIter uses n f s e a).2.2.mem = true := by
  unfold stkIter
  dsimp only
  split
  · exact h
  · exact (Wk.fail_keeps { mem := s.mem } _).wf h
  · exact ((hf ..).after (Wk.flag_keeps { mem := s.mem } _)).wf h

theorem seUnit_keeps : StkUnit.Keeps seUnit where
  state _ _ _ _ _ := stkIter_grows ..
  mem s e _ a _ := stkIter_wf _ _ _ (fun _ _ _ _ => .after (vPutRow_keeps ..) (.after (Wk.spend_keeps ..) (seRow_keeps ..))) s e a

theorem execSEwise_advances (site : StkSite) (s : State) : Advances s (execSEwise site s) := by
  unfold execSEwise
  split
  · exact .next (State.forward_grows ..)
  · refine .next ?_
    refine State.stkRun_grows _ _ _ _ _ _ _ ?_ ?_
    · intro s a
      exact noPrep_grows ..
    · exact seUnit_keeps

theorem mvUnit_keeps : StkUnit.Keeps mvUnit where
  state s e k a i := by
    unfold mvUnit
    exact .refl _
  mem s e k a i := by
    have held : Wk.Keeps { mem := s.mem } (if i = 0 then mvVectors e (plainOpn (a.cmd.iss.descs.getD 0 0))
        (List.range (dExt (plainOpn (a.cmd.iss.descs.getD 0 0)).d 1)) { mem := s.mem } else (a.held, { mem := s.mem })).2 :=
      .ite_snd (mvVectors_keeps ..) (.refl _)
    unfold mvUnit
    exact (Wk.Keeps.after (Wk.put_keeps ..) (.after (Wk.spend_keeps ..) (.after ⟨elemWrites_wf _ _ _ _ _⟩ (.after (mvColumns_keeps ..)
      (.after (.put (.refl _)) (.after (mvRun_keeps ..) (.after (.put (.refl _)) held))))))).wf

theorem execSMatvec_advances (site : StkSite) (s : State) : Advances s (execSMatvec site s) := by
  unfold execSMatvec
  split
  · exact .next (State.forward_grows ..)
  · refine .next ?_
    refine State.stkRun_grows _ _ _ _ _ _ _ ?_ ?_
    · intro s a
      exact noPrep_grows ..
    · exact mvUnit_keeps

theorem sfUnit_keeps : StkUnit.Keeps sfUnit where
  state s e k a i := by
    unfold sfUnit
    dsimp only
    split
    · exact .refl _
    · split
      · exact .refl _
      · split
        · exact .refl _
        · exact .refl _
  mem s e k a i h := by
    unfold sfUnit
    dsimp only
    split
    · exact (Wk.fail_keeps { mem := s.mem } _).wf h
    · split
      · exact h
      · split
        · exact h
        · exact Memory.wf_setStack _ h (Stack.wf_fillLines _ _ _ _ (Memory.wf_stack _ h))

theorem execSFill_advances (site : StkSite) (s : State) : Advances s (execSFill site s) := by
  unfold execSFill
  split
  · refine .next (State.engineStep_grows _ _ _ _ _ _ _ ?_)
    intro s r iss k
    exact forwardBody_grows ..
  · refine .next ?_
    refine State.stkRun_grows _ _ _ _ _ _ _ ?_ ?_
    · intro s a
      exact noPrep_grows ..
    · exact sfUnit_keeps

theorem drainBody_grows (core : Nat) (s : State) (n : CoreRun) (iss : Issued) (n4 : Nat) :
    Grows s (drainBody core s n iss n4).1 := by
  unfold drainBody
  dsimp only
  split
  · exact .refl _
  · split
    · exact Grows.foldl (fun s x => State.updEngine_grows ..) _ _
    · exact .refl _

theorem execSDrain_advances (core : Nat) (s : State) : Advances s (execSDrain core s) := by
  unfold execSDrain
  refine .next (State.engineStep_grows _ _ _ _ _ _ _ ?_)
  intro s r iss k
  exact drainBody_grows ..

theorem readPrep_grows (k area : Nat) (s : State) (a : ActiveCmd) : Grows s (readPrep k area s a) := by
  unfold readPrep
  exact .after (State.fetchGranules_grows ..) (State.translate_grows ..)

theorem saUnit_keeps : StkUnit.Keeps saUnit where
  state s e k a i := by
    unfold saUnit
    exact .refl _
  mem s e k a i := by
    have start := attStart_keeps
    have read := attRead_keeps
    obtain ⟨r, hr⟩ : ∃ r, r = attRead := ⟨_, rfl⟩
    unfold saUnit
    rw [← hr] at read ⊢
    dsimp only
    refine Wk.Keeps.wf (v := { mem := s.mem }) ?_
    refine .ite_of id (.after (attWrite_keeps ..) (.after (Wk.spend_keeps ..) (.after (maskedPairs_keeps ..) ?_)))
      (.after (Wk.spend_keeps ..) (.after (maskedPairs_keeps ..) ?_)) <;> split
    · exact .after (read ..) (.ite_snd (start ..) (.refl _))
    · exact .ite_snd (start ..) (.refl _)
    · exact .after (read ..) (.ite_snd (start ..) (.refl _))
    · exact .ite_snd (start ..) (.refl _)

theorem execSAttend_advances (site : StkSite) (s : State) : Advances s (execSAttend site s) := by
  unfold execSAttend
  split
  · exact .next (State.forward_grows ..)
  · refine .next ?_
    refine State.stkRun_grows _ _ _ _ _ _ _ ?_ ?_
    · intro s a
      exact readPrep_grows ..
    · exact saUnit_keeps

theorem State.holdHost_grows (s : State) (a : HostAccess) : Grows s (s.holdHost a) := by
  unfold State.holdHost
  exact .put (.refl _)

theorem State.finishKernel_grows (s : State) (p x cycles : Nat) : Grows s (s.finishKernel p x cycles) := by
  unfold State.finishKernel
  dsimp only
  split
  · exact .after (State.startPiecesIdle_grows ..) (.after (State.endKernel_grows ..) (State.flushArrivals_grows ..))
  · exact State.flushArrivals_grows ..

theorem State.cancelContext_grows (s : State) (p x status startStatus : Nat) :
    Grows s (s.cancelContext p x status startStatus) := by
  unfold State.cancelContext
  dsimp only
  split
  · split
    · exact .after (State.endStart_grows ..) (State.updContext_grows ..)
    · exact .refl _
  · split
    · split
      · refine .after (State.finishKernel_grows ..) ?_
        exact .after (State.kernelFault_grows ..) (.after (State.endStart_grows ..) (State.updContext_grows ..))
      · exact .after (State.kernelFault_grows ..) (.after (State.endStart_grows ..) (State.updContext_grows ..))
    · split
      · exact .after (State.finishKernel_grows ..) (.after (State.kernelFault_grows ..) (.refl _))
      · exact .after (State.kernelFault_grows ..) (.refl _)

theorem State.ropeRoundEnd_grows (s : State) (p : Nat) : Grows s (s.ropeRoundEnd p) := by
  unfold State.ropeRoundEnd
  split
  · exact .after (State.ropeSend_grows ..) (State.updPart_grows ..)
  · exact .refl _

theorem State.lateFault_grows (s : State) (p x : Nat) (f : Option FaultInfo) :
    Grows s (match f with | some f => s.kernelFault p x f | none => s) := by
  cases f with
  | none => exact .refl _
  | some f => exact State.kernelFault_grows ..

theorem execKernelEnd_advances (part ctx cycles periods : Nat) (s : State) :
    Advances s (execKernelEnd part ctx cycles periods s) := by
  unfold execKernelEnd
  split
  · exact .next (.refl _)
  · extract_lets st s'
    have late : Grows s s' := State.lateFault_grows ..
    clear_value s'
    split
    · split
      · exact .next late
      · split
        · split
          · exact .next (.after (State.ropeRoundEnd_grows ..) (.after (State.updPart_grows ..) (.after (State.finishKernel_grows ..) late)))
          · exact .next (.after (State.finishKernel_grows ..) late)
        · exact .next late
    · exact .next (.refl _)

theorem State.takeForRestore_grows (s : State) (p x c : Nat) : Grows s (s.takeForRestore p x c) := by
  unfold State.takeForRestore
  extract_lets lo other m
  refine .after (State.updCore_grows ..) (.putMem (.refl _) fun h => ?_)
  unfold m
  split
  · exact Memory.wf_scratchWrite _ _ _ h
  · exact h

theorem State.startRestore_grows (s : State) (p x : Nat) (k : Kernel) : Grows s (s.startRestore p x k) := by
  unfold State.startRestore
  exact .after (State.updContext_grows ..) (Grows.foldl (fun s x => State.takeForRestore_grows ..) _ _)

theorem execKernelDispatch_advances (part : Nat) (s : State) : Advances s (execKernelDispatch part s) := by
  unfold execKernelDispatch
  split
  · exact .next (.refl _)
  · split
    · exact .next (.refl _)
    · split
      · exact .next (State.startRestore_grows ..)
      · dsimp only
        refine .next ?_
        split
        · exact .after (State.startKernel_grows ..) (.after (State.updContext_grows ..) (State.updPart_grows ..))
        · exact .after (State.endStart_grows ..) (.after (State.updContext_grows ..) (State.updPart_grows ..))
      · exact .next (.refl _)

theorem saveLine_wf (e : Env) {m : MemSys} (a : Nat) (l : List (Option Byte)) (h : Memory.wf m = true) :
    Memory.wf (saveLine e m a l) = true :=
  Wk.writeLine_wf e { mem := m } a l h

theorem Stack.wf_foldl {α : Type} {f : Stack → α → Stack} (h : ∀ st a, Stack.wf st = true → (f st a).wf = true) (l : List α) :
    ∀ st, Stack.wf st = true → (l.foldl f st).wf = true := by
  induction l with
  | nil => exact fun _ hs => hs
  | cons a l ih => exact fun st hs => ih _ (h st a hs)

theorem execSaveComplete_advances (part ctx cycles : Nat) (s : State) : Advances s (execSaveComplete part ctx cycles s) := by
  unfold execSaveComplete
  dsimp only
  split
  · split
    · exact .next (.refl _)
    · split
      · exact .next (State.sendSnoops_grows ..)
      · split
        · exact .next (.refl _)
        · refine .next (.after (State.startPiecesIdle_grows ..) ?_)
          refine .after (State.updContext_grows ..) (.after (State.updPart_grows ..) ?_)
          refine .after (Grows.foldl (fun s x => State.updCore_grows ..) _ _) ?_
          exact .after (State.keepCounts_grows ..) (State.withMem_grows _ _ _ (fun h =>
            Memory.wf_fresh _ (Memory.wf_foldl (fun _ l hm => saveLine_wf _ l.1 l.2 hm) _ _ h)))
  · exact .next (.refl _)

theorem State.restoreCore_grows (s : State) (p x c kid : Nat) (i : Image) : Grows s (s.restoreCore p x c kid i) := by
  unfold State.restoreCore
  exact .after (State.setCore_grows ..) (.putMem (.refl _) (Memory.wf_scratchWrite _ _ _))

theorem State.readHeader_keeps (s : State) (p x c : Nat) : Wk.Keeps { mem := s.mem } (s.readHeader p x c).2 :=
  ⟨Wk.read_wf (s.partEnv p) { mem := s.mem } ((s.context p x).imageAt c) 64⟩

theorem imagesRead_keeps (s : State) (p x : Nat) (k : Kernel) : Wk.Keeps { mem := s.mem } (imagesRead s p x k).2 := by
  have read := readImage_keeps
  obtain ⟨r, hr⟩ : ∃ r, r = readImage := ⟨_, rfl⟩
  unfold imagesRead
  rw [← hr] at read ⊢
  exact .foldlOf (β := List (Nat × Image) × Wk) Prod.snd (fun a c => read ..) _ ([], { mem := s.mem })

theorem execRestoreComplete_advances (part ctx cycles : Nat) (s : State) :
    Advances s (execRestoreComplete part ctx cycles s) := by
  unfold execRestoreComplete
  dsimp only
  split
  · exact .next (.refl _)
  · next k _ =>
    split
    · exact .next (.refl _)
    · split
      · exact .next (State.takeWork_grows _ _ (State.readHeader_keeps ..).wf)
      · have read := State.takeWork_grows s _ (imagesRead_keeps s part ctx k).wf
        split
        · exact .next read
        · split
          · exact .next (.after (State.finishKernel_grows ..) (.after (State.kernelFault_grows ..) read))
          · refine .next ?_
            split
            · exact .after (State.stopQueues_grows ..) (.after (State.updContext_grows ..)
                (.after (Grows.foldl (fun s x => State.restoreCore_grows ..) _ _) read))
            · exact .after (State.updContext_grows ..) (.after (Grows.foldl (fun s x => State.restoreCore_grows ..) _ _) read)

theorem State.kgo_grows (s : State) (fn ctx : Nat) (kd : BitVec 512) : Grows s (s.kgo fn ctx kd) := by
  unfold State.kgo
  dsimp only
  split
  · exact .refl _
  · split
    · exact State.updContext_grows ..
    · split
      · exact State.updContext_grows ..
      · split
        · exact .after (State.preemptAll_grows ..) (.after (State.updContext_grows ..) (State.updContext_grows ..))
        · exact .after (State.endStart_grows ..) (State.updContext_grows ..)

theorem execKgo_advances (fn ctx : Nat) (s : State) : Advances s (execKgo fn ctx s) := by
  unfold execKgo
  dsimp only
  refine .next ?_
  split
  · exact State.holdHost_grows ..
  · exact State.kgo_grows ..

theorem State.csgo_grows (s : State) (fn ctx : Nat) (value : Quad) (src : Nat) : Grows s (s.csgo fn ctx value src) := by
  unfold State.csgo
  dsimp only
  split
  · exact .refl _
  · split
    · exact State.updContext_grows ..
    · exact .after (State.updContext_grows ..) (Grows.foldl (fun s x => State.updCore_grows ..) _ _)

theorem execCsgo_advances (fn ctx : Nat) (value : Quad) (s : State) : Advances s (execCsgo fn ctx value s) := by
  unfold execCsgo
  dsimp only
  refine .next ?_
  split
  · exact State.holdHost_grows ..
  · exact State.csgo_grows ..

theorem State.loadBank_grows (s : State) (c b off : Nat) (bs : List (Option Byte)) : Grows s (s.loadBank c b off bs) := by
  unfold State.loadBank
  split
  · exact State.updCore_grows ..
  · exact .putMem (.refl _) (Memory.wf_bankWrite _ _ _ _)

theorem execPreempt_advances (fn ctx : Nat) (s : State) : Advances s (execPreempt fn ctx s) := by
  unfold execPreempt
  split
  · exact .next (State.triggerSave_grows ..)
  · exact .next (.refl _)

theorem execResume_advances (fn ctx : Nat) (s : State) : Advances s (execResume fn ctx s) := by
  unfold execResume
  split
  · exact .next (State.updContext_grows ..)
  · exact .next (.refl _)

theorem State.writeCtxctl_grows (s : State) (fn p x v : Nat) : Grows s (s.writeCtxctl fn p x v) := by
  unfold State.writeCtxctl
  dsimp only
  refine .after (State.preemptAll_grows ..) ?_
  split
  · refine .after (State.updContext_grows ..) ?_
    split
    · refine .after (State.triggerSave_grows ..) ?_
      split
      · split
        · exact .after (State.updContext_grows ..) (State.updContext_grows ..)
        · exact State.updContext_grows ..
      · exact .after (State.cancelContext_grows ..) (.after (State.updContext_grows ..) (State.updContext_grows ..))
    · split
      · split
        · exact .after (State.updContext_grows ..) (State.updContext_grows ..)
        · exact State.updContext_grows ..
      · exact .after (State.cancelContext_grows ..) (.after (State.updContext_grows ..) (State.updContext_grows ..))
  · split
    · refine .after (State.triggerSave_grows ..) ?_
      split
      · split
        · exact .after (State.updContext_grows ..) (State.updContext_grows ..)
        · exact State.updContext_grows ..
      · exact .after (State.cancelContext_grows ..) (.after (State.updContext_grows ..) (State.updContext_grows ..))
    · split
      · split
        · exact .after (State.updContext_grows ..) (State.updContext_grows ..)
        · exact State.updContext_grows ..
      · exact .after (State.cancelContext_grows ..) (.after (State.updContext_grows ..) (State.updContext_grows ..))

theorem execContextEn_advances (fn ctx : Nat) (value : Quad) (s : State) : Advances s (execContextEn fn ctx value s) := by
  unfold execContextEn
  split
  · exact .next (State.writeCtxctl_grows ..)
  · exact .next (.refl _)

theorem execBelayWrite_advances (fn belay : Nat) (value : Quad) (s : State) : Advances s (execBelayWrite fn belay value s) := by
  unfold execBelayWrite
  split
  · exact .next (State.writeBelay_grows ..)
  · exact .next (.refl _)

theorem execForce_advances (fn belay : Nat) (value : Quad) (s : State) : Advances s (execForce fn belay value s) := by
  unfold execForce
  split
  · exact .next (State.writeBelay_grows ..)
  · exact .next (.refl _)

theorem execCslogClear_advances (fn core : Nat) (s : State) : Advances s (execCslogClear fn core s) := by
  unfold execCslogClear
  split
  · exact .next (State.updCore_grows ..)
  · exact .next (.refl _)

theorem writeCoded_grows (s : State) (e : Env) (k : Nat) (a : ActiveCmd) (y n pte lossy : Nat) (slot : Option (Nat × CodecSlot))
    (cuts : List Cut) (gs : List Nat) (x : KvWork) : Grows s (writeCoded s e k a y n pte lossy slot cuts gs x).1 := by
  unfold writeCoded
  dsimp only
  exact .after (State.updPart_grows ..) (State.updEngine_grows ..)

theorem encodePage_grows (s : State) (e : Env) (k : Nat) (a : ActiveCmd) (y n pte lossy : Nat) (slot : Option (Nat × CodecSlot))
    (x : KvWork) : Grows s (encodePage s e k a y n pte lossy slot x).1 := by
  unfold encodePage
  extract_lets t g
  split
  extract_lets us x' codes units cuts
  split
  · dsimp only
    exact State.updEngine_grows ..
  · split
    · dsimp only
      exact State.updEngine_grows ..
    · exact writeCoded_grows ..

theorem buildPass_grows (s : State) (e : Env) (k : Nat) (a : ActiveCmd) (w : Wk) : Grows s (buildPass s e k a w).1 := by
  unfold buildPass
  extract_lets b g
  split
  split
  · exact .refl _
  · split
    split
    · exact State.setEngine_grows ..
    · dsimp only
      exact State.updEngine_grows ..

theorem exportPages_grows (s : State) (e : Env) (k : Nat) (a : ActiveCmd) (w : Wk) : Grows s (exportPages s e k a w).1 := by
  unfold exportPages
  dsimp only
  split
  · exact .refl _
  · split
    · exact .refl _
    · exact .refl _

theorem kePrep_grows (k area : Nat) (s : State) (a : ActiveCmd) : Grows s (kePrep k area s a) := by
  unfold kePrep
  split
  · exact .refl _
  · exact State.translate_grows ..

theorem keUnit_keeps : StkUnit.Keeps keUnit where
  state s e k a i := by
    unfold keUnit
    extract_lets b w
    split
    · split
      · exact buildPass_grows ..
      · split
        · exact exportPages_grows ..
        · split
          · dsimp only
            exact State.updEngine_grows ..
          · exact .refl _
    · split
      split
      split
      · exact .refl _
      · split
        · dsimp only
          exact State.updEngine_grows ..
        · split
          exact .after (State.countKv_grows ..) (.fst ‹_› (encodePage_grows ..))
        · split
          exact .after (State.countKv_grows ..) (.fst ‹_› (encodePage_grows ..))
  mem s e k a i := by
    refine Wk.Keeps.wf (v := { mem := s.mem }) ?_
    unfold keUnit
    extract_lets b w
    split
    · split
      · exact buildPass_keeps ..
      · split
        · exact exportPages_keeps ..
        · split
          · exact .refl _
          · exact .refl _
    · split
      split
      next hv =>
      have read := Wk.Keeps.sndKv hv (eligible_keeps ..)
      split
      · exact read
      · split
        · exact read
        · split
          exact .after (.sndKv ‹_› (encodePage_keeps ..)) read
        · split
          exact .after (.sndKv ‹_› (encodePage_keeps ..)) read

theorem execSKvenc_advances (site : StkSite) (s : State) : Advances s (execSKvenc site s) := by
  unfold execSKvenc
  split
  · exact .next (State.forward_grows ..)
  · refine .next ?_
    refine State.stkRun_grows _ _ _ _ _ _ _ ?_ ?_
    · intro s a
      exact kePrep_grows ..
    · exact keUnit_keeps

theorem kxUnit_keeps : StkUnit.Keeps kxUnit where
  state s e k a i := by
    have read (e : Env) (w : Wk) (a n : Nat) : w.Keeps (w.read e a n).2 := ⟨Wk.read_wf e w a n⟩
    obtain ⟨f, hf⟩ : ∃ f, f = kxUnit := ⟨_, rfl⟩
    obtain ⟨r, hr⟩ : ∃ r, r = Wk.read := ⟨_, rfl⟩
    rw [← hf]
    conv at hf => rhs; delta kxUnit
    rw [← hr] at hf read
    subst hf
    dsimp only
    split
    · exact .refl _
    · exact .refl _
    · exact .refl _
    · exact .refl _
  mem s e k a i := by
    have read (e : Env) (w : Wk) (a n : Nat) : w.Keeps (w.read e a n).2 := ⟨Wk.read_wf e w a n⟩
    obtain ⟨f, hf⟩ : ∃ f, f = kxUnit := ⟨_, rfl⟩
    obtain ⟨r, hr⟩ : ∃ r, r = Wk.read := ⟨_, rfl⟩
    rw [← hf]
    conv at hf => rhs; delta kxUnit
    rw [← hr] at hf read
    subst hf
    refine Wk.Keeps.wf (v := { mem := s.mem }) ?_
    dsimp only
    split
    · exact .refl _
    · exact Wk.fail_keeps ..
    · exact .after (rawOut_keeps ..) (read ..)
    · exact granuleOut_keeps ..

theorem kiUnit_keeps : StkUnit.Keeps kiUnit where
  state s e k a i := by
    unfold kiUnit
    exact .refl _
  mem s e k a i := by
    refine Wk.Keeps.wf (v := { mem := s.mem }) ?_
    unfold kiUnit
    dsimp only
    split
    · exact importTables_keeps ..
    · split
      · exact .refl _
      · split
        · exact importPage_keeps ..
        · split
          · split
            · exact granuleOut_keeps ..
            · exact .refl _
          · exact .refl _

theorem kvexpUnit_keeps : StkUnit.Keeps (fun s e k a n => if stkFn a.cmd.iss.block = 1 then kiUnit s e k a n else kxUnit s e k a n) where
  state s e k a i := by
    split
    · exact kiUnit_keeps.state s e k a i
    · exact kxUnit_keeps.state s e k a i
  mem s e k a i := by
    split
    · exact kiUnit_keeps.mem s e k a i
    · exact kxUnit_keeps.mem s e k a i

theorem execSKvexp_advances (site : StkSite) (s : State) : Advances s (execSKvexp site s) := by
  unfold execSKvexp
  split
  · exact .next (State.forward_grows ..)
  · exact .next (State.stkRun_grows _ _ _ _ _ _ _ (fun s a => readPrep_grows ..) kvexpUnit_keeps)

theorem State.setSlot_grows (s : State) (p k : Nat) (q : Slot) : Grows s (s.setSlot p k q) := by
  unfold State.setSlot
  exact State.updPart_grows ..

theorem State.updSlot_grows (s : State) (p k : Nat) (f : Slot → Slot) : Grows s (s.updSlot p k f) := by
  unfold State.updSlot
  exact State.setSlot_grows ..

theorem Bd.on_grows (b : Bd) (f : State → State) (h : ∀ s, Grows s (f s)) : Grows b.s (b.on f).s := h b.s

theorem State.takeKv_grows (s : State) (p : Nat) (x : KvWork) (h : Memory.wf s.mem = true → Memory.wf x.w.mem = true) :
    Grows s (s.takeKv p x) :=
  .after (State.countKv_grows ..) (State.takeWork_grows s _ h)

theorem State.kvDo_grows (s : State) (p : Nat) (x : KvWork) (h : Memory.wf s.mem = true → Memory.wf x.w.mem = true) :
    Grows s (s.kvDo p x).1 := by
  have sent : Memory.wf s.mem = true → Memory.wf (x.w.send (s.dieEnv p)).mem = true := fun hm => Wk.send_wf _ _ (h hm)
  unfold State.kvDo
  dsimp only
  split
  · exact State.takeWork_grows s _ sent
  · exact State.takeKv_grows s p _ sent

theorem Bd.kv_grows {α : Type} (b : Bd) (p : Nat) (f : Env → KvWork → α × KvWork) (h : ∀ e x y, f e x = y → x.w.Keeps y.2.w) :
    Grows b.s (b.kv p f).2.s := by
  unfold Bd.kv
  split
  have hx := h _ _ _ ‹_›
  exact State.kvDo_grows _ _ _ hx.wf

theorem Bd.kvOn_grows (b : Bd) (p : Nat) (f : Env → KvWork → KvWork) (h : ∀ e x y, f e x = y → x.w.Keeps y.w) :
    Grows b.s (b.kvOn p f).s :=
  Bd.kv_grows b p _ (fun e x _ hy => hy ▸ h e x (f e x) rfl)

theorem Bd.close_grows (b : Bd) (p k : Nat) : Grows b.s (b.close p k).s := by
  unfold Bd.close
  refine .after (Bd.on_grows _ _ (fun s => State.updPart_grows ..)) (Bd.kvOn_grows _ _ _ (fun e x y h => ?_))
  subst h
  exact .after (giveUnits_keeps ..) (dropPages_keeps ..)

theorem State.labForget_grows (s : State) (p k a b : Nat) : Grows s (s.labForget p k a b) := by
  unfold State.labForget
  exact Grows.foldl (fun s x => State.updEngine_grows ..) _ _

theorem Bd.prepare_grows (b : Bd) (p k c a : Nat) : Grows b.s (b.prepare p k c a).2.s := by
  unfold Bd.prepare
  exact Bd.kv_grows _ _ _ (fun _ _ _ h => h ▸ prepare_keeps ..)

theorem Bd.rollPages_grows (b : Bd) (p k c last : Nat) : Grows b.s (b.rollPages p k c last).s := by
  unfold Bd.rollPages
  exact Bd.kvOn_grows _ _ _ (fun _ _ _ h => h ▸ dropPages_keeps ..)

theorem State.seqHost_grows (s : State) (p ident tx rx : Nat) : Grows s (s.seqHost p ident tx rx) := by
  unfold State.seqHost
  exact State.updPart_grows ..

theorem Bd.park_grows (b : Bd) (p k : Nat) : Grows b.s (b.park p k).2.s := by
  unfold Bd.park
  extract_lets s
  split
  next d data b' hb =>
  have planned : Grows b.s b'.s := by
    refine .sndBd hb (Bd.kv_grows _ _ _ (fun e x y h => ?_))
    subst h
    split
    next hp =>
    have plan := Wk.Keeps.sndKv hp (parkPlan_keeps ..)
    split
    · exact .after (KvWork.rollback_keeps ..) plan
    · split
      · next hd =>
        have read := Wk.Keeps.after (.sndKv hd (parkData_keeps ..)) plan
        split
        · exact .after (KvWork.rollback_keeps ..) read
        · exact .after (.foldlOf KvWork.w (fun x a => KvWork.setEntry_keeps ..) _ _) read
      · next hd => exact .after (KvWork.rollback_keeps ..) (.after (.sndKv hd (parkData_keeps ..)) plan)
  split
  · exact .after (Bd.on_grows _ _ (fun s => State.updSlot_grows ..)) planned
  · split
    · exact planned
    · exact .after (Bd.on_grows _ _ (fun s => .after (State.updSlot_grows ..) (.after (State.seqHost_grows ..)
        (Grows.foldl (fun s x => State.emit_grows ..) _ _)))) planned

theorem Bd.bringBack_grows (b : Bd) (p k a : Nat) : Grows b.s (b.bringBack p k a).2.s := by
  unfold Bd.bringBack
  extract_lets s q
  split
  next us b' hb =>
  have back : Grows b.s b'.s := by
    refine .sndBd hb (Bd.kv_grows _ _ _ (fun e x y h => ?_))
    subst h
    split
    next hp =>
    have parked := Wk.Keeps.sndKv hp (parkedEntries_keeps ..)
    split
    · next hr => exact .after (KvWork.rollback_keeps ..) (.after (.sndKv hr (returnUnits_keeps ..)) parked)
    · next hr =>
      have taken := Wk.Keeps.after (.sndKv hr (returnUnits_keeps ..)) parked
      split
      · exact taken
      · exact .after (KvWork.rollback_keeps ..) taken
  split
  · exact back
  · exact .after (Bd.on_grows _ _ (fun s => .after (State.updSlot_grows ..) (.after (State.updPart_grows ..) (.after (State.seqHost_grows ..)
      (Grows.foldl (fun s x => State.emit_grows ..) _ _))))) back

theorem Bd.evict_grows (b : Bd) (p : Nat) : Grows b.s (b.evict p).s := by
  unfold Bd.evict
  dsimp only
  split
  · exact .refl _
  · split
    · exact .refl _
    · exact .after (Bd.on_grows _ _ (fun s => State.updPart_grows ..)) (Bd.kvOn_grows _ _ _ (fun _ _ _ h => h ▸ dirRelease_keeps ..))

theorem Bd.publishPages_grows (b : Bd) (p place : Nat) (ptes : List Nat) :
    Grows b.s (b.kv p (fun e x => match x.shareAll e (b.s.part p) ptes with
      | (none, y) => (true, dirWrite b.s p place e y)
      | (some _, y) => (false, x.rollback y))).2.s := by
  refine Bd.kv_grows _ _ _ (fun e x y h => ?_)
  subst h
  split
  · exact .after (dirWrite_keeps ..) (.sndKv ‹_› (KvWork.shareAll_keeps ..))
  · exact .after (KvWork.rollback_keeps ..) (.sndKv ‹_› (KvWork.shareAll_keeps ..))

theorem Bd.publishChunk_grows (b : Bd) (p k n h : Nat) (tokens : List Nat) : Grows b.s (b.publishChunk p k n h tokens).s := by
  unfold Bd.publishChunk
  split
  · exact .refl _
  · split
    next v c hv =>
    have read := Grows.sndBd hv (Bd.kv_grows b p (publishable b.s p k n) (fun _ _ _ h => h ▸ publishable_keeps ..))
    split
    · exact read
    · have kept := fun ptes => Grows.after (Bd.publishPages_grows _ p (freePlace ((c.evict p).s.part p).dir) ptes)
        (.after (c.evict_grows p) read)
      dsimp only
      split
      · exact .after (Bd.on_grows _ _ (fun s => State.updPart_grows ..)) (kept _)
      · exact kept _

theorem Bd.publishSlot_grows (b : Bd) (p k : Nat) : Grows b.s (b.publishSlot p k).s := by
  unfold Bd.publishSlot
  dsimp only
  split
  · exact .refl _
  · refine .after (Grows.foldlOf Bd.s (fun s x => ?_) _ _) ?_
    · exact Bd.publishChunk_grows ..
    · exact .refl _

theorem State.owe_grows (s : State) (p fn : Nat) (bits : BitVec 1024) : Grows s (s.owe p fn bits) := by
  unfold State.owe
  exact State.updPart_grows ..

theorem State.writeRecord_grows (s : State) (p : Nat) (r : Record) : Grows s (s.writeRecord p r) := by
  unfold State.writeRecord
  exact .after (State.updPart_grows ..) (.after (State.updFunc_grows ..) (State.hostPut_grows ..))

theorem State.stallOn_grows (s : State) (p fn : Nat) : Grows s (s.stallOn p fn) := by
  unfold State.stallOn
  dsimp only
  refine .after (State.updPart_grows ..) ?_
  split
  · split
    · exact .refl _
    · exact .after (State.updPart_grows ..) (State.updFunc_grows ..)
  · refine .after (State.irq_grows ..) ?_
    split
    · exact .refl _
    · exact .after (State.updPart_grows ..) (State.updFunc_grows ..)

theorem State.flushOwed_grows (p n : Nat) (s : State) : Grows s (State.flushOwed p n s) := by
  induction n generalizing p s with
  | zero =>
    unfold State.flushOwed
    exact .refl _
  | succ n ih =>
    unfold State.flushOwed
    split
    · exact .refl _
    · split
      · exact .after (ih ..) (State.updPart_grows ..)
      · split
        · exact .after (ih ..) (.after (State.updPart_grows ..) (State.writeRecord_grows ..))
        · exact State.stallOn_grows ..

theorem Bd.endSeq_grows (b : Bd) (p k status first logprob : Nat) (tokens : List Nat) :
    Grows b.s (b.endSeq p k status first logprob tokens).s := by
  unfold Bd.endSeq
  dsimp only
  refine .after (Bd.close_grows ..) (Bd.on_grows _ _ ?_)
  intro s
  exact State.owe_grows ..

theorem Bd.endBare_grows (b : Bd) (p k status : Nat) : Grows b.s (b.endBare p k status).s := by
  unfold Bd.endBare
  exact Bd.endSeq_grows ..

theorem Bd.refuse_grows (b : Bd) (p fn r status : Nat) : Grows b.s (b.refuse p fn r status).s := by
  unfold Bd.refuse
  refine Bd.on_grows _ _ ?_
  intro s
  exact .after (State.updFunc_grows ..) (State.owe_grows ..)

theorem Bd.read_grows (b : Bd) (p a n : Nat) : Grows b.s (b.read p a n).2.s :=
  State.takeWork_grows _ _ (Wk.read_wf (b.s.partEnv p) { mem := b.s.mem } a n)

theorem lookup_grows (p prompt ppp vp maxPages want n hits h : Nat) (b : Bd) :
    Grows b.s (lookup p prompt ppp vp maxPages want n hits h b).2.s := by
  induction n generalizing hits h b with
  | zero => exact .refl _
  | succ n ih =>
    unfold lookup
    split
    · exact .refl _
    · split
      next r b' hr =>
      have hb : Grows b.s b'.s := .sndBd hr (Bd.read_grows ..)
      split
      · exact hb
      · dsimp only
        split
        · exact hb
        · next d _ =>
          have found := Grows.after (Bd.kv_grows b' p (dirRead b'.s p d.place) (fun _ _ _ h => h ▸ dirRead_keeps ..)) hb
          split
          · exact found
          · split
            · exact .after (Bd.on_grows _ _ (fun s => State.updPart_grows ..)) found
            · split
              · exact .after (ih ..) (.after (Bd.on_grows _ _ (fun s => State.updPart_grows ..)) found)
              · exact .after (ih ..) (.after (Bd.on_grows _ _ (fun s => State.updPart_grows ..)) found)

theorem Bd.absent_grows (b : Bd) (p k : Nat) : Grows b.s (b.absent p k).s := by
  unfold Bd.absent
  exact Bd.kvOn_grows _ _ _ (fun _ _ _ h => h ▸ writeEntries_keeps ..)

theorem Bd.openSeq_grows (b : Bd) (p fn r : Nat) : Grows b.s (b.openSeq p fn r).s := by
  unfold Bd.openSeq
  split
  · exact Bd.refuse_grows ..
  · extract_lets s k g ppp varen variant vp plen prompt want
    split
    next found b' hb =>
    have found : Grows b.s b'.s := by
      split at hb
      · exact .sndBd hb (lookup_grows ..)
      · exact .sndBd hb (.refl _)
    split
    · exact .after (Bd.refuse_grows ..) (.after (Bd.absent_grows ..) found)
    · split
      next o b'' ho =>
      have opened : Grows b.s b''.s := .after (.sndBd ho (Bd.kv_grows _ _ _ (fun _ _ _ h => h ▸ openTables_keeps ..))) found
      split
      · exact .after (Bd.refuse_grows ..) opened
      · exact .after (Bd.refuse_grows ..) opened
      · exact .after (Bd.on_grows _ _ (fun s => .after (State.setSlot_grows ..) (State.updPart_grows ..))) opened

theorem Bd.parkRequest_grows (b : Bd) (p fn r : Nat) : Grows b.s (b.parkRequest p fn r).s := by
  unfold Bd.parkRequest
  split
  · refine Bd.on_grows _ _ ?_
    intro s
    exact State.updSlot_grows ..
  · exact Bd.refuse_grows ..

theorem Bd.request_grows (b : Bd) (p : Nat) (q : Request) : Grows b.s (b.request p q).s := by
  unfold Bd.request
  dsimp only
  split
  · exact Bd.openSeq_grows ..
  · split
    · exact Bd.parkRequest_grows ..
    · exact Bd.refuse_grows ..

theorem State.chargeEntry_grows (s : State) (p : Nat) (e : BatchEntry) (delivered committed : Nat) :
    Grows s (s.chargeEntry p e delivered committed) := by
  unfold State.chargeEntry
  exact State.updPart_grows ..

theorem Bd.commitNone_grows (b : Bd) (p : Nat) (e : BatchEntry) : Grows b.s (b.commitNone p e).s := by
  unfold Bd.commitNone
  dsimp only
  exact .after (Bd.on_grows _ _ (fun s => .after (State.chargeEntry_grows ..) (State.updSlot_grows ..))) (Bd.rollPages_grows ..)

theorem Bd.outputs_grows (b : Bd) (p i : Nat) (e : BatchEntry) : Grows b.s (b.outputs p i e).2.s := by
  have read := Bd.read_grows
  obtain ⟨r, hr⟩ : ∃ r, r = Bd.read := ⟨_, rfl⟩
  unfold Bd.outputs
  rw [← hr] at read ⊢
  extract_lets t a
  split
  next o b1 h1 =>
  split
  next v b2 h2 =>
  have both : Grows b.s b2.s := .after (.sndBd h2 (read ..)) (.sndBd h1 (read ..))
  split
  · exact both
  · exact both
  · exact both

theorem Bd.commitRun_grows (b : Bd) (p i : Nat) (e : BatchEntry) (cancelled : Bool) :
    Grows b.s (b.commitRun p i e cancelled).s := by
  unfold Bd.commitRun
  split
  next v b1 h1 =>
  have read : Grows b.s b1.s := .sndBd h1 (b.outputs_grows p i e)
  split
  · exact .after (Bd.endBare_grows ..) (.after (Bd.commitNone_grows ..) read)
  · extract_lets q acc row d ppp b2 b3 code
    have rolled : Grows b.s b2.s := .after (Bd.rollPages_grows ..) read
    have charged : Grows b.s b3.s := .after (Bd.on_grows _ _ (fun s => .after (State.chargeEntry_grows ..) (State.setSlot_grows ..))) rolled
    clear_value b3 code d
    split
    · exact .after (Bd.endSeq_grows ..) charged
    · split
      · exact charged
      · exact .after (Bd.on_grows _ _ (fun s => State.owe_grows ..)) charged

theorem Bd.commitEntry_grows (b : Bd) (p i : Nat) (e : BatchEntry) (gone : Bool) : Grows b.s (b.commitEntry p i e gone).s := by
  unfold Bd.commitEntry
  dsimp only
  split
  · exact Bd.commitNone_grows ..
  · split
    · split
      · split
        · exact .after (Bd.endBare_grows ..) (Bd.commitNone_grows ..)
        · exact Bd.commitNone_grows ..
      · exact .after (Bd.endBare_grows ..) (Bd.commitNone_grows ..)
    · split
      · exact .after (Bd.endBare_grows ..) (Bd.commitNone_grows ..)
      · exact Bd.commitRun_grows ..

theorem Bd.stepOver_grows (b : Bd) (p : Nat) : Grows b.s (b.stepOver p).s := by
  unfold Bd.stepOver
  refine Bd.on_grows _ _ ?_
  intro s
  exact State.updPart_grows ..

theorem Bd.cancelSlot_grows (b : Bd) (p k : Nat) : Grows b.s (b.cancelSlot p k).s := by
  unfold Bd.cancelSlot
  dsimp only
  split
  · refine Bd.on_grows _ _ ?_
    intro s
    exact State.updSlot_grows ..
  · exact Bd.endBare_grows ..

theorem Bd.cancelRequest_grows (b : Bd) (p : Nat) (q : Request) : Grows b.s (b.cancelRequest p q).s := by
  unfold Bd.cancelRequest
  dsimp only
  split
  · exact Bd.cancelSlot_grows ..
  · exact Bd.refuse_grows ..

theorem Bd.lateCancel_grows (b : Bd) (p k : Nat) : Grows b.s (b.lateCancel p k).s := by
  unfold Bd.lateCancel
  dsimp only
  split
  · exact Bd.endBare_grows ..
  · exact .refl _

theorem State.countAbortedSeq_grows (s : State) (p : Nat) : Grows s (s.countAbortedSeq p) := by
  unfold State.countAbortedSeq
  split
  · exact .after (State.irq_grows ..) (State.updFunc_grows ..)
  · exact .refl _

theorem Bd.dropDisabled_grows (b : Bd) (p : Nat) : Grows b.s (b.dropDisabled p).s := by
  unfold Bd.dropDisabled
  refine .after (Grows.foldlOf Bd.s (fun s x => ?_) _ _) ?_
  · split
    · refine .after (Bd.close_grows ..) (Bd.on_grows _ _ ?_)
      intro s
      exact State.countAbortedSeq_grows ..
    · exact .refl _
  · exact .refl _

theorem Bd.returnUnits_grows (b : Bd) (p : Nat) : Grows b.s (b.returnUnits p).s := by
  unfold Bd.returnUnits
  exact .after (Bd.on_grows _ _ (fun s => .after (Grows.foldl (fun s x => State.updSlot_grows ..) _ _) (State.updPart_grows ..)))
    (Bd.kvOn_grows _ _ _ (fun _ _ _ h => h ▸ giveUnits_keeps ..))

theorem State.labClear_grows (s : State) (p : Nat) : Grows s (s.labClear p) := by
  unfold State.labClear
  exact Grows.foldl (fun s x => State.updEngine_grows ..) _ _

theorem Bd.firstPart_grows (b : Bd) (p : Nat) (ended : Bool) : Grows b.s (b.firstPart p ended).s := by
  unfold Bd.firstPart
  dsimp only
  refine .after (Bd.on_grows _ _ ?_) ?_
  · intro s
    exact State.updPart_grows ..
  · refine .after (Bd.returnUnits_grows ..) (Bd.on_grows _ _ ?_)
    intro s
    exact .after (State.updPart_grows ..) (State.labClear_grows ..)

theorem Bd.settle_grows (b : Bd) (p : Nat) : Grows b.s (b.settle p).s := by
  unfold Bd.settle
  refine Bd.on_grows _ _ ?_
  intro s
  exact .after (State.quiesceDone_grows ..) (.after (State.updPart_grows ..) (.putMem (.refl _) (id)))

theorem Bd.rejoin_grows (b : Bd) (p k : Nat) : Grows b.s (b.rejoin p k).s := by
  unfold Bd.rejoin
  dsimp only
  split
  · split
    · exact Bd.endBare_grows ..
    · refine Bd.on_grows _ _ ?_
      intro s
      exact State.updSlot_grows ..
  · exact .refl _

theorem Bd.parkOrEnd_grows (b : Bd) (p k : Nat) : Grows b.s (b.parkOrEnd p k).2.s := by
  unfold Bd.parkOrEnd
  split
  · exact .after (Bd.endBare_grows ..) (.sndBd ‹_› (Bd.park_grows ..))
  · exact Bd.park_grows ..

theorem Bd.hostPark_grows (b : Bd) (p k : Nat) : Grows b.s (b.hostPark p k).s := by
  unfold Bd.hostPark
  dsimp only
  split
  · exact .refl _
  · split
    · exact Bd.parkOrEnd_grows ..
    · split
      · exact .refl _
      · refine Bd.on_grows _ _ ?_
        intro s
        exact State.updSlot_grows ..

theorem returns_grows (p : Nat) (l : List Nat) (b : Bd) : Grows b.s (returns p l b).s := by
  induction l generalizing p b with
  | nil =>
    unfold returns
    exact .refl _
  | cons y l ih =>
    unfold returns
    split
    · exact .after (ih ..) (.sndBd ‹_› (Bd.bringBack_grows ..))
    · exact .sndBd ‹_› (Bd.bringBack_grows ..)

theorem State.loadBudgets_grows (s : State) (p : Nat) : Grows s (s.loadBudgets p) := by
  unfold State.loadBudgets
  exact State.updPart_grows ..

theorem Bd.returns_grows (b : Bd) (p : Nat) : Grows b.s (b.returns p).s := by
  unfold Bd.returns
  exact Sys2Proof.Machine.returns_grows ..

theorem Bd.publish_grows (b : Bd) (p : Nat) : Grows b.s (b.publish p).s := by
  unfold Bd.publish
  refine .after (Grows.foldlOf Bd.s (fun s x => ?_) _ _) ?_
  · exact Bd.publishSlot_grows ..
  · exact .refl _

theorem Bd.budgets_grows (b : Bd) (p : Nat) : Grows b.s (b.budgets p).s := by
  unfold Bd.budgets
  refine Bd.on_grows _ _ ?_
  intro s
  exact .after (State.updPart_grows ..) (State.loadBudgets_grows ..)

theorem State.markBudgets_grows (s : State) (p : Nat) (l : List BatchEntry) : Grows s (s.markBudgets p l) := by
  unfold State.markBudgets
  refine Grows.foldl (fun s x => ?_) _ _
  dsimp only
  split
  · exact State.setSlot_grows ..
  · exact .refl _

theorem starveParks_grows (p victim : Nat) (l : List Nat) (b : Bd) : Grows b.s (starveParks p victim l b).s := by
  induction l generalizing p victim b with
  | nil =>
    unfold starveParks
    exact .refl _
  | cons y l ih =>
    unfold starveParks
    split
    · exact .refl _
    · exact .after (ih ..) (Bd.parkOrEnd_grows ..)

theorem Bd.endLast_grows (b : Bd) (p : Nat) : Grows b.s (b.endLast p).s := by
  unfold Bd.endLast
  split
  · exact Bd.endBare_grows ..
  · exact .refl _

theorem Asm.add_grows (z : Asm) (p k a : Nat) (spill : Bool) : Grows z.b.s (z.add p k a spill).b.s := by
  unfold Asm.add
  exact Bd.on_grows _ _ (fun s => .after (State.updPart_grows ..) (State.updSlot_grows ..))

theorem Asm.pick_grows (z : Asm) (p k : Nat) (spill : Bool) : Grows z.b.s (z.pick p k spill).b.s := by
  unfold Asm.pick
  dsimp only
  split
  · exact Bd.endBare_grows ..
  · split
    · exact .refl _
    · have prepared := fun a => z.b.prepare_grows p k (z.b.s.slot p k).c a
      split
      · next h => exact .after (Asm.add_grows ..) (.sndBd h (prepared _))
      · next h => exact .sndBd h (prepared _)
      · next h => exact .after (Bd.endBare_grows ..) (.sndBd h (prepared _))

theorem asmPass_grows (p : Nat) (gen spill : Bool) (n : Nat) (z : Asm) : Grows z.b.s (asmPass p gen spill n z).b.s := by
  induction n generalizing z with
  | zero => exact .refl _
  | succ n ih =>
    unfold asmPass
    split
    · exact .refl _
    · exact .after (ih _) (Asm.pick_grows ..)

theorem Bd.passes_grows (b : Bd) (p : Nat) : Grows b.s (b.passes p).b.s := by
  unfold Bd.passes
  extract_lets t floor n z z'
  have first : Grows b.s z'.b.s := .after (asmPass_grows ..) (asmPass_grows p true false n z)
  split
  · exact .after (asmPass_grows ..) (.after (asmPass_grows ..) first)
  · exact first

theorem Bd.attempt_grows (b : Bd) (p : Nat) : Grows b.s (b.attempt p).2.s := by
  unfold Bd.attempt
  extract_lets open_ z b'
  have passed : Grows b.s b'.s := .after (Bd.on_grows _ _ (fun s => State.markBudgets_grows ..)) (b.passes_grows p)
  split
  · split
    · exact passed
    · extract_lets b''
      have starved : Grows b.s b''.s := by
        unfold b''
        split
        · exact .after (starveParks_grows ..) passed
        · exact passed
      clear_value b''
      split
      · exact starved
      · split
        · exact starved
        · split
          · exact starved
          · split
            · exact .after (Bd.on_grows _ _ (fun s => State.updPart_grows ..)) starved
            · exact .after (Bd.endLast_grows ..) starved
  · exact passed

theorem fillTokens_grows (p : Nat) (l : List BatchEntry) (b : Bd) : Grows b.s (fillTokens p l b).2.s := by
  induction l generalizing p b with
  | nil =>
    unfold fillTokens
    exact .refl _
  | cons y l ih =>
    unfold fillTokens
    split
    · split
      exact .sndBd ‹_› (ih ..)
    · dsimp only
      split
      · exact .after (ih ..) (Bd.read_grows ..)
      · exact .after (ih ..) (.after (Bd.endBare_grows ..) (Bd.read_grows ..))

theorem Bd.write_grows (b : Bd) (p : Nat) (l : List (Nat × List Byte)) : Grows b.s (b.write p l).2.s := by
  unfold Bd.write
  exact State.takeWork_grows _ _ (Wk.Keeps.wf (v := { mem := b.s.mem }) (⟨Wk.commit_wf _ _ _⟩))

theorem Bd.writeBatch_grows (b : Bd) (p : Nat) (l : List BatchEntry) : Grows b.s (b.writeBatch p l).s := by
  unfold Bd.writeBatch
  split
  dsimp only
  split
  · exact .sndBd ‹_› (fillTokens_grows ..)
  · refine .after (Bd.on_grows _ _ ?_) ?_
    · intro s
      exact .after (State.updPart_grows ..) (.putMem (.refl _) (id))
    · exact .after (Bd.write_grows ..) (.sndBd ‹_› (fillTokens_grows ..))

theorem Bd.assemble_grows (b : Bd) (p : Nat) : Grows b.s (b.assemble p).2.s := by
  unfold Bd.assemble
  dsimp only
  split
  · exact Bd.attempt_grows ..
  · exact .refl _

theorem Bd.job_grows (b : Bd) (p : Nat) (n : Job) : Grows b.s (b.job p n).2.s := by
  unfold Bd.job
  split
  · exact Bd.commitEntry_grows ..
  · exact Bd.stepOver_grows ..
  · dsimp only
    split
    · exact .refl _
    · exact Bd.cancelRequest_grows ..
  · exact .refl _
  · exact Bd.lateCancel_grows ..
  · exact Bd.dropDisabled_grows ..
  · dsimp only
    split
    · exact .refl _
    · exact Bd.request_grows ..
  · exact Bd.settle_grows ..
  · exact .refl _
  · exact Bd.rejoin_grows ..
  · exact .refl _
  · exact Bd.hostPark_grows ..
  · exact Bd.returns_grows ..
  · exact Bd.publish_grows ..
  · exact Bd.budgets_grows ..
  · exact Bd.assemble_grows ..
  · exact Bd.writeBatch_grows ..
  · dsimp only
    refine Bd.on_grows _ _ ?_
    intro s
    exact State.labClear_grows ..

theorem State.whole_grows (s : State) (f : Bd → Bd) (h : ∀ b, Grows b.s (f b).s) : Grows s (s.whole f).1 := by
  unfold State.whole
  dsimp only
  split
  · exact h { s := s }
  · exact State.sendSnoops_grows ..

theorem State.runJob_grows (s : State) (p : Nat) (j : Job) (rest : List Job) : Grows s (s.runJob p j rest).1 := by
  unfold State.runJob
  refine State.whole_grows _ _ ?_
  intro b
  split
  exact .after (Bd.on_grows _ _ (fun s => State.updPart_grows ..)) (.sndBd ‹_› (Bd.job_grows ..))

theorem State.boundaryOver_grows (s : State) (p : Nat) : Grows s (s.boundaryOver p) := by
  unfold State.boundaryOver
  exact .after (State.startPieces_grows ..) (.after (State.updPart_grows ..) (Grows.foldl (fun s x => State.irq_grows ..) _ _))

theorem State.serve_grows (p n : Nat) (s : State) : Grows s (State.serve p n s) := by
  induction n generalizing p s with
  | zero =>
    unfold State.serve
    exact .refl _
  | succ n ih =>
    unfold State.serve
    split
    · exact .refl _
    · dsimp only
      split
      · exact State.flushOwed_grows ..
      · split
        · split
          · exact .after (ih ..) (.after (.fst ‹_› (State.runJob_grows ..)) (State.flushOwed_grows ..))
          · exact .after (State.updPart_grows ..) (.after (.fst ‹_› (State.runJob_grows ..)) (State.flushOwed_grows ..))
        · split
          · exact .after (ih ..) (.after (State.boundaryOver_grows ..) (State.flushOwed_grows ..))
          · split
            · split
              · refine .after (ih ..) ?_
                refine .after (.fst ‹_› (State.whole_grows _ _ ?_)) ?_
                · intro b
                  exact Bd.firstPart_grows ..
                · exact State.flushOwed_grows ..
              · refine .after (.fst ‹_› (State.whole_grows _ _ ?_)) ?_
                · intro b
                  exact Bd.firstPart_grows ..
                · exact State.flushOwed_grows ..
            · exact State.flushOwed_grows ..

theorem State.goOn_grows (s : State) (p : Nat) : Grows s (s.goOn p) := by
  unfold State.goOn
  exact State.serve_grows ..

theorem State.wakeUp_grows (s : State) (p : Nat) : Grows s (s.wakeUp p) := by
  unfold State.wakeUp
  exact .after (State.goOn_grows ..) (State.updPart_grows ..)

theorem State.wakeIdle_grows (s : State) (p : Nat) : Grows s (s.wakeIdle p) := by
  unfold State.wakeIdle
  split
  · exact State.wakeUp_grows ..
  · exact .refl _

theorem State.freedFrom_grows (t s : State) : Grows t (t.freedFrom s) := by
  unfold State.freedFrom
  refine Grows.foldl (fun s x => ?_) _ _
  split
  · exact .after (State.wakeIdle_grows ..) (State.startPiecesIdle_grows ..)
  · exact .refl _

theorem State.issueKernel_grows (s : State) (p : Nat) : Grows s (s.issueKernel p) := by
  unfold State.issueKernel
  dsimp only
  split
  · refine .after (State.stepReport_grows ..) ?_
    exact State.takeWork_grows _ _ (Wk.Keeps.wf (v := { mem := s.mem }) (⟨Wk.read_wf _ _ _ _⟩))
  · split
    · exact State.takeWork_grows _ _ (Wk.Keeps.wf (v := { mem := s.mem }) (⟨Wk.read_wf _ _ _ _⟩))
    · split
      · refine .after (State.preemptAll_grows ..) (.after (State.updContext_grows ..) (.after (State.updPart_grows ..) ?_))
        exact State.takeWork_grows _ _ (Wk.Keeps.wf (v := { mem := s.mem }) (⟨Wk.read_wf _ _ _ _⟩))
      · refine .after (State.endStart_grows ..) (.after (State.updPart_grows ..) ?_)
        exact State.takeWork_grows _ _ (Wk.Keeps.wf (v := { mem := s.mem }) (⟨Wk.read_wf _ _ _ _⟩))

theorem execStepKernelIssue_advances (part : Nat) (s : State) : Advances s (execStepKernelIssue part s) := by
  unfold execStepKernelIssue
  split
  · exact .next (State.issueKernel_grows ..)
  · exact .next (.refl _)

theorem execRopeRoundStart_advances (part : Nat) (s : State) : Advances s (execRopeRoundStart part s) := by
  unfold execRopeRoundStart
  dsimp only
  split
  · refine .next ?_
    split
    · exact State.issueKernel_grows ..
    · exact .after (State.updPart_grows ..) (State.issueKernel_grows ..)
  · exact .next (.refl _)

theorem execStepBoundary_advances (part cyclesD : Nat) (s : State) : Advances s (execStepBoundary part cyclesD s) := by
  unfold execStepBoundary
  split
  · exact .next (.refl _)
  · split
    · split
      · refine .next (.after (State.goOn_grows ..) (.after (State.updPart_grows ..) (.fst ‹_› (State.whole_grows _ _ ?_))))
        intro b
        exact Bd.firstPart_grows ..
      · refine .next (.fst ‹_› (State.whole_grows _ _ ?_))
        intro b
        exact Bd.firstPart_grows ..
    · exact .next (State.goOn_grows ..)

theorem State.takeRequest_grows (s : State) (fn : Nat) (entry : BitVec 1024) (mine : Nat → Bool) :
    Grows s (s.takeRequest fn entry mine) := by
  unfold State.takeRequest
  dsimp only
  split
  · exact .refl _
  · split
    · refine .after (State.wakeUp_grows ..) ?_
      exact .after (State.updPart_grows ..) (.after (State.updFunc_grows ..) (State.hostGet_grows ..))
    · exact .after (State.updPart_grows ..) (.after (State.updFunc_grows ..) (State.hostGet_grows ..))

theorem execOpenReq_advances (fn : Nat) (entry : BitVec 1024) (s : State) : Advances s (execOpenReq fn entry s) := by
  unfold execOpenReq
  exact .next (State.takeRequest_grows ..)

theorem execCancel_advances (fn : Nat) (entry : BitVec 1024) (s : State) : Advances s (execCancel fn entry s) := by
  unfold execCancel
  exact .next (State.takeRequest_grows ..)

theorem execPark_advances (fn : Nat) (entry : BitVec 1024) (s : State) : Advances s (execPark fn entry s) := by
  unfold execPark
  exact .next (State.takeRequest_grows ..)

theorem State.parkDone_grows (s : State) (p k : Nat) : Grows s (s.parkDone p k) := by
  unfold State.parkDone
  exact .after (State.updPart_grows ..) (State.updSlot_grows ..)

theorem execBivouacParkDone_advances (part slot : Nat) (s : State) : Advances s (execBivouacParkDone part slot s) := by
  unfold execBivouacParkDone
  split
  · exact .next (.after (State.wakeIdle_grows ..) (State.parkDone_grows ..))
  · exact .next (.refl _)

theorem Bd.restore_grows (b : Bd) (p k : Nat) (data : List Byte) :
    Grows b.s (b.kvOn p (fun e x =>
      let (l, x) := parkedEntries b.s p k e x
      restorePages b.s p k e data l (b.s.slot p k).units x)).s := by
  refine Bd.kvOn_grows _ _ _ (fun e x y h => ?_)
  subst h
  exact .after (restorePages_keeps ..) (parkedEntries_keeps ..)

theorem execBivouacReturnDone_advances (part slot : Nat) (ok : Bool) (data : List Byte) (s : State) :
    Advances s (execBivouacReturnDone part slot ok data s) := by
  unfold execBivouacReturnDone
  split
  · exact .next (.refl _)
  · split
    · exact .next (.after (State.wakeIdle_grows ..) (State.updSlot_grows ..))
    · have back := s.whole_grows _ (fun b => b.restore_grows part slot data)
      split
      · next h => exact .next (.after (State.wakeIdle_grows ..) (.after (State.updSlot_grows ..) (.after (State.labForget_grows ..) (.fst h back))))
      · next h => exact .next (.fst h back)

theorem execBudgetEpoch_advances (part periods : Nat) (s : State) : Advances s (execBudgetEpoch part periods s) := by
  unfold execBudgetEpoch
  split
  · exact .next (.after (State.wakeIdle_grows ..) (State.updPart_grows ..))
  · exact .next (.refl _)

theorem State.writeRqtail_grows (s : State) (fn v : Nat) : Grows s (s.writeRqtail fn v) := by
  unfold State.writeRqtail
  dsimp only
  split
  · exact .refl _
  · exact State.updFunc_grows ..

theorem State.writeCqhead_grows (s : State) (fn v : Nat) : Grows s (s.writeCqhead fn v) := by
  unfold State.writeCqhead
  dsimp only
  split
  · exact .refl _
  · exact .after (State.goOn_grows ..) (State.updFunc_grows ..)

theorem State.writeRingCfg_grows (s : State) (fn : Nat) (completion : Bool) (v : Nat) :
    Grows s (s.writeRingCfg fn completion v) := by
  unfold State.writeRingCfg
  dsimp only
  split
  · split
    · exact .after (State.goOn_grows ..) (State.updFunc_grows ..)
    · exact .refl _
  · split
    · exact State.updFunc_grows ..
    · exact .refl _

theorem execRqtail_advances (fn value : Nat) (s : State) : Advances s (execRqtail fn value s) := by
  unfold execRqtail
  split
  · exact .next (State.writeRqtail_grows ..)
  · exact .next (.refl _)

theorem execCqhead_advances (fn value : Nat) (s : State) : Advances s (execCqhead fn value s) := by
  unfold execCqhead
  split
  · exact .next (State.writeCqhead_grows ..)
  · exact .next (.refl _)

theorem execRingCfg_advances (fn : Nat) (completion : Bool) (value : Quad) (s : State) :
    Advances s (execRingCfg fn completion value s) := by
  unfold execRingCfg
  split
  · exact .next (State.writeRingCfg_grows ..)
  · exact .next (.refl _)

theorem State.writeKvframes_grows (s : State) (p v : Nat) : Grows s (s.writeKvframes p v) := by
  unfold State.writeKvframes
  split
  · exact .refl _
  · exact State.updPart_grows ..

theorem State.writeKvgrans_grows (s : State) (p v : Nat) : Grows s (s.writeKvgrans p v) := by
  unfold State.writeKvgrans
  split
  · exact .refl _
  · exact State.updPart_grows ..

theorem execKvframes_advances (part : Nat) (value : Quad) (s : State) : Advances s (execKvframes part value s) := by
  unfold execKvframes
  split
  · exact .next (State.writeKvframes_grows ..)
  · exact .next (.refl _)

theorem execKvgrans_advances (part : Nat) (value : Quad) (s : State) : Advances s (execKvgrans part value s) := by
  unfold execKvgrans
  split
  · exact .next (State.writeKvgrans_grows ..)
  · exact .next (.refl _)

theorem State.writeSrvctl_grows (s : State) (p v : Nat) : Grows s (s.writeSrvctl p v) := by
  unfold State.writeSrvctl
  dsimp only
  split
  · split
    · split
      · exact .refl _
      · split
        · exact State.setPart_grows ..
        · exact .after (State.goOn_grows ..) (State.setPart_grows ..)
    · split
      · exact .refl _
      · split
        · exact State.setPart_grows ..
        · exact .after (State.goOn_grows ..) (State.setPart_grows ..)
  · split
    · exact State.clearEn_grows ..
    · exact State.setPart_grows ..

theorem execSrvctlEn_advances (fn : Nat) (value : Quad) (s : State) : Advances s (execSrvctlEn fn value s) := by
  unfold execSrvctlEn
  split
  · exact .next (State.writeSrvctl_grows ..)
  · exact .next (.refl _)

theorem State.writeIdrange_grows (s : State) (fn v : Nat) : Grows s (s.writeIdrange fn v) := by
  unfold State.writeIdrange
  exact State.updFunc_grows ..

theorem State.writeVfmap_grows (s : State) (pf k v : Nat) : Grows s (s.writeVfmap pf k v) := by
  unfold State.writeVfmap
  split
  · exact State.updFunc_grows ..
  · exact .refl _

theorem State.writeBlock_grows (s : State) (fn off v : Nat) : Grows s (s.writeBlock fn off v) := by
  unfold State.writeBlock
  split
  · exact State.writeRingCfg_grows ..
  · exact State.writeRqtail_grows ..
  · exact State.writeRingCfg_grows ..
  · exact State.writeCqhead_grows ..
  · split
    · exact State.writeIdrange_grows ..
    · exact .refl _
  · exact State.updFunc_grows ..
  · split
    · exact State.writeVfmap_grows ..
    · exact .refl _

theorem State.writeCtxReg_grows (s : State) (fn p x off v : Nat) : Grows s (s.writeCtxReg fn p x off v) := by
  unfold State.writeCtxReg
  dsimp only
  split
  · exact State.writeCtxctl_grows ..
  · split
    · exact .refl _
    · exact State.setContext_grows ..
  · split
    · exact .refl _
    · exact State.setContext_grows ..
  · split
    · exact .refl _
    · exact State.setContext_grows ..
  · exact .refl _

theorem afterOf_grows {s : State} {o : Host.Outcome State Fault Refusal} (h : Advances s o) : Grows s (afterOf s o) := by
  obtain ⟨t, rfl, ht⟩ := h
  exact ht

theorem State.writeWindow_grows (s : State) (fn x off v : Nat) : Grows s (s.writeWindow fn x off v) := by
  unfold State.writeWindow
  dsimp only
  split
  · exact State.updContext_grows ..
  · split
    · exact afterOf_grows (execKgo_advances ..)
    · split
      · exact State.updContext_grows ..
      · split
        · exact State.updContext_grows ..
        · split
          · exact afterOf_grows (execCsgo_advances ..)
          · split
            · exact State.writeCtxReg_grows ..
            · exact .refl _

theorem State.writeServing_grows (s : State) (p off v : Nat) : Grows s (s.writeServing p off v) := by
  unfold State.writeServing
  dsimp only
  split
  · split
    · split
      · exact State.updPart_grows ..
      · exact .refl _
    · exact .refl _
  · split
    · exact State.updPart_grows ..
    · exact .refl _
  · exact State.writeKvframes_grows ..
  · exact State.writeKvgrans_grows ..
  · split
    · exact State.updPart_grows ..
    · exact .refl _
  · split
    · exact State.updPart_grows ..
    · exact .refl _
  · split
    · exact State.updPart_grows ..
    · exact .refl _
  · split
    · exact State.updPart_grows ..
    · exact .refl _
  · exact State.writeSrvctl_grows ..
  · split
    · exact State.updPart_grows ..
    · exact .refl _
  · split
    · exact State.updPart_grows ..
    · exact .refl _
  · exact .refl _

theorem State.hostCoreWrite_grows (s : State) (fn c off : Nat) (m : List (Option Byte)) :
    Grows s (s.hostCoreWrite fn c off m) := by
  unfold State.hostCoreWrite
  dsimp only
  split
  · exact State.writeCtxReg_grows ..
  · split
    · exact State.writeBelay_grows ..
    · exact State.coreRegWrite_grows ..

theorem State.writeReg_grows (s : State) (fn off : Nat) (m : List (Option Byte)) : Grows s (s.writeReg fn off m) := by
  unfold State.writeReg
  dsimp only
  split
  · exact State.writeBlock_grows ..
  · split
    · split
      · exact State.writeWindow_grows ..
      · exact .refl _
    · split
      · exact .refl _
      · split
        · exact State.writeServing_grows ..
        · split
          · split
            · exact State.hostCoreWrite_grows ..
            · exact .refl _
          · split
            · split
              · exact State.stackRegWrite_grows ..
              · exact .refl _
            · exact .refl _

theorem State.bar2Write_grows (s : State) (fn o : Nat) (bs : List Byte) : Grows s (s.bar2Write fn o bs) := by
  unfold State.bar2Write
  split
  split
  · exact .refl _
  · split
    · split
      · exact .refl _
      · exact .after (State.updCore_grows ..) (.putMem (.refl _) (Memory.wf_scratchWrite _ _ _))
    · dsimp only
      split
      · exact State.loadBank_grows ..
      · exact .after (State.updCore_grows ..) (State.loadBank_grows ..)

theorem State.hole_grows (s : State) (fn : Nat) : Grows s (s.hole fn) := by
  unfold State.hole
  split
  · exact .refl _
  · exact .after (State.irq_grows ..) (State.updFunc_grows ..)

theorem State.hostBytes_grows (s : State) (p rx tx : Nat) : Grows s (s.hostBytes p rx tx) := by
  unfold State.hostBytes
  exact State.updPart_grows ..

theorem State.stopServing_grows (s : State) (p : Nat) : Grows s (s.stopServing p) := by
  unfold State.stopServing
  dsimp only
  split
  · exact .after (State.stepFail_grows ..) (State.clearEn_grows ..)
  · exact State.clearEn_grows ..

theorem State.disableHeld_grows (s : State) (fn : Nat) (held : List Nat) : Grows s (s.disableHeld fn held) := by
  unfold State.disableHeld
  dsimp only
  split
  · exact Grows.foldl (fun s x => State.updFunc_grows ..) _ _
  · refine .after (State.quiesceDone_grows ..) ?_
    split
    · split
      · refine .after (State.wakeUp_grows ..) ?_
        refine .after (Grows.foldl (fun s x => ?_) _ _) ?_
        · exact .after (State.cancelContext_grows ..) (State.updContext_grows ..)
        · exact .after (State.stopServing_grows ..) (Grows.foldl (fun s x => State.updFunc_grows ..) _ _)
      · refine .after (State.goOn_grows ..) ?_
        refine .after (Grows.foldl (fun s x => ?_) _ _) ?_
        · exact .after (State.cancelContext_grows ..) (State.updContext_grows ..)
        · exact .after (State.stopServing_grows ..) (Grows.foldl (fun s x => State.updFunc_grows ..) _ _)
    · split
      · refine .after (State.wakeUp_grows ..) ?_
        refine .after (Grows.foldl (fun s x => ?_) _ _) ?_
        · exact .after (State.cancelContext_grows ..) (State.updContext_grows ..)
        · exact Grows.foldl (fun s x => State.updFunc_grows ..) _ _
      · refine .after (State.goOn_grows ..) ?_
        refine .after (Grows.foldl (fun s x => ?_) _ _) ?_
        · exact .after (State.cancelContext_grows ..) (State.updContext_grows ..)
        · exact Grows.foldl (fun s x => State.updFunc_grows ..) _ _

theorem State.disable_grows (s : State) (fn : Nat) : Grows s (s.disable fn) := by
  unfold State.disable
  exact State.disableHeld_grows ..

theorem State.resetFn_grows (s : State) (fn : Nat) : Grows s (s.resetFn fn) := by
  unfold State.resetFn
  dsimp only
  exact .after (Grows.foldl (fun s x => State.updFunc_grows ..) _ _) (Grows.foldl (fun s x => State.updContext_grows ..) _ _)

theorem State.flr_grows (s : State) (fn : Nat) : Grows s (s.flr fn) := by
  unfold State.flr
  exact .after (State.disableHeld_grows ..) (State.resetFn_grows ..)

theorem State.disableAll_grows (s : State) : Grows s s.disableAll := by
  unfold State.disableAll
  exact Grows.foldl (fun s x => State.flr_grows ..) _ _

theorem execFlr_advances (fn : Nat) (s : State) : Advances s (execFlr fn s) := by
  unfold execFlr
  split
  · exact .next (State.flr_grows ..)
  · exact .next (.refl _)

theorem execD3hotEntry_advances (fn : Nat) (s : State) : Advances s (execD3hotEntry fn s) := by
  unfold execD3hotEntry
  split
  · exact .next (.after (State.disable_grows ..) (State.updFunc_grows ..))
  · exact .next (.refl _)

theorem State.enableFn_grows (s : State) (fn : Nat) : Grows s (s.enableFn fn) := by
  unfold State.enableFn
  split
  · exact .after (State.irq_grows ..) (State.updFunc_grows ..)
  · exact .refl _

theorem execD0Return_advances (fn : Nat) (s : State) : Advances s (execD0Return fn s) := by
  unfold execD0Return
  split
  · exact .next (.after (State.enableFn_grows ..) (.after (State.updFunc_grows ..) (State.resetFn_grows ..)))
  · exact .next (.refl _)

theorem execBmeClear_advances (fn : Nat) (s : State) : Advances s (execBmeClear fn s) := by
  unfold execBmeClear
  split
  · exact .next (State.disable_grows ..)
  · exact .next (.refl _)

theorem execVfEnableClear_advances (fn : Nat) (s : State) : Advances s (execVfEnableClear fn s) := by
  unfold execVfEnableClear
  split
  · exact .next (Grows.foldl (fun s x => State.disable_grows ..) _ _)
  · exact .next (.refl _)

theorem execFunctionEnable_advances (fn : Nat) (s : State) : Advances s (execFunctionEnable fn s) := by
  unfold execFunctionEnable
  split
  · exact .next (State.enableFn_grows ..)
  · exact .next (.refl _)

theorem execConfigRequest_advances (fn reg : Nat) (s : State) : Advances s (execConfigRequest fn reg s) := by
  unfold execConfigRequest
  split
  · exact .next (.refl _)
  · split
    · exact .next (State.emit_grows ..)
    · split
      · exact .next (State.emit_grows ..)
      · exact .next (State.emit_grows ..)

theorem execCxlIdeKm_advances (msg : List Byte) (cacheMem io : Bool) (s : State) :
    Advances s (execCxlIdeKm msg cacheMem io s) := by
  unfold execCxlIdeKm
  split
  · exact .next (.after (State.emit_grows ..) (.put (.refl _)))
  · exact .next (.refl _)

theorem execDoeDiscovery_advances (fn index : Nat) (s : State) : Advances s (execDoeDiscovery fn index s) := by
  unfold execDoeDiscovery
  split
  · exact .next (.after (State.irq_grows ..) (State.emit_grows ..))
  · exact .next (.refl _)

theorem execPrimaryMailboxIdentify_advances (s : State) : Advances s (execPrimaryMailboxIdentify s) := by
  unfold execPrimaryMailboxIdentify
  split
  · exact .next (State.emit_grows ..)
  · exact .next (.refl _)

theorem execGetSupportedLogs_advances (s : State) : Advances s (execGetSupportedLogs s) := by
  unfold execGetSupportedLogs
  split
  · exact .next (State.emit_grows ..)
  · exact .next (.refl _)

theorem execGetLog_advances (offset len : Nat) (s : State) : Advances s (execGetLog offset len s) := by
  unfold execGetLog
  split
  · exact .next (State.emit_grows ..)
  · exact .next (.refl _)

theorem execHdmCommit_advances (base size iw : Nat) (s : State) : Advances s (execHdmCommit base size iw s) := by
  unfold execHdmCommit
  split
  · exact .next (.refl _)
  · split
    · exact .next (.put (.refl _))
    · exact .next (.put (.refl _))

theorem State.hostLine_grows (s : State) (k line : Nat) (bs : List Byte) : Grows s (s.hostLine k line bs) := by
  unfold State.hostLine
  exact .after (State.freedFrom_grows ..) (.after (State.addLink_grows ..) (State.withMem_grows _ _ _ (Memory.wf_writeLine _ _ _ _ _)))

theorem State.memRead_grows (s : State) (hpa : Nat) (tracked : Bool) : Grows s (s.memRead hpa tracked) := by
  unfold State.memRead
  split
  · exact .refl _
  · dsimp only
    split
    · exact State.emit_grows ..
    · split
      · exact .refl _
      · split
        · exact .after (State.holdHost_grows ..) (State.sendSnoops_grows ..)
        · have read := fun k l => Grows.after (State.freedFrom_grows _ s) (.after (State.addLink_grows _ 0 64)
            (s.withMem_grows _ 3 (Memory.wf_readLine (m := s.mem) s.start.periods s.threshold k l)))
          split
          · refine .after (State.emit_grows ..) (.after (State.hostBytes_grows ..) ?_)
            split
            · exact .put (read _ _)
            · exact read _ _
          · refine .after (State.emit_grows ..) ?_
            split
            · exact .put (read _ _)
            · exact read _ _

theorem execCxlMemRead_advances (hpa : Nat) (tracked : Bool) (s : State) : Advances s (execCxlMemRead hpa tracked s) := by
  unfold execCxlMemRead
  exact .next (State.memRead_grows ..)

theorem execCxlMemWrite_advances (hpa : Nat) (data : BitVec 512) (s : State) : Advances s (execCxlMemWrite hpa data s) := by
  unfold execCxlMemWrite
  split
  · exact .next (.refl _)
  · split
    · exact .next (State.emit_grows ..)
    · split
      · exact .next (.refl _)
      · exact .next (.after (State.emit_grows ..) (.after (State.hostBytes_grows ..) (State.hostLine_grows ..)))

theorem execH2dSnoop_advances (hpa : Nat) (s : State) : Advances s (execH2dSnoop hpa s) := by
  unfold execH2dSnoop
  split
  · exact .next (State.emit_grows ..)
  · exact .next (.refl _)

theorem readBar4_wf (e : Env) (now threshold : Nat) (l : List Nat) {m : MemSys} (h : Memory.wf m = true) :
    Memory.wf (readBar4 e now threshold m l).1 = true := by
  induction l generalizing m with
  | nil => exact h
  | cons a l ih =>
    unfold readBar4
    split
    · next k off _ =>
      have read := Memory.wf_readLine now threshold k (off / 64) h
      split
      · next hr =>
        rw [hr] at read
        exact read
      · next hr =>
        rw [hr] at read
        have rest := ih read
        split
        · next hq =>
          rw [hq] at rest
          exact rest
        · next hq =>
          rw [hq] at rest
          exact rest
    · exact h

theorem State.barRead4_grows (s : State) (fn offset len : Nat) : Grows s (s.barRead4 fn offset len) := by
  unfold State.barRead4
  dsimp only
  split
  · exact .after (State.emit_grows ..) (State.hole_grows ..)
  · split
    · exact .refl _
    · have read := fun a => Grows.after (State.freedFrom_grows _ s) (.after (State.addLink_grows _ (funcPart fn) (64 * (linesFrom a len).length))
        (s.withMem_grows _ 3 (readBar4_wf (s.partEnv (funcPart fn)) s.start.periods s.threshold (linesFrom a len) (m := s.mem))))
      split
      · exact .after (State.emit_grows ..) (.after (State.hostBytes_grows ..) (read _))
      · exact .after (State.emit_grows ..) (read _)

theorem State.barRead_grows (s : State) (fn bar offset len : Nat) : Grows s (s.barRead fn bar offset len) := by
  unfold State.barRead
  split
  · exact State.barRead4_grows ..
  · dsimp only
    split
    · exact .after (State.emit_grows ..) (State.hostBytes_grows ..)
    · split
      · exact .after (State.emit_grows ..) (.after (State.hole_grows ..) (State.hostBytes_grows ..))
      · exact .after (State.emit_grows ..) (State.hostBytes_grows ..)

theorem execHostBarRead_advances (fn bar offset len : Nat) (s : State) : Advances s (execHostBarRead fn bar offset len s) := by
  unfold execHostBarRead
  split
  · exact .next (.refl _)
  · split
    · exact .next (State.emit_grows ..)
    · refine .next ?_
      split
      · exact State.holdHost_grows ..
      · exact State.barRead_grows ..

theorem State.barWrite4_grows (s : State) (fn offset : Nat) (data : List Byte) : Grows s (s.barWrite4 fn offset data) := by
  unfold State.barWrite4
  dsimp only
  split
  · exact State.hole_grows ..
  · split
    · exact .after (State.holdHost_grows ..) (State.sendSnoops_grows ..)
    · split
      · exact .refl _
      · refine .after (State.hostBytes_grows ..) (.after (State.freedFrom_grows ..) (.after (State.addLink_grows ..)
          (State.withMem_grows _ _ _ (Memory.wf_foldl (fun m v hm => ?_) _ _))))
        split
        · exact hm
        · exact Memory.wf_writeLine _ _ _ _ _ hm
        · exact hm

theorem execHostBarWrite_advances (fn bar offset : Nat) (data : List Byte) (s : State) :
    Advances s (execHostBarWrite fn bar offset data s) := by
  unfold execHostBarWrite
  split
  · exact .next (.refl _)
  · split
    · exact .next (State.emit_grows ..)
    · split
      · refine .next ?_
        split
        · exact State.holdHost_grows ..
        · exact State.barWrite4_grows ..
      · dsimp only
        split
        · exact .next (.after (Grows.foldl (fun s x => State.writeReg_grows ..) _ _) (State.hostBytes_grows ..))
        · split
          · exact .next (.after (State.hole_grows ..) (State.hostBytes_grows ..))
          · exact .next (.after (Grows.foldl (fun s x => State.bar2Write_grows ..) _ _) (State.hostBytes_grows ..))

theorem execVfmap_advances (pf vf : Nat) (value : BitVec 128) (s : State) : Advances s (execVfmap pf vf value s) := by
  unfold execVfmap
  split
  · exact .next (State.writeVfmap_grows ..)
  · exact .next (.refl _)

theorem execRegisterWrite_advances (fn offset : Nat) (value : Quad) (s : State) :
    Advances s (execRegisterWrite fn offset value s) := by
  unfold execRegisterWrite
  split
  · split
    · exact .next (State.writeIdrange_grows ..)
    · exact .next (.refl _)
  · split
    · split
      · exact .next (State.writeReg_grows ..)
      · exact .next (.refl _)
    · split
      · exact .next (State.writeReg_grows ..)
      · exact .next (.refl _)

theorem execCsgoDone_advances (part ctx : Nat) (s : State) : Advances s (execCsgoDone part ctx s) := by
  unfold execCsgoDone
  split
  · exact .next (.refl _)
  · split
    dsimp only
    split
    · refine .next (.after (State.freedFrom_grows ..) ?_)
      exact State.takeWork_grows _ _ (Wk.Keeps.wf (v := { mem := s.mem }) (.snd ‹_› ⟨Wk.read_wf _ _ _ _⟩))
    · refine .next (.after (State.updContext_grows ..) ?_)
      refine .after (Grows.foldl (fun s x => ?_) _ _) ?_
      · exact State.loadBank_grows ..
      · refine .putMem ?_ ?_
        · refine .after (State.freedFrom_grows ..) ?_
          exact State.takeWork_grows _ _ (Wk.Keeps.wf (v := { mem := s.mem }) (.snd ‹_› ⟨Wk.read_wf _ _ _ _⟩))
        · exact id

theorem State.hostAccess_grows (s : State) (a : HostAccess) : Grows s (s.hostAccess a) := by
  unfold State.hostAccess
  split
  · exact State.holdHost_grows ..
  · split
    · exact State.barWrite4_grows ..
    · exact State.barRead_grows ..
    · exact State.kgo_grows ..
    · exact State.csgo_grows ..
    · exact State.memRead_grows ..

theorem State.retryHost_grows (s : State) : Grows s s.retryHost := by
  unfold State.retryHost
  split
  · exact .refl _
  · exact .after (Grows.foldl (fun s x => State.hostAccess_grows ..) _ _) (.put (.refl _))

theorem execBisnpResponse_advances (line : Nat) (modified : Option (BitVec 512)) (s : State) :
    Advances s (execBisnpResponse line modified s) := by
  unfold execBisnpResponse
  split
  · exact .next (.refl _)
  · split
    · exact .next (.refl _)
    · dsimp only
      refine .next (.after (State.goOn_grows ..) (.after (State.retryHost_grows ..) (.put ?_)))
      split
      · exact .after (State.hostBytes_grows ..) (State.hostLine_grows ..)
      · exact .refl _

theorem execCxlLinkUp_advances (width : Nat) (s : State) : Advances s (execCxlLinkUp width s) := by
  unfold execCxlLinkUp
  split
  · exact .next (.put (.refl _))
  · exact .next (.refl _)

theorem execCxlRetrain_advances (s : State) : Advances s (execCxlRetrain s) := by
  unfold execCxlRetrain
  split
  · exact .next (.refl _)
  · split
    · exact .next (.put (.refl _))
    · exact .next (.put (.refl _))
    · exact .next (.refl _)

theorem State.loseHost_grows (s : State) (next : LinkState) : Grows s (s.loseHost next) := by
  unfold State.loseHost
  exact .after (State.retryHost_grows ..) (.put (.refl _))

theorem State.clearAccept_grows (s : State) : Grows s s.clearAccept := by
  unfold State.clearAccept
  exact Grows.foldl (fun s x => State.updPart_grows ..) _ _

theorem execCxlLinkDown_advances (s : State) : Advances s (execCxlLinkDown s) := by
  unfold execCxlLinkDown
  split
  · exact .next (.after (State.clearAccept_grows ..) (.after (State.disableAll_grows ..) (State.loseHost_grows ..)))
  · exact .next (.refl _)

theorem execHotReset_advances (s : State) : Advances s (execHotReset s) := by
  unfold execHotReset
  split
  · exact .next (.after (State.disableAll_grows ..) (.after (State.retryHost_grows ..) (.put (.refl _))))
  · exact .next (.refl _)

theorem execHostLinkRecovery_advances (kind : Nat) (s : State) : Advances s (execHostLinkRecovery kind s) := by
  unfold execHostLinkRecovery
  dsimp only
  split
  · exact .next (.refl _)
  · split
    · exact .next (.put (.refl _))
    · exact .next (.put (.refl _))
    · exact .next (.put (.refl _))
    · exact .next (.refl _)

theorem State.updStack_grows_of_wf (s : State) (k cause : Nat) (f : Stack → Stack)
    (h : ∀ st : Stack, st.wf = true → (f st).wf = true) :
    Grows s (s.updStack k cause f) :=
  .after (State.freedFrom_grows ..) (s.withMem_grows _ cause (fun w => Memory.wf_setStack k w (h _ (Memory.wf_stack k w))))

theorem execTetherRetry_advances (stack pc : Nat) (ok : Bool) (s : State) : Advances s (execTetherRetry stack pc ok s) := by
  unfold execTetherRetry
  split
  · exact .next (.refl _)
  · refine .next (.after (State.retryHost_grows ..) (State.updStack_grows_of_wf _ _ _ _ (fun st h => ?_)))
    dsimp only
    split
    · exact Stack.wf_of_eq h rfl rfl
    · split
      · exact Stack.wf_failChannel _ (Stack.wf_of_eq h rfl rfl)
      · exact Stack.wf_of_eq h rfl rfl

theorem execDramCmdTimeout_advances (stack channel : Nat) (s : State) : Advances s (execDramCmdTimeout stack channel s) := by
  unfold execDramCmdTimeout
  split
  · exact .next (State.updStack_grows_of_wf _ _ _ _ (fun st h => Stack.wf_failChannel _ h))
  · exact .next (.refl _)

theorem execRefreshWindow_advances (stack pc : Nat) (s : State) : Advances s (execRefreshWindow stack pc s) := by
  unfold execRefreshWindow
  dsimp only
  generalize (s.pcOn stack pc && !(s.mem.stack stack).refreshing.contains pc && decide ((s.mem.stack stack).refreshing.length <
    if (s.mem.stack stack).hotRefresh then 4 else 2)) = c
  cases c
  · exact .next (.refl _)
  · exact .next (State.updStack_grows_of_wf _ _ _ _ (fun st h => Stack.wf_of_eq h rfl rfl))

theorem execRefreshWindowEnd_advances (stack pc : Nat) (s : State) : Advances s (execRefreshWindowEnd stack pc s) := by
  unfold execRefreshWindowEnd
  split
  · exact .next (.after (State.retryHost_grows ..) (State.updStack_grows_of_wf _ _ _ _ (fun st h => Stack.wf_of_eq h rfl rfl)))
  · exact .next (.refl _)

theorem execLaneRecalibration_advances (stack pc : Nat) (ok : Bool) (s : State) :
    Advances s (execLaneRecalibration stack pc ok s) := by
  unfold execLaneRecalibration
  split
  · exact .next (State.updStack_grows_of_wf _ _ _ _ (fun st h => Stack.wf_failChannel _ h))
  · exact .next (.refl _)

theorem execWcAgeFlush_advances (stack line : Nat) (s : State) : Advances s (execWcAgeFlush stack line s) := by
  unfold execWcAgeFlush
  dsimp only
  split
  · exact .next (.refl _)
  · split
    · exact .next (.refl _)
    · exact .next (.after (State.freedFrom_grows ..) (State.withMem_grows _ _ _ (fun h =>
        Memory.wf_fresh _ (Memory.wf_setStack _ h (Stack.wf_leave _ _ (Memory.wf_stack _ h))))))

theorem State.setEntry_grows (s : State) (index sub v : Nat) : Grows s (s.setEntry index sub v) := by
  unfold State.setEntry
  exact State.setDictVal_grows ..

theorem State.setObject_grows (s : State) (index sub : Nat) (bs : List Byte) : Grows s (s.setObject index sub bs) := by
  unfold State.setObject
  exact .put (State.setDictVal_grows ..)

theorem State.setSize_grows (s : State) (index sub n : Nat) : Grows s (s.setSize index sub n) := by
  unfold State.setSize
  exact .put (.refl _)

theorem State.wakeBudgets_grows (s : State) : Grows s s.wakeBudgets := by
  unfold State.wakeBudgets
  refine Grows.foldl (fun s x => ?_) _ _
  split
  · exact State.wakeIdle_grows ..
  · exact .refl _

theorem State.askTest_grows (s : State) (p : Nat) (cal : Bool) (v : Nat) : Wr.Grows s (s.askTest p cal v) := by
  unfold State.askTest
  dsimp only
  split
  · exact .no _
  · split
    · split
      · split
        · exact .ok (.after (State.updTu_grows ..) (State.updTu_grows ..))
        · split
          · exact .ok (.after (State.updTu_grows ..) (State.updTu_grows ..))
          · exact .ok (State.updTu_grows ..)
      · split
        · exact .ok (.after (State.updTu_grows ..) (State.updTu_grows ..))
        · split
          · exact .ok (.after (State.updTu_grows ..) (State.updTu_grows ..))
          · exact .ok (State.updTu_grows ..)
      · split
        · exact .ok (.after (State.updTu_grows ..) (State.updTu_grows ..))
        · split
          · exact .ok (.after (State.updTu_grows ..) (State.updTu_grows ..))
          · exact .ok (State.updTu_grows ..)
    · split
      · exact .no _
      · split
        · exact .no _
        · split
          · exact .no _
          · split
            · exact .no _
            · exact .ok (.after (State.startPiecesIdle_grows ..) (State.updTu_grows ..))

theorem State.writeAccept0_grows (s : State) (p v : Nat) : Wr.Grows s (s.writeAccept0 p v) := by
  unfold State.writeAccept0
  split
  · exact .no _
  · split
    · exact .no _
    · exact .ok (State.updPart_grows ..)

theorem State.writeAccept1_grows (s : State) (p v : Nat) : Wr.Grows s (s.writeAccept1 p v) := by
  unfold State.writeAccept1
  split
  · exact .no _
  · split
    · exact .no _
    · exact .ok (State.updPart_grows ..)

theorem State.writeBreak_grows (s : State) (who : Requester) (n v : Nat) : Wr.Grows s (s.writeBreak who n v) := by
  unfold State.writeBreak
  split
  · exact .no _
  · split
    · exact .no _
    · exact .ok (.after (State.setEntry_grows ..) (State.setEntry_grows ..))

theorem State.writeInterleave_grows (s : State) (p v : Nat) : Wr.Grows s (s.writeInterleave p v) := by
  unfold State.writeInterleave
  split
  · exact .no _
  · split
    · exact .no _
    · exact .ok (State.updPart_grows ..)

theorem State.writeVariants_grows (s : State) (p : Nat) (bs : List Byte) : Wr.Grows s (s.writeVariants p bs) := by
  unfold State.writeVariants
  dsimp only
  split
  · exact .no _
  · split
    · exact .no _
    · split
      · exact .no _
      · exact .ok (.after (State.setSize_grows ..) (State.updPart_grows ..))

theorem State.writeRoutes_grows (s : State) (p : Nat) (bs : List Byte) : Wr.Grows s (s.writeRoutes p bs) := by
  unfold State.writeRoutes
  dsimp only
  split
  · exact .no _
  · exact .ok (.after (State.setSize_grows ..) (State.updPart_grows ..))

theorem State.writeRopePorts_grows (s : State) (p v : Nat) : Wr.Grows s (s.writeRopePorts p v) := by
  unfold State.writeRopePorts
  split
  · exact .no _
  · exact .ok (State.updPart_grows ..)

theorem State.writePortCtl_grows (s : State) (q v : Nat) : Wr.Grows s (s.writePortCtl q v) := by
  unfold State.writePortCtl
  split
  · exact .no _
  · dsimp only
    split
    · exact .ok (.after (State.updPort_grows ..) (State.updPort_grows ..))
    · refine .ok (.after (State.freedFrom_grows ..) ?_)
      exact .after (State.losePortTests_grows ..) (.after (State.portLost_grows ..) (State.updPort_grows ..))

theorem Grows.keepNv {s t : State} {n : NonVolatile} (h : Grows s t) (hn : s.nv.Keeps n) : Grows s { t with nv := n } :=
  ⟨hn.cairn ▸ List.prefix_refl _, fun hl => hn.cairn.symm ▸ hl, h.queue, h.sent, h.mem, hn.fused, hn.floor, hn.starts⟩

theorem State.writeNode_grows (s : State) (v : Nat) : Wr.Grows s (s.writeNode v) := by
  unfold State.writeNode
  split
  · exact .no _
  · refine .stored (.keepNv (.after (State.freedFrom_grows ..) (Grows.foldl (fun s x => ?_) _ _)) ⟨rfl, ⟨rfl, rfl, rfl⟩, le_rfl, le_rfl⟩)
    split
    · exact .refl _
    · exact State.portLost_grows ..

theorem State.writeRole_grows (s : State) (v : Nat) : Wr.Grows s (s.writeRole v) := by
  unfold State.writeRole
  dsimp only
  split
  · exact .no _
  · split
    · exact .no _
    · exact .stored (.putNv (.refl _) ⟨rfl, ⟨rfl, rfl, rfl⟩, le_rfl, le_rfl⟩)

theorem State.writeMode_grows (s : State) (v : Nat) : Wr.Grows s (s.writeMode v) := by
  unfold State.writeMode
  split
  · exact .no _
  · split
    · exact .no _
    · exact .stored (.putNv (.refl _) ⟨rfl, ⟨rfl, rfl, rfl⟩, le_rfl, le_rfl⟩)

theorem State.writeGrade_grows (s : State) (v : Nat) : Wr.Grows s (s.writeGrade v) := by
  unfold State.writeGrade
  dsimp only
  split
  · exact .no _
  · split
    · exact .stored (.refl _)
    · split
      · exact .no _
      · exact .stored (.putNv (.refl _) ⟨rfl, ⟨rfl, rfl, rfl⟩, le_rfl, le_rfl⟩)

theorem State.writeMapout_grows (s : State) (k v : Nat) : Wr.Grows s (s.writeMapout k v) := by
  unfold State.writeMapout
  dsimp only
  split
  · exact .no _
  · exact .stored (.putMem (.refl _) (fun h => Memory.wf_setStack _ h (Stack.wf_of_eq (Memory.wf_stack _ h) rfl rfl)))

theorem State.clearCeLogs_grows (s : State) (v : Nat) : Grows s (s.clearCeLogs v) := by
  unfold State.clearCeLogs
  refine .putMem (.refl _) (Memory.wf_foldl (fun m k hm => ?_) _ _)
  exact Memory.wf_setStack _ hm (Stack.wf_of_eq (Memory.wf_stack k hm) rfl rfl)

theorem State.clearAccounts_grows (s : State) (v : Nat) : Grows s (s.clearAccounts v) := by
  unfold State.clearAccounts
  exact Grows.foldl (fun s x => .after (State.updPart_grows ..) (.put (.refl _))) _ _

theorem State.writeChunk_grows (s : State) (who : Requester) (bs : List Byte) : Wr.Grows s (s.writeChunk who bs) := by
  unfold State.writeChunk
  dsimp only
  split
  · exact .ok (.put (.refl _))
  · split
    · exact .no _
    · exact .ok (.putMem (.refl _) (id))

theorem State.commitFirmware_grows (s : State) (who : Requester) (v : Nat) : Wr.Grows s (s.commitFirmware who v) := by
  unfold State.commitFirmware
  dsimp only
  split
  · exact .no _
  · split
    · exact .no _
    · split
      · exact .no _
      · split
        · exact .no _
        · exact .ok (.after (State.cairn_grows ..) (.putNv (.refl _) ⟨rfl, ⟨rfl, rfl, rfl⟩, le_rfl, le_rfl⟩))

theorem State.writeFloor_grows (s : State) (v : Nat) : Wr.Grows s (s.writeFloor v) := by
  unfold State.writeFloor
  dsimp only
  split
  · exact .no _
  · next hv =>
    split
    · exact .ok (.refl _)
    · split
      · exact .no _
      · exact .ok (.after (State.cairn_grows ..) (.keepNv (.refl _) ⟨rfl, ⟨rfl, rfl, rfl⟩, by dsimp only; omega, le_rfl⟩))

theorem State.writeSanitise_grows (s : State) (p : Nat) (bs : List Byte) : Wr.Grows s (s.writeSanitise p bs) := by
  unfold State.writeSanitise
  dsimp only
  split
  · exact .no _
  · split
    · exact .no _
    · split
      · exact .no _
      · exact .ok (State.updPart_grows ..)

theorem State.spdm_grows (s : State) (who : Requester) (op : Nat) (msg : List Byte) : Grows s (s.spdm who op msg).2 := by
  unfold State.spdm
  split
  · exact .put (.refl _)
  · exact .refl _

theorem State.writeSpdm_grows (s : State) (who : Requester) (msg : List Byte) : Wr.Grows s (s.writeSpdm who msg) := by
  unfold State.writeSpdm
  split
  · exact .no _
  · split
    exact .ok (.after (State.updRequester_grows ..) (.snd ‹_› (State.spdm_grows ..)))

theorem State.writeNumA_grows (s : State) (r : Row) (i v : Nat) : Wr.Grows s (s.writeNumA r i v) := by
  unfold State.writeNumA
  split
  · exact State.writeAccept0_grows ..
  · exact State.writeAccept1_grows ..
  · exact State.writeMode_grows ..
  · exact State.writeInterleave_grows ..
  · exact Wr.check_grows (.ok (State.updPart_grows ..))
  · exact Wr.check_grows (.ok (State.updPart_grows ..))
  · exact Wr.check_grows (.ok (State.setEntry_grows ..))
  · exact Wr.check_grows (.ok (State.setEntry_grows ..))
  · exact Wr.check_grows (.ok (State.setEntry_grows ..))
  · exact State.writeGrade_grows ..
  · exact Wr.check_grows (.ok (.put (.refl _)))
  · exact .no _

theorem State.writeNumB_grows (s : State) (r : Row) (i v : Nat) : Wr.Grows s (s.writeNumB r i v) := by
  unfold State.writeNumB
  split
  · exact .ok (State.clearCeLogs_grows ..)
  · exact .ok (State.setEntry_grows ..)
  · exact State.writeMapout_grows ..
  · exact State.writeNode_grows ..
  · exact State.writeRole_grows ..
  · exact State.writePortCtl_grows ..
  · exact State.writeRopePorts_grows ..
  · exact Wr.check_grows (.ok (State.setEntry_grows ..))
  · exact Wr.check_grows (.ok (State.setEntry_grows ..))
  · exact .no _

theorem State.writeNumC_grows (s : State) (who : Requester) (r : Row) (i v : Nat) : Wr.Grows s (s.writeNumC who r i v) := by
  unfold State.writeNumC
  split
  · exact Wr.check_grows (.ok (.after (State.wakeBudgets_grows ..) (State.setEntry_grows ..)))
  · exact .ok (.after (State.wakeBudgets_grows ..) (State.setEntry_grows ..))
  · exact .ok (.after (State.wakeBudgets_grows ..) (State.setEntry_grows ..))
  · exact Wr.check_grows (.ok (State.clearAccounts_grows ..))
  · exact State.askTest_grows ..
  · exact State.askTest_grows ..
  · exact State.writeFloor_grows ..
  · exact Wr.check_grows (.ok (State.setEntry_grows ..))
  · exact State.commitFirmware_grows ..
  · exact .ok (State.updRequester_grows ..)
  · exact State.writeBreak_grows ..
  · exact .no _

theorem Stack.wf_current {st : Stack} (e : DieEnv) (line : Nat) (h : st.wf = true) : (st.current e line).wf = true := by
  unfold Stack.current
  split
  · exact h
  · split
    · split
      · exact Stack.wf_store _ _ (Stack.wf_of_eq h rfl rfl)
      · exact Stack.wf_leave _ _ h
    · exact Stack.wf_dramRead _ _ h

theorem Stack.wf_installAt {st : Stack} (e : DieEnv) (w line : Nat) (h : st.wf = true) : (st.installAt e w line).wf = true :=
  Stack.wf_of_eq (Stack.wf_current { e with threshold := 0 } line h) rfl rfl

theorem State.writeRemap_grows (s : State) (k : Nat) (bs : List Byte) : Wr.Grows s (s.writeRemap k bs) := by
  unfold State.writeRemap
  extract_lets st l e st'
  have installed : Memory.wf s.mem = true → st'.wf = true := fun h => by
    refine Stack.wf_foldl (fun st v hs => ?_) l st (Memory.wf_stack k h)
    split
    · exact Stack.wf_installAt _ _ _ hs
    · exact hs
  split
  · exact .no _
  · exact .ok (.after (State.setSize_grows ..) (.after (State.freedFrom_grows ..) (State.withMem_grows _ _ _ (fun h =>
      Memory.wf_fresh _ (Memory.wf_setStack k h (installed h))))))

theorem State.writeObject_grows (s : State) (who : Requester) (r : Row) (i : Nat) (bs : List Byte) :
    Wr.Grows s (s.writeObject who r i bs) := by
  unfold State.writeObject
  split
  · exact State.writeRemap_grows ..
  · exact State.writeRoutes_grows ..
  · exact .ok (.after (State.wakeBudgets_grows ..) (State.setObject_grows ..))
  · exact .ok (.after (State.wakeBudgets_grows ..) (State.setObject_grows ..))
  · exact State.writeVariants_grows ..
  · exact State.writeChunk_grows ..
  · exact State.writeSpdm_grows ..
  · exact State.writeSanitise_grows ..
  · exact .no _

theorem State.writeNum_grows (s : State) (who : Requester) (r : Row) (i v : Nat) : Wr.Grows s (s.writeNum who r i v) := by
  unfold State.writeNum
  split
  · exact State.writeNumA_grows ..
  · split
    · exact State.writeNumB_grows ..
    · exact State.writeNumC_grows ..

theorem State.stageWindow_grows (s : State) (who : Requester) (m : DictMsg) (max : Nat) (apply : State → List Byte → Wr)
    (h : ∀ s bs, Wr.Grows s (apply s bs)) : Wr.Grows s (s.stageWindow who m max apply) := by
  unfold State.stageWindow
  dsimp only
  split
  · exact .no _
  · split
    · exact .no _
    · split
      · exact .after (h ..) (State.updRequester_grows ..)
      · exact .ok (State.updRequester_grows ..)

theorem State.writeMsg_grows (s : State) (who : Requester) (m : DictMsg) : Wr.Grows s (s.writeMsg who m) := by
  unfold State.writeMsg
  split
  · exact .no _
  · split
    · exact .no _
    · dsimp only
      split
      · exact .no _
      · split
        · exact .no _
        · split
          · exact .no _
          · split
            · split
              · exact .no _
              · split
                · exact .no _
                · exact State.writeNum_grows ..
            · exact .no _
            · refine State.stageWindow_grows _ _ _ _ _ ?_
              intro s bs
              split
              · exact .no _
              · exact State.writeObject_grows ..

theorem State.sendResp_grows (s : State) (who : Requester) (resp : List Byte) : Grows s (s.sendResp who resp) := by
  unfold State.sendResp
  split
  · exact .after (State.irq_grows ..) (State.emit_grows ..)
  · exact State.emit_grows ..

theorem State.answer_grows (s : State) (who : Requester) (seq : Nat) (resp : List Byte) : Grows s (s.answer who seq resp) := by
  unfold State.answer
  exact .after (State.sendResp_grows ..) (.put (.refl _))

theorem State.readObject_grows (s : State) (who : Requester) (m : DictMsg) (r : Row) (obj : List Byte) :
    Grows s (s.readObject who m r obj).2.2 := by
  unfold State.readObject
  dsimp only
  split
  · dsimp only
    split
    · exact .put (.refl _)
    · exact .refl _
  · split
    · dsimp only
      split
      · exact .put (.refl _)
      · exact .refl _
    · split
      · exact .put (.refl _)
      · split
        · exact .refl _
        · split
          · split
            · exact .refl _
            · exact .refl _
          · exact .refl _

theorem State.readMsg_grows (s : State) (who : Requester) (m : DictMsg) : Grows s (s.readMsg who m).2.2 := by
  unfold State.readMsg
  split
  · exact .refl _
  · split
    · exact .refl _
    · dsimp only
      split
      · exact .refl _
      · split
        · exact State.readObject_grows ..
        · exact .refl _

theorem State.dropStaging_grows (s : State) (who : Requester) (m : DictMsg) (result : Nat) :
    Grows s (s.dropStaging who m result) := by
  unfold State.dropStaging
  split
  · split
    · split
      · exact .refl _
      · exact State.updRequester_grows ..
    · exact .refl _
  · exact .refl _

theorem State.performWrite_grows (s : State) (who : Requester) (m : DictMsg) : Grows s (s.performWrite who m) := by
  unfold State.performWrite
  split
  · exact State.answer_grows ..
  · split
    · exact .after (State.answer_grows ..) (State.dropStaging_grows ..)
    · exact .after (State.answer_grows ..) (Wr.Grows.of_ok ‹_› (State.writeMsg_grows ..))
    · exact .put (.after (State.sealBase_grows ..) (Wr.Grows.of_stored ‹_› (State.writeMsg_grows ..)))

theorem State.perform_grows (s : State) (who : Requester) (m : DictMsg) : Grows s (s.perform who m) := by
  unfold State.perform
  split
  · exact State.sendResp_grows ..
  · split
    · split
      exact .after (State.answer_grows ..) (.trd ‹_› (State.readMsg_grows ..))
    · split
      · exact State.performWrite_grows ..
      · split
        · exact State.answer_grows ..
        · exact State.answer_grows ..

theorem State.take_grows (s : State) (who : Requester) (msg : List Byte) : Grows s (s.take who msg) := by
  unfold State.take
  dsimp only
  split
  · split
    · exact .put (.refl _)
    · exact .refl _
  · refine .after (State.perform_grows ..) ?_
    split
    · exact .put (.refl _)
    · exact .refl _

theorem State.drainQueue_grows (n : Nat) (s : State) : Grows s (State.drainQueue n s) := by
  induction n generalizing s with
  | zero =>
    unfold State.drainQueue
    exact .refl _
  | succ n ih =>
    unfold State.drainQueue
    split
    · exact .after (ih ..) (.after (State.take_grows ..) (.put (.refl _)))
    · exact .refl _

theorem State.arrive_grows (s : State) (who : Requester) (msg : List Byte) : Grows s (s.arrive who msg) := by
  unfold State.arrive
  dsimp only
  split
  · split
    · exact .refl _
    · split
      · exact State.take_grows ..
      · split
        · exact .put (.refl _)
        · exact .put (.refl _)
  · split
    · exact .refl _
    · split
      · split
        · exact .refl _
        · exact State.sendResp_grows ..
      · split
        · exact State.take_grows ..
        · split
          · exact .refl _
          · exact .put (.refl _)

theorem State.request_grows (s : State) (who : Requester) (msg : List Byte) (mine : DictMsg → Bool) :
    Grows s (s.request who msg mine) := by
  unfold State.request
  split
  · exact State.arrive_grows ..
  · exact .refl _

theorem execDictRead_advances (sender : Sender) (msg : List Byte) (s : State) : Advances s (execDictRead sender msg s) := by
  unfold execDictRead
  refine .next ?_
  split
  · exact State.request_grows ..
  · exact .refl _

theorem execDictWrite_advances (sender : Sender) (msg : List Byte) (s : State) : Advances s (execDictWrite sender msg s) := by
  unfold execDictWrite
  refine .next ?_
  split
  · exact State.request_grows ..
  · exact .refl _

theorem execIdentify_advances (sender : Sender) (msg : List Byte) (s : State) : Advances s (execIdentify sender msg s) := by
  unfold execIdentify
  refine .next ?_
  split
  · exact State.request_grows ..
  · exact .refl _

theorem execNeighbourDiscovery_advances (target : Nat) (s : State) : Advances s (execNeighbourDiscovery target s) := by
  unfold execNeighbourDiscovery
  split
  · exact .next (State.emit_grows ..)
  · exact .next (.refl _)

theorem execStoredEntryCommit_advances (s : State) : Advances s (execStoredEntryCommit s) := by
  unfold execStoredEntryCommit
  split
  · exact .next (.refl _)
  · split
    · exact .next (.refl _)
    · dsimp only
      refine .next (.after (State.drainQueue_grows ..) (.after (State.answer_grows ..) (.put ?_)))
      split
      · exact State.cairn_grows ..
      · exact .refl _

theorem execStoredMode_advances (who : Requester) (msg : List Byte) (s : State) : Advances s (execStoredMode who msg s) := by
  unfold execStoredMode
  exact .next (State.request_grows ..)

theorem execNodeNumber_advances (who : Requester) (msg : List Byte) (s : State) : Advances s (execNodeNumber who msg s) := by
  unfold execNodeNumber
  exact .next (State.request_grows ..)

theorem execRole_advances (who : Requester) (msg : List Byte) (s : State) : Advances s (execRole who msg s) := by
  unfold execRole
  exact .next (State.request_grows ..)

theorem execBreakSlot_advances (who : Requester) (msg : List Byte) (s : State) : Advances s (execBreakSlot who msg s) := by
  unfold execBreakSlot
  exact .next (State.request_grows ..)

theorem execAccept0_advances (who : Requester) (msg : List Byte) (s : State) : Advances s (execAccept0 who msg s) := by
  unfold execAccept0
  exact .next (State.request_grows ..)

theorem execInterleave_advances (who : Requester) (msg : List Byte) (s : State) : Advances s (execInterleave who msg s) := by
  unfold execInterleave
  exact .next (State.request_grows ..)

theorem execCap_advances (who : Requester) (msg : List Byte) (s : State) : Advances s (execCap who msg s) := by
  unfold execCap
  exact .next (State.request_grows ..)

theorem execSuspectClear_advances (who : Requester) (msg : List Byte) (s : State) :
    Advances s (execSuspectClear who msg s) := by
  unfold execSuspectClear
  exact .next (State.request_grows ..)

theorem execCeLogClear_advances (who : Requester) (msg : List Byte) (s : State) : Advances s (execCeLogClear who msg s) := by
  unfold execCeLogClear
  exact .next (State.request_grows ..)

theorem execRemap_advances (who : Requester) (msg : List Byte) (s : State) : Advances s (execRemap who msg s) := by
  unfold execRemap
  exact .next (State.request_grows ..)

theorem execMapout_advances (who : Requester) (msg : List Byte) (s : State) : Advances s (execMapout who msg s) := by
  unfold execMapout
  exact .next (State.request_grows ..)

theorem execPortCtl_advances (who : Requester) (msg : List Byte) (s : State) : Advances s (execPortCtl who msg s) := by
  unfold execPortCtl
  exact .next (State.request_grows ..)

theorem execRoutes_advances (who : Requester) (msg : List Byte) (s : State) : Advances s (execRoutes who msg s) := by
  unfold execRoutes
  exact .next (State.request_grows ..)

theorem execFwChunk_advances (who : Requester) (msg : List Byte) (s : State) : Advances s (execFwChunk who msg s) := by
  unfold execFwChunk
  exact .next (State.request_grows ..)

theorem execFwCommit_advances (who : Requester) (msg : List Byte) (s : State) : Advances s (execFwCommit who msg s) := by
  unfold execFwCommit
  exact .next (State.request_grows ..)

theorem execSvnFloor_advances (who : Requester) (msg : List Byte) (s : State) : Advances s (execSvnFloor who msg s) := by
  unfold execSvnFloor
  exact .next (State.request_grows ..)

theorem execNextGrade_advances (who : Requester) (msg : List Byte) (s : State) : Advances s (execNextGrade who msg s) := by
  unfold execNextGrade
  exact .next (State.request_grows ..)

theorem execClear_advances (who : Requester) (msg : List Byte) (s : State) : Advances s (execClear who msg s) := by
  unfold execClear
  exact .next (State.request_grows ..)

theorem execBudgetCtl_advances (who : Requester) (msg : List Byte) (s : State) : Advances s (execBudgetCtl who msg s) := by
  unfold execBudgetCtl
  exact .next (State.request_grows ..)

theorem execSanitise_advances (who : Requester) (msg : List Byte) (s : State) : Advances s (execSanitise who msg s) := by
  unfold execSanitise
  exact .next (State.request_grows ..)

theorem execScratch_advances (who : Requester) (msg : List Byte) (s : State) : Advances s (execScratch who msg s) := by
  unfold execScratch
  exact .next (State.request_grows ..)

theorem execMatrix_advances (who : Requester) (msg : List Byte) (s : State) : Advances s (execMatrix who msg s) := by
  unfold execMatrix
  exact .next (State.request_grows ..)

theorem execVector_advances (who : Requester) (msg : List Byte) (s : State) : Advances s (execVector who msg s) := by
  unfold execVector
  exact .next (State.request_grows ..)

theorem execStackEngine_advances (who : Requester) (msg : List Byte) (s : State) : Advances s (execStackEngine who msg s) := by
  unfold execStackEngine
  exact .next (State.request_grows ..)

theorem execCodec_advances (who : Requester) (msg : List Byte) (s : State) : Advances s (execCodec who msg s) := by
  unfold execCodec
  exact .next (State.request_grows ..)

theorem execDramScrub_advances (who : Requester) (msg : List Byte) (s : State) : Advances s (execDramScrub who msg s) := by
  unfold execDramScrub
  exact .next (State.request_grows ..)

theorem execDramMarch_advances (who : Requester) (msg : List Byte) (s : State) : Advances s (execDramMarch who msg s) := by
  unfold execDramMarch
  exact .next (State.request_grows ..)

theorem execTestSpar_advances (who : Requester) (msg : List Byte) (s : State) : Advances s (execTestSpar who msg s) := by
  unfold execTestSpar
  exact .next (State.request_grows ..)

theorem execTestFabricPort_advances (who : Requester) (msg : List Byte) (s : State) :
    Advances s (execTestFabricPort who msg s) := by
  unfold execTestFabricPort
  exact .next (State.request_grows ..)

theorem execTether_advances (who : Requester) (msg : List Byte) (s : State) : Advances s (execTether who msg s) := by
  unfold execTether
  exact .next (State.request_grows ..)

theorem execCalSpar_advances (who : Requester) (msg : List Byte) (s : State) : Advances s (execCalSpar who msg s) := by
  unfold execCalSpar
  exact .next (State.request_grows ..)

theorem execSensor_advances (who : Requester) (msg : List Byte) (s : State) : Advances s (execSensor who msg s) := by
  unfold execSensor
  exact .next (State.request_grows ..)

theorem execCalFabricPort_advances (who : Requester) (msg : List Byte) (s : State) :
    Advances s (execCalFabricPort who msg s) := by
  unfold execCalFabricPort
  exact .next (State.request_grows ..)

theorem execTestCancel_advances (who : Requester) (msg : List Byte) (s : State) : Advances s (execTestCancel who msg s) := by
  unfold execTestCancel
  exact .next (State.request_grows ..)

theorem State.cold_grows (s : State) (ph : Phase) : Grows s (s.cold ph) := by
  unfold State.cold
  exact .putMem (.refl _) (fun _ => Memory.wf_stacks _ Stack.wf_cold)

theorem State.oldStored_grows (s : State) (key old : Nat) : Grows s (s.oldStored key old) := by
  unfold State.oldStored
  split
  · exact .putNv (.refl _) ⟨rfl, ⟨rfl, rfl, rfl⟩, le_rfl, le_rfl⟩
  · split
    · exact .putNv (.refl _) ⟨rfl, ⟨rfl, rfl, rfl⟩, le_rfl, le_rfl⟩
    · split
      · exact .putNv (.refl _) ⟨rfl, ⟨rfl, rfl, rfl⟩, le_rfl, le_rfl⟩
      · split
        · exact .putNv (.refl _) ⟨rfl, ⟨rfl, rfl, rfl⟩, le_rfl, le_rfl⟩
        · exact .putMem (.refl _) (fun h => Memory.wf_setStack _ h (Stack.wf_of_eq (Memory.wf_stack _ h) rfl rfl))

theorem State.restoreStored_grows (s : State) (key old : Nat) : Grows s (s.restoreStored key old) := by
  unfold State.restoreStored
  exact .after (State.sealBase_grows ..) (State.oldStored_grows ..)

theorem State.loseFlash_grows (s : State) : Grows s s.loseFlash := by
  unfold State.loseFlash
  split
  · exact .refl _
  · dsimp only
    refine .putMem ?_ ?_
    · split
      · split
        · exact .after (State.cairnVoid_grows ..) (State.restoreStored_grows ..)
        · exact State.restoreStored_grows ..
      · split
        · exact State.cairnVoid_grows ..
        · exact .refl _
    · exact id

theorem State.commitInterval_grows (s : State) (type : Nat) : Grows s (s.commitInterval type) := by
  unfold State.commitInterval
  exact .put (State.cairn_grows ..)

theorem execPeriodic_advances (s : State) : Advances s (execPeriodic s) := by
  unfold execPeriodic
  split
  · exact .next (.refl _)
  · dsimp only
    split
    · exact .next (.put (.refl _))
    · exact .next (.after (State.commitInterval_grows ..) (.put (.refl _)))

theorem State.shutDone_grows (s : State) : Grows s s.shutDone := by
  unfold State.shutDone
  exact .putNv (.refl _) ⟨rfl, ⟨rfl, rfl, rfl⟩, le_rfl, le_rfl⟩

theorem State.stopDies_grows (s : State) : Grows s s.stopDies := by
  unfold State.stopDies
  exact .putMem (.refl _) (fun _ => Memory.wf_stacks _ Stack.wf_stopped)

theorem State.beginShutdown_grows (s : State) : Grows s s.beginShutdown := by
  unfold State.beginShutdown
  dsimp only
  exact .after (Grows.foldl (fun s x => State.kernelFault_grows ..) _ _) (.put (.refl _))

theorem State.flushStacks_grows (s : State) : Grows s s.flushStacks := by
  unfold State.flushStacks
  refine State.withMem_grows _ _ _ (fun h => ?_)
  have flushed (l : Table Stack) (m : MemSys) (hl : ∀ k ∈ l, k.2.wf = true) (hm : Memory.wf m = true) :
      Memory.wf (l.foldl (fun m k => { m.setStack k.1 (k.2.flush ⟨m.fresh, s.start.periods, s.threshold⟩) with fresh := m.fresh + 1 }) m) =
        true := by
    induction l generalizing m with
    | nil => exact hm
    | cons k l ih =>
      refine ih _ (fun k hk => hl k (List.mem_cons_of_mem _ hk)) ?_
      exact Memory.wf_fresh _ (Memory.wf_setStack _ hm (Stack.wf_flush _ (hl k List.mem_cons_self)))
  exact flushed _ _ ((Memory.wf_iff _).1 h).1 h

theorem execOrderlyShutdown_advances (s : State) : Advances s (execOrderlyShutdown s) := by
  unfold execOrderlyShutdown
  dsimp only
  split
  · exact .next (.after (State.beginShutdown_grows ..) (.put (.refl _)))
  · exact .next (.after (State.shutDone_grows ..) (.put (.refl _)))
  · exact .next (.put (.refl _))
  · exact .next (.put (.refl _))

theorem execShutdownDone_advances (s : State) : Advances s (execShutdownDone s) := by
  unfold execShutdownDone
  split
  · refine .next (.after (State.shutDone_grows ..) ?_)
    exact .after (State.stopDies_grows ..) (.after (State.commitInterval_grows ..) (State.flushStacks_grows ..))
  · exact .next (.refl _)

theorem State.stageDone_grows (s : State) (n : Nat) : Grows s (s.stageDone n) := by
  unfold State.stageDone
  exact .put (.refl _)

theorem State.stopStart_grows (s : State) (cause : Nat) : Grows s (s.stopStart cause) := by
  unfold State.stopStart
  dsimp only
  split
  · exact .after (State.shutDone_grows ..) (.put (.refl _))
  · exact .put (.refl _)

theorem State.beginStart_grows (s : State) : Grows s s.beginStart := by
  have begun : Grows s { s.cold (.done 1) with mem := (s.cold (.done 1)).mem.coresFree } :=
    .after (.putMem (.refl _) Memory.wf_coresFree) (s.cold_grows (.done 1))
  exact .keepNv (n := { s.nv with starts := s.nv.starts + 1, grade := s.nv.nextGrade }) (.put begun)
    ⟨rfl, ⟨rfl, rfl, rfl⟩, le_rfl, Nat.le_succ _⟩

theorem execColdStart_advances (s : State) : Advances s (execColdStart s) := by
  unfold execColdStart
  split
  · exact .next (.refl _)
  · dsimp only
    split
    · exact .next (.after (State.beginStart_grows ..) (.put (.refl _)))
    · exact .next (.put (.refl _))

theorem execPllLock_advances (s : State) : Advances s (execPllLock s) := by
  unfold execPllLock
  split
  · exact .next (State.stageDone_grows ..)
  · exact .next (.refl _)

theorem execPllLockTimeout_advances (s : State) : Advances s (execPllLockTimeout s) := by
  unfold execPllLockTimeout
  split
  · exact .next (State.stopStart_grows ..)
  · exact .next (.refl _)

theorem State.bootFirmware_grows (s : State) : Grows s s.bootFirmware := by
  unfold State.bootFirmware
  dsimp only
  split
  · exact .after (State.stageDone_grows ..) (.put (.refl _))
  · split
    · exact .after (State.stageDone_grows ..) (.put (.refl _))
    · exact .after (State.stopStart_grows ..) (.putNv (.refl _) ⟨rfl, ⟨rfl, rfl, rfl⟩, le_rfl, le_rfl⟩)

theorem execFirmwareBoot_advances (s : State) : Advances s (execFirmwareBoot s) := by
  unfold execFirmwareBoot
  split
  · exact .next (State.bootFirmware_grows ..)
  · exact .next (.refl _)

theorem State.applyDefault_grows (s : State) (key v : Nat) : Grows s (s.applyDefault key v) := by
  unfold State.applyDefault
  dsimp only
  refine .ite (fun _ => .after (State.sealBase_grows ..) (.putMem (.refl _) (fun h =>
    Memory.wf_setStack _ h (Stack.wf_of_eq (Memory.wf_stack _ h) rfl rfl)))) (fun _ => ?_)
  refine .ite (fun _ => .refl _) (fun _ => ?_)
  iterate 7 refine .ite (fun _ => State.updPart_grows ..) (fun _ => ?_)
  refine .ite (fun _ => State.updPort_grows ..) (fun _ => ?_)
  iterate 3 refine .ite (fun _ => State.updPart_grows ..) (fun _ => ?_)
  exact .put (.refl _)

theorem execConfigImageApply_advances (s : State) : Advances s (execConfigImageApply s) := by
  unfold execConfigImageApply
  split
  · exact .next (.refl _)
  · split
    · dsimp only
      refine .next (.after (State.stageDone_grows ..) ?_)
      exact .after (Grows.foldl (fun s x => State.applyDefault_grows ..) _ _) (.put (.refl _))
    · dsimp only
      refine .next (.after (State.stopStart_grows ..) ?_)
      refine .putMem ?_ ?_
      · exact State.cairn_grows ..
      · exact id

theorem execTetherTraining_advances (downStacks : Nat) (failedLanes : List (Nat × Nat)) (s : State) :
    Advances s (execTetherTraining downStacks failedLanes s) := by
  unfold execTetherTraining
  split
  · exact .next (.refl _)
  · extract_lets mapped down m lanes m'
    have mapsOut : Memory.wf s.mem = true → Memory.wf m = true := Memory.wf_foldl (fun m k hm => by
      refine Memory.wf_setStack _ hm ?_
      exact Stack.wf_of_eq (Memory.wf_stack k hm) rfl rfl) _ _
    have failed : Memory.wf s.mem = true → Memory.wf m' = true := fun h =>
      Memory.wf_foldl (fun m v hm => Memory.wf_setStack _ hm (Stack.wf_failChannel _ (Memory.wf_stack _ hm))) _ _ (mapsOut h)
    clear_value m'
    exact .next (.after (State.stageDone_grows ..) (.after (State.sealBase_grows ..) (.putMem (.refl _) failed)))

theorem execSparTraining_advances (failedLinks : Nat) (s : State) : Advances s (execSparTraining failedLinks s) := by
  unfold execSparTraining
  split
  · exact .next (.refl _)
  · dsimp only
    refine .next (.after (State.stageDone_grows ..) ?_)
    refine .after (Grows.foldl (fun s x => ?_) _ _) ?_
    · exact State.portTrain_grows ..
    · split
      · exact .put (.after (Grows.foldl (fun s x => State.updPart_grows ..) _ _) (.put (.refl _)))
      · exact .after (Grows.foldl (fun s x => State.updPart_grows ..) _ _) (.put (.refl _))

theorem State.startRecords_grows (s : State) : Grows s s.startRecords := by
  unfold State.startRecords
  extract_lets t one status s1 marked nv1 s2 lost nv2 s3 s4 s5 nv3 s6
  have start : Grows s s1 := State.cairn_grows ..
  have marker : Grows s s2 := start.trans (.ite (fun _ => .refl _) (fun _ =>
    .putNv (s1.cairn_grows 6 _) ⟨rfl, ⟨rfl, rfl, rfl⟩, le_rfl, le_rfl⟩))
  have latch : Grows s s3 := marker.trans (.ite (fun _ => .putNv (s2.cairn_grows 0x0E _) ⟨rfl, ⟨rfl, rfl, rfl⟩, le_rfl, le_rfl⟩)
    (fun _ => .refl _))
  have fallback : Grows s s4 := latch.trans (.ite (fun _ => State.cairn_grows ..) (fun _ => .refl _))
  have mode : Grows s s5 := fallback.trans (.ite (fun _ => State.cairn_grows ..) (fun _ => .refl _))
  have last : Grows s s6 := .putNv mode ⟨rfl, ⟨rfl, rfl, rfl⟩, le_rfl, le_rfl⟩
  clear_value s6
  exact .after (Grows.foldl (fun s v => State.cairn_grows ..) _ _) (.after (Grows.foldl (fun s v => State.cairn_grows ..) _ _)
    (.after (Grows.foldl (fun s v => State.cairn_grows ..) _ _) (.after (Grows.foldl (fun s v => State.cairn_grows ..) _ _) last)))

theorem execDictionaryLive_advances (s : State) : Advances s (execDictionaryLive s) := by
  unfold execDictionaryLive
  split
  · exact .next (.refl _)
  · dsimp only
    refine .next ?_
    split
    · exact .after (State.beginShutdown_grows ..) (.put (State.startRecords_grows ..))
    · exact .put (State.startRecords_grows ..)

theorem NonVolatile.ends_keeps (nv : NonVolatile) (code : Nat) :
    nv.Keeps (nv.ends code) := ⟨rfl, ⟨rfl, rfl, rfl⟩, le_rfl, le_rfl⟩

theorem NonVolatile.ite_ends_keeps (nv : NonVolatile) (c : Prop) [Decidable c] (code : Nat) :
    nv.Keeps (if c then nv.ends code else nv) := by
  split
  · exact NonVolatile.ends_keeps ..
  · exact .refl _

theorem execRailFault_advances (loss : RailLoss) (s : State) (h : loss.beyondMax = false) :
    Advances s (execRailFault loss s) := by
  unfold execRailFault
  rw [if_neg (by simp [h])]
  have lost := s.loseFlash_grows
  refine .next (.put (.after (State.cold_grows ..) (.put (.trans lost (.keepNv (.refl _) ?_)))))
  exact .trans (NonVolatile.ite_ends_keeps ..) ⟨rfl, ⟨rfl, rfl, rfl⟩, le_rfl, le_rfl⟩

theorem execRailReturn_advances (s : State) : Advances s (execRailReturn s) := by
  unfold execRailReturn
  split
  · exact .next (.refl _)
  · dsimp only
    refine .next ?_
    split
    · exact .after (State.beginStart_grows ..) (.put (.refl _))
    · exact .put (.refl _)

theorem execResetAssert_advances (s : State) : Advances s (execResetAssert s) := by
  unfold execResetAssert
  split
  · exact .next (.refl _)
  · exact .next (.after (State.cold_grows ..) (.put (.trans s.loseFlash_grows (.keepNv (.refl _) (NonVolatile.ite_ends_keeps ..)))))

theorem execPerstAssert_advances (s : State) : Advances s (execPerstAssert s) := by
  unfold execPerstAssert
  dsimp only
  refine .next ?_
  split
  · refine .after (State.clearAccept_grows ..) ?_
    split
    · exact .after (State.disableAll_grows ..) (.after (State.loseHost_grows ..) (.put (.refl _)))
    · exact .after (State.loseHost_grows ..) (.put (.refl _))
  · split
    · exact .after (State.disableAll_grows ..) (.after (State.loseHost_grows ..) (.put (.refl _)))
    · exact .after (State.loseHost_grows ..) (.put (.refl _))

theorem execPerstRelease_advances (s : State) : Advances s (execPerstRelease s) := by
  unfold execPerstRelease
  split
  · exact .next (.refl _)
  · dsimp only
    refine .next ?_
    split
    · exact .put (.refl _)
    · exact .put (.refl _)

theorem State.pllLost_grows (s : State) (domain : Nat) : Grows s (s.pllLost domain) := by
  unfold State.pllLost
  exact .after (State.stopDies_grows ..) (.putNv (State.cairn_grows ..) ⟨rfl, ⟨rfl, rfl, rfl⟩, le_rfl, le_rfl⟩)

theorem execPllLoss_advances (domain : Nat) (s : State) : Advances s (execPllLoss domain s) := by
  unfold execPllLoss
  dsimp only
  split
  · split
    · exact .next (.refl _)
    · split
      · refine .next ?_
        exact .after (State.stopDies_grows ..) (.putNv (State.loseFlash_grows ..) ⟨rfl, ⟨rfl, rfl, rfl⟩, le_rfl, le_rfl⟩)
      · exact .next (State.pllLost_grows ..)
  · split
    · exact .next (.refl _)
    · split
      · refine .next ?_
        exact .after (State.stopDies_grows ..) (.putNv (State.loseFlash_grows ..) ⟨rfl, ⟨rfl, rfl, rfl⟩, le_rfl, le_rfl⟩)
      · exact .next (State.pllLost_grows ..)
  · split
    · exact .next (.refl _)
    · split
      · refine .next ?_
        exact .after (State.stopDies_grows ..) (.putNv (State.loseFlash_grows ..) ⟨rfl, ⟨rfl, rfl, rfl⟩, le_rfl, le_rfl⟩)
      · exact .next (State.pllLost_grows ..)
  · split
    · exact .next (.refl _)
    · split
      · refine .next ?_
        exact .after (State.stopDies_grows ..) (.putNv (State.loseFlash_grows ..) ⟨rfl, ⟨rfl, rfl, rfl⟩, le_rfl, le_rfl⟩)
      · exact .next (State.pllLost_grows ..)

theorem State.tripPart_grows (s : State) (n : Nat) : Grows s (s.tripPart n) := by
  unfold State.tripPart
  dsimp only
  refine .after (State.stopDies_grows ..) ?_
  split
  · refine .after (State.loseFlash_grows ..) (.putNv ?_ ⟨rfl, ⟨rfl, rfl, rfl⟩, le_rfl, le_rfl⟩)
    exact .after (State.cairn_grows ..) (.put (.refl _))
  · exact .putNv (.after (State.cairn_grows ..) (.put (.refl _))) ⟨rfl, ⟨rfl, rfl, rfl⟩, le_rfl, le_rfl⟩

theorem State.governSteps_grows (s : State) (rails : List (Nat × Nat)) : Grows s (s.governSteps rails) := by
  unfold State.governSteps
  dsimp only
  exact .after (Grows.foldl (fun s x => State.updEngine_grows ..) _ _) (.put (.refl _))

theorem State.setRefresh_grows (s : State) : Grows s s.setRefresh := by
  unfold State.setRefresh
  refine .putMem (.refl _) (Memory.wf_foldl (fun m k hm => ?_) _ _)
  extract_lets hot st on
  clear_value on
  split
  · exact hm
  · exact Memory.wf_setStack _ hm (Stack.wf_of_eq (Memory.wf_stack k hm) rfl rfl)

theorem State.countRound_grows (s : State) : Grows s s.countRound := by
  unfold State.countRound
  exact .put (.refl _)

theorem execHousekeepingRound_advances (temps : List Int) (rails : List (Nat × Nat)) (s : State) :
    Advances s (execHousekeepingRound temps rails s) := by
  unfold execHousekeepingRound
  split
  · exact .next (.refl _)
  · dsimp only
    split
    · refine .next (.after (State.tripPart_grows ..) (.put ?_))
      split
      · exact .put (.refl _)
      · exact .refl _
    · refine .next ?_
      split
      · refine .after (State.countRound_grows ..) ?_
        exact .after (State.setRefresh_grows ..) (.after (State.governSteps_grows ..) (.put (.put (.refl _))))
      · exact .after (State.setRefresh_grows ..) (.after (State.governSteps_grows ..) (.put (.refl _)))

theorem execClassAWindow_advances (cdie amps : Nat) (s : State) : Advances s (execClassAWindow cdie amps s) := by
  unfold execClassAWindow
  split
  · exact .next (.refl _)
  · exact .next (Grows.foldl (fun s x => State.updCore_grows ..) _ _)

theorem execDroguePause_advances (stack : Nat) (s : State) : Advances s (execDroguePause stack s) := by
  unfold execDroguePause
  split
  · exact .next (State.updEngine_grows ..)
  · exact .next (.refl _)

theorem execDrainedRequestStart_advances (part : Nat) (calibration : Bool) (s : State) :
    Advances s (execDrainedRequestStart part calibration s) := by
  unfold execDrainedRequestStart
  dsimp only
  split
  · exact .next (.refl _)
  · split
    · exact .next (.refl _)
    · split
      · exact .next (State.updTu_grows ..)
      · refine .next (.after (State.holdUnit_grows ..) (.after (State.updTu_grows ..) ?_))
        split
        · exact State.portLost_grows ..
        · exact .refl _

theorem State.testEffect_grows (s : State) (item u piece : Nat) (bad : List Nat) : Grows s (s.testEffect item u piece bad) := by
  unfold State.testEffect
  dsimp only
  split
  · exact .after (State.updCore_grows ..) (.putMem (.refl _) (Memory.wf_scratchFree u))
  · exact State.updCore_grows ..
  · exact .after (State.updCore_grows ..) (.putMem (.refl _) (id))
  · exact State.updEngine_grows ..
  · refine State.withMem_grows _ _ _ (fun h => ?_)
    have hm := Memory.wf_scrub s.start.periods s.threshold u piece h
    exact Memory.wf_setStack _ hm (Stack.wf_foundBad _ (Memory.wf_stack u hm))
  · exact State.withMem_grows _ _ _ (Memory.wf_march _ _ _ _)
  · exact .refl _

theorem State.testFailure_grows (s : State) (k : UnitKind) (tether : Bool) (u : Nat) (fails : List (Nat × Nat × Nat)) :
    Grows s (s.testFailure k tether u fails) := by
  unfold State.testFailure
  split
  · exact .refl _
  · split
    · exact State.pllLost_grows ..
    · split
      · exact Grows.foldl (fun s x => State.updStack_grows_of_wf _ _ _ _ (fun st h => Stack.wf_failChannel _ h)) _ _
      · exact .refl _

theorem State.testFree_grows (s : State) (p : Nat) (held : List Nat) : Grows s (s.testFree p held) := by
  unfold State.testFree
  refine .after (Grows.foldl (fun s x => ?_) _ _) ?_
  · exact .after (State.wakeIdle_grows ..) (State.startPiecesIdle_grows ..)
  · exact State.startPiecesIdle_grows ..

theorem execTestPieceDone_advances (part : Nat) (calibration last : Bool) (fails : List (Nat × Nat × Nat)) (s : State) :
    Advances s (execTestPieceDone part calibration last fails s) := by
  unfold execTestPieceDone
  extract_lets t item u march held bad last before s1 fails' s2 ended
  split
  · exact .next (.refl _)
  · extract_lets runs s3 power s4 s5 s6
    split
    · exact .next (.refl _)
    · split
      · exact .next (State.sendSnoops_grows ..)
      · have effect : Grows s s1 := .ite (fun _ => .refl _) (fun _ => State.testEffect_grows ..)
        have counted : Grows s s2 := .after (State.updTu_grows ..) effect
        have freed : Grows s s3 := counted.trans (.ite (fun _ => State.holdUnit_grows ..) (fun _ => .refl _))
        have trimmed : Grows s s4 := freed.trans (.ite (fun _ => .put (.refl _)) (fun _ => .refl _))
        have trained : Grows s s5 := trimmed.trans (.ite (fun _ => State.portTrain_grows ..) (fun _ => .refl _))
        have failed : Grows s s6 := .after (State.testFailure_grows ..) trained
        exact .next (failed.trans (.ite (fun _ => State.testFree_grows ..) (fun _ => .refl _)))

theorem State.clearPart_grows (s : State) (p : Nat) : Grows s (s.clearPart p) := by
  unfold State.clearPart
  refine .after (State.updPart_grows ..) (.after (State.setDictVal_grows ..) ?_)
  refine .after (Grows.foldl (fun s x => State.updContext_grows ..) _ _) ?_
  refine .after (Grows.foldl (fun s x => State.updEngine_grows ..) _ _) ?_
  refine .after (Grows.foldl (fun s x => State.updCore_grows ..) _ _) (State.withMem_grows _ _ _ (fun h => ?_))
  refine Memory.wf_foldl (fun m c hm => Memory.wf_banksZero c (Memory.wf_scratchZero c hm)) _ _ ?_
  exact Memory.wf_foldl (fun m k hm => Memory.wf_fresh _ (Memory.wf_setStack k hm (Stack.wf_sanitised _ _ (Memory.wf_stack k hm)))) _ _ h

theorem State.certify_grows (s : State) (p : Nat) : Grows s (s.certify p) := by
  unfold State.certify
  exact .after (State.cairn_grows ..) (State.updPart_grows ..)

theorem execSanitiseDone_advances (part : Nat) (s : State) : Advances s (execSanitiseDone part s) := by
  unfold execSanitiseDone
  split
  · exact .next (.refl _)
  · dsimp only
    split
    · exact .next (.after (State.certify_grows ..) (State.clearPart_grows ..))
    · exact .next (State.sendSnoops_grows ..)

theorem State.attest_grows (s : State) (op : Nat) (who : Requester) (msg : List Byte) : Grows s (s.attest op who msg) := by
  unfold State.attest
  split
  · split
    · split
      exact .after (State.updRequester_grows ..) (.snd ‹_› (State.spdm_grows ..))
    · exact .refl _
  · split
    · split
      exact .after (State.irq_grows ..) (.after (State.emit_grows ..) (.snd ‹_› (State.spdm_grows ..)))
    · exact .refl _

theorem execGetVersion_advances (who : Requester) (msg : List Byte) (s : State) : Advances s (execGetVersion who msg s) := by
  unfold execGetVersion
  exact .next (State.attest_grows ..)

theorem execGetCapabilities_advances (who : Requester) (msg : List Byte) (s : State) :
    Advances s (execGetCapabilities who msg s) := by
  unfold execGetCapabilities
  exact .next (State.attest_grows ..)

theorem execNegotiateAlgorithms_advances (who : Requester) (msg : List Byte) (s : State) :
    Advances s (execNegotiateAlgorithms who msg s) := by
  unfold execNegotiateAlgorithms
  exact .next (State.attest_grows ..)

theorem execGetDigests_advances (who : Requester) (msg : List Byte) (s : State) : Advances s (execGetDigests who msg s) := by
  unfold execGetDigests
  exact .next (State.attest_grows ..)

theorem execGetCertificate_advances (who : Requester) (msg : List Byte) (s : State) :
    Advances s (execGetCertificate who msg s) := by
  unfold execGetCertificate
  exact .next (State.attest_grows ..)

theorem execChallenge_advances (who : Requester) (msg : List Byte) (s : State) : Advances s (execChallenge who msg s) := by
  unfold execChallenge
  exact .next (State.attest_grows ..)

theorem execGetMeasurements_advances (who : Requester) (msg : List Byte) (s : State) :
    Advances s (execGetMeasurements who msg s) := by
  unfold execGetMeasurements
  exact .next (State.attest_grows ..)

theorem execKeyExchange_advances (who : Requester) (msg : List Byte) (s : State) : Advances s (execKeyExchange who msg s) := by
  unfold execKeyExchange
  exact .next (State.attest_grows ..)

theorem execFinish_advances (who : Requester) (msg : List Byte) (s : State) : Advances s (execFinish who msg s) := by
  unfold execFinish
  exact .next (State.attest_grows ..)

theorem execEndSession_advances (who : Requester) (msg : List Byte) (s : State) : Advances s (execEndSession who msg s) := by
  unfold execEndSession
  exact .next (State.attest_grows ..)

theorem execHeartbeat_advances (who : Requester) (msg : List Byte) (s : State) : Advances s (execHeartbeat who msg s) := by
  unfold execHeartbeat
  exact .next (State.attest_grows ..)

theorem execDmaCopy_advances (core : Nat) (s : State) : Advances s (execDmaCopy core s) := by
  unfold execDmaCopy
  refine .next (State.engineStep_grows _ _ _ _ _ _ _ ?_)
  intro s r iss k
  refine nestBody_grows _ _ _ ?_ _ _ _ _
  intro e k iss ops n w
  exact Wk.Keeps.wf (copyWork_keeps ..)

theorem execDmaFill_advances (core : Nat) (s : State) : Advances s (execDmaFill core s) := by
  unfold execDmaFill
  refine .next (State.engineStep_grows _ _ _ _ _ _ _ ?_)
  intro s r iss k
  refine nestBody_grows _ _ _ ?_ _ _ _ _
  intro e k iss ops n w
  exact Wk.Keeps.wf (fillWork_keeps ..)

theorem execPortTrainRetry_advances (port : Nat) (s : State) : Advances s (execPortTrainRetry port s) := by
  unfold execPortTrainRetry
  split
  · exact .next (State.portTrain_grows ..)
  · exact .next (.refl _)

theorem execTrainingTimeout_advances (port : Nat) (s : State) : Advances s (execTrainingTimeout port s) := by
  unfold execTrainingTimeout
  split
  · exact .next (.after (State.freedFrom_grows ..) (.after (State.portStays_grows ..) (State.updPort_grows ..)))
  · exact .next (.refl _)

theorem execHello_advances (port node peerPort role : Nat) (s : State) : Advances s (execHello port node peerPort role s) := by
  unfold execHello
  dsimp only
  split
  · exact .next (.refl _)
  · refine .next (.after (State.emit_grows ..) ?_)
    split
    · exact .after (State.freedFrom_grows ..) (.after (State.portStays_grows ..) (State.setPort_grows ..))
    · exact State.setPort_grows ..

theorem execLinkLoss_advances (port : Nat) (s : State) : Advances s (execLinkLoss port s) := by
  unfold execLinkLoss
  split
  · exact .next (.after (State.freedFrom_grows ..) (State.portLost_grows ..))
  · exact .next (.refl _)

theorem execResponseTimeout_advances (part tag : Nat) (s : State) : Advances s (execResponseTimeout part tag s) := by
  unfold execResponseTimeout
  exact .next (.after (State.drainBacklogs_grows ..) (State.finishOp_grows ..))

theorem execFlitSend_advances (port : Nat) (s : State) : Advances s (execFlitSend port s) := by
  unfold execFlitSend
  split
  · split
    exact .next (.after (State.emit_grows ..) (State.setPort_grows ..))
  · exact .next (.refl _)

theorem State.replayPort_grows (s : State) (port : Nat) : Grows s (s.replayPort port) := by
  unfold State.replayPort
  dsimp only
  split
  · exact .refl _
  · split
    · exact .after (State.portLost_grows ..) (State.setPort_grows ..)
    · exact State.setPort_grows ..

theorem execReplayTimeout_advances (port : Nat) (s : State) : Advances s (execReplayTimeout port s) := by
  unfold execReplayTimeout
  split
  · exact .next (.after (State.freedFrom_grows ..) (State.replayPort_grows ..))
  · exact .next (.refl _)

theorem State.unreachable_grows (s : State) (p : Nat) (o : FabOp) : Grows s (s.unreachable p o) := by
  unfold State.unreachable
  split
  · exact State.respond_grows ..
  · split
    · exact State.respond_grows ..
    · exact .refl _

theorem State.forwardOp_grows (s : State) (p : Nat) (o : FabOp) : Grows s (s.forwardOp p o) := by
  unfold State.forwardOp
  split
  · exact State.unreachable_grows ..
  · split
    · exact State.sendOp_grows ‹_›
    · exact State.unreachable_grows ..

theorem State.receiveOp_grows (s : State) (port : Nat) (o : FabOp) : Grows s (s.receiveOp port o) := by
  unfold State.receiveOp
  dsimp only
  split
  · exact State.updPort_grows ..
  · split
    · exact .after (State.updPort_grows ..) (State.updPort_grows ..)
    · exact .after (State.forwardOp_grows ..) (State.updPort_grows ..)

theorem State.acceptFlit_grows (s : State) (port f : Nat) : Grows s (s.acceptFlit port f) := by
  unfold State.acceptFlit
  dsimp only
  exact .after (Grows.foldl (fun s x => State.receiveOp_grows ..) _ _) (State.setPort_grows ..)

theorem execFlitReceive_advances (port : Nat) (fecOk : Bool) (flit : BitVec 2048) (s : State) :
    Advances s (execFlitReceive port fecOk flit s) := by
  unfold execFlitReceive
  split
  · exact .next (.refl _)
  · dsimp only
    split
    · exact .next (State.setPort_grows ..)
    · split
      · split
        · exact .next (.after (State.freedFrom_grows ..) (.after (State.replayPort_grows ..) (State.setPort_grows ..)))
        · split
          · split
            · refine .next (.after (State.updPort_grows ..) (.after (State.setPort_grows ..) ?_))
              exact .after (State.freedFrom_grows ..) (.after (State.replayPort_grows ..) (State.setPort_grows ..))
            · refine .next (.after (State.acceptFlit_grows ..) (.after (State.setPort_grows ..) ?_))
              exact .after (State.freedFrom_grows ..) (.after (State.replayPort_grows ..) (State.setPort_grows ..))
          · split
            · refine .next (.after (State.setPort_grows ..) ?_)
              exact .after (State.freedFrom_grows ..) (.after (State.replayPort_grows ..) (State.setPort_grows ..))
            · refine .next (.after (State.setPort_grows ..) ?_)
              exact .after (State.freedFrom_grows ..) (.after (State.replayPort_grows ..) (State.setPort_grows ..))
      · split
        · exact .next (State.setPort_grows ..)
        · split
          · split
            · exact .next (.after (State.updPort_grows ..) (.after (State.setPort_grows ..) (State.setPort_grows ..)))
            · exact .next (.after (State.acceptFlit_grows ..) (.after (State.setPort_grows ..) (State.setPort_grows ..)))
          · split
            · exact .next (.after (State.setPort_grows ..) (State.setPort_grows ..))
            · exact .next (.after (State.setPort_grows ..) (State.setPort_grows ..))

theorem execRead_advances (port : Nat) (s : State) : Advances s (execRead port s) := by
  unfold execRead
  split
  · exact .next (.refl _)
  · split
    · exact .next (.refl _)
    · dsimp only
      split
      · exact .next (.after (State.respond_grows ..) (State.updPort_grows ..))
      · split
        · refine .next (.after (State.respond_grows ..) ?_)
          refine .after (State.updPort_grows ..) (.after (State.freedFrom_grows ..) (.after (State.addLink_grows ..) ?_))
          exact State.takeWork_grows _ _ (Wk.Keeps.wf (v := { mem := s.mem }) (⟨Wk.read_wf _ _ _ _⟩))
        · split
          · refine .next (.after (State.freedFrom_grows ..) (.after (State.addLink_grows ..) ?_))
            exact State.takeWork_grows _ _ (Wk.Keeps.wf (v := { mem := s.mem }) (⟨Wk.read_wf _ _ _ _⟩))
          · refine .next (.after (State.respond_grows ..) ?_)
            refine .after (State.updPort_grows ..) (.after (State.freedFrom_grows ..) (.after (State.addLink_grows ..) ?_))
            exact State.takeWork_grows _ _ (Wk.Keeps.wf (v := { mem := s.mem }) (⟨Wk.read_wf _ _ _ _⟩))

theorem State.takeResponse_grows (s : State) (port op : Nat) : Grows s (s.takeResponse port op) := by
  unfold State.takeResponse
  split
  · exact .refl _
  · split
    · exact .refl _
    · dsimp only
      split
      · split
        · refine .after (State.drainBacklogs_grows ..) (.after (State.finishOp_grows ..) ?_)
          refine .putMem ?_ ?_
          · exact State.updPort_grows ..
          · exact id
        · exact State.updPort_grows ..
      · exact State.updPort_grows ..

theorem execReadRsp_advances (port : Nat) (s : State) : Advances s (execReadRsp port s) := by
  unfold execReadRsp
  exact .next (State.takeResponse_grows ..)

theorem execWriteAck_advances (port : Nat) (s : State) : Advances s (execWriteAck port s) := by
  unfold execWriteAck
  exact .next (State.takeResponse_grows ..)

theorem State.takeControl_grows {s t : State} {port op : Nat} {o : FabOp} (h : s.takeControl port op = some (t, o)) :
    Grows s t := by
  unfold State.takeControl at h
  split at h
  · split at h
    · cases h
      exact State.updPort_grows ..
    · cases h
  · cases h

theorem execRopeEnded_advances (port : Nat) (s : State) : Advances s (execRopeEnded port s) := by
  unfold execRopeEnded
  split
  · exact .next (.refl _)
  · dsimp only
    split
    · exact .next (State.takeControl_grows ‹_›)
    · exact .next (.after (State.updPart_grows ..) (State.takeControl_grows ‹_›))

theorem execRopeAbort_advances (port : Nat) (s : State) : Advances s (execRopeAbort port s) := by
  unfold execRopeAbort
  split
  · exact .next (.refl _)
  · exact .next (.after (State.ropeAbandon_grows ..) (State.takeControl_grows ‹_›))

theorem execVSample_advances (core : Nat) (s : State) : Advances s (execVSample core s) := by
  unfold execVSample
  split
  · refine .next (State.vecStep_grows _ _ _ _ _ _ _ ?_)
    intro e k iss ops n w
    exact sampleWork_keeps ..
  · exact .next (State.refuseStep_grows ..)

theorem execVSpool_advances (core : Nat) (s : State) : Advances s (execVSpool core s) := by
  unfold execVSpool
  refine .next (State.vecStep_grows _ _ _ _ _ _ _ ?_)
  intro e k iss ops n w
  exact spoolWork_keeps ..

theorem execSpoolReadAt_advances (core epoch : Nat) (s : State) : Advances s (execSpoolReadAt core epoch s) := by
  unfold execSpoolReadAt
  split
  · split
    · refine .next (State.vecStep_grows _ _ _ _ _ _ _ ?_)
      intro e k iss ops n w
      exact spoolWork_keeps ..
    · exact .next (.refl _)
  · exact .next (.refl _)

theorem State.flushSide_grows (s : State) (c q : Nat) : Grows s (s.flushSide c q) := by
  unfold State.flushSide
  split
  · exact .refl _
  · exact State.begin_stopped ‹_›
  · next hb =>
    have hb := State.begin_go hb
    split
    · exact .after (State.cmdFault_grows ..) (.fst ‹_› (hb.trans (State.issue_grows ..)))
    · next hi =>
      split
      · exact .after (State.cmdFault_grows ..) (.fst hi (hb.trans (State.issue_grows ..)))
      · exact .after (State.updQueue_grows ..) (.after (State.setRun_grows ..) (.fst hi (hb.trans (State.issue_grows ..))))
    · exact .after (State.setRun_grows ..) (.fst ‹_› (hb.trans (State.issue_grows ..)))

theorem execSpoolFlush_advances (core : Nat) (s : State) : Advances s (execSpoolFlush core s) := by
  unfold execSpoolFlush
  dsimp only
  split
  · exact .next (Grows.foldl (fun s x => State.flushSide_grows ..) _ _)
  · split
    · refine .next (.after (State.retire_grows ..) ?_)
      refine .after (State.updQueue_grows ..) (.after (State.retire_grows ..) (.after (State.updQueue_grows ..) ?_))
      exact .after (State.updCore_grows ..) (Grows.foldl (fun s x => State.flushSide_grows ..) _ _)
    · exact .next (Grows.foldl (fun s x => State.flushSide_grows ..) _ _)

theorem State.updStream_grows (s : State) (c i : Nat) (f : Stream → Stream) : Grows s (s.updStream c i f) := by
  unfold State.updStream
  exact State.updCore_grows ..

theorem State.runGen_grows {mk : EntryMaker} (hm : ∀ s e g n w, Wk.Keeps w (mk s e g n w).2) (c i : Nat) (r : CoreRun)
    (n : Nat) (s : State) :
    Grows s (State.runGen mk c i r n s) := by
  induction n generalizing s with
  | zero => exact .refl _
  | succ n ih =>
    unfold State.runGen
    extract_lets t
    split
    · exact .refl _
    · next g _ =>
      have made := s.absorbReads_grows c 3 r (cbTag g.block) _ (Wk.Keeps.after (Wk.counted_keeps _)
        (hm s (s.env c 3 r) g g.iter { mem := s.mem })).wf
      split
      · exact State.updStream_grows ..
      · split
        · exact .refl _
        · dsimp only
          split
          · exact .after (State.kernelFault_grows ..) (.after (State.updStream_grows ..) made)
          · split
            · exact made
            · exact .after (ih ..) (.after (State.updStream_grows ..) (.after (State.updQueue_grows ..) (.put made)))

theorem State.generate_grows (s : State) (mk : EntryMaker) (c op : Nat) (hm : ∀ s e g n w, Wk.Keeps w (mk s e g n w).2) :
    Grows s (s.generate mk c op) := by
  unfold State.generate
  split
  · exact .refl _
  · refine .after (State.settle_grows ..) (Grows.foldl (fun s i => ?_) _ _)
    dsimp only
    split
    · exact State.runGen_grows hm ..
    · exact .refl _

theorem State.seqStep_grows (s : State) (c op : Nat) (form : Form) (check : Env → Core → Issued → Bool) (mk : EntryMaker)
    (hm : ∀ s e g n w, Wk.Keeps w (mk s e g n w).2) : Grows s (s.seqStep c op form check mk) := by
  unfold State.seqStep
  dsimp only
  have hg := s.generate_grows mk c op hm
  split
  · exact hg
  · exact .after (State.begin_stopped ‹_›) hg
  · next hb =>
    have hb := hg.trans (State.begin_go hb)
    split
    · exact .after (State.cmdFault_grows ..) (.fst ‹_› (hb.trans (State.issue_grows ..)))
    · exact .after (State.generate_grows _ _ _ _ hm) (.after (State.retire_grows ..) (.after (State.updStream_grows ..)
        (.fst ‹_› (hb.trans (State.issue_grows ..)))))
    · exact .after (State.setRun_grows ..) (.fst ‹_› (hb.trans (State.issue_grows ..)))

theorem execSeqStride_advances (core : Nat) (s : State) : Advances s (execSeqStride core s) := by
  unfold execSeqStride
  refine .next (State.seqStep_grows _ _ _ _ _ _ ?_)
  intro s e g n w
  exact strideEntry_keeps ..

theorem execSeqIndex_advances (core : Nat) (s : State) : Advances s (execSeqIndex core s) := by
  unfold execSeqIndex
  refine .next (State.seqStep_grows _ _ _ _ _ _ ?_)
  intro s e g n w
  exact indexEntry_keeps ..

theorem execSeqPage_advances (core : Nat) (s : State) : Advances s (execSeqPage core s) := by
  unfold execSeqPage
  refine .next (State.seqStep_grows _ _ _ _ _ _ ?_)
  intro s e g n w
  exact pageEntry_keeps ..

theorem State.tap_grows (s : State) (die : Nat) (i : TapInstr) : Grows s (s.tap die i) := by
  unfold State.tap
  exact .put (.refl _)

theorem State.scan_grows (s : State) : Grows s s.scan := by
  unfold State.scan
  dsimp only
  exact .after (Grows.foldl (fun s x => State.emit_grows ..) _ _) (.putMem (.refl _) (id))

theorem execBypass_advances (die : Nat) (s : State) : Advances s (execBypass die s) := by
  unfold execBypass
  split
  · exact .next (.after (State.scan_grows ..) (State.tap_grows ..))
  · exact .next (.refl _)

theorem execIdcode_advances (die : Nat) (s : State) : Advances s (execIdcode die s) := by
  unfold execIdcode
  split
  · exact .next (.after (State.scan_grows ..) (State.tap_grows ..))
  · exact .next (.refl _)

theorem execSamplePreload_advances (die : Nat) (cells : List Byte) (s : State) :
    Advances s (execSamplePreload die cells s) := by
  unfold execSamplePreload
  split
  · exact .next (.put (.after (State.scan_grows ..) (State.tap_grows ..)))
  · exact .next (.refl _)

theorem execExtest_advances (die : Nat) (s : State) : Advances s (execExtest die s) := by
  unfold execExtest
  split
  · exact .next (.after (State.scan_grows ..) (State.tap_grows ..))
  · exact .next (.refl _)

theorem execExtestPulse_advances (die : Nat) (s : State) : Advances s (execExtestPulse die s) := by
  unfold execExtestPulse
  split
  · exact .next (.after (State.scan_grows ..) (State.tap_grows ..))
  · exact .next (.refl _)

theorem execExtestTrain_advances (die : Nat) (s : State) : Advances s (execExtestTrain die s) := by
  unfold execExtestTrain
  split
  · exact .next (.after (State.scan_grows ..) (State.tap_grows ..))
  · exact .next (.refl _)

theorem execStartstat_advances (die : Nat) (s : State) : Advances s (execStartstat die s) := by
  unfold execStartstat
  split
  · exact .next (.after (State.scan_grows ..) (State.tap_grows ..))
  · exact .next (.refl _)

theorem execFwload_advances (image : List Byte) (s : State) : Advances s (execFwload image s) := by
  unfold execFwload
  dsimp only
  split
  · refine .next (.after (State.bootFirmware_grows ..) (.putNv ?_ ⟨rfl, ⟨rfl, rfl, rfl⟩, le_rfl, le_rfl⟩))
    exact .after (State.scan_grows ..) (State.tap_grows ..)
  · exact .next (.after (State.scan_grows ..) (State.tap_grows ..))

theorem State.commitWrites_grows (s : State) (e : Env) (l : List (Nat × Byte)) :
    Grows s (s.takeWork (Wk.commit e { mem := s.mem } l)) := State.takeWork_grows s _ (Wk.commit_wf e { mem := s.mem } l)

theorem execWrite_advances (port : Nat) (s : State) : Advances s (execWrite port s) := by
  unfold execWrite
  split
  · exact .next (.refl _)
  · split
    · exact .next (.refl _)
    · dsimp only
      split
      · exact .next (.after (State.respond_grows ..) (State.updPort_grows ..))
      · have written := fun p o => Grows.after (State.freedFrom_grows _ s) (.after (State.addLink_grows _ p (Wk.wn (Wk.commit (s.partEnv p)
          { mem := s.mem } o))) (s.commitWrites_grows (s.partEnv p) o))
        split
        · exact .next (written _ _)
        · exact .next (.after (State.respond_grows ..) (.after (State.updPort_grows ..) (written _ _)))

theorem State.refuseUnaccepted_grows {s t : State} {core op feature status : Nat} (h : s.refuseUnaccepted core op feature status = some t) : Grows s t := by
  unfold State.refuseUnaccepted at h
  split at h
  · split at h
    · cases h
    · cases h
      exact State.refuseStep_grows ..
  · cases h
    exact .refl _

theorem gaUnit_keeps : StkUnit.Keeps gaUnit where
  state s e k a i := stkIter_grows ..
  mem s e k a i := by
    refine stkIter_wf _ _ _ (fun e a vs w => ?_) s e a
    dsimp only
    split
    · exact .after (putGathered_keeps ..) (.after (tableRow_keeps ..) (sgIndex_keeps ..))
    · exact .after (Wk.put_keeps ..) (.after ⟨elemWrites_wf _ _ _ _ _⟩ (.after (Wk.flag_keeps ..) (sgIndex_keeps ..)))

theorem execSGather_advances (site : StkSite) (s : State) : Advances s (execSGather site s) := by
  cases site with
  | forward core =>
    have forwarded := State.forward_grows s core 0x5003 gaUses true 1
      (fun _ _ _ i => sgOk i 0 false && !isPI (dFmt (i.descs.getD 2 0))) (sgSized 0 2)
    unfold execSGather
    dsimp only
    split
    · next h => exact .next (State.refuseUnaccepted_grows h)
    · exact .next forwarded
  | run stack area => exact .next (State.stkRun_grows _ _ _ _ _ _ _ (fun s a => noPrep_grows ..) gaUnit_keeps)

theorem scUnit_keeps : StkUnit.Keeps scUnit where
  state s e k a i := stkIter_grows ..
  mem s e k a i := by
    refine stkIter_wf _ _ _ (fun e a vs w => ?_) s e a
    dsimp only
    split
    · exact .after (Wk.flag_keeps ..) (sgIndex_keeps ..)
    · split
      · exact .after (scPlain_keeps ..) (sgIndex_keeps ..)
      · exact .after (scReduce_keeps ..) (sgIndex_keeps ..)

theorem execSScatter_advances (site : StkSite) (s : State) : Advances s (execSScatter site s) := by
  cases site with
  | forward core =>
    have forwarded := State.forward_grows s core 0x5004 scUses true 1
      (fun _ _ _ i => sgOk i 2 true && isWhole (dFmt (i.descs.getD 2 0)) && !isPI (dFmt (i.descs.getD 0 0))) (sgSized 2 0)
    unfold execSScatter
    dsimp only
    split
    · next h => exact .next (State.refuseUnaccepted_grows h)
    · exact .next forwarded
  | run stack area => exact .next (State.stkRun_grows _ _ _ _ _ _ _ (fun s a => noPrep_grows ..) scUnit_keeps)

theorem RailLoss.within {loss : RailLoss} (h : ∀ rail, Instr.railFault loss ≠ .railFault ⟨rail, true⟩) :
    loss.beyondMax = false := by
  obtain ⟨rail, beyond⟩ := loss
  cases beyond with
  | false => rfl
  | true => exact absurd rfl (h rail)

/-- Every command but a rail beyond its absolute maximum goes on. -/
theorem exec_advances (i : Instr) (s : State) (h : ∀ rail, i ≠ .railFault ⟨rail, true⟩) : Advances s (exec i s) := by
  unfold exec
  split
  · exact execColdStart_advances ..
  · exact execPllLock_advances ..
  · exact execPllLockTimeout_advances ..
  · exact execFirmwareBoot_advances ..
  · exact execConfigImageApply_advances ..
  · exact execTetherTraining_advances ..
  · exact execSparTraining_advances ..
  · exact execDictionaryLive_advances ..
  · exact execRailFault_advances _ _ (RailLoss.within h)
  · exact execResetAssert_advances ..
  · exact execPerstAssert_advances ..
  · exact execPerstRelease_advances ..
  · exact execPllLoss_advances ..
  · exact execOrderlyShutdown_advances ..
  · exact execShutdownDone_advances ..
  · exact execHousekeepingRound_advances ..
  · exact execClassAWindow_advances ..
  · exact execDroguePause_advances ..
  · exact execPeriodic_advances ..
  · exact execStoredEntryCommit_advances ..
  · exact execPortTrainRetry_advances ..
  · exact execTrainingTimeout_advances ..
  · exact execHello_advances ..
  · exact execFlitReceive_advances ..
  · exact execReplayTimeout_advances ..
  · exact execLinkLoss_advances ..
  · exact execResponseTimeout_advances ..
  · exact execRead_advances ..
  · exact execWrite_advances ..
  · exact execReadRsp_advances ..
  · exact execWriteAck_advances ..
  · exact execRopeEnded_advances ..
  · exact execRopeAbort_advances ..
  · exact execRopeRoundStart_advances ..
  · exact execCxlLinkUp_advances ..
  · exact execCxlRetrain_advances ..
  · exact execCxlLinkDown_advances ..
  · exact execFlr_advances ..
  · exact execD3hotEntry_advances ..
  · exact execD0Return_advances ..
  · exact execBmeClear_advances ..
  · exact execVfEnableClear_advances ..
  · exact execHotReset_advances ..
  · exact execConfigRequest_advances ..
  · exact execHdmCommit_advances ..
  · exact execCxlMemRead_advances ..
  · exact execCxlMemWrite_advances ..
  · exact execBisnpResponse_advances ..
  · exact execH2dSnoop_advances ..
  · exact execHostBarRead_advances ..
  · exact execHostBarWrite_advances ..
  · exact execKgo_advances ..
  · exact execCsgo_advances ..
  · exact execCsgoDone_advances ..
  · exact execPreempt_advances ..
  · exact execResume_advances ..
  · exact execContextEn_advances ..
  · exact execBelayWrite_advances ..
  · exact execForce_advances ..
  · exact execCslogClear_advances ..
  · exact execRqtail_advances ..
  · exact execCqhead_advances ..
  · exact execRingCfg_advances ..
  · exact execVfmap_advances ..
  · exact execKvframes_advances ..
  · exact execKvgrans_advances ..
  · exact execSrvctlEn_advances ..
  · exact execRegisterWrite_advances ..
  · exact execKernelDispatch_advances ..
  · exact execCommandRoute_advances ..
  · exact execUnlistedOpcode_advances ..
  · exact execNop_advances ..
  · exact execBrk_advances ..
  · exact execKend_advances ..
  · exact execSeqStride_advances ..
  · exact execSeqIndex_advances ..
  · exact execSeqPage_advances ..
  · exact execDmaCopy_advances ..
  · exact execDmaFill_advances ..
  · exact execMxLoadw_advances ..
  · exact execMxMac_advances ..
  · exact execMxDrain_advances ..
  · exact execMxZero_advances ..
  · exact execVLoad_advances ..
  · exact execVStore_advances ..
  · exact execVEwise_advances ..
  · exact execVReduce_advances ..
  · exact execVSoftmax_advances ..
  · exact execVRotary_advances ..
  · exact execVConvert_advances ..
  · exact execVGather_advances ..
  · exact execVScatter_advances ..
  · exact execVSample_advances ..
  · exact execVSpool_advances ..
  · exact execSpoolReadAt_advances ..
  · exact execSAttend_advances ..
  · exact execSMatvec_advances ..
  · exact execSGather_advances ..
  · exact execSScatter_advances ..
  · exact execSEwise_advances ..
  · exact execSFill_advances ..
  · exact execSDrain_advances ..
  · exact execSKvenc_advances ..
  · exact execSKvexp_advances ..
  · exact execStkActivate_advances ..
  · exact execSliceEnd_advances ..
  · exact execPageWalk_advances ..
  · exact execGranuleDecode_advances ..
  · exact execStkComplete_advances ..
  · exact execStkFaultReport_advances ..
  · exact execBelayArrive_advances ..
  · exact execBelayWait_advances ..
  · exact execBelayArrival_advances ..
  · exact execBelayRelease_advances ..
  · exact execSpoolFlush_advances ..
  · exact execKernelEnd_advances ..
  · exact execSaveComplete_advances ..
  · exact execRestoreComplete_advances ..
  · exact execStepKernelIssue_advances ..
  · exact execStepBoundary_advances ..
  · exact execOpenReq_advances ..
  · exact execCancel_advances ..
  · exact execPark_advances ..
  · exact execBivouacParkDone_advances ..
  · exact execBivouacReturnDone_advances ..
  · exact execBudgetEpoch_advances ..
  · exact execTetherRetry_advances ..
  · exact execDramCmdTimeout_advances ..
  · exact execRefreshWindow_advances ..
  · exact execLaneRecalibration_advances ..
  · exact execWcAgeFlush_advances ..
  · exact execDictRead_advances ..
  · exact execDictWrite_advances ..
  · exact execIdentify_advances ..
  · exact execNeighbourDiscovery_advances ..
  · exact execStoredMode_advances ..
  · exact execNodeNumber_advances ..
  · exact execRole_advances ..
  · exact execBreakSlot_advances ..
  · exact execAccept0_advances ..
  · exact execInterleave_advances ..
  · exact execCap_advances ..
  · exact execSuspectClear_advances ..
  · exact execCeLogClear_advances ..
  · exact execRemap_advances ..
  · exact execMapout_advances ..
  · exact execPortCtl_advances ..
  · exact execRoutes_advances ..
  · exact execFwChunk_advances ..
  · exact execFwCommit_advances ..
  · exact execSvnFloor_advances ..
  · exact execNextGrade_advances ..
  · exact execClear_advances ..
  · exact execBudgetCtl_advances ..
  · exact execSanitise_advances ..
  · exact execSanitiseDone_advances ..
  · exact execScratch_advances ..
  · exact execMatrix_advances ..
  · exact execVector_advances ..
  · exact execStackEngine_advances ..
  · exact execCodec_advances ..
  · exact execDramScrub_advances ..
  · exact execDramMarch_advances ..
  · exact execTestSpar_advances ..
  · exact execTestFabricPort_advances ..
  · exact execTether_advances ..
  · exact execCalSpar_advances ..
  · exact execSensor_advances ..
  · exact execCalFabricPort_advances ..
  · exact execTestCancel_advances ..
  · exact execDrainedRequestStart_advances ..
  · exact execTestPieceDone_advances ..
  · exact execGetVersion_advances ..
  · exact execGetCapabilities_advances ..
  · exact execNegotiateAlgorithms_advances ..
  · exact execGetDigests_advances ..
  · exact execGetCertificate_advances ..
  · exact execChallenge_advances ..
  · exact execGetMeasurements_advances ..
  · exact execKeyExchange_advances ..
  · exact execFinish_advances ..
  · exact execEndSession_advances ..
  · exact execHeartbeat_advances ..
  · exact execBypass_advances ..
  · exact execIdcode_advances ..
  · exact execSamplePreload_advances ..
  · exact execExtest_advances ..
  · exact execExtestPulse_advances ..
  · exact execExtestTrain_advances ..
  · exact execStartstat_advances ..
  · exact execFwload_advances ..
  · exact execRailReturn_advances ..
  · exact execFunctionEnable_advances ..
  · exact execHostLinkRecovery_advances ..
  · exact execCxlIdeKm_advances ..
  · exact execDoeDiscovery_advances ..
  · exact execPrimaryMailboxIdentify_advances ..
  · exact execGetSupportedLogs_advances ..
  · exact execGetLog_advances ..
  · exact execRefreshWindowEnd_advances ..
  · exact execFlitSend_advances ..

theorem exec_next_grows {i : Instr} {s t : State} (h : exec i s = .next t) : Grows s t := by
  by_cases hi : ∀ rail, i ≠ .railFault ⟨rail, true⟩
  · obtain ⟨u, hu, hg⟩ := exec_advances i s hi
    cases hu.symm.trans h
    exact hg
  · push Not at hi
    obtain ⟨rail, rfl⟩ := hi
    have stopped : exec (.railFault ⟨rail, true⟩) s = .fault .beyondAbsoluteLimits := rfl
    cases stopped.symm.trans h

theorem step_grows {s t : State} (h : step s = .next t) : s.nv.cairn <+: t.nv.cairn ∧ (ledgerOk s.nv.cairn → ledgerOk t.nv.cairn) ∧
    (Memory.wf s.mem = true → Memory.wf t.mem = true) := by
  unfold step at h
  split at h
  · cases h
    exact ⟨List.prefix_refl _, id, id⟩
  · have g := exec_next_grows h
    exact ⟨g.ledger, g.chain, g.mem⟩

end Sys2Proof.Machine

namespace Sys2Proof.Proofs

open Sys2Proof.Machine

/-- Settles O3: whatever command is at the front, the part grows. -/
theorem everyStepKeepsTheLedger : Obligations.EveryStepKeepsTheLedger :=
  fun _ _ h => ⟨(step_grows h).1, (step_grows h).2.1⟩

/-- Settles O4: whatever command is at the front, what it writes to the memories has their form. -/
theorem everyStepKeepsTheMemoryForm : Obligations.EveryStepKeepsTheMemoryForm :=
  fun _ _ h => (step_grows h).2.2

/-- Settles O5: the commands that go on, one by one, and what `Grows` says of the state they answer. -/
theorem noCommandUndoesFusesOrOutputs : Obligations.NoCommandUndoesFusesOrOutputs := by
  refine ⟨fun c s hc => ?_, fun c s t h => ?_⟩
  · obtain ⟨t, ht, _⟩ := exec_advances c s hc
    exact ⟨t, ht⟩
  · have g := exec_next_grows h
    exact ⟨g.queue, g.sent, g.fused.1, g.fused.2.1, g.floor, g.starts⟩

/-- Settles O1: `step` by cases of the queue. -/
theorem stepRunsTheFrontCommand : Obligations.StepRunsTheFrontCommand :=
  ⟨fun _ _ _ => rfl, fun _ => rfl⟩

/-- Settles O2: the state of a fresh part, field by field; its one record is the first of a ledger. -/
theorem resetHoldsTheFormOfMemoryAndLedger : Obligations.ResetHoldsTheFormOfMemoryAndLedger := by
  unfold Obligations.ResetHoldsTheFormOfMemoryAndLedger
  exact ⟨rfl, ledgerOk_append (l := []) (fun i r h => nomatch h) rfl (fun _ => rfl), rfl, rfl, rfl, rfl⟩

end Sys2Proof.Proofs
end

section
/-! PROOFS. The Device Serial Number (R346), attestation requests (R420 to R422) and boundary scan (R397, R417, R440). -/

namespace Sys2Proof.Machine

/-! ## Configuration requests (R342, R346) -/

theorem exec_configRequest {s : State} {fn : Nat} (reg : Nat) (hlink : s.host.link = .up) (hlive : s.isLive = true) (hfn : s.hasFunc fn = true) :
    exec (.configRequest fn reg) s = .next (s.emit (.configData fn reg (s.configReg fn reg))) := by
  show execConfigRequest fn reg s = _
  simp [execConfigRequest, hlink, State.pastNine, hlive, hfn]

theorem fld_eq_div (w hi lo : Nat) : fld w hi lo = w / 2 ^ lo % 2 ^ (hi + 1 - lo) := by
  rw [fld, Nat.shiftRight_eq_div_pow]

theorem dsnOf_eq (mac : Nat) : dsnOf mac = mac % 2 ^ 24 + 2 ^ 24 * 0xFFFE + 2 ^ 40 * (mac / 2 ^ 24 % 2 ^ 24) := by
  simp [dsnOf, fld_eq_div]

theorem configReg_dsn {s : State} {fn : Nat} (hvf : funcVf fn = 0) :
    s.configReg fn (0x100 + Config.dsnOffset + 4) = leBytes 4 (dsnOf s.nv.mac % 2 ^ 32) ∧
    s.configReg fn (0x100 + Config.dsnOffset + 8) = leBytes 4 (dsnOf s.nv.mac / 2 ^ 32) := by
  constructor
  · rw [State.configReg, if_neg (by omega), if_neg (by omega), if_pos (by simp [hvf])]
  · rw [State.configReg, if_neg (by omega), if_neg (by omega), if_neg (by simp), if_pos (by simp [hvf])]

/-! ## Attestation (R421) -/

section Attest

variable {s : State} {op : Nat} {msg : List Byte}

theorem State.spdm_of_good {who : Requester} (hop : (spdmPlain ++ spdmSession).contains op = true) (hin : s.sec.inOrder who op = true)
    (hnames : spdmNames op msg = true) :
    s.spdm who op msg = (Config.spdmBody op msg ++ s.spdmPayload op msg, { s with sec := s.sec.after who op }) := by
  rw [State.spdm, if_pos (by rw [hop, hin, hnames]; rfl)]

theorem State.spdm_of_bad {who : Requester} (h : s.sec.inOrder who op = false ∨ spdmNames op msg = false) :
    s.spdm who op msg = (Config.spdmBody spdmERROR msg, s) := by
  rw [State.spdm, if_neg]
  rcases h with h | h <;> simp [h]

theorem spdmAnswers_of_attest {cmd : Requester → List Byte → Instr} (hop : (spdmPlain ++ spdmSession).contains op = true)
    (hcmd : ∀ (s : State) who msg, exec (cmd who msg) s = .next (s.attest op who msg)) : SpdmAnswers cmd op := by
  refine ⟨fun s who msg fn hwho hfn hin hnames => ?_, fun s who msg fn hwho hfn hbad => ?_⟩ <;> subst hwho
  · rw [hcmd]
    simp only [State.attest]
    rw [if_pos hfn, State.spdm_of_good hop hin hnames]
  · rw [hcmd]
    simp only [State.attest]
    rw [if_pos hfn, State.spdm_of_bad hbad]

theorem spdmKept_of_attest {cmd : Requester → List Byte → Instr} (hop : spdmPlain.contains op = true)
    (hcmd : ∀ (s : State) who msg, exec (cmd who msg) s = .next (s.attest op who msg)) : SpdmKept cmd op := by
  intro s a u msg hlive
  have hall : (spdmPlain ++ spdmSession).contains op = true := by
    rw [List.contains_iff_mem] at hop ⊢
    exact List.mem_append_left _ hop
  rw [hcmd]
  simp only [State.attest]
  rw [if_pos (by rw [hlive, hop]; rfl)]
  by_cases h : s.sec.inOrder (.port a u) op = true ∧ spdmNames op msg = true
  · rw [State.spdm_of_good hall h.1 h.2, if_pos (by rw [h.1, h.2]; rfl)]
  · have hbad : s.sec.inOrder (.port a u) op = false ∨ spdmNames op msg = false := by
      simpa [imp_iff_not_or] using h
    rw [State.spdm_of_bad hbad, if_neg (by simpa using h)]

theorem State.attest_port_of_session {a u : Nat} (h : spdmPlain.contains op = false) : s.attest op (.port a u) msg = s := by
  simp only [State.attest]
  rw [h, Bool.and_false, if_neg Bool.false_ne_true]

end Attest

theorem filter_dropWho (l : List (Requester × Nat)) (who : Requester) : (dropWho l who).filter (fun h => h.1 == who) = [] := by
  simp [dropWho, List.filter_filter]

/-! ## Boundary scan (R440) -/

/-- The dies in the order their data registers leave on TDO. -/
def scanOrder : List Nat := [5, 3, 2, 1, 0, 4]

theorem foldl_emit_out (l : List (Nat × Nat × Nat)) (s : State) :
    l.foldl (fun s v => s.emit (.tdo v.1 v.2.1 v.2.2)) s = { s with out := s.out ++ l.map (fun v => .tdo v.1 v.2.1 v.2.2) } := by
  induction l generalizing s with
  | nil => simp
  | cons v l ih => simp [ih]; simp [State.emit]

theorem State.scan_eq (s : State) : s.scan = { s with
    mem := { s.mem with fresh := s.mem.fresh + 1 }
    out := s.out ++ scanOrder.map (fun e => Out.tdo e (s.dataReg e).1 (s.dataReg e).2) } := by
  unfold State.scan
  rw [foldl_emit_out]
  rfl

theorem Jtag.mem_drivers (j : Jtag) (e : Nat) : e ∈ j.drivers ↔ e < 6 ∧
    (Table.get .idcode j.ir e = .extest ∨ Table.get .idcode j.ir e = .extestPulse ∨ Table.get .idcode j.ir e = .extestTrain) := by
  simp [Jtag.drivers, or_assoc]

theorem State.scans_tap (s : State) (d : Nat) (i : TapInstr) : Scans i d s (s.tap d i).scan where
  ir e := by
    rw [State.scan_eq]
    exact Table.get_set ..
  out := by rw [State.scan_eq]; rfl
  drive e := by
    rw [State.scan_eq]
    show e ∈ (if s.start.resetN = true then [] else _) ↔ _
    cases s.start.resetN with
    | true => simp
    | false => exact (Jtag.mem_drivers _ e).trans (by rw [eq_self_iff_true, true_and]; exact Iff.rfl)
  mem := by rw [State.scan_eq]; rfl
  nv := by rw [State.scan_eq]; rfl

theorem State.scan_cells (s : State) : s.scan.jtag.cells = s.jtag.cells := by rw [State.scan_eq]

theorem State.scan_start (s : State) : s.scan.start = s.start := by rw [State.scan_eq]

theorem State.tap_ir (s : State) (d : Nat) (i : TapInstr) : Table.get .idcode (s.tap d i).jtag.ir d = i := Table.get_set_same ..

/-- The data register of a die that has just taken instruction `i`. -/
theorem State.dataReg_tap (s : State) (d : Nat) (i : TapInstr) :
    (s.tap d i).dataReg d = match i with
      | .bypass => (1, 0)
      | .idcode => (32, idcodeOf d)
      | .sample => (8 * (Config.boundarySample d s.mem.fresh).length, leNat (Config.boundarySample d s.mem.fresh))
      | .extest | .extestPulse | .extestTrain => if s.start.resetN then (1, 0) else
          (8 * (Config.boundarySample d s.mem.fresh).length, leNat (Config.boundarySample d s.mem.fresh))
      | .startstat => if d = 4 then (64, Startup.status s.start) else (1, 0)
      | .fwload => if d = 4 && s.loadsFw then (32, Config.freeChoice s.mem.fresh 44 % 2 ^ 32) else (1, 0) := by
  cases i <;> simp only [State.dataReg, State.tap_ir] <;> rfl

theorem exec_scans {s : State} {d : Nat} {i : TapInstr} {cmd : Instr} (h : exec cmd s = .next (s.tap d i).scan) :
    ∃ t, exec cmd s = .next t ∧ Scans i d s t ∧ t.jtag.cells = s.jtag.cells :=
  ⟨_, h, s.scans_tap d i, State.scan_cells _⟩

theorem Scans.of_cells {i : TapInstr} {d : Nat} {s t : State} (h : Scans i d s t) (cells : Table (List Byte)) :
    Scans i d s { t with jtag := { t.jtag with cells := cells } } := ⟨h.ir, h.out, h.drive, h.mem, h.nv⟩

end Sys2Proof.Machine

namespace Sys2Proof.Proofs

open Sys2Proof.Machine

/-- Settles O22: the EUI-64 splits the MAC's two halves, and the two registers of the capability read it. -/
theorem serialNumberIsTheMacEui64 : Obligations.SerialNumberIsTheMacEui64 := by
  unfold Obligations.SerialNumberIsTheMacEui64
  refine ⟨fun mac => ?_, fun a b ha hb h => ?_, fun s fn hlink hlive hfn hvf => ?_⟩
  · simp only [fld_eq_div, dsnOf_eq]
    omega
  · simp only [dsnOf_eq] at h
    omega
  · rw [exec_configRequest _ hlink hlive hfn, exec_configRequest _ hlink hlive hfn, (configReg_dsn hvf).1, (configReg_dsn hvf).2]
    exact ⟨rfl, rfl⟩

/-- Settles O59: every supported request goes through `State.attest`, and a request for a session is refused on the port. -/
theorem spdmRequestsAreAnswered : Obligations.SpdmRequestsAreAnswered := by
  unfold Obligations.SpdmRequestsAreAnswered
  refine ⟨spdmAnswers_of_attest rfl (fun _ _ _ => rfl), spdmAnswers_of_attest rfl (fun _ _ _ => rfl), spdmAnswers_of_attest rfl (fun _ _ _ => rfl),
    spdmAnswers_of_attest rfl (fun _ _ _ => rfl), spdmAnswers_of_attest rfl (fun _ _ _ => rfl), spdmAnswers_of_attest rfl (fun _ _ _ => rfl),
    spdmAnswers_of_attest rfl (fun _ _ _ => rfl), spdmAnswers_of_attest rfl (fun _ _ _ => rfl), spdmAnswers_of_attest rfl (fun _ _ _ => rfl),
    spdmAnswers_of_attest rfl (fun _ _ _ => rfl), spdmAnswers_of_attest rfl (fun _ _ _ => rfl), spdmKept_of_attest rfl (fun _ _ _ => rfl),
    spdmKept_of_attest rfl (fun _ _ _ => rfl), spdmKept_of_attest rfl (fun _ _ _ => rfl), spdmKept_of_attest rfl (fun _ _ _ => rfl),
    spdmKept_of_attest rfl (fun _ _ _ => rfl), spdmKept_of_attest rfl (fun _ _ _ => rfl), spdmKept_of_attest rfl (fun _ _ _ => rfl),
    fun s a u msg => ⟨?_, ?_, ?_, ?_⟩, fun c who => ⟨?_, filter_dropWho .., ?_⟩⟩
  · exact congrArg _ (State.attest_port_of_session rfl)
  · exact congrArg _ (State.attest_port_of_session rfl)
  · exact congrArg _ (State.attest_port_of_session rfl)
  · exact congrArg _ (State.attest_port_of_session rfl)
  · show (dropWho c.sessions who ++ c.handshakes.filter (fun h => h.1 == who)).filter (fun h => h.1 == who) = _
    rw [List.filter_append, filter_dropWho]
    simp [List.filter_filter]
  · show (c.algos.filter (· != who)).contains who = false
    simp

/-- Settles O60: a command of the chain is a scan after its die's register has taken the instruction. -/
theorem boundaryScanInstructions : Obligations.BoundaryScanInstructions := by
  unfold Obligations.BoundaryScanInstructions
  refine ⟨⟨fun s d hd => ⟨?_, State.dataReg_tap .., ?_, ?_⟩, fun s d v hd => ?_, fun s d hd => ⟨?_, ?_, ?_⟩, fun s d i hi => ?_⟩, fun s => ?_,
    fun s img hphase hcause hok => ?_, fun s img hno => ?_⟩
  · exact exec_scans (if_pos hd)
  · exact exec_scans (if_pos hd)
  · rw [State.dataReg_tap]
    rfl
  · refine ⟨_, if_pos hd, (s.scans_tap d .sample).of_cells _, fun e => ?_, State.dataReg_tap ..⟩
    show Table.get [] (Table.set (s.tap d .sample).scan.jtag.cells d v) e = _
    rw [State.scan_cells]
    exact Table.get_set ..
  · exact exec_scans (if_pos hd)
  · exact exec_scans (if_pos hd)
  · exact exec_scans (if_pos hd)
  · rw [State.dataReg_tap]
    rcases hi with rfl | rfl | rfl <;> rfl
  · have hstart : exec (.startstat 4) s = .next (s.tap 4 .startstat).scan := by
      show execStartstat 4 s = _
      exact if_pos rfl
    obtain ⟨t, ht, hscan, hcells⟩ := exec_scans hstart
    exact ⟨t, ht, hscan, hcells, by rw [State.dataReg_tap]; rfl⟩
  · show execFwload img s = _
    have hnv : (s.tap 4 .fwload).scan.nv = s.nv := (s.scans_tap 4 .fwload).nv
    unfold execFwload
    dsimp only
    rw [hnv, if_pos]
    simp [State.loadsFw, State.scan_start, State.tap, hphase, hcause, hok]
  · have hnv : (s.tap 4 .fwload).scan.nv = s.nv := (s.scans_tap 4 .fwload).nv
    have hrest : exec (.fwload img) s = .next (s.tap 4 .fwload).scan := by
      show execFwload img s = _
      unfold execFwload
      dsimp only
      rw [hnv, if_neg]
      simpa [State.loadsFw, State.scan_start, State.tap, and_assoc] using hno
    obtain ⟨t, ht, hscan, hcells⟩ := exec_scans hrest
    refine ⟨t, ht, hscan, hcells, ?_, fun h => ?_⟩
    · cases hrest.symm.trans ht
      exact State.scan_start _
    · rw [State.dataReg_tap]
      have hload : s.loadsFw = false := by simpa [State.loadsFw] using h
      simp [hload]

end Sys2Proof.Proofs
end

section
/-! PROOFS. Registers of belays, rings, apertures, cache and serving (R107, R201, R206, R224, R278, R283, R349, R352). -/

namespace Sys2Proof.Machine

/-! ## The scheduler where no boundary is due -/

theorem State.serve_of_noBoundary {s : State} {p : Nat} (h : NoBoundary s p) (n : Nat) : State.serve p n s = s := by
  obtain ⟨hjobs, howed, hphase⟩ := h
  cases n with
  | zero => rfl
  | succ n =>
    unfold State.serve
    split
    · rfl
    · rw [howed]
      simp only [List.length_nil, State.flushOwed, howed, hjobs, List.isEmpty_nil]
      rcases hphase with hr | ⟨hi, _, hw, hq⟩
      · simp [hr]
      · simp [hi, hw, hq]

theorem State.goOn_of_noBoundary {s : State} {p : Nat} (h : NoBoundary s p) : s.goOn p = s := State.serve_of_noBoundary h _

/-! ## Writes of whole words (R347) -/

theorem mergeReg_whole (old v : Nat) (h : v < 2 ^ 64) : mergeReg old ((leBytes 8 v).map some) = v := by
  have hl : overlay ((leBytes 8 v).map some) (leBytes 8 old) = leBytes 8 v := by
    simp [overlay, leBytes]
  rw [mergeReg, hl, leNat_leBytes, Nat.mod_eq_of_lt (by norm_num; omega)]

theorem State.hostReach_of_reachPf {s : State} {fn : Nat} (h : s.reachPf fn = true) : s.hostReach fn = true ∧ funcVf fn = 0 := by
  simpa [State.reachPf] using h

theorem State.hostReach_of_reachCtx {s : State} {fn x : Nat} (h : s.reachCtx fn x = true) : s.hostReach fn = true ∧ x < ctxPer s.mode := by
  simp only [State.reachCtx, Bool.and_eq_true, decide_eq_true_eq] at h
  exact ⟨h.1.1, h.1.2⟩

theorem exec_registerWrite {s : State} {fn off : Nat} (v : Quad) (h : s.hostReach fn = true) (h30 : ¬ (off = 0x30 ∧ funcVf fn ≠ 0)) (h8 : off % 8 = 0)
    (hsize : off + 8 ≤ 2 ^ 20) :
    exec (.registerWrite fn off v) s = .next (s.writeReg fn off ((leBytes 8 v.toNat).map some)) := by
  show execRegisterWrite fn off v s = _
  rw [execRegisterWrite, if_neg h30, if_pos]
  simp only [h, h8, barSize]
  split
  · simp; omega
  · simp; omega

theorem State.writeReg_block {s : State} {fn off : Nat} (v : Quad) (h : off < 0x1000) :
    s.writeReg fn off ((leBytes 8 v.toNat).map some) = s.writeBlock fn off v.toNat := by
  rw [State.writeReg, mergeReg_whole _ _ v.isLt, if_pos h]

theorem ctxPer_le (mode : Nat) : ctxPer mode ≤ 64 := by
  unfold ctxPer
  exact Nat.div_le_self ..

theorem funcPart_of_pf {fn : Nat} (h : funcVf fn = 0) : funcPart fn = fn := by
  simp only [funcVf, funcPart] at *
  omega

/-! ## Belays (R201, R206) -/

/-- BELAY n after a release of its round with a new TARGET and CTX. -/
def Belay.released (b : Belay) (v : Nat) : Belay :=
  { gen := (b.gen + 1) % 65536, arrived := 0, ctx := fld v 37 32, target := fld v 7 0 }

theorem belayTakes_iff (s : State) (p n v : Nat) : BelayTakes s p n v ↔
    ((s.context p (Table.get {} (s.part p).belays n).ctx).state == .saved || (s.context p (Table.get {} (s.part p).belays n).ctx).state == .held ||
      decide (4 * (48 / nParts s.mode) < fld v 7 0) ||
      (fld v 37 32 != (Table.get {} (s.part p).belays n).ctx && (Table.get {} (s.part p).belays n).arrived != 0)) = false := by
  simp only [BelayTakes, Bool.or_eq_false_iff, beq_eq_false_iff_ne, decide_eq_false_iff_not, Bool.and_eq_false_iff, bne_eq_false_iff_eq,
    Nat.not_lt, and_assoc]

theorem State.writeBelay_of_takes {s : State} {p n v : Nat} (h : BelayTakes s p n v) :
    s.writeBelay p n v =
      (let t := s.updPart p (fun t => { t with
        belays := Table.set t.belays n { Table.get {} t.belays n with target := fld v 7 0, ctx := fld v 37 32 } })
      if v.testBit 8 || ((Table.get {} (s.part p).belays n).arrived != 0 && decide (fld v 7 0 ≤ (Table.get {} (s.part p).belays n).arrived))
      then t.releaseBelay p n else t) := by
  rw [State.writeBelay]
  dsimp only
  rw [if_neg]
  · rfl
  · rw [(belayTakes_iff ..).1 h]
    exact Bool.false_ne_true

theorem State.writeBelay_of_not_takes {s : State} {p n v : Nat} (h : ¬ BelayTakes s p n v) : s.writeBelay p n v = s := by
  rw [State.writeBelay]
  dsimp only
  rw [if_pos]
  exact Bool.eq_true_of_not_eq_false (fun hf => h ((belayTakes_iff ..).2 hf))

theorem State.writeBelay_releases {s : State} {p n v : Nat} (h : BelayTakes s p n v)
    (hr : v.testBit 8 = true ∨ ((Table.get {} (s.part p).belays n).arrived ≠ 0 ∧ fld v 7 0 ≤ (Table.get {} (s.part p).belays n).arrived)) :
    Table.get {} ((s.writeBelay p n v).part p).belays n = (Table.get {} (s.part p).belays n).released v ∧
    ((s.writeBelay p n v).part p).releases = (s.part p).releases ++
      (partCores s.mode p).map (fun c => (c, n, ((Table.get {} (s.part p).belays n).gen + 1) % 65536)) ∧
    (s.writeBelay p n v).mem = s.mem ∧ (s.writeBelay p n v).cores = s.cores ∧ (s.writeBelay p n v).out = s.out := by
  rw [State.writeBelay_of_takes h]
  dsimp only
  rw [if_pos (by simpa using hr)]
  simp [State.releaseBelay, Belay.released]
  rfl

theorem fld_or_force (v : Nat) : fld (v ||| 256) 7 0 = fld v 7 0 ∧ fld (v ||| 256) 37 32 = fld v 37 32 := by
  constructor
  · simp only [fld, Nat.shiftRight_zero]
    rw [Nat.or_mod_two_pow]
    simp
  · simp only [fld, Nat.shiftRight_or_distrib]
    simp

end Sys2Proof.Machine

namespace Sys2Proof.Proofs

open Sys2Proof.Machine

/-- Settles O30: a write that BELAY takes sets TARGET and CTX, and with FORCE or an end of the round releases it. -/
theorem belayAndLogRegisters : Obligations.BelayAndLogRegisters := by
  unfold Obligations.BelayAndLogRegisters
  have reach {s : State} {fn n : Nat} (h : s.reachPf fn = true) (hn : n < 256) : (s.reachPf fn && decide (n < 256)) = true := by simp [h, hn]
  refine ⟨fun s fn n v hfn hn ht h8 hr => ?_, fun s fn n v hfn hn ht => ?_, fun s fn n v hfn hn ht hr => ?_, fun s fn n v hfn hn ht => ?_,
    fun s fn c hfn hc hp => ?_⟩
  · refine (if_pos (reach hfn hn)).trans (congrArg _ ?_)
    rw [State.writeBelay_of_takes ht]
    dsimp only
    rw [if_neg]
    rcases hr with hr | hr
    · simp [h8, hr]
    · simp [h8]; omega
  · have hv : (v ||| 256).toNat = v.toNat ||| 256 := by simp
    have takes : BelayTakes s (funcPart fn) n (v ||| 256).toNat := by
      rw [hv]
      unfold BelayTakes at ht ⊢
      rwa [(fld_or_force _).1, (fld_or_force _).2]
    have released := State.writeBelay_releases takes (.inl (by rw [hv, Nat.testBit_or, show Nat.testBit 256 8 = true from rfl, Bool.or_true]))
    refine ⟨_, if_pos (reach hfn hn), released.1.trans ?_, released.2⟩
    rw [hv, Belay.released, (fld_or_force _).1, (fld_or_force _).2]
  · exact ⟨_, if_pos (reach hfn hn), State.writeBelay_releases ht hr⟩
  · have forced : ¬ BelayTakes s (funcPart fn) n (v ||| 256).toNat := by
      have hv : (v ||| 256).toNat = v.toNat ||| 256 := by simp
      rw [hv]
      unfold BelayTakes at ht ⊢
      rwa [(fld_or_force _).1, (fld_or_force _).2]
    exact ⟨(if_pos (reach hfn hn)).trans (congrArg _ (State.writeBelay_of_not_takes ht)),
      (if_pos (reach hfn hn)).trans (congrArg _ (State.writeBelay_of_not_takes forced))⟩
  · refine (if_pos ?_).trans rfl
    simp [hfn, hc, hp]

/-- Settles O31: each register by its own writer, and no boundary follows where none is due. -/
theorem ringAndVfmapRegisters : Obligations.RingAndVfmapRegisters := by
  unfold Obligations.RingAndVfmapRegisters
  refine ⟨fun s fn v hfn hd hv => ?_, fun s fn v hfn hv => ?_, fun s fn v hfn hb hv => ?_, fun s fn v hfn hv => ?_, fun s fn old v => ?_,
    fun s fn v hfn hok => ?_, fun s fn v hfn hb hok => ?_, fun s fn v hfn => ⟨fun hok => ?_, fun hok => ?_⟩, fun s pf k v hpf hk hk' hok => ?_,
    fun s pf k v hpf hok => ?_⟩
  · refine (if_pos hfn).trans (congrArg _ ?_)
    rw [State.writeRqtail]
    dsimp only
    rw [if_neg (by simp only [hd, Bool.false_or, decide_eq_true_eq]; omega)]
  · refine (if_pos hfn).trans (congrArg _ ?_)
    rw [State.writeRqtail]
    dsimp only
    rw [if_pos (by simpa using hv)]
  · refine (if_pos hfn).trans (congrArg _ ?_)
    rw [State.writeCqhead]
    dsimp only
    rw [if_neg (by omega)]
    exact State.goOn_of_noBoundary hb
  · refine (if_pos hfn).trans (congrArg _ ?_)
    rw [State.writeCqhead]
    dsimp only
    rw [if_pos hv]
  · simp [State.cfgOk, State.mayEnableRing, imp_iff_not_or, and_assoc]
  · refine (if_pos hfn).trans (congrArg _ ?_)
    rw [State.writeRingCfg]
    dsimp only
    rw [if_neg Bool.false_ne_true, if_pos hok]
  · refine (if_pos hfn).trans (congrArg _ ?_)
    rw [State.writeRingCfg]
    dsimp only
    rw [if_pos rfl, if_pos hok]
    exact State.goOn_of_noBoundary hb
  · refine (if_pos hfn).trans (congrArg _ ?_)
    rw [State.writeRingCfg]
    dsimp only
    rw [if_neg Bool.false_ne_true, if_neg (by rw [hok]; exact Bool.false_ne_true)]
  · refine (if_pos hfn).trans (congrArg _ ?_)
    rw [State.writeRingCfg]
    dsimp only
    rw [if_pos rfl, if_neg (by rw [hok]; exact Bool.false_ne_true)]
  · refine (if_pos (by simp [hpf, hk, hk'])).trans (congrArg _ ?_)
    rw [State.writeVfmap, if_pos hok]
  · show execVfmap pf k v s = _
    have kept : s.writeVfmap pf k v.toNat = s := if_neg (by rw [hok]; exact Bool.false_ne_true)
    rw [execVfmap, kept]
    exact ite_self _

/-- Settles O32: each register by its own writer. -/
theorem servingAndPlainRegisters : Obligations.ServingAndPlainRegisters := by
  unfold Obligations.ServingAndPlainRegisters
  refine ⟨⟨fun s p v hp hc => ?_, fun s p v hp hc => ?_, fun s p v hp hc => ⟨?_, ?_⟩, fun s p v hp hen hph h0 => ?_,
    fun s p v hp hen hph h0 => ⟨fun hok => ?_, fun hok => ?_⟩, fun s p v hp hen hph hb h0 hok => ?_, fun s p v hp hen h0 => ⟨fun hok => ?_, fun hok => ?_⟩,
    fun s p v hp hen h0 => ⟨fun ha => ?_, fun ha => ?_⟩⟩,
    fun s fn v hfn => ?_, fun s fn x i v hfn hi => ?_, fun s p v hp hen hph => ?_, fun s fn v hpf hfn hvf => ?_, fun s fn v hfn => ?_⟩
  · refine ⟨_, if_pos hp, ?_⟩
    rw [State.writeKvframes, if_neg (by simp [hc]), State.part_updPart]
    exact ⟨rfl, rfl, rfl, rfl, rfl, rfl⟩
  · refine ⟨_, if_pos hp, ?_⟩
    rw [State.writeKvgrans, if_neg (by simp [hc]), State.part_updPart]
    exact ⟨rfl, rfl, rfl, rfl, rfl⟩
  · exact (if_pos hp).trans (congrArg _ (if_pos (by simp [hc])))
  · exact (if_pos hp).trans (congrArg _ (if_pos (by simp [hc])))
  · refine (if_pos hp).trans (congrArg _ ?_)
    have hu : (s.part p).unlocked = true := by simp [Part.unlocked, hen, hph]
    rw [State.writeSrvctl]
    dsimp only
    rw [if_neg (by simp [h0]), if_neg (by simp [hen]), if_pos hu]
    rfl
  · refine (if_pos hp).trans (congrArg _ ?_)
    have hu : (s.part p).unlocked = true := by simp [Part.unlocked, hen, hph]
    rw [State.writeSrvctl]
    simp only [h0, hen, hu, hok, if_true, Bool.not_true, Bool.false_eq_true, if_false]
  · refine (if_pos hp).trans (congrArg _ ?_)
    have hu : (s.part p).unlocked = true := by simp [Part.unlocked, hen, hph]
    rw [State.writeSrvctl]
    simp only [h0, hu, hok, if_true, Bool.not_false]
  · refine (if_pos hp).trans (congrArg _ ?_)
    have hu : (s.part p).unlocked = false := by simp [Part.unlocked, hph]
    rw [State.writeSrvctl]
    simp only [h0, hen, hu, hok, if_true, Bool.not_true, Bool.false_eq_true, if_false]
    refine State.goOn_of_noBoundary ?_
    unfold NoBoundary
    rw [State.part_setPart]
    exact ⟨hb.1, hb.2.1, .inl hph⟩
  · refine (if_pos hp).trans (congrArg _ ?_)
    have hu : (s.part p).unlocked = false := by simp [Part.unlocked, hen]
    rw [State.writeSrvctl]
    simp only [h0, hen, hu, hok, if_true, Bool.not_true, Bool.false_eq_true, if_false]
  · refine (if_pos hp).trans (congrArg _ ?_)
    have hu : (s.part p).unlocked = false := by simp [Part.unlocked, hen]
    rw [State.writeSrvctl]
    simp only [h0, hu, hok, if_true, Bool.not_false, Bool.false_eq_true, if_false]
  · refine (if_pos hp).trans (congrArg _ ?_)
    rw [State.writeSrvctl]
    dsimp only
    rw [if_neg (by simp [h0]), if_pos hen, State.clearEn, if_pos ha, State.updPart, hen, Bool.or_true]
  · refine (if_pos hp).trans (congrArg _ ?_)
    rw [State.writeSrvctl]
    rw [if_neg (by simp [h0]), if_pos hen, State.clearEn, if_neg (by simp [ha])]
  · rw [exec_registerWrite v hfn (by omega) rfl (by omega), State.writeReg_block v (by omega)]
    rfl
  · obtain ⟨hreach, hx⟩ := State.hostReach_of_reachCtx hfn
    have hx' := ctxPer_le s.mode
    rw [exec_registerWrite v hreach (by omega) (by omega) (by omega), State.writeReg, mergeReg_whole _ _ v.isLt, if_neg (by omega),
      if_pos (by omega)]
    have hdiv : (0x1_0000 + 256 * x + 8 * i - 0x1_0000) / 256 = x := by omega
    have hmod : (0x1_0000 + 256 * x + 8 * i) % 256 = 8 * i := by omega
    rw [hdiv, hmod, if_pos hfn, State.writeWindow, if_pos (by omega)]
    simp only [show 8 * (8 * i) = 64 * i by omega]
  · obtain ⟨hreach, hvf⟩ := State.hostReach_of_reachPf hp
    rw [exec_registerWrite v hreach (by omega) (by omega) (by omega), State.writeReg, mergeReg_whole _ _ v.isLt, if_neg (by omega),
      if_neg (by omega), if_neg (not_not_intro hvf), if_pos (by omega), funcPart_of_pf hvf]
    have hu : (s.part p).unlocked = true := by simp [Part.unlocked, hen, hph]
    simp only [State.writeServing, hu, if_true, keepFields, List.map, List.sum_cons, List.sum_nil, Nat.add_zero]
  · show execRegisterWrite fn 0x30 v s = _
    rw [execRegisterWrite, if_pos ⟨rfl, hvf⟩, if_pos (by simp [hpf, hfn])]
    rfl
  · rw [exec_registerWrite v hfn (by omega) rfl (by omega), State.writeReg_block v (by omega)]
    have h : ¬ (funcVf fn = 0 ∧ 0x100 ≤ 0x60 ∧ 0x60 < 0x2F0) := by omega
    exact congrArg _ (if_neg h)

end Sys2Proof.Proofs
end

section
/-! PROOFS. Starts, pre-emption and context control (R210 to R223, R280). -/

namespace Sys2Proof.Machine

/-! ## Folds -/

/-- A fold that meets `x` reaches `Q`, where `P` holds on the way to it and `Q` holds from then on. -/
theorem foldl_reaches {α β : Type} {f : β → α → β} {P Q : β → Prop} {l : List α} {x : α} {b : β} (hx : x ∈ l) (hb : P b)
    (hP : ∀ b, ∀ a ∈ l, P b → P (f b a)) (hit : ∀ b, P b → Q (f b x)) (hQ : ∀ b, ∀ a ∈ l, Q b → Q (f b a)) : Q (l.foldl f b) := by
  obtain ⟨l₁, l₂, rfl⟩ := List.append_of_mem hx
  rw [List.foldl_append, List.foldl_cons]
  refine List.foldlRecOn l₂ f (motive := Q) (hit _ (List.foldlRecOn l₁ f (motive := P) hb fun b h a ha => hP b a (by simp [ha]) h)) ?_
  exact fun b h a ha => hQ b a (by simp [ha]) h

theorem foldl_fixed {α β : Type} {f : β → α → β} {l : List α} {b : β} (h : ∀ a ∈ l, f b a = b) : l.foldl f b = b := by
  induction l with
  | nil => rfl
  | cons a l ih => rw [List.foldl_cons, h a (by simp), ih fun a ha => h a (by simp [ha])]

/-! ## Contexts and queues -/

theorem State.context_setContext_ne {s : State} {p x y : Nat} (v : Context) (h : y ≠ x) : (s.setContext p x v).context p y = s.context p y :=
  Table.get_set_ne _ _ _ (by omega)

theorem State.context_updContext_ne {s : State} {p x y : Nat} (f : Context → Context) (h : y ≠ x) :
    (s.updContext p x f).context p y = s.context p y := State.context_setContext_ne _ h

theorem State.context_congr {s t : State} (h : t.contexts = s.contexts) (p x : Nat) : t.context p x = s.context p x := by
  simp only [State.context, h]

theorem State.updContext_self {s : State} {p x : Nat} {f g : Context → Context} (h : f (s.context p x) = g (s.context p x)) :
    s.updContext p x f = s.updContext p x g := by
  simp only [State.updContext, h]

theorem Core.unmarked_mark (k : Core) (q : Nat) : (k.setQueue q { k.queue q with stopped := true }).unmarked = k.unmarked := by
  unfold Core.setQueue Core.queue
  split
  · rfl
  · split
    · rfl
    · split <;> rfl

theorem Core.setQueue_run (k : Core) (q : Nat) (v : QueueSt) : (k.setQueue q v).run = k.run := by
  unfold Core.setQueue
  split
  · rfl
  · split
    · rfl
    · split <;> rfl

theorem OnlyStops.refl (s : State) : OnlyStops s s := ⟨rfl, fun _ => rfl⟩

theorem OnlyStops.trans {s t u : State} (h : OnlyStops s t) (k : OnlyStops t u) : OnlyStops s u :=
  ⟨k.1.trans h.1, fun c => (k.2 c).trans (h.2 c)⟩

theorem OnlyStops.mode {s t : State} (h : OnlyStops s t) : t.mode = s.mode := by
  have hmode := congrArg (fun u : State => u.start.mode) h.1
  exact hmode

theorem OnlyStops.foldl {α : Type} {f : State → α → State} (h : ∀ s a, OnlyStops s (f s a)) (l : List α) (s : State) :
    OnlyStops s (l.foldl f s) := List.foldlRecOn l f (motive := OnlyStops s) (.refl s) fun _ hb a _ => hb.trans (h _ a)

theorem OnlyStops.setContext (s : State) (p x : Nat) (v : Context) : OnlyStops s (s.setContext p x v) := ⟨rfl, fun _ => rfl⟩

theorem OnlyStops.updContext (s : State) (p x : Nat) (f : Context → Context) : OnlyStops s (s.updContext p x f) := OnlyStops.setContext ..

/-! ## Queues that stand at their save boundaries (R217) -/

theorem State.settle_contexts (s : State) (c q : Nat) : (s.settle c q).contexts = s.contexts := by
  unfold State.settle
  split
  · rfl
  · split <;> rfl

theorem State.settle_onlyStops (s : State) (c q : Nat) : OnlyStops s (s.settle c q) := by
  unfold State.settle
  split
  · exact .refl s
  · split
    · refine ⟨rfl, fun d => ?_⟩
      by_cases h : d = c
      · subst h
        rw [State.updQueue, State.core_updCore, Core.unmarked_mark]
      · rw [State.updQueue, State.core_updCore_ne _ _ h]
    · exact .refl s

theorem State.stopQueues_contexts (s : State) (kd : BitVec 512) : (s.stopQueues kd).contexts = s.contexts :=
  List.foldlRecOn (motive := fun t : State => t.contexts = s.contexts) _ _ rfl fun _ ht c _ =>
    List.foldlRecOn (motive := fun t : State => t.contexts = s.contexts) _ _ ht fun t ht q _ => (t.settle_contexts c q).trans ht

theorem State.stopQueues_onlyStops (s : State) (kd : BitVec 512) : OnlyStops s (s.stopQueues kd) :=
  .foldl (fun s _ => .foldl (fun s _ => s.settle_onlyStops ..) _ s) _ s

/-- Whether queue `q` of core `c` waits for no memory while its kernel is being saved. -/
def State.stands (s : State) (c q : Nat) : Bool :=
  match (s.core c).run with
  | none => false
  | some r => s.stopping r && !((s.core c).queue q).stalled

theorem State.stands_of_run {s : State} {c : Nat} {r : CoreRun} (q : Nat) (h : (s.core c).run = some r) :
    s.stands c q = (s.stopping r && !((s.core c).queue q).stalled) := by simp only [State.stands, h]

theorem State.settle_of_stands {s : State} {c q : Nat} (h : s.stands c q = true) :
    s.settle c q = s.updQueue c q (fun k => { k with stopped := true }) := by
  unfold State.stands at h
  unfold State.settle
  cases hr : (s.core c).run with
  | none => simp [hr] at h
  | some r =>
    rw [hr] at h
    exact if_pos h

theorem State.settle_of_not_stands {s : State} {c q : Nat} (h : s.stands c q = false) : s.settle c q = s := by
  unfold State.stands at h
  unfold State.settle
  cases hr : (s.core c).run with
  | none => rfl
  | some r =>
    rw [hr] at h
    exact if_neg (by simpa using h)

theorem State.run_settle (s : State) (c d j : Nat) : ((s.settle d j).core c).run = (s.core c).run := by
  cases h : s.stands d j with
  | false => rw [State.settle_of_not_stands h]
  | true =>
    rw [State.settle_of_stands h]
    by_cases hd : c = d
    · subst hd
      rw [State.updQueue, State.core_updCore, Core.setQueue_run]
    · rw [State.updQueue, State.core_updCore_ne _ _ hd]

theorem State.queue_settle (s : State) {c q d j : Nat} (hq : q < 4) (hj : j < 4) : ((s.settle d j).core c).queue q =
    if c = d ∧ q = j ∧ s.stands d j = true then { (s.core c).queue q with stopped := true } else (s.core c).queue q := by
  cases h : s.stands d j with
  | false => rw [State.settle_of_not_stands h, if_neg (by simp)]
  | true =>
    rw [State.settle_of_stands h]
    by_cases hd : c = d
    · subst hd
      by_cases hqj : q = j
      · subst hqj
        rw [State.queue_updQueue _ _ _ _ hq, if_pos ⟨rfl, rfl, rfl⟩]
      · rw [State.updQueue, State.core_updCore, Core.queue_setQueue_ne _ _ hj hq hqj, if_neg (by simp [hqj])]
    · rw [State.updQueue, State.core_updCore_ne _ _ hd, if_neg (by simp [hd])]

theorem State.stands_settle (s : State) {c q d j : Nat} (hq : q < 4) (hj : j < 4) : (s.settle d j).stands c q = s.stands c q := by
  have hst : (((s.settle d j).core c).queue q).stalled = ((s.core c).queue q).stalled := by
    rw [State.queue_settle s hq hj]
    split <;> rfl
  unfold State.stands
  rw [State.run_settle, hst]
  cases (s.core c).run with
  | none => rfl
  | some r => simp only [State.stopping, State.context_congr (s.settle_contexts d j)]

/-- In `t` the queue is marked as `s` says, or is still to be marked. -/
def MarkDue (s : State) (c q : Nat) (t : State) : Prop :=
  t.stands c q = s.stands c q ∧ (((t.core c).queue q).stopped || s.stands c q) = (((s.core c).queue q).stopped || s.stands c q)

/-- In `t` the queue is marked as `s` says. -/
def MarkDone (s : State) (c q : Nat) (t : State) : Prop :=
  t.stands c q = s.stands c q ∧ ((t.core c).queue q).stopped = (((s.core c).queue q).stopped || s.stands c q)

section Mark

variable {s t : State} {c q : Nat}

theorem MarkDone.due (h : MarkDone s c q t) : MarkDue s c q t := ⟨h.1, by rw [h.2, Bool.or_assoc, Bool.or_self]⟩

theorem MarkDue.settle (hq : q < 4) (h : MarkDue s c q t) {d j : Nat} (hj : j < 4) : MarkDue s c q (t.settle d j) := by
  refine ⟨(t.stands_settle hq hj).trans h.1, ?_⟩
  rw [State.queue_settle t hq hj]
  split
  next hit =>
    obtain ⟨rfl, rfl, hs⟩ := hit
    rw [h.1] at hs
    simp [hs]
  next => exact h.2

theorem MarkDue.hit (hq : q < 4) (h : MarkDue s c q t) : MarkDone s c q (t.settle c q) := by
  refine ⟨(t.stands_settle hq hq).trans h.1, ?_⟩
  rw [State.queue_settle t hq hq, h.1, ← h.2]
  cases s.stands c q <;> simp

theorem MarkDone.settle (hq : q < 4) (h : MarkDone s c q t) {d j : Nat} (hj : j < 4) : MarkDone s c q (t.settle d j) := by
  refine ⟨(t.stands_settle hq hj).trans h.1, ?_⟩
  rw [State.queue_settle t hq hj]
  split
  next hit =>
    obtain ⟨rfl, rfl, hs⟩ := hit
    rw [h.1] at hs
    simp [hs]
  next => exact h.2

end Mark

theorem State.stopQueues_stopped {s : State} {kd : BitVec 512} {c q : Nat} (hc : c ∈ bitsBelow 48 (kdCores kd)) (hq : q < 4) :
    (((s.stopQueues kd).core c).queue q).stopped = (((s.core c).queue q).stopped || s.stands c q) := by
  have due (t : State) (d : Nat) (h : MarkDue s c q t) : MarkDue s c q ((List.range 4).foldl (fun s j => s.settle d j) t) :=
    List.foldlRecOn (motive := MarkDue s c q) _ _ h fun _ hb _ hj => hb.settle hq (List.mem_range.1 hj)
  have done (t : State) (d : Nat) (h : MarkDone s c q t) : MarkDone s c q ((List.range 4).foldl (fun s j => s.settle d j) t) :=
    List.foldlRecOn (motive := MarkDone s c q) _ _ h fun _ hb _ hj => hb.settle hq (List.mem_range.1 hj)
  exact (foldl_reaches hc ⟨rfl, rfl⟩ (fun t d _ => due t d)
    (fun t h => foldl_reaches (List.mem_range.2 hq) h (fun _ _ hj hb => hb.settle hq (List.mem_range.1 hj)) (fun _ hb => hb.hit hq)
      fun _ _ hj hb => hb.settle hq (List.mem_range.1 hj)) fun t d _ => done t d).2

/-! ## Save triggers (R216) -/

/-- A context but for its state and the save trigger it holds. -/
def Context.unsaved (t : Context) : Context := { t with state := .idle, trigger := none }

/-- Whether a save trigger does nothing to the context: no kernel runs there, a fault has stopped it, or it neither runs nor is restored. -/
def Context.ignores (t : Context) : Prop :=
  (∀ k, t.kernel = some k → k.fault = none → t.state ≠ .running ∧ t.state ≠ .restoring)

theorem State.triggerSave_of_ignores {s : State} {p x : Nat} (hold : Bool) (status : Nat) (h : (s.context p x).ignores) :
    s.triggerSave p x hold status = s := by
  unfold State.triggerSave
  cases hk : (s.context p x).kernel with
  | none => simp only [hk]
  | some k =>
    simp only [hk]
    cases hf : k.fault with
    | some f => exact if_pos rfl
    | none =>
      rw [if_neg (by simp)]
      obtain ⟨hrun, hrest⟩ := h k hk hf
      cases hst : (s.context p x).state with
      | running => exact absurd hst hrun
      | restoring => exact absurd hst hrest
      | _ => rfl

theorem State.triggerSave_of_running {s : State} {p x : Nat} {k : Kernel} (hold : Bool) (status : Nat) (hk : (s.context p x).kernel = some k)
    (hf : k.fault = none) (hst : (s.context p x).state = .running) :
    s.triggerSave p x hold status =
      (s.setContext p x { s.context p x with state := .saving, trigger := some (hold, status) }).stopQueues k.kd := by
  simp only [State.triggerSave, hk, hst]
  exact if_neg (by simp [hf])

theorem State.triggerSave_of_restoring {s : State} {p x : Nat} {k : Kernel} (hold : Bool) (status : Nat) (hk : (s.context p x).kernel = some k)
    (hf : k.fault = none) (hst : (s.context p x).state = .restoring) :
    s.triggerSave p x hold status = s.setContext p x { s.context p x with
      trigger := some (match (s.context p x).trigger with | none => (hold, status) | some (h, st) => (h || hold, st)) } := by
  simp only [State.triggerSave, hk, hst]
  rw [if_neg (by simp [hf])]
  cases (s.context p x).trigger <;> rfl

theorem Context.ignores_or (t : Context) :
    t.ignores ∨ ∃ k, t.kernel = some k ∧ k.fault = none ∧ (t.state = .running ∨ t.state = .restoring) := by
  by_cases h : t.ignores
  · exact .inl h
  · unfold Context.ignores at h
    push Not at h
    obtain ⟨k, hk, hf, hst⟩ := h
    exact .inr ⟨k, hk, hf, by by_cases hr : t.state = .running <;> simp_all⟩

theorem State.triggerSave_onlyStops (s : State) (p x : Nat) (hold : Bool) (status : Nat) : OnlyStops s (s.triggerSave p x hold status) := by
  rcases (s.context p x).ignores_or with h | ⟨k, hk, hf, hst | hst⟩
  · rw [State.triggerSave_of_ignores _ _ h]
    exact .refl s
  · rw [State.triggerSave_of_running _ _ hk hf hst]
    exact (OnlyStops.setContext ..).trans (State.stopQueues_onlyStops ..)
  · rw [State.triggerSave_of_restoring _ _ hk hf hst]
    exact .setContext ..

theorem State.triggerSave_context_ne (s : State) {p x y : Nat} (hold : Bool) (status : Nat) (h : y ≠ x) :
    (s.triggerSave p x hold status).context p y = s.context p y := by
  rcases (s.context p x).ignores_or with hi | ⟨k, hk, hf, hst | hst⟩
  · rw [State.triggerSave_of_ignores _ _ hi]
  · rw [State.triggerSave_of_running _ _ hk hf hst, State.context_congr (State.stopQueues_contexts ..), State.context_setContext_ne _ h]
  · rw [State.triggerSave_of_restoring _ _ hk hf hst, State.context_setContext_ne _ h]

theorem State.triggerSave_unsaved (s : State) (p x y : Nat) (hold : Bool) (status : Nat) :
    ((s.triggerSave p x hold status).context p y).unsaved = (s.context p y).unsaved := by
  by_cases h : y = x
  · subst h
    rcases (s.context p y).ignores_or with hi | ⟨k, hk, hf, hst | hst⟩
    · rw [State.triggerSave_of_ignores _ _ hi]
    · rw [State.triggerSave_of_running _ _ hk hf hst, State.context_congr (State.stopQueues_contexts ..), State.context_setContext]
      rfl
    · rw [State.triggerSave_of_restoring _ _ hk hf hst, State.context_setContext]
      rfl
  · rw [State.triggerSave_context_ne _ _ _ h]

/-! ## Pre-emption (R214) -/

/-- Context `y`'s kernel gives way to a start that waits in context `c`. -/
def State.giveWay (p : Nat) (c : Context) (st : Start) (s : State) (y : Nat) : State :=
  match (s.context p y).kernel with
  | some k =>
    if (s.context p y).prio < c.prio ∧ kdCores k.kd &&& kdCores st.kd ≠ 0 ∧ ((s.context p y).state = .running ∨ (s.context p y).state = .restoring) then
      s.triggerSave p y false 0x0303
    else s
  | none => s

/-- What a start that waits in context `x` pre-empts. -/
def State.preemptFor (p : Nat) (s : State) (x : Nat) : State :=
  match (s.context p x).kernel, (s.context p x).pending with
  | none, some st => s.ctxs.foldl (State.giveWay p (s.context p x) st) s
  | _, _ => s

theorem State.preemptFor_of_waits {s : State} {p x : Nat} {st : Start} (hk : (s.context p x).kernel = none)
    (hp : (s.context p x).pending = some st) : State.preemptFor p s x = s.ctxs.foldl (State.giveWay p (s.context p x) st) s := by
  simp only [State.preemptFor, hk, hp]

theorem State.preemptAll_eq (s : State) (p : Nat) : s.preemptAll p = s.ctxs.foldl (State.preemptFor p) s := rfl

section Preempt

variable {s t : State} {p x y : Nat}

/-- No start that waits has a higher priority than context `y`. -/
def NoneAbove (s : State) (p y : Nat) : Prop :=
  ∀ z, z < ctxPer s.mode → (s.context p z).pending.isSome = true → (s.context p z).kernel = none → (s.context p z).prio ≤ (s.context p y).prio

/-- The contexts of `t` are those of `s` but for states and save triggers. -/
def SavesOnly (p : Nat) (s t : State) : Prop := OnlyStops s t ∧ ∀ z, (t.context p z).unsaved = (s.context p z).unsaved

theorem SavesOnly.refl (p : Nat) (s : State) : SavesOnly p s s := ⟨.refl s, fun _ => rfl⟩

theorem SavesOnly.trans {u : State} (h : SavesOnly p s t) (k : SavesOnly p t u) : SavesOnly p s u :=
  ⟨h.1.trans k.1, fun z => (k.2 z).trans (h.2 z)⟩

theorem SavesOnly.foldl {α : Type} {f : State → α → State} (h : ∀ s a, SavesOnly p s (f s a)) (l : List α) (s : State) :
    SavesOnly p s (l.foldl f s) := List.foldlRecOn l f (motive := SavesOnly p s) (.refl p s) fun _ hb a _ => hb.trans (h _ a)

theorem SavesOnly.prio (h : SavesOnly p s t) (z : Nat) : (t.context p z).prio = (s.context p z).prio := by
  have hz := congrArg Context.prio (h.2 z)
  exact hz

theorem SavesOnly.kernel (h : SavesOnly p s t) (z : Nat) : (t.context p z).kernel = (s.context p z).kernel := by
  have hz := congrArg Context.kernel (h.2 z)
  exact hz

theorem SavesOnly.pending (h : SavesOnly p s t) (z : Nat) : (t.context p z).pending = (s.context p z).pending := by
  have hz := congrArg Context.pending (h.2 z)
  exact hz

theorem SavesOnly.noneAbove (h : SavesOnly p s t) (k : NoneAbove s p y) : NoneAbove t p y := by
  intro z hz
  rw [h.pending, h.kernel, h.prio, h.prio]
  exact k z (h.1.mode ▸ hz)

theorem State.giveWay_eq (p : Nat) (c : Context) (st : Start) (s : State) (y : Nat) :
    State.giveWay p c st s y = s ∨ State.giveWay p c st s y = s.triggerSave p y false 0x0303 ∧ (s.context p y).prio < c.prio := by
  unfold State.giveWay
  split
  · split
    next h => exact .inr ⟨rfl, h.1⟩
    next => exact .inl rfl
  · exact .inl rfl

theorem State.giveWay_savesOnly (p : Nat) (c : Context) (st : Start) (s : State) (y : Nat) : SavesOnly p s (State.giveWay p c st s y) := by
  rcases State.giveWay_eq p c st s y with h | ⟨h, _⟩ <;> rw [h]
  · exact .refl p s
  · exact ⟨State.triggerSave_onlyStops .., fun z => State.triggerSave_unsaved ..⟩

theorem State.preemptFor_savesOnly (p : Nat) (s : State) (x : Nat) : SavesOnly p s (State.preemptFor p s x) := by
  unfold State.preemptFor
  split
  · exact .foldl (State.giveWay_savesOnly p _ _) _ s
  · exact .refl p s

theorem State.preemptAll_savesOnly (s : State) (p : Nat) : SavesOnly p s (s.preemptAll p) :=
  .foldl (State.preemptFor_savesOnly p) _ s

/-- A context that ignores save triggers stays as it is. -/
theorem State.giveWay_context {z : Nat} (c : Context) (st : Start) (h : (s.context p y).ignores) :
    (State.giveWay p c st s z).context p y = s.context p y := by
  rcases State.giveWay_eq p c st s z with he | ⟨he, _⟩ <;> rw [he]
  by_cases hz : y = z
  · subst hz
    rw [State.triggerSave_of_ignores _ _ h]
  · exact State.triggerSave_context_ne _ _ _ hz

theorem State.preemptFor_context {z : Nat} (h : (s.context p y).ignores) : (State.preemptFor p s z).context p y = s.context p y := by
  unfold State.preemptFor
  split
  · exact List.foldlRecOn (motive := fun t : State => t.context p y = s.context p y) _ _ rfl fun t ht a _ =>
      (State.giveWay_context _ _ (by rw [ht]; exact h)).trans ht
  · rfl

theorem State.preemptAll_context (h : (s.context p y).ignores) : (s.preemptAll p).context p y = s.context p y :=
  List.foldlRecOn (motive := fun t : State => t.context p y = s.context p y) _ _ rfl fun t ht a _ =>
      (State.preemptFor_context (by rw [ht]; exact h)).trans ht

/-- A context below which no start waits stays as it is. -/
theorem State.preemptAll_of_noneAbove (h : NoneAbove s p y) : (s.preemptAll p).context p y = s.context p y := by
  rw [State.preemptAll_eq]
  refine (List.foldlRecOn (motive := fun t : State => SavesOnly p s t ∧ t.context p y = s.context p y) _ _ ⟨.refl p s, rfl⟩ ?_).2
  rintro t ⟨ht, hy⟩ x hx
  refine ⟨ht.trans (State.preemptFor_savesOnly p t x), ?_⟩
  unfold State.preemptFor
  split
  next st hk hp =>
    refine (List.foldlRecOn (motive := fun u : State => SavesOnly p t u ∧ u.context p y = s.context p y) _ _ ⟨.refl p t, hy⟩ ?_).2
    rintro u ⟨hu, huy⟩ z -
    refine ⟨hu.trans (State.giveWay_savesOnly ..), ?_⟩
    rcases State.giveWay_eq p (t.context p x) st u z with he | ⟨he, hlt⟩ <;> rw [he]
    · exact huy
    · have hz : y ≠ z := by
        rintro rfl
        have hle := ht.noneAbove h x (ht.1.mode ▸ List.mem_range.1 hx) (by simp [hp]) hk
        rw [hu.prio] at hlt
        omega
      rw [State.triggerSave_context_ne _ _ _ hz, huy]
  next => exact hy

theorem State.preemptAll_of_noPending (h : ∀ z, z < ctxPer s.mode → (s.context p z).pending = none) : s.preemptAll p = s := by
  rw [State.preemptAll_eq]
  refine foldl_fixed fun x hx => ?_
  unfold State.preemptFor
  split
  next hp => cases hp.symm.trans (h x (List.mem_range.1 hx))
  next => rfl

theorem NoneAbove.of_noPending (h : ∀ z, z < ctxPer s.mode → (s.context p z).pending = none) : NoneAbove s p y :=
  fun z hz hp => by simp [h z hz] at hp

/-- In `t` context `y` is as in `s`, or its kernel is being saved. -/
def SaveDue (s : State) (p y : Nat) (t : State) : Prop :=
  SavesOnly p s t ∧ (t.context p y = s.context p y ∨ t.context p y = { s.context p y with state := .saving, trigger := some (false, 0x0303) })

/-- In `t` context `y`'s kernel is being saved. -/
def SaveBegun (s : State) (p y : Nat) (t : State) : Prop :=
  SavesOnly p s t ∧ t.context p y = { s.context p y with state := .saving, trigger := some (false, 0x0303) }

theorem SaveBegun.ignores (h : SaveBegun s p y t) : (t.context p y).ignores := by
  rw [h.2]
  exact fun _ _ _ => ⟨CtxState.noConfusion, CtxState.noConfusion⟩

theorem SaveBegun.giveWay (h : SaveBegun s p y t) (c : Context) (st : Start) (z : Nat) : SaveBegun s p y (State.giveWay p c st t z) :=
  ⟨h.1.trans (State.giveWay_savesOnly ..), by rw [State.giveWay_context _ _ h.ignores, h.2]⟩

theorem SaveBegun.preemptFor (h : SaveBegun s p y t) (z : Nat) : SaveBegun s p y (State.preemptFor p t z) :=
  ⟨h.1.trans (State.preemptFor_savesOnly ..), by rw [State.preemptFor_context h.ignores, h.2]⟩

variable {k : Kernel} {st : Start}

theorem SaveDue.giveWay (hk : (s.context p y).kernel = some k) (hf : k.fault = none) (hst : (s.context p y).state = .running)
    (h : SaveDue s p y t) (c : Context) (st : Start) (z : Nat) : SaveDue s p y (State.giveWay p c st t z) := by
  rcases h with ⟨h, hy | hy⟩
  · refine ⟨h.trans (State.giveWay_savesOnly ..), ?_⟩
    rcases State.giveWay_eq p c st t z with he | ⟨he, _⟩ <;> rw [he]
    · exact .inl hy
    · by_cases hz : y = z
      · subst hz
        rw [← hy] at hk hst
        rw [State.triggerSave_of_running _ _ hk hf hst, State.context_congr (State.stopQueues_contexts ..), State.context_setContext, hy]
        exact .inr rfl
      · rw [State.triggerSave_context_ne _ _ _ hz]
        exact .inl hy
  · have hb := SaveBegun.giveWay ⟨h, hy⟩ c st z
    exact ⟨hb.1, .inr hb.2⟩

theorem SaveDue.preemptFor (hk : (s.context p y).kernel = some k) (hf : k.fault = none) (hst : (s.context p y).state = .running)
    (h : SaveDue s p y t) (z : Nat) : SaveDue s p y (State.preemptFor p t z) := by
  unfold State.preemptFor
  split
  · exact List.foldlRecOn (motive := SaveDue s p y) _ _ h fun _ hb a _ => hb.giveWay hk hf hst _ _ a
  · exact h

theorem SaveDue.giveWay_hit (hk : (s.context p y).kernel = some k) (hf : k.fault = none) (hst : (s.context p y).state = .running) {c : Context}
    (hprio : (s.context p y).prio < c.prio) (hcores : kdCores k.kd &&& kdCores st.kd ≠ 0) (h : SaveDue s p y t) :
    SaveBegun s p y (State.giveWay p c st t y) := by
  rcases h with ⟨h, hy | hy⟩
  · refine ⟨h.trans (State.giveWay_savesOnly ..), ?_⟩
    have hk' := (h.kernel y).trans hk
    rw [State.giveWay, hk']
    dsimp only
    rw [← hy] at hst hprio
    rw [if_pos ⟨hprio, hcores, .inl hst⟩, State.triggerSave_of_running _ _ hk' hf hst, State.context_congr (State.stopQueues_contexts ..),
      State.context_setContext, hy]
  · exact SaveBegun.giveWay ⟨h, hy⟩ ..

/-- A running kernel of lower priority on a listed core is saved. -/
theorem State.preemptAll_of_below (hx : x < ctxPer s.mode) (hy : y < ctxPer s.mode) (hkx : (s.context p x).kernel = none)
    (hpx : (s.context p x).pending = some st) (hk : (s.context p y).kernel = some k) (hf : k.fault = none)
    (hst : (s.context p y).state = .running) (hprio : (s.context p y).prio < (s.context p x).prio)
    (hcores : kdCores k.kd &&& kdCores st.kd ≠ 0) : SaveBegun s p y (s.preemptAll p) := by
  rw [State.preemptAll_eq]
  refine foldl_reaches (P := SaveDue s p y) (List.mem_range.2 hx) ⟨.refl p s, .inl rfl⟩ (fun t z _ h => h.preemptFor hk hf hst z) (fun t h => ?_)
    fun t z _ h => h.preemptFor z
  have hkx' := (h.1.kernel x).trans hkx
  have hpx' := (h.1.pending x).trans hpx
  have hprio' : (s.context p y).prio < (t.context p x).prio := by
    rw [h.1.prio]
    exact hprio
  rw [State.preemptFor_of_waits hkx' hpx']
  exact foldl_reaches (P := SaveDue s p y) (List.mem_range.2 (h.1.1.mode ▸ hy)) h (fun t z _ h => h.giveWay hk hf hst _ _ z)
    (fun t h => h.giveWay_hit hk hf hst hprio' hcores) fun t z _ h => h.giveWay _ _ z

end Preempt

/-! ## Reports of a start or a kernel that ends (R81, R104) -/

theorem State.irq_eq (s : State) (fn vec : Nat) : ∃ o, s.irq fn vec = { s with out := o } := by
  unfold State.irq
  split
  · exact ⟨s.out, rfl⟩
  · exact ⟨_, rfl⟩

theorem State.countAborted_eq (s : State) (p status : Nat) : ∃ h o, s.countAborted p status = { s with host := h, out := o } := by
  unfold State.countAborted
  split
  · obtain ⟨o, ho⟩ := (s.updFunc p (fun f => { f with abortedKernels := satAdd 16 f.abortedKernels 1 })).irq_eq p 2
    rw [ho]
    exact ⟨_, _, rfl⟩
  · exact ⟨_, _, rfl⟩

theorem State.foldl_updCore_eq {α : Type} (f : α → Nat) (g : α → Core → Core) (l : List α) (s : State) :
    ∃ cs, l.foldl (fun s a => s.updCore (f a) (g a)) s = { s with cores := cs } := by
  induction l generalizing s with
  | nil => exact ⟨_, rfl⟩
  | cons a l ih =>
    obtain ⟨cs, h⟩ := ih (s.updCore (f a) (g a))
    exact ⟨cs, h⟩

theorem State.writeReports_eq (s : State) (p cores : Nat) (report : BitVec 256) :
    ∃ cs, s.writeReports p cores report = { s with cores := cs } := State.foldl_updCore_eq ..

/-- A report that is no step's reaches the context; functions hear of it, and the partition's energy counts what the host takes. -/
theorem State.deliver_eq (s : State) (p x status : Nat) (report : BitVec 256) :
    ∃ ps o, s.deliver p x false status report = { s with
      contexts := Table.set s.contexts (64 * p + x) { s.context p x with kreport := report, kends := ((s.context p x).kends + 1) % 2 ^ 32 }
      parts := ps, out := o } := by
  unfold State.deliver
  rw [if_neg Bool.false_ne_true]
  extract_lets c s₁ s₂ fn s₃
  split
  · exact ⟨_, _, rfl⟩
  · have h₃ : ∃ ps o, s₃ = { s₁ with parts := ps, out := o } := by
      unfold s₃
      split
      · exact ⟨_, _, rfl⟩
      · exact ⟨_, _, rfl⟩
    obtain ⟨ps, o, h₃⟩ := h₃
    obtain ⟨o', h'⟩ := s₃.irq_eq fn 1
    rw [h', h₃]
    exact ⟨_, _, rfl⟩

theorem State.endStart_eq (s : State) (p x : Nat) (st : Start) (status : Nat) (h : st.step = false) :
    ∃ cs hs ps o, s.endStart p x st status = { s with
      cores := cs, host := hs, parts := ps, out := o
      contexts := Table.set s.contexts (64 * p + x) { s.context p x with
        kreport := mkReport status 0 (kdKid st.kd) 0 0 0 0 0 0, kends := ((s.context p x).kends + 1) % 2 ^ 32 } } := by
  unfold State.endStart
  extract_lets report
  obtain ⟨hs, o, h₁⟩ := s.countAborted_eq p status
  obtain ⟨cs, h₂⟩ := (s.countAborted p status).writeReports_eq p (kdCores st.kd) report
  obtain ⟨ps, o', h₃⟩ := ((s.countAborted p status).writeReports p (kdCores st.kd) report).deliver_eq p x status report
  rw [h, h₃, h₂, h₁]
  exact ⟨cs, hs, ps, o', rfl⟩

theorem State.endStart_context {s : State} {p x : Nat} {st : Start} (status : Nat) (h : st.step = false) :
    (s.endStart p x st status).context p x = { s.context p x with
      kreport := mkReport status 0 (kdKid st.kd) 0 0 0 0 0 0, kends := ((s.context p x).kends + 1) % 2 ^ 32 } := by
  obtain ⟨cs, hs, ps, o, he⟩ := s.endStart_eq p x st status h
  rw [he]
  exact Table.get_set_same ..

theorem State.endStart_mem {s : State} {p x : Nat} {st : Start} (status : Nat) (h : st.step = false) : (s.endStart p x st status).mem = s.mem := by
  obtain ⟨cs, hs, ps, o, he⟩ := s.endStart_eq p x st status h
  rw [he]

/-! ## KGO (R212, R280) -/

theorem State.hears_iff (s : State) (fn x : Nat) : s.hears fn x = true ↔
    s.reachCtx fn x = true ∧ (s.func fn).disabled = false ∧ s.sanitising (funcPart fn) = false := by
  simp [State.hears, and_assoc]

theorem exec_kgo_of_ahead {s : State} {fn x : Nat} (hb : s.behind fn = false) : exec (.kgo fn x) s = .next (s.kgo fn x (s.context (funcPart fn) x).kstart) := by
  show execKgo fn x s = _
  simp [execKgo, hb]

section Kgo

variable {s : State} {fn x : Nat} (hlive : s.isLive = true) (hhears : s.hears fn x = true)

include hlive hhears

theorem exec_kgo_of_behind (hb : s.behind fn = true) :
    exec (.kgo fn x) s = .next (s.holdHost (.kgo fn x (s.context (funcPart fn) x).kstart)) := by
  show execKgo fn x s = _
  simp [execKgo, hb, hlive, hhears]

theorem State.kgo_of_serves {kd : BitVec 512} (hs : s.serves (funcPart fn) x = true) :
    s.kgo fn x kd = s.updContext (funcPart fn) x (fun t => { t with serving := true }) := by
  simp [State.kgo, hlive, hhears, hs]

theorem State.kgo_of_pending {kd : BitVec 512} (hs : s.serves (funcPart fn) x = false) (hp : (s.context (funcPart fn) x).pending.isSome = true) :
    s.kgo fn x kd = s.updContext (funcPart fn) x (fun t => { t with overrun := true }) := by
  simp [State.kgo, hlive, hhears, hs, hp]

theorem State.kgo_of_free {kd : BitVec 512} (hs : s.serves (funcPart fn) x = false) (hp : (s.context (funcPart fn) x).pending = none) :
    s.kgo fn x kd =
      let u := s.updContext (funcPart fn) x (fun t => { t with overrun := false, serving := false })
      if u.startOk (funcPart fn) x kd then (u.updContext (funcPart fn) x (fun t => { t with pending := some { kd := kd } })).preemptAll (funcPart fn)
      else u.endStart (funcPart fn) x { kd := kd } 0x0102 := by
  simp [State.kgo, hlive, hhears, hs, hp]

end Kgo

/-- What the checks of a start read of the state does not change with the marks of a refused KGO. -/
theorem State.startOk_marks (s : State) (p x : Nat) (kd : BitVec 512) :
    (s.updContext p x (fun t => { t with overrun := false, serving := false })).startOk p x kd = s.startOk p x kd := by
  unfold State.startOk
  rw [State.context_updContext]
  rfl

/-! ## The end of a kernel (R102, R104) -/

/-- A core but for the marks of its queues, the report it shows and the piece of a test that holds it. -/
def Core.work (k : Core) : Core := { k.unmarked with kreport := 0, testPiece := false }

theorem Core.work_unmarked (k : Core) : k.unmarked.work = k.work := rfl

theorem OnlyStops.work {s t : State} (h : OnlyStops s t) (c : Nat) : (t.core c).work = (s.core c).work := by
  have hc := congrArg (fun k : Core => { k with kreport := 0, testPiece := false }) (h.2 c)
  exact hc

theorem Core.work_run {k l : Core} (h : k.work = l.work) : k.run = l.run := by
  have hr := congrArg Core.run h
  exact hr

theorem Core.work_queue {k l : Core} (h : k.work = l.work) (q : Nat) :
    { k.queue q with stopped := false } = { l.queue q with stopped := false } := by
  have h0 := congrArg Core.qMx h
  have h1 := congrArg Core.qVec h
  have h2 := congrArg Core.qDma h
  have h3 := congrArg Core.qSeq h
  unfold Core.queue
  split
  · exact h0
  · split
    · exact h1
    · split
      · exact h2
      · exact h3

theorem State.quiesceDone_eq (s : State) : ∃ h o, s.quiesceDone = { s with host := h, out := o } := by
  refine List.foldlRecOn (motive := fun t : State => ∃ h o, t = { s with host := h, out := o }) _ _ ⟨s.host, s.out, rfl⟩ ?_
  rintro t ⟨h, o, ht⟩ fn -
  dsimp only
  split
  · exact ⟨h, o, ht⟩
  · split
    · exact ⟨h, o, ht⟩
    · obtain ⟨o', ho'⟩ := (t.updFunc fn (fun f => { f with quiescing := false })).irq_eq fn 2
      rw [ho', ht]
      exact ⟨_, _, rfl⟩

/-- A command on the way to the start of a piece: contexts stay, and cores but for the piece that holds them. -/
def OnlyPieces (s t : State) : Prop := t.contexts = s.contexts ∧ t.mem = s.mem ∧ ∀ c, (t.core c).work = (s.core c).work

theorem OnlyPieces.refl (s : State) : OnlyPieces s s := ⟨rfl, rfl, fun _ => rfl⟩

theorem OnlyPieces.trans {s t u : State} (h : OnlyPieces s t) (k : OnlyPieces t u) : OnlyPieces s u :=
  ⟨k.1.trans h.1, k.2.1.trans h.2.1, fun c => (k.2.2 c).trans (h.2.2 c)⟩

theorem State.holdUnit_onlyPieces (s : State) (k : UnitKind) (u : Nat) (on : Bool) : OnlyPieces s (s.holdUnit k u on) := by
  cases k with
  | core =>
    refine ⟨rfl, rfl, fun c => ?_⟩
    by_cases h : c = u
    · subst h
      rw [State.holdUnit, State.core_updCore]
      rfl
    · rw [State.holdUnit, State.core_updCore_ne _ _ h]
  | _ => exact .refl s

theorem State.startPiece_onlyPieces (s : State) (p : Nat) (cal : Bool) : OnlyPieces s (s.startPiece p cal) := by
  unfold State.startPiece
  dsimp only
  split
  · split
    · exact .refl s
    · split
      · exact .trans (t := s.updTu p cal _) (.refl s) (State.holdUnit_onlyPieces ..)
      · exact .refl s
  · exact .refl s

theorem State.startPieces_onlyPieces (s : State) (p : Nat) : OnlyPieces s (s.startPieces p) := by
  unfold State.startPieces
  split
  · exact (State.startPiece_onlyPieces ..).trans (State.startPiece_onlyPieces ..)
  · exact .refl s

theorem State.startPiecesIdle_onlyPieces (s : State) (p : Nat) : OnlyPieces s (s.startPiecesIdle p) := by
  unfold State.startPiecesIdle
  split
  · exact .refl s
  · exact State.startPieces_onlyPieces ..

theorem State.core_foldl_updCore {α : Type} {f : α → Nat} {g : α → Core → Core} {l : List α} {s : State} {c : Nat} (h : ∀ a ∈ l, f a ≠ c) :
    (l.foldl (fun s a => s.updCore (f a) (g a)) s).core c = s.core c := by
  induction l generalizing s with
  | nil => rfl
  | cons a l ih => rw [List.foldl_cons, ih fun a ha => h a (by simp [ha]), State.core_updCore_ne _ _ (h a (by simp)).symm]

/-- Each core of a list takes an update once. -/
theorem State.core_foldl_listed {l : List Nat} {g : Core → Core} (hl : l.Nodup) (s : State) (c : Nat) :
    (l.foldl (fun s c => s.updCore c g) s).core c = if c ∈ l then g (s.core c) else s.core c := by
  induction l generalizing s with
  | nil => rfl
  | cons a l ih =>
    obtain ⟨ha, hl⟩ := List.nodup_cons.1 hl
    rw [List.foldl_cons, ih hl]
    by_cases hc : c = a
    · subst hc
      rw [if_neg ha, State.core_updCore, if_pos (by simp)]
    · rw [State.core_updCore_ne _ _ hc]
      simp [hc]

theorem bitsBelow_nodup (n w : Nat) : (bitsBelow n w).Nodup := List.nodup_range.filter _

theorem State.writeReports_work (s : State) (p cores : Nat) (report : BitVec 256) (c : Nat) :
    ((s.writeReports p cores report).core c).work = (s.core c).work := by
  rw [State.writeReports, State.core_foldl_listed ((bitsBelow_nodup ..).filter _)]
  split <;> rfl

/-- The report of a kernel that ends (R104). -/
def State.endReport (s : State) (p x : Nat) (k : Kernel) (cycles : Nat) : BitVec 256 :=
  let flags := (bitsBelow 48 (kdCores k.kd)).foldl (fun a c => a ||| ((s.dropPartial p x).coreOf p x c).kflags) 0
  let f := k.fault.getD { status := reportStatus k.fault k.liveWrite flags }
  mkReport (reportStatus k.fault k.liveWrite flags) f.tag (kdKid k.kd) f.count f.queue f.core flags k.stalls cycles

/-- What the end of a kernel makes of core `c`. -/
def State.endedCore (s : State) (p x : Nat) (k : Kernel) (c : Nat) : Core :=
  let d := (s.dropPartial p x).core c
  if c ∈ bitsBelow 48 (kdCores k.kd) then
    if (s.context p x).state = .running ∨ (s.context p x).state = .saving then d.ranFor x
    else if (s.context p x).state = .restoring then d.release else d
  else d

/-- `t` is `s` after the end of kernel `k` of a context: what its cores are, the context's own fields, and no other memory than the
count of free values. -/
structure KernelEnded (s : State) (p x : Nat) (k : Kernel) (cycles : Nat) (t : State) : Prop where
  context : ∃ counts, t.context p x = { s.context p x with
    counts := counts, state := .idle, kernel := none, trigger := none, savedCores := [],
    kreport := s.endReport p x k cycles, kends := ((s.context p x).kends + 1) % 2 ^ 32 }
  core : ∀ c, (t.core c).work = (s.endedCore p x k c).work

theorem Context.ignores_of_noKernel {t : Context} (h : t.kernel = none) : t.ignores := by
  intro k hk
  cases h.symm.trans hk

theorem KernelEnded.after {s t u : State} {p x cycles : Nat} {k : Kernel} (h : KernelEnded s p x k cycles t)
    (hctx : u.context p x = t.context p x) (hcore : ∀ c, (u.core c).work = (t.core c).work) : KernelEnded s p x k cycles u :=
  ⟨hctx ▸ h.context, fun c => (hcore c).trans (h.core c)⟩

theorem KernelEnded.kreport {s t : State} {p x cycles : Nat} {k : Kernel} (h : KernelEnded s p x k cycles t) :
    (t.context p x).kreport = s.endReport p x k cycles := by
  obtain ⟨counts, hctx⟩ := h.context
  rw [hctx]

theorem State.dropPartial_context (s : State) (p x y : Nat) : (s.dropPartial p x).context p y = s.context p y := by
  unfold State.dropPartial
  extract_lets left s'
  obtain ⟨cs, h⟩ := State.foldl_updCore_eq (fun a : ActiveCmd => a.cmd.core) (fun a k => k.orFlags a.flags) left s
  have hs : s' = { s with cores := cs } := h
  rw [hs]
  rfl

theorem State.endKernel_ended (s : State) (p x : Nat) (k : Kernel) (cycles : Nat) (hstep : k.step = false) :
    KernelEnded s p x k cycles (s.endKernel p x k cycles) := by
  unfold State.endKernel
  extract_lets listed st n s₁ core flags status f report mem₁ s₂ s₃ s₄ s₅ s₆ s₇ use s₈
  obtain ⟨hq, oq, hquiesce⟩ := ((s₈.deliver p x k.step status report).preemptAll p).quiesceDone_eq
  rw [hquiesce, hstep]
  obtain ⟨ps, od, hdeliver⟩ := s₈.deliver_eq p x status report
  obtain ⟨ha, oa, habort⟩ := s₆.countAborted_eq p status
  obtain ⟨cs, hreports⟩ := s₅.writeReports_eq p (kdCores k.kd) report
  have h₇ : s₇ = { s₆ with host := ha, out := oa } := habort
  have h₆ : s₆ = { s₅ with cores := cs } := hreports
  have hst : st = (s.context p x).state := rfl
  have h₄ : s₄.contexts = s₃.contexts ∧ ∀ c, s₄.core c = s.endedCore p x k c := by
    have hnodup : listed.Nodup := bitsBelow_nodup ..
    have h₃ (c : Nat) : s₃.core c = (s.dropPartial p x).core c := rfl
    unfold s₄ State.endedCore
    rw [hst]
    simp only [Bool.or_eq_true, beq_iff_eq]
    split
    · refine ⟨?_, fun c => (State.core_foldl_listed hnodup ..).trans ?_⟩
      · obtain ⟨cs, h⟩ := State.foldl_updCore_eq (fun c : Nat => c) (fun _ k => k.ranFor x) listed s₃
        rw [h]
      · simp only [h₃]
        rfl
    · split
      · refine ⟨?_, fun c => (State.core_foldl_listed hnodup ..).trans ?_⟩
        · obtain ⟨cs, h⟩ := State.foldl_updCore_eq (fun c : Nat => c) (fun _ k => k.release) listed s₃
          rw [h]
        · simp only [h₃]
          rfl
      · exact ⟨rfl, fun c => by rw [h₃, ite_self]⟩
  have core₈ (c : Nat) : (s₈.core c).work = (s.endedCore p x k c).work := by
    have hc₇ : s₇.core c = s₆.core c := by rw [h₇]; rfl
    have hc₆ : (s₆.core c).work = (s₅.core c).work := State.writeReports_work ..
    show (s₇.core c).work = _
    rw [hc₇, hc₆]
    exact congrArg Core.work (h₄.2 c)
  have context₈ : ∃ counts, s₈.context p x = { s.context p x with
      counts := counts, state := .idle, kernel := none, trigger := none, savedCores := [] } := by
    have hc : s₈.context p x = s₅.context p x := by
      show s₇.context p x = _
      rw [h₇, h₆]
      rfl
    have hc₃ : ∃ counts, s₃.context p x = { s.context p x with counts := counts } := by
      unfold s₃ State.keepCounts
      rw [State.context_updContext, ← State.dropPartial_context s p x x]
      exact ⟨_, rfl⟩
    obtain ⟨counts, hc₃⟩ := hc₃
    refine ⟨counts, ?_⟩
    rw [hc]
    unfold s₅
    rw [State.context_updContext, State.context_congr h₄.1, hc₃]
  obtain ⟨counts, context₈⟩ := context₈
  have contextD : (s₈.deliver p x false status report).context p x = { s₈.context p x with
      kreport := report, kends := ((s₈.context p x).kends + 1) % 2 ^ 32 } := by
    rw [hdeliver]
    exact Table.get_set_same ..
  have ignores : ((s₈.deliver p x false status report).context p x).ignores := by
    rw [contextD, context₈]
    exact Context.ignores_of_noKernel rfl
  refine ⟨⟨counts, ?_⟩, fun c => ?_⟩
  · refine (State.preemptAll_context ignores).trans ?_
    rw [contextD, context₈]
    rfl
  · refine ((State.preemptAll_savesOnly _ p).1.work c).trans ?_
    rw [hdeliver]
    exact core₈ c

theorem exec_kernelEnd_of_ended {s : State} {p x : Nat} {k : Kernel} (cycles periods : Nat) (hk : (s.context p x).kernel = some k)
    (hstep : k.step = false) (hst : (s.context p x).state = .running) (hlate : s.anyLate (bitsBelow 48 (kdCores k.kd)) = none)
    (hended : s.ended p x k = true) : exec (.kernelEnd p x cycles periods) s = .next (s.finishKernel p x cycles) := by
  show execKernelEnd p x cycles periods s = _
  simp only [execKernelEnd, hk, hst, hlate, hended, hstep]
  rfl

theorem State.finishKernel_ended {s : State} {p x : Nat} {k : Kernel} (cycles : Nat) (hk : (s.context p x).kernel = some k) (hstep : k.step = false)
    (harr : (s.part p).arrivalsIn = []) : KernelEnded s p x k cycles (s.finishKernel p x cycles) := by
  have hflush : s.flushArrivals p x = s := by
    rw [State.flushArrivals, harr]
    rfl
  simp only [State.finishKernel, hflush, hk]
  obtain ⟨hctx, _, hcore⟩ := State.startPiecesIdle_onlyPieces (s.endKernel p x k cycles) p
  exact (State.endKernel_ended s p x k cycles hstep).after (State.context_congr hctx p x) hcore

/-! ## Context control (R210, R223) -/

section Ctxctl

variable {s : State} {fn x v : Nat}

/-- A write of CTXCTL without PREEMPT and RESUME. -/
theorem State.writeCtxctl_plain {p : Nat} (h2 : v.testBit 2 = false) (h3 : v.testBit 3 = false) : s.writeCtxctl fn p x v =
    let u := s.updContext p x (fun t => { t with prio := fld v 5 4 })
    (if v.testBit 0 then (if u.mayEnableCtx fn x then u.updContext p x (fun t => { t with en := true }) else u)
      else (u.updContext p x (fun t => { t with en := false })).cancelContext p x 0x0301 0x0102).preemptAll p := by
  simp only [State.writeCtxctl, h2, h3, Bool.false_eq_true, if_false]

/-- What a write of 1 to EN leaves in the context before a start can pre-empt it. -/
theorem State.writeCtxctl_en {p : Nat} (h0 : v.testBit 0 = true) (h2 : v.testBit 2 = false) (h3 : v.testBit 3 = false) :
    ∃ u, s.writeCtxctl fn p x v = u.preemptAll p ∧ OnlyStops s u ∧ (∀ z, z ≠ x → u.context p z = s.context p z) ∧
      u.context p x = { s.context p x with prio := fld v 5 4, en := s.mayEnableCtx fn x || (s.context p x).en } := by
  rw [State.writeCtxctl_plain h2 h3]
  dsimp only
  rw [if_pos h0]
  have may : (s.updContext p x (fun t => { t with prio := fld v 5 4 })).mayEnableCtx fn x = s.mayEnableCtx fn x := rfl
  rw [may]
  cases s.mayEnableCtx fn x with
  | false =>
    rw [if_neg Bool.false_ne_true]
    refine ⟨_, rfl, .updContext .., fun z hz => State.context_updContext_ne _ hz, ?_⟩
    rw [State.context_updContext]
    rfl
  | true =>
    rw [if_pos rfl]
    refine ⟨_, rfl, (OnlyStops.updContext s p x _).trans (.updContext ..), fun z hz => ?_, ?_⟩
    · rw [State.context_updContext_ne _ hz, State.context_updContext_ne _ hz]
    · rw [State.context_updContext, State.context_updContext]
      rfl

theorem State.kernelFault_context {p : Nat} {k : Kernel} (f : FaultInfo) (hk : (s.context p x).kernel = some k) (hf : k.fault = none) :
    (s.kernelFault p x f).context p x = { s.context p x with kernel := some { k with fault := some f } } := by
  rw [State.kernelFault, State.context_updContext, hk]
  simp only [Option.map_some, hf]

/-- A write of 0 to EN stops the kernel of a context without a pending start, or discards a saved one. -/
theorem State.cancelContext_of_kernel {p status startStatus : Nat} {k : Kernel} (hp : (s.context p x).pending = none)
    (hk : (s.context p x).kernel = some k) : s.cancelContext p x status startStatus =
      let u := s.kernelFault p x { status := status }
      if (s.context p x).state = .saved ∨ (s.context p x).state = .held then u.finishKernel p x u.ownCycles else u := by
  simp only [State.cancelContext, hp, hk, State.kernelFault, State.context_updContext, Bool.or_eq_true, beq_iff_eq]

theorem Context.ignores_of_fault {t : Context} {k : Kernel} (hk : t.kernel = some k) (hf : k.fault.isSome = true) : t.ignores := by
  intro l hl hn
  cases hk.symm.trans hl
  simp [hn] at hf

theorem Context.ignores_of_state {t : Context} (hr : t.state ≠ .running) (hs : t.state ≠ .restoring) : t.ignores := fun _ _ _ => ⟨hr, hs⟩

end Ctxctl

end Sys2Proof.Machine

namespace Sys2Proof.Proofs

open Sys2Proof.Machine

/-- Settles O26: each form of KGO by its own branch; a start that becomes pending only stops queues. -/
theorem kgoStartsOrRefuses : Obligations.KgoStartsOrRefuses := by
  unfold Obligations.KgoStartsOrRefuses
  refine ⟨fun s fn x hl hh hb hs hp hok => ?_, fun s fn x hl hh hb hs hp hok => ?_, fun s fn x hl hh hb hs hp => ?_, fun s fn x hl hh hb hs => ?_,
    fun s fn x hl hh hb => exec_kgo_of_behind hl hh hb, fun s fn x => State.hears_iff s fn x⟩
  · rw [exec_kgo_of_ahead hb, State.kgo_of_free hl hh hs hp]
    dsimp only
    rw [State.startOk_marks, if_pos hok]
    refine ⟨_, rfl, ?_⟩
    have saves := State.preemptAll_savesOnly ((s.updContext (funcPart fn) x (fun t => { t with overrun := false, serving := false })).updContext
      (funcPart fn) x (fun t => { t with pending := some { kd := (s.context (funcPart fn) x).kstart } })) (funcPart fn)
    have hx := saves.2 x
    rw [State.context_updContext, State.context_updContext] at hx
    exact ⟨congrArg Context.pending hx, congrArg Context.overrun hx, congrArg Context.serving hx,
      ((OnlyStops.updContext ..).trans (.updContext ..)).trans saves.1⟩
  · rw [exec_kgo_of_ahead hb, State.kgo_of_free hl hh hs hp]
    dsimp only
    rw [State.startOk_marks, if_neg (by simp [hok])]
    set u := s.updContext (funcPart fn) x (fun t => { t with overrun := false, serving := false }) with hu
    have ux : u.context (funcPart fn) x = { s.context (funcPart fn) x with overrun := false, serving := false } := by
      rw [hu, State.context_updContext]
    refine ⟨_, rfl, ?_⟩
    rw [State.endStart_context _ rfl, State.endStart_mem _ rfl, ux]
    exact ⟨hp, rfl, rfl, rfl, rfl⟩
  · rw [exec_kgo_of_ahead hb, State.kgo_of_pending hl hh hs hp]
  · rw [exec_kgo_of_ahead hb, State.kgo_of_serves hl hh hs]

/-- Settles O27: a trigger of a start reaches every running kernel below it, and none that ignores it. -/
theorem pendingStartsPreemptLowerPriority : Obligations.PendingStartsPreemptLowerPriority := by
  unfold Obligations.PendingStartsPreemptLowerPriority
  refine ⟨fun s fn x y k hl hh hb hs hp hkx hok hyx hy hk hf => ?_, fun c hc hst => ?_⟩
  · rw [exec_kgo_of_ahead hb, State.kgo_of_free hl hh hs hp]
    dsimp only
    rw [State.startOk_marks, if_pos hok]
    set kd := (s.context (funcPart fn) x).kstart with hkd
    set u := (s.updContext (funcPart fn) x (fun t => { t with overrun := false, serving := false })).updContext
      (funcPart fn) x (fun t => { t with pending := some { kd := kd } }) with hu
    have ux : u.context (funcPart fn) x = { s.context (funcPart fn) x with overrun := false, serving := false, pending := some { kd := kd } } := by
      rw [hu, State.context_updContext, State.context_updContext]
    have une {z : Nat} (hz : z ≠ x) : u.context (funcPart fn) z = s.context (funcPart fn) z := by
      rw [hu, State.context_updContext_ne _ hz, State.context_updContext_ne _ hz]
    have hx : x < ctxPer u.mode := by
      rw [State.hears_iff] at hh
      exact (State.hostReach_of_reachCtx hh.1).2
    refine ⟨_, rfl, fun hst hprio hcores => ?_, fun hothers hprio => ?_, fun hst => ?_⟩
    · have begun := State.preemptAll_of_below (s := u) (p := funcPart fn) (st := { kd := kd }) hx hy (by rw [ux]; exact hkx) (by rw [ux])
        (by rw [une hyx]; exact hk) hf (by rw [une hyx]; exact hst) (by rw [une hyx, ux]; exact hprio) hcores
      rw [begun.2]
      exact ⟨rfl, rfl⟩
    · rw [State.preemptAll_of_noneAbove, une hyx]
      intro z hz hzp hzk
      by_cases hzx : z = x
      · subst hzx
        rw [ux, une hyx]
        exact hprio
      · rw [une hzx, hothers z hz hzx] at hzp
        cases hzp
    · rw [State.preemptAll_context (Context.ignores_of_state _ _), une hyx] <;> rw [une hyx, hst] <;> exact CtxState.noConfusion
  · obtain ⟨k, hk⟩ := Option.isSome_iff_exists.1 hc
    simp [Context.waits, hk, hst]

/-- Settles O29: PREEMPT triggers a save, RESUME and EN act on the context, and the pre-emption that follows leaves what it must. -/
theorem contextControl : Obligations.ContextControl := by
  unfold Obligations.ContextControl
  refine ⟨fun s fn x k hx hk hst => ⟨fun hf => ?_, fun hf => ?_⟩, fun s fn x hx hno => ?_, fun s fn x k hx hk hf hst => ?_, fun s fn x hx hst => ?_,
    fun s fn x v hx h0 h2 h3 => ?_, fun s fn x v k hx h0 h2 h3 hp hk hf hstep hst harr => ?_, fun s fn x v k hx h0 h2 h3 hp hk hf hst => ?_⟩
  · refine ⟨_, if_pos hx, State.triggerSave_onlyStops .., ?_⟩
    rw [State.triggerSave_of_running _ _ hk hf hst]
    refine ⟨State.stopQueues_contexts .., fun c hc r hr hrp hrx q hq => ?_⟩
    rw [State.stopQueues_stopped hc hq]
    have stands : (s.setContext (funcPart fn) x { s.context (funcPart fn) x with state := .saving, trigger := some (true, 0x0303) }).stands c q =
        !((s.core c).queue q).stalled := by
      refine (State.stands_of_run (s := s.setContext ..) q hr).trans ?_
      rw [State.stopping, hrp, hrx, State.context_setContext, hk]
      simp only [hf]
      rfl
    rw [stands]
    rfl
  · exact (if_pos hx).trans (congrArg _ (State.triggerSave_of_ignores _ _ (Context.ignores_of_fault hk hf)))
  · refine (if_pos hx).trans (congrArg _ (State.triggerSave_of_ignores _ _ ?_))
    rcases hno with hn | hst | hst | hst
    · exact Context.ignores_of_noKernel hn
    · exact Context.ignores_of_state (by simp [hst]) (by simp [hst])
    · exact Context.ignores_of_state (by simp [hst]) (by simp [hst])
    · exact Context.ignores_of_state (by simp [hst]) (by simp [hst])
  · refine (if_pos hx).trans (congrArg _ ?_)
    rw [State.triggerSave_of_restoring _ _ hk hf hst]
    cases (s.context (funcPart fn) x).trigger with
    | none => rfl
    | some tr => simp only [Bool.or_true]
  · refine (if_pos hx).trans (congrArg _ (State.updContext_self (g := fun t => { t with state := .saved }) ?_))
    simp [hst]
  · obtain ⟨u, hu, hstops, hne, hux⟩ := State.writeCtxctl_en (s := s) (fn := fn) (x := x) (p := funcPart fn) h0 h2 h3
    have saves := State.preemptAll_savesOnly u (funcPart fn)
    refine ⟨_, if_pos hx, ?_⟩
    rw [hu]
    refine ⟨hstops.trans saves.1, (saves.2 x).trans (congrArg Context.unsaved hux), fun hnp => ?_⟩
    rw [State.preemptAll_of_noPending fun z hz => ?_, hux]
    by_cases hzx : z = x
    · subst hzx
      rw [hux]
      exact hnp z (hstops.mode ▸ hz)
    · rw [hne z hzx]
      exact hnp z (hstops.mode ▸ hz)
  · refine ⟨_, if_pos hx, ?_⟩
    rw [State.writeCtxctl_plain h2 h3]
    dsimp only
    rw [if_neg (by simp [h0])]
    set u := (s.updContext (funcPart fn) x (fun t => { t with prio := fld v.toNat 5 4 })).updContext (funcPart fn) x (fun t => { t with en := false })
      with hu
    have ux : u.context (funcPart fn) x = { s.context (funcPart fn) x with prio := fld v.toNat 5 4, en := false } := by
      rw [hu, State.context_updContext, State.context_updContext]
    have uk : (u.context (funcPart fn) x).kernel = some k := by rw [ux]; exact hk
    rw [State.cancelContext_of_kernel (by rw [ux]; exact hp) uk]
    dsimp only
    rw [if_pos (by rw [ux]; exact hst)]
    set w := u.kernelFault (funcPart fn) x { status := 0x0301 } with hw
    have wx := State.kernelFault_context (s := u) (p := funcPart fn) { status := 0x0301 } uk hf
    have ended := State.finishKernel_ended (s := w) (p := funcPart fn) (x := x) (k := { k with fault := some { status := 0x0301 } }) w.ownCycles
      (by rw [hw, wx]) hstep harr
    obtain ⟨counts, hctx⟩ := ended.context
    rw [State.preemptAll_context (Context.ignores_of_noKernel (by rw [hctx])), hctx, hw, wx, ux]
    exact ⟨rfl, rfl, rfl, rfl, rfl, _, _, rfl⟩
  · refine ⟨_, if_pos hx, ?_⟩
    rw [State.writeCtxctl_plain h2 h3]
    dsimp only
    rw [if_neg (by simp [h0])]
    set u := (s.updContext (funcPart fn) x (fun t => { t with prio := fld v.toNat 5 4 })).updContext (funcPart fn) x (fun t => { t with en := false })
      with hu
    have ux : u.context (funcPart fn) x = { s.context (funcPart fn) x with prio := fld v.toNat 5 4, en := false } := by
      rw [hu, State.context_updContext, State.context_updContext]
    have uk : (u.context (funcPart fn) x).kernel = some k := by rw [ux]; exact hk
    rw [State.cancelContext_of_kernel (by rw [ux]; exact hp) uk]
    dsimp only
    rw [if_neg (by rw [ux]; simp [hst])]
    have wx := State.kernelFault_context (s := u) (p := funcPart fn) { status := 0x0301 } uk hf
    rw [State.preemptAll_context (Context.ignores_of_fault (by rw [wx]) rfl), wx, ux]
    exact ⟨((OnlyStops.updContext ..).trans ((OnlyStops.updContext ..).trans (.updContext ..))).trans (State.preemptAll_savesOnly _ _).1, rfl,
      fun _ => rfl⟩

/-- A kernel on core 0 whose queues have all retired KEND, and which has left a partly forwarded STK command with an IDX flag at stack 0. -/
def endsWithPartialStk : State where
  contexts := [(0, { state := .running, kernel := some { kd := 2 ^ 64 } })]
  cores := [(0, { qMx := { kend := true }, qVec := { kend := true }, qDma := { kend := true }, qSeq := { kend := true } })]
  engines := [(0, { active := [(0, { flags := flagIDX, cmd := {
    core := 0, part := 0, ctx := 0, kid := 0, count := 0, iss := { block := 0, descs := [], nest := 0 }, params := [] } })] })]

/-- Refutes O38: the report also carries the lane flags that a partly forwarded STK command left at its engine, which the cores' own flags
do not hold; the hypotheses bar only such commands that were forwarded whole. -/
theorem not_kernelEndReportsAndFreesCores : ¬ Obligations.KernelEndReportsAndFreesCores := by
  unfold Obligations.KernelEndReportsAndFreesCores
  intro h
  have late : endsWithPartialStk.anyLate (bitsBelow 48 (kdCores (2 ^ 64))) = none := by decide +kernel
  have ended : endsWithPartialStk.ended 0 0 { kd := 2 ^ 64 } = true := by decide +kernel
  obtain ⟨t, hexec, _, _, _, _, hreport⟩ := h endsWithPartialStk 0 0 0 0 { kd := 2 ^ 64 } rfl rfl rfl rfl late ended rfl
  have report := (State.finishKernel_ended (s := endsWithPartialStk) (p := 0) (x := 0) (k := { kd := 2 ^ 64 }) 0 rfl rfl rfl).kreport
  have finish := exec_kernelEnd_of_ended (s := endsWithPartialStk) (p := 0) (x := 0) (k := { kd := 2 ^ 64 }) 0 0 rfl rfl rfl late ended
  rw [← Host.Outcome.next.inj (finish.symm.trans hexec), report] at hreport
  have flagged : endsWithPartialStk.endReport 0 0 { kd := 2 ^ 64 } 0 ≠ mkReport 0 0 0 0 0 0 0 0 0 := by decide +kernel
  exact flagged (hreport.trans (by decide +kernel))

end Sys2Proof.Proofs
end

section
/-! PROOFS. Routing, control commands and belays (R87 to R89, R102, R110, R201 to R207). -/

namespace Sys2Proof.Machine

/-! ## A command at the head of its queue (R86, R90) -/

section Head

variable {s : State} {c q : Nat} {r : CoreRun} {k : Kernel} {b : BitVec 512} {rest : List (BitVec 512)}

theorem State.running_iff : s.running c = some (r, k) ↔
    (s.core c).run = some r ∧ (s.context r.part r.ctx).kernel = some k ∧ (s.context r.part r.ctx).state = .running := by
  unfold State.running
  cases hr : (s.core c).run with
  | none => simp
  | some r' =>
    simp only [Option.some.injEq]
    cases hk : (s.context r'.part r'.ctx).kernel with
    | none =>
      refine ⟨fun h => (by cases h), ?_⟩
      rintro ⟨rfl, h, _⟩
      cases hk.symm.trans h
    | some k' =>
      by_cases hs : (s.context r'.part r'.ctx).state = .running
      · simp only [hs, beq_self_eq_true, if_true, Option.some.injEq, Prod.mk.injEq]
        refine ⟨?_, ?_⟩
        · rintro ⟨rfl, rfl⟩
          exact ⟨rfl, hk, hs⟩
        · rintro ⟨rfl, h, _⟩
          exact ⟨rfl, Option.some.inj (hk.symm.trans h)⟩
      · simp only [beq_iff_eq, hs, if_false, reduceCtorEq, false_iff]
        rintro ⟨rfl, _, h⟩
        exact hs h

theorem State.copyParams_of_copied (h : s.running c = some (r, k)) (hc : k.copying = 0) : s.copyParams c = s := by
  simp [State.copyParams, h, hc]

theorem State.begin_of_head (h : AtHead s c q r k b rest) {isMine : BitVec 512 → Bool} (hm : isMine b = true) :
    s.begin c q isMine =
      .go (s.updQueue c q (fun t => { t with count := nextCount ((s.core c).queue q).count })) r { block := b, descs := [], nest := 0 } := by
  obtain ⟨hrun, hgood, hcmds, hfree, hlate, hbreak⟩ := h
  simp [State.begin, hrun, hfree, hcmds, hgood, hm, State.takeLate, hlate, hbreak]

/-- A command whose form names no operand in memory and no nest has no tables to read. -/
theorem readTables_of_none {e : Env} {w : Wk} {kd : BitVec 512} {form : Form} (hu : form.uses = [false, false, false, false])
    (hn : cbNest b = 0xFFFF) : readTables e w kd b form = ([0, 0, 0, 0], 0, w) := by
  simp [readTables, hu, hn, List.range_succ]

/-- Issue of a command without tables (R83, R90). -/
theorem State.issue_of_none {form : Form} {check : Env → MemSys → Core → Issued → Option Nat} {nest : Nat} (hu : form.uses = [false, false, false, false])
    (hf : cbFormOk b form = true) (hn : cbNest b = 0xFFFF) :
    s.issue c q r { block := b, descs := [], nest := nest } form check =
      (let t := s.absorbReads c q r (cbTag b) { mem := s.mem }
      match check (s.env c q r) t.mem (t.core c) { block := b, descs := [0, 0, 0, 0], nest := 0 } with
      | some st => (t, { block := b, descs := [0, 0, 0, 0], nest := 0 }, .fault st)
      | none => (t.updQueue c q (fun k => { k with landing := [] }),
          { block := b, descs := [0, 0, 0, 0], nest := 0, issued := true, stage := (t.core c).tstage }, .ok)) := by
  unfold State.issue
  rw [if_neg Bool.false_ne_true]
  dsimp only
  rw [readTables_of_none hu hn, if_neg (by simp [hf, hu, hn, List.range_succ])]
  rfl

end Head

/-! ## What a command without reads leaves of its issue -/

theorem newFailures_self (m : MemSys) : newFailures m m = [] := by
  simp [newFailures]

theorem State.withMem_self (s : State) (cause : Nat) : s.withMem s.mem cause = s := by
  simp [State.withMem, newFailures_self]

theorem Core.setQueue_setQueue (k : Core) (q : Nat) (v w : QueueSt) : (k.setQueue q v).setQueue q w = k.setQueue q w := by
  unfold Core.setQueue
  split
  · rfl
  · split
    · rfl
    · split <;> rfl

theorem Core.queue_setQueue_self (k : Core) (q : Nat) (v : QueueSt) : (k.setQueue q v).queue q = v := by
  unfold Core.setQueue Core.queue
  split
  · rfl
  · split
    · rfl
    · split <;> rfl

theorem Core.setQueue_streams (k : Core) (q : Nat) (v : QueueSt) : (k.setQueue q v).streams = k.streams := by
  unfold Core.setQueue
  split
  · rfl
  · split
    · rfl
    · split <;> rfl

theorem Core.setQueue_queue (k : Core) (q : Nat) : k.setQueue q (k.queue q) = k := by
  unfold Core.setQueue Core.queue
  split
  · rfl
  · split
    · rfl
    · split <;> rfl

/-- A kernel but for its byte counters and its energy. -/
def Kernel.uncounted (k : Kernel) : Kernel := { k with moved := [], charge := 0 }

/-- A context but for the byte counters and the energy of its kernel. -/
def Context.uncounted (t : Context) : Context := { t with kernel := t.kernel.map Kernel.uncounted }

/-- `t` is `s` with core `c` made `k`, and byte counters and energy of kernels moved on. -/
structure CoreOnly (s t : State) (c : Nat) (k : Core) : Prop where
  core : t.core c = k
  cores : ∀ d, d ≠ c → t.core d = s.core d
  contexts : ∀ p x, (t.context p x).uncounted = (s.context p x).uncounted
  rest : { t with cores := [], contexts := [] } = { s with cores := [], contexts := [] }

section CoreOnly

variable {s t u : State} {c : Nat} {k l : Core}

theorem CoreOnly.refl (s : State) (c : Nat) : CoreOnly s s c (s.core c) := ⟨rfl, fun _ _ => rfl, fun _ _ => rfl, rfl⟩

theorem CoreOnly.trans (h : CoreOnly s t c k) (g : CoreOnly t u c l) : CoreOnly s u c l :=
  ⟨g.core, fun d hd => (g.cores d hd).trans (h.cores d hd), fun p x => (g.contexts p x).trans (h.contexts p x), g.rest.trans h.rest⟩

theorem CoreOnly.updCore (s : State) (c : Nat) (f : Core → Core) : CoreOnly s (s.updCore c f) c (f (s.core c)) :=
  ⟨State.core_updCore .., fun _ hd => State.core_updCore_ne _ _ hd, fun _ _ => rfl, rfl⟩

theorem CoreOnly.updQueue (s : State) (c q : Nat) (f : QueueSt → QueueSt) :
    CoreOnly s (s.updQueue c q f) c ((s.core c).setQueue q (f ((s.core c).queue q))) := CoreOnly.updCore ..

theorem CoreOnly.updContext {p x : Nat} {f : Context → Context} (h : (f (s.context p x)).uncounted = (s.context p x).uncounted) :
    CoreOnly s (s.updContext p x f) c (s.core c) := by
  refine ⟨rfl, fun _ _ => rfl, fun p' x' => ?_, rfl⟩
  by_cases hx : 64 * p' + x' = 64 * p + x
  · have hget (u : State) : u.context p' x' = u.context p x := by simp only [State.context, hx]
    rw [hget, hget, State.context_updContext, h]
  · have hne : (s.updContext p x f).context p' x' = s.context p' x' := Table.get_set_ne _ _ _ hx
    rw [hne]

theorem CoreOnly.mem (h : CoreOnly s t c k) : t.mem = s.mem := by
  have hr := congrArg State.mem h.rest
  exact hr

theorem CoreOnly.out (h : CoreOnly s t c k) : t.out = s.out := by
  have hr := congrArg State.out h.rest
  exact hr

theorem CoreOnly.parts (h : CoreOnly s t c k) : t.parts = s.parts := by
  have hr := congrArg State.parts h.rest
  exact hr

theorem CoreOnly.nv (h : CoreOnly s t c k) : t.nv = s.nv := by
  have hr := congrArg State.nv h.rest
  exact hr

theorem CoreOnly.engines (h : CoreOnly s t c k) : t.engines = s.engines := by
  have hr := congrArg State.engines h.rest
  exact hr

theorem CoreOnly.ports (h : CoreOnly s t c k) : t.ports = s.ports := by
  have hr := congrArg State.ports h.rest
  exact hr

theorem CoreOnly.host (h : CoreOnly s t c k) : t.host = s.host := by
  have hr := congrArg State.host h.rest
  exact hr

theorem CoreOnly.dict (h : CoreOnly s t c k) : t.dict = s.dict := by
  have hr := congrArg State.dict h.rest
  exact hr

theorem CoreOnly.start (h : CoreOnly s t c k) : t.start = s.start := by
  have hr := congrArg State.start h.rest
  exact hr

theorem CoreOnly.context_state (h : CoreOnly s t c k) (p x : Nat) : (t.context p x).state = (s.context p x).state := by
  have hr := congrArg Context.state (h.contexts p x)
  exact hr

theorem CoreOnly.context_kernel (h : CoreOnly s t c k) (p x : Nat) :
    (t.context p x).kernel.map Kernel.uncounted = (s.context p x).kernel.map Kernel.uncounted := by
  have hr := congrArg Context.kernel (h.contexts p x)
  exact hr

theorem CoreOnly.kernel_of {n : Kernel} {p x : Nat} (h : CoreOnly s t c k) (hk : (s.context p x).kernel = some n) :
    ∃ m, (t.context p x).kernel = some m ∧ m.uncounted = n.uncounted := by
  have hm := h.context_kernel p x
  rw [hk] at hm
  obtain ⟨m, hm, heq⟩ := Option.map_eq_some_iff.1 hm
  exact ⟨m, hm, heq⟩

/-- The kernel on a core stays on it, but for its counters, while its commands change its core alone. -/
theorem CoreOnly.running {r : CoreRun} {n : Kernel} (h : CoreOnly s t c k) (hrun : k.run = (s.core c).run) (hs : s.running c = some (r, n)) :
    ∃ m, t.running c = some (r, m) ∧ m.uncounted = n.uncounted := by
  obtain ⟨hr, hk, hst⟩ := State.running_iff.1 hs
  obtain ⟨m, hm, heq⟩ := h.kernel_of hk
  exact ⟨m, State.running_iff.2 ⟨by rw [h.core, hrun, hr], hm, (h.context_state ..).trans hst⟩, heq⟩

theorem State.addMoved_coreOnly (s : State) (c i n : Nat) : CoreOnly s (s.addMoved c i n) c (s.core c) := by
  unfold State.addMoved
  split
  · refine CoreOnly.updContext ?_
    simp only [Context.uncounted, Option.map_map]
    rfl
  · exact .refl s c

theorem State.addCharge_coreOnly (s : State) (c n : Nat) : CoreOnly s (s.addCharge c n) c (s.core c) := by
  unfold State.addCharge
  split
  · refine CoreOnly.updContext ?_
    simp only [Context.uncounted, Option.map_map]
    rfl
  · exact .refl s c

/-- Work that reads nothing clears the queue's stall mark and counts. -/
theorem State.absorbReads_idle (s : State) (c q : Nat) (r : CoreRun) (tag : Nat) :
    CoreOnly s (s.absorbReads c q r tag { mem := s.mem }) c ((s.core c).setQueue q { (s.core c).queue q with stalled := false }) := by
  unfold State.absorbReads
  extract_lets s₁ s₂ s₃ s₄
  have h₃ : CoreOnly s s₃ c (s.core c) := by
    have h₁ : s₁ = s := s.withMem_self 3
    show CoreOnly s (((s₁.addMoved c 0 0).addMoved c 1 0).addCharge c (linkByte * (0 + 0))) c (s.core c)
    rw [h₁]
    have ha := s.addMoved_coreOnly c 0 0
    have hb := (s.addMoved c 0 0).addMoved_coreOnly c 1 0
    have hc := ((s.addMoved c 0 0).addMoved c 1 0).addCharge_coreOnly c (linkByte * (0 + 0))
    rw [hb.core, ha.core] at hc
    rw [ha.core] at hb
    exact (ha.trans hb).trans hc
  have h₄ : CoreOnly s s₄ c ((s.core c).setQueue q { (s.core c).queue q with stalled := false }) := by
    show CoreOnly s (if (((s₃.core c).queue q).stalled == false) = true then s₃ else
      s₃.updQueue c q (fun k => { k with stalled := false })) c _
    rw [h₃.core]
    split
    next hst =>
      have hq : { (s.core c).queue q with stalled := false } = (s.core c).queue q := by
        rw [beq_iff_eq] at hst
        cases hv : (s.core c).queue q
        rw [hv] at hst
        cases hst
        rfl
      rw [hq, Core.setQueue_queue]
      exact h₃
    next =>
      have hu := CoreOnly.updQueue s₃ c q (fun k => { k with stalled := false })
      rw [h₃.core] at hu
      exact h₃.trans hu
  exact h₄

end CoreOnly

/-! ## Faults (R103) -/

theorem State.cmdFault_queue (s : State) (c : Nat) {q : Nat} (r : CoreRun) (b : BitVec 512) (status : Nat) (hq : q < 4) :
    ((s.cmdFault c q r b status).core c).queue q = { ((s.core c).queue q).clearCmd with run := none } :=
  State.queue_updQueue s c q (fun k => { k.clearCmd with run := none }) hq

theorem State.cmdFault_context {s : State} {c q : Nat} {r : CoreRun} {k : Kernel} (b : BitVec 512) (status : Nat)
    (hk : (s.context r.part r.ctx).kernel = some k) (hf : k.fault = none) :
    (s.cmdFault c q r b status).context r.part r.ctx = { s.context r.part r.ctx with kernel := some { k with
      fault := some { status := status, tag := cbTag b, count := ((s.core c).queue q).count, queue := q, core := c } } } :=
  State.kernelFault_context (s := s.updQueue c q (fun k => { k.clearCmd with run := none })) _ hk hf

/-! ## Retirement (R102, R217) -/

theorem State.running_updQueue (s : State) (c q d : Nat) (f : QueueSt → QueueSt) : (s.updQueue c q f).running d = s.running d := by
  have hrun : ((s.updQueue c q f).core d).run = (s.core d).run := by
    by_cases h : d = c
    · subst h
      rw [State.updQueue, State.core_updCore, Core.setQueue_run]
    · rw [State.updQueue, State.core_updCore_ne _ _ h]
  unfold State.running
  rw [hrun]
  rfl

theorem State.settle_of_running {s : State} {c : Nat} {r : CoreRun} {k : Kernel} (q : Nat) (h : s.running c = some (r, k)) : s.settle c q = s := by
  obtain ⟨hr, _, hst⟩ := State.running_iff.1 h
  refine State.settle_of_not_stands ?_
  rw [State.stands_of_run q hr, State.stopping, hst]
  rfl

/-- A command without a late fault leaves its queue, which keeps nothing for it. -/
theorem State.retire_of_running {s : State} {c q : Nat} {r r' : CoreRun} {k : Kernel} (hq : q < 4) (h : s.running c = some (r', k))
    (hl : ((s.core c).queue q).lateFault = none) :
    s.retire c q r = s.updQueue c q (fun k => { k.clearCmd with cmds := k.cmds.drop 1, run := none }) := by
  have late : ((s.updQueue c q (fun k => { k.clearCmd with cmds := k.cmds.drop 1, run := none })).core c).queue q =
      { ((s.core c).queue q).clearCmd with cmds := ((s.core c).queue q).cmds.drop 1, run := none } := State.queue_updQueue _ _ _ _ hq
  unfold State.retire
  dsimp only
  have hnone : (s.updQueue c q (fun k => { k.clearCmd with cmds := k.cmds.drop 1, run := none })).takeLate c q r = none := by
    unfold State.takeLate
    rw [late]
    show (match ((s.core c).queue q).lateFault with | some f => _ | none => none) = none
    rw [hl]
  rw [hnone]
  exact State.settle_of_running q ((State.running_updQueue ..).trans h)

/-! ## CTL commands (R87, R102, R110) -/

theorem commonOk_of_none {e : Env} {m : MemSys} {params : Table Word} {iss : Issued} {form : Form} {tiles : List (List Nat)}
    (hu : form.uses = [false, false, false, false]) (hn : cbNest iss.block = 0xFFFF) : commonOk e m params iss form tiles = true := by
  simp [commonOk, hu, hn, List.range_succ]

theorem OnlyStops.mem {s t : State} (h : OnlyStops s t) : t.mem = s.mem := by
  have hm := congrArg State.mem h.1
  exact hm

section Control

variable {s : State} {c q : Nat} {r : CoreRun} {k : Kernel} {b : BitVec 512} {rest : List (BitVec 512)}

/-- Queue `q` of a core as the issue of its head command without tables leaves it. -/
def Core.headIssued (k : Core) (q : Nat) : Core :=
  k.setQueue q { k.queue q with count := nextCount (k.queue q).count, stalled := false, landing := [] }

/-- The issue of a head command without tables. -/
theorem State.issue_of_head {isMine : BitVec 512 → Bool} {form : Form} {check : Env → MemSys → Core → Issued → Option Nat} (hq : q < 4)
    (h : AtHead s c q r k b rest) (hm : isMine b = true) (hu : form.uses = [false, false, false, false]) (hf : cbFormOk b form = true)
    (hn : cbNest b = 0xFFFF)
    (hcheck : ∀ (t : State) (e : Env) (m : MemSys), CoreOnly s t c ((s.core c).setQueue q
        { (s.core c).queue q with count := nextCount ((s.core c).queue q).count, stalled := false }) →
      check e m (t.core c) { block := b, descs := [0, 0, 0, 0], nest := 0 } = none) :
    ∃ u t iss, s.begin c q isMine = .go u r { block := b, descs := [], nest := 0 } ∧
      u.issue c q r { block := b, descs := [], nest := 0 } form check = (t, iss, .ok) ∧ iss.block = b ∧ CoreOnly s t c ((s.core c).headIssued q) := by
  have hbegin := State.begin_of_head h hm
  set u := s.updQueue c q (fun t => { t with count := nextCount ((s.core c).queue q).count }) with hu'
  have hcore : CoreOnly s u c ((s.core c).setQueue q { (s.core c).queue q with count := nextCount ((s.core c).queue q).count }) :=
    CoreOnly.updQueue ..
  have hread := u.absorbReads_idle c q r (cbTag b)
  rw [hcore.core, Core.queue_setQueue _ _ _ hq, Core.setQueue_setQueue] at hread
  have hissue := State.issue_of_none (s := u) (c := c) (q := q) (r := r) (check := check) (nest := 0) hu hf hn
  dsimp only at hissue
  rw [hcheck _ _ _ (hcore.trans hread)] at hissue
  have hland := CoreOnly.updQueue (u.absorbReads c q r (cbTag b) { mem := u.mem }) c q (fun k => { k with landing := [] })
  rw [(hcore.trans hread).core, Core.queue_setQueue _ _ _ hq, Core.setQueue_setQueue] at hland
  exact ⟨u, _, _, hbegin, hissue, rfl, (hcore.trans hread).trans hland⟩

/-- A CTL command at the head of its queue acts at once. -/
theorem State.controlStep_of_head {op : Nat} {form : Form} {check : Core → Issued → Bool} {act : State → CoreRun → Issued → State} (hq : q < 4)
    (h : AtHead s c q r k b rest) (hop : cbOp b = op) (hu : form.uses = [false, false, false, false]) (hf : cbFormOk b form = true)
    (hi : imm b 255 0 = 0) (hn : cbNest b = 0xFFFF) (hcheck : ∀ k i, check k i = true) :
    ∃ t iss, s.controlStep c q op form check act = act t r iss ∧ iss.block = b ∧ CoreOnly s t c ((s.core c).headIssued q) := by
  have ok (t : State) (e : Env) (m : MemSys) :
      need (imm b 255 0 == 0 && check (t.core c) { block := b, descs := [0, 0, 0, 0], nest := 0 } &&
        commonOk e m (t.core c).params { block := b, descs := [0, 0, 0, 0], nest := 0 } form []) = none := by
    have common := commonOk_of_none (e := e) (m := m) (params := (t.core c).params) (iss := { block := b, descs := [0, 0, 0, 0], nest := 0 })
      (tiles := []) hu hn
    rw [hcheck, common, hi]
    rfl
  obtain ⟨u, t, iss, hbegin, hissue, hb, hcore⟩ := State.issue_of_head (isMine := fun b => cbOp b == op) hq h (by simp [hop]) hu hf hn
    (check := fun e m k i => need (imm i.block 255 0 == 0 && check k i && commonOk e m k.params i form [])) fun t e m _ => ok t e m
  refine ⟨t, iss, ?_, hb, hcore⟩
  rw [State.controlStep, if_neg (by omega), hbegin]
  dsimp only
  rw [hissue]

/-- A queue that its head command has left. -/
theorem LeftQueue.of_coreOnly {t : State} {v : QueueSt} (hq : q < 4) (h : CoreOnly s t c ((s.core c).setQueue q v)) (hcmds : v.cmds = rest)
    (hrun : v.run = none) (hcount : v.count = nextCount ((s.core c).queue q).count) : LeftQueue s t c q r rest where
  left := by rw [h.core, Core.queue_setQueue _ _ _ hq]; exact ⟨hcmds, hrun, hcount⟩
  queues j hj hne := by rw [h.core, Core.queue_setQueue_ne _ _ hq hj hne]
  core := by
    rw [h.core]
    unfold Core.setQueue
    split
    · exact ⟨rfl, rfl, rfl, rfl, rfl⟩
    · split
      · exact ⟨rfl, rfl, rfl, rfl, rfl⟩
      · split <;> exact ⟨rfl, rfl, rfl, rfl, rfl⟩
  cores := h.cores
  context := by
    refine ⟨h.context_state .., ?_⟩
    have hk := congrArg (Option.map Kernel.fault) (h.context_kernel r.part r.ctx)
    simp only [Option.map_map] at hk
    exact hk
  kept := ⟨h.mem, h.out, h.nv, h.parts, h.engines, h.ports, h.host⟩

/-- An update of the queue of a core. -/
theorem CoreOnly.queue {t : State} {v : QueueSt} (hq : q < 4) (ht : CoreOnly s t c ((s.core c).setQueue q v)) (f : QueueSt → QueueSt) :
    CoreOnly s (t.updQueue c q f) c ((s.core c).setQueue q (f v)) := by
  have hf := CoreOnly.updQueue t c q f
  rw [ht.core, Core.queue_setQueue _ _ _ hq, Core.setQueue_setQueue] at hf
  exact ht.trans hf

/-- A command that has only changed its queue retires. -/
theorem CoreOnly.retire {t : State} {v : QueueSt} (hq : q < 4) (hs : s.running c = some (r, k)) (ht : CoreOnly s t c ((s.core c).setQueue q v))
    (hl : v.lateFault = none) (r' : CoreRun) :
    CoreOnly s (t.retire c q r') c ((s.core c).setQueue q { v.clearCmd with cmds := v.cmds.drop 1, run := none }) := by
  obtain ⟨m, hrun, _⟩ := ht.running (by rw [Core.setQueue_run]) hs
  rw [State.retire_of_running hq hrun (by rw [ht.core, Core.queue_setQueue _ _ _ hq, hl])]
  exact ht.queue hq _

end Control

/-! ## Tables of arrivals (R202, R206) -/

/-- Of everything but contexts and cores, `t` is `s`. -/
def OnlyRuns (s t : State) : Prop := { t with contexts := [], cores := [] } = { s with contexts := [], cores := [] }

section OnlyRuns

variable {s t u : State}

theorem OnlyRuns.refl (s : State) : OnlyRuns s s := rfl

theorem OnlyRuns.trans (h : OnlyRuns s t) (g : OnlyRuns t u) : OnlyRuns s u := Eq.trans g h

theorem OnlyRuns.foldl {α : Type} {f : State → α → State} (h : ∀ s a, OnlyRuns s (f s a)) (l : List α) (s : State) :
    OnlyRuns s (l.foldl f s) := List.foldlRecOn l f (motive := OnlyRuns s) (.refl s) fun _ hb a _ => hb.trans (h _ a)

theorem OnlyRuns.parts (h : OnlyRuns s t) : t.parts = s.parts := by
  have hr := congrArg State.parts h
  exact hr

theorem OnlyRuns.mem (h : OnlyRuns s t) : t.mem = s.mem := by
  have hr := congrArg State.mem h
  exact hr

theorem OnlyRuns.out (h : OnlyRuns s t) : t.out = s.out := by
  have hr := congrArg State.out h
  exact hr

theorem OnlyRuns.mode (h : OnlyRuns s t) : t.mode = s.mode := by
  have hr := congrArg (fun v : State => v.start.mode) h
  exact hr

theorem OnlyRuns.part (h : OnlyRuns s t) (p : Nat) : t.part p = s.part p := by
  simp only [State.part, h.parts]

theorem State.updArrivals_onlyRuns (s : State) (p x c q : Nat) (f : List Arrival → List Arrival) : OnlyRuns s (s.updArrivals p x c q f) := by
  unfold State.updArrivals
  extract_lets g here
  split
  · exact .refl s
  · split <;> exact .refl s

theorem State.tablesOf_onlyRuns (s : State) (p n g c : Nat) : OnlyRuns s (s.tablesOf p n g c) :=
  .foldl (fun s x => by
    split
    · exact .foldl (fun s q => State.updArrivals_onlyRuns ..) _ s
    · exact .refl s) _ s

theorem State.settle_onlyRuns (s : State) (c q : Nat) : OnlyRuns s (s.settle c q) := (s.settle_onlyStops c q).1

theorem State.retire_onlyRuns (s : State) (c q : Nat) (r : CoreRun) : OnlyRuns s (s.retire c q r) := by
  unfold State.retire
  dsimp only
  refine .trans ?_ (State.settle_onlyRuns ..)
  unfold State.takeLate
  cases (((s.updQueue c q (fun k => { k.clearCmd with cmds := k.cmds.drop 1, run := none })).core c).queue q).lateFault with
  | none => exact .refl s
  | some f => exact .refl s

theorem State.waitStep_onlyRuns (s : State) (c q : Nat) (r : CoreRun) (iss : Issued) : OnlyRuns s (s.waitStep c q r iss) := by
  unfold State.waitStep
  dsimp only
  split
  · exact .trans (t := s.updQueue c q _) (.refl s) (State.retire_onlyRuns ..)
  · split
    · exact .refl s
    · exact .trans (t := s.updQueue c q _) (.refl s) (State.settle_onlyRuns ..)

theorem State.wake_onlyRuns (s : State) (c : Nat) : OnlyRuns s (s.wake c) :=
  .foldl (fun s q => by
    split
    · split
      · exact State.waitStep_onlyRuns ..
      · exact .refl s
    · exact .refl s) _ s

end OnlyRuns

section Arrivals

variable {s t : State} {c q : Nat} {r : CoreRun} {k : Kernel}

/-- The table of the kernel that runs on the core is the core's own. -/
theorem State.updArrivals_of_running (h : s.running c = some (r, k)) (q : Nat) (f : List Arrival → List Arrival) :
    s.updArrivals r.part r.ctx c q f = s.updQueue c q (fun t => { t with arrivals := f t.arrivals }) := by
  obtain ⟨hr, _, hst⟩ := State.running_iff.1 h
  simp [State.updArrivals, hr, hst]

/-- Another context's table leaves the core and its context as they are. -/
theorem State.updArrivals_of_ne (h : s.running c = some (r, k)) {x : Nat} (hx : x ≠ r.ctx) (q : Nat) (f : List Arrival → List Arrival) :
    (s.updArrivals r.part x c q f).cores = s.cores ∧ (s.updArrivals r.part x c q f).context r.part r.ctx = s.context r.part r.ctx := by
  obtain ⟨hr, _, _⟩ := State.running_iff.1 h
  have hne : (r.ctx == x) = false := by simpa using Ne.symm hx
  simp only [State.updArrivals, hr, beq_self_eq_true, hne, Bool.and_false, Bool.false_and, Bool.false_eq_true, if_false]
  split
  · exact ⟨rfl, State.context_updContext_ne _ hx.symm⟩
  · exact ⟨rfl, rfl⟩

theorem State.updArrivals_kernel (s : State) (p x c q : Nat) (f : List Arrival → List Arrival) :
    ((s.updArrivals p x c q f).context p x).kernel = (s.context p x).kernel := by
  unfold State.updArrivals
  extract_lets g here
  split
  · rfl
  · split
    · rw [State.context_updContext]
    · rfl

/-- The entries of belay `n` that have their reply take note of a release. -/
def noteRelease (n g : Nat) (l : List Arrival) : List Arrival :=
  l.map (fun a => if a.belay = n ∧ a.gen.isSome then { a with released := some g } else a)

theorem noteRelease_noteRelease (n g : Nat) (l : List Arrival) : noteRelease n g (noteRelease n g l) = noteRelease n g l := by
  simp only [noteRelease, List.map_map]
  refine List.map_congr_left fun a _ => ?_
  by_cases h : a.belay = n ∧ a.gen.isSome
  · simp [h]
  · simp [h]

/-- In `t` the kernel on the core is as in `s`, and queue `q` has taken note of a release, or is still to. -/
structure NoteDue (s t : State) (c q n g : Nat) (r : CoreRun) (k : Kernel) : Prop where
  runs : t.running c = some (r, k)
  queue : (t.core c).queue q = (s.core c).queue q ∨
    (t.core c).queue q = { (s.core c).queue q with arrivals := noteRelease n g ((s.core c).queue q).arrivals }

/-- In `t` queue `q` has taken note of a release. -/
structure NoteDone (s t : State) (c q n g : Nat) (r : CoreRun) (k : Kernel) : Prop where
  runs : t.running c = some (r, k)
  queue : (t.core c).queue q = { (s.core c).queue q with arrivals := noteRelease n g ((s.core c).queue q).arrivals }

variable {n g : Nat}

theorem NoteDone.due (h : NoteDone s t c q n g r k) : NoteDue s t c q n g r k := ⟨h.runs, .inr h.queue⟩

/-- What one table's note does to the kernel on the core and to queue `q`. -/
theorem State.updArrivals_note (h : t.running c = some (r, k)) {x j : Nat} (hq : q < 4) (hj : j < 4) (f : List Arrival → List Arrival) :
    (t.updArrivals r.part x c j f).running c = some (r, k) ∧
    ((t.updArrivals r.part x c j f).core c).queue q =
      if x = r.ctx ∧ q = j then { (t.core c).queue q with arrivals := f ((t.core c).queue q).arrivals } else (t.core c).queue q := by
  by_cases hx : x = r.ctx
  · subst hx
    rw [State.updArrivals_of_running h]
    refine ⟨(State.running_updQueue ..).trans h, ?_⟩
    by_cases hqj : q = j
    · subst hqj
      rw [State.queue_updQueue _ _ _ _ hq, if_pos ⟨rfl, rfl⟩]
    · rw [State.updQueue, State.core_updCore, Core.queue_setQueue_ne _ _ hj hq hqj, if_neg (by simp [hqj])]
  · obtain ⟨hcores, hctx⟩ := State.updArrivals_of_ne h hx j f
    have hcore : (t.updArrivals r.part x c j f).core c = t.core c := by simp only [State.core, hcores]
    rw [hcore, if_neg (by simp [hx])]
    obtain ⟨hr, hk, hst⟩ := State.running_iff.1 h
    exact ⟨State.running_iff.2 ⟨hcore ▸ hr, by rw [hctx, hk], by rw [hctx, hst]⟩, rfl⟩

theorem NoteDone.note (hq : q < 4) (h : NoteDone s t c q n g r k) {x j : Nat} (hj : j < 4) :
    NoteDone s (t.updArrivals r.part x c j (noteRelease n g)) c q n g r k := by
  obtain ⟨hrun, hqueue⟩ := State.updArrivals_note h.runs (x := x) hq hj (noteRelease n g)
  refine ⟨hrun, ?_⟩
  rw [hqueue, h.queue]
  split
  · rw [noteRelease_noteRelease]
  · rfl

theorem NoteDue.note (hq : q < 4) (h : NoteDue s t c q n g r k) {x j : Nat} (hj : j < 4) :
    NoteDue s (t.updArrivals r.part x c j (noteRelease n g)) c q n g r k := by
  obtain ⟨hrun, hqueue⟩ := State.updArrivals_note h.runs (x := x) hq hj (noteRelease n g)
  rcases h.queue with he | he
  · refine ⟨hrun, ?_⟩
    rw [hqueue, he]
    split
    · exact .inr rfl
    · exact .inl rfl
  · exact (NoteDone.note hq ⟨h.runs, he⟩ hj).due

theorem NoteDue.hit (hq : q < 4) (h : NoteDue s t c q n g r k) :
    NoteDone s (t.updArrivals r.part r.ctx c q (noteRelease n g)) c q n g r k := by
  obtain ⟨hrun, hqueue⟩ := State.updArrivals_note h.runs (x := r.ctx) hq hq (noteRelease n g)
  refine ⟨hrun, ?_⟩
  rw [hqueue, if_pos ⟨rfl, rfl⟩]
  rcases h.queue with he | he <;> rw [he]
  rw [noteRelease_noteRelease]

theorem State.tablesOf_eq (s : State) (p n g c : Nat) : s.tablesOf p n g c = s.ctxs.foldl (fun s x =>
    if (s.context p x).kernel.isSome then (List.range 4).foldl (fun s q => s.updArrivals p x c q (noteRelease n g)) s else s) s := rfl

/-- A release that reaches a core is noted by every queue of the kernel that runs there. -/
theorem State.tablesOf_of_running (h : s.running c = some (r, k)) (hx : r.ctx < ctxPer s.mode) (hq : q < 4) :
    NoteDone s (s.tablesOf r.part n g c) c q n g r k := by
  rw [State.tablesOf_eq]
  have due (t : State) (x : Nat) (h : NoteDue s t c q n g r k) :
      NoteDue s ((List.range 4).foldl (fun s q => s.updArrivals r.part x c q (noteRelease n g)) t) c q n g r k :=
    List.foldlRecOn (motive := fun t => NoteDue s t c q n g r k) _ _ h fun _ hb _ hj => hb.note hq (List.mem_range.1 hj)
  have done (t : State) (x : Nat) (h : NoteDone s t c q n g r k) :
      NoteDone s ((List.range 4).foldl (fun s q => s.updArrivals r.part x c q (noteRelease n g)) t) c q n g r k :=
    List.foldlRecOn (motive := fun t => NoteDone s t c q n g r k) _ _ h fun _ hb _ hj => hb.note hq (List.mem_range.1 hj)
  refine foldl_reaches (P := fun t => NoteDue s t c q n g r k) (Q := fun t => NoteDone s t c q n g r k) (List.mem_range.2 hx) ⟨h, .inl rfl⟩ (fun t x _ ht => ?_) (fun t ht => ?_)
    fun t x _ ht => ?_
  · split
    · exact due t x ht
    · exact ht
  · rw [if_pos (by rw [(State.running_iff.1 ht.runs).2.1]; rfl)]
    exact foldl_reaches (P := fun t => NoteDue s t c q n g r k) (Q := fun t => NoteDone s t c q n g r k) (List.mem_range.2 hq) ht (fun t j hj h => h.note hq (List.mem_range.1 hj))
      (fun t h => h.hit hq) fun t j hj h => h.note hq (List.mem_range.1 hj)
  · split
    · exact done t x ht
    · exact ht

/-- The oldest release on its way to a core leaves the partition's list. -/
theorem State.deliverRelease_of_head {p : Nat} {l : List (Nat × Nat × Nat)} (h : (s.part p).releases = (c, n, g) :: l) :
    s.deliverRelease p c = (s.updPart p (fun t => { t with releases := l })).tablesOf p n g c := by
  have herase : s.updPart p (fun t => { t with releases := t.releases.erase (c, n, g) }) = s.updPart p (fun t => { t with releases := l }) := by
    simp only [State.updPart, h, List.erase_cons_head]
  rw [State.deliverRelease, h]
  simp only [List.find?_cons_of_pos, beq_self_eq_true]
  rw [herase]

/-- No wait ends on a core without a command in progress. -/
theorem State.wake_of_idle (h : ∀ j, j < 4 → ((s.core c).queue j).run = none) : s.wake c = s := by
  refine foldl_fixed fun q hq => ?_
  rw [h q (List.mem_range.1 hq)]
  split
  next h => cases h
  next => rfl

/-- The entry that a BELAY_ARRIVE with its number adds to its queue's table. -/
def arrivalOf (b : BitVec 512) (count : Nat) : Arrival := { belay := cbBelay b, tag := cbTag b, count := count }

theorem State.updQueue_congr {f f' : QueueSt → QueueSt} (h : f ((s.core c).queue q) = f' ((s.core c).queue q)) :
    s.updQueue c q f = s.updQueue c q f' := by
  simp only [State.updQueue, State.updCore, h]

/-- The only entry of a table leaves for the belay unit once it may. -/
theorem State.sendArrivals_of_single {a : Arrival} (h : s.running c = some (r, k)) (ha : ((s.core c).queue q).arrivals = [a]) (hs : a.sent = false)
    (hready : s.arriveReady r.part c q a.count = true) :
    s.sendArrivals c q = (s.updQueue c q (fun t => { t with arrivals := [{ a with sent := true }] })).updPart r.part
      (fun t => { t with arrivalsIn := t.arrivalsIn ++ [(c, q, a.belay, r.ctx)] }) := by
  have hq : s.updQueue c q (fun t => { t with arrivals := t.arrivals.map (fun a =>
        if (!a.sent && s.arriveReady r.part c q a.count) = true then { a with sent := true } else a) }) =
      s.updQueue c q (fun t => { t with arrivals := [{ a with sent := true }] }) := State.updQueue_congr (by simp [ha, hs, hready])
  simp only [State.sendArrivals, h, hq]
  simp [ha, hs, hready]

/-- A wait whose round is over leaves its queue, and its entry the table. -/
theorem State.waitStep_of_over {iss : Issued} (hq : q < 4) (h : s.running c = some (r, k)) (hl : ((s.core c).queue q).lateFault = none)
    (hover : ((s.core c).queue q).arrivals.any (fun a => a.belay == cbBelay iss.block && a.over) = true) (r' : CoreRun) :
    CoreOnly s (s.waitStep c q r' iss) c ((s.core c).setQueue q { ((s.core c).queue q).clearCmd with
      arrivals := ((s.core c).queue q).arrivals.filter (fun a => a.belay != cbBelay iss.block)
      cmds := ((s.core c).queue q).cmds.drop 1, run := none }) := by
  rw [State.waitStep]
  dsimp only
  rw [if_pos hover]
  exact CoreOnly.retire hq h (CoreOnly.updQueue s c q (fun t => { t with arrivals := t.arrivals.filter (fun a => a.belay != cbBelay iss.block) })) hl r'

theorem State.wake_of_wait {i : Issued} (hq : q < 4) (h : s.running c = some (r, k)) (hl : ((s.core c).queue q).lateFault = none)
    (hidle : ∀ j, j < 4 → j ≠ q → ((s.core c).queue j).run = none) (hi : ((s.core c).queue q).run = some i) (hissued : i.issued = true)
    (hop : cbOp i.block = 0x6002) (hover : ((s.core c).queue q).arrivals.any (fun a => a.belay == cbBelay i.block && a.over) = true) :
    s.wake c = s.waitStep c q r i := by
  have hwait := State.waitStep_of_over hq h hl hover r
  have rests (j : Nat) (hj : j < 4) : (((s.waitStep c q r i).core c).queue j).run = none := by
    rw [hwait.core]
    by_cases hjq : j = q
    · subst hjq
      rw [Core.queue_setQueue _ _ _ hq]
    · rw [Core.queue_setQueue_ne _ _ hq hj hjq]
      exact hidle j hj hjq
  refine foldl_reaches (P := fun t => t = s ∨ t = s.waitStep c q r i) (Q := fun t => t = s.waitStep c q r i) (List.mem_range.2 hq) (.inl rfl)
    ?_ ?_ ?_
  · rintro t j hj (rfl | rfl)
    · by_cases hjq : j = q
      · subst hjq
        exact .inr (by simp [h, hi, hop, hissued, hover])
      · exact .inl (by rw [h, hidle j (List.mem_range.1 hj) hjq])
    · refine .inr ?_
      rw [rests j (List.mem_range.1 hj)]
      split
      next h => cases h
      next => rfl
  · rintro t (rfl | rfl)
    · simp [h, hi, hop, hissued, hover]
    · rw [rests q hq]
      split
      next h => cases h
      next => rfl
  · rintro t j hj rfl
    rw [rests j (List.mem_range.1 hj)]
    split
    next h => cases h
    next => rfl

/-- A belay command at the head of its queue acts at once. -/
theorem State.belayStep_of_head {b : BitVec 512} {rest : List (BitVec 512)} {op : Nat} {check : QueueSt → Nat → Bool}
    {act : State → CoreRun → Issued → State} (hq : q < 4) (h : AtHead s c q r k b rest) (hop : cbOp b = op) (hf : cbFormOk b belayForm = true)
    (hi : imm b 255 8 = 0) (hn : cbNest b = 0xFFFF)
    (hcheck : check { (s.core c).queue q with count := nextCount ((s.core c).queue q).count, stalled := false } (cbBelay b) = true) :
    ∃ t iss, s.belayStep c q op check act = act t r iss ∧ iss.block = b ∧ CoreOnly s t c ((s.core c).headIssued q) := by
  obtain ⟨u, t, iss, hbegin, hissue, hb, hcore⟩ := State.issue_of_head (isMine := fun b => cbOp b == op) (form := belayForm) hq h (by simp [hop]) rfl hf hn
    (check := fun _ _ k i => need (imm i.block 255 8 == 0 && check (k.queue q) (cbBelay i.block))) fun t e m ht => by
      rw [ht.core, Core.queue_setQueue _ _ _ hq, hcheck, hi]
      rfl
  refine ⟨t, iss, ?_, hb, hcore⟩
  rw [State.belayStep, hbegin]
  dsimp only
  rw [hissue]

/-- A belay command names no nest. -/
theorem cbNest_of_belayForm {b : BitVec 512} (h : cbFormOk b belayForm = true) : cbNest b = 0xFFFF := by
  simp only [cbFormOk, belayForm, Bool.and_eq_true, Bool.false_or, beq_iff_eq] at h
  exact h.1.2

/-- An arrival that its belay does not serve stops its kernel (R204). -/
theorem State.arriveAt_of_refused {p n x : Nat} (h : (Table.get {} (s.part p).belays n).target = 0 ∨ (Table.get {} (s.part p).belays n).ctx ≠ x) :
    ∃ f : FaultInfo, s.arriveAt p c q n x = ((s.updPart p (fun t => { t with arrivalsIn := t.arrivalsIn.erase (c, q, n, x) })).updArrivals p x c q
      (fun l => l.filter (fun a => a.belay != n))).kernelFault p x f ∧ f.status = 0x0102 ∧ f.queue = q ∧ f.core = c := by
  have hb : Table.get {} ((s.updPart p (fun t => { t with arrivalsIn := t.arrivalsIn.erase (c, q, n, x) })).part p).belays n =
    Table.get {} (s.part p).belays n := by rw [State.part_updPart]
  unfold State.arriveAt
  simp only [hb, if_pos h]
  exact ⟨_, rfl, rfl, rfl, rfl⟩

/-- The entries of belay `n` take the reply of an arrival. -/
def noteReply (n gen : Nat) (l : List Arrival) : List Arrival :=
  l.map (fun a => if a.belay = n then { a with gen := some gen, released := none } else a)

/-- An arrival is counted where no release is on its way, and may end the round (R202). -/
theorem State.arriveAt_of_counted {p n : Nat} (htarget : (Table.get {} (s.part p).belays n).target ≠ 0) (hrel : (s.part p).releases = []) :
    s.arriveAt p c q n (Table.get {} (s.part p).belays n).ctx =
      (let b := Table.get {} (s.part p).belays n
      let u := ((s.updPart p (fun t => { t with arrivalsIn := t.arrivalsIn.erase (c, q, n, b.ctx) })).updArrivals p b.ctx c q (noteReply n b.gen)).updPart p
        (fun t => { t with belays := Table.set t.belays n { b with arrived := b.arrived + 1 } })
      if b.target ≤ b.arrived + 1 then u.releaseBelay p n else u) := by
  have hb : Table.get {} ((s.updPart p (fun t => { t with arrivalsIn := t.arrivalsIn.erase (c, q, n, (Table.get {} (s.part p).belays n).ctx) })).part
    p).belays n = Table.get {} (s.part p).belays n := by rw [State.part_updPart]
  have hdeliver : (s.updPart p (fun t => { t with arrivalsIn := t.arrivalsIn.erase (c, q, n, (Table.get {} (s.part p).belays n).ctx) })).deliverAll p c =
      s.updPart p (fun t => { t with arrivalsIn := t.arrivalsIn.erase (c, q, n, (Table.get {} (s.part p).belays n).ctx) }) := by
    simp [State.deliverAll, hrel]
  have hnot : ¬ ((Table.get {} (s.part p).belays n).target = 0 ∨
    (Table.get {} (s.part p).belays n).ctx ≠ (Table.get {} (s.part p).belays n).ctx) := by simp [htarget]
  unfold State.arriveAt
  simp only [hb, hdeliver, if_neg hnot]
  rfl

end Arrivals

end Sys2Proof.Machine

namespace Sys2Proof.Proofs

open Sys2Proof.Machine

/-- Settles O35: the fetched block by its class, KEND to all four queues, and the fetch past the bank. -/
theorem commandRouteFillsTheQueues : Obligations.CommandRouteFillsTheQueues := by
  unfold Obligations.CommandRouteFillsTheQueues
  refine ⟨fun s c r k hrun hcopy hf hdone hfetch hop hroom => ?_, fun s c r k hrun hcopy hf hdone hfetch hop hroom => ?_,
    fun s c r k hrun hcopy hf hdone hfetch => ?_⟩
  · have hexec : exec (.commandRoute c) s = .next (s.updCore c (fun t => t.route (fetched s c r))) := by
      show execCommandRoute c s = _
      simp [execCommandRoute, State.copyParams_of_copied hrun hcopy, hrun, hcopy, hf, hdone, Nat.not_le.2 hfetch, fetched]
    refine ⟨_, hexec, ?_⟩
    have hroute : (s.core c).route (fetched s c r) = { (s.core c).setQueue (cbQueue (fetched s c r))
        (((s.core c).queue (cbQueue (fetched s c r))).enter (fetched s c r)) with fetch := (s.core c).fetch + 1 } := by
      rw [Core.route, if_neg hop, if_pos hroom]
    rw [State.core_updCore, hroute]
    refine ⟨rfl, ?_, fun q hq hne hlt => (Core.queue_setQueue_ne _ _ hlt hq hne :), rfl, fun d hd => State.core_updCore_ne _ _ hd⟩
    exact congrArg QueueSt.cmds (Core.queue_setQueue_self ..)
  · have hexec : exec (.commandRoute c) s = .next (s.updCore c (fun t => t.route (fetched s c r))) := by
      show execCommandRoute c s = _
      simp [execCommandRoute, State.copyParams_of_copied hrun hcopy, hrun, hcopy, hf, hdone, Nat.not_le.2 hfetch, fetched]
    refine ⟨_, hexec, ?_⟩
    have hroute : (s.core c).route (fetched s c r) = { s.core c with
        qMx := (s.core c).qMx.enter (fetched s c r), qVec := (s.core c).qVec.enter (fetched s c r)
        qDma := (s.core c).qDma.enter (fetched s c r), qSeq := (s.core c).qSeq.enter (fetched s c r), fetchDone := true } := by
      rw [Core.route, if_pos hop, if_pos]
      simpa [Core.queues] using ⟨hroom 0 (by omega), hroom 1 (by omega), hroom 2 (by omega), hroom 3 (by omega)⟩
    rw [State.core_updCore, hroute]
    refine ⟨rfl, fun q hq => ?_, rfl, fun d hd => State.core_updCore_ne _ _ hd⟩
    match q, hq with
    | 0, _ => rfl
    | 1, _ => rfl
    | 2, _ => rfl
    | 3, _ => rfl
  · have hexec : exec (.commandRoute c) s =
        .next ((s.updCore c (fun t => { t with fetchDone := true })).kernelFault r.part r.ctx { status := 0x0101, core := c }) := by
      show execCommandRoute c s = _
      simp [execCommandRoute, State.copyParams_of_copied hrun hcopy, hrun, hcopy, hf, hdone, hfetch]
    refine ⟨_, hexec, ?_, rfl⟩
    exact congrArg Context.kernel (State.kernelFault_context (s := s.updCore ..) _ (State.running_iff.1 hrun).2.1 hf)

/-- Settles O36: each CTL command issues at once, and what it does to its queue is all it does. -/
theorem controlCommandsAndBreaks : Obligations.ControlCommandsAndBreaks := by
  unfold Obligations.ControlCommandsAndBreaks
  have noBrk {s : State} {c q : Nat} {r : CoreRun} {k : Kernel} {b : BitVec 512} {rest : List (BitVec 512)} (h : AtHead s c q r k b rest)
      (hop : cbOp b = 0x0002) (hbrk : ((s.core c).queue q).brkTaken = true) : s.brkDue c q = none := by
    simp [State.brkDue, h.runs, h.cmds, hop, h.free, hbrk]
  refine ⟨⟨fun s c q r k b rest hq h hop hf hi hn => ?_, fun s c q r k b rest hq h hop hf hi hn => ?_, fun s c q r k b rest hq h hop => ?_⟩,
    fun s c q r k b rest hq h hop hbrk => ?_, fun s c q r k b rest hq h hop hbrk hf hi hn => ?_⟩
  · obtain ⟨t, iss, hstep, _, ht⟩ := State.controlStep_of_head (act := fun s r _ => s.retire c q r) (check := fun _ _ => true) hq h hop rfl hf hi hn
      (fun _ _ => rfl)
    refine ⟨_, congrArg Host.Outcome.next hstep, ?_⟩
    have hret := CoreOnly.retire hq h.runs ht h.onTime r
    refine ⟨.of_coreOnly hq hret (by simp [h.cmds]) rfl rfl, ?_⟩
    rw [hret.core, Core.queue_setQueue _ _ _ hq]
    rfl
  · obtain ⟨t, iss, hstep, _, ht⟩ := State.controlStep_of_head (form := { uses := [false, false, false, false] })
      (act := fun s r _ => (s.updQueue c q (fun t => { t with kend := true })).retire c q r)
      (check := fun _ _ => true) hq h hop rfl hf hi hn (fun _ _ => rfl)
    refine ⟨_, congrArg Host.Outcome.next hstep, ?_⟩
    have hret := CoreOnly.retire hq h.runs (CoreOnly.queue hq ht (fun t => { t with kend := true })) h.onTime r
    refine ⟨.of_coreOnly hq hret (by simp [h.cmds]) rfl rfl, ?_⟩
    rw [hret.core, Core.queue_setQueue _ _ _ hq]
    rfl
  · have hbegin := State.begin_of_head (isMine := fun b => !opListed (cbOp b)) h (by simp [hop])
    have hexec : exec (.unlistedOpcode c q) s = .next ((s.updQueue c q (fun t => { t with count := nextCount ((s.core c).queue q).count })).cmdFault
        c q r b 0x0101) := by
      show execUnlistedOpcode c q s = _
      rw [execUnlistedOpcode, if_neg (by omega), State.refuseStep, hbegin]
    refine ⟨_, hexec, ?_⟩
    set u := s.updQueue c q (fun t => { t with count := nextCount ((s.core c).queue q).count }) with hu
    have hqueue : (u.core c).queue q = { (s.core c).queue q with count := nextCount ((s.core c).queue q).count } :=
      State.queue_updQueue _ _ _ _ hq
    rw [State.cmdFault_queue _ _ _ _ _ hq, State.cmdFault_context (s := u) _ _ (State.running_iff.1 h.runs).2.1 h.good, hqueue]
    exact ⟨rfl, h.cmds, rfl, rfl, rfl⟩
  · have hdue : s.brkDue c q = some (r, b) := by simp [State.brkDue, h.runs, h.cmds, hop, h.free, hbrk, h.good]
    have hlate : s.takeLate c q r = none := by simp [State.takeLate, h.onTime]
    have hexec : exec (.brk c q) s = .next ((s.updQueue c q (fun t => { t with brkTaken := true })).fireBreak r.part r.ctx []) := by
      show execBrk c q s = _
      rw [execBrk, if_neg (by omega), hdue]
      dsimp only
      rw [hlate]
      dsimp only
      rw [h.noBreak]
    refine ⟨_, hexec, ?_⟩
    obtain ⟨_, hk, hst⟩ := State.running_iff.1 h.runs
    set u := s.updQueue c q (fun t => { t with brkTaken := true }) with hu
    have hqueue : (u.core c).queue q = { (s.core c).queue q with brkTaken := true } := State.queue_updQueue _ _ _ _ hq
    have hfire : u.fireBreak r.part r.ctx [] =
        (u.setContext r.part r.ctx { u.context r.part r.ctx with state := .saving, trigger := some (true, 0x0106) }).stopQueues k.kd :=
      State.triggerSave_of_running (s := u) true 0x0106 hk h.good hst
    have stops := State.triggerSave_onlyStops u r.part r.ctx true 0x0106
    have hwork := Core.work_queue (stops.work c) q
    rw [hqueue] at hwork
    have hctx : (u.fireBreak r.part r.ctx []).context r.part r.ctx =
        { u.context r.part r.ctx with state := .saving, trigger := some (true, 0x0106) } := by
      rw [hfire, State.context_congr (State.stopQueues_contexts ..), State.context_setContext]
    rw [hctx]
    have hcount := congrArg QueueSt.count hwork
    exact ⟨rfl, rfl, congrArg QueueSt.brkTaken hwork, (congrArg QueueSt.cmds hwork).trans h.cmds, hcount, stops.mem⟩
  · obtain ⟨t, iss, hstep, _, ht⟩ := State.controlStep_of_head
      (act := fun s r _ => (s.updQueue c q (fun t => { t with brkTaken := false })).retire c q r)
      (check := fun _ _ => true) hq h hop rfl hf hi hn (fun _ _ => rfl)
    have hexec : exec (.brk c q) s = .next (s.controlStep c q 0x0002 ctlForm (fun _ _ => true) (fun s r _ =>
        (s.updQueue c q (fun t => { t with brkTaken := false })).retire c q r)) := by
      show execBrk c q s = _
      rw [execBrk, if_neg (by omega), noBrk h hop hbrk]
    refine ⟨_, hexec.trans (congrArg Host.Outcome.next hstep), ?_⟩
    have hret := CoreOnly.retire hq h.runs (CoreOnly.queue hq ht (fun t => { t with brkTaken := false })) h.onTime r
    refine ⟨.of_coreOnly hq hret (by simp [h.cmds]) rfl rfl, ?_⟩
    rw [hret.core, Core.queue_setQueue _ _ _ hq]
    rfl

/-- Settles O37: arrivals enter, are counted in their order and answered; a release reaches the tables and ends the waits of an older round. -/
theorem belaysArriveCountAndRelease : Obligations.BelaysArriveCountAndRelease := by
  unfold Obligations.BelaysArriveCountAndRelease
  refine ⟨fun s c q r k b rest hq h hop hf hi harr hready => ?_, fun s c q n x hfind hnext hctx htarget hrel => ?_,
    fun s c q n x hfind hdie hother => ?_, fun s c q n x k hfind hnext hbad hk hf => ?_, fun s c q r k b rest a hq h hop hf hi harr hbelay hover => ?_,
    fun s p c n g l hrel => ?_, fun s c n g q l r k hrun hx hq hrel hidle => ?_,
    fun s c n g old q l r k i a hrun hx hq hrel hidle hi hissued hop hbelay hlate harr ha hgen hne => ?_⟩
  · have hstep := State.belayStep_of_head (check := fun q n => !q.arrivals.any (fun a => a.belay == n) && decide (q.arrivals.length < 8))
      (act := fun s r iss =>
        (s.updQueue c q (fun t => { t with arrivals := t.arrivals ++ [arrivalOf iss.block ((s.core c).queue q).count] })).retire c q r) hq h hop hf hi (cbNest_of_belayForm hf) (by simp [harr])
    obtain ⟨t, iss, hstep, hb, ht⟩ := hstep
    have hcount : ((t.core c).queue q).count = nextCount ((s.core c).queue q).count := by
      rw [ht.core, Core.headIssued, Core.queue_setQueue _ _ _ hq]
    rw [hb, hcount] at hstep
    set a := arrivalOf b (nextCount ((s.core c).queue q).count) with ha
    have hret := CoreOnly.retire hq h.runs (CoreOnly.queue hq ht (fun t => { t with arrivals := t.arrivals ++ [a] })) h.onTime r
    set u := (t.updQueue c q (fun t => { t with arrivals := t.arrivals ++ [a] })).retire c q r with hu
    have hexec : exec (.belayArrive c q) s = .next (u.sendArrivals c q) := by
      show execBelayArrive c q s = _
      rw [execBelayArrive, if_neg (by omega)]
      exact congrArg (fun v => Host.Outcome.next (v.sendArrivals c q)) hstep
    obtain ⟨m, hrun, _⟩ := hret.running (by rw [Core.setQueue_run]) h.runs
    have hqueue : (u.core c).queue q = { (s.core c).queue q with
        count := nextCount ((s.core c).queue q).count, stalled := false, landing := [], coal := [], wrote := [], arrivals := [a], cmds := rest
        run := none } := by
      rw [hret.core, Core.queue_setQueue _ _ _ hq]
      simp [QueueSt.clearCmd, harr, h.cmds]
    have hready' : u.arriveReady r.part c q a.count = true := by
      have hpart : u.part r.part = s.part r.part := by simp only [State.part, hret.parts]
      have hstreams : (u.core c).streams = (s.core c).streams := by rw [hret.core, Core.setQueue_streams]
      unfold State.arriveReady at hready ⊢
      dsimp only at hready ⊢
      rwa [hpart, hqueue, hstreams]
    have hsend : u.sendArrivals c q = (u.updQueue c q (fun t => { t with arrivals := [{ a with sent := true }] })).updPart r.part
        (fun t => { t with arrivalsIn := t.arrivalsIn ++ [(c, q, cbBelay b, r.ctx)] }) := by
      exact State.sendArrivals_of_single hrun (by rw [hqueue]) rfl hready'
    refine ⟨_, hexec, ?_⟩
    rw [hsend]
    have hsent := State.queue_updQueue u c q (fun t => { t with arrivals := [{ a with sent := true }] }) hq
    rw [hqueue] at hsent
    have hcore (v : State) (f : Part → Part) : (v.updPart r.part f).core c = v.core c := rfl
    rw [hcore, hsent, State.part_updPart]
    have hpart : (u.updQueue c q (fun t => { t with arrivals := [{ a with sent := true }] })).part r.part = s.part r.part := by
      simp only [State.part, State.updQueue_parts, hret.parts]
    rw [hpart]
    exact ⟨rfl, rfl, ⟨_, rfl, rfl, rfl, rfl⟩, rfl, hret.mem, hret.out⟩
  · have hexec : exec (.belayArrival c q n) s = .next (s.arriveAt (partOfCore s.mode c) c q n x) := by
      show execBelayArrival c q n s = _
      simp only [execBelayArrival, hfind, hnext, if_true]
    refine ⟨_, hexec, ?_⟩
    set p := partOfCore s.mode c with hp
    set b := Table.get {} (s.part p).belays n with hb
    subst hctx
    rw [State.arriveAt_of_counted htarget hrel]
    dsimp only
    rw [← hb]
    set u := (s.updPart p (fun t => { t with arrivalsIn := t.arrivalsIn.erase (c, q, n, b.ctx) })).updArrivals p b.ctx c q (noteReply n b.gen) with hu
    have runs : OnlyRuns (s.updPart p (fun t => { t with arrivalsIn := t.arrivalsIn.erase (c, q, n, b.ctx) })) u := State.updArrivals_onlyRuns ..
    have upart : u.part p = { s.part p with arrivalsIn := (s.part p).arrivalsIn.erase (c, q, n, b.ctx) } := by
      rw [runs.part, State.part_updPart]
    have umode : u.mode = s.mode := runs.mode
    have utable (r : CoreRun) (k : Kernel) (hrun : s.running c = some (r, k)) (hpart : r.part = p) (hctx : r.ctx = b.ctx) (hq : q < 4) :
        ((u.core c).queue q).arrivals = ((s.core c).queue q).arrivals.map (fun a => if a.belay = n then
          { a with gen := some b.gen, released := none } else a) := by
      rw [hu, ← hpart, ← hctx, State.updArrivals_of_running (s := s.updPart ..) hrun, State.queue_updQueue _ _ _ _ hq]
      rfl
    by_cases htgt : b.target ≤ b.arrived + 1
    · rw [if_pos htgt]
      refine ⟨?_, fun h => absurd htgt (by omega), fun _ => ⟨?_, ?_⟩, utable, runs.mem, runs.out⟩
      · simp [State.releaseBelay, upart]
      · simp [State.releaseBelay, upart]
      · have hmode : (u.updPart p (fun t => { t with belays := Table.set t.belays n { b with arrived := b.arrived + 1 } })).mode = s.mode := umode
        simp [State.releaseBelay, upart, hrel, hmode]
    · rw [if_neg htgt]
      refine ⟨?_, fun _ => ⟨?_, ?_⟩, fun h => absurd h htgt, utable, runs.mem, runs.out⟩
      · simp [upart]
      · simp [upart]
      · simp [upart, hrel]
  · have hnot : s.arrivalNext (partOfCore s.mode c) (c, q, n, x) = false := by
      obtain ⟨u, hu, hne⟩ := hother
      simp [State.arrivalNext, hdie, hu, hne]
    show execBelayArrival c q n s = _
    simp only [execBelayArrival, hfind, hnot, Bool.false_eq_true, if_false]
  · have hexec : exec (.belayArrival c q n) s = .next (s.arriveAt (partOfCore s.mode c) c q n x) := by
      show execBelayArrival c q n s = _
      simp only [execBelayArrival, hfind, hnext, if_true]
    obtain ⟨f, harrive, hstatus, hqueue, hcore⟩ := State.arriveAt_of_refused (q := q) hbad
    refine ⟨_, f, hexec, ?_, hstatus, hqueue, hcore⟩
    have hkept := ((s.updPart (partOfCore s.mode c) (fun t => { t with arrivalsIn := t.arrivalsIn.erase (c, q, n, x) })).updArrivals_kernel
      (partOfCore s.mode c) x c q (fun l => l.filter (fun a => a.belay != n))).trans hk
    rw [harrive, State.kernelFault_context _ hkept hf]
  · have hstep := State.belayStep_of_head (check := fun q n => q.arrivals.any (fun a => a.belay == n))
      (act := fun s r iss => s.waitStep c q r iss) hq h hop hf hi (cbNest_of_belayForm hf) (by simp [harr, hbelay])
    obtain ⟨t, iss, hstep, hb, ht⟩ := hstep
    have hexec : exec (.belayWait c q) s = .next (t.waitStep c q r iss) := by
      show execBelayWait c q s = _
      rw [execBelayWait, if_neg (by omega)]
      exact congrArg Host.Outcome.next hstep
    have hqueue : (t.core c).queue q = { (s.core c).queue q with
        count := nextCount ((s.core c).queue q).count, stalled := false, landing := [] } := by
      rw [ht.core, Core.headIssued, Core.queue_setQueue _ _ _ hq]
    obtain ⟨m, hrun, _⟩ := ht.running (by rw [Core.headIssued, Core.setQueue_run]) h.runs
    have hleft := ht.trans (State.waitStep_of_over (iss := iss) hq hrun (by rw [hqueue]; exact h.onTime)
      (by rw [hqueue, hb]; simp [harr, hbelay, hover]) r)
    rw [hqueue, ht.core, Core.headIssued, Core.setQueue_setQueue] at hleft
    refine ⟨_, hexec, .of_coreOnly hq hleft (by simp [h.cmds]) rfl rfl, ?_⟩
    rw [hleft.core, Core.queue_setQueue _ _ _ hq]
    simp [harr, hb, hbelay]
  · have runs : OnlyRuns (s.updPart p (fun t => { t with releases := l })) ((s.deliverRelease p c).wake c) := by
      rw [State.deliverRelease_of_head hrel]
      exact (State.tablesOf_onlyRuns ..).trans (State.wake_onlyRuns ..)
    refine ⟨_, rfl, ?_, runs.mem, runs.out⟩
    rw [runs.part, State.part_updPart]
  · refine ⟨_, rfl, ?_⟩
    have noted (j : Nat) (hj : j < 4) := State.tablesOf_of_running (s := s.updPart r.part (fun t => { t with releases := l })) (n := n) (g := g) hrun hx hj
    rw [State.deliverRelease_of_head hrel, State.wake_of_idle, (noted q hq).queue]
    · rfl
    · intro j hj
      rw [(noted j hj).queue]
      exact hidle j hj
  · refine ⟨_, rfl, ?_⟩
    have noted (j : Nat) (hj : j < 4) := State.tablesOf_of_running (s := s.updPart r.part (fun t => { t with releases := l })) (n := n) (g := g) hrun hx hj
    rw [State.deliverRelease_of_head hrel]
    set u := (s.updPart r.part (fun t => { t with releases := l })).tablesOf r.part n g c with hu
    have hqueue : (u.core c).queue q = { (s.core c).queue q with arrivals := [{ a with released := some g }] } := by
      rw [(noted q hq).queue]
      have hcore : (s.updPart r.part (fun t => { t with releases := l })).core c = s.core c := rfl
      rw [hcore, harr]
      simp [noteRelease, ha, hgen]
    have hwait := State.wake_of_wait (s := u) (i := i) hq (noted q hq).runs (by rw [hqueue]; exact hlate)
      (fun j hj hjq => by rw [(noted j hj).queue]; exact hidle j hj hjq) (by rw [hqueue]; exact hi) hissued hop
      (by rw [hqueue]; simp [ha, hbelay, Arrival.over, hgen, hne])
    have hleft := State.waitStep_of_over (s := u) (iss := i) hq (noted q hq).runs (by rw [hqueue]; exact hlate)
      (by rw [hqueue]; simp [ha, hbelay, Arrival.over, hgen, hne]) r
    rw [hwait, hleft.core, Core.queue_setQueue _ _ _ hq, hqueue]
    exact ⟨rfl, rfl, by simp [ha, hbelay]⟩

end Sys2Proof.Proofs
end

section
/-! PROOFS. Copies of code, dispatch, saves and restores (R107, R211 to R222, R354). -/

namespace Sys2Proof.Machine

/-! ## What an engine's reads leave as it was (R149, R310, R335) -/

/-- A queue but for what its reads and remote operations leave in it. -/
def QueueSt.still (q : QueueSt) : QueueSt := { q with landing := [], remoteOut := 0, lateFault := none, stalled := false }

/-- A core but for its parameters, its log of dropped writes, and what reads and remote operations leave in its queues. -/
def Core.still (k : Core) : Core :=
  { k with params := [], cslog := {}, qMx := k.qMx.still, qVec := k.qVec.still, qDma := k.qDma.still, qSeq := k.qSeq.still }

/-- A kernel but for its counters and the reading of its parameters. -/
def Kernel.still (k : Kernel) : Kernel := { k with moved := [], charge := 0, copying := 0, copyBad := none, fault := none }

def Context.still (t : Context) : Context := { t with kernel := t.kernel.map Kernel.still }

/-- A partition but for its operations under way and its test requests. -/
def Part.still (t : Part) : Part := { t with outstanding := [], nextTag := 0, test := {}, cal := {} }

/-- `t` is `s` but for what an engine's reads may touch: memory, operations under way, counters, and what waits for the answers. -/
structure Reads (s t : State) : Prop where
  core : ∀ c, (t.core c).still = (s.core c).still
  context : ∀ p x, (t.context p x).still = (s.context p x).still
  part : ∀ p, (t.part p).still = (s.part p).still

section Reads

variable {s t u : State}

theorem Reads.refl (s : State) : Reads s s := ⟨fun _ => rfl, fun _ _ => rfl, fun _ => rfl⟩

theorem Reads.trans (h : Reads s t) (g : Reads t u) : Reads s u :=
  ⟨fun c => (g.core c).trans (h.core c), fun p x => (g.context p x).trans (h.context p x), fun p => (g.part p).trans (h.part p)⟩

theorem Reads.foldl {α : Type} {f : State → α → State} (h : ∀ s a, Reads s (f s a)) (l : List α) (s : State) : Reads s (l.foldl f s) :=
  List.foldlRecOn l f (motive := Reads s) (.refl s) fun _ hb a _ => hb.trans (h _ a)

theorem Reads.of_eq (hc : t.cores = s.cores) (hx : t.contexts = s.contexts) (hp : t.parts = s.parts) : Reads s t :=
  ⟨fun c => by simp only [State.core, hc], fun p x => by simp only [State.context, hx], fun p => by simp only [State.part, hp]⟩

theorem Core.still_setQueue (k : Core) (q : Nat) {v : QueueSt} (h : v.still = (k.queue q).still) : (k.setQueue q v).still = k.still := by
  unfold Core.setQueue Core.queue at *
  split
  next hq => rw [if_pos hq] at h; simp only [Core.still, h]
  next hq =>
    rw [if_neg hq] at h
    split
    next hq => rw [if_pos hq] at h; simp only [Core.still, h]
    next hq =>
      rw [if_neg hq] at h
      split
      next hq => rw [if_pos hq] at h; simp only [Core.still, h]
      next hq => rw [if_neg hq] at h; simp only [Core.still, h]

theorem Reads.updCore {c : Nat} {f : Core → Core} (h : (f (s.core c)).still = (s.core c).still) : Reads s (s.updCore c f) := by
  refine ⟨fun d => ?_, fun _ _ => rfl, fun _ => rfl⟩
  by_cases hd : d = c
  · subst hd
    rw [State.core_updCore, h]
  · rw [State.core_updCore_ne _ _ hd]

theorem Reads.updQueue {c q : Nat} {f : QueueSt → QueueSt} (h : ∀ v, (f v).still = v.still) : Reads s (s.updQueue c q f) :=
  .updCore (Core.still_setQueue _ _ (h _))

theorem Reads.updContext {p x : Nat} {f : Context → Context} (h : ∀ v, (f v).still = v.still) : Reads s (s.updContext p x f) := by
  refine ⟨fun _ => rfl, fun p' x' => ?_, fun _ => rfl⟩
  by_cases hx : 64 * p' + x' = 64 * p + x
  · have hget (u : State) : u.context p' x' = u.context p x := by simp only [State.context, hx]
    rw [hget, hget, State.context_updContext, h]
  · have hne : (s.updContext p x f).context p' x' = s.context p' x' := Table.get_set_ne _ _ _ hx
    rw [hne]

theorem Reads.setPart {p : Nat} {v : Part} (h : v.still = (s.part p).still) : Reads s (s.setPart p v) := by
  refine ⟨fun _ => rfl, fun _ _ => rfl, fun q => ?_⟩
  by_cases hq : q = p
  · subst hq
    rw [State.part_setPart, h]
  · have hne : (s.setPart p v).part q = s.part q := Table.get_set_ne _ _ _ hq
    rw [hne]

theorem Reads.updPart {p : Nat} {f : Part → Part} (h : ∀ v, (f v).still = v.still) : Reads s (s.updPart p f) := .setPart (h _)

theorem Part.still_nextTag (t : Part) (n : Nat) : ({ t with nextTag := n } : Part).still = t.still := rfl

theorem QueueSt.still_land (q : QueueSt) (line n : Nat) (v : Nat → Landing) : (q.land line n v).still = q.still := rfl

theorem Core.still_params (k : Core) (params : Table Word) : ({ k with params := params } : Core).still = k.still := rfl

theorem State.loseStack_reads (s : State) (k : Nat) : Reads s (s.loseStack k) := by
  unfold State.loseStack
  dsimp only
  split
  · exact (Reads.setPart (p := partOfStack s.mode k) (v := (s.part (partOfStack s.mode k)).loseTests [4, 5, 6, 7] [1] k) rfl).trans
      (.of_eq rfl rfl rfl)
  · exact .refl s

theorem State.cairn_reads (s : State) (type : Nat) (payload : List Byte) : Reads s (s.cairn type payload) := by
  unfold State.cairn
  split <;> exact .of_eq rfl rfl rfl

theorem State.withMem_reads (s : State) (m : MemSys) (cause : Nat) : Reads s (s.withMem m cause) := by
  unfold State.withMem
  extract_lets l t
  have ht : Reads s t := Reads.trans (t := { s with mem := m }) (.of_eq rfl rfl rfl)
    (.foldl (fun s f => (State.cairn_reads ..).trans (State.loseStack_reads ..)) _ _)
  split
  · exact ht
  · exact ht.trans (.of_eq rfl rfl rfl)

theorem Kernel.still_addMoved (k : Kernel) (i n : Nat) : (k.addMoved i n).still = k.still := rfl

theorem Context.still_mapKernel (t : Context) {f : Kernel → Kernel} (h : ∀ k, (f k).still = k.still) :
    ({ t with kernel := t.kernel.map f } : Context).still = t.still := by
  unfold Context.still
  cases t.kernel with
  | none => rfl
  | some k => simp only [Option.map_some, h]

theorem State.addMoved_reads (s : State) (c i n : Nat) : Reads s (s.addMoved c i n) := by
  unfold State.addMoved
  split
  · exact .updContext fun v => v.still_mapKernel fun _ => rfl
  · exact .refl s

theorem State.addCharge_reads (s : State) (c n : Nat) : Reads s (s.addCharge c n) := by
  unfold State.addCharge
  split
  · exact .updContext fun v => v.still_mapKernel fun _ => rfl
  · exact .refl s

theorem State.sendSnoops_reads (s : State) (l : List (Nat × Bool)) : Reads s (s.sendSnoops l) :=
  .foldl (fun s x => by
    split
    · exact .refl s
    · exact .of_eq rfl rfl rfl) _ s

theorem QueueSt.still_failLate (q : QueueSt) (f : FaultInfo) : (q.failLate f).still = q.still := by
  unfold QueueSt.failLate
  split <;> rfl

theorem State.finishOp_reads (s : State) (p tag status : Nat) (data : List Byte) : Reads s (s.finishOp p tag status data) := by
  unfold State.finishOp
  split
  · exact .refl s
  next r _ =>
    dsimp only
    have hdel : Reads s (s.updPart p (fun x => { x with outstanding := Table.del x.outstanding tag })) := .updPart fun _ => rfl
    split
    · refine hdel.trans (.updQueue fun v => ?_)
      split
      · rfl
      · exact QueueSt.still_failLate ..
    · split
      · exact (hdel.trans (State.addMoved_reads ..)).trans (.updQueue fun _ => rfl)
      · exact hdel.trans (.updQueue fun _ => rfl)

theorem State.sendOp_reads {p q : Nat} {o : FabOp} (h : s.sendOp p o = some (t, q)) : Reads s t := by
  unfold State.sendOp at h
  split at h
  · cases h
    exact .of_eq rfl rfl rfl
  · cases h

theorem State.issueOp_reads (s : State) (p : Nat) (req : OutReq) (o : FabOp) : Reads s (s.issueOp p req o) := by
  unfold State.issueOp
  extract_lets tag o' s'
  have hs : Reads s s' := Reads.updPart (f := fun x => { x with nextTag := (tag + 1) % 2 ^ 16 }) fun v => v.still_nextTag _
  split
  next h => exact (hs.trans (State.sendOp_reads h)).trans (.updPart fun _ => rfl)
  next =>
    refine Reads.trans ?_ (State.finishOp_reads ..)
    exact hs.trans (.updPart fun _ => rfl)

theorem State.askRemote_reads (s : State) (p c q tag count : Nat) (lines : List Nat) : Reads s (s.askRemote p c q tag count lines) := by
  unfold State.askRemote
  dsimp only
  refine .foldl (fun s r => ?_) _ s
  split
  · exact .refl s
  · exact (Reads.trans (t := s.updQueue c q (fun k => k.land r.1 r.2 (fun _ => .asked))) (.updQueue fun v => v.still_land ..) (State.addMoved_reads ..)).trans (State.issueOp_reads ..)

theorem State.absorbReads_reads (s : State) (c q : Nat) (r : CoreRun) (tag : Nat) (w : Wk) : Reads s (s.absorbReads c q r tag w) := by
  unfold State.absorbReads
  extract_lets s₁ s₂ s₃ s₄
  have h₁ : Reads s s₁ := State.withMem_reads ..
  have h₂ : Reads s₁ s₂ := ((State.addMoved_reads ..).trans (State.addMoved_reads ..)).trans (State.addCharge_reads ..)
  have h₃ : Reads s₂ s₃ := State.sendSnoops_reads ..
  have h₄ : Reads s₃ s₄ := by
    unfold s₄
    split
    · exact .refl s₃
    · exact .updQueue fun _ => rfl
  exact (((h₁.trans h₂).trans h₃).trans h₄).trans (State.askRemote_reads ..)

theorem State.copyParams_reads (s : State) (c : Nat) : Reads s (s.copyParams c) := by
  unfold State.copyParams
  split
  · exact .refl s
  next r k hrun =>
    split
    · exact .refl s
    · generalize Wk.read (s.env c 2 r) { mem := s.mem } (kdPb r.kd) 256 = x
      obtain ⟨bs, w⟩ := x
      dsimp only
      have habs := s.absorbReads_reads c 2 r 0 w.counted
      split
      · exact habs
      · have hkernel := Reads.updContext (s := s.absorbReads c 2 r 0 w.counted) (p := r.part) (x := r.ctx)
          (f := fun t => { t with kernel := t.kernel.map (fun k => k.copied c w.fault) }) fun v => v.still_mapKernel fun _ => rfl
        refine (habs.trans hkernel).trans ?_
        have hland := Reads.updQueue (s := (s.absorbReads c 2 r 0 w.counted).updContext r.part r.ctx (fun t =>
          { t with kernel := t.kernel.map (fun k => k.copied c w.fault) })) (c := c) (q := 2) (f := fun q => { q with landing := [] }) fun _ => rfl
        split
        · exact hland
        · exact hland.trans (.updCore (Core.still_params ..))

theorem State.takeWork_reads (s : State) (w : Wk) : Reads s (s.takeWork w) := by
  unfold State.takeWork
  extract_lets s₁ host s₂
  have h₁ : Reads s s₁ := (State.withMem_reads ..).trans (State.sendSnoops_reads ..)
  have h₂ : Reads s₁ s₂ := by
    unfold s₂
    split
    · exact .refl s₁
    · exact .of_eq rfl rfl rfl
  exact (h₁.trans h₂).trans (.foldl (fun s d => .updCore rfl) _ _)

/-! ### Contexts and memory after the part's own reads -/

theorem State.withMem_frame (s : State) (m : MemSys) (cause : Nat) :
    (s.withMem m cause).contexts = s.contexts ∧ (s.withMem m cause).mem = m ∧ (s.withMem m cause).cores = s.cores := by
  unfold State.withMem
  extract_lets l t
  have ht : t.contexts = s.contexts ∧ t.mem = m ∧ t.cores = s.cores := by
    refine List.foldlRecOn (motive := fun t : State => t.contexts = s.contexts ∧ t.mem = m ∧ t.cores = s.cores) _ _ ⟨rfl, rfl, rfl⟩ ?_
    rintro t ht f -
    have hcairn (t : State) (ty : Nat) (l : List Byte) : (t.cairn ty l).contexts = t.contexts ∧ (t.cairn ty l).mem = t.mem ∧
        (t.cairn ty l).cores = t.cores := by
      unfold State.cairn
      split <;> exact ⟨rfl, rfl, rfl⟩
    have hlose (t : State) (k : Nat) : (t.loseStack k).contexts = t.contexts ∧ (t.loseStack k).mem = t.mem ∧ (t.loseStack k).cores = t.cores := by
      unfold State.loseStack
      dsimp only
      split <;> exact ⟨rfl, rfl, rfl⟩
    have hl := hlose (t.cairn 0x0C [BitVec.ofNat 8 f.1, BitVec.ofNat 8 f.2, BitVec.ofNat 8 cause]) f.1
    have hc := hcairn t 0x0C [BitVec.ofNat 8 f.1, BitVec.ofNat 8 f.2, BitVec.ofNat 8 cause]
    exact ⟨hl.1.trans (hc.1.trans ht.1), hl.2.1.trans (hc.2.1.trans ht.2.1), hl.2.2.trans (hc.2.2.trans ht.2.2)⟩
  split <;> exact ht

theorem State.sendSnoops_frame (s : State) (l : List (Nat × Bool)) :
    (s.sendSnoops l).contexts = s.contexts ∧ (s.sendSnoops l).mem = s.mem ∧ (s.sendSnoops l).cores = s.cores := by
  refine List.foldlRecOn (motive := fun t : State => t.contexts = s.contexts ∧ t.mem = s.mem ∧ t.cores = s.cores) _ _ ⟨rfl, rfl, rfl⟩ ?_
  rintro t ht x -
  dsimp only
  split
  · exact ht
  · exact ht

theorem State.takeWork_contexts (s : State) (w : Wk) : (s.takeWork w).contexts = s.contexts := by
  unfold State.takeWork
  extract_lets s₁ host s₂
  have h₁ : s₁.contexts = s.contexts := (State.sendSnoops_frame ..).1.trans (State.withMem_frame ..).1
  have h₂ : s₂.contexts = s.contexts := by
    unfold s₂
    split
    · exact h₁
    · exact h₁
  exact List.foldlRecOn (motive := fun t : State => t.contexts = s.contexts) _ _ h₂ fun t ht d _ => ht

end Reads

/-! ## Lists of cores -/

theorem bitsBelow_split {n w c : Nat} (hc : c ∈ bitsBelow n w) : ∃ l, bitsBelow n w = bitsBelow c w ++ c :: l := by
  rw [bitsBelow, List.mem_filter, List.mem_range] at hc
  obtain ⟨hlt, hbit⟩ := hc
  have hsplit : List.range n = List.range c ++ c :: (List.range (n - c - 1)).map (c + 1 + ·) := by
    conv_lhs => rw [show n = (c + 1) + (n - c - 1) by omega, List.range_add, List.range_succ]
    simp
  refine ⟨((List.range (n - c - 1)).map (c + 1 + ·)).filter (fun i => w.testBit i), ?_⟩
  rw [bitsBelow, hsplit, List.filter_append, List.filter_cons_of_pos hbit]
  rfl

/-- The rank of a core among those that a kernel lists. -/
theorem mem_zip_bitsBelow {n w i c : Nat} (h : (i, c) ∈ (List.range (bitsBelow n w).length).zip (bitsBelow n w)) :
    i = (bitsBelow c w).length := by
  obtain ⟨j, hj, he⟩ := List.mem_iff_getElem.1 h
  rw [List.getElem_zip, List.getElem_range] at he
  obtain ⟨hi, hc⟩ := Prod.mk.inj he
  subst hi
  have hj' : j < (bitsBelow n w).length := by
    simp only [List.length_zip, List.length_range, min_self] at hj
    exact hj
  have hmem : c ∈ bitsBelow n w := hc ▸ List.getElem_mem hj'
  obtain ⟨l, hsplit⟩ := bitsBelow_split hmem
  have hlt : (bitsBelow c w).length < (bitsBelow n w).length := by rw [hsplit]; simp
  have hat : (bitsBelow n w)[(bitsBelow c w).length] = c := by simp [hsplit]
  exact ((bitsBelow_nodup n w).getElem_inj_iff (hi := hj') (hj := hlt)).1 (hc.trans hat.symm)

theorem rank_mem_zip {n w c : Nat} (h : c ∈ bitsBelow n w) :
    ((bitsBelow c w).length, c) ∈ (List.range (bitsBelow n w).length).zip (bitsBelow n w) := by
  obtain ⟨j, hj, he⟩ := List.mem_iff_getElem.1 h
  have hmem : (j, c) ∈ (List.range (bitsBelow n w).length).zip (bitsBelow n w) := by
    refine List.mem_iff_getElem.2 ⟨j, by simpa using hj, ?_⟩
    rw [List.getElem_zip, List.getElem_range, he]
  rwa [← mem_zip_bitsBelow hmem]

end Sys2Proof.Machine

namespace Sys2Proof.Proofs

open Sys2Proof.Machine

/-- A copy of 64 zero bytes from core 1's scratch is under way into bank 0 of core 0, whose listed bytes do not stand in rising order. -/
def copiesIntoUnorderedBank : State where
  contexts := [(0, { csCopy := some { bank := 0, first := 0, count := 1, src := 2 ^ 40 + 0x80_0000, cores := 1 } })]
  mem := { cmdStore := [(0, [(5, 1), (3, 1)])] }

/-- Refutes O28: where a bank's listed bytes do not have the canonical form, which the statement does not ask for, a zero that the copy
writes over a byte listed out of order is lost. -/
theorem not_csgoCopiesCode : ¬ Obligations.CsgoCopiesCode := by
  unfold Obligations.CsgoCopiesCode
  rintro ⟨_, _, _, h⟩
  obtain ⟨t, hexec, _, _, hbank⟩ := h copiesIntoUnorderedBank 0 0
    { bank := 0, first := 0, count := 1, src := 2 ^ 40 + 0x80_0000, cores := 1 } rfl (by decide +kernel)
  have hread := hbank 0 (by decide) rfl (by decide)
  have hdone : ∃ u, exec (.csgoDone 0 0) copiesIntoUnorderedBank = .next u ∧ u.mem.bankRead 0 0 0 64 ≠ List.replicate 64 0 :=
    ⟨_, rfl, by decide +kernel⟩
  obtain ⟨u, hu, hne⟩ := hdone
  rw [← Host.Outcome.next.inj (hu.symm.trans hexec)] at hread
  exact hne (hread.trans (by decide +kernel))

end Sys2Proof.Proofs
end

section
/-! PROOFS. The dispatch of a kernel and of a restore (R212, R213, R215, R221). -/

namespace Sys2Proof.Machine

/-! ## A cell under a run of equal bytes -/

theorem cellGet_cellMask_replicate (d : Nat → Byte) (b : Byte) (n : Nat) : ∀ (l : List Host.Cell) (a x : Nat), cellsWf d l = true →
    cellGet (d x) (cellMask d l a (List.replicate n (some b))) x = if a ≤ x ∧ x < a + n then b else cellGet (d x) l x := by
  induction n with
  | zero => exact fun l a x _ => (if_neg (by omega)).symm
  | succ n ih =>
    intro l a x hl
    rw [List.replicate_succ, cellMask, ih _ _ _ (cellsWf_cellPut d l a b hl), cellGet_cellPut d a b x l none hl]
    by_cases hx : x = a
    · rw [if_neg (by omega), if_pos hx, if_pos (by omega)]
    · rw [if_neg hx]
      exact if_congr (by omega) rfl rfl

theorem MemSys.scratchRead_one (m : MemSys) (c off : Nat) :
    m.scratchRead c off 1 = [cellGet (m.scratchByte c off) (Table.get [] m.scratch c) off] := rfl

theorem MemSys.scratchRead_scratchWrite_ne {m : MemSys} {c d : Nat} (lo off n : Nat) (bs : List (Option Byte)) (h : d ≠ c) :
    (m.scratchWrite c lo bs).scratchRead d off n = m.scratchRead d off n := by
  have hget : Table.get [] (m.scratchWrite c lo bs).scratch d = Table.get [] m.scratch d := Table.get_set_ne _ _ _ h
  simp only [MemSys.scratchRead, hget]
  rfl

theorem MemSys.scratchRead_scratchWrite_replicate {m : MemSys} {c lo off n : Nat} {b : Byte} (hm : Memory.wf m = true) (hlo : lo ≤ off)
    (hoff : off < lo + n) : (m.scratchWrite c lo (List.replicate n (some b))).scratchRead c off 1 = [b] := by
  have hcells : cellsWf (m.scratchByte c) (Table.get [] m.scratch c) = true := cellsWf_get (d := m.scratchByte) c ((Memory.wf_iff m).1 hm).2.1
  have hget : Table.get [] (m.scratchWrite c lo (List.replicate n (some b))).scratch c =
      cellMask (m.scratchByte c) (Table.get [] m.scratch c) lo (List.replicate n (some b)) := Table.get_set_same ..
  rw [MemSys.scratchRead_one, hget]
  exact congrArg (fun v => [v]) ((cellGet_cellMask_replicate (m.scratchByte c) b n _ lo off hcells).trans (if_pos ⟨hlo, hoff⟩))

/-! ## A kernel that begins (R213) -/

/-- What a core holds as its part of a kernel begins: an empty set of queues, its entry point, and nothing in its units. -/
structure Core.Begun (k : Core) (r : CoreRun) : Prop where
  run : k.run = some r
  fetch : k.fetch = kdEntry r.kd
  fetchDone : k.fetchDone = false
  mx : k.qMx.cmds = []
  vec : k.qVec.cmds = []
  dma : k.qDma.cmds = []
  seq : k.qSeq.cmds = []
  acc : k.acc = []
  kflags : k.kflags = 0
  w0 : k.w0 = none
  w1 : k.w1 = none
  active : k.active = none
  streams : k.streams = []
  credits : k.spool.credits = 16
  epoch : k.spool.epoch = 0
  lastUse : k.lastUse = .ctx r.ctx

/-- What reads leave as it was holds all of it. -/
theorem Core.Begun.of_still {k k' : Core} {run : CoreRun} (h : k'.Begun run) (hk : k.still = k'.still) : k.Begun run where
  run := (congrArg Core.run hk :).trans h.run
  fetch := (congrArg Core.fetch hk :).trans h.fetch
  fetchDone := (congrArg Core.fetchDone hk :).trans h.fetchDone
  mx := (congrArg (fun k => k.qMx.cmds) hk :).trans h.mx
  vec := (congrArg (fun k => k.qVec.cmds) hk :).trans h.vec
  dma := (congrArg (fun k => k.qDma.cmds) hk :).trans h.dma
  seq := (congrArg (fun k => k.qSeq.cmds) hk :).trans h.seq
  acc := (congrArg Core.acc hk :).trans h.acc
  kflags := (congrArg Core.kflags hk :).trans h.kflags
  w0 := (congrArg Core.w0 hk :).trans h.w0
  w1 := (congrArg Core.w1 hk :).trans h.w1
  active := (congrArg Core.active hk :).trans h.active
  streams := (congrArg Core.streams hk :).trans h.streams
  credits := (congrArg (fun k => k.spool.credits) hk :).trans h.credits
  epoch := (congrArg (fun k => k.spool.epoch) hk :).trans h.epoch
  lastUse := (congrArg Core.lastUse hk :).trans h.lastUse

section Start

variable {s : State} {p x : Nat} {st : Start}

theorem State.takeCore_begun (s : State) (p x : Nat) (kd : BitVec 512) (rank c : Nat) :
    ((s.takeCore p x kd rank c).core c).Begun ⟨p, x, kd, rank⟩ := by
  unfold State.takeCore
  extract_lets k other lock q m k'
  rw [State.core_setCore]
  exact ⟨rfl, rfl, rfl, rfl, rfl, rfl, rfl, rfl, rfl, rfl, rfl, rfl, rfl, rfl, rfl, rfl⟩

theorem State.takeCore_core_ne (s : State) (p x : Nat) (kd : BitVec 512) (rank : Nat) {c d : Nat} (h : d ≠ c) :
    (s.takeCore p x kd rank c).core d = s.core d := by
  unfold State.takeCore
  exact Table.get_set_ne _ _ _ h

/-- Each listed core takes its part, with its rank among them. -/
theorem takeCores_begun {kd : BitVec 512} {c : Nat} (hc : c ∈ bitsBelow 48 (kdCores kd)) (s : State) (p x : Nat) :
    ((((List.range (bitsBelow 48 (kdCores kd)).length).zip (bitsBelow 48 (kdCores kd))).foldl
      (fun s k => s.takeCore p x kd k.1 k.2) s).core c).Begun ⟨p, x, kd, (bitsBelow c (kdCores kd)).length⟩ := by
  refine foldl_reaches (P := fun _ => True) (Q := fun t : State => (t.core c).Begun ⟨p, x, kd, (bitsBelow c (kdCores kd)).length⟩)
    (rank_mem_zip hc) trivial (fun _ _ _ _ => trivial) (fun t _ => t.takeCore_begun ..) ?_
  rintro t ⟨rank, d⟩ hd ht
  by_cases hcd : c = d
  · subst hcd
    rw [mem_zip_bitsBelow hd]
    exact t.takeCore_begun ..
  · rw [State.takeCore_core_ne _ _ _ _ _ hcd]
    exact ht

theorem takeCores_contexts (s : State) (p x : Nat) (kd : BitVec 512) (l : List (Nat × Nat)) :
    (l.foldl (fun s k => s.takeCore p x kd k.1 k.2) s).contexts = s.contexts ∧
      (l.foldl (fun s k => s.takeCore p x kd k.1 k.2) s).parts = s.parts :=
  List.foldlRecOn (motive := fun t : State => t.contexts = s.contexts ∧ t.parts = s.parts) l _ ⟨rfl, rfl⟩ fun _ ht _ _ => ht

theorem State.startKernel_begun {c : Nat} (hc : c ∈ bitsBelow 48 (kdCores st.kd)) :
    ((s.startKernel p x st).core c).Begun ⟨p, x, st.kd, (bitsBelow c (kdCores st.kd)).length⟩ := by
  unfold State.startKernel
  extract_lets listed s₁ s₂
  exact (takeCores_begun hc s₁ p x).of_still ((Reads.foldl (fun s c => s.copyParams_reads c) listed s₂).core c)

theorem State.startKernel_context (s : State) (p x : Nat) (st : Start) : ((s.startKernel p x st).context p x).still =
    ({ s.context p x with state := .running, kernel := some { kd := st.kd, step := st.step, copying := kdCores st.kd } } : Context).still := by
  unfold State.startKernel
  extract_lets listed s₁ s₂
  have h₁ : s₁.context p x = _ := State.context_updContext ..
  have h₂ : s₂.context p x = s₁.context p x := State.context_congr (takeCores_contexts ..).1 p x
  rw [(Reads.foldl (fun s c => s.copyParams_reads c) listed s₂).context p x, h₂, h₁]

theorem State.startKernel_part (s : State) (p x : Nat) (st : Start) : ((s.startKernel p x st).part p).still = (s.part p).still := by
  unfold State.startKernel
  extract_lets listed s₁ s₂
  have h₂ : s₂.parts = s.parts := (takeCores_contexts ..).2
  rw [(Reads.foldl (fun s c => s.copyParams_reads c) listed s₂).part p]
  simp only [State.part, h₂]

end Start

/-! ## A kernel whose cores are taken back for its restore (R215, R221) -/

section Restore

variable {s : State} {p x c : Nat}

theorem State.takeForRestore_contexts (s : State) (p x c : Nat) : (s.takeForRestore p x c).contexts = s.contexts := rfl

theorem State.takeForRestore_core (s : State) (p x c : Nat) :
    (s.takeForRestore p x c).core c = { s.core c with run := (Table.get {} (s.context p x).savedCores c).run } := by
  unfold State.takeForRestore
  exact State.core_updCore ..

theorem State.takeForRestore_core_ne {d : Nat} (h : d ≠ c) : (s.takeForRestore p x c).core d = s.core d := by
  unfold State.takeForRestore
  exact State.core_updCore_ne _ _ h

theorem State.takeForRestore_lastUse (s : State) (p x c d : Nat) : ((s.takeForRestore p x c).core d).lastUse = (s.core d).lastUse := by
  by_cases h : d = c
  · subst h
    rw [State.takeForRestore_core]
  · rw [State.takeForRestore_core_ne h]

/-- Another context used the core last. -/
def State.usedByOther (s : State) (x c : Nat) : Bool := match (s.core c).lastUse with | .ctx y => y != x | _ => false

theorem State.takeForRestore_mem (s : State) (p x c : Nat) : (s.takeForRestore p x c).mem =
    if s.usedByOther x c then s.mem.scratchWrite c ((s.context p x).units * 0x4_0000)
      (List.replicate (0x80_0000 - (s.context p x).units * 0x4_0000) (some 0)) else s.mem := rfl

theorem State.usedByOther_congr {t : State} (h : (t.core c).lastUse = (s.core c).lastUse) (x : Nat) : t.usedByOther x c = s.usedByOther x c := by
  unfold State.usedByOther
  rw [h]

theorem State.usedByOther_of_ctx {y : Nat} (h : (s.core c).lastUse = .ctx y) (hy : y ≠ x) : s.usedByOther x c = true := by
  unfold State.usedByOther
  rw [h]
  exact bne_iff_ne.2 hy

theorem State.usedByOther_of_own (h : ∀ y, (s.core c).lastUse = .ctx y → y = x) : s.usedByOther x c = false := by
  unfold State.usedByOther
  split
  next y hy => rw [h y hy]; exact bne_self_eq_false x
  · rfl

theorem takeForRestore_foldl_frame (s : State) (p x : Nat) (l : List Nat) : (l.foldl (fun s c => s.takeForRestore p x c) s).contexts = s.contexts ∧
    (l.foldl (fun s c => s.takeForRestore p x c) s).out = s.out :=
  List.foldlRecOn (motive := fun t : State => t.contexts = s.contexts ∧ t.out = s.out) l _ ⟨rfl, rfl⟩ fun _ ht _ _ => ht

theorem takeForRestore_foldl_run {l : List Nat} (hc : c ∈ l) (s : State) (p x : Nat) :
    ((l.foldl (fun s c => s.takeForRestore p x c) s).core c).run = (Table.get {} (s.context p x).savedCores c).run := by
  have hrun {t : State} (ht : t.contexts = s.contexts) : ((t.takeForRestore p x c).core c).run = (Table.get {} (s.context p x).savedCores c).run := by
    rw [State.takeForRestore_core, State.context_congr ht]
  refine (foldl_reaches (P := fun t : State => t.contexts = s.contexts)
    (Q := fun t => t.contexts = s.contexts ∧ (t.core c).run = (Table.get {} (s.context p x).savedCores c).run)
    hc rfl (fun t d _ ht => (t.takeForRestore_contexts p x d).trans ht) (fun t ht => ⟨ht, hrun ht⟩) ?_).2
  rintro t d - ⟨ht, hr⟩
  refine ⟨ht, ?_⟩
  by_cases hcd : c = d
  · subst hcd
    exact hrun ht
  · rw [State.takeForRestore_core_ne hcd, hr]

/-- A scratch of a core that another context used is zero beyond the units of the image (R215). -/
theorem takeForRestore_foldl_scratch {l : List Nat} {off : Nat} (hc : c ∈ l) (hm : Memory.wf s.mem = true) (ho : s.usedByOther x c = true)
    (hlo : (s.context p x).units * 0x4_0000 ≤ off) (hoff : off < 0x80_0000) :
    (l.foldl (fun s c => s.takeForRestore p x c) s).mem.scratchRead c off 1 = [0] := by
  let P (t : State) : Prop := t.contexts = s.contexts ∧ Memory.wf t.mem = true ∧ (t.core c).lastUse = (s.core c).lastUse
  have hP (t : State) (d : Nat) (ht : P t) : P (t.takeForRestore p x d) := by
    obtain ⟨hx, hwf, hl⟩ := ht
    refine ⟨hx, ?_, (t.takeForRestore_lastUse ..).trans hl⟩
    rw [State.takeForRestore_mem]
    split
    · exact Memory.wf_scratchWrite _ _ _ hwf
    · exact hwf
  have hzero (t : State) (ht : P t) : (t.takeForRestore p x c).mem.scratchRead c off 1 = [0] := by
    obtain ⟨hx, hwf, hl⟩ := ht
    rw [State.takeForRestore_mem, if_pos ((State.usedByOther_congr hl x).trans ho), State.context_congr hx]
    exact MemSys.scratchRead_scratchWrite_replicate hwf hlo (by omega)
  refine (foldl_reaches (P := P) (Q := fun t => P t ∧ t.mem.scratchRead c off 1 = [0]) hc ⟨rfl, hm, rfl⟩ (fun t d _ ht => hP t d ht)
    (fun t ht => ⟨hP t c ht, hzero t ht⟩) ?_).2
  rintro t d - ⟨ht, hz⟩
  refine ⟨hP t d ht, ?_⟩
  by_cases hcd : c = d
  · subst hcd
    exact hzero t ht
  · rw [State.takeForRestore_mem]
    split
    · rw [MemSys.scratchRead_scratchWrite_ne _ _ _ _ hcd, hz]
    · exact hz

theorem takeForRestore_foldl_mem {l : List Nat} (h : ∀ c ∈ l, s.usedByOther x c = false) :
    (l.foldl (fun s c => s.takeForRestore p x c) s).mem = s.mem := by
  refine (List.foldlRecOn (motive := fun t : State => t.mem = s.mem ∧ ∀ c, (t.core c).lastUse = (s.core c).lastUse) l _ ⟨rfl, fun _ => rfl⟩ ?_).1
  rintro t ⟨hm, hl⟩ c hc
  refine ⟨?_, fun d => (t.takeForRestore_lastUse ..).trans (hl d)⟩
  rw [State.takeForRestore_mem, State.usedByOther_congr (hl c), h c hc]
  exact hm

end Restore

/-! ## The dispatch -/

section Dispatch

variable {s : State} {p x : Nat}

theorem exec_kernelDispatch_kernel {k : Kernel} (hl : s.isLive = true) (hd : s.drainHeld p = false) (hch : s.choose p = some x)
    (hk : (s.context p x).kernel = some k) : exec (.kernelDispatch p) s = .next (s.startRestore p x k) := by
  show execKernelDispatch p s = _
  unfold execKernelDispatch
  rw [hl, hd, if_neg (by decide), hch]
  dsimp only
  rw [hk]

/-- The state in which a start that the partition chose is no longer pending. -/
def State.starting (s : State) (p x : Nat) : State :=
  (s.updPart p (fun t => { t with lastCtx := x })).updContext p x (fun t => { t with pending := none })

theorem exec_kernelDispatch_start {st : Start} (hl : s.isLive = true) (hd : s.drainHeld p = false) (hch : s.choose p = some x)
    (hk : (s.context p x).kernel = none) (hst : (s.context p x).pending = some st) : exec (.kernelDispatch p) s =
      .next (if s.startOk p x st.kd then (s.starting p x).startKernel p x st else (s.starting p x).endStart p x st 0x0102) := by
  show execKernelDispatch p s = _
  unfold execKernelDispatch
  rw [hl, hd, if_neg (by decide), hch]
  dsimp only
  rw [hk, hst]
  rfl

theorem State.starting_context (s : State) (p x : Nat) : (s.starting p x).context p x = { s.context p x with pending := none } :=
  State.context_updContext ..

end Dispatch

end Sys2Proof.Machine

namespace Sys2Proof.Proofs

open Sys2Proof.Machine

/-- Settles O34: what a start writes on its cores and context, the reads of its parameters leave. -/
theorem kernelDispatchBeginsTheChosenKernel : Obligations.KernelDispatchBeginsTheChosenKernel := by
  unfold Obligations.KernelDispatchBeginsTheChosenKernel
  refine ⟨?_, ?_, ?_⟩
  · intro s p x st hl hd hch hk hst hok
    have hctx := ((s.starting p x).startKernel_context p x st).trans (by rw [State.starting_context])
    obtain ⟨k, hkernel, hstill⟩ := Option.map_eq_some_iff.1 (congrArg Context.kernel hctx :)
    have hpart := (s.starting p x).startKernel_part p x st
    refine ⟨_, (exec_kernelDispatch_start hl hd hch hk hst).trans (by rw [if_pos hok]), (congrArg Context.state hctx :),
      (congrArg Context.pending hctx :), ⟨k, hkernel, (congrArg Kernel.kd hstill :), (congrArg Kernel.step hstill :)⟩, ?_, ?_⟩
    · have hlast : ((s.starting p x).part p).lastCtx = x := congrArg Part.lastCtx (s.part_updPart p fun t => { t with lastCtx := x })
      exact (congrArg Part.lastCtx hpart :).trans hlast
    · intro c hc
      have hb := State.startKernel_begun (s := s.starting p x) (p := p) (x := x) hc
      exact ⟨hb.run, hb.fetch, hb.fetchDone, hb.mx, hb.vec, hb.dma, hb.seq, hb.acc, hb.kflags, hb.w0, hb.w1, hb.active, hb.streams,
        hb.credits, hb.epoch, hb.lastUse⟩
  · intro s p x k hl hd hch hk
    have hframe := takeForRestore_foldl_frame s p x (bitsBelow 48 (kdCores k.kd))
    have hctx : (s.startRestore p x k).context p x = { s.context p x with state := .restoring } := by
      rw [State.startRestore, State.context_updContext, State.context_congr hframe.1]
    refine ⟨_, exec_kernelDispatch_kernel hl hd hch hk, congrArg Context.state hctx, (congrArg Context.kernel hctx).trans hk,
      fun c hc => takeForRestore_foldl_run hc s p x, ?_, fun h => takeForRestore_foldl_mem fun c hc => State.usedByOther_of_own (h c hc), hframe.2⟩
    rintro c off hm hc ⟨y, hlast, hy⟩ hlo hoff
    exact takeForRestore_foldl_scratch hc hm (State.usedByOther_of_ctx hlast hy) hlo hoff
  · intro s p x st hl hd hch hk hst hstep hok
    have hctx : ((s.starting p x).endStart p x st 0x0102).context p x = _ :=
      (State.endStart_context 0x0102 hstep).trans (by rw [State.starting_context])
    exact ⟨_, (exec_kernelDispatch_start hl hd hch hk hst).trans (by rw [hok]; rfl), congrArg Context.pending hctx,
      (congrArg Context.kernel hctx :).trans hk, congrArg Context.kreport hctx, State.endStart_mem 0x0102 hstep⟩

end Sys2Proof.Proofs
end

section
/-! PROOFS. Saves and restores of a kernel (R211, R216 to R222). -/

namespace Sys2Proof.Machine

/-! ## A save at its boundary (R216, R219) -/

section Save

variable {s : State} {p x cycles status : Nat} {hold : Bool} {k : Kernel}

theorem Env.hostHolds_of_untracked {e : Env} (h : e.tracked = []) (line : Nat) : e.hostHolds line = false := by
  rw [Env.hostHolds, h]
  exact Bool.and_false _

theorem lineClosed_of_noRefresh {m : MemSys} (h : ∀ j, (m.stack j).refreshing = [] ∧ (m.stack j).retries = []) (e : Env) (a : Nat) :
    lineClosed e m a = false := by
  unfold lineClosed
  split
  next j off hplace => simp [Stack.closed, (h j).1, (h j).2, Table.get]
  · rfl

/-- The memory in which the images of a kernel's cores stand. -/
def State.savedMem (s : State) (p x : Nat) (k : Kernel) : MemSys :=
  let m := (s.imagesOf p x k).foldl (fun m l => saveLine (s.partEnv p) m l.1 l.2) s.mem
  { m with fresh := m.fresh + 1 }

/-- The state in which the images stand and the cores of the kernel are free. -/
def State.coresSaved (s : State) (p x : Nat) (k : Kernel) : State :=
  (bitsBelow 48 (kdCores k.kd)).foldl (fun s c => s.updCore c (fun k => k.ranFor x))
    ((s.withMem (s.savedMem p x k) 3).keepCounts p x (bitsBelow 48 (kdCores k.kd)) (s.withMem (s.savedMem p x k) 3).core)

/-- The state that a save leaves, before the partition begins what waited for its cores. -/
def State.kernelSaved (s : State) (p x cycles : Nat) (k : Kernel) (hold : Bool) (status : Nat) : State :=
  ((s.coresSaved p x k).updPart p (fun q => { q with saveSeq := (s.part p).saveSeq + 1 })).updContext p x (fun t => { t with
    state := if hold then .held else .saved, trigger := none, status := status, saves := satAdd 32 t.saves 1
    saveCycles := cycles % 2 ^ 32, savedCores := (bitsBelow 48 (kdCores k.kd)).map (fun c => (c, (s.core c).saved))
    kernel := some { k with savedAt := (s.part p).saveSeq } })

theorem exec_saveComplete (hk : (s.context p x).kernel = some k) (htrig : (s.context p x).trigger = some (hold, status))
    (hstate : (s.context p x).state = .saving) (hfault : k.fault = none) (hquiet : s.coresQuiet p (bitsBelow 48 (kdCores k.kd)) = true)
    (hstk : s.stkBusy p x = false)
    (hat : ∀ c ∈ bitsBelow 48 (kdCores k.kd), s.forwardsOn c = false ∧ ∀ q, q < 4 → (s.core c).atBoundary q = true) (hfilter : s.host.filter = [])
    (hdram : ∀ j, (s.mem.stack j).refreshing = [] ∧ (s.mem.stack j).retries = []) :
    exec (.saveComplete p x cycles) s = .next ((s.kernelSaved p x cycles k hold status).startPiecesIdle p) := by
  show execSaveComplete p x cycles s = _
  have hfwd : (bitsBelow 48 (kdCores k.kd)).any s.forwardsOn = false := by
    rw [List.any_eq_false]
    exact fun c hc => by simp [(hat c hc).1]
  have hall : (bitsBelow 48 (kdCores k.kd)).all (fun c => (List.range 4).all (s.core c).atBoundary) = true := by
    simp only [List.all_eq_true, List.mem_range]
    exact fun c hc => (hat c hc).2
  have hheld : (s.imagesOf p x k).filter (fun l => (s.partEnv p).hostHolds (l.1 / 64)) = [] :=
    List.filter_eq_nil_iff.2 fun l _ => by rw [Env.hostHolds_of_untracked hfilter]; exact Bool.false_ne_true
  have hclosed : (s.imagesOf p x k).any (fun l => lineClosed (s.partEnv p) s.mem l.1) = false := by
    rw [List.any_eq_false]
    exact fun l _ => by simp [lineClosed_of_noRefresh hdram]
  unfold execSaveComplete
  dsimp only
  rw [hk, htrig]
  dsimp only
  rw [if_neg (by simp only [hstate, hfault, hquiet, hstk, hfwd, hall]; decide), hheld, if_neg (by decide), hclosed, if_neg Bool.false_ne_true]
  rfl

theorem State.coresSaved_mem (s : State) (p x : Nat) (k : Kernel) : (s.coresSaved p x k).mem = s.savedMem p x k := by
  unfold State.coresSaved
  exact List.foldlRecOn (motive := fun t : State => t.mem = s.savedMem p x k) _ _ (s.withMem_frame _ 3).2.1 fun _ ht _ _ => ht

theorem State.coresSaved_context (s : State) (p x : Nat) (k : Kernel) :
    ∃ counts, (s.coresSaved p x k).context p x = { s.context p x with counts := counts } := by
  unfold State.coresSaved
  generalize hu : (s.withMem (s.savedMem p x k) 3).keepCounts p x (bitsBelow 48 (kdCores k.kd)) (s.withMem (s.savedMem p x k) 3).core = u
  have hfold : ((bitsBelow 48 (kdCores k.kd)).foldl (fun s c => s.updCore c (fun k => k.ranFor x)) u).contexts = u.contexts :=
    List.foldlRecOn (motive := fun t : State => t.contexts = u.contexts) _ _ rfl fun _ ht _ _ => ht
  rw [State.context_congr hfold, ← hu, State.keepCounts, State.context_updContext, State.context_congr (s.withMem_frame _ 3).1]
  exact ⟨_, rfl⟩

theorem State.kernelSaved_core (s : State) (p x cycles : Nat) (k : Kernel) (hold : Bool) (status c : Nat) :
    (s.kernelSaved p x cycles k hold status).core c = (s.coresSaved p x k).core c := by
  unfold State.kernelSaved
  generalize s.coresSaved p x k = u
  rfl

theorem OnlyPieces.run {s t : State} (h : OnlyPieces s t) (c : Nat) : (t.core c).run = (s.core c).run := (congrArg Core.run (h.2.2 c) :)

theorem State.coresSaved_run {c : Nat} (hc : c ∈ bitsBelow 48 (kdCores k.kd)) : ((s.coresSaved p x k).core c).run = none := by
  rw [State.coresSaved, State.core_foldl_listed (bitsBelow_nodup ..), if_pos hc]
  rfl

end Save

/-! ## A restore (R221) -/

section Restore

variable {s : State} {p x : Nat} {k : Kernel}

theorem readImages_keys (e : Env) (base : Nat → Nat) (units : Nat) (l : List Nat) : ∀ a : List (Nat × Image) × Wk,
    ((l.foldl (fun (a : List (Nat × Image) × Wk) c => (a.1 ++ [(c, (readImage e a.2 (base c) units).1)], (readImage e a.2 (base c) units).2)) a).1.map
      Prod.fst) = a.1.map Prod.fst ++ l := by
  induction l with
  | nil => exact fun a => (List.append_nil _).symm
  | cons c l ih =>
    intro a
    rw [List.foldl_cons, ih]
    simp

/-- The images of a kernel stand in the order of its cores, one of each. -/
theorem imagesRead_keys (s : State) (p x : Nat) (k : Kernel) : (imagesRead s p x k).1.map Prod.fst = bitsBelow 48 (kdCores k.kd) :=
  (readImages_keys (s.partEnv p) (s.context p x).imageAt (s.context p x).units _ ([], { mem := s.mem })).trans (List.nil_append _)

theorem imagesRead_inj {i j : Nat × Image} (hi : i ∈ (imagesRead s p x k).1) (hj : j ∈ (imagesRead s p x k).1) (h : i.1 = j.1) : i = j :=
  List.inj_on_of_nodup_map ((imagesRead_keys s p x k).symm ▸ bitsBelow_nodup ..) hi hj h

theorem State.restoreCore_core (s : State) (p x c kid : Nat) (i : Image) : (s.restoreCore p x c kid i).core c =
    (s.core c).resumed (Table.get {} (s.context p x).savedCores c) i x (s.accepts p 8) (s.accepts p 1)
      ((Table.get {} (s.context p x).savedCores c).run.map (fun r => { r with kd := withKid r.kd kid })) := by
  unfold State.restoreCore
  exact State.core_setCore ..

theorem State.restoreCore_core_ne {c d : Nat} (kid : Nat) (i : Image) (h : d ≠ c) : (s.restoreCore p x c kid i).core d = s.core d := by
  unfold State.restoreCore
  exact Table.get_set_ne _ _ _ h

theorem restoreCore_foldl_contexts (s : State) (p x kid : Nat) (l : List (Nat × Image)) :
    (l.foldl (fun s i => s.restoreCore p x i.1 kid i.2) s).contexts = s.contexts :=
  List.foldlRecOn (motive := fun t : State => t.contexts = s.contexts) l _ rfl fun _ ht _ _ => ht

/-- What a core holds of its image and its context once it is restored. -/
structure Core.Restored (k v : Core) (i : Image) (x kid : Nat) : Prop where
  lastUse : k.lastUse = .ctx x
  run : k.run = v.run.map (fun r => { r with kd := withKid r.kd kid })
  lockstep : k.spool.lockstep = false
  kflags : k.kflags = BitVec.ofNat 6 (fld i.hdr 127 96)

theorem Core.Restored.of_unmarked {k k' v : Core} {i : Image} {x kid : Nat} (h : k.Restored v i x kid) (hk : k'.unmarked = k.unmarked) :
    k'.Restored v i x kid where
  lastUse := (congrArg Core.lastUse hk :).trans h.lastUse
  run := (congrArg Core.run hk :).trans h.run
  lockstep := (congrArg (fun k => k.spool.lockstep) hk :).trans h.lockstep
  kflags := (congrArg Core.kflags hk :).trans h.kflags

theorem restoreCore_foldl_restored {l : List (Nat × Image)} {i : Nat × Image} (hi : i ∈ l) (hl : ∀ j ∈ l, i.1 = j.1 → i = j) (s : State)
    (p x kid : Nat) : ((l.foldl (fun s i => s.restoreCore p x i.1 kid i.2) s).core i.1).Restored
      (Table.get {} (s.context p x).savedCores i.1) i.2 x kid := by
  have hit (t : State) (ht : t.contexts = s.contexts) : ((t.restoreCore p x i.1 kid i.2).core i.1).Restored
      (Table.get {} (s.context p x).savedCores i.1) i.2 x kid := by
    rw [State.restoreCore_core, State.context_congr ht]
    exact ⟨rfl, rfl, rfl, rfl⟩
  have hkeep (t : State) (j : Nat × Image) (ht : t.contexts = s.contexts) : (t.restoreCore p x j.1 kid j.2).contexts = s.contexts := ht
  refine (foldl_reaches (P := fun t : State => t.contexts = s.contexts)
    (Q := fun t => t.contexts = s.contexts ∧ (t.core i.1).Restored (Table.get {} (s.context p x).savedCores i.1) i.2 x kid)
    hi rfl (fun t j _ ht => hkeep t j ht) (fun t ht => ⟨hkeep t i ht, hit t ht⟩) ?_).2
  rintro t j hj ⟨ht, hr⟩
  refine ⟨hkeep t j ht, ?_⟩
  by_cases hij : i.1 = j.1
  · rw [← hl j hj hij]
    exact hit t ht
  · rw [State.restoreCore_core_ne kid j.2 hij]
    exact hr

/-- The KID that a restored kernel has: the one of its first image. -/
def imageKid (s : State) (p x : Nat) (k : Kernel) : Nat := (((imagesRead s p x k).1.head?).map (fun i => fld i.2.hdr 95 64)).getD (kdKid k.kd)

theorem State.endReport_of_fault (s : State) (p x : Nat) (k : Kernel) (f : FaultInfo) (cycles : Nat) :
    s.endReport p x { k with fault := some f } cycles = mkReport f.status f.tag (kdKid k.kd) f.count f.queue f.core
      ((bitsBelow 48 (kdCores k.kd)).foldl (fun a c => a ||| ((s.dropPartial p x).coreOf p x c).kflags) 0) k.stalls cycles := rfl

/-- The state that a restore with good images leaves, before a save asked for meanwhile stops its queues. -/
def State.restored (s : State) (p x cycles : Nat) (k : Kernel) : State :=
  ((imagesRead s p x k).1.foldl (fun t i => t.restoreCore p x i.1 (imageKid s p x k) i.2) (s.takeWork (imagesRead s p x k).2)).updContext p x
    (fun t => { t with
      state := if t.trigger.isSome then .saving else .running, savedCores := [], restoreCycles := cycles % 2 ^ 32
      kernel := t.kernel.map (fun k' => { k' with kd := withKid k'.kd (imageKid s p x k) }) })

theorem State.restored_context (cycles : Nat) (hk : (s.context p x).kernel = some k) : (s.restored p x cycles k).context p x =
    { s.context p x with
      state := if (s.context p x).trigger.isSome then .saving else .running, savedCores := [], restoreCycles := cycles % 2 ^ 32
      kernel := some { k with kd := withKid k.kd (imageKid s p x k) } } := by
  rw [State.restored, State.context_updContext, State.context_congr (restoreCore_foldl_contexts ..), State.context_congr (State.takeWork_contexts ..),
    hk]
  rfl

theorem State.restored_core {i : Nat × Image} (cycles : Nat) (hi : i ∈ (imagesRead s p x k).1) :
    ((s.restored p x cycles k).core i.1).Restored (Table.get {} (s.context p x).savedCores i.1) i.2 x (imageKid s p x k) := by
  have h := restoreCore_foldl_restored hi (fun j hj => imagesRead_inj hi hj) (s.takeWork (imagesRead s p x k).2) p x (imageKid s p x k)
  rw [State.context_congr (State.takeWork_contexts ..)] at h
  exact h

/-- The state of a restored kernel's end: a save that was asked for meanwhile has stopped its queues. -/
def State.restoreEnd (s : State) (p x cycles : Nat) (k : Kernel) : State :=
  if (s.context p x).trigger.isSome then (s.restored p x cycles k).stopQueues k.kd else s.restored p x cycles k

theorem State.restoreEnd_frame (s : State) (p x cycles : Nat) (k : Kernel) :
    (s.restoreEnd p x cycles k).contexts = (s.restored p x cycles k).contexts ∧
      ∀ c, ((s.restoreEnd p x cycles k).core c).unmarked = ((s.restored p x cycles k).core c).unmarked := by
  unfold State.restoreEnd
  split
  · exact ⟨State.stopQueues_contexts .., (State.stopQueues_onlyStops ..).2⟩
  · exact ⟨rfl, fun _ => rfl⟩

/-- A restore that can read every header decides by the images: a bad header or a failing read ends the kernel, else it goes on. -/
theorem exec_restoreComplete {cycles : Nat} (hk : (s.context p x).kernel = some k) (hstate : (s.context p x).state = .restoring) (hfault : k.fault = none)
    (hwaits : ∀ c ∈ bitsBelow 48 (kdCores k.kd), s.headerWaits p x c = false) (hgood : (imagesRead s p x k).2.good = true) :
    exec (.restoreComplete p x cycles) s = .next
      (if (bitsBelow 48 (kdCores k.kd)).any (s.headerBad p x) then
        ((s.takeWork (imagesRead s p x k).2).kernelFault p x { status := 0x0102 }).finishKernel p x (s.takeWork (imagesRead s p x k).2).ownCycles
      else s.restoreEnd p x cycles k) := by
  show execRestoreComplete p x cycles s = _
  have hfind : (bitsBelow 48 (kdCores k.kd)).find? (s.headerWaits p x) = none := by
    rw [List.find?_eq_none]
    exact fun c hc => by simp [hwaits c hc]
  obtain ⟨hnone, hwait⟩ : (imagesRead s p x k).2.fault = none ∧ (imagesRead s p x k).2.wait = false := by
    simpa [Wk.good] using hgood
  unfold execRestoreComplete
  dsimp only
  rw [hk]
  dsimp only
  rw [if_neg (by simp only [hstate, hfault]; decide), hfind]
  dsimp only
  rw [if_neg (by simp [hwait]), hnone]
  cases (bitsBelow 48 (kdCores k.kd)).any (s.headerBad p x) with
  | true => rfl
  | false => rfl

end Restore

end Sys2Proof.Machine

namespace Sys2Proof.Proofs

open Sys2Proof.Machine

/-- Settles O39: the context and the cores are read off after the fold over the kernel's cores, each of which stands in it once. -/
theorem saveAndRestore : Obligations.SaveAndRestore := by
  unfold Obligations.SaveAndRestore
  refine ⟨?_, ?_, ?_⟩
  · intro s p x cycles status hold k hk htrig hstate hfault hquiet hstk hat hfilter hdram
    obtain ⟨hctxs, hmem, hwork⟩ := State.startPiecesIdle_onlyPieces (s.kernelSaved p x cycles k hold status) p
    obtain ⟨counts, hcounts⟩ := s.coresSaved_context p x k
    have hctx := State.context_congr hctxs p x
    rw [State.kernelSaved, State.context_updContext, show ((s.coresSaved p x k).updPart p _).context p x = _ from hcounts] at hctx
    refine ⟨_, exec_saveComplete hk htrig hstate hfault hquiet hstk hat hfilter hdram, ?_⟩
    refine ⟨congrArg Context.state hctx, congrArg Context.trigger hctx, congrArg Context.status hctx, congrArg Context.saves hctx,
      congrArg Context.saveCycles hctx, fun c hc => ?_, hmem.trans (s.coresSaved_mem p x k)⟩
    rw [OnlyPieces.run ⟨hctxs, hmem, hwork⟩, State.kernelSaved_core]
    exact State.coresSaved_run hc
  · intro s p x cycles k hk hstate hfault hwaits hgood hok
    have hbad : (bitsBelow 48 (kdCores k.kd)).any (s.headerBad p x) = false := by
      rw [List.any_eq_false]
      exact fun c hc => by simp [hok c hc]
    obtain ⟨hctxs, hcores⟩ := s.restoreEnd_frame p x cycles k
    have hctx := (State.context_congr hctxs p x).trans (State.restored_context cycles hk)
    have hexec := exec_restoreComplete (cycles := cycles) hk hstate hfault hwaits hgood
    rw [hbad, if_neg Bool.false_ne_true] at hexec
    refine ⟨s.restoreEnd p x cycles k, hexec, congrArg Context.kernel hctx, congrArg Context.state hctx, congrArg Context.restoreCycles hctx,
      fun i hi => ?_⟩
    have hi := (State.restored_core cycles hi).of_unmarked (hcores i.1)
    exact ⟨hi.lastUse, hi.run, hi.lockstep, hi.kflags⟩
  · rintro s p x cycles k hk hstate hfault hstep hwaits hgood ⟨c, hc, hbad⟩ harr
    have hany : (bitsBelow 48 (kdCores k.kd)).any (s.headerBad p x) = true := List.any_eq_true.2 ⟨c, hc, hbad⟩
    have htake : (s.takeWork (imagesRead s p x k).2).context p x = s.context p x := State.context_congr (State.takeWork_contexts ..) p x
    have hpart : ((s.takeWork (imagesRead s p x k).2).part p).arrivalsIn = (s.part p).arrivalsIn :=
      (congrArg Part.arrivalsIn ((s.takeWork_reads (imagesRead s p x k).2).part p) :)
    have hexec := exec_restoreComplete (cycles := cycles) hk hstate hfault hwaits hgood
    rw [hany, if_pos rfl] at hexec
    generalize s.takeWork (imagesRead s p x k).2 = u at htake hpart hexec
    generalize hu : u.kernelFault p x { status := 0x0102 } = u' at hexec
    have hctx : u'.context p x =
        { s.context p x with kernel := some { k with fault := some { status := 0x0102 } } } := by
      rw [← hu, State.kernelFault_context _ (htake ▸ hk) hfault, htake]
    have hend := State.finishKernel_ended u.ownCycles (congrArg Context.kernel hctx) hstep
      ((congrArg (fun v : State => (v.part p).arrivalsIn) hu.symm).trans (hpart.trans harr))
    obtain ⟨counts, hended⟩ := hend.context
    rw [hctx] at hended
    exact ⟨_, hexec, congrArg Context.kernel hended, congrArg Context.state hended, ⟨_, _, hend.kreport.trans (u'.endReport_of_fault ..)⟩,
      congrArg Context.kends hended⟩

end Sys2Proof.Proofs
end

section
/-! PROOFS. Start, supplies, reset and shutdown (R20, R393 to R402, R438, R440, R441). -/

namespace Sys2Proof.Machine

/-! ## Tables whose values change one by one -/

theorem Table.get_map {α β : Type} (f : α → β) (d : α) (t : Table α) (k : Nat) :
    Table.get (f d) (t.map (fun p => (p.1, f p.2))) k = f (Table.get d t k) := by
  induction t with
  | nil => rfl
  | cons p t ih =>
    obtain ⟨j, v⟩ := p
    simp only [List.map_cons, Table.get, ih]
    split <;> rfl

theorem MemSys.stack_setStack (m : MemSys) (j k : Nat) (st : Stack) : (m.setStack j st).stack k = if k = j then st else m.stack k := by
  unfold MemSys.stack
  exact Table.get_set {} m.stk j k st

theorem State.cold_stack (s : State) (ph : Phase) (k : Nat) : (s.cold ph).mem.stack k = (s.mem.stack k).cold :=
  Table.get_map Stack.cold {} s.mem.stk k

theorem State.stopDies_stack (s : State) (k : Nat) : s.stopDies.mem.stack k = (s.mem.stack k).stopped :=
  Table.get_map Stack.stopped {} s.mem.stk k

theorem State.stopDies_port (s : State) (q : Nat) : s.stopDies.port q = (s.port q).stopped := Table.get_map Port.stopped {} s.ports q

/-! ## Step 1 (R393, R399) -/

theorem State.beginStart_stack (s : State) (k : Nat) : s.beginStart.mem.stack k = (s.mem.stack k).cold := s.cold_stack (.done 1) k

theorem State.beginStart_begun (s : State) (h : s.start.railsOk = true) : StartBegun s s.beginStart where
  phase := ⟨rfl, rfl, rfl, rfl, rfl, h, rfl⟩
  held := rfl
  prevEnd := rfl
  nv := rfl
  empty := ⟨rfl, rfl, rfl, rfl, rfl, rfl, rfl, rfl, rfl⟩
  maps k := by rw [State.beginStart_stack]; exact ⟨rfl, rfl⟩
  kept := ⟨rfl, rfl⟩

theorem StartBegun.of_before {s u t : State} (h : StartBegun u t) (hstart : u.start.shdnDone = s.start.shdnDone ∧ u.start.shdnReqN = s.start.shdnReqN)
    (hnv : u.nv = s.nv) (hmem : u.mem = s.mem) (hkept : u.pending = s.pending ∧ u.out = s.out) : StartBegun s t where
  phase := hstart.1 ▸ h.phase
  held := hstart.2 ▸ h.held
  prevEnd := hnv ▸ h.prevEnd
  nv := hnv ▸ h.nv
  empty := h.empty
  maps k := hmem ▸ h.maps k
  kept := ⟨h.kept.1.trans hkept.1, h.kept.2.trans hkept.2⟩

theorem exec_coldStart {s : State} (h : s.start.phase = .held) (hr : s.start.railsOk = true) :
    exec .coldStart s = .next ({ s with jtag := { s.jtag with driving := [] } } : State).beginStart := by
  show execColdStart s = _
  unfold execColdStart
  rw [if_neg (not_not.2 h)]
  exact if_pos hr

/-! ## A stored write that power or reset cuts off (R33) -/

/-- What the loss of a stored write leaves alone. -/
structure FlashLost (s t : State) : Prop where
  start : t.start = s.start
  jtag : t.jtag = s.jtag
  lossLatch : t.nv.lossLatch = s.nv.lossLatch
  ledger : s.nv.cairn <+: t.nv.cairn
  applied : ∀ k, (t.mem.stack k).applied = (s.mem.stack k).applied
  kept : t.pending = s.pending ∧ t.out = s.out

theorem FlashLost.refl (s : State) : FlashLost s s := ⟨rfl, rfl, rfl, List.prefix_refl _, fun _ => rfl, rfl, rfl⟩

theorem FlashLost.trans {s t u : State} (h : FlashLost s t) (g : FlashLost t u) : FlashLost s u :=
  ⟨g.start.trans h.start, g.jtag.trans h.jtag, g.lossLatch.trans h.lossLatch, h.ledger.trans g.ledger, fun k => (g.applied k).trans (h.applied k),
    g.kept.1.trans h.kept.1, g.kept.2.trans h.kept.2⟩

theorem State.oldStored_flashLost (s : State) (key old : Nat) : FlashLost s (s.oldStored key old) := by
  have hnv (nv : NonVolatile) (hl : nv.lossLatch = s.nv.lossLatch) (hc : nv.cairn = s.nv.cairn) : FlashLost s { s with nv := nv } :=
    ⟨rfl, rfl, hl, hc ▸ List.prefix_refl _, fun _ => rfl, rfl, rfl⟩
  unfold State.oldStored
  split
  · exact hnv _ rfl rfl
  split
  · exact hnv _ rfl rfl
  split
  · exact hnv _ rfl rfl
  split
  · exact hnv _ rfl rfl
  · refine ⟨rfl, rfl, rfl, List.prefix_refl _, fun k => ?_, rfl, rfl⟩
    dsimp only
    rw [MemSys.stack_setStack]
    split
    next h => rw [h]
    · rfl

theorem State.sealBase_flashLost (s : State) : FlashLost s s.sealBase := ⟨rfl, rfl, rfl, List.prefix_refl _, fun _ => rfl, rfl, rfl⟩

theorem State.cairnVoid_flashLost (s : State) : FlashLost s s.cairnVoid := by
  unfold State.cairnVoid
  split
  · exact ⟨rfl, rfl, rfl, List.prefix_append .., fun _ => rfl, rfl, rfl⟩
  · exact .refl s

theorem State.loseFlash_flashLost (s : State) : FlashLost s s.loseFlash := by
  unfold State.loseFlash
  split
  · exact .refl s
  next w _ =>
    extract_lets s₁ s₂
    have h₁ : FlashLost s s₁ := by
      unfold s₁
      split
      · exact (s.oldStored_flashLost w.key w.old).trans (State.sealBase_flashLost _)
      · exact .refl s
    have h₂ : FlashLost s₁ s₂ := by
      unfold s₂
      split
      · exact s₁.cairnVoid_flashLost
      · exact .refl s₁
    have h₃ : FlashLost s₂ { s₂ with mem := { s₂.mem with fresh := s₂.mem.fresh + 1 }, dict := { s₂.dict with flash := none } } :=
      ⟨rfl, rfl, rfl, List.prefix_refl _, fun _ => rfl, rfl, rfl⟩
    exact (h₁.trans h₂).trans h₃

theorem State.loseFlash_of_none {s : State} (h : s.dict.flash = none) : s.loseFlash = s := by
  rw [State.loseFlash, h]

/-- A hold leaves of a state that lost its stored write what DiesHeld lists. -/
theorem FlashLost.diesHeld {s u t : State} (h : FlashLost s u) (hnv : t.nv.cairn = u.nv.cairn) (hmem : t.mem = u.mem)
    (hjtag : t.jtag.ir = u.jtag.ir) (hkept : t.pending = u.pending ∧ t.out = u.out) (hstart : t.start.perstN = u.start.perstN) (ph : Phase) :
    DiesHeld s (t.cold ph) where
  empty := ⟨rfl, rfl, rfl, rfl, rfl, rfl, rfl, rfl, rfl⟩
  pins := ⟨rfl, rfl, hstart.trans (congrArg Startup.perstN h.start)⟩
  ledger := hnv ▸ h.ledger
  maps k := by
    rw [State.cold_stack, hmem]
    exact h.applied k
  kept := ⟨hkept.1.trans h.kept.1, hkept.2.trans h.kept.2, hjtag.trans (congrArg Jtag.ir h.jtag)⟩

theorem DiesHeld.setStart {s t : State} (h : DiesHeld s t) {st : Startup}
    (hpins : st.startOk = t.start.startOk ∧ st.thermtripN = t.start.thermtripN ∧ st.perstN = t.start.perstN) : DiesHeld s { t with start := st } :=
  ⟨h.empty, ⟨hpins.1.trans h.pins.1, hpins.2.1.trans h.pins.2.1, hpins.2.2.trans h.pins.2.2⟩, h.ledger, h.maps, h.kept⟩

/-- The state in which a rail has left its range, before the dies are held. -/
def State.railLost (s : State) (rail : Nat) : State :=
  { s.loseFlash with
    nv := { s.loseFlash.nv.ends 2 with lossLatch := false }
    start := { s.start with railsOk := false, shdnDone := s.start.shdnDone && rail != 5 } }

theorem exec_railFault {s : State} {rail : Nat} (hruns : s.start.phase.runs = true) (hreset : s.start.resetN = true) :
    exec (.railFault ⟨rail, false⟩) s = .next { (s.railLost rail).cold .railLow with
      start := { ((s.railLost rail).cold .railLow).start with stoppedAt := true, cause := 1 } } := by
  have hexec : exec (.railFault ⟨rail, false⟩) s = execRailFault ⟨rail, false⟩ s := rfl
  unfold execRailFault at hexec
  dsimp only at hexec
  rw [if_neg Bool.false_ne_true, hruns, Bool.true_or, if_pos rfl, s.loseFlash_flashLost.start, hreset, if_pos rfl, if_pos rfl] at hexec
  rw [hexec]
  simp only [State.railLost, hreset]

theorem State.railLost_diesHeld (s : State) (rail : Nat) : DiesHeld s ((s.railLost rail).cold .railLow) :=
  s.loseFlash_flashLost.diesHeld (t := s.railLost rail) rfl rfl rfl ⟨rfl, rfl⟩ (congrArg Startup.perstN s.loseFlash_flashLost.start).symm .railLow

/-- The state in which RESET_N is low, before the dies are held. -/
def State.resetLow (s : State) : State :=
  { s.loseFlash with
    nv := s.loseFlash.nv.ends 5
    start := { s.loseFlash.start with resetN := false, shdnReqN := true, shdnDone := false }
    jtag := { s.loseFlash.jtag with driving := s.loseFlash.jtag.drivers } }

theorem exec_resetAssert {s : State} (hruns : s.start.phase.runs = true) (hreset : s.start.resetN = true) :
    exec .resetAssert s = .next (s.resetLow.cold .held) := by
  show execResetAssert s = _
  unfold execResetAssert
  dsimp only
  rw [hreset, if_neg (by decide), hruns, if_pos rfl]
  rfl

/-! ## Clocks (R20) -/

theorem State.stopDies_frame (s : State) : s.stopDies.nv = s.nv ∧ s.stopDies.start = s.start ∧ s.stopDies.out = s.out := ⟨rfl, rfl, rfl⟩

theorem State.cairn_frame (s : State) (type : Nat) (payload : List Byte) :
    (s.cairn type payload).start = s.start ∧ (s.cairn type payload).out = s.out ∧ (s.cairn type payload).mem = s.mem := by
  unfold State.cairn
  split <;> exact ⟨rfl, rfl, rfl⟩

theorem State.cairn_appends {s : State} (type : Nat) (payload : List Byte) (h : s.nv.cairn.length < cairnSlots) :
    ∃ r, (s.cairn type payload).nv.cairn = s.nv.cairn ++ [r] ∧ r.type = type ∧ r.payload = payload ∧ r.start = s.nv.starts := by
  unfold State.cairn
  rw [if_pos h]
  exact ⟨_, rfl, rfl, rfl, rfl⟩

theorem exec_pllLoss {s : State} {d : Nat} (hlive : s.start.phase = .live) (hd : d < 8) : exec (.pllLoss d) s = .next (s.pllLost d) := by
  show execPllLoss d s = _
  unfold execPllLoss
  rw [hlive]
  dsimp only
  rw [if_neg (by simp; omega), if_neg (by omega)]

theorem exec_pllLoss_controller {s : State} (hlive : s.start.phase = .live) (hflash : s.dict.flash = none) :
    exec (.pllLoss 8) s = .next ({ s with
      nv := { s.nv with prevEnd := 3, lossLatch := true, latchEnd := true }, start := { s.start with phase := .pllLost false } } : State).stopDies := by
  show execPllLoss 8 s = _
  unfold execPllLoss
  rw [hlive]
  dsimp only
  rw [if_neg (by decide), if_pos rfl, State.loseFlash_of_none hflash]

/-! ## Shutdown (R401, R402) -/

/-- Every kernel stops; nothing else of the part changes with it. -/
theorem stopKernels_frame (s : State) (f : FaultInfo) (l : Table Context) :
    { l.foldl (fun s c => s.kernelFault (c.1 / 64) (c.1 % 64) f) s with contexts := s.contexts } = s :=
  List.foldlRecOn (motive := fun t : State => { t with contexts := s.contexts } = s) l _ rfl fun _ ht _ _ => ht

/-- A context whose kernel has the fault `f`, or had one before. -/
def Context.faulted (t : Context) (f : FaultInfo) : Context :=
  { t with kernel := t.kernel.map (fun k => match k.fault with | some _ => k | none => { k with fault := some f }) }

theorem Context.faulted_faulted (t : Context) (f : FaultInfo) : (t.faulted f).faulted f = t.faulted f := by
  unfold Context.faulted
  cases t.kernel with
  | none => rfl
  | some k =>
    obtain h | ⟨g, h⟩ : k.fault = none ∨ ∃ g, k.fault = some g := by cases k.fault <;> simp
    · simp [h]
    · simp [h]

theorem Table.get_eq_default {α : Type} (d : α) {t : Table α} {k : Nat} (h : ∀ a ∈ t, a.1 ≠ k) : Table.get d t k = d := by
  induction t with
  | nil => rfl
  | cons a t ih => rw [Table.get, if_neg (h a (by simp)), ih fun a ha => h a (by simp [ha])]

theorem State.kernelFault_get (s : State) (p x : Nat) (f : FaultInfo) (k : Nat) : Table.get {} (s.kernelFault p x f).contexts k =
    if k = 64 * p + x then (Table.get {} s.contexts k : Context).faulted f else Table.get {} s.contexts k := by
  unfold State.kernelFault
  rw [State.updContext, State.setContext]
  refine (Table.get_set {} s.contexts (64 * p + x) k _).trans ?_
  split
  next h => rw [h]; rfl
  · rfl

theorem stopKernels_get {s : State} {f : FaultInfo} {k : Nat} {l : Table Context} (h : ∃ c ∈ l, c.1 = k) :
    Table.get {} (l.foldl (fun s c => s.kernelFault (c.1 / 64) (c.1 % 64) f) s).contexts k = (Table.get {} s.contexts k : Context).faulted f := by
  obtain ⟨c, hc, rfl⟩ := h
  have hat (t : State) (d : Nat × Context) : Table.get {} (t.kernelFault (d.1 / 64) (d.1 % 64) f).contexts c.1 =
      if c.1 = d.1 then (Table.get {} t.contexts c.1 : Context).faulted f else Table.get {} t.contexts c.1 := by
    rw [State.kernelFault_get]
    exact if_congr (by omega) rfl rfl
  refine foldl_reaches (P := fun t : State => Table.get {} t.contexts c.1 = Table.get {} s.contexts c.1 ∨
      Table.get {} t.contexts c.1 = (Table.get {} s.contexts c.1 : Context).faulted f)
    (Q := fun t => Table.get {} t.contexts c.1 = (Table.get {} s.contexts c.1 : Context).faulted f) hc (.inl rfl) ?_ ?_ ?_
  · rintro t d - (ht | ht)
    · rw [hat, ht]
      split
      · exact .inr rfl
      · exact .inl rfl
    · rw [hat, ht, Context.faulted_faulted]
      exact .inr (ite_self _)
  · rintro t (ht | ht)
    · rw [hat, ht, if_pos rfl]
    · rw [hat, ht, Context.faulted_faulted, if_pos rfl]
  · rintro t d - ht
    rw [hat, ht, Context.faulted_faulted, ite_self]

/-- A context that holds a kernel stands in the table of contexts. -/
theorem mem_contexts_of_kernel {s : State} {p x : Nat} {k : Kernel} (h : (s.context p x).kernel = some k) : ∃ c ∈ s.contexts, c.1 = 64 * p + x := by
  by_contra hno
  have hget : s.context p x = {} := Table.get_eq_default _ fun a ha he => hno ⟨a, ha, he⟩
  rw [hget] at h
  cases h

/-- The running part that takes no more work, before its kernels stop. -/
def State.stoppingWork (s : State) : State :=
  { s with start := { s.start with shdnReqN := false, phase := .stopping, startOk := false, shutdownHeld := false } }

theorem exec_orderlyShutdown {s : State} (h : s.start.phase = .live) : exec .orderlyShutdown s =
    .next (s.contexts.foldl (fun s c => s.kernelFault (c.1 / 64) (c.1 % 64) { status := 0x0304 }) s.stoppingWork) := by
  show execOrderlyShutdown s = _
  unfold execOrderlyShutdown
  dsimp only
  rw [h]
  rfl

theorem exec_shutdownDone {s : State} (h : s.start.phase = .stopping) :
    exec .shutdownDone s = .next ((s.flushStacks.commitInterval 4).stopDies).shutDone := by
  show execShutdownDone s = _
  rw [execShutdownDone, if_pos h]

theorem Port.stopped_state (q : Port) : q.stopped.state = .down ∨ q.stopped.state = .disabled := by
  unfold Port.stopped
  dsimp only
  split
  · exact .inl rfl
  · exact .inr rfl

/-! ### Buffered lines leave (R327) -/

@[simp] theorem Stack.store_wc (st : Stack) (line : Nat) (bs : List Byte) : (st.store line bs).wc = st.wc := rfl

@[simp] theorem Stack.poison_wc (st : Stack) (line : Nat) : (st.poison line).wc = st.wc := by
  unfold Stack.poison
  generalize cellRead _ _ _ _ = bs
  dsimp only
  exact st.store_wc line bs

@[simp] theorem Stack.install_wc (st : Stack) (line : Nat) (auto : Bool) : (st.install line auto).wc = st.wc := by
  unfold Stack.install
  split
  · rfl
  · dsimp only
    split <;> rfl

@[simp] theorem Stack.logCorrection_wc (st : Stack) (line symbol sector now : Nat) : (st.logCorrection line symbol sector now).wc = st.wc := by
  unfold Stack.logCorrection
  dsimp only
  split
  · rfl
  split
  · rfl
  split <;> rfl

@[simp] theorem Stack.correctSector_wc (st : Stack) (e : DieEnv) (line sec : Nat) (logs : Bool) : (st.correctSector e line sec logs).1.wc = st.wc := by
  unfold Stack.correctSector
  split
  · rfl
  · dsimp only
    split
    · exact Stack.logCorrection_wc ..
    · rfl

@[simp] theorem Stack.correct_wc (st : Stack) (e : DieEnv) (line : Nat) (logs : Bool) : (st.correct e line logs).wc = st.wc := by
  unfold Stack.correct
  dsimp only
  split <;> simp

theorem Stack.failChannel_wc (st : Stack) (c : Nat) : (st.failChannel c).wc.Sublist st.wc := by
  unfold Stack.failChannel
  split
  · exact .refl _
  · exact List.filter_sublist

theorem Stack.uncorrectable_wc (st : Stack) (line : Nat) : (st.uncorrectable line).wc.Sublist st.wc := by
  unfold Stack.uncorrectable
  have hpoison := st.poison_wc line
  generalize st.poison line = u at hpoison
  rw [← hpoison]
  dsimp only
  generalize (if st.ueLines.contains line = true then st.ueLines else line :: st.ueLines) = ue
  split
  · exact Stack.failChannel_wc ..
  · exact .refl _

theorem Stack.dramRead_wc (st : Stack) (e : DieEnv) (line : Nat) : (st.dramRead e line).1.wc.Sublist st.wc := by
  unfold Stack.dramRead
  split
  · exact .refl _
  split
  · exact .refl _
  split
  · split
    · exact st.uncorrectable_wc line
    · dsimp only
      rw [Stack.store_wc]
  dsimp only
  split
  · dsimp only
    exact (Stack.uncorrectable_wc ..).trans (by rw [Stack.correct_wc])
  split
  · dsimp only
    rw [Stack.store_wc, Stack.correct_wc]
  · dsimp only
    rw [Stack.correct_wc]

/-- A line that leaves its buffer is in it no longer, and no line enters. -/
theorem Stack.leave_wc (st : Stack) (e : DieEnv) (w : WcLine) : (st.leave e w).wc.Sublist (st.wc.filter (fun x => x.line != w.line)) := by
  unfold Stack.leave
  dsimp only
  generalize hu : ({ st with wc := st.wc.filter (fun x => x.line != w.line) } : Stack) = u
  have hwc : u.wc = st.wc.filter (fun x => x.line != w.line) := by rw [← hu]
  have hread := u.dramRead_wc e w.line
  rw [hwc] at hread
  split
  · rw [Stack.writeWhole, Stack.store_wc, apply_ite Stack.wc, Stack.install_wc, ite_self, hwc]
  · split
    · next heq =>
        rw [heq] at hread
        rw [Stack.store_wc]
        exact hread
    · next st' _ heq =>
        rw [heq] at hread
        dsimp only at hread
        rw [← st'.poison_wc w.line] at hread
        generalize st'.poison w.line = v at hread
        exact hread

theorem Stack.flushed_wc (e : DieEnv) (l : List WcLine) : ∀ st : Stack, let t := l.foldl (fun st w => if st.wc.contains w then st.leave e w else st) st
    t.wc.Sublist st.wc ∧ ∀ w ∈ l, w ∉ t.wc := by
  induction l with
  | nil => exact fun st => ⟨.refl _, fun w hw => nomatch hw⟩
  | cons a l ih =>
    intro st
    rw [List.foldl_cons]
    have hstep : (if st.wc.contains a then st.leave e a else st).wc.Sublist st.wc ∧ a ∉ (if st.wc.contains a then st.leave e a else st).wc := by
      split
      · refine ⟨(st.leave_wc e a).trans List.filter_sublist, fun ha => ?_⟩
        have hfilter := (List.mem_filter.1 ((st.leave_wc e a).subset ha)).2
        exact bne_self_eq_false a.line ▸ hfilter |> Bool.false_ne_true
      · next h => exact ⟨.refl _, fun ha => h (List.contains_iff_mem.2 ha)⟩
    obtain ⟨hsub, hgone⟩ := ih (if st.wc.contains a then st.leave e a else st)
    refine ⟨hsub.trans hstep.1, fun w hw => ?_⟩
    rcases List.mem_cons.1 hw with rfl | hw
    · exact fun h => hstep.2 (hsub.subset h)
    · exact hgone w hw

theorem Stack.flush_wc (st : Stack) (e : DieEnv) : (st.flush e).wc = [] := by
  obtain ⟨hsub, hgone⟩ := Stack.flushed_wc e st.wc st
  exact List.eq_nil_iff_forall_not_mem.2 fun w hw => hgone w (hsub.subset hw) hw

theorem State.flushStacks_wc (s : State) (k : Nat) : (s.flushStacks.mem.stack k).wc = [] := by
  rw [State.flushStacks, (s.withMem_frame _ 3).2.1]
  have hat (m : MemSys) (a : Nat × Stack) : (({ m.setStack a.1 (a.2.flush ⟨m.fresh, s.start.periods, s.threshold⟩) with
      fresh := m.fresh + 1 } : MemSys).stack k).wc = if k = a.1 then [] else (m.stack k).wc := by
    refine (congrArg Stack.wc (m.stack_setStack a.1 k _)).trans ?_
    rw [apply_ite Stack.wc, Stack.flush_wc]
  by_cases hk : ∃ a ∈ s.mem.stk, a.1 = k
  · obtain ⟨a, ha, rfl⟩ := hk
    refine foldl_reaches (P := fun _ => True) (Q := fun m : MemSys => (m.stack a.1).wc = []) ha trivial (fun _ _ _ _ => trivial)
      (fun m _ => (hat m a).trans (if_pos rfl)) fun m b _ hm => ?_
    rw [hat, hm, ite_self]
  · refine List.foldlRecOn (motive := fun m : MemSys => (m.stack k).wc = []) _ _ ?_ fun m hm b _ => ?_
    · rw [show s.mem.stack k = {} from Table.get_eq_default _ fun a ha he => hk ⟨a, ha, he⟩]
    · rw [hat, hm, ite_self]

/-- What the interval's commit changes: the ledger and the marks of the intervals. -/
theorem State.commitInterval_mem (s : State) (type : Nat) : (s.commitInterval type).mem = s.mem ∧ (s.commitInterval type).ports = s.ports := by
  unfold State.commitInterval State.cairn
  split <;> exact ⟨rfl, rfl⟩

theorem State.commitInterval_cairn {s : State} (type : Nat) (h : s.nv.cairn.length < cairnSlots) :
    ∃ r, (s.commitInterval type).nv.cairn = s.nv.cairn ++ [r] ∧ r.type = type := by
  unfold State.commitInterval State.cairn
  rw [if_pos h]
  exact ⟨_, rfl, rfl⟩

end Sys2Proof.Machine

namespace Sys2Proof.Proofs

open Sys2Proof.Machine

/-- Settles O6: step 1 is the cold state, and a stack of it keeps its map-outs. -/
theorem startBeginsWithNothingKept : Obligations.StartBeginsWithNothingKept := by
  unfold Obligations.StartBeginsWithNothingKept
  refine ⟨⟨?_, ?_, ?_⟩, ?_⟩
  · intro s h hr
    have hbegun := State.beginStart_begun { s with jtag := { s.jtag with driving := [] } } hr
    exact ⟨_, exec_coldStart h hr, rfl, hbegun.of_before ⟨rfl, rfl⟩ rfl rfl ⟨rfl, rfl⟩⟩
  · intro s h hr
    have hexec : exec .coldStart s = execColdStart s := rfl
    unfold execColdStart at hexec
    dsimp only at hexec
    rw [if_neg (not_not.2 h), hr, if_neg Bool.false_ne_true] at hexec
    exact ⟨_, hexec, rfl, rfl, rfl, rfl, rfl, rfl⟩
  · intro s h hr
    refine ⟨({ s with start := { s.start with railsOk := true } } : State).beginStart, ?_, rfl,
      (State.beginStart_begun _ rfl).of_before ⟨rfl, rfl⟩ rfl rfl ⟨rfl, rfl⟩⟩
    show execRailReturn s = _
    unfold execRailReturn
    rw [if_neg (by simp [hr])]
    exact congrArg Host.Outcome.next (if_pos h)
  · intro s h hr
    refine ⟨_, exec_coldStart h hr, fun k => ?_⟩
    rw [State.beginStart_stack]
    exact ⟨rfl, rfl, rfl, rfl, rfl, rfl, rfl, rfl, rfl, rfl, rfl, rfl, rfl, rfl, rfl, rfl, rfl⟩

/-- Settles O10: a hold keeps flash, pins and stored map-outs, and the stored write that it cuts off leaves the marks alone. -/
theorem railsResetAndPllLossHoldTheDies : Obligations.RailsResetAndPllLossHoldTheDies := by
  unfold Obligations.RailsResetAndPllLossHoldTheDies
  refine ⟨⟨fun _ _ => rfl, ?_, ?_⟩, ?_, ?_⟩
  · intro s rail hruns hreset
    exact ⟨_, exec_railFault hruns hreset, rfl, rfl, rfl, rfl, rfl, rfl, rfl, congrArg Jtag.driving s.loseFlash_flashLost.jtag,
      (s.railLost_diesHeld rail).setStart ⟨rfl, rfl, rfl⟩⟩
  · intro s hruns hreset
    have hlost := s.loseFlash_flashLost
    exact ⟨_, exec_resetAssert hruns hreset, rfl, rfl, (congrArg Startup.railsOk hlost.start :), rfl, hlost.lossLatch, rfl,
      congrArg Jtag.drivers hlost.jtag, hlost.diesHeld (t := s.resetLow) rfl rfl rfl ⟨rfl, rfl⟩ rfl .held⟩
  · intro s d hlive hd
    refine ⟨_, exec_pllLoss hlive hd, rfl, rfl, rfl, rfl, rfl, rfl, (s.cairn_frame ..).2.1, fun hfree => ?_⟩
    obtain ⟨r, hr, htype, hpayload, -⟩ := s.cairn_appends 0x0E [BitVec.ofNat 8 d] hfree
    exact ⟨r, hr, htype, hpayload⟩
  · intro s hlive hflash
    exact ⟨_, exec_pllLoss_controller hlive hflash, rfl, rfl, rfl, rfl, rfl⟩

/-- Settles O11: every kernel of the table of contexts stops, and every line of a buffer leaves. -/
theorem orderlyShutdown : Obligations.OrderlyShutdown := by
  unfold Obligations.OrderlyShutdown
  refine ⟨?_, ?_, ?_, ?_, State.flushStacks_wc⟩
  · intro s hlive
    have hframe := stopKernels_frame s.stoppingWork { status := 0x0304 } s.contexts
    have hstart := congrArg State.start hframe
    refine ⟨_, exec_orderlyShutdown hlive, (congrArg Startup.phase hstart :), (congrArg Startup.startOk hstart :), (congrArg Startup.shdnReqN hstart :),
      ?_, (congrArg State.mem hframe :), (congrArg State.cores hframe :), (congrArg State.pending hframe :), (congrArg State.out hframe :), ?_⟩
    · rw [State.isLive, (congrArg Startup.phase hstart :)]
      rfl
    · intro p x k hk hfault
      have hget : _ = (s.context p x).faulted { status := 0x0304 } :=
        stopKernels_get (s := s.stoppingWork) (f := { status := 0x0304 }) (mem_contexts_of_kernel hk)
      refine (congrArg Context.kernel hget :).trans ?_
      simp [Context.faulted, hk, hfault]
  · intro s n h
    show execOrderlyShutdown s = _
    unfold execOrderlyShutdown
    dsimp only
    rw [h]
  · intro s h
    refine ⟨({ s with start := { s.start with shdnReqN := false } } : State).shutDone, ?_, rfl, rfl, rfl⟩
    show execOrderlyShutdown s = _
    unfold execOrderlyShutdown
    dsimp only
    rw [h]
  · intro s h
    have hmem := s.flushStacks.commitInterval_mem 4
    generalize hw : s.flushStacks.commitInterval 4 = w at hmem
    refine ⟨_, (exec_shutdownDone h).trans (by rw [hw]), rfl, rfl, rfl, rfl, rfl, fun q => ?_, fun k => ?_, fun hfree => ?_⟩
    · rw [show w.stopDies.shutDone.port q = w.stopDies.port q from rfl, State.stopDies_port]
      exact Port.stopped_state _
    · rw [show w.stopDies.shutDone.mem.stack k = w.stopDies.mem.stack k from rfl, State.stopDies_stack, hmem.1]
      exact ⟨rfl, rfl⟩
    · obtain ⟨r, hr, htype⟩ := State.commitInterval_cairn 4 hfree
      rw [hw] at hr
      exact ⟨r, hr, htype⟩

end Sys2Proof.Proofs
end

section
/-! PROOFS. Stages 5 to 9 of a start (R337, R393, R396, R398). -/

namespace Sys2Proof.Machine

/-! ## A number from the places of its bits -/

theorem foldl_twoPow_lt (P : Nat → Bool) (n : Nat) : ((List.range n).filter P).foldl (fun a k => a + 2 ^ k) 0 < 2 ^ n := by
  induction n with
  | zero => exact Nat.one_pos
  | succ n ih =>
    rw [List.range_succ, List.filter_append, List.foldl_append, Nat.pow_succ]
    cases h : P n with
    | true => simp [h]; omega
    | false => simp [h]; omega

theorem testBit_foldl_twoPow (P : Nat → Bool) (n i : Nat) :
    (((List.range n).filter P).foldl (fun a k => a + 2 ^ k) 0).testBit i = (decide (i < n) && P i) := by
  induction n with
  | zero => simp
  | succ n ih =>
    have hlt := foldl_twoPow_lt P n
    have hnext := foldl_twoPow_lt P (n + 1)
    rw [List.range_succ, List.filter_append, List.foldl_append] at hnext ⊢
    generalize ((List.range n).filter P).foldl (fun a k => a + 2 ^ k) 0 = w at ih hlt hnext
    rcases Nat.lt_trichotomy i n with hi | rfl | hi
    · have h : (i < n + 1) = (i < n) := by simp [hi]; omega
      cases hn : P n with
      | true =>
        simp only [List.filter_cons, hn, if_true, List.filter_nil, List.foldl_cons, List.foldl_nil, h]
        rw [Nat.add_comm, Nat.testBit_two_pow_add_gt hi, ih]
      | false => simpa [List.filter_cons, hn, h] using ih
    · cases hn : P i with
      | true =>
        simp only [List.filter_cons, hn, if_true, List.filter_nil, List.foldl_cons, List.foldl_nil]
        rw [Nat.add_comm, Nat.testBit_two_pow_add_eq, ih]
        simp
      | false => simpa [List.filter_cons, hn] using ih
    · rw [Nat.testBit_lt_two_pow (Nat.lt_of_lt_of_le hnext (Nat.pow_le_pow_right (by decide) hi)), decide_eq_false (by omega), Bool.false_and]

theorem foldl_ite_eq_filter {α β : Type} (f : β → α → β) (P : α → Bool) (l : List α) (b : β) :
    l.foldl (fun a k => if P k then f a k else a) b = (l.filter P).foldl f b := (List.foldl_filter ..).symm

/-! ## Map-outs and lanes (R337, R398) -/

theorem foldl_setStack_stack (f : Nat → Stack → Stack) {l : List Nat} (hl : l.Nodup) (m : MemSys) (k : Nat) :
    (l.foldl (fun m k => m.setStack k (f k (m.stack k))) m).stack k = if k ∈ l then f k (m.stack k) else m.stack k := by
  induction l generalizing m with
  | nil => rfl
  | cons a l ih =>
    obtain ⟨ha, hl⟩ := List.nodup_cons.1 hl
    rw [List.foldl_cons, ih hl, MemSys.stack_setStack]
    by_cases hk : k = a
    · subst hk
      simp [ha]
    · simp [hk]

/-- The channels of a stack after the lanes of some channels have failed to train: `st` before, `l` the stack's channels in the list. -/
structure Stack.LanesFailed (st u : Stack) (l : List Nat) : Prop where
  applied : u.applied = st.applied
  down : u.down = st.down
  failed : ∀ c, u.failed.testBit c = (st.failed.testBit c || l.contains c)
  pending : ∀ c, u.pending.testBit c = (st.pending.testBit c || (l.contains c && !st.failed.testBit c))

theorem Stack.LanesFailed.refl (st : Stack) : st.LanesFailed st [] := ⟨rfl, rfl, by simp, by simp⟩

theorem Stack.LanesFailed.failChannel {st u : Stack} {l : List Nat} {c : Nat} (h : st.LanesFailed u l) (hc : st.applied.testBit c = false) :
    st.LanesFailed (u.failChannel c) (c :: l) := by
  unfold Stack.failChannel
  split
  next hf =>
    have hold : st.failed.testBit c = true ∨ c ∈ l := by
      have := h.failed c
      rw [hf] at this
      simpa using this.symm
    refine ⟨h.applied, h.down, fun d => ?_, fun d => ?_⟩
    · rw [h.failed]
      by_cases hd : d = c
      · subst hd
        rcases hold with ho | ho <;> simp [ho]
      · simp [hd]
    · rw [h.pending]
      by_cases hd : d = c
      · subst hd
        rcases hold with ho | ho <;> simp [ho]
      · simp [hd]
  next hf =>
    have hnew : st.failed.testBit c = false ∧ c ∉ l := by
      have := h.failed c
      rw [Bool.not_eq_true] at hf
      rw [hf] at this
      simpa using this.symm
    refine ⟨h.applied, h.down, fun d => ?_, fun d => ?_⟩
    · rw [Nat.testBit_or, h.failed, Nat.testBit_two_pow]
      by_cases hd : d = c
      · subst hd
        simp
      · simp [hd, Ne.symm hd]
    · rw [h.applied, hc, if_neg Bool.false_ne_true, Nat.testBit_or, h.pending, Nat.testBit_two_pow]
      by_cases hd : d = c
      · subst hd
        simp [hnew]
      · simp [hd, Ne.symm hd]

/-- Of a list of lanes, those of one stack fail there. -/
theorem foldl_failChannel_stack (k : Nat) (l : List (Nat × Nat)) : ∀ (m : MemSys) (l₀ : List Nat) (st : Stack),
    (∀ v ∈ l, v.1 = k → st.applied.testBit v.2 = false) → st.LanesFailed (m.stack k) l₀ →
    ∃ l₁, st.LanesFailed ((l.foldl (fun m v => m.setStack v.1 ((m.stack v.1).failChannel v.2)) m).stack k) l₁ ∧
      ∀ c, c ∈ l₁ ↔ c ∈ l₀ ∨ (k, c) ∈ l := by
  induction l with
  | nil => exact fun m l₀ st _ h => ⟨l₀, h, by simp⟩
  | cons v l ih =>
    intro m l₀ st happ h
    obtain ⟨j, c⟩ := v
    rw [List.foldl_cons]
    by_cases hj : j = k
    · subst hj
      have hstep : st.LanesFailed ((m.setStack j ((m.stack j).failChannel c)).stack j) (c :: l₀) := by
        rw [MemSys.stack_setStack, if_pos rfl]
        exact h.failChannel (happ (j, c) (by simp) rfl)
      obtain ⟨l₁, hl₁, hmem⟩ := ih _ _ st (fun v hv => happ v (by simp [hv])) hstep
      refine ⟨l₁, hl₁, fun d => (hmem d).trans ?_⟩
      simp only [List.mem_cons, Prod.mk.injEq, true_and]
      tauto
    · have hstep : st.LanesFailed ((m.setStack j ((m.stack j).failChannel c)).stack k) l₀ := by
        rw [MemSys.stack_setStack, if_neg (Ne.symm hj)]
        exact h
      obtain ⟨l₁, hl₁, hmem⟩ := ih _ _ st (fun v hv => happ v (by simp [hv])) hstep
      exact ⟨l₁, hl₁, fun d => (hmem d).trans (by simp [Ne.symm hj])⟩

/-! ## The records of a start (R396) -/

/-- `t` is `s` but for flash, and the ledger's records stay. -/
structure Recorded (s t : State) : Prop where
  state : { t with nv := s.nv } = s
  ledger : s.nv.cairn <+: t.nv.cairn

theorem Recorded.refl (s : State) : Recorded s s := ⟨rfl, List.prefix_refl _⟩

theorem Recorded.trans {s t u : State} (h : Recorded s t) (g : Recorded t u) : Recorded s u :=
  ⟨(congrArg (fun v : State => { v with nv := s.nv }) g.state).trans h.state, h.ledger.trans g.ledger⟩

theorem Recorded.setNv (s : State) {nv : NonVolatile} (h : nv.cairn = s.nv.cairn) : Recorded s { s with nv := nv } := ⟨rfl, h ▸ List.prefix_refl _⟩

/-- The marks that the records of a start clear. -/
def NonVolatile.marks (nv : NonVolatile) : Nat × Bool × Nat := (nv.failMarker, nv.lossLatch, nv.lastMode)

/-- `t` is `s` with more records. -/
structure RecordsOnly (s t : State) : Prop extends Recorded s t where
  marks : t.nv.marks = s.nv.marks

theorem RecordsOnly.refl (s : State) : RecordsOnly s s := ⟨.refl s, rfl⟩

theorem RecordsOnly.trans {s t u : State} (h : RecordsOnly s t) (g : RecordsOnly t u) : RecordsOnly s u :=
  ⟨h.toRecorded.trans g.toRecorded, g.marks.trans h.marks⟩

theorem State.cairn_recordsOnly (s : State) (type : Nat) (payload : List Byte) : RecordsOnly s (s.cairn type payload) := by
  unfold State.cairn
  split
  · exact ⟨⟨rfl, List.prefix_append ..⟩, rfl⟩
  · exact ⟨⟨rfl, List.prefix_refl _⟩, rfl⟩

theorem RecordsOnly.cairns {α : Type} (type : Nat) (payload : α → List Byte) (l : List α) (s : State) :
    RecordsOnly s (l.foldl (fun s v => s.cairn type (payload v)) s) :=
  List.foldlRecOn (motive := RecordsOnly s) l _ (.refl s) fun _ h _ _ => h.trans (State.cairn_recordsOnly ..)

theorem State.startRecords_recorded (s : State) : Recorded s s.startRecords ∧ s.startRecords.nv.marks = (0, false, s.start.mode) ∧
    (s.nv.cairn.length < cairnSlots → ∃ r l, s.startRecords.nv.cairn = s.nv.cairn ++ r :: l ∧ r.type = 2 ∧ r.start = s.nv.starts) := by
  unfold State.startRecords
  extract_lets t one status s₁ r₂ n₂ s₂ r₃ n₃ s₃ s₄ s₅ n₆ s₆ s₇ s₈ s₉
  have h₁ : RecordsOnly s s₁ := s.cairn_recordsOnly ..
  have h₂ : Recorded s₁ s₂ ∧ s₂.nv.failMarker = 0 := by
    unfold s₂
    split
    next hf => exact ⟨.refl s₁, hf⟩
    · exact ⟨(State.cairn_recordsOnly ..).toRecorded.trans (.setNv r₂ rfl), rfl⟩
  have h₃ : Recorded s₂ s₃ ∧ s₃.nv.failMarker = 0 ∧ s₃.nv.lossLatch = false := by
    have hr₃ : RecordsOnly s₂ r₃ := s₂.cairn_recordsOnly ..
    unfold s₃
    split
    · exact ⟨hr₃.toRecorded.trans (.setNv r₃ rfl), (congrArg Prod.fst hr₃.marks :).trans h₂.2, rfl⟩
    next hl => exact ⟨.refl s₂, h₂.2, Bool.not_eq_true _ ▸ hl⟩
  have h₄ : RecordsOnly s₃ s₄ := by
    unfold s₄
    split
    · exact s₃.cairn_recordsOnly ..
    · exact .refl s₃
  have h₅ : RecordsOnly s₄ s₅ := by
    unfold s₅
    split
    · exact s₄.cairn_recordsOnly ..
    · exact .refl s₄
  have h₆ : Recorded s₅ s₆ := .setNv s₅ rfl
  have h₇ : RecordsOnly s₆ (bitsBelow 4 t.partDown |>.foldl (fun s p => s.cairn 13 (leBytes 2 0 ++ one (2 ^ p))) s₉) :=
    (((RecordsOnly.cairns 11 (fun v => one v.1 ++ one v.2) t.mapped s₆).trans (.cairns 12 (fun v => one v.1 ++ one v.2 ++ one 2) t.lanesFailed s₇)).trans
      (.cairns 13 (fun k => leBytes 2 (2 ^ k) ++ one 0) (bitsBelow 16 t.stackDown) s₈)).trans
      (.cairns 13 (fun p => leBytes 2 0 ++ one (2 ^ p)) (bitsBelow 4 t.partDown) s₉)
  have h₁₇ : Recorded s₁ (bitsBelow 4 t.partDown |>.foldl (fun s p => s.cairn 13 (leBytes 2 0 ++ one (2 ^ p))) s₉) :=
    ((((h₂.1.trans h₃.1).trans h₄.toRecorded).trans h₅.toRecorded).trans h₆).trans h₇.toRecorded
  refine ⟨h₁.toRecorded.trans h₁₇, ?_, fun hfree => ?_⟩
  · have h₃₅ : s₅.nv.marks = s₃.nv.marks := h₅.marks.trans h₄.marks
    have hfail : s₅.nv.failMarker = 0 := (congrArg Prod.fst h₃₅ :).trans h₃.2.1
    have hloss : s₅.nv.lossLatch = false := (congrArg (fun m => m.2.1) h₃₅ :).trans h₃.2.2
    rw [h₇.marks]
    exact Prod.ext hfail (Prod.ext hloss rfl)
  · obtain ⟨r, hr, htype, -, hstart⟩ := s.cairn_appends 2 _ hfree
    obtain ⟨l, hl⟩ := h₁₇.ledger
    exact ⟨r, l, hl.symm.trans (by rw [show s₁.nv.cairn = _ from hr, List.append_assoc]; rfl), htype, hstart⟩

/-! ## The stages -/

section Stages

variable {s : State}

/-- A stack at stage 5: its pending map-outs are applied, and it is down where its link did not train. -/
def Stack.trained (st : Stack) (down : Bool) : Stack := { st.applyMaps with down := down }

/-- The stacks that stage 5 is told are down. -/
def stacksDown (down : Nat) : Nat := (bitsBelow 16 down).foldl (fun a k => a + 2 ^ k) 0

/-- The memory of stage 5 before lanes fail. -/
def State.mapsApplied (s : State) (down : Nat) : MemSys :=
  (List.range 16).foldl (fun m k => m.setStack k ((m.stack k).trained ((stacksDown down).testBit k))) s.mem

/-- The channels whose lanes stage 5 finds failing. -/
def State.failingLanes (s : State) (down : Nat) (lanes : List (Nat × Nat)) : List (Nat × Nat) :=
  lanes.dedup.filter (fun v => decide (v.1 < 16) && decide (v.2 < 32) && !(stacksDown down).testBit v.1 &&
    !((s.mapsApplied down).stack v.1).applied.testBit v.2)

/-- The state of stage 5 before the base image takes its hash. -/
def State.tethersTrained (s : State) (down : Nat) (lanes : List (Nat × Nat)) : State :=
  { s with
    mem := (s.failingLanes down lanes).foldl (fun m v => m.setStack v.1 ((m.stack v.1).failChannel v.2)) (s.mapsApplied down)
    start := { s.start with
      stackDown := stacksDown down, lanesFailed := s.failingLanes down lanes
      mapped := (List.range 16).flatMap (fun k => (bitsBelow 32 (s.mem.stack k).pending).map (fun c => (k, c))) } }

theorem exec_tetherTraining {down : Nat} {lanes : List (Nat × Nat)} (h : s.start.phase = .done 4) :
    exec (.tetherTraining down lanes) s = .next ((s.tethersTrained down lanes).sealBase.stageDone 5) := by
  show execTetherTraining down lanes s = _
  unfold execTetherTraining
  rw [if_neg (not_not.2 h)]
  rfl

theorem testBit_stacksDown {down k : Nat} (hk : k < 16) : (stacksDown down).testBit k = down.testBit k := by
  rw [stacksDown, bitsBelow, testBit_foldl_twoPow (fun i => down.testBit i), decide_eq_true hk, Bool.true_and]

theorem State.mapsApplied_stack {down k : Nat} (hk : k < 16) :
    (s.mapsApplied down).stack k = (s.mem.stack k).trained (down.testBit k) := by
  rw [State.mapsApplied, foldl_setStack_stack (fun k st => st.trained ((stacksDown down).testBit k)) List.nodup_range,
    if_pos (List.mem_range.2 hk), testBit_stacksDown hk]

theorem State.mem_failingLanes {down k c : Nat} {lanes : List (Nat × Nat)} (hk : k < 16) : (k, c) ∈ s.failingLanes down lanes ↔
    (k, c) ∈ lanes ∧ c < 32 ∧ down.testBit k = false ∧ ((s.mem.stack k).applied ||| (s.mem.stack k).pending).testBit c = false := by
  rw [State.failingLanes, List.mem_filter, List.mem_dedup, State.mapsApplied_stack hk, testBit_stacksDown hk]
  simp only [Bool.and_eq_true, decide_eq_true_eq, Bool.not_eq_true', hk, true_and, and_assoc]
  rfl

/-- The partitions that a failed spar link takes out of use. -/
def State.partsOut (s : State) (failed : Nat) : List Nat := ((bitsBelow 14 failed).filter (sparUsed s.mode)).flatMap (sparParts s.mode)

theorem State.mem_partsOut {failed p : Nat} : p ∈ s.partsOut failed ↔
    ∃ u, u < 14 ∧ failed.testBit u = true ∧ sparUsed s.mode u = true ∧ p ∈ sparParts s.mode u := by
  simp only [State.partsOut, List.mem_flatMap, List.mem_filter, bitsBelow, List.mem_range, and_assoc]

/-- The partitions out of use, as a number. -/
def State.partsDown (s : State) (failed : Nat) : Nat :=
  (List.range 4).foldl (fun a p => if (s.partsOut failed).contains p then a + 2 ^ p else a) 0

theorem State.testBit_partsDown {failed p : Nat} (hp : p < 4) : (s.partsDown failed).testBit p = (s.partsOut failed).contains p := by
  rw [State.partsDown, foldl_ite_eq_filter (fun a p => a + 2 ^ p), testBit_foldl_twoPow, decide_eq_true hp, Bool.true_and]

def Part.outOfUse (t : Part) : Part := { t with out := true }

/-- The state in which the partitions at failed spar links are out of use. -/
def State.sparsFailed (s : State) (failed : Nat) : State :=
  (bitsBelow 4 (s.partsDown failed)).foldl (fun s p => s.updPart p Part.outOfUse)
    { s with start := { s.start with partDown := s.partsDown failed } }

/-- The same, in which the CXL link begins to train. -/
def State.sparsTrained (s : State) (failed : Nat) : State :=
  if (s.sparsFailed failed).start.perstN then { s.sparsFailed failed with host := { (s.sparsFailed failed).host with link := .training } }
  else s.sparsFailed failed

theorem exec_sparTraining {failed : Nat} (h : s.start.phase = .done 5) :
    exec (.sparTraining failed) s = .next (((List.range 8).foldl (fun s q => s.portTrain q) (s.sparsTrained failed)).stageDone 8) := by
  show execSparTraining failed s = _
  unfold execSparTraining
  rw [if_neg (not_not.2 h)]
  rfl

theorem portTrain_foldl_frame (l : List Nat) (s : State) : { l.foldl (fun s q => s.portTrain q) s with ports := s.ports } = s :=
  List.foldlRecOn (motive := fun t : State => { t with ports := s.ports } = s) l _ rfl fun _ ht _ _ => ht

/-- A port that may train and is named trains, and keeps training. -/
theorem portTrain_foldl_training {l : List Nat} {q : Nat} (hq : q ∈ l) (hen : (s.port q).en = true) (hdown : (s.port q).state = .down) :
    ((l.foldl (fun s q => s.portTrain q) s).port q).state = .training := by
  have hne (t : State) {r : Nat} (h : q ≠ r) : (t.portTrain r).port q = t.port q := Table.get_set_ne _ _ _ h
  have hat (t : State) : (t.portTrain q).port q =
      if (t.port q).en && (t.port q).state == .down then { (t.port q).cleared with state := .training } else t.port q := State.port_updPort ..
  have hkeep (t : State) (ht : (t.port q).state = .training) : ((t.portTrain q).port q).state = .training := by
    rw [hat, ht, show (PortState.training == PortState.down) = false from rfl, Bool.and_false, if_neg Bool.false_ne_true]
    exact ht
  refine foldl_reaches (P := fun t : State => t.port q = s.port q ∨ (t.port q).state = .training) (Q := fun t => (t.port q).state = .training) hq (.inl rfl)
    ?_ ?_ ?_
  · rintro t r - (ht | ht)
    · by_cases h : q = r
      · subst h
        rw [hat, ht, hen, hdown]
        exact .inr rfl
      · exact .inl ((hne t h).trans ht)
    · by_cases h : q = r
      · subst h
        exact .inr (hkeep t ht)
      · exact .inr ((congrArg Port.state (hne t h)).trans ht)
  · rintro t (ht | ht)
    · rw [hat, ht, hen, hdown]
      rfl
    · exact hkeep t ht
  · rintro t r - ht
    by_cases h : q = r
    · subst h
      exact hkeep t ht
    · exact (congrArg Port.state (hne t h)).trans ht

theorem updParts_frame (f : Part → Part) (l : List Nat) (s : State) : { l.foldl (fun s p => s.updPart p f) s with parts := s.parts } = s :=
  List.foldlRecOn (motive := fun t : State => { t with parts := s.parts } = s) l _ rfl fun _ ht _ _ => ht

theorem updParts_out {l : List Nat} {p : Nat} (hp : p ∈ l) (s : State) : ((l.foldl (fun s p => s.updPart p Part.outOfUse) s).part p).out = true := by
  have hat (t : State) : ((t.updPart p Part.outOfUse).part p).out = true := congrArg Part.out (State.part_updPart ..)
  refine foldl_reaches (P := fun _ => True) (Q := fun t : State => (t.part p).out = true) hp trivial (fun _ _ _ _ => trivial)
    (fun t _ => hat t) fun t q _ ht => ?_
  by_cases h : p = q
  · subst h
    exact hat t
  · rw [State.part_updPart_ne _ _ h, ht]

theorem State.sparsTrained_frame (s : State) (failed : Nat) : (s.sparsTrained failed).start = { s.start with partDown := s.partsDown failed } ∧
    (s.sparsTrained failed).nv = s.nv ∧ (s.sparsTrained failed).mem = s.mem ∧ (s.sparsTrained failed).ports = s.ports ∧
    (s.sparsTrained failed).host.link = (if s.start.perstN then .training else s.host.link) ∧
    ∀ p ∈ bitsBelow 4 (s.partsDown failed), ((s.sparsTrained failed).part p).out = true := by
  have hu := updParts_frame Part.outOfUse (bitsBelow 4 (s.partsDown failed)) { s with start := { s.start with partDown := s.partsDown failed } }
  have hout : ∀ p ∈ bitsBelow 4 (s.partsDown failed), ((s.sparsFailed failed).part p).out = true := fun p hp => updParts_out hp _
  have hstart : (s.sparsFailed failed).start = { s.start with partDown := s.partsDown failed } := (congrArg State.start hu :)
  have hlink : (s.sparsFailed failed).host.link = s.host.link := (congrArg (fun v : State => v.host.link) hu :)
  have hnv : (s.sparsFailed failed).nv = s.nv := (congrArg State.nv hu :)
  have hmem : (s.sparsFailed failed).mem = s.mem := (congrArg State.mem hu :)
  have hports : (s.sparsFailed failed).ports = s.ports := (congrArg State.ports hu :)
  unfold State.sparsTrained
  generalize s.sparsFailed failed = u at hout hstart hlink hnv hmem hports
  have hperst : u.start.perstN = s.start.perstN := (congrArg Startup.perstN hstart :)
  rw [hperst]
  split
  · exact ⟨hstart, hnv, hmem, hports, rfl, hout⟩
  · exact ⟨hstart, hnv, hmem, hports, hlink, hout⟩

end Stages

end Sys2Proof.Machine

namespace Sys2Proof.Proofs

open Sys2Proof.Machine

/-- Settles O9: each lane that fails does so once, in its own stack, and the records of the start follow the one of TYPE 2. -/
theorem startTrainingToStartOk : Obligations.StartTrainingToStartOk := by
  unfold Obligations.StartTrainingToStartOk
  refine ⟨⟨?_, ?_⟩, ?_⟩
  · intro s down lanes h
    refine ⟨_, exec_tetherTraining h, rfl, rfl, rfl, rfl, rfl, fun k hk => ?_⟩
    have hstack := State.mapsApplied_stack (s := s) (down := down) hk
    have happ : ∀ v ∈ s.failingLanes down lanes, v.1 = k → ((s.mapsApplied down).stack k).applied.testBit v.2 = false := by
      rintro ⟨j, c⟩ hv rfl
      rw [hstack]
      exact ((State.mem_failingLanes hk).1 hv).2.2.2
    obtain ⟨l, hl, hmem⟩ := foldl_failChannel_stack k _ _ [] _ happ (.refl _)
    rw [hstack] at hl
    refine ⟨hl.applied, hl.down, fun c => ?_⟩
    have hin : c ∈ l ↔ (k, c) ∈ s.failingLanes down lanes := (hmem c).trans (by simp)
    refine (Bool.eq_iff_iff.1 (hl.pending c)).trans ?_
    rw [show ((s.mem.stack k).trained (down.testBit k)).pending = 0 from rfl,
      show ((s.mem.stack k).trained (down.testBit k)).failed = (s.mem.stack k).failed from rfl, Nat.zero_testBit, Bool.false_or,
      Bool.and_eq_true, List.contains_iff_mem, hin, State.mem_failingLanes hk, Bool.not_eq_true', and_assoc, and_assoc, and_assoc]
  · intro s failed h
    obtain ⟨hstart, hnv, hmem, hports, hlink, hout⟩ := s.sparsTrained_frame failed
    have hframe := portTrain_foldl_frame (List.range 8) (s.sparsTrained failed)
    have hdown : ((List.range 8).foldl (fun s q => s.portTrain q) (s.sparsTrained failed)).start.partDown = s.partsDown failed :=
      (congrArg (fun u : State => u.start.partDown) hframe :).trans (congrArg Startup.partDown hstart)
    refine ⟨_, exec_sparTraining h, rfl, rfl, (congrArg State.nv hframe :).trans hnv, (congrArg State.mem hframe :).trans hmem, fun p hp => ?_,
      fun p hp hbit => ?_, (congrArg (fun u : State => u.host.link) hframe :).trans hlink, fun q hq hen hst => ?_⟩
    · rw [← State.mem_partsOut, ← List.contains_iff_mem, ← State.testBit_partsDown hp, ← hdown]
      rfl
    · have hin : p ∈ bitsBelow 4 (s.partsDown failed) := List.mem_filter.2 ⟨List.mem_range.2 hp, hdown ▸ hbit⟩
      exact (congrArg (fun u : State => (u.part p).out) hframe :).trans (hout p hin)
    · have hport : (s.sparsTrained failed).port q = s.port q := by simp only [State.port, hports]
      exact portTrain_foldl_training (List.mem_range.2 hq) (hport ▸ hen) (hport ▸ hst)
  · intro s h hheld
    obtain ⟨hrec, hmarks, hledger⟩ := s.startRecords_recorded
    have hexec : exec .dictionaryLive s = execDictionaryLive s := rfl
    unfold execDictionaryLive at hexec
    dsimp only at hexec
    rw [if_neg (not_not.2 h), (congrArg (fun u : State => u.start.shutdownHeld) hrec.state :).trans hheld, if_neg Bool.false_ne_true] at hexec
    refine ⟨_, hexec, rfl, rfl, rfl, rfl, (congrArg Prod.fst hmarks :), (congrArg (fun m => m.2.1) hmarks :), (congrArg (fun m => m.2.2) hmarks :),
      hledger, (congrArg State.mem hrec.state :), (congrArg State.cores hrec.state :), (congrArg State.parts hrec.state :),
      (congrArg State.ports hrec.state :), (congrArg State.host hrec.state :), (congrArg State.pending hrec.state :), (congrArg State.out hrec.state :)⟩

end Sys2Proof.Proofs
end

section
/-! PROOFS. Stages 2 to 4 of a start: locks, firmware and the entries that the images give (R32 to R34, R395, R398). -/

namespace Sys2Proof.Machine

/-! ## The last value that a list of entries gives (R32) -/

theorem lastSet_append_one (key : Nat) (l : List (Nat × Nat)) (e : Nat × Nat) :
    lastSet key (l ++ [e]) = if e.1 = key then some e.2 else lastSet key l := by
  simp only [lastSet, List.reverse_append, List.reverse_singleton, List.singleton_append, List.find?_cons]
  by_cases h : e.1 = key
  · simp [h]
  · rw [beq_false_of_ne h, if_neg h]

theorem lastSet_append (key : Nat) (l m : List (Nat × Nat)) : lastSet key (l ++ m) = (lastSet key m).or (lastSet key l) := by
  simp only [lastSet, List.reverse_append, List.find?_append]
  cases m.reverse.find? (fun e => e.1 == key) <;> simp

theorem lastSet_filter (key : Nat) (P : Nat → Bool) (l : List (Nat × Nat)) :
    lastSet key (l.filter (fun e => P e.1)) = if P key then lastSet key l else none := by
  induction l using List.reverseRecOn with
  | nil => exact (ite_self _).symm
  | append_singleton l e ih =>
    rw [List.filter_append, lastSet_append_one]
    cases he : P e.1 with
    | true =>
      rw [show [e].filter (fun e => P e.1) = [e] by simp [he], lastSet_append_one, ih]
      by_cases h : e.1 = key
      · simp [h, ← h ▸ he]
      · simp [h]
    | false =>
      rw [show [e].filter (fun e => P e.1) = [] by simp [he], List.append_nil, ih]
      by_cases h : e.1 = key
      · simp [← h, he]
      · simp [h]

/-- What a walk over entries leaves of a value that only the entries of one key change. -/
theorem foldl_lastSet {β α : Type} {f : β → Nat × Nat → β} {Inv : β → Prop} {g : β → α} {F : Nat → α} {key : Nat}
    (hinv : ∀ b e, Inv b → Inv (f b e)) (hit : ∀ b v, Inv b → g (f b (key, v)) = F v) (miss : ∀ b e, e.1 ≠ key → g (f b e) = g b)
    (l : List (Nat × Nat)) {b : β} (hb : Inv b) : g (l.foldl f b) = ((lastSet key l).map F).getD (g b) := by
  induction l using List.reverseRecOn with
  | nil => rfl
  | append_singleton l e ih =>
    have hl : Inv (l.foldl f b) := List.foldlRecOn l f hb fun b h e _ => hinv b e h
    rw [List.foldl_append, List.foldl_cons, List.foldl_nil, lastSet_append_one]
    by_cases h : e.1 = key
    · obtain ⟨k, v⟩ := e
      subst h
      rw [hit _ v hl, if_pos rfl]
      rfl
    · rw [miss _ e h, ih, if_neg h]

/-- The entries of stage 4 in their order: the base image's but for the stored ones, then the overlay's. -/
def State.imageEntries (s : State) : List (Nat × Nat) := s.nv.base.entries.filter (fun v => !storedKey v.1) ++ s.overlay.entries

theorem State.lastSet_imageEntries (s : State) (key : Nat) : lastSet key s.imageEntries = s.given key := by
  rw [State.imageEntries, lastSet_append, lastSet_filter key (fun k => !storedKey k), State.given]
  cases lastSet key s.overlay.entries with
  | some v => rfl
  | none => cases storedKey key <;> rfl

/-! ## What one entry changes -/

section Default

variable {s : State} {key v p q k : Nat}

def routesOf (v : Nat) : Table Nat := ((List.range 8192).map (fun m => (m, fld v (16 * m + 15) (16 * m)))).filter (fun r => r.2 != 0)

def variantsOf (v : Nat) : Table Nat := ((List.range 256).map (fun m => (m, fld v (256 * m + 255) (256 * m)))).filter (fun r => r.2 != 0)

/-- Partition `p` after the entry `key` takes the default `v`. -/
def Part.default (t : Part) (p key v : Nat) : Part :=
  { t with
    test := if key = 0x1A0001 + p then { t.test with written := v } else t.test
    cal := if key = 0x1A1001 + p then { t.cal with written := v } else t.cal
    accept0 := if key = 0x110101 + p then v else t.accept0
    accept1 := if key = 0x110105 + p then v else t.accept1
    interleave := if key = 0x121001 + p then v else t.interleave
    tensorView := if key = 0x121101 + p then v else t.tensorView
    coupling := if key = 0x122001 + p then v else t.coupling
    routes := if key = 0x161019 + p then routesOf v else t.routes
    ropePorts := if key = 0x16101D + p then some v else t.ropePorts
    variants := if key = 0x181001 + p then variantsOf v else t.variants }

/-- A fabric port after the entry `key` takes the default `v`. -/
def Port.default (t : Port) (q key v : Nat) : Port :=
  if key = 0x161009 + q then { t with en := v.testBit 0, dateline := v.testBit 1, state := if v.testBit 0 then .down else .disabled } else t

/-- A stack after the entry `key` takes the default `v`. -/
def Stack.default (st : Stack) (k key v : Nat) : Stack :=
  if key = 0x153001 + k then
    { st with pending := ((bitsBelow 32 v).filter (fun c => !st.applied.testBit c)).foldl (fun a c => a + 2 ^ c) 0 }
  else st

theorem storedKey_iff : storedKey key = true ↔
    key = 0x120001 ∨ key = 0x131001 ∨ key = 0x160001 ∨ key = 0x160002 ∨ key / 256 = 0x1530 := by
  simp only [storedKey, Bool.or_eq_true, beq_iff_eq, or_assoc]

/-- The entries that a partition holds. -/
def partKey (key p : Nat) : Prop :=
  key = 0x1A0001 + p ∨ key = 0x1A1001 + p ∨ key = 0x110101 + p ∨ key = 0x110105 + p ∨ key = 0x121001 + p ∨ key = 0x121101 + p ∨
    key = 0x122001 + p ∨ key = 0x161019 + p ∨ key = 0x16101D + p ∨ key = 0x181001 + p

theorem Part.default_of_not_partKey (t : Part) (h : ¬ partKey key p) : t.default p key v = t := by
  simp only [partKey, not_or] at h
  simp only [Part.default, h, if_false]

theorem not_keys_of_dictHolds (h : dictHolds key = true) : (storedKey key = true → key = 0x160002) ∧ (∀ j, j < 4 → ¬ partKey key j) ∧
    (∀ q, q < 8 → key ≠ 0x161009 + q) := by
  simp only [dictHolds, Bool.and_eq_true, Bool.or_eq_true, Bool.not_eq_true', beq_iff_eq, List.all_cons, List.all_nil, decide_eq_true_eq] at h
  obtain ⟨hstored, hranges⟩ := h
  refine ⟨fun hs => hstored.resolve_left (by simp [hs]), fun j hj => ?_, fun q hq => by omega⟩
  unfold partKey
  omega

/-- A default goes to a stack, to nothing, to a partition, to a port or to the dictionary. -/
theorem State.applyDefault_elim {C : State → Prop}
    (maps : ∀ k, k < 16 → key = 0x153001 + k → C ({ s with mem := s.mem.setStack k ((s.mem.stack k).default k key v) } : State).sealBase)
    (stored : storedKey key = true → key ≠ 0x160002 → (∀ k, k < 16 → key ≠ 0x153001 + k) → C s)
    (part : ∀ j, j < 4 → partKey key j → C (s.updPart j (fun t => t.default j key v)))
    (port : ∀ q, q < 8 → key = 0x161009 + q → C (s.updPort q (fun t => t.default q key v)))
    (other : (∀ k, k < 16 → key ≠ 0x153001 + k) → (∀ j, j < 4 → ¬ partKey key j) → (∀ q, q < 8 → key ≠ 0x161009 + q) →
      C { s with dict := { s.dict with defaults := Table.set s.dict.defaults key v } }) :
    C (s.applyDefault key v) := by
  have hpart (j : Nat) (f : Part → Part) (hj : j < 4) (hk : partKey key j) (hf : f = fun t => t.default j key v) : C (s.updPart j f) :=
    hf ▸ part j hj hk
  unfold State.applyDefault
  refine iteInduction (motive := C) (fun h => ?_) fun h₁ => ?_
  · have hkey : key = 0x153001 + (key % 256 - 1) := by omega
    have hC := maps (key % 256 - 1) (by omega) hkey
    rw [Stack.default, if_pos hkey] at hC
    exact hC
  replace h₁ : ∀ k, k < 16 → key ≠ 0x153001 + k := fun k hk hkey => h₁ (by omega)
  refine iteInduction (motive := C) (fun h => ?_) fun _ => ?_
  · rw [Bool.and_eq_true, bne_iff_ne] at h
    exact stored h.1 h.2 h₁
  refine iteInduction (motive := C) (fun h => ?_) fun h₃ => ?_
  · refine hpart _ _ (by omega) (by unfold partKey; omega) (funext fun t => ?_)
    simp (disch := omega) only [Part.default, if_pos, if_neg]
  replace h₃ : ∀ j, j < 4 → key ≠ 0x1A0001 + j := fun j hj hk => h₃ (by omega)
  refine iteInduction (motive := C) (fun h => ?_) fun h₄ => ?_
  · refine hpart _ _ (by omega) (by unfold partKey; omega) (funext fun t => ?_)
    simp (disch := omega) only [Part.default, if_pos, if_neg]
  replace h₄ : ∀ j, j < 4 → key ≠ 0x1A1001 + j := fun j hj hk => h₄ (by omega)
  refine iteInduction (motive := C) (fun h => ?_) fun h₅ => ?_
  · refine hpart _ _ (by omega) (by unfold partKey; omega) (funext fun t => ?_)
    simp (disch := omega) only [Part.default, if_pos, if_neg]
  replace h₅ : ∀ j, j < 4 → key ≠ 0x110101 + j := fun j hj hk => h₅ (by omega)
  refine iteInduction (motive := C) (fun h => ?_) fun h₆ => ?_
  · refine hpart _ _ (by omega) (by unfold partKey; omega) (funext fun t => ?_)
    simp (disch := omega) only [Part.default, if_pos, if_neg]
  replace h₆ : ∀ j, j < 4 → key ≠ 0x110105 + j := fun j hj hk => h₆ (by omega)
  refine iteInduction (motive := C) (fun h => ?_) fun h₇ => ?_
  · refine hpart _ _ (by omega) (by unfold partKey; omega) (funext fun t => ?_)
    simp (disch := omega) only [Part.default, if_pos, if_neg]
  replace h₇ : ∀ j, j < 4 → key ≠ 0x121001 + j := fun j hj hk => h₇ (by omega)
  refine iteInduction (motive := C) (fun h => ?_) fun h₈ => ?_
  · refine hpart _ _ (by omega) (by unfold partKey; omega) (funext fun t => ?_)
    simp (disch := omega) only [Part.default, if_pos, if_neg]
  replace h₈ : ∀ j, j < 4 → key ≠ 0x121101 + j := fun j hj hk => h₈ (by omega)
  refine iteInduction (motive := C) (fun h => ?_) fun h₉ => ?_
  · refine hpart _ _ (by omega) (by unfold partKey; omega) (funext fun t => ?_)
    simp (disch := omega) only [Part.default, if_pos, if_neg]
  replace h₉ : ∀ j, j < 4 → key ≠ 0x122001 + j := fun j hj hk => h₉ (by omega)
  refine iteInduction (motive := C) (fun h => ?_) fun h₁₀ => ?_
  · have hkey : key = 0x161009 + (key % 256 - 9) := by omega
    have hC := port (key % 256 - 9) (by omega) hkey
    simp only [Port.default, if_pos hkey] at hC
    exact hC
  replace h₁₀ : ∀ q, q < 8 → key ≠ 0x161009 + q := fun q hq hk => h₁₀ (by omega)
  refine iteInduction (motive := C) (fun h => ?_) fun h₁₁ => ?_
  · refine hpart _ _ (by omega) (by unfold partKey; omega) (funext fun t => ?_)
    simp (disch := omega) only [Part.default, if_pos, if_neg]
    rfl
  replace h₁₁ : ∀ j, j < 4 → key ≠ 0x161019 + j := fun j hj hk => h₁₁ (by omega)
  refine iteInduction (motive := C) (fun h => ?_) fun h₁₂ => ?_
  · refine hpart _ _ (by omega) (by unfold partKey; omega) (funext fun t => ?_)
    simp (disch := omega) only [Part.default, if_pos, if_neg]
  replace h₁₂ : ∀ j, j < 4 → key ≠ 0x16101D + j := fun j hj hk => h₁₂ (by omega)
  refine iteInduction (motive := C) (fun h => ?_) fun h₁₃ => ?_
  · refine hpart _ _ (by omega) (by unfold partKey; omega) (funext fun t => ?_)
    simp (disch := omega) only [Part.default, if_pos, if_neg]
    rfl
  replace h₁₃ : ∀ j, j < 4 → key ≠ 0x181001 + j := fun j hj hk => h₁₃ (by omega)
  refine other h₁ (fun j hj hkey => ?_) h₁₀
  rcases hkey with hk | hk | hk | hk | hk | hk | hk | hk | hk | hk
  · exact h₃ j hj hk
  · exact h₄ j hj hk
  · exact h₅ j hj hk
  · exact h₆ j hj hk
  · exact h₇ j hj hk
  · exact h₈ j hj hk
  · exact h₉ j hj hk
  · exact h₁₁ j hj hk
  · exact h₁₂ j hj hk
  · exact h₁₃ j hj hk

theorem State.applyDefault_part (hp : p < 4) : (s.applyDefault key v).part p = (s.part p).default p key v := by
  have hself (h : ¬ partKey key p) : s.part p = (s.part p).default p key v := ((s.part p).default_of_not_partKey h).symm
  refine State.applyDefault_elim (C := fun t => t.part p = (s.part p).default p key v) ?_ ?_ ?_ ?_ ?_
  · exact fun k hk hkey => hself (by unfold partKey; omega)
  · intro hs _ _
    rw [storedKey_iff] at hs
    exact hself (by unfold partKey; omega)
  · intro j hj hkey
    by_cases h : p = j
    · rw [h, State.part_updPart]
    · rw [State.part_updPart_ne _ _ h]
      exact hself (by unfold partKey at *; omega)
  · exact fun q hq hkey => hself (by unfold partKey; omega)
  · exact fun _ hno _ => hself (hno p hp)

theorem State.applyDefault_port (hq : q < 8) : (s.applyDefault key v).port q = (s.port q).default q key v := by
  have hself (h : key ≠ 0x161009 + q) : s.port q = (s.port q).default q key v := by rw [Port.default, if_neg h]
  refine State.applyDefault_elim (C := fun t => t.port q = (s.port q).default q key v) ?_ ?_ ?_ ?_ ?_
  · exact fun k hk hkey => hself (by omega)
  · intro hs _ _
    rw [storedKey_iff] at hs
    exact hself (by omega)
  · intro j hj hkey
    exact hself (by unfold partKey at hkey; omega)
  · intro r hr hkey
    by_cases h : q = r
    · rw [h, State.port_updPort]
    · rw [State.port_updPort_ne _ _ h]
      exact hself (by omega)
  · exact fun _ _ hno => hself (hno q hq)

theorem State.applyDefault_stack (hk : k < 16) : (s.applyDefault key v).mem.stack k = (s.mem.stack k).default k key v := by
  have hself (h : key ≠ 0x153001 + k) : s.mem.stack k = (s.mem.stack k).default k key v := by rw [Stack.default, if_neg h]
  refine State.applyDefault_elim (C := fun t => t.mem.stack k = (s.mem.stack k).default k key v) ?_ ?_ ?_ ?_ ?_
  · intro j hj hkey
    refine (s.mem.stack_setStack j k _).trans ?_
    split
    next h => rw [h]
    next h => exact hself (by omega)
  · exact fun _ _ hno => hself (hno k hk)
  · intro j hj hkey
    exact hself (by unfold partKey at hkey; omega)
  · exact fun r hr hkey => hself (by omega)
  · exact fun hno _ _ => hself (hno k hk)

/-- The dictionary keeps the defaults of entries that it holds, and no default changes another one. -/
theorem State.applyDefault_default {key' : Nat} (d : Nat) (hh : dictHolds key' = true) : Table.get d (s.applyDefault key v).dict.defaults key' =
    if key = key' then v else Table.get d s.dict.defaults key' := by
  obtain ⟨hstored, hparts, hports⟩ := not_keys_of_dictHolds hh
  have hself (h : key ≠ key') : Table.get d s.dict.defaults key' = if key = key' then v else Table.get d s.dict.defaults key' := by rw [if_neg h]
  refine State.applyDefault_elim (C := fun t => Table.get d t.dict.defaults key' = if key = key' then v else Table.get d s.dict.defaults key') ?_ ?_ ?_ ?_ ?_
  · rintro k hk hkey
    refine hself ?_
    rintro rfl
    have := hstored (storedKey_iff.2 (by omega))
    omega
  · rintro hs hrole -
    refine hself ?_
    rintro rfl
    exact hrole (hstored hs)
  · rintro j hj hkey
    refine hself ?_
    rintro rfl
    exact hparts j hj hkey
  · rintro r hr hkey
    refine hself ?_
    rintro rfl
    exact hports r hr hkey
  · rintro - - -
    refine (Table.get_set d s.dict.defaults key key' v).trans ?_
    exact if_congr eq_comm rfl rfl

/-- What no default changes. -/
structure DefaultsOnly (s t : State) : Prop where
  start : t.start = s.start
  nv : { t.nv with base := s.nv.base } = s.nv
  base : t.nv.base.entries = s.nv.base.entries ∧ t.nv.base.bytes = s.nv.base.bytes
  vals : t.dict.vals = s.dict.vals
  rest : t.cores = s.cores ∧ t.engines = s.engines ∧ t.contexts = s.contexts ∧ t.host = s.host ∧ t.pending = s.pending ∧ t.out = s.out
  applied : ∀ k, (t.mem.stack k).applied = (s.mem.stack k).applied

theorem DefaultsOnly.refl (s : State) : DefaultsOnly s s := ⟨rfl, rfl, ⟨rfl, rfl⟩, rfl, ⟨rfl, rfl, rfl, rfl, rfl, rfl⟩, fun _ => rfl⟩

theorem State.applyDefault_defaultsOnly (s : State) (key v : Nat) : DefaultsOnly s (s.applyDefault key v) := by
  refine State.applyDefault_elim (C := DefaultsOnly s) ?_ ?_ ?_ ?_ ?_
  · intro k hk hkey
    refine ⟨rfl, rfl, ⟨rfl, rfl⟩, rfl, ⟨rfl, rfl, rfl, rfl, rfl, rfl⟩, fun j => ?_⟩
    refine (congrArg Stack.applied (s.mem.stack_setStack k j _)).trans ?_
    split
    next h => rw [Stack.default, if_pos hkey, h]
    · rfl
  · exact fun _ _ _ => .refl s
  · exact fun _ _ _ => ⟨rfl, rfl, ⟨rfl, rfl⟩, rfl, ⟨rfl, rfl, rfl, rfl, rfl, rfl⟩, fun _ => rfl⟩
  · exact fun _ _ _ => ⟨rfl, rfl, ⟨rfl, rfl⟩, rfl, ⟨rfl, rfl, rfl, rfl, rfl, rfl⟩, fun _ => rfl⟩
  · exact fun _ _ _ => ⟨rfl, rfl, ⟨rfl, rfl⟩, rfl, ⟨rfl, rfl, rfl, rfl, rfl, rfl⟩, fun _ => rfl⟩

theorem DefaultsOnly.trans {t u : State} (h : DefaultsOnly s t) (g : DefaultsOnly t u) : DefaultsOnly s u where
  start := g.start.trans h.start
  nv := (congrArg (fun nv : NonVolatile => { nv with base := s.nv.base }) g.nv).trans h.nv
  base := ⟨g.base.1.trans h.base.1, g.base.2.trans h.base.2⟩
  vals := g.vals.trans h.vals
  rest := by
    obtain ⟨g₁, g₂, g₃, g₄, g₅, g₆⟩ := g.rest
    obtain ⟨h₁, h₂, h₃, h₄, h₅, h₆⟩ := h.rest
    exact ⟨g₁.trans h₁, g₂.trans h₂, g₃.trans h₃, g₄.trans h₄, g₅.trans h₅, g₆.trans h₆⟩
  applied k := (g.applied k).trans (h.applied k)

end Default

/-! ## The entries of stage 4 -/

section Images

variable {s : State} {p : Nat}

def State.applyEntries (s : State) (l : List (Nat × Nat)) : State := l.foldl (fun s e => s.applyDefault e.1 e.2) s

theorem State.applyEntries_defaultsOnly (s : State) (l : List (Nat × Nat)) : DefaultsOnly s (s.applyEntries l) :=
  List.foldlRecOn (motive := DefaultsOnly s) l _ (.refl s) fun t h e _ => h.trans (t.applyDefault_defaultsOnly e.1 e.2)

/-- A word of a partition takes the last value that the entries give its key. -/
theorem applyEntries_word {α : Type} {key : Nat} (hp : p < 4) (g : Part → α) (F : Nat → α)
    (hg : ∀ (t : Part) (k v : Nat), g (t.default p k v) = if k = key then F v else g t) (l : List (Nat × Nat)) :
    g ((s.applyEntries l).part p) = ((lastSet key l).map F).getD (g (s.part p)) :=
  foldl_lastSet (Inv := fun _ => True) (g := fun u : State => g (u.part p)) (fun _ _ _ => trivial)
    (fun u v _ => by dsimp only; rw [State.applyDefault_part hp, hg, if_pos rfl])
    (fun u e he => by rw [State.applyDefault_part hp, hg, if_neg he]) l trivial

theorem applyEntries_port {α : Type} {q : Nat} (hq : q < 8) (g : Port → α) (F : Nat → α)
    (hg : ∀ (t : Port) (k v : Nat), g (t.default q k v) = if k = 0x161009 + q then F v else g t) (l : List (Nat × Nat)) :
    g ((s.applyEntries l).port q) = ((lastSet (0x161009 + q) l).map F).getD (g (s.port q)) :=
  foldl_lastSet (Inv := fun _ => True) (g := fun u : State => g (u.port q)) (fun _ _ _ => trivial)
    (fun u v _ => by dsimp only; rw [State.applyDefault_port hq, hg, if_pos rfl])
    (fun u e he => by rw [State.applyDefault_port hq, hg, if_neg he]) l trivial

theorem applyEntries_pending {k c : Nat} (hk : k < 16) (hc : c < 32) (l : List (Nat × Nat)) :
    ((s.applyEntries l).mem.stack k).pending.testBit c =
      ((lastSet (0x153001 + k) l).map (fun v => v.testBit c && !(s.mem.stack k).applied.testBit c)).getD ((s.mem.stack k).pending.testBit c) := by
  refine foldl_lastSet (Inv := fun u : State => (u.mem.stack k).applied = (s.mem.stack k).applied) (g := fun u : State => (u.mem.stack k).pending.testBit c)
    (fun u e hu => ((u.applyDefault_defaultsOnly e.1 e.2).applied k).trans hu) (fun u v hu => ?_) (fun u e he => ?_) l rfl
  · dsimp only
    rw [State.applyDefault_stack hk, Stack.default, if_pos rfl, bitsBelow, List.filter_filter, hu]
    rw [testBit_foldl_twoPow, decide_eq_true hc, Bool.true_and, Bool.and_comm]
  · rw [State.applyDefault_stack hk, Stack.default, if_neg he]

theorem applyEntries_default {key : Nat} (d : Nat) (hkey : dictHolds key = true) (l : List (Nat × Nat)) :
    Table.get d (s.applyEntries l).dict.defaults key = ((lastSet key l).map id).getD (Table.get d s.dict.defaults key) :=
  foldl_lastSet (Inv := fun _ => True) (g := fun u : State => Table.get d u.dict.defaults key) (fun _ _ _ => trivial)
    (fun u v _ => by dsimp only; rw [State.applyDefault_default d hkey, if_pos rfl]; rfl)
    (fun u e he => by rw [State.applyDefault_default d hkey, if_neg he]) l trivial

/-! ### Tables that an image gives whole -/

theorem Table.get_append {α : Type} (d : α) (t u : Table α) (k : Nat) : Table.get d (t ++ u) k = Table.get (Table.get d u k) t k := by
  induction t with
  | nil => rfl
  | cons a t ih => rw [List.cons_append, Table.get, Table.get, ih]

theorem Table.get_filter_map_range (f : Nat → Nat) (n k d : Nat) :
    Table.get d (((List.range n).map (fun m => (m, f m))).filter (fun r => r.2 != 0)) k = if k < n ∧ f k ≠ 0 then f k else d := by
  induction n generalizing d with
  | zero => rfl
  | succ n ih =>
    rw [List.range_succ, List.map_append, List.filter_append, Table.get_append, ih]
    by_cases hk : k < n
    · by_cases hf : f k = 0
      · have hne : n ≠ k := by omega
        by_cases hn : f n = 0 <;> simp [hf, hn, Table.get, hne]
      · rw [if_pos ⟨hk, hf⟩, if_pos ⟨by omega, hf⟩]
    · rw [if_neg (by omega)]
      by_cases hkn : n = k
      · subst hkn
        by_cases hf : f n = 0 <;> simp [hf, Table.get]
      · rw [if_neg (by omega)]
        by_cases hn : f n = 0 <;> simp [hn, Table.get, hkn]

theorem get_routesOf {v m : Nat} (hm : m < 8192) : Table.get 0 (routesOf v) m = fld v (16 * m + 15) (16 * m) := by
  refine (Table.get_filter_map_range (fun m => fld v (16 * m + 15) (16 * m)) 8192 m 0).trans ?_
  split
  · rfl
  next h => exact (not_not.1 (not_and.1 h hm)).symm

theorem get_variantsOf {v m : Nat} (hm : m < 256) : Table.get 0 (variantsOf v) m = fld v (256 * m + 255) (256 * m) := by
  refine (Table.get_filter_map_range (fun m => fld v (256 * m + 255) (256 * m)) 256 m 0).trans ?_
  split
  · rfl
  next h => exact (not_not.1 (not_and.1 h hm)).symm

/-! ### The stages -/

/-- The state of stage 4 in which every entry has its default. -/
def State.configured (s : State) : State :=
  ({ s with start := { s.start with mode := s.nv.mode, imageHash := sha256 (s.baseBytes ++ s.overlay.bytes) } } : State).applyEntries s.imageEntries

theorem exec_configImageApply (h : s.start.phase = .done 3) (hb : sha256 s.baseBytes = s.nv.base.hash) (ho : sha256 s.overlay.bytes = s.overlay.hash) :
    exec .configImageApply s = .next (s.configured.stageDone 4) := by
  show execConfigImageApply s = _
  have hok : s.imagesOk = true := by
    rw [State.imagesOk, hb, ho, beq_self_eq_true, beq_self_eq_true]
    rfl
  unfold execConfigImageApply
  rw [if_neg (not_not.2 h), if_pos hok]
  rfl

theorem State.configured_defaultsOnly (s : State) : DefaultsOnly
    { s with start := { s.start with mode := s.nv.mode, imageHash := sha256 (s.baseBytes ++ s.overlay.bytes) } } s.configured :=
  State.applyEntries_defaultsOnly ..

/-- What a map over an option answers, as the statement writes it. -/
theorem getD_map_id {α : Type} (o : Option α) (a : α) : (o.map id).getD a = o.getD a := by cases o <;> rfl

theorem State.configured_takes (s : State) : TakesDefaults s s.configured where
  words p hp := by
    have word (key : Nat) (g : Part → Nat) (hg : ∀ (t : Part) (k v : Nat), g (t.default p k v) = if k = key then v else g t) :
        g (s.configured.part p) = (s.given key).getD (g (s.part p)) := by
      rw [← s.lastSet_imageEntries, ← getD_map_id]
      exact applyEntries_word hp g id hg s.imageEntries
    refine ⟨word _ Part.accept0 fun _ _ _ => rfl, word _ Part.accept1 fun _ _ _ => rfl, word _ Part.interleave fun _ _ _ => rfl,
      word _ Part.tensorView fun _ _ _ => rfl, word _ Part.coupling fun _ _ _ => rfl, word _ (fun t => t.test.written) fun t k v => ?_,
      word _ (fun t => t.cal.written) fun t k v => ?_, ?_⟩
    · exact apply_ite TestUnit.written ..
    · exact apply_ite TestUnit.written ..
    · rw [← s.lastSet_imageEntries]
      refine (applyEntries_word hp Part.ropePorts some (fun _ _ _ => rfl) s.imageEntries).trans ?_
      cases lastSet (0x16101D + p) s.imageEntries <;> rfl
  routes p m hp hm := by
    rw [← s.lastSet_imageEntries]
    refine (applyEntries_word hp (fun t => Table.get 0 t.routes m) (fun v => fld v (16 * m + 15) (16 * m)) (key := 0x161019 + p) (fun t k v => ?_) s.imageEntries).trans ?_
    · rw [← get_routesOf hm]
      exact apply_ite (fun r : Table Nat => Table.get 0 r m) ..
    · cases lastSet (0x161019 + p) s.imageEntries <;> rfl
  variants p m hp hm := by
    rw [← s.lastSet_imageEntries]
    refine (applyEntries_word hp (fun t => Table.get 0 t.variants m) (fun v => fld v (256 * m + 255) (256 * m)) (key := 0x181001 + p) (fun t k v => ?_) s.imageEntries).trans ?_
    · rw [← get_variantsOf hm]
      exact apply_ite (fun r : Table Nat => Table.get 0 r m) ..
    · cases lastSet (0x181001 + p) s.imageEntries <;> rfl
  ports q hq := by
    rw [← s.lastSet_imageEntries]
    refine ⟨applyEntries_port hq Port.en (fun v => v.testBit 0) (fun t k v => ?_) s.imageEntries,
      applyEntries_port hq Port.dateline (fun v => v.testBit 1) (fun t k v => ?_) s.imageEntries,
      (applyEntries_port hq Port.state (fun v => if v.testBit 0 then .down else .disabled) (fun t k v => ?_) s.imageEntries).trans ?_⟩
    · exact apply_ite Port.en ..
    · exact apply_ite Port.dateline ..
    · exact apply_ite Port.state ..
    · cases lastSet (0x161009 + q) s.imageEntries <;> rfl
  maps k c hk hc := by
    refine ⟨s.configured_defaultsOnly.applied k, ?_⟩
    rw [← s.lastSet_imageEntries]
    refine (applyEntries_pending hk hc s.imageEntries).trans ?_
    cases lastSet (0x153001 + k) s.imageEntries <;> rfl
  others key d hkey := by
    rw [← s.lastSet_imageEntries, ← getD_map_id]
    exact applyEntries_default d hkey s.imageEntries
  kept := s.configured_defaultsOnly.vals

/-- A start that stops, whether a shutdown was held or not (R398, R402). -/
theorem State.stopStart_stopped {u : State} (n : Nat) (h : u.start.shdnDone = s.start.shdnDone ∧ u.start.startOk = s.start.startOk ∧
    u.start.stage = s.start.stage ∧ u.start.shutdownHeld = s.start.shutdownHeld) : StartStopped s (u.stopStart n) n := by
  obtain ⟨hdone, hok, hstage, hheld⟩ := h
  unfold State.stopStart
  extract_lets held u'
  have hv : held = s.start.shutdownHeld := hheld
  rw [hv]
  cases hs : s.start.shutdownHeld with
  | true => exact ⟨rfl, rfl, hstage, fun h => Bool.noConfusion (hs.symm.trans h), fun _ => ⟨rfl, rfl⟩⟩
  | false => exact ⟨rfl, rfl, hstage, fun _ => ⟨rfl, hdone, hok⟩, fun h => Bool.noConfusion (hs.symm.trans h)⟩

theorem State.stopStart_failMarker (s : State) (n : Nat) : (s.stopStart n).nv.failMarker = s.nv.failMarker := by
  unfold State.stopStart
  dsimp only
  split <;> rfl

end Images

end Sys2Proof.Machine

namespace Sys2Proof.Proofs

open Sys2Proof.Machine

/-- Settles O8: of a list of entries the last one of a key stands, and no entry reaches what another key names. -/
theorem startStagesToConfiguration : Obligations.StartStagesToConfiguration := by
  unfold Obligations.StartStagesToConfiguration
  refine ⟨⟨?_, ?_, ?_, ?_⟩, ?_, ?_, ?_, ?_⟩
  · intro s h
    exact if_pos h
  · intro s h hok
    show execFirmwareBoot s = _
    unfold execFirmwareBoot State.bootFirmware
    rw [if_pos h]
    dsimp only
    rw [if_pos hok]
    rfl
  · intro s h hbad hok
    show execFirmwareBoot s = _
    unfold execFirmwareBoot State.bootFirmware
    rw [if_pos h]
    dsimp only
    rw [if_neg (by rw [hbad]; decide), if_pos hok]
    rfl
  · intro s h hb ho
    have honly := s.configured_defaultsOnly
    obtain ⟨hcores, hengines, hcontexts, hhost, hpending, hout⟩ := honly.rest
    have htakes := s.configured_takes
    refine ⟨_, exec_configImageApply h hb ho, rfl, rfl, (congrArg Startup.mode honly.start :), (congrArg Startup.imageHash honly.start :),
      ⟨htakes.words, htakes.routes, htakes.variants, htakes.ports, htakes.maps, htakes.others, htakes.kept⟩, honly.nv, honly.base.1, honly.base.2,
      hcores, hengines, hcontexts, hhost, hpending, hout⟩
  · intro s index sub dflt hsub hkey h hb ho hdefaults hvals
    refine ⟨_, exec_configImageApply h hb ho, ?_⟩
    have hget := s.configured_takes.others _ dflt hkey
    have hkept := s.configured_takes.kept
    have hval : s.configured.dictVal index sub dflt = Table.get dflt s.configured.dict.defaults (256 * index + sub) := by
      rw [State.dictVal, hkept, hvals, Table.get]
    rw [hdefaults] at hget
    exact hval.trans hget
  · exact fun s h => ⟨_, if_pos h, s.stopStart_stopped 2 ⟨rfl, rfl, rfl, rfl⟩⟩
  · intro s h hbad hbad'
    have hexec : exec .firmwareBoot s =
        .next (({ s with nv := { s.nv with failMarker := 3 }, start := { s.start with fwFallback := true } } : State).stopStart 3) := by
      show execFirmwareBoot s = _
      unfold execFirmwareBoot State.bootFirmware
      rw [if_pos h]
      dsimp only
      rw [if_neg (by rw [hbad]; decide), if_neg (by rw [hbad']; decide)]
    refine ⟨_, hexec, State.stopStart_stopped 3 ⟨rfl, rfl, rfl, rfl⟩, ?_⟩
    exact State.stopStart_failMarker ..
  · intro s h hbad
    have hok : s.imagesOk = false := by
      rw [State.imagesOk, Bool.and_eq_false_iff]
      exact hbad.imp beq_false_of_ne beq_false_of_ne
    have hexec : exec .configImageApply s = execConfigImageApply s := rfl
    unfold execConfigImageApply at hexec
    rw [if_neg (not_not.2 h), hok, if_neg Bool.false_ne_true] at hexec
    refine ⟨_, hexec, State.stopStart_stopped 4 ?_⟩
    have hframe := (s.cairn_frame (Config.freeChoice s.mem.fresh 34 % 2 ^ 16) ((List.range 168).map (Config.freeByte s.mem.fresh))).1
    dsimp only
    rw [hframe]
    exact ⟨rfl, rfl, rfl, rfl⟩

end Sys2Proof.Proofs
end

section
/-! PROOFS. Ports in training, requests of the rings, windows of class A, and DOE discovery (R283, R305, R345, R407, R426). -/

namespace Sys2Proof.Machine

/-! ## Ports in training (R305) -/

theorem Table.set_set {α : Type} (t : Table α) (k : Nat) (v w : α) : Table.set (Table.set t k v) k w = Table.set t k w := by
  induction t with
  | nil => simp [Table.set]
  | cons a t ih =>
    obtain ⟨j, u⟩ := a
    simp only [Table.set]
    by_cases hlt : j < k
    · simp only [if_pos hlt, Table.set, ih]
    · by_cases heq : j = k
      · simp [heq, Table.set]
      · simp [hlt, heq, Table.set]

section Ports

variable {s t : State} {q : Nat}

theorem State.setPort_setPort (s : State) (q : Nat) (v w : Port) : (s.setPort q v).setPort q w = s.setPort q w := by
  simp only [State.setPort, Table.set_set]

/-- Where no partition has lost a unit of a DRAINED request, none is freed (R391). -/
theorem State.freedFrom_same (h : ∀ p, t.drainHeld p = s.drainHeld p) : t.freedFrom s = t := by
  unfold State.freedFrom
  refine foldl_fixed fun p _ => ?_
  rw [h, Bool.and_not_self, if_neg Bool.false_ne_true]

theorem State.drainHeld_setPort (s : State) (q : Nat) (v : Port) (p : Nat) : (s.setPort q v).drainHeld p = s.drainHeld p := rfl

theorem State.losePortTests_of_noRequest (h : NoPortRequest s q) : s.losePortTests q = s := by
  unfold State.losePortTests
  dsimp only
  rw [h.1, h.2]
  rfl

/-- A port that leaves training without a request for it only changes its state. -/
theorem State.portStays_of_noRequest (h : NoPortRequest s q) (next : PortState) : s.portStays q next = s.setPort q { s.port q with state := next } := by
  unfold State.portStays
  dsimp only
  split
  · exact State.losePortTests_of_noRequest (s := s.setPort q { s.port q with state := next }) h
  · rfl

theorem State.portStays_down_of_noRequest {v : Port} (h : NoPortRequest s q) :
    ((s.setPort q v).portStays q .down).freedFrom s = s.setPort q { v with state := .down } := by
  rw [State.portStays_of_noRequest (s := s.setPort q v) h, State.port_setPort, State.setPort_setPort]
  exact State.freedFrom_same (s.drainHeld_setPort q _)

/-- A port that leaves training for DOWN ends the requests that wait or run for it (R392). -/
theorem State.portStays_down_of_training (h : (s.port q).state = .training) :
    s.portStays q .down = (s.setPort q { s.port q with state := .down }).losePortTests q := by
  unfold State.portStays
  dsimp only
  rw [h, if_pos (by decide)]
  rfl

theorem TestUnit.lose_of_waits {u : TestUnit} {items : List Nat} (hstate : u.state = 1) (hitem : tqItem u.request ∈ items) (hunit : tqUnit u.request = q) :
    u.lose items q = { u with state := 3, result := 3 } := by
  unfold TestUnit.lose
  rw [if_pos]
  rw [Bool.and_eq_true, Bool.and_eq_true]
  exact ⟨⟨by simp [hstate], List.contains_iff_mem.2 hitem⟩, beq_iff_eq.2 hunit⟩

theorem TestUnit.names_of_waits {u : TestUnit} {items : List Nat} (hstate : u.state = 1) (hitem : tqItem u.request ∈ items) (hunit : tqUnit u.request = q) :
    u.names items q = true := by
  rw [TestUnit.names, TestUnit.lose_of_waits hstate hitem hunit, hstate]
  rfl

theorem State.tu_setPort (s : State) (q : Nat) (v : Port) (p : Nat) (cal : Bool) : (s.setPort q v).tu p cal = s.tu p cal := rfl

/-- The loss of a port's tests where one of them waits: it is done, and its result is NOT_RUN. -/
theorem State.losePortTests_of_waits {cal : Bool} (hstate : (s.tu (partOfPort s.mode q) cal).state = 1)
    (hitem : tqItem (s.tu (partOfPort s.mode q) cal).request = if cal then 4 else 9) (hunit : tqUnit (s.tu (partOfPort s.mode q) cal).request = q) :
    (s.losePortTests q).port q = { s.port q with testPiece := false } ∧ ((s.losePortTests q).tu (partOfPort s.mode q) cal).state = 3 ∧
      ((s.losePortTests q).tu (partOfPort s.mode q) cal).result = 3 ∧ (s.losePortTests q).mem = s.mem ∧ (s.losePortTests q).out = s.out := by
  have hnames : ((s.part (partOfPort s.mode q)).test.names [9] q || (s.part (partOfPort s.mode q)).cal.names [4] q) = true := by
    cases cal with
    | true => exact Bool.or_eq_true _ _ ▸ .inr (TestUnit.names_of_waits hstate (List.mem_singleton.2 hitem) hunit)
    | false => exact Bool.or_eq_true _ _ ▸ .inl (TestUnit.names_of_waits hstate (List.mem_singleton.2 hitem) hunit)
  unfold State.losePortTests
  dsimp only
  rw [if_pos hnames]
  have hpart (v : Part) (w : Port) : ((s.setPart (partOfPort s.mode q) v).setPort q w).part (partOfPort s.mode q) = v := State.part_setPart ..
  have hlost : ((s.part (partOfPort s.mode q)).loseTests [9] [4] q).test = (s.part (partOfPort s.mode q)).test.lose [9] q ∧
      ((s.part (partOfPort s.mode q)).loseTests [9] [4] q).cal = (s.part (partOfPort s.mode q)).cal.lose [4] q := ⟨rfl, rfl⟩
  refine ⟨State.port_setPort .., ?_, ?_, rfl, rfl⟩
  · unfold State.tu at *
    rw [hpart]
    cases cal with
    | true => exact congrArg TestUnit.state (TestUnit.lose_of_waits hstate (List.mem_singleton.2 hitem) hunit)
    | false => exact congrArg TestUnit.state (TestUnit.lose_of_waits hstate (List.mem_singleton.2 hitem) hunit)
  · unfold State.tu at *
    rw [hpart]
    cases cal with
    | true => exact congrArg TestUnit.result (TestUnit.lose_of_waits hstate (List.mem_singleton.2 hitem) hunit)
    | false => exact congrArg TestUnit.result (TestUnit.lose_of_waits hstate (List.mem_singleton.2 hitem) hunit)

theorem OnlyPort.setPort_emit (s : State) (q : Nat) (v : Port) (o : Out) : OnlyPort s ((s.setPort q v).emit o) q :=
  ⟨rfl, fun _ hk => Table.get_set_ne _ _ _ hk⟩

theorem exec_trainingTimeout (h : (s.port q).state = .training) : exec (.trainingTimeout q) s =
    .next (((s.setPort q { s.port q with retried := true }).portStays q .down).freedFrom s) := by
  show execTrainingTimeout q s = _
  rw [execTrainingTimeout, h]
  rfl

/-- A port that has heard its peer. -/
def Port.heard (q : Port) (node peer role : Nat) : Port := { q with peerNode := node % 2 ^ 13, peerPort := peer % 8, peerRole := role % 4 }

/-- A port in training whose peer has the node's own number, and one whose exchange completes. -/
def Port.refused (q : Port) (node peer role : Nat) : Port := { q.heard node peer role with retrains := satAdd 16 q.retrains 1, retried := true }
def Port.joined (q : Port) (node peer role : Nat) : Port :=
  { q.heard node peer role with state := .up, owed := (List.range 6).map (fun k => (k, Config.slotBuffers k)), retried := false }

theorem exec_hello_of_training (node peer role : Nat) (h : (s.port q).state = .training) : exec (.hello q node peer role) s =
    .next ((if node % 2 ^ 13 = s.node (partOfPort s.mode q) then
        ((s.setPort q ((s.port q).refused node peer role)).portStays q .down).freedFrom s
      else s.setPort q ((s.port q).joined node peer role)).emit
        (.hello q (s.node (partOfPort s.mode q)) q (s.role (partOfPort s.mode q)))) := by
  show execHello q node peer role s = _
  unfold execHello
  dsimp only
  rw [if_neg (by rw [h]; decide)]
  rfl

end Ports

/-! ## Requests of a ring (R283, R284) -/

section Requests

variable {s : State} {fn : Nat} {v : BitVec 1024} {mine : Nat → Bool}

theorem requestRead_part (s : State) (fn : Nat) (v : BitVec 1024) : ∃ u, (requestRead s fn v).part (funcPart fn) =
    { s.part (funcPart fn) with hostUse := u, reqs := (s.part (funcPart fn)).reqs ++ [⟨fn, v⟩] } := by
  unfold requestRead
  rw [State.part_updPart]
  generalize hu : (s.hostGet (ringGet fn) (funcPart fn) fn (ringAddr (s.func fn).rq.cfg (s.func fn).rq.head) 128).updFunc fn (fun f =>
    { f with rq := { f.rq with head := (f.rq.head + 1) % 2 ^ 32 } }) = u
  have hpart : u.part (funcPart fn) = { s.part (funcPart fn) with hostUse := addCounters (s.part (funcPart fn)).hostUse [128, 0] } := by
    rw [← hu]
    exact State.part_updPart s (funcPart fn) fun t => { t with hostUse := addCounters t.hostUse [128, 0] }
  rw [hpart]
  exact ⟨_, rfl⟩

theorem requestRead_func (s : State) (fn : Nat) (v : BitVec 1024) : (requestRead s fn v).func fn =
    { s.func fn with rq := { (s.func fn).rq with head := ((s.func fn).rq.head + 1) % 2 ^ 32 } } := by
  unfold requestRead
  generalize hu : s.hostGet (ringGet fn) (funcPart fn) fn (ringAddr (s.func fn).rq.cfg (s.func fn).rq.head) 128 = u
  have hfunc : u.func fn = s.func fn := by rw [← hu]; rfl
  rw [← hfunc]
  exact State.func_updFunc u fn fun f => { f with rq := { f.rq with head := (f.rq.head + 1) % 2 ^ 32 } }

theorem State.takeRequest_of_entry (h : RingHasEntry s fn) (hm : mine (rqOp v.toNat) = true) : s.takeRequest fn v mine =
    if (s.part (funcPart fn)).phase == .idle then (requestRead s fn v).wakeUp (funcPart fn) else requestRead s fn v := by
  have hphase : ((requestRead s fn v).part (funcPart fn)).phase = (s.part (funcPart fn)).phase := by
    obtain ⟨u, hu⟩ := requestRead_part s fn v
    exact (congrArg Part.phase hu :)
  unfold State.takeRequest
  dsimp only
  rw [h.live, h.link, h.func, h.enabled, h.goesOn, hm, beq_false_of_ne h.waits, if_neg (by decide)]
  exact hphase ▸ rfl

end Requests

/-! ## Windows and intervals (R407, R426, R427) -/

section Windows

variable {s : State} {d : Nat}

/-- The amount of its time that a window withholds from each core of a die. -/
def State.withheldBy (s : State) (d amps : Nat) : Nat :=
  if s.limitA d < 32 * amps then ceilDiv (1024 * (32 * amps - s.limitA d)) (32 * amps) else 0

theorem exec_classAWindow {amps : Nat} (h : s.start.phase = .live) (hd : d < 4) : exec (.classAWindow d amps) s =
    .next (((List.range 12).map (fun j => 12 * d + j)).foldl (fun u c => u.updCore c (fun k => { k with withheld := s.withheldBy d amps })) s) := by
  show execClassAWindow d amps s = _
  have hg : s.governs = true := by rw [State.governs, h]
  unfold execClassAWindow
  rw [hg, decide_eq_false (by omega), if_neg (by decide), List.foldl_map]
  rfl

theorem State.window_core (s : State) (d w c : Nat) :
    (((List.range 12).map (fun j => 12 * d + j)).foldl (fun u c => u.updCore c (fun k => { k with withheld := w })) s).core c =
      if c / 12 = d then { s.core c with withheld := w } else s.core c := by
  have hmem : c ∈ (List.range 12).map (fun j => 12 * d + j) ↔ c / 12 = d := by
    rw [List.mem_map]
    refine ⟨fun ⟨j, hj, he⟩ => ?_, fun he => ⟨c % 12, List.mem_range.2 (Nat.mod_lt _ (by decide)), by omega⟩⟩
    have := List.mem_range.1 hj
    omega
  have hnodup : ((List.range 12).map (fun j => 12 * d + j)).Nodup := List.nodup_range.map fun i j (h : 12 * d + i = 12 * d + j) => by omega
  rw [State.core_foldl_listed hnodup]
  exact if_congr hmem rfl rfl

theorem updCores_frame (g : Core → Core) (l : List Nat) (s : State) :
    { l.foldl (fun u c => u.updCore c g) s with cores := [] } = { s with cores := [] } :=
  List.foldlRecOn (motive := fun u : State => { u with cores := [] } = { s with cores := [] }) l (fun u c => u.updCore c g) rfl
    fun u (hu : { u with cores := [] } = { s with cores := [] }) _ _ => hu

theorem Table.get_of_has {α : Type} {t : Table α} {k : Nat} (h : Table.has t k = true) (d e : α) : Table.get d t k = Table.get e t k := by
  induction t with
  | nil => cases h
  | cons a t ih =>
    obtain ⟨j, v⟩ := a
    simp only [Table.get]
    split
    · rfl
    next hj => exact ih (by simpa [Table.has, hj] using h)

/-- The period at which the next interval block is due, or now where that is past. -/
def State.periodicAt (s : State) : State :=
  { s with start := { s.start with periods := max s.start.periods ((s.start.lastCommit / 2 ^ 35 + 1) * 2 ^ 35) } }

theorem exec_periodic (h : s.start.phase = .live) :
    exec .periodic s = .next (if s.cairnFree ≤ 8192 then s.periodicAt else s.periodicAt.commitInterval 3) := by
  show execPeriodic s = _
  have hl : s.isLive = true := by rw [State.isLive, h]; rfl
  unfold execPeriodic
  rw [hl, if_neg (by decide)]
  dsimp only
  exact (apply_ite Host.Outcome.next ..).symm

theorem State.commitInterval_record {type : Nat} (h : s.nv.cairn.length < cairnSlots) : ∃ r, (s.commitInterval type).nv.cairn = s.nv.cairn ++ [r] ∧
    r.type = type ∧ r.start = s.nv.starts ∧ r.periods = s.start.periods ∧ (s.commitInterval type).start.periods = s.start.periods ∧
    (s.commitInterval type).start.lastCommit = s.start.periods := by
  unfold State.commitInterval State.cairn
  rw [if_pos h]
  exact ⟨_, rfl, rfl, rfl, rfl, rfl, rfl⟩

end Windows

end Sys2Proof.Machine

namespace Sys2Proof.Proofs

open Sys2Proof.Machine

/-- Settles O14: a window's cores are those of its die, each named once. -/
theorem windowsPausesAndIntervals : Obligations.WindowsPausesAndIntervals := by
  unfold Obligations.WindowsPausesAndIntervals
  refine ⟨?_, ?_, ?_, ?_, ?_⟩
  · intro s d amps h hd hhas hlimit
    have hget : s.limitA d = Table.get 0 s.power.limit d := Table.get_of_has hhas _ _
    refine ⟨_, exec_classAWindow h hd, fun c _ => ?_, fun c => ?_, updCores_frame ..⟩
    · rw [State.window_core, State.withheldBy, hget, if_pos hlimit]
      exact apply_ite Core.withheld ..
    · rw [State.window_core]
      split <;> rfl
  · intro s d amps h hd hlimit
    refine ⟨_, exec_classAWindow h hd, fun c _ => ?_, updCores_frame ..⟩
    rw [State.window_core, State.withheldBy, if_neg (Nat.not_lt.2 hlimit)]
  · intro s k hk hpause
    show execDroguePause k s = _
    unfold execDroguePause
    rw [decide_eq_true hk, hpause, if_pos (by decide)]
    rfl
  · intro s h hfree
    have hroom : s.nv.cairn.length < cairnSlots := by
      rw [State.cairnFree] at hfree
      omega
    obtain ⟨r, hr, htype, hstart, hperiods, hnow, hlast⟩ := State.commitInterval_record (s := s.periodicAt) (type := 3) hroom
    refine ⟨_, (exec_periodic h).trans (by rw [if_neg (by omega)]), ⟨r, hr, htype, hstart, hperiods.trans hnow.symm⟩, hlast.trans hnow.symm, ?_, rfl, rfl⟩
    rw [hnow]
    exact Nat.le_max_right ..
  · intro s h hfree
    exact ⟨s.periodicAt, (exec_periodic h).trans (by rw [if_pos hfree]), rfl⟩

/-- Settles O15: a port that leaves training changes no partition where no request names it, so that no partition is freed. -/
theorem fabricPortTraining : Obligations.FabricPortTraining := by
  unfold Obligations.FabricPortTraining
  refine ⟨?_, ?_, ?_, ?_, ?_⟩
  · intro s q hon hq hpiece hen hdown
    show execPortTrainRetry q s = _
    rw [execPortTrainRetry, hon, decide_eq_true hq, hpiece, if_pos (by decide), State.portTrain, State.updPort, hen, hdown]
    rfl
  · intro s q htrain hno
    rw [exec_trainingTimeout htrain, State.portStays_down_of_noRequest hno]
  · intro s q cal htrain hidle hstate hitem hunit
    generalize hu : (s.setPort q { s.port q with retried := true }).setPort q
      { s.port q with retried := true, state := .down } = u
    have hport : u.port q = { s.port q with retried := true, state := .down } := by rw [← hu, State.port_setPort]
    have hmode : u.mode = s.mode := by rw [← hu]; rfl
    have htu (p : Nat) : u.tu p cal = s.tu p cal := by rw [← hu]; rfl
    have hkept : u.mem = s.mem ∧ u.out = s.out := by rw [← hu]; exact ⟨rfl, rfl⟩
    obtain ⟨hp, hst, hres, hmem, hout⟩ := State.losePortTests_of_waits (s := u) (q := q) (cal := cal)
      (by rw [hmode, htu]; exact hstate) (by rw [hmode, htu]; exact hitem) (by rw [hmode, htu]; exact hunit)
    rw [hmode] at hst hres
    have htraining : ((s.setPort q { s.port q with retried := true }).port q).state = .training := by rw [State.port_setPort, htrain]
    refine ⟨u.losePortTests q, ?_, ?_, ?_, hst, hres, hmem.trans hkept.1, hout.trans hkept.2⟩
    · rw [exec_trainingTimeout htrain, State.portStays_down_of_training htraining, State.freedFrom_idle _ hidle, State.port_setPort, hu]
    · rw [hp, hport]
    · rw [hp, hport]
  · intro s q node peer role htrain hne
    refine ⟨_, (exec_hello_of_training node peer role htrain).trans (by rw [if_neg hne]), ?_⟩
    have hport (v : Port) (o : Out) : ((s.setPort q v).emit o).port q = v := State.port_setPort ..
    rw [hport]
    exact ⟨rfl, rfl, rfl, rfl, rfl, rfl, OnlyPort.setPort_emit ..⟩
  · intro s q node peer role htrain hno heq
    refine ⟨_, (exec_hello_of_training node peer role htrain).trans (by rw [if_pos heq, State.portStays_down_of_noRequest hno]), ?_⟩
    have hport (v : Port) (o : Out) : ((s.setPort q v).emit o).port q = v := State.port_setPort ..
    rw [hport]
    exact ⟨rfl, rfl, rfl, OnlyPort.setPort_emit ..⟩

/-- Settles O50: the three requests read the same ring and differ in the OP that each takes. -/
theorem requestsAreReadFromTheRing : Obligations.RequestsAreReadFromTheRing := by
  unfold Obligations.RequestsAreReadFromTheRing
  have hop {s : State} {fn : Nat} {v : BitVec 1024} (hr : RingHasEntry s fn) {mine : Nat → Bool} (hm : mine (rqOp v.toNat) = true)
      (hp : (s.part (funcPart fn)).phase ≠ .idle) : s.takeRequest fn v mine = requestRead s fn v :=
    (State.takeRequest_of_entry hr hm).trans (by rw [beq_false_of_ne hp, if_neg Bool.false_ne_true])
  have hwake {s : State} {fn : Nat} {v : BitVec 1024} (hr : RingHasEntry s fn) {mine : Nat → Bool} (hm : mine (rqOp v.toNat) = true)
      (hp : (s.part (funcPart fn)).phase = .idle) : s.takeRequest fn v mine = (requestRead s fn v).wakeUp (funcPart fn) :=
    (State.takeRequest_of_entry hr hm).trans (by rw [hp, if_pos (by decide)])
  refine ⟨fun s fn v hr hp => ⟨fun h2 h3 => ?_, fun h => ?_, fun h => ?_⟩, fun s fn v hr hp => ⟨fun h2 h3 => ?_, fun h => ?_, fun h => ?_⟩, ?_⟩
  · exact congrArg Host.Outcome.next (hop hr (by simp [h2, h3]) hp)
  · exact congrArg Host.Outcome.next (hop hr (by simp [h]) hp)
  · exact congrArg Host.Outcome.next (hop hr (by simp [h]) hp)
  · exact congrArg Host.Outcome.next (hwake hr (by simp [h2, h3]) hp)
  · exact congrArg Host.Outcome.next (hwake hr (by simp [h]) hp)
  · exact congrArg Host.Outcome.next (hwake hr (by simp [h]) hp)
  · intro s fn v
    refine ⟨rfl, ?_, ?_, rfl⟩
    · exact congrArg (fun f : Func => f.rq.head) (requestRead_func s fn v)
    · obtain ⟨u, hu⟩ := requestRead_part s fn v
      exact (congrArg Part.reqs hu :)

/-- A part that takes its links down: it still answers the host, and sends no message. -/
def stoppingPart : State where
  start := { phase := .stopping }
  host := { link := .up }

/-- Refutes O23: while a part takes its links down (R401) it answers a DOE discovery request, but sends no vector 3. -/
theorem not_configurationAndMailboxes : ¬ Obligations.ConfigurationAndMailboxes := by
  unfold Obligations.ConfigurationAndMailboxes
  rintro ⟨_, _, _, _, _, h, _⟩
  obtain ⟨t, hexec, hout, _⟩ := h stoppingPart 0 0 (by decide +kernel) (by decide)
  have hsilent : ∃ u, exec (.doeDiscovery 0 0) stoppingPart = .next u ∧ u.out.length = 1 := ⟨_, rfl, by decide +kernel⟩
  obtain ⟨u, hu, hlen⟩ := hsilent
  rw [← Host.Outcome.next.inj (hu.symm.trans hexec)] at hout
  rw [hout] at hlen
  exact absurd hlen (by decide +kernel)

end Sys2Proof.Proofs
end

section
/-! PROOFS. Channels, buffers and refresh windows of a stack (R327, R334, R335, R338). -/

namespace Sys2Proof.Machine

/-! ## Channels that fail with a change of memory (R335) -/

section Failures

variable {s : State} {m : MemSys} {k c cause : Nat}

theorem newFailures_of_same {old new : MemSys} (h : ∀ j, (new.stack j).failed = (old.stack j).failed) : newFailures old new = [] := by
  rw [newFailures, List.flatMap_eq_nil_iff]
  intro j _
  rw [List.map_eq_nil_iff, List.filter_eq_nil_iff]
  intro i _
  rw [h]
  simp

/-- Without a new failure the part takes the memory and nothing else. -/
theorem State.withMem_of_same (h : ∀ j, (m.stack j).failed = (s.mem.stack j).failed) (cause : Nat) : s.withMem m cause = { s with mem := m } := by
  unfold State.withMem
  rw [newFailures_of_same h]
  rfl

theorem mem_newFailures {old new : MemSys} {j i : Nat} : (j, i) ∈ newFailures old new ↔
    j < 16 ∧ i < 32 ∧ (new.stack j).failed.testBit i = true ∧ (old.stack j).failed.testBit i = false := by
  simp only [newFailures, List.mem_flatMap, List.mem_map, List.mem_filter, List.mem_range, Bool.and_eq_true, Bool.not_eq_true', Prod.mk.injEq]
  constructor
  · rintro ⟨j', hj, i', ⟨hi, hnew, hold⟩, rfl, rfl⟩
    exact ⟨hj, hi, hnew, hold⟩
  · rintro ⟨hj, hi, hnew, hold⟩
    exact ⟨j, hj, i, ⟨hi, hnew, hold⟩, rfl, rfl⟩

theorem newFailures_nodup (old new : MemSys) : (newFailures old new).Nodup := by
  rw [newFailures, List.nodup_flatMap]
  refine ⟨fun j _ => (List.nodup_range.filter _).map fun a b h => (Prod.mk.inj h).2, List.nodup_range.imp fun {a b} hab => ?_⟩
  intro x hx hy
  obtain ⟨i, -, rfl⟩ := List.mem_map.1 hx
  obtain ⟨i', -, he⟩ := List.mem_map.1 hy
  exact hab (Prod.mk.inj he).1.symm

/-- The one failure of a stack whose channel `c` has failed and in which nothing else has. -/
theorem newFailures_failChannel (hk : k < 16) (hc : c < 32) (hold : (m.stack k).failed.testBit c = false) (st : Stack)
    (hst : st.failed = (m.stack k).failed) : newFailures m (m.setStack k (st.failChannel c)) = [(k, c)] := by
  have hfail : (st.failChannel c).failed = (m.stack k).failed ||| 2 ^ c := by
    rw [Stack.failChannel, hst, hold, if_neg Bool.false_ne_true]
  refine List.perm_singleton.1 ((List.perm_ext_iff_of_nodup (newFailures_nodup ..) (List.nodup_singleton _)).2 fun ⟨j, i⟩ => ?_)
  rw [mem_newFailures, List.mem_singleton, Prod.mk.injEq, MemSys.stack_setStack]
  by_cases hj : j = k
  · subst hj
    rw [if_pos rfl, hfail, Nat.testBit_or, Nat.testBit_two_pow]
    by_cases hi : i = c
    · subst hi
      simp [hk, hc, hold]
    · simp [hi, Ne.symm hi]
  · rw [if_neg hj]
    simp [hj]

theorem State.loseStack_frame (s : State) (k : Nat) : (s.loseStack k).nv = s.nv ∧ (s.loseStack k).out = s.out := by
  unfold State.loseStack
  dsimp only
  split <;> exact ⟨rfl, rfl⟩

theorem State.withMem_of_one_eq (h : newFailures s.mem m = [(k, c)]) (cause : Nat) : s.withMem m cause =
    ((({ s with mem := m } : State).cairn 0x0C [BitVec.ofNat 8 k, BitVec.ofNat 8 c, BitVec.ofNat 8 cause]).loseStack k).sealBase := by
  unfold State.withMem
  rw [h]
  dsimp only [List.foldl_cons, List.foldl_nil]
  rw [if_neg (by simp)]

/-- A failure is recorded with its cause, and with one new failure it is the one record. -/
theorem State.withMem_of_one (h : newFailures s.mem m = [(k, c)]) (cause : Nat) : (s.withMem m cause).mem = m ∧ (s.withMem m cause).out = s.out ∧
    (0 < s.cairnFree → ∃ r : CairnRec, (s.withMem m cause).nv.cairn = s.nv.cairn ++ [r] ∧ r.type = 0x0C ∧
      r.payload = [BitVec.ofNat 8 k, BitVec.ofNat 8 c, BitVec.ofNat 8 cause]) := by
  refine ⟨(s.withMem_frame m cause).2.1, ?_, fun hfree => ?_⟩
  · rw [State.withMem_of_one_eq h]
    exact (State.loseStack_frame ..).2.trans (State.cairn_frame ..).2.1
  · have hroom : s.nv.cairn.length < cairnSlots := by
      rw [State.cairnFree] at hfree
      omega
    obtain ⟨r, hr, htype, hpayload, -⟩ := State.cairn_appends (s := { s with mem := m }) 0x0C [BitVec.ofNat 8 k, BitVec.ofNat 8 c, BitVec.ofNat 8 cause] hroom
    refine ⟨r, ?_, htype, hpayload⟩
    rw [State.withMem_of_one_eq h]
    generalize ({ s with mem := m } : State).cairn 0x0C [BitVec.ofNat 8 k, BitVec.ofNat 8 c, BitVec.ofNat 8 cause] = u at hr
    exact (congrArg NonVolatile.cairn (u.loseStack_frame k).1).trans hr

theorem State.withMem_out (s : State) (m : MemSys) (cause : Nat) : (s.withMem m cause).out = s.out := by
  unfold State.withMem
  extract_lets l t
  have ht : t.out = s.out := List.foldlRecOn (motive := fun t : State => t.out = s.out) _ _ rfl fun u hu f _ =>
    (State.loseStack_frame ..).2.trans ((State.cairn_frame ..).2.1.trans hu)
  split
  · exact ht
  · exact ht

/-! ## A host's accesses do not matter to a change of memory -/

theorem State.cairn_host (s : State) (h : HostPort) (type : Nat) (payload : List Byte) :
    ({ s with host := h } : State).cairn type payload = { s.cairn type payload with host := h } := by
  unfold State.cairn
  split <;> exact rfl

theorem State.loseStack_host (s : State) (h : HostPort) (k : Nat) : ({ s with host := h } : State).loseStack k = { s.loseStack k with host := h } := by
  unfold State.loseStack
  dsimp only
  by_cases hn : ((s.part (partOfStack s.mode k)).test.names [4, 5, 6, 7] k || (s.part (partOfStack s.mode k)).cal.names [1] k) = true
  · rw [if_pos hn]
    exact if_pos hn
  · rw [if_neg hn]
    exact if_neg hn

theorem State.withMem_host (s : State) (h : HostPort) (m : MemSys) (cause : Nat) :
    ({ s with host := h } : State).withMem m cause = { s.withMem m cause with host := h } := by
  have hfold (l : List (Nat × Nat)) : ∀ u : State,
      l.foldl (fun s f => (s.cairn 0x0C [BitVec.ofNat 8 f.1, BitVec.ofNat 8 f.2, BitVec.ofNat 8 cause]).loseStack f.1) ({ u with host := h } : State) =
        { l.foldl (fun s f => (s.cairn 0x0C [BitVec.ofNat 8 f.1, BitVec.ofNat 8 f.2, BitVec.ofNat 8 cause]).loseStack f.1) u with host := h } := by
    induction l with
    | nil => exact fun _ => rfl
    | cons f l ih => exact fun u => by rw [List.foldl_cons, List.foldl_cons, State.cairn_host, State.loseStack_host, ih]
  unfold State.withMem
  dsimp only
  rw [show ({ s with host := h, mem := m } : State) = { ({ s with mem := m } : State) with host := h } from rfl, hfold]
  split <;> rfl

theorem State.withMem_hostPort (s : State) (m : MemSys) (cause : Nat) : (s.withMem m cause).host = s.host := by
  have h := congrArg State.host (s.withMem_host s.host m cause)
  exact h

end Failures

/-! ## A change of one stack -/

section Stack

variable {s : State} {k cause : Nat} {f : Stack → Stack}

theorem State.updStack_of_same (hf : (f (s.mem.stack k)).failed = (s.mem.stack k).failed) :
    s.updStack k cause f = { s with mem := s.mem.setStack k (f (s.mem.stack k)) } := by
  have hsame (j : Nat) : ((s.mem.setStack k (f (s.mem.stack k))).stack j).failed = (s.mem.stack j).failed := by
    rw [MemSys.stack_setStack]
    split
    next h => rw [hf, h]
    · rfl
  rw [State.updStack, State.withMem_of_same hsame]
  exact State.freedFrom_same fun _ => rfl

theorem State.updStack_of_idle (h : NoTestHolds s) : s.updStack k cause f = s.withMem (s.mem.setStack k (f (s.mem.stack k))) cause :=
  State.freedFrom_idle _ h

theorem MemSys.stack_setStack_same (m : MemSys) (k : Nat) (st : Stack) : (m.setStack k st).stack k = st := by
  rw [MemSys.stack_setStack, if_pos rfl]

theorem MemSys.stack_setStack_ne (m : MemSys) {j k : Nat} (st : Stack) (h : j ≠ k) : (m.setStack k st).stack j = m.stack j := by
  rw [MemSys.stack_setStack, if_neg h]

theorem State.retryHost_of_none (h : s.host.waits = []) : s.retryHost = s := by
  rw [State.retryHost, h]
  rfl

theorem State.retryHost_mem (m : MemSys) (h : s.host.waits = []) : ({ s with mem := m } : State).retryHost = { s with mem := m } :=
  State.retryHost_of_none (s := { s with mem := m }) h

theorem State.retryHost_eq (s : State) : s.retryHost = s.host.waits.foldl State.hostAccess { s with host := { s.host with waits := [] } } := by
  unfold State.retryHost
  split
  next h =>
    have hw : s.host.waits = [] := List.isEmpty_iff.1 h
    have hs : ({ s with host := { s.host with waits := [] } } : State) = s := by
      conv_rhs => rw [show s = { s with host := { s.host with waits := s.host.waits } } from rfl, hw]
    rw [hw, hs]
    rfl
  · rfl

/-- A pseudo-channel in use: the stack is one of sixteen, the channel one of 32, and it has not failed. -/
theorem State.pcOn_spec {pc : Nat} (h : s.pcOn k pc = true) : k < 16 ∧ pc / 2 < 32 ∧ (s.mem.stack k).failed.testBit (pc / 2) = false := by
  simp only [State.pcOn, Bool.and_eq_true, decide_eq_true_eq, Bool.not_eq_true', List.contains_iff_mem, Stack.pcs, List.mem_flatMap] at h
  obtain ⟨⟨⟨-, hk⟩, c, hc, hpc⟩, hfail⟩ := h
  have hc32 : c < 32 := by
    unfold Stack.channels at hc
    split at hc
    · cases hc
    · exact List.mem_range.1 (List.mem_filter.1 hc).1
  have hpc : pc = 2 * c ∨ pc = 2 * c + 1 := by simpa using hpc
  exact ⟨hk, by omega, hfail⟩

/-- A channel in use that fails: it is failed, with its record. -/
theorem State.updStack_fails {pc : Nat} (h : s.pcOn k pc = true) (hidle : NoTestHolds s) (g : Stack → Stack) (hg : ∀ st, (g st).failed = st.failed) :
    ((s.updStack k cause (fun st => (g st).failChannel (pc / 2))).mem.stack k).failed.testBit (pc / 2) = true ∧
      (0 < s.cairnFree → ∃ r : CairnRec, (s.updStack k cause (fun st => (g st).failChannel (pc / 2))).nv.cairn = s.nv.cairn ++ [r] ∧ r.type = 0x0C ∧
        r.payload = [BitVec.ofNat 8 k, BitVec.ofNat 8 (pc / 2), BitVec.ofNat 8 cause]) ∧
      (s.updStack k cause (fun st => (g st).failChannel (pc / 2))).out = s.out := by
  obtain ⟨hk, hc, hold⟩ := State.pcOn_spec h
  obtain ⟨hmem, hout, hrec⟩ := State.withMem_of_one (newFailures_failChannel hk hc hold (g (s.mem.stack k)) (hg _)) cause
  rw [State.updStack_of_idle hidle]
  refine ⟨?_, hrec, hout⟩
  rw [hmem, MemSys.stack_setStack_same, Stack.failChannel, hg, hold, if_neg Bool.false_ne_true, Nat.testBit_or, Nat.testBit_two_pow]
  simp

theorem State.updStack_hostOnly (h : NoTestHolds s) (h' : HostPort) : ({ s with host := h' } : State).updStack k cause f =
    { s.updStack k cause f with host := h' } := by
  rw [State.updStack_of_idle h, State.updStack_of_idle (s := { s with host := h' }) h]
  exact s.withMem_host h' _ cause

end Stack

/-! ## The events -/

section Events

variable {s : State} {k pc : Nat}

/-- What a resend that fails makes of the count of its transfer. -/
def Stack.resendFailed (st : Stack) (pc : Nat) : Stack := { st with retries := Table.set st.retries pc (Table.get 0 st.retries pc + 1) }

def Stack.resendOver (st : Stack) (pc : Nat) : Stack := { st with retries := Table.del st.retries pc }

def Stack.resent (st : Stack) (pc : Nat) (ok : Bool) : Stack :=
  if ok then { st.resendOver pc with tetherRetries := satAdd 32 st.tetherRetries 1 }
  else if 3 ≤ Table.get 0 st.retries pc + 1 then (st.resendOver pc).failChannel (pc / 2)
  else st.resendFailed pc

theorem exec_tetherRetry (h : s.pcOn k pc = true) (ok : Bool) :
    exec (.tetherRetry k pc ok) s = .next (s.updStack k 0 (fun st => st.resent pc ok)).retryHost := by
  show execTetherRetry k pc ok s = _
  rw [execTetherRetry, h, if_neg (by decide)]
  rfl

theorem State.updStack_congr {f g : Stack → Stack} (h : f (s.mem.stack k) = g (s.mem.stack k)) (cause : Nat) :
    s.updStack k cause f = s.updStack k cause g := by
  rw [State.updStack, State.updStack, h]

theorem exec_refreshWindowEnd (h : pc ∈ (s.mem.stack k).refreshing) : exec (.refreshWindowEnd k pc) s = .next ({ s with
    mem := s.mem.setStack k { s.mem.stack k with refreshing := (s.mem.stack k).refreshing.filter (· != pc) } } : State).retryHost := by
  show execRefreshWindowEnd k pc s = _
  rw [execRefreshWindowEnd, if_pos (List.contains_iff_mem.2 h)]
  exact congrArg (fun u : State => Host.Outcome.next u.retryHost) (State.updStack_of_same rfl)

/-- The state in which a buffered line has left its buffer. -/
def State.lineLeft (s : State) (k : Nat) (w : WcLine) : State :=
  s.withMem { s.mem.setStack k ((s.mem.stack k).leave ⟨s.mem.fresh, s.start.periods, s.threshold⟩ w) with fresh := s.mem.fresh + 1 } 3

theorem exec_wcAgeFlush {line : Nat} {w : WcLine} (hon : s.dramOn = true) (hw : (s.mem.stack k).wc.find? (fun x => x.line == line) = some w)
    (hclosed : (s.mem.stack k).closed true line = false) (hidle : NoTestHolds s) : exec (.wcAgeFlush k line) s = .next (s.lineLeft k w) := by
  show execWcAgeFlush k line s = _
  unfold execWcAgeFlush
  dsimp only
  rw [hw]
  dsimp only
  rw [hon, hclosed, if_neg (by decide), State.freedFrom_idle _ hidle]
  rfl

end Events

end Sys2Proof.Machine

namespace Sys2Proof.Proofs

open Sys2Proof.Machine

/-- Settles O52: a change of one stack that fails no channel changes nothing else, and one that fails a channel adds the record of it. -/
theorem channelsAndBuffersOfAStack : Obligations.ChannelsAndBuffersOfAStack := by
  unfold Obligations.ChannelsAndBuffersOfAStack
  refine ⟨⟨?_, ?_, ?_, ?_, ?_, ?_, ?_⟩, ?_⟩
  · intro s k pc hon hwaits
    refine ⟨⟨_, exec_tetherRetry hon true, ?_⟩, fun hlt => ⟨_, exec_tetherRetry hon false, ?_⟩, fun hge hidle => ⟨_, exec_tetherRetry hon false, ?_⟩⟩
    · rw [State.updStack_of_same (by rfl), State.retryHost_mem _ hwaits]
      dsimp only
      rw [MemSys.stack_setStack_same]
      exact ⟨rfl, rfl, rfl, rfl⟩
    · have hres : (s.mem.stack k).resent pc false = (s.mem.stack k).resendFailed pc := by
        rw [Stack.resent, if_neg Bool.false_ne_true, if_neg (by omega)]
      rw [State.updStack_of_same (by rw [hres]; rfl), State.retryHost_mem _ hwaits]
      dsimp only
      rw [MemSys.stack_setStack_same, hres]
      exact ⟨Table.get_set_same .., rfl⟩
    · have hres : (s.mem.stack k).resent pc false = ((s.mem.stack k).resendOver pc).failChannel (pc / 2) := by
        rw [Stack.resent, if_neg Bool.false_ne_true, if_pos (by omega)]
      rw [State.updStack_congr (g := fun st => (st.resendOver pc).failChannel (pc / 2)) hres]
      have hhost : (s.updStack k 0 (fun st => (st.resendOver pc).failChannel (pc / 2))).host = s.host := by
        rw [State.updStack_of_idle hidle, State.withMem_hostPort]
      rw [State.retryHost_of_none (by rw [hhost, hwaits])]
      exact State.updStack_fails hon hidle (fun st => st.resendOver pc) fun _ => rfl
  · intro s k c hon hc hidle
    have hexec : exec (.dramCmdTimeout k c) s = .next (s.updStack k 1 (fun st => st.failChannel c)) := if_pos hon
    have hfails := State.updStack_fails (cause := 1) hon hidle (fun st => st) fun _ => rfl
    rw [show 2 * c / 2 = c by omega] at hfails
    exact ⟨_, hexec, hfails⟩
  · intro s k pc hon hnot hlen
    have hexec : exec (.refreshWindow k pc) s = .next (s.updStack k 0 (fun st => { st with refreshing := st.refreshing ++ [pc] })) := by
      refine if_pos ?_
      rw [hon, decide_eq_true hlen, Bool.and_true, Bool.true_and, Bool.not_eq_true', ← Bool.not_eq_true, List.contains_iff_mem]
      exact hnot
    rw [State.updStack_of_same rfl] at hexec
    exact ⟨_, hexec, congrArg Stack.refreshing (MemSys.stack_setStack_same ..), fun j hj => MemSys.stack_setStack_ne _ _ hj, rfl⟩
  · intro s k pc hin hwaits
    refine ⟨_, exec_refreshWindowEnd hin, ?_⟩
    rw [State.retryHost_mem _ hwaits]
    exact ⟨congrArg Stack.refreshing (MemSys.stack_setStack_same ..), fun j hj => MemSys.stack_setStack_ne _ _ hj, rfl⟩
  · intro s k pc hin
    refine ⟨_, (exec_refreshWindowEnd (s := { s with host := { s.host with waits := [] } }) hin).trans (by rw [State.retryHost_of_none rfl]), ?_⟩
    rw [exec_refreshWindowEnd hin, State.retryHost_eq]
  · intro s k pc ok hon hidle
    refine ⟨_, (exec_tetherRetry (s := { s with host := { s.host with waits := [] } }) hon ok).trans
      (by rw [State.updStack_hostOnly hidle, State.retryHost_of_none rfl]), ?_⟩
    have hhost : (s.updStack k 0 (fun st => st.resent pc ok)).host = s.host := by
      rw [State.updStack_of_idle hidle, State.withMem_hostPort]
    rw [exec_tetherRetry hon ok, State.retryHost_eq, hhost]
  · intro s k pc hon hin hidle
    have hcontains : (s.mem.stack k).refreshing.contains pc = true := List.contains_iff_mem.2 hin
    have hexec (ok : Bool) : exec (.laneRecalibration k pc ok) s = execLaneRecalibration k pc ok s := rfl
    unfold execLaneRecalibration at hexec
    rw [hon, hcontains] at hexec
    exact ⟨hexec true, _, hexec false, State.updStack_fails hon hidle (fun st => st) fun _ => rfl⟩
  · intro s k line w hon hw hclosed hidle
    have hmem := (s.withMem_frame { s.mem.setStack k ((s.mem.stack k).leave ⟨s.mem.fresh, s.start.periods, s.threshold⟩ w) with
      fresh := s.mem.fresh + 1 } 3).2.1
    have hstack : (s.lineLeft k w).mem.stack k = (s.mem.stack k).leave ⟨s.mem.fresh, s.start.periods, s.threshold⟩ w := by
      rw [State.lineLeft, hmem]
      exact MemSys.stack_setStack_same ..
    refine ⟨_, exec_wcAgeFlush hon hw hclosed hidle, congrArg Stack.wc hstack, fun x hx => ?_, fun j hj => ?_, State.withMem_out .., ?_⟩
    · rw [hstack] at hx
      have hne := (List.mem_filter.1 (((s.mem.stack k).leave_wc _ w).subset hx)).2
      have hline : w.line = line := by simpa using List.find?_some hw
      rw [← hline]
      simpa using hne
    · rw [State.lineLeft, hmem]
      exact MemSys.stack_setStack_ne _ _ hj
    · exact (s.withMem_frame _ 3).2.2

end Sys2Proof.Proofs
end

section
/-! PROOFS. Rope rounds, kernels of a step and the boundary that follows it (R252, R253, R279, R289, R294). -/

namespace Sys2Proof.Machine

/-! ## What the checks of a start read -/

/-- Two views of the part that place addresses alike. -/
structure Env.PlacesAs (e f : Env) : Prop where
  mode : e.mode = f.mode
  part : e.part = f.part
  node : e.node = f.node
  wide : e.wide = f.wide
  accept : e.accept = f.accept

theorem Env.PlacesAs.place {e f : Env} (h : e.PlacesAs f) (m : MemSys) (a : Nat) : e.place m a = f.place m a := by
  simp only [Env.place, h.mode, h.part, h.node, h.wide, h.accept]

theorem Env.PlacesAs.allowed {e f : Env} (h : e.PlacesAs f) (m : MemSys) (a : Nat) : e.allowed m a = f.allowed m a := by
  simp only [Env.allowed, h.place, h.mode, h.part, h.wide]

theorem Env.PlacesAs.covers {e f : Env} (h : e.PlacesAs f) (m : MemSys) (fuel : Nat) : ∀ a n, e.covers m fuel a n = f.covers m fuel a n := by
  induction fuel with
  | zero => exact fun _ _ => rfl
  | succ fuel ih => exact fun a n => by simp only [Env.covers, h.allowed, ih]

/-- What a step's progress changes of its partition does not change what a start is checked for. -/
theorem State.startOk_updPart {s : State} {p : Nat} {f : Part → Part} (hf : ∀ t, (f t).accept0 = t.accept0 ∧ (f t).interleave = t.interleave)
    (x : Nat) (kd : BitVec 512) : (s.updPart p f).startOk p x kd = s.startOk p x kd := by
  have haccept : ((s.updPart p f).part p).accept0 = (s.part p).accept0 := by rw [State.part_updPart, (hf _).1]
  have hwide : ((s.updPart p f).part p).interleave = (s.part p).interleave := by rw [State.part_updPart, (hf _).2]
  have hplaces : ((s.updPart p f).env 0 2 ⟨p, x, kd, 0⟩).PlacesAs (s.env 0 2 ⟨p, x, kd, 0⟩) :=
    ⟨rfl, rfl, rfl, congrArg (· == 1) hwide, haccept⟩
  have haccepts : (s.updPart p f).accepts p 1 = s.accepts p 1 := congrArg (Nat.testBit · 1) haccept
  unfold State.startOk
  rw [haccepts]
  simp only [hplaces.covers]
  rfl

/-! ## The next kernel of a step (R279) -/

section StepKernel

variable {s : State} {p : Nat}

/-- The part once the scheduler has read the next record of KLIST. -/
def recordIssued (s : State) (p : Nat) : State :=
  (s.takeWork (stepRecord s p).2).updPart p (fun t => { t with kidx := t.kidx + 1, kpending := true })

/-- The start that a record of KLIST asks for. -/
def recordStart (s : State) (p : Nat) : Start := { kd := BitVec.ofNat 512 (leNat (stepRecord s p).1), step := true }

theorem Wk.good_iff (w : Wk) : w.good = true ↔ w.fault = none ∧ w.wait = false := by
  simp [Wk.good, Option.isNone_iff_eq_none]

theorem State.issueKernel_of_good (h : (stepRecord s p).2.good = true) : s.issueKernel p =
    if (s.takeWork (stepRecord s p).2).startOk p (s.part p).srvCtx (recordStart s p).kd then
      ((recordIssued s p).updContext p (s.part p).srvCtx (fun c => { c with pending := some (recordStart s p) })).preemptAll p
    else (recordIssued s p).endStart p (s.part p).srvCtx (recordStart s p) 0x0102 := by
  obtain ⟨hfault, hwait⟩ := (Wk.good_iff _).1 h
  have hcheck : (recordIssued s p).startOk p (s.part p).srvCtx (recordStart s p).kd =
      (s.takeWork (stepRecord s p).2).startOk p (s.part p).srvCtx (recordStart s p).kd := by
    refine State.startOk_updPart ?_ _ _
    exact fun _ => ⟨rfl, rfl⟩
  unfold State.issueKernel
  change (match (stepRecord s p).2.fault with
    | some st => _
    | none => if (stepRecord s p).2.wait then _ else if (recordIssued s p).startOk p (s.part p).srvCtx (recordStart s p).kd then _ else _) = _
  rw [hfault, hwait, hcheck]
  rfl

theorem State.issueKernel_of_fault {st : Nat} (h : (stepRecord s p).2.fault = some st) :
    s.issueKernel p = (s.takeWork (stepRecord s p).2).stepReport p st := by
  unfold State.issueKernel
  change (match (stepRecord s p).2.fault with
    | some st => _
    | none => _) = _
  rw [h]
  rfl

theorem State.takeWork_part (s : State) (w : Wk) (p : Nat) : ((s.takeWork w).part p).still = (s.part p).still := (s.takeWork_reads w).part p

theorem recordIssued_part : ((recordIssued s p).part p).still = { (s.part p).still with kidx := (s.part p).kidx + 1, kpending := true } := by
  have h := s.takeWork_part (stepRecord s p).2 p
  rw [recordIssued, State.part_updPart]
  have hkidx := congrArg Part.kidx h
  calc _ = { ((s.takeWork (stepRecord s p).2).part p).still with
          kidx := ((s.takeWork (stepRecord s p).2).part p).kidx + 1, kpending := true } := rfl
    _ = _ := by rw [h]; exact congrArg (fun n => { (s.part p).still with kidx := n + 1, kpending := true }) hkidx

/-- What the scheduler's report of a kernel makes of its partition (R294). -/
def Part.stepReported (t : Part) (status : Nat) : Part :=
  let t := { t with kpending := false, lastFault := if status = 0 then t.lastFault else status }
  if stepAbandons status then { t with
    stepFault := match t.stepFault with | some x => some x | none => some status
    srvOff := t.srvOff || stepClearsEn status } else t

theorem State.stepReport_eq (s : State) (p status : Nat) : s.stepReport p status = s.updPart p (fun t => t.stepReported status) := by
  unfold State.stepReport
  dsimp only
  split
  next h =>
    have hpart (t : Part) : t.stepReported status = { t with
        kpending := false, lastFault := if status = 0 then t.lastFault else status
        stepFault := match t.stepFault with | some x => some x | none => some status
        srvOff := t.srvOff || stepClearsEn status } := if_pos h
    rw [State.stepFail, State.updPart, State.part_updPart, State.updPart, State.updPart, hpart]
    exact congrArg (fun ps => { s with parts := ps }) (Table.set_set ..)
  next h =>
    have hpart (t : Part) : t.stepReported status = { t with kpending := false, lastFault := if status = 0 then t.lastFault else status } := if_neg h
    rw [State.updPart, State.updPart, hpart]

/-- A status that ends a kernel is the partition's last fault, and one that is no warning abandons the step. -/
theorem Part.stepReported_spec (t : Part) {status : Nat} (h : status ≠ 0) (hnone : t.stepFault = none) :
    (t.stepReported status).kidx = t.kidx ∧ (t.stepReported status).lastFault = status ∧ (t.stepReported status).kpending = false ∧
      (status ≠ 0x0103 → status ≠ 0x0105 → (t.stepReported status).stepFault = some status) := by
  unfold Part.stepReported
  dsimp only
  rw [if_neg h, hnone]
  split
  · exact ⟨rfl, rfl, rfl, fun _ _ => rfl⟩
  next hgoes =>
    refine ⟨rfl, rfl, rfl, fun h3 h5 => absurd ?_ hgoes⟩
    simp [stepAbandons, h, h3, h5]

/-- A start of a step that is refused is reported to the scheduler, and the listed cores show it. -/
theorem State.endStart_refused (s : State) (p x : Nat) {st : Start} (h : st.step = true) :
    ∃ cs, s.endStart p x st 0x0102 = ({ s with cores := cs } : State).updPart p (fun t => t.stepReported 0x0102) := by
  unfold State.endStart
  extract_lets report
  have habort : s.countAborted p 0x0102 = s := if_neg fun h => absurd h.1 (by decide)
  obtain ⟨cs, hcores⟩ := s.writeReports_eq p (kdCores st.kd) report
  refine ⟨cs, ?_⟩
  rw [habort, hcores, State.deliver, if_pos h, State.stepReport_eq]

theorem State.part_congr {t : State} (h : t.parts = s.parts) (p : Nat) : t.part p = s.part p := by
  rw [State.part, h, State.part]

theorem OnlyStops.part {t : State} (h : OnlyStops s t) : t.parts = s.parts := by
  have hparts := congrArg State.parts h.1
  exact hparts

/-- However the record's start is met, the partition counts the record, and its rope is as it was. -/
theorem State.issueKernel_counts (h : (stepRecord s p).2.good = true) :
    ((s.issueKernel p).part p).kidx = (s.part p).kidx + 1 ∧ ((s.issueKernel p).part p).rope = (s.part p).rope := by
  have hpart := recordIssued_part (s := s) (p := p)
  have hkidx := congrArg Part.kidx hpart
  have hrope := congrArg Part.rope hpart
  rw [State.issueKernel_of_good h]
  split
  · have hparts := (State.preemptAll_savesOnly ((recordIssued s p).updContext p (s.part p).srvCtx (fun c =>
      { c with pending := some (recordStart s p) })) p).1.part
    rw [State.part, hparts]
    exact ⟨hkidx, hrope⟩
  · obtain ⟨cs, he⟩ := (recordIssued s p).endStart_refused p (s.part p).srvCtx (st := recordStart s p) rfl
    rw [he, State.part_updPart]
    exact ⟨hkidx, hrope⟩

theorem exec_stepKernelIssue (hdue : s.kernelDue p = true) (hrope : s.ropeOn p = false) : exec (.stepKernelIssue p) s = .next (s.issueKernel p) := by
  show execStepKernelIssue p s = _
  rw [execStepKernelIssue, hdue, hrope]
  rfl

end StepKernel

/-! ## The boundary of an ended step (R286, R289) -/

section Boundary

variable {s t : State} {p : Nat}

/-- A partition but for what the release of pages touches. -/
def Part.settled (t : Part) : Part := { t.still with freeFrames := 0, freeGrans := 0, slots := [], released := [] }

/-- A sequence but for its pages, and its state but for whether it is free. -/
def Slot.named (q : Slot) : Nat × Nat × Bool := (q.tag, q.func, q.state == .free)

/-- `t` is `s` but for memory, what work on it touches, the units in the pools, and sequences that are now parked. -/
structure PoolsOnly (s t : State) : Prop where
  start : t.start = s.start
  funcs : t.host.funcs = s.host.funcs
  contexts : t.contexts = s.contexts
  run : ∀ c, (t.core c).run = (s.core c).run
  lab : ∀ k, (s.engine k).lab = [] → (t.engine k).lab = []
  part : ∀ p, (t.part p).settled = (s.part p).settled
  named : ∀ p k, (t.slot p k).named = (s.slot p k).named

theorem PoolsOnly.refl (s : State) : PoolsOnly s s := ⟨rfl, rfl, rfl, fun _ => rfl, fun _ h => h, fun _ => rfl, fun _ _ => rfl⟩

theorem PoolsOnly.trans {u : State} (h : PoolsOnly s t) (g : PoolsOnly t u) : PoolsOnly s u :=
  ⟨g.start.trans h.start, g.funcs.trans h.funcs, g.contexts.trans h.contexts, fun c => (g.run c).trans (h.run c),
    fun k hk => g.lab k (h.lab k hk), fun p => (g.part p).trans (h.part p), fun p k => (g.named p k).trans (h.named p k)⟩

theorem PoolsOnly.foldl {α : Type} {f : State → α → State} (h : ∀ s a, PoolsOnly s (f s a)) (l : List α) (s : State) :
    PoolsOnly s (l.foldl f s) :=
  List.foldlRecOn l f (motive := PoolsOnly s) (.refl s) fun _ hb a _ => hb.trans (h _ a)

/-- Changes of fields that none of this speaks of. -/
theorem PoolsOnly.of_eq (hstart : t.start = s.start) (hfuncs : t.host.funcs = s.host.funcs) (hcontexts : t.contexts = s.contexts)
    (hcores : t.cores = s.cores) (hengines : t.engines = s.engines) (hparts : t.parts = s.parts) : PoolsOnly s t :=
  ⟨hstart, hfuncs, hcontexts, fun c => by simp only [State.core, hcores], fun k hk => by simpa only [State.engine, hengines] using hk,
    fun p => by simp only [State.part, hparts], fun p k => by simp only [State.slot, State.part, hparts]⟩

theorem PoolsOnly.setPart {v : Part} (hv : v.settled = (s.part p).settled)
    (hslots : ∀ k, (Table.get {} v.slots k : Slot).named = (s.slot p k).named) : PoolsOnly s (s.setPart p v) := by
  have hne {q : Nat} (hq : q ≠ p) : (s.setPart p v).part q = s.part q := Table.get_set_ne _ _ _ hq
  refine ⟨rfl, rfl, rfl, fun _ => rfl, fun _ h => h, fun q => ?_, fun q k => ?_⟩
  · by_cases hq : q = p
    · rw [hq, State.part_setPart, hv]
    · rw [hne hq]
  · by_cases hq : q = p
    · rw [hq, State.slot, State.part_setPart, hslots]
    · rw [State.slot, hne hq, State.slot]

theorem PoolsOnly.updEngine {k : Nat} {f : Engine → Engine} (h : (s.engine k).lab = [] → (f (s.engine k)).lab = []) :
    PoolsOnly s (s.updEngine k f) := by
  refine ⟨rfl, rfl, rfl, fun _ => rfl, fun j hj => ?_, fun _ => rfl, fun _ _ => rfl⟩
  by_cases hjk : j = k
  · rw [hjk, State.engine_updEngine]
    exact h (hjk ▸ hj)
  · rw [State.engine_updEngine_ne _ _ hjk]
    exact hj

theorem PoolsOnly.updCore {c : Nat} {f : Core → Core} (h : (f (s.core c)).run = (s.core c).run) : PoolsOnly s (s.updCore c f) := by
  refine ⟨rfl, rfl, rfl, fun d => ?_, fun _ hk => hk, fun _ => rfl, fun _ _ => rfl⟩
  by_cases hd : d = c
  · rw [hd, State.core_updCore, h]
  · rw [State.core_updCore_ne _ _ hd]

theorem State.loseStack_poolsOnly (s : State) (k : Nat) : PoolsOnly s (s.loseStack k) := by
  unfold State.loseStack
  dsimp only
  split
  · refine PoolsOnly.trans (t := s.setPart (partOfStack s.mode k) ((s.part (partOfStack s.mode k)).loseTests [4, 5, 6, 7] [1] k)) ?_ ?_
    · exact .setPart rfl fun _ => rfl
    · exact PoolsOnly.updEngine (k := k) (f := fun g => { g with testPiece := false }) fun h => h
  · exact .refl s

theorem State.withMem_poolsOnly (s : State) (m : MemSys) (cause : Nat) : PoolsOnly s (s.withMem m cause) := by
  unfold State.withMem
  extract_lets l t
  have hcairn (u : State) (type : Nat) (payload : List Byte) : PoolsOnly u (u.cairn type payload) := by
    unfold State.cairn
    split <;> exact .of_eq rfl rfl rfl rfl rfl rfl
  have ht : PoolsOnly s t := PoolsOnly.trans (t := { s with mem := m }) (.of_eq rfl rfl rfl rfl rfl rfl)
    (.foldl (fun u f => (hcairn ..).trans (State.loseStack_poolsOnly ..)) _ _)
  split
  · exact ht
  · exact ht.trans (.of_eq rfl rfl rfl rfl rfl rfl)

theorem State.takeWork_poolsOnly (s : State) (w : Wk) : PoolsOnly s (s.takeWork w) := by
  unfold State.takeWork
  extract_lets s₁ host s₂
  have hsnoops (u : State) (l : List (Nat × Bool)) : PoolsOnly u (u.sendSnoops l) := .foldl (fun u x => by
    split
    · exact .refl u
    · exact .of_eq rfl rfl rfl rfl rfl rfl) _ u
  have h₁ : PoolsOnly s s₁ := (State.withMem_poolsOnly ..).trans (hsnoops ..)
  have h₂ : PoolsOnly s₁ s₂ := by
    unfold s₂
    split
    · exact .refl s₁
    · exact .of_eq rfl rfl rfl rfl rfl rfl
  exact (h₁.trans h₂).trans (.foldl (fun u d => .updCore rfl) _ _)

theorem Engine.labDrop_nil {g : Engine} (h : g.lab = []) (q slot layer page : Nat) : (g.labDrop q slot layer page).lab = [] := by
  rw [Engine.labDrop, h]
  rfl

/-- Work on the pools that no walker did leaves every empty lookaside buffer empty. -/
theorem State.countKv_poolsOnly {x : KvWork} (h : x.walks = []) : PoolsOnly s (s.countKv p x) := by
  unfold State.countKv
  extract_lets s₁ s₂ s₃ s₄
  have h₁ : PoolsOnly s s₁ := .setPart rfl fun _ => rfl
  have h₂ : PoolsOnly s₁ s₂ := .foldl (fun _ u => .updEngine fun hk => hk) _ _
  have h₃ : s₃ = s₂ := by
    unfold s₃
    rw [h]
    rfl
  have h₄ : PoolsOnly s₃ s₄ := .foldl (fun _ u => .updEngine fun hk => hk) _ _
  exact (((h₁.trans h₂).trans (h₃ ▸ .refl _)).trans h₄).trans (.foldl (fun _ u => .updEngine fun hk => Engine.labDrop_nil hk ..) _ _)

theorem giveUnits_walks (t : Part) (e : Env) (l : List (Nat × Nat × Bool)) (x : KvWork) : (giveUnits t e l x).walks = x.walks := by
  unfold giveUnits
  refine List.foldlRecOn (motive := fun y : KvWork => y.walks = x.walks) _ _ rfl fun y hy u _ => ?_
  unfold KvWork.giveBack
  dsimp only
  split <;> exact hy

/-- Sequences that are open stay what they are where they are parked. -/
theorem PoolsOnly.parked {l : List Nat} (h : ∀ k ∈ l, (s.slot p k).named.2.2 = false) :
    PoolsOnly s (l.foldl (fun s k => s.updSlot p k (fun q => { q with state := .parked, moved := false, units := [] })) s) := by
  refine List.foldlRecOn (motive := PoolsOnly s) _ _ (.refl s) fun u hu k hk => hu.trans (.setPart rfl fun j => ?_)
  dsimp only
  rw [Table.get_set]
  split
  next hjk =>
    have hopen : (u.slot p k).named.2.2 = false := (congrArg (fun n : Nat × Nat × Bool => n.2.2) (hu.named p k)).trans (h k hk)
    rw [hjk]
    exact congrArg (fun b => ((u.slot p k).tag, (u.slot p k).func, b)) hopen.symm
  · rfl

/-- Pool work that need not wait takes effect. -/
theorem State.kvDo_poolsOnly {x : KvWork} (hwalks : x.walks = []) (h : (s.kvDo p x).2 = true) : PoolsOnly s (s.kvDo p x).1 := by
  unfold State.kvDo at *
  dsimp only at *
  split at h
  · cases h
  next hwait =>
    rw [if_neg hwait]
    exact (State.takeWork_poolsOnly ..).trans (State.countKv_poolsOnly hwalks)

/-- The return of units before a boundary, where it need not wait. -/
theorem Bd.returnUnits_poolsOnly {b : Bd} (h : (b.returnUnits p).ok = true) : PoolsOnly b.s (b.returnUnits p).s := by
  unfold Bd.returnUnits at *
  extract_lets t done b'
  have hok : (b.s.kvDo p (giveUnits t (b.s.dieEnv p) (t.released.map (fun r => (r.1, r.2, true)) ++ done.flatMap (fun k => (b.s.slot p k).units))
      { w := { mem := b.s.mem } })).2 = true := (Bool.and_eq_true_iff.1 h).2
  have hpool : PoolsOnly b.s b'.s := State.kvDo_poolsOnly (giveUnits_walks ..) hok
  have hreleased : PoolsOnly b'.s (b'.s.updPart p (fun t => { t with released := [] })) := .setPart rfl fun _ => rfl
  refine (hpool.trans hreleased).trans (.parked fun k hk => ?_)
  have hstate : (b.s.slot p k).state = .parking := beq_iff_eq.1 (List.mem_filter.1 hk).2
  rw [(hpool.trans hreleased).named, Slot.named, hstate]
  rfl

theorem State.taken_poolsOnly (h : PoolsOnly s t) : t.taken p = s.taken p := by
  have hreqs : (t.part p).reqs = (s.part p).reqs := (congrArg Part.reqs (h.part p) :)
  have hfunc (fn : Nat) : t.func fn = s.func fn := by rw [State.func, h.funcs, State.func]
  simp only [State.taken, hreqs, State.aborting, hfunc]

theorem State.namesOwn_poolsOnly (h : PoolsOnly s t) (fn r : Nat) : t.namesOwn p fn r = s.namesOwn p fn r := by
  have hname := h.named p (rqSlot r)
  simp only [Slot.named, Prod.mk.injEq] at hname
  obtain ⟨htag, hfn, hfree⟩ := hname
  simp only [State.namesOwn, htag, slotFn, hfn, bne, hfree]

theorem State.cancelled_poolsOnly (h : PoolsOnly s t) : t.cancelled p = s.cancelled p := by
  simp only [State.cancelled, State.taken_poolsOnly h, State.namesOwn_poolsOnly h]

/-- Requests and the entries of the step give the pieces of the boundary. -/
theorem boundaryPieces_poolsOnly (h : PoolsOnly s t) : boundaryPieces t p = boundaryPieces s p := by
  have hbatch : (t.part p).batch = (s.part p).batch := (congrArg Part.batch (h.part p) :)
  simp only [boundaryPieces, hbatch, State.taken_poolsOnly h, State.cancelled_poolsOnly h, State.namesOwn_poolsOnly h]

theorem State.labClear_eq (s : State) (p : Nat) : ∃ es, s.labClear p = { s with engines := es } :=
  List.foldlRecOn (motive := fun t : State => ∃ es, t = { s with engines := es }) _ _ ⟨s.engines, rfl⟩ fun t ht k _ => by
    obtain ⟨es, rfl⟩ := ht
    exact ⟨_, rfl⟩

theorem State.labClear_lab (s : State) {p k : Nat} (h : k ∈ partStacks s.mode p) : ((s.labClear p).engine k).lab = [] := by
  unfold State.labClear
  generalize partStacks s.mode p = l at h
  induction l generalizing s with
  | nil => cases h
  | cons j l ih =>
    rw [List.foldl_cons]
    by_cases hk : k ∈ l
    · exact ih _ hk
    · have hj : k = j := (List.mem_cons.1 h).resolve_right hk
      subst hj
      refine List.foldlRecOn (motive := fun t : State => (t.engine k).lab = []) _ _ (by rw [State.engine_updEngine]) fun t ht i hi => ?_
      have hne : k ≠ i := fun he => hk (he ▸ hi)
      rw [State.engine_updEngine_ne _ _ hne]
      exact ht

/-- A partition at the moment the boundary of its step begins. -/
def Part.opened (t : Part) : Part := { t with
  phase := .boundary, wake := false, srvEn := t.srvEn && !t.srvOff, srvOff := false, steps := t.steps + 1 }

/-- The part at the moment a boundary begins: lookaside buffers are clear. -/
def boundaryOpened (s : State) (p : Nat) : State := (s.labClear p).updPart p Part.opened

/-- With its units back in the pools the boundary has its list of pieces. -/
theorem Bd.firstPart_ended (s : State) (p : Nat) : ({ s := s } : Bd).firstPart p true =
    (({ s := boundaryOpened s p } : Bd).returnUnits p).on (fun u => u.updPart p (fun t => { t with
      reqs := [], jobs := boundaryPieces (({ s := boundaryOpened s p } : Bd).returnUnits p).s p })) := rfl

theorem boundaryPieces_opened : boundaryPieces (boundaryOpened s p) p = boundaryPieces s p := by
  obtain ⟨es, hes⟩ := s.labClear_eq p
  have hpart : (boundaryOpened s p).part p = (s.part p).opened := by
    rw [boundaryOpened, State.part_updPart, hes]
    rfl
  have htaken : (boundaryOpened s p).taken p = s.taken p := by
    rw [State.taken, hpart, State.taken]
    have hfunc (fn : Nat) : (boundaryOpened s p).aborting fn = s.aborting fn := by
      rw [boundaryOpened, hes]
      rfl
    simp only [hfunc, Part.opened]
  have hnames (fn r : Nat) : (boundaryOpened s p).namesOwn p fn r = s.namesOwn p fn r := by
    simp only [State.namesOwn, State.slot, hpart]
    rfl
  have hcancelled : (boundaryOpened s p).cancelled p = s.cancelled p := by
    simp only [State.cancelled, htaken, hnames]
  simp only [boundaryPieces, hpart, htaken, hcancelled, hnames]
  rfl

theorem State.whole_snd (s : State) (f : Bd → Bd) : (s.whole f).2 = (f { s := s }).ok := by
  unfold State.whole
  dsimp only
  cases (f { s := s }).ok <;> rfl

theorem State.whole_of_ok {f : Bd → Bd} (h : (f { s := s }).ok = true) : s.whole f = ((f { s := s }).s, true) := if_pos h

/-- Where it need not wait for the host, an ended step's boundary begins. -/
theorem boundaryBegun_of_whole (d : Nat) (h : (s.whole (fun b => b.firstPart p true)).2 = true) :
    BoundaryBegun s ((s.whole (fun b => b.firstPart p true)).1.updPart p (fun q => { q with bndCycles := d % 2 ^ 32 })) p d := by
  have hok : (({ s := boundaryOpened s p } : Bd).returnUnits p).ok = true := (State.whole_snd s _).symm.trans h
  have hpools : PoolsOnly (boundaryOpened s p) (({ s := boundaryOpened s p } : Bd).returnUnits p).s := Bd.returnUnits_poolsOnly hok
  have hpieces : boundaryPieces (({ s := boundaryOpened s p } : Bd).returnUnits p).s p = boundaryPieces s p :=
    (boundaryPieces_poolsOnly hpools).trans boundaryPieces_opened
  rw [State.whole_of_ok (f := fun b => b.firstPart p true) hok, Bd.firstPart_ended, hpieces]
  dsimp only [Bd.on]
  obtain ⟨es, hes⟩ := s.labClear_eq p
  have hlab (k : Nat) (hk : k ∈ partStacks s.mode p) : ((boundaryOpened s p).engine k).lab = [] := s.labClear_lab hk
  have hpart : ((({ s := boundaryOpened s p } : Bd).returnUnits p).s.part p).settled = (s.part p).opened.settled := by
    rw [hpools.part, boundaryOpened, State.part_updPart, hes]
    rfl
  have hkept : (boundaryOpened s p).contexts = s.contexts ∧ (boundaryOpened s p).cores = s.cores := by
    rw [boundaryOpened, hes]
    exact ⟨rfl, rfl⟩
  generalize (({ s := boundaryOpened s p } : Bd).returnUnits p).s = u at hpools hpart
  have hu : ((u.updPart p (fun t => { t with reqs := [], jobs := boundaryPieces s p })).updPart p (fun q => { q with bndCycles := d % 2 ^ 32 })).part p =
      { u.part p with reqs := [], jobs := boundaryPieces s p, bndCycles := d % 2 ^ 32 } := by
    rw [State.part_updPart, State.part_updPart]
  constructor
  · rw [hu]
    exact (congrArg Part.steps hpart :)
  · rw [hu]
    exact ⟨(congrArg Part.phase hpart :), (congrArg Part.wake hpart :)⟩
  · rw [hu]
    exact ⟨rfl, rfl⟩
  · rw [hu]
    exact ⟨(congrArg Part.srvEn hpart :), (congrArg Part.srvOff hpart :)⟩
  · rw [hu]
    exact ⟨(congrArg Part.batch hpart :), (congrArg Part.stepFault hpart :), rfl⟩
  · exact fun k hk => hpools.lab k (hlab k hk)
  · refine ⟨hpools.contexts.trans hkept.1, fun c => (hpools.run c).trans ?_⟩
    rw [State.core, hkept.2, State.core]

end Boundary

/-! ## Rope messages (R252, R253) -/

section Rope

variable {s u : State} {p q op : Nat} {o : FabOp}

theorem Table.get_bump (t : Table Int) (k r : Nat) (d : Int) : Table.get 0 (t.bump k d) r = Table.get 0 t r + if r = k then d else 0 := by
  rw [Table.bump, Table.upd, Table.get_set]
  split
  next h => rw [h]
  · exact (Int.add_zero _).symm

/-- A count that a message adds to where it comes from the side that is counted. -/
theorem Table.get_bump_if (t : Table Int) (k r : Nat) (c : Prop) [Decidable c] :
    Table.get 0 (if c then t.bump k 1 else t) r = Table.get 0 t r + if c ∧ r = k then 1 else 0 := by
  by_cases h : c
  · simp [h, Table.get_bump]
  · simp [h]

theorem State.takeControl_eq (h : s.takeControl q op = some (u, o)) : ∃ rest, u = s.updPort q (fun k => { k with arrived := rest }) := by
  unfold State.takeControl at h
  split at h
  next o' rest _ =>
    split at h
    · cases h
      exact ⟨rest, rfl⟩
    · cases h
  · cases h

theorem State.ropeSend_frame (s : State) (p op round : Nat) :
    (s.ropeSend p op round).parts = s.parts ∧ (s.ropeSend p op round).mem = s.mem ∧ (s.ropeSend p op round).out = s.out := by
  unfold State.ropeSend
  dsimp only
  split <;> split
  · exact ⟨rfl, rfl, rfl⟩
  · exact ⟨rfl, rfl, rfl⟩
  · split <;> exact ⟨rfl, rfl, rfl⟩
  · split <;> exact ⟨rfl, rfl, rfl⟩

/-- A member that abandons the step, or had done so, sends no more than messages. -/
theorem State.ropeAbandon_spec (h : s.ropeOn p = true) :
    ((s.ropeAbandon p).part p).rope.abandoned = true ∧ (s.ropeAbandon p).mem = s.mem ∧ (s.ropeAbandon p).out = s.out := by
  unfold State.ropeAbandon
  dsimp only
  rw [h, Bool.not_true, Bool.false_or]
  split
  next habandoned => exact ⟨habandoned, rfl, rfl⟩
  · obtain ⟨hparts, hmem, hout⟩ := (s.updPart p (fun x => { x with rope := { x.rope with abandoned := true } })).ropeSend_frame p opABORT
      ((s.part p).rope.round - 1)
    refine ⟨?_, hmem, hout⟩
    rw [State.part, hparts]
    exact congrArg (fun t : Part => t.rope.abandoned) (State.part_updPart ..)

end Rope

end Sys2Proof.Machine

namespace Sys2Proof.Proofs

open Sys2Proof.Machine

/-- Settles O19: a message is counted for the sides it comes from, and a round begins with the record that the scheduler issues. -/
theorem ropeRoundsFollowTheNeighbours : Obligations.RopeRoundsFollowTheNeighbours := by
  unfold Obligations.RopeRoundsFollowTheNeighbours
  refine ⟨?_, ?_, ?_⟩
  · intro s u q o hctl hon
    obtain ⟨rest, hu⟩ := State.takeControl_eq hctl
    have hexec : exec (.ropeEnded q) s = execRopeEnded q s := rfl
    unfold execRopeEnded at hexec
    rw [hctl] at hexec
    dsimp only at hexec
    obtain ⟨hmode, hpart, hprev, hnext, hmem, hout⟩ : u.mode = s.mode ∧ u.part (partOfPort s.mode q) = s.part (partOfPort s.mode q) ∧
        u.ropePrev (partOfPort s.mode q) = s.ropePrev (partOfPort s.mode q) ∧
        u.ropeNext (partOfPort s.mode q) = s.ropeNext (partOfPort s.mode q) ∧ u.mem = s.mem ∧ u.out = s.out := by
      rw [hu]
      exact ⟨rfl, rfl, rfl, rfl, rfl, rfl⟩
    rw [hmode, hon, if_neg (by decide), hprev, hnext] at hexec
    refine ⟨_, hexec, fun r => ?_, fun r => ?_, ?_, hout, hmem⟩
    · rw [State.part_updPart, hpart]
      exact Table.get_bump_if ..
    · rw [State.part_updPart, hpart]
      exact Table.get_bump_if ..
    · rw [State.part_updPart, hpart]
  · intro s u q o hctl hon
    obtain ⟨rest, hu⟩ := State.takeControl_eq hctl
    have hexec : exec (.ropeAbort q) s = execRopeAbort q s := rfl
    unfold execRopeAbort at hexec
    rw [hctl] at hexec
    dsimp only at hexec
    have hmode : u.mode = s.mode := by rw [hu]; rfl
    obtain ⟨habandoned, hmem, hout⟩ := State.ropeAbandon_spec hon
    rw [hmode] at hexec
    exact ⟨_, hexec, habandoned, by rw [hout, hu]; rfl, by rw [hmem, hu]; rfl⟩
  · intro s p hdue hon hgoes hended hgood
    have hmay : (s.part p).rope.mayStart = true := by
      simp only [Rope.mayStart, Bool.or_eq_true, beq_iff_eq, Bool.and_eq_true, decide_eq_true_eq]
      simpa [and_assoc] using hended
    obtain ⟨hkidx, hrope⟩ := State.issueKernel_counts (s := s) (p := p) hgood
    have hexec : exec (.ropeRoundStart p) s = execRopeRoundStart p s := rfl
    unfold execRopeRoundStart at hexec
    dsimp only at hexec
    rw [hdue, hon, hgoes, hmay, if_pos (by decide), if_neg (by omega)] at hexec
    refine ⟨_, hexec, ?_, ?_⟩
    · rw [State.part_updPart]
      exact hkidx
    · rw [State.part_updPart]

/-- Settles O49: a record becomes the pending start or ends the step, and a boundary begins with its list of pieces. -/
theorem stepsIssueKernelsAndEnd : Obligations.StepsIssueKernelsAndEnd := by
  unfold Obligations.StepsIssueKernelsAndEnd
  refine ⟨?_, ?_, ?_, ?_⟩
  · intro s p hdue hrope hgood hok
    have hissue : s.issueKernel p = ((recordIssued s p).updContext p (s.part p).srvCtx (fun c =>
        { c with pending := some (recordStart s p) })).preemptAll p := (State.issueKernel_of_good hgood).trans (if_pos hok)
    have hpart := recordIssued_part (s := s) (p := p)
    have hsaves := State.preemptAll_savesOnly ((recordIssued s p).updContext p (s.part p).srvCtx (fun c =>
      { c with pending := some (recordStart s p) })) p
    have hparts := State.part_congr hsaves.1.part p
    refine ⟨_, exec_stepKernelIssue hdue hrope, ?_⟩
    rw [hissue]
    refine ⟨?_, ?_, ?_, ?_, ?_⟩
    · rw [hparts]
      exact (congrArg Part.kidx hpart :)
    · rw [hparts]
      exact (congrArg Part.kpending hpart :)
    · rw [hsaves.pending, State.context_updContext]
      rfl
    · exact (congrArg State.mem hsaves.1.1 :)
    · exact (congrArg State.out hsaves.1.1 :)
  · intro s p st hdue hrope hfault hst
    have hpart := s.takeWork_part (stepRecord s p).2 p
    have hnone : ((s.takeWork (stepRecord s p).2).part p).stepFault = none := by
      refine (congrArg Part.stepFault hpart :).trans ?_
      simp only [State.kernelDue, Bool.and_eq_true, Option.isNone_iff_eq_none] at hdue
      exact hdue.1.2
    have hkidx : ((s.takeWork (stepRecord s p).2).part p).kidx = (s.part p).kidx := (congrArg Part.kidx hpart :)
    refine ⟨_, exec_stepKernelIssue hdue hrope, ?_⟩
    rw [State.issueKernel_of_fault hfault, State.stepReport_eq, State.part_updPart]
    generalize (s.takeWork (stepRecord s p).2).part p = t at hnone hkidx
    rw [← hkidx]
    exact t.stepReported_spec hst hnone
  · intro s p hdue hrope hgood hok
    obtain ⟨cs, he⟩ := (recordIssued s p).endStart_refused p (s.part p).srvCtx (st := recordStart s p) rfl
    have hissue : s.issueKernel p = (recordIssued s p).endStart p (s.part p).srvCtx (recordStart s p) 0x0102 :=
      (State.issueKernel_of_good hgood).trans (if_neg (Bool.not_eq_true _ ▸ hok))
    have hpart := recordIssued_part (s := s) (p := p)
    have hnone : ((recordIssued s p).part p).stepFault = none := by
      refine (congrArg Part.stepFault hpart :).trans ?_
      simp only [State.kernelDue, Bool.and_eq_true, Option.isNone_iff_eq_none] at hdue
      exact hdue.1.2
    refine ⟨_, exec_stepKernelIssue hdue hrope, ?_⟩
    rw [hissue, he, State.part_updPart]
    have hcores : (({ recordIssued s p with cores := cs } : State).part p) = (recordIssued s p).part p := rfl
    rw [hcores]
    obtain ⟨hkidx, hlast, hpending, hfault⟩ := ((recordIssued s p).part p).stepReported_spec (status := 0x0102) (by decide) hnone
    refine ⟨hkidx.trans (congrArg Part.kidx hpart :), hpending, hlast, hfault (by decide) (by decide), ?_, s.takeWork_contexts .., rfl, rfl,
      (congrArg Part.jobs hpart :), (congrArg Part.steps hpart :)⟩
    exact Bool.or_true _
  · intro s p d hlive hp hdone hread hwhole
    refine ⟨_, ?_, boundaryBegun_of_whole d hwhole⟩
    have hexec : exec (.stepBoundary p d) s = execStepBoundary p d s := rfl
    unfold execStepBoundary at hexec
    rw [hlive, hdone, hread, if_neg (by simpa using hp), if_pos (by decide)] at hexec
    rw [hexec]
    generalize hw : s.whole (fun b => b.firstPart p true) = w at hwhole
    obtain ⟨t, ok⟩ := w
    dsimp only at hwhole
    subst hwhole
    rfl

end Sys2Proof.Proofs
end

section
/-! PROOFS. Requests of other nodes, and the answers to this node's own (R297, R311, R315, R316). -/

namespace Sys2Proof.Machine

/-! ## Responses -/

section Respond

variable {s : State} {p q : Nat} {o : FabOp} {rest : List FabOp}

/-- A response waits at a port, or is dropped where the way is gone. -/
theorem State.respond_eq (s : State) (p : Nat) (o : FabOp) (op lines status : Nat) (data : List Byte) :
    s.respond p o op lines status data = s ∨ ∃ q x, s.respond p o op lines status data = s.egress q x := by
  unfold State.respond State.sendOp
  dsimp only
  cases s.route p _ with
  | none => exact .inl rfl
  | some q => exact .inr ⟨q, _, rfl⟩

theorem State.respond_frame (s : State) (p : Nat) (o : FabOp) (op lines status : Nat) (data : List Byte) :
    (s.respond p o op lines status data).mem = s.mem ∧ (s.respond p o op lines status data).parts = s.parts ∧
      (s.respond p o op lines status data).cores = s.cores := by
  rcases s.respond_eq p o op lines status data with h | ⟨q, x, h⟩ <;> rw [h]
  · exact ⟨rfl, rfl, rfl⟩
  · exact ⟨rfl, rfl, rfl⟩

theorem State.egress_arrived (s : State) (r q : Nat) (x : FabOp) : ((s.egress r x).port q).arrived = (s.port q).arrived := by
  unfold State.egress
  dsimp only
  by_cases h : q = r
  · rw [h, State.port_setPort]
  · rw [State.port, State.setPort, Table.get_set_ne _ _ _ h, State.port]

theorem State.respond_arrived (s : State) (p : Nat) (o : FabOp) (op lines status : Nat) (data : List Byte) (q : Nat) :
    ((s.respond p o op lines status data).port q).arrived = (s.port q).arrived := by
  rcases s.respond_eq p o op lines status data with h | ⟨r, x, h⟩ <;> rw [h]
  exact State.egress_arrived ..

/-- A request that is refused leaves the port, and its response waits. -/
theorem respond_refused (s : State) (p q : Nat) (o : FabOp) (rest : List FabOp) (op lines status : Nat) (data : List Byte) (t : State)
    (h : t = (s.updPort q (fun x => { x with arrived := rest })).respond p o op lines status data) :
    t.mem = s.mem ∧ t.parts = s.parts ∧ t.cores = s.cores ∧ (t.port q).arrived = rest := by
  obtain ⟨hmem, hparts, hcores⟩ := (s.updPort q (fun x => { x with arrived := rest })).respond_frame p o op lines status data
  rw [h]
  exact ⟨hmem, hparts, hcores, (State.respond_arrived ..).trans (congrArg Port.arrived (State.port_updPort ..))⟩

end Respond

/-! ## Queues of a core -/

/-- A queue's number past the last names the last. -/
theorem Core.queue_setQueue_of (k : Core) (q j : Nat) (v : QueueSt) : (k.setQueue q v).queue j = v ∨ (k.setQueue q v).queue j = k.queue j := by
  unfold Core.setQueue Core.queue
  split_ifs <;> simp

/-! ## Operations that end (R315, R316) -/

section Ends

variable {s : State} {p tag : Nat} {r : OutReq}

/-- What the end of its operation leaves in a queue: the lines or the status of a read, the count and a fault of a write. -/
def QueueSt.opEnds (q : QueueSt) (r : OutReq) (status : Nat) (data : List Byte) : QueueSt :=
  if r.write then
    if status = 0 then { q with remoteOut := q.remoteOut - 1 }
    else ({ q with remoteOut := q.remoteOut - 1 } : QueueSt).failLate
      { status := status, tag := r.cmdTag, count := r.cmdCount, queue := r.queue, core := r.core }
  else q.land r.line r.lines (fun i => if status = 0 then .data ((data.drop (64 * i)).take 64) else .failed status)

/-- The part without an operation, the bytes of whose answer its kernel has received. -/
def State.opGone (s : State) (p tag : Nat) (r : OutReq) (status : Nat) : State :=
  if r.write = false ∧ status = 0 then
    (s.updPart p (fun x => { x with outstanding := Table.del x.outstanding tag })).addMoved r.core 3 (64 * r.lines)
  else s.updPart p (fun x => { x with outstanding := Table.del x.outstanding tag })

theorem State.finishOp_of_outstanding {k : Nat} (h : (s.part p).outstanding.find? (fun x => x.1 == tag) = some (k, r)) (status : Nat)
    (data : List Byte) : s.finishOp p tag status data = (s.opGone p tag r status).updQueue r.core r.queue (fun q => q.opEnds r status data) := by
  unfold State.finishOp State.opGone QueueSt.opEnds
  rw [h]
  dsimp only
  cases hw : r.write with
  | true => rw [if_pos rfl, if_neg (by simp)]; rfl
  | false =>
    rw [if_neg Bool.false_ne_true]
    by_cases hst : status = 0
    · simp only [hst, if_true, and_true, if_false, Bool.false_eq_true]
    · simp only [hst, if_false, and_false, Bool.false_eq_true]

theorem State.addMoved_frame (s : State) (c i n : Nat) : (s.addMoved c i n).parts = s.parts ∧ (s.addMoved c i n).cores = s.cores ∧
    (s.addMoved c i n).mem = s.mem ∧ (s.addMoved c i n).out = s.out ∧ (s.addMoved c i n).ports = s.ports := by
  unfold State.addMoved
  split <;> exact ⟨rfl, rfl, rfl, rfl, rfl⟩

theorem State.opGone_frame (s : State) (p tag : Nat) (r : OutReq) (status : Nat) :
    (s.opGone p tag r status).cores = s.cores ∧ (s.opGone p tag r status).mem = s.mem ∧ (s.opGone p tag r status).out = s.out ∧
      (s.opGone p tag r status).ports = s.ports ∧
      ((s.opGone p tag r status).part p).outstanding = Table.del (s.part p).outstanding tag := by
  have hdel : ((s.updPart p (fun x => { x with outstanding := Table.del x.outstanding tag })).part p).outstanding =
      Table.del (s.part p).outstanding tag := congrArg Part.outstanding (State.part_updPart ..)
  unfold State.opGone
  split
  · obtain ⟨hparts, hcores, hmem, hout, hports⟩ :=
      (s.updPart p (fun x => { x with outstanding := Table.del x.outstanding tag })).addMoved_frame r.core 3 (64 * r.lines)
    refine ⟨hcores, hmem, hout, hports, ?_⟩
    rw [State.part_congr hparts]
    exact hdel
  · exact ⟨rfl, rfl, rfl, rfl, hdel⟩

theorem Table.has_del {α : Type} (t : Table α) (k : Nat) : Table.has (Table.del t k) k = false := by
  simp [Table.has, Table.del]

theorem QueueSt.opEnds_backlog (q : QueueSt) (r : OutReq) (status : Nat) (data : List Byte) : (q.opEnds r status data).backlog = q.backlog := by
  unfold QueueSt.opEnds
  split
  · split
    · rfl
    · unfold QueueSt.failLate
      split <;> rfl
  · rfl

theorem State.drainBacklogs_of_none (h : NoBacklog s) : s.drainBacklogs p = s := by
  refine foldl_fixed fun c _ => foldl_fixed fun q _ => ?_
  rw [h]
  rfl

/-- An operation that ends where no queue has pieces that wait for room ends and nothing follows. -/
theorem State.finishOp_noBacklog {k : Nat} (h : (s.part p).outstanding.find? (fun x => x.1 == tag) = some (k, r)) (hnone : NoBacklog s)
    (status : Nat) (data : List Byte) : NoBacklog (s.finishOp p tag status data) := by
  rw [State.finishOp_of_outstanding h]
  obtain ⟨hcores, -⟩ := s.opGone_frame p tag r status
  have hcore (c : Nat) : (s.opGone p tag r status).core c = s.core c := by rw [State.core, hcores, State.core]
  intro c q
  by_cases hc : c = r.core
  · rw [hc, State.updQueue, State.core_updCore, hcore]
    rcases (s.core r.core).queue_setQueue_of r.queue q (((s.core r.core).queue r.queue).opEnds r status data) with he | he <;> rw [he]
    · rw [QueueSt.opEnds_backlog]
      exact hnone ..
    · exact hnone ..
  · rw [State.updQueue, State.core_updCore_ne _ _ hc, hcore]
    exact hnone ..

/-- What the end of an operation comes to. -/
theorem State.finishOp_spec {k : Nat} (h : (s.part p).outstanding.find? (fun x => x.1 == tag) = some (k, r)) (status : Nat) (data : List Byte) :
    ((s.finishOp p tag status data).core r.core).queue r.queue = ((s.core r.core).queue r.queue).opEnds r status data ∧
      Table.has ((s.finishOp p tag status data).part p).outstanding tag = false ∧ (s.finishOp p tag status data).mem = s.mem ∧
      (s.finishOp p tag status data).out = s.out ∧ (s.finishOp p tag status data).ports = s.ports := by
  rw [State.finishOp_of_outstanding h]
  obtain ⟨hcores, hmem, hout, hports, hdel⟩ := s.opGone_frame p tag r status
  refine ⟨?_, ?_, hmem, hout, hports⟩
  · rw [State.updQueue, State.core_updCore, Core.queue_setQueue_self, State.core, hcores, State.core]
  · change Table.has ((s.opGone p tag r status).part p).outstanding tag = false
    rw [hdel, Table.has_del]

theorem QueueSt.land_get (q : QueueSt) (line n : Nat) (v : Nat → Landing) {i : Nat} (hi : i < n) :
    Table.get .asked (q.land line n v).landing (line + i) = v i := by
  have hfold (t : Table Landing) : Table.get .asked ((List.range n).foldl (fun t i => Table.set t (line + i) (v i)) t) (line + i) = v i := by
    induction n with
    | zero => omega
    | succ n ih =>
      rw [List.range_succ, List.foldl_append, List.foldl_cons, List.foldl_nil, Table.get_set]
      by_cases h : i = n
      · rw [if_pos (by omega), h]
      · rw [if_neg (by omega)]
        exact ih (by omega)
  exact hfold _

theorem QueueSt.opEnds_read (q : QueueSt) {r : OutReq} (h : r.write = false) (status : Nat) (data : List Byte) {i : Nat} (hi : i < r.lines) :
    Table.get .asked (q.opEnds r status data).landing (r.line + i) =
      if status = 0 then .data ((data.drop (64 * i)).take 64) else .failed status := by
  rw [QueueSt.opEnds, h, if_neg Bool.false_ne_true, QueueSt.land_get _ _ _ _ hi]

theorem QueueSt.opEnds_write (q : QueueSt) {r : OutReq} (h : r.write = true) (status : Nat) (data : List Byte) :
    (q.opEnds r status data).remoteOut = q.remoteOut - 1 ∧ (status = 0 → (q.opEnds r status data).lateFault = q.lateFault) ∧
      (status ≠ 0 → q.lateFault = none → (q.opEnds r status data).lateFault =
        some { status := status, tag := r.cmdTag, count := r.cmdCount, queue := r.queue, core := r.core }) := by
  rw [QueueSt.opEnds, h, if_pos rfl]
  by_cases hst : status = 0
  · rw [if_pos hst]
    exact ⟨rfl, fun _ => rfl, fun hne => absurd hst hne⟩
  · rw [if_neg hst, QueueSt.failLate]
    split
    next f hf => exact ⟨rfl, fun he => absurd he hst, fun _ hnone => nomatch hf.symm.trans hnone⟩
    next => exact ⟨rfl, fun he => absurd he hst, fun _ _ => rfl⟩

end Ends

/-! ## Responses that arrive (R316) -/

section Response

variable {s : State} {q op : Nat} {o : FabOp} {rest : List FabOp} {r : OutReq}

theorem State.responseStatus_eq_zero_iff (s : State) (v : Nat) : s.responseStatus v = 0 ↔ v = 0 := by
  unfold State.responseStatus
  split
  · exact .rfl
  next h =>
    have hv : v ≠ 0 := fun he => h (by rw [he]; rfl)
    have hlt := Nat.mod_lt (Config.freeChoice s.mem.fresh v) (show 3 > 0 by decide)
    generalize Config.freeChoice s.mem.fresh v % 3 = i at hlt
    have hne : ∀ i, i < 3 → [0x0102, 0x0401, 0x0402].getD i 0x0402 ≠ 0 := by decide
    exact ⟨fun he => absurd he (hne i hlt), fun he => absurd he hv⟩

theorem State.responseStatus_mem (s : State) {v : Nat} (hv : v ≠ 0) :
    s.responseStatus v = 0x0102 ∨ s.responseStatus v = 0x0401 ∨ s.responseStatus v = 0x0402 := by
  unfold State.responseStatus
  split
  next h =>
    have hmem := List.contains_iff_mem.1 h
    simpa [hv] using hmem
  next =>
    have hlt := Nat.mod_lt (Config.freeChoice s.mem.fresh v) (show 3 > 0 by decide)
    generalize Config.freeChoice s.mem.fresh v % 3 = i at hlt
    have hall : ∀ i, i < 3 → [0x0102, 0x0401, 0x0402].getD i 0x0402 = 0x0102 ∨ [0x0102, 0x0401, 0x0402].getD i 0x0402 = 0x0401 ∨
        [0x0102, 0x0401, 0x0402].getD i 0x0402 = 0x0402 := by decide
    exact hall i hlt

/-- The part once a response has been taken from its port: nothing is fixed but what the response decides. -/
def State.responseTaken (s : State) (q : Nat) (rest : List FabOp) : State :=
  { s.updPort q (fun k => { k with arrived := rest }) with mem := { s.mem with fresh := s.mem.fresh + 1 } }

theorem State.takeResponse_of_outstanding (hfirst : (s.port q).firstOf 1 = some (o, rest)) (hop : o.op = op)
    (hout : (s.part (partOfPort s.mode q)).outstanding.find? (fun x => x.1 == o.tag) = some (o.tag, r)) (hw : r.write = (op == opWRITEACK))
    (hnone : NoBacklog s) : s.takeResponse q op =
      (s.responseTaken q rest).finishOp (partOfPort s.mode q) o.tag (s.responseStatus (fld o.line 15 0)) o.data := by
  have hbacklog : NoBacklog (s.responseTaken q rest) := hnone
  have hfind : ((s.responseTaken q rest).part (partOfPort s.mode q)).outstanding.find? (fun x => x.1 == o.tag) = some (o.tag, r) := hout
  have hfind' : ((s.updPort q (fun k => { k with arrived := rest })).part (partOfPort s.mode q)).outstanding.find? (fun x => x.1 == o.tag) =
      some (o.tag, r) := hout
  unfold State.takeResponse
  rw [hfirst]
  dsimp only
  rw [if_neg (not_not.2 hop), hfind']
  dsimp only
  rw [if_pos (by rw [hw, beq_self_eq_true])]
  exact State.drainBacklogs_of_none (State.finishOp_noBacklog hfind hbacklog _ _)

/-- What a response that answers an operation comes to, but for its queue. -/
theorem State.takeResponse_spec (hfirst : (s.port q).firstOf 1 = some (o, rest)) (hop : o.op = op)
    (hout : (s.part (partOfPort s.mode q)).outstanding.find? (fun x => x.1 == o.tag) = some (o.tag, r)) (hw : r.write = (op == opWRITEACK))
    (hnone : NoBacklog s) :
    ((s.takeResponse q op).core r.core).queue r.queue =
        ((s.core r.core).queue r.queue).opEnds r (s.responseStatus (fld o.line 15 0)) o.data ∧
      ((s.takeResponse q op).port q).arrived = rest ∧
      Table.has ((s.takeResponse q op).part (partOfPort s.mode q)).outstanding o.tag = false ∧
      { (s.takeResponse q op).mem with fresh := s.mem.fresh } = s.mem ∧ (s.takeResponse q op).out = s.out := by
  have hfind : ((s.responseTaken q rest).part (partOfPort s.mode q)).outstanding.find? (fun x => x.1 == o.tag) = some (o.tag, r) := hout
  obtain ⟨hqueue, hhas, hmem, hout', hports⟩ := State.finishOp_spec hfind (s.responseStatus (fld o.line 15 0)) o.data
  rw [State.takeResponse_of_outstanding hfirst hop hout hw hnone]
  refine ⟨hqueue, ?_, hhas, ?_, hout'⟩
  · rw [State.port, hports]
    exact congrArg Port.arrived (State.port_updPort s q fun k => { k with arrived := rest })
  · rw [hmem]
    rfl

end Response

end Sys2Proof.Machine

namespace Sys2Proof.Proofs

open Sys2Proof.Machine

/-- Settles O17: work that is good is taken and answered, and a request that may not be served reaches no memory. -/
theorem remoteRequestsAreServedOrRefused : Obligations.RemoteRequestsAreServedOrRefused := by
  unfold Obligations.RemoteRequestsAreServedOrRefused
  refine ⟨?_, ?_, ?_⟩
  · intro s q o rest hfirst hop hok hidle hgood
    obtain ⟨hfault, hwait⟩ := (Wk.good_iff _).1 hgood
    have hexec : exec (.read q) s = execRead q s := rfl
    unfold execRead at hexec
    rw [hfirst] at hexec
    dsimp only at hexec
    rw [hop, hok, State.freedFrom_idle _ hidle, hfault, hwait] at hexec
    exact hexec
  · intro s q o rest hfirst hop hok hidle hgood hlate
    obtain ⟨hfault, hwait⟩ := (Wk.good_iff _).1 hgood
    have hexec : exec (.write q) s = execWrite q s := rfl
    unfold execWrite at hexec
    rw [hfirst] at hexec
    dsimp only at hexec
    rw [hop, hok, State.freedFrom_idle _ hidle, hfault, hwait, hlate] at hexec
    exact hexec
  · intro s q o rest hfirst hno
    refine ⟨fun hop => ?_, fun hop => ?_⟩
    · have hexec : exec (.read q) s = execRead q s := rfl
      unfold execRead at hexec
      rw [hfirst] at hexec
      dsimp only at hexec
      rw [hop, hno] at hexec
      obtain ⟨hmem, hparts, hcores, harrived⟩ := respond_refused s (partOfPort s.mode q) q o rest opREADRSP 0 0x0102 [] _ rfl
      exact ⟨_, hexec, hmem, hparts, hcores, harrived, rfl⟩
    · have hexec : exec (.write q) s = execWrite q s := rfl
      unfold execWrite at hexec
      rw [hfirst] at hexec
      dsimp only at hexec
      rw [hop, hno] at hexec
      obtain ⟨hmem, hparts, hcores, harrived⟩ := respond_refused s (partOfPort s.mode q) q o rest opWRITEACK 0 0x0102 [] _ rfl
      exact ⟨_, hexec, hmem, hparts, hcores, harrived, rfl⟩

/-- Settles O18: an operation that ends leaves its lines, its status or one write less in the queue that waits for it. -/
theorem answersReachTheQueueThatWaits : Obligations.AnswersReachTheQueueThatWaits := by
  unfold Obligations.AnswersReachTheQueueThatWaits
  refine ⟨?_, ?_, fun s v => ⟨(s.responseStatus_eq_zero_iff v).2, s.responseStatus_mem⟩, ?_⟩
  · intro s q o rest r hfirst hop hout hw hnone
    obtain ⟨hqueue, harrived, hhas, hmem, hout'⟩ := State.takeResponse_spec hfirst hop hout hw hnone
    refine ⟨_, rfl, harrived, hhas, fun i hi => ?_, hmem, hout'⟩
    rw [hqueue, QueueSt.opEnds_read _ hw _ _ hi]
    simp only [State.responseStatus_eq_zero_iff]
  · intro s q o rest r hfirst hop hout hw hnone
    obtain ⟨hqueue, harrived, hhas, hmem, hout'⟩ := State.takeResponse_spec hfirst hop hout hw hnone
    obtain ⟨hcount, hgood, hbad⟩ := ((s.core r.core).queue r.queue).opEnds_write hw (s.responseStatus (fld o.line 15 0)) o.data
    rw [State.responseStatus_eq_zero_iff] at hgood
    rw [Ne, State.responseStatus_eq_zero_iff] at hbad
    rw [← hqueue] at hcount hgood hbad
    exact ⟨_, rfl, harrived, hhas, hcount, hgood, hbad, hmem, hout'⟩
  · intro s p tag r hout hnone
    obtain ⟨hqueue, hhas, hmem, hout', -⟩ := State.finishOp_spec hout 0x0401 []
    have hexec : exec (.responseTimeout p tag) s = .next (s.finishOp p tag 0x0401 []) :=
      congrArg Host.Outcome.next (State.drainBacklogs_of_none (State.finishOp_noBacklog hout hnone _ _))
    refine ⟨_, hexec, hhas, fun hw i hi => ?_, fun hw => ?_, hmem, hout'⟩
    · rw [hqueue, QueueSt.opEnds_read _ hw _ _ hi]
      rfl
    · rw [hqueue]
      exact (QueueSt.opEnds_write _ hw _ _).2.2 (by decide)

end Sys2Proof.Proofs
end

section
/-! PROOFS. Flits, the retry of a link, and its loss (R303, R304, R315). -/

namespace Sys2Proof.Machine

/-! ## The form of a flit (R303) -/

section Flit

/-- Fields of one width packed one behind the other. -/
theorem packed_foldl (a : Nat → Nat) (o w : Nat) : ∀ n, (∀ i, i < n → a i < 2 ^ w) →
    ∃ m, m < 2 ^ (w * n) ∧ ((List.range n).map (fun i => a i * 2 ^ (o + w * i))).foldl (· + ·) 0 = 2 ^ o * m := by
  intro n
  induction n with
  | zero => exact fun _ => ⟨0, by simp, rfl⟩
  | succ n ih =>
    intro h
    obtain ⟨m, hm, hsum⟩ := ih fun i hi => h i (by omega)
    refine ⟨m + 2 ^ (w * n) * a n, ?_, ?_⟩
    · have han : a n + 1 ≤ 2 ^ w := h n (by omega)
      calc m + 2 ^ (w * n) * a n < 2 ^ (w * n) * (a n + 1) := by rw [Nat.mul_succ]; omega
        _ ≤ 2 ^ (w * n) * 2 ^ w := Nat.mul_le_mul_left _ han
        _ = 2 ^ (w * (n + 1)) := by rw [← Nat.pow_add, Nat.mul_succ]
    · rw [List.range_succ, List.map_append, List.foldl_append, hsum]
      simp only [List.map_cons, List.map_nil, List.foldl_cons, List.foldl_nil]
      rw [Nat.pow_add]
      ring

theorem crcStep_lt (n : Nat) : ∀ {c : Nat}, c < 2 ^ 32 → crcStep c n < 2 ^ 32 := by
  induction n with
  | zero => exact id
  | succ n ih =>
    intro c hc
    rw [crcStep]
    refine ih ?_
    split
    · exact Nat.xor_lt_two_pow (by omega) (by decide)
    · omega

theorem crc32_lt (bs : List Byte) : crc32 bs < 2 ^ 32 := by
  unfold crc32
  refine Nat.xor_lt_two_pow ?_ (by decide)
  refine List.foldlRecOn (motive := fun c => c < 2 ^ 32) _ _ (by decide) fun c hc b _ => crcStep_lt 8 ?_
  exact Nat.xor_lt_two_pow hc (lt_trans b.isLt (by decide))

/-- A number below the CRC, and the CRC above it. -/
theorem fld_crc {body c : Nat} (hbody : body < 2 ^ 2016) (hc : c < 2 ^ 32) :
    fld (body + 2 ^ 2016 * c) 2047 2016 = c ∧ (body + 2 ^ 2016 * c) % 2 ^ 2016 = body ∧ body + 2 ^ 2016 * c < 2 ^ 2048 := by
  have hpow : (2 : Nat) ^ 2048 = 2 ^ 2016 * 2 ^ 32 := by rw [show 2048 = 2016 + 32 from rfl, Nat.pow_add]
  refine ⟨?_, ?_, ?_⟩
  · rw [fld_eq_div, Nat.add_mul_div_left _ _ (Nat.two_pow_pos 2016), Nat.div_eq_of_lt hbody, Nat.zero_add]
    exact Nat.mod_eq_of_lt hc
  · rw [Nat.add_mul_mod_self_left, Nat.mod_eq_of_lt hbody]
  · rw [hpow]
    calc body + 2 ^ 2016 * c < 2 ^ 2016 * (c + 1) := by rw [Nat.mul_succ]; omega
      _ ≤ 2 ^ 2016 * 2 ^ 32 := Nat.mul_le_mul_left _ hc

/-- The fields below the credits of a flit. -/
theorem flit_low {seq ack : Nat} (hseq : seq < 4096) (hack : ack < 4096) (nak idle : Bool) (k : Nat) :
    fld (seq + 2 ^ 12 * ack + 2 ^ 24 * b2n nak + 2 ^ 25 * b2n idle + 2 ^ 32 * k) 11 0 = seq ∧
      fld (seq + 2 ^ 12 * ack + 2 ^ 24 * b2n nak + 2 ^ 25 * b2n idle + 2 ^ 32 * k) 23 12 = ack ∧
      (seq + 2 ^ 12 * ack + 2 ^ 24 * b2n nak + 2 ^ 25 * b2n idle + 2 ^ 32 * k).testBit 24 = nak ∧
      (seq + 2 ^ 12 * ack + 2 ^ 24 * b2n nak + 2 ^ 25 * b2n idle + 2 ^ 32 * k).testBit 25 = idle := by
  have hbit (b : Bool) : b2n b = 0 ∧ b = false ∨ b2n b = 1 ∧ b = true := by cases b <;> simp [b2n]
  have hnak := hbit nak
  have hidle := hbit idle
  simp only [fld_eq_div, Nat.testBit_eq_decide_div_mod_eq]
  refine ⟨by omega, by omega, ?_, ?_⟩
  · rcases hnak with ⟨hn, rfl⟩ | ⟨hn, rfl⟩
    · rw [decide_eq_false_iff_not]; omega
    · rw [decide_eq_true_iff]; omega
  · rcases hidle with ⟨hn, rfl⟩ | ⟨hn, rfl⟩
    · rw [decide_eq_false_iff_not]; omega
    · rw [decide_eq_true_iff]; omega

/-- A flit holds what it was made of, and its CRC. -/
theorem mkFlit_spec {seq ack : Nat} (hseq : seq < 4096) (hack : ack < 4096) (nak idle : Bool) {credits : List Nat}
    (hcredits : ∀ i, i < 6 → credits.getD i 0 < 2 ^ 8) (slots : List (BitVec 128)) :
    flitCrcOk (mkFlit seq ack nak idle credits slots) = true ∧ fld (mkFlit seq ack nak idle credits slots).toNat 11 0 = seq ∧
      fld (mkFlit seq ack nak idle credits slots).toNat 23 12 = ack ∧ (mkFlit seq ack nak idle credits slots).toNat.testBit 24 = nak ∧
      (mkFlit seq ack nak idle credits slots).toNat.testBit 25 = idle := by
  obtain ⟨m, hm, hcr⟩ := packed_foldl (fun i => credits.getD i 0) 32 8 6 hcredits
  obtain ⟨n, hn, hsl⟩ := packed_foldl (fun i => (slots.getD i 0).toNat) 96 128 15 fun i _ => (slots.getD i 0).isLt
  have hbody : ∃ body, body < 2 ^ 2016 ∧ body = seq + 2 ^ 12 * ack + 2 ^ 24 * b2n nak + 2 ^ 25 * b2n idle + 2 ^ 32 * (m + 2 ^ 64 * n) ∧
      mkFlit seq ack nak idle credits slots = BitVec.ofNat 2048 (body + 2 ^ 2016 * crc32 (leBytes 252 body)) := by
    refine ⟨seq + 2 ^ 12 * ack + 2 ^ 24 * b2n nak + 2 ^ 25 * b2n idle + 2 ^ 32 * m + 2 ^ 96 * n, ?_, by ring, ?_⟩
    · have hlow : seq + 2 ^ 12 * ack + 2 ^ 24 * b2n nak + 2 ^ 25 * b2n idle + 2 ^ 32 * m < 2 ^ 96 := by
        have hbit (b : Bool) : b2n b ≤ 1 := by cases b <;> simp [b2n]
        have hnak := hbit nak
        have hidle := hbit idle
        omega
      have hpow : (2 : Nat) ^ 2016 = 2 ^ 96 * 2 ^ 1920 := by rw [show 2016 = 96 + 1920 from rfl, Nat.pow_add]
      rw [hpow]
      calc _ < 2 ^ 96 * (n + 1) := by rw [Nat.mul_succ]; omega
        _ ≤ 2 ^ 96 * 2 ^ 1920 := Nat.mul_le_mul_left _ hn
    · unfold mkFlit
      rw [hcr, hsl]
  obtain ⟨body, hlt, hlow, hflit⟩ := hbody
  obtain ⟨hcrc, hmod, hsize⟩ := fld_crc hlt (crc32_lt (leBytes 252 body))
  have hnat : (mkFlit seq ack nak idle credits slots).toNat = body + 2 ^ 2016 * crc32 (leBytes 252 body) := by
    rw [hflit, BitVec.toNat_ofNat, Nat.mod_eq_of_lt hsize]
  refine ⟨?_, ?_⟩
  · rw [flitCrcOk, hnat, hcrc, hmod, beq_self_eq_true]
  · have hpow : (2 : Nat) ^ 2016 = 2 ^ 32 * 2 ^ 1984 := by rw [show 2016 = 32 + 1984 from rfl, Nat.pow_add]
    have hall : (mkFlit seq ack nak idle credits slots).toNat = seq + 2 ^ 12 * ack + 2 ^ 24 * b2n nak + 2 ^ 25 * b2n idle +
        2 ^ 32 * (m + 2 ^ 64 * n + 2 ^ 1984 * crc32 (leBytes 252 body)) := by
      rw [hnat, hpow, Nat.mul_assoc, Nat.mul_add (2 ^ 32) (m + 2 ^ 64 * n), ← Nat.add_assoc, ← hlow]
    rw [hall]
    exact flit_low hseq hack nak idle _

end Flit

/-! ## Sending -/

section Send

variable {s : State} {q : Nat}

/-- A port but for the operations and slots on their way, and its credits. -/
def Port.link (q : Port) : Port := { q with egress := [], sending := [], credits := [] }

theorem Port.fillSlots_link (n : Nat) : ∀ q : Port, (q.fillSlots n).link = q.link := by
  induction n with
  | zero => exact fun _ => rfl
  | succ n ih =>
    intro q
    rw [Port.fillSlots]
    split
    · rfl
    · split
      · rfl
      · exact ih _

/-- The port when it sends no replayed flit: slots are ready, unless the replay buffer is full. -/
def Port.filled (q : Port) : Port := if 1024 ≤ q.replay.length then q else q.fillSlots 15

def Port.nextSlots (q : Port) : List (BitVec 128) := if 1024 ≤ q.filled.replay.length then [] else q.filled.sending.take 15

/-- The port once an idle flit has left, and once a flit with slots has. -/
def Port.idleSent (q : Port) : Port :=
  { q.filled with owed := (List.range 6).map (fun k => (k, Table.get 0 q.owed k - q.returns.getD k 0)), nak := false }

def Port.slotsSent (q : Port) (f : BitVec 2048) : Port :=
  { q.idleSent with txSeq := (q.filled.txSeq + 1) % 4096, replay := q.filled.replay ++ [(q.filled.txSeq, f)], sending := q.filled.sending.drop 15 }

/-- The flit that a port which replays nothing makes next. -/
def Port.newFlit (q : Port) : BitVec 2048 := mkFlit q.filled.txSeq q.filled.rxSeq q.filled.nak q.nextSlots.isEmpty q.returns q.nextSlots

theorem Port.nextFlit_of_new (q : Port) (h : q.resend = []) :
    q.nextFlit = (if q.nextSlots.isEmpty then q.idleSent else q.slotsSent q.newFlit, q.newFlit) := by
  unfold Port.nextFlit
  rw [h]
  exact (apply_ite (fun v : Port => (v, q.newFlit)) (q.nextSlots.isEmpty = true) q.idleSent (q.slotsSent q.newFlit)).symm

theorem Port.filled_link (q : Port) : q.filled.link = q.link := by
  unfold Port.filled
  split
  · rfl
  · exact Port.fillSlots_link ..

theorem Port.returns_lt (q : Port) (i : Nat) (h : i < 6) : q.returns.getD i 0 < 2 ^ 8 := by
  rw [Port.returns, List.getD_eq_getElem?_getD, List.getElem?_map, List.getElem?_range h]
  exact Nat.lt_of_le_of_lt (Nat.min_le_left ..) (by decide)

/-- The next flit of a port that replays nothing. -/
theorem Port.nextFlit_spec (v : Port) (h : v.resend = []) :
    v.nextFlit.2 = mkFlit v.txSeq v.rxSeq v.nak v.nextSlots.isEmpty v.returns v.nextSlots ∧ v.nextFlit.1.nak = false ∧ v.nextFlit.1.rxSeq = v.rxSeq ∧
      (v.nextSlots.isEmpty = true → v.nextFlit.1.txSeq = v.txSeq ∧ v.nextFlit.1.replay = v.replay) ∧
      (v.nextSlots.isEmpty = false → v.nextFlit.1.txSeq = (v.txSeq + 1) % 4096 ∧ v.nextFlit.1.replay = v.replay ++ [(v.txSeq, v.nextFlit.2)]) := by
  have hlink := v.filled_link
  have htx : v.filled.txSeq = v.txSeq := (congrArg Port.txSeq hlink :)
  have hrx : v.filled.rxSeq = v.rxSeq := (congrArg Port.rxSeq hlink :)
  have hreplay : v.filled.replay = v.replay := (congrArg Port.replay hlink :)
  have hnak : v.filled.nak = v.nak := (congrArg Port.nak hlink :)
  have hflit : v.newFlit = mkFlit v.txSeq v.rxSeq v.nak v.nextSlots.isEmpty v.returns v.nextSlots := by
    rw [Port.newFlit, htx, hrx, hnak]
  rw [v.nextFlit_of_new h]
  cases hslots : v.nextSlots.isEmpty with
  | true => exact ⟨hslots ▸ hflit, rfl, hrx, fun _ => ⟨htx, hreplay⟩, nofun⟩
  | false =>
    refine ⟨hslots ▸ hflit, rfl, hrx, nofun, fun _ => ⟨?_, ?_⟩⟩
    · exact congrArg (fun n => (n + 1) % 4096) htx
    · exact congrArg₂ (fun l n => l ++ [(n, v.newFlit)]) hreplay htx

theorem Port.nextFlit_of_resend {v : Port} {f : BitVec 2048} {rest : List (BitVec 2048)} (h : v.resend = f :: rest) :
    v.nextFlit = ({ v with resend := rest }, f) := by
  unfold Port.nextFlit
  rw [h]

theorem exec_flitSend (hup : s.portUp q = true) :
    exec (.flitSend q) s = .next ((s.setPort q (s.port q).nextFlit.1).emit (.flit q (s.port q).nextFlit.2)) := if_pos hup

end Send

/-! ## Receiving (R304) -/

section Receive

variable {s t u : State} {q : Nat} {f : BitVec 2048}

/-- A port but for its replay buffer. -/
def Port.unsent (v : Port) : Port := { v with replay := [], resend := [], stuck := 0 }

theorem Port.ack_unsent (v : Port) (a : Nat) : (v.ack a).unsent = v.unsent := by
  unfold Port.ack
  dsimp only
  split <;> rfl

theorem Port.ack_replay {v : Port} {a : Nat} {l r : List (Nat × BitVec 2048)} (h : v.replay = l ++ (a, f) :: r) (hl : ∀ x ∈ l, x.1 ≠ a) :
    (v.ack a).replay = r := by
  have hany : v.replay.any (fun x => x.1 == a) = true := by
    rw [h, List.any_append, List.any_cons, beq_self_eq_true, Bool.true_or, Bool.or_true]
  have hdrop : v.replay.dropWhile (fun x => x.1 != a) = (a, f) :: r := by
    rw [h, List.dropWhile_append_of_pos fun x hx => by simpa using hl x hx]
    exact List.dropWhile_cons_of_neg (by simp)
  unfold Port.ack
  dsimp only
  rw [if_pos hany, hdrop]
  rfl

theorem Port.credit_get (v : Port) (n k : Nat) (h : k < 6) :
    Table.get 0 (v.credit n).credits k = Table.get 0 v.credits k + fld n (39 + 8 * k) (32 + 8 * k) := by
  have hfold (l : List Nat) : ∀ c : Table Nat, l.Nodup →
      Table.get 0 (l.foldl (fun t k => Table.upd 0 t k (fun c => c + fld n (39 + 8 * k) (32 + 8 * k))) c) k =
        Table.get 0 c k + if k ∈ l then fld n (39 + 8 * k) (32 + 8 * k) else 0 := by
    induction l with
    | nil => exact fun c _ => by simp
    | cons j l ih =>
      intro c hl
      obtain ⟨hj, hl⟩ := List.nodup_cons.1 hl
      rw [List.foldl_cons, ih _ hl, Table.upd, Table.get_set]
      by_cases hk : k = j
      · subst hk
        simp [hj]
      · simp [hk]
  refine (hfold _ v.credits List.nodup_range).trans ?_
  rw [if_pos (List.mem_range.2 h)]

/-- A port but for what the operations it receives leave in it. -/
def Port.wire (v : Port) : Port := { v with owed := [], egress := [], arrived := [] }

/-- `t` is `s` but for operations that wait or leave at ports; none that has arrived at port `q` has left. -/
structure OpsArrive (s t : State) (q : Nat) : Prop where
  rest : { t with ports := [] } = { s with ports := [] }
  wire : (t.port q).wire = (s.port q).wire
  arrived : (s.port q).arrived <+: (t.port q).arrived

theorem OpsArrive.refl (s : State) (q : Nat) : OpsArrive s s q := ⟨rfl, rfl, List.prefix_rfl⟩

theorem OpsArrive.trans (h : OpsArrive s t q) (g : OpsArrive t u q) : OpsArrive s u q :=
  ⟨g.rest.trans h.rest, g.wire.trans h.wire, h.arrived.trans g.arrived⟩

theorem OpsArrive.setPort {r : Nat} {v : Port} (hwire : v.wire = (s.port r).wire) (harrived : (s.port r).arrived <+: v.arrived) :
    OpsArrive s (s.setPort r v) q := by
  have hport : (s.setPort r v).port q = if q = r then v else s.port q := Table.get_set ..
  refine ⟨rfl, ?_, ?_⟩ <;> rw [hport] <;> split
  next h => rw [hwire, h]
  next => rfl
  next h => exact h ▸ harrived
  next => exact List.prefix_rfl

theorem State.egress_opsArrive (s : State) (r : Nat) (o : FabOp) : OpsArrive s (s.egress r o) q := .setPort rfl List.prefix_rfl

theorem State.respond_opsArrive (s : State) (p : Nat) (o : FabOp) (op lines status : Nat) (data : List Byte) :
    OpsArrive s (s.respond p o op lines status data) q := by
  rcases s.respond_eq p o op lines status data with h | ⟨r, x, h⟩ <;> rw [h]
  · exact .refl s q
  · exact s.egress_opsArrive r x

theorem State.unreachable_opsArrive (s : State) (p : Nat) (o : FabOp) : OpsArrive s (s.unreachable p o) q := by
  unfold State.unreachable
  split
  · exact State.respond_opsArrive ..
  · split
    · exact State.respond_opsArrive ..
    · exact .refl s q

theorem State.forwardOp_opsArrive (s : State) (p : Nat) (o : FabOp) : OpsArrive s (s.forwardOp p o) q := by
  unfold State.forwardOp State.sendOp
  split
  · exact State.unreachable_opsArrive ..
  · cases s.route p _ with
    | none => exact State.unreachable_opsArrive ..
    | some r => exact State.egress_opsArrive ..

theorem State.receiveOp_opsArrive (s : State) (o : FabOp) : OpsArrive s (s.receiveOp q o) q := by
  unfold State.receiveOp
  extract_lets p n u
  have hu : OpsArrive s u q := .setPort rfl List.prefix_rfl
  split
  · exact hu
  · split
    · exact hu.trans (.setPort rfl (List.prefix_append ..))
    · exact hu.trans (State.forwardOp_opsArrive ..)

/-- The port once the slots of the next flit have been taken from it. -/
theorem State.acceptFlit_eq (s : State) (q n : Nat) : ∃ v : Port, OpsArrive (s.setPort q v) (s.acceptFlit q n) q ∧
    v.rxSeq = fld n 11 0 ∧ v.gap = false ∧ v.nak = false ∧ v.arrived = (s.port q).arrived ∧ v.state = (s.port q).state ∧
      v.replay = (s.port q).replay ∧ v.resend = (s.port q).resend ∧ v.replays = (s.port q).replays ∧ v.stuck = (s.port q).stuck :=
  ⟨_, List.foldlRecOn (motive := fun u => OpsArrive _ u q) _ _ (.refl _ q) fun _ hu _ _ => hu.trans (State.receiveOp_opsArrive ..),
    rfl, rfl, rfl, rfl, rfl, rfl, rfl, rfl, rfl⟩

/-- What the SEQ of a good flit makes of it, its ACK and NAK aside. -/
def State.takeFlit (s : State) (q n : Nat) : State :=
  let v := s.port q
  let ahead := (fld n 11 0 + 4096 - (v.rxSeq + 1) % 4096) % 4096
  if ahead = 0 then
    if n.testBit 25 then s.setPort q { v.credit n with gap := false, nak := false }
    else (s.setPort q (v.credit n)).acceptFlit q n
  else if 2048 ≤ ahead then s.setPort q (v.discard 1)
  else s.setPort q { v.discard 1 with gap := true, nak := v.nak || !v.gap }

/-- FLIT_RECEIVE once the ACK and the NAK of a good flit have been taken. -/
def State.takeUp (s : State) (q n : Nat) : Host.Outcome State Fault Refusal :=
  let v := s.port q
  let ahead := (fld n 11 0 + 4096 - (v.rxSeq + 1) % 4096) % 4096
  if !s.portUp q then .next s
  else if ahead = 0 then
    if n.testBit 25 then .next ((s.setPort q (v.credit n)).updPort q (fun v => { v with gap := false, nak := false }))
    else .next ((s.setPort q (v.credit n)).acceptFlit q n)
  else if 2048 ≤ ahead then .next (s.setPort q (v.discard 1))
  else .next (s.setPort q { v.discard 1 with gap := true, nak := v.nak || !v.gap })

/-- The part once the ACK of a flit has been taken. -/
def State.acked (s : State) (q n : Nat) : State := s.setPort q ((s.port q).ack (fld n 23 12))

/-- The part once the NAK of a flit has been taken. -/
def State.naked (s : State) (q n : Nat) : State :=
  if n.testBit 24 then ((s.acked q n).replayPort q).freedFrom (s.acked q n) else s.acked q n

theorem State.ackedPort (s : State) (q n : Nat) : (s.acked q n).port q = (s.port q).ack (fld n 23 12) := State.port_setPort ..

theorem exec_flitReceive (hup : s.portUp q = true) (hcrc : flitCrcOk f = true) : exec (.flitReceive q true f) s =
    .next (if (s.naked q f.toNat).portUp q then (s.naked q f.toNat).takeFlit q f.toNat else s.naked q f.toNat) := by
  have hexec : exec (.flitReceive q true f) s = execFlitReceive q true f s := rfl
  unfold execFlitReceive at hexec
  rw [hup, hcrc] at hexec
  rw [hexec]
  refine Eq.trans (b := State.takeUp (s.naked q f.toNat) q f.toNat) rfl ?_
  generalize s.naked q f.toNat = u
  generalize f.toNat = n
  unfold State.takeUp State.takeFlit
  dsimp only
  rw [State.updPort, State.port_setPort, State.setPort_setPort]
  cases u.portUp q with
  | false => rfl
  | true => rw [if_neg (by decide), if_pos rfl, apply_ite Host.Outcome.next, apply_ite Host.Outcome.next, apply_ite Host.Outcome.next]

/-- A good flit without a NAK. -/
theorem exec_flitReceive_of_noNak (hup : s.portUp q = true) (hcrc : flitCrcOk f = true) (hnak : f.toNat.testBit 24 = false) :
    exec (.flitReceive q true f) s = .next ((s.acked q f.toNat).takeFlit q f.toNat) := by
  have hnaked : s.naked q f.toNat = s.acked q f.toNat := if_neg (by rw [hnak]; exact Bool.false_ne_true)
  have hstate : (s.acked q f.toNat).portUp q = true := by
    rw [State.portUp, State.ackedPort]
    exact (congrArg (fun v : Port => v.state == .up) ((s.port q).ack_unsent (fld f.toNat 23 12))).trans hup
  rw [exec_flitReceive hup hcrc, hnaked, if_pos hstate]

end Receive

/-! ## A link that is lost (R315) -/

section Lost

variable {s t u : State} {p q tag : Nat} {o : FabOp}

/-- `t` is `s` but for operations that end or leave by other ports than `q`. -/
structure LinkGone (s t : State) (q : Nat) : Prop where
  port : t.port q = s.port q
  mem : t.mem = s.mem
  out : t.out = s.out
  nv : t.nv = s.nv

/-- No operation of partition `p` is outstanding by port `q`. -/
def EndedVia (s : State) (p q : Nat) : Prop := ∀ r ∈ (s.part p).outstanding, r.2.port ≠ q

theorem LinkGone.refl (s : State) (q : Nat) : LinkGone s s q := ⟨rfl, rfl, rfl, rfl⟩

theorem LinkGone.trans (h : LinkGone s t q) (g : LinkGone t u q) : LinkGone s u q :=
  ⟨g.port.trans h.port, g.mem.trans h.mem, g.out.trans h.out, g.nv.trans h.nv⟩

theorem LinkGone.portUp (h : LinkGone s t q) : t.portUp q = s.portUp q := by rw [State.portUp, h.port, State.portUp]

theorem LinkGone.foldl {α : Type} {f : State → α → State} (h : ∀ s a, LinkGone s (f s a) q) (l : List α) (s : State) : LinkGone s (l.foldl f s) q :=
  List.foldlRecOn l f (motive := fun t => LinkGone s t q) (.refl s q) fun _ hb a _ => hb.trans (h _ a)

theorem State.addMoved_eq (s : State) (c i n : Nat) : ∃ cs, s.addMoved c i n = { s with contexts := cs } := by
  unfold State.addMoved
  split <;> exact ⟨_, rfl⟩

theorem State.finishOp_linkGone (s : State) (p tag status : Nat) (data : List Byte) : LinkGone s (s.finishOp p tag status data) q := by
  cases h : (s.part p).outstanding.find? (fun r => r.1 == tag) with
  | none =>
    rw [State.finishOp, h]
    exact .refl s q
  | some r =>
    obtain ⟨cs, hcs⟩ := (s.updPart p (fun x => { x with outstanding := Table.del x.outstanding tag })).addMoved_eq r.2.core 3 (64 * r.2.lines)
    rw [State.finishOp_of_outstanding (k := r.1) (r := r.2) h, State.opGone]
    split
    · rw [hcs]
      exact ⟨rfl, rfl, rfl, rfl⟩
    · exact ⟨rfl, rfl, rfl, rfl⟩

theorem State.finishOp_outstanding (s : State) (p tag status : Nat) (data : List Byte) :
    ((s.finishOp p tag status data).part p).outstanding = Table.del (s.part p).outstanding tag := by
  cases h : (s.part p).outstanding.find? (fun r => r.1 == tag) with
  | none =>
    rw [State.finishOp, h]
    exact (List.filter_eq_self.2 fun r hr => by simpa using List.find?_eq_none.1 h r hr).symm
  | some r =>
    obtain ⟨-, -, -, -, hdel⟩ := s.opGone_frame p tag r.2 status
    rw [State.finishOp_of_outstanding (k := r.1) (r := r.2) h]
    exact hdel

/-- The operations by a port are those whose tags end with its link. -/
theorem State.endTags_endedVia (s : State) (p q : Nat) :
    EndedVia ((((s.part p).outstanding.filter (fun r => r.2.port == q)).map Prod.fst).foldl (fun s t => s.finishOp p t 0x0401 []) s) p q := by
  have hfold (l : List Nat) : ∀ u : State, ∀ r ∈ ((l.foldl (fun s t => s.finishOp p t 0x0401 []) u).part p).outstanding,
      r ∈ (u.part p).outstanding ∧ r.1 ∉ l := by
    induction l with
    | nil => exact fun u r hr => ⟨hr, List.not_mem_nil⟩
    | cons tag l ih =>
      intro u r hr
      obtain ⟨hin, hl⟩ := ih _ r hr
      rw [State.finishOp_outstanding] at hin
      obtain ⟨hin, hne⟩ := List.mem_filter.1 hin
      exact ⟨hin, by simpa [hl] using hne⟩
  intro r hr hport
  obtain ⟨hin, hnot⟩ := hfold _ s r hr
  exact hnot (List.mem_map_of_mem (List.mem_filter.2 ⟨hin, beq_iff_eq.2 hport⟩))

/-- Operations leave by ports that are UP. -/
theorem State.route_portUp {m : Nat} (h : s.route p m = some q) : s.portUp q = true := by
  have hup {r : Nat} (hr : (if s.portUp r then some r else none) = some q) : s.portUp q = true := by
    split at hr
    next hr' => cases hr; exact hr'
    · cases hr
  unfold State.route at h
  dsimp only at h
  split at h
  · exact hup h
  · split at h
    · exact hup h
    · split at h
      · split at h
        next hprim =>
          cases h
          exact (Bool.and_eq_true_iff.1 hprim).1
        · split at h
          next halt =>
            cases h
            exact (Bool.and_eq_true_iff.1 halt).2
          · cases h
      · have hfound := List.find?_some h
        exact (Bool.and_eq_true_iff.1 hfound).1

theorem State.egress_linkGone {r : Nat} (s : State) (o : FabOp) (h : q ≠ r) : LinkGone s (s.egress r o) q :=
  ⟨Table.get_set_ne _ _ _ h, rfl, rfl, rfl⟩

theorem Table.del_set_forall {α : Type} {P : Nat × α → Prop} {l : Table α} {k : Nat} {v : α} (h : ∀ x ∈ l, P x) :
    ∀ x ∈ Table.del (Table.set l k v) k, P x := by
  intro x hx
  obtain ⟨hin, hne⟩ := List.mem_filter.1 hx
  have hall : ∀ x ∈ Table.set l k v, x.1 = k ∨ P x := Table.forall_set (fun x hx => .inr (h x hx)) (.inl rfl)
  exact (hall x hin).resolve_left (by simpa using hne)

/-- An operation that is entered does not go out by a port that is not UP. -/
theorem State.issueOp_linkGone (s : State) (p : Nat) (req : OutReq) (o : FabOp) (hdown : s.portUp q = false) :
    LinkGone s (s.issueOp p req o) q ∧ (EndedVia s p q → EndedVia (s.issueOp p req o) p q) := by
  unfold State.issueOp
  extract_lets tag o' s'
  have hs' : LinkGone s s' q := ⟨rfl, rfl, rfl, rfl⟩
  have hout : (s'.part p).outstanding = (s.part p).outstanding := by
    unfold s'
    rw [State.part_updPart]
  unfold State.sendOp
  cases hroute : s'.route p o'.dst with
  | some r =>
    have hne : q ≠ r := fun he => by
      rw [← he] at hroute
      exact nomatch (State.route_portUp hroute).symm.trans hdown
    refine ⟨⟨(s'.egress_linkGone o' hne).port, rfl, rfl, rfl⟩, fun hended => ?_⟩
    unfold EndedVia
    rw [State.part_updPart]
    refine Table.forall_set (P := fun x : Nat × OutReq => x.2.port ≠ q) ?_ (Ne.symm hne)
    exact fun x hx => hended x (hout ▸ hx)
  | none =>
    refine ⟨(LinkGone.trans (t := s'.updPart p (fun x => { x with outstanding := Table.set x.outstanding tag req })) ⟨rfl, rfl, rfl, rfl⟩
      (State.finishOp_linkGone ..)), fun hended => ?_⟩
    unfold EndedVia
    rw [State.finishOp_outstanding, State.part_updPart]
    exact Table.del_set_forall (P := fun x : Nat × OutReq => x.2.port ≠ q) fun x hx => hended x (hout ▸ hx)

theorem State.drainBacklog_linkGone (p c j n : Nat) : ∀ s : State, s.portUp q = false →
    LinkGone s (State.drainBacklog p c j n s) q ∧ (EndedVia s p q → EndedVia (State.drainBacklog p c j n s) p q) := by
  induction n with
  | zero => exact fun s _ => ⟨.refl s q, id⟩
  | succ n ih =>
    intro s hdown
    rw [State.drainBacklog]
    split
    · exact ⟨.refl s q, id⟩
    next r o rest _ =>
      split
      · exact ⟨.refl s q, id⟩
      · have hqueue : LinkGone s (s.updQueue c j (fun k => { k with backlog := rest })) q := ⟨rfl, rfl, rfl, rfl⟩
        obtain ⟨hissue, hended⟩ := (s.updQueue c j (fun k => { k with backlog := rest })).issueOp_linkGone p r o (hqueue.portUp.trans hdown)
        obtain ⟨hrest, hended'⟩ := ih _ ((hqueue.trans hissue).portUp.trans hdown)
        exact ⟨(hqueue.trans hissue).trans hrest, fun h => hended' (hended h)⟩

theorem State.drainBacklogs_linkGone (s : State) (p : Nat) (hdown : s.portUp q = false) (hended : EndedVia s p q) :
    LinkGone s (s.drainBacklogs p) q ∧ EndedVia (s.drainBacklogs p) p q := by
  unfold State.drainBacklogs
  refine List.foldlRecOn (motive := fun t => LinkGone s t q ∧ EndedVia t p q) _ _ ⟨.refl s q, hended⟩ fun t ht c _ => ?_
  refine List.foldlRecOn (motive := fun t => LinkGone s t q ∧ EndedVia t p q) _ _ ht fun u hu j _ => ?_
  obtain ⟨hgone, hends⟩ := State.drainBacklog_linkGone p c j ((u.core c).queue j).backlog.length u (hu.1.portUp.trans hdown)
  exact ⟨hu.1.trans hgone, hends hu.2⟩

theorem State.ropeSend_linkGone (s : State) (p op round : Nat) (hdown : s.portUp q = false) : LinkGone s (s.ropeSend p op round) q := by
  have hone (u : State) (r : Nat) (o : FabOp) (hu : u.portUp q = false) : LinkGone u (if u.portUp r then u.egress r o else u) q := by
    split
    next hup =>
      refine u.egress_linkGone o fun he => ?_
      rw [← he] at hup
      exact nomatch hup.symm.trans hu
    · exact .refl u q
  unfold State.ropeSend
  dsimp only
  split
  · exact hone _ _ _ hdown
  · have hfirst := hone s (s.ropePort p false) (newOp s p op (s.ropePrev p) 0 0 round) hdown
    exact hfirst.trans (hone _ _ _ (hfirst.portUp.trans hdown))

theorem State.ropeAbandon_linkGone (s : State) (p : Nat) (hdown : s.portUp q = false) :
    LinkGone s (s.ropeAbandon p) q ∧ ((s.ropeAbandon p).part p).outstanding = (s.part p).outstanding := by
  unfold State.ropeAbandon
  dsimp only
  split
  · exact ⟨.refl s q, rfl⟩
  · have habandon : LinkGone s (s.updPart p (fun x => { x with rope := { x.rope with abandoned := true } })) q := ⟨rfl, rfl, rfl, rfl⟩
    refine ⟨habandon.trans (State.ropeSend_linkGone _ _ _ _ hdown), ?_⟩
    rw [State.part_congr (State.ropeSend_frame ..).1]
    rw [State.part_updPart]

/-- A port that gets a new state loses the requests for it, and nothing else changes. -/
theorem State.losePortTests_cleared (s : State) (q : Nat) (v : Port) : (((s.setPort q v).losePortTests q).port q = v ∨
    ((s.setPort q v).losePortTests q).port q = { v with testPiece := false }) ∧ ((s.setPort q v).losePortTests q).mem = s.mem ∧
    ((s.setPort q v).losePortTests q).out = s.out ∧ ((s.setPort q v).losePortTests q).nv = s.nv := by
  unfold State.losePortTests
  dsimp only
  split
  · refine ⟨.inr ?_, rfl, rfl, rfl⟩
    rw [State.port_setPort, State.port_setPort]
  · exact ⟨.inl (State.port_setPort ..), rfl, rfl, rfl⟩

/-- What the loss of a link that was UP leaves. -/
theorem State.portLost_fell {next : PortState} (hup : s.portUp q = true) (hnext : next ≠ .up) : PortFell s (s.portLost q next) q next := by
  have hstate : (s.port q).state = .up := beq_iff_eq.1 hup
  unfold State.portLost
  extract_lets v p src s₁ tags s₂
  rw [if_neg (by rw [show v.state = .up from hstate]; decide)]
  obtain ⟨hport, hmem, hout, hnv⟩ : (s₁.port q = { v.cleared with state := next, retrains := satAdd 16 v.retrains 1 } ∨
      s₁.port q = { v.cleared with state := next, retrains := satAdd 16 v.retrains 1, testPiece := false }) ∧
      s₁.mem = s.mem ∧ s₁.out = s.out ∧ s₁.nv = s.nv := State.losePortTests_cleared ..
  have hdown : s₁.portUp q = false := by
    have hst : (s₁.port q).state = next := by rcases hport with h | h <;> rw [h]
    rw [State.portUp, hst]
    exact beq_eq_false_iff_ne.2 hnext
  have htags : LinkGone s₁ (tags.foldl (fun s t => s.finishOp p t 0x0401 []) s₁) q := .foldl (fun s t => s.finishOp_linkGone ..) _ _
  obtain ⟨hdrain, hended⟩ := State.drainBacklogs_linkGone (q := q) (tags.foldl (fun s t => s.finishOp p t 0x0401 []) s₁) p
    (htags.portUp.trans hdown) (s₁.endTags_endedVia p q)
  have hgone : LinkGone s₁ s₂ q := htags.trans hdrain
  have hall : ∀ t, LinkGone s₂ t q → (t.part p).outstanding = (s₂.part p).outstanding → PortFell s t q next := by
    intro t ht hsame
    have hg := hgone.trans ht
    refine ⟨?_, ?_, ?_, ?_, hg.mem.trans hmem, hg.out.trans hout, hg.nv.trans hnv⟩
    · rw [hg.port]
      rcases hport with h | h <;> rw [h]
    · rw [hg.port]
      rcases hport with h | h <;> rw [h]
    · rw [hg.port]
      rcases hport with h | h <;> rw [h] <;> exact ⟨rfl, rfl, rfl, rfl⟩
    · rw [show (t.part (partOfPort s.mode q)).outstanding = (s₂.part p).outstanding from hsame]
      exact hended
  split
  · obtain ⟨habandon, hsame⟩ := s₂.ropeAbandon_linkGone p (hgone.portUp.trans hdown)
    exact hall _ habandon hsame
  · exact hall _ (.refl s₂ q) rfl

/-- A port that begins a replay. -/
def Port.replaying (v : Port) : Port := { v with resend := v.replay.map Prod.snd, replays := satAdd 24 v.replays 1, stuck := v.stuck + 1 }

theorem State.replayPort_of_empty (h : (s.port q).replay = []) : s.replayPort q = s := by
  unfold State.replayPort
  dsimp only
  rw [h, if_pos (by decide)]

theorem State.replayPort_of_room (h : (s.port q).replay ≠ []) (hstuck : (s.port q).stuck < 15) :
    s.replayPort q = s.setPort q (s.port q).replaying := by
  unfold State.replayPort
  dsimp only
  rw [if_neg (by rwa [List.isEmpty_iff]), if_neg (by omega)]
  rfl

theorem State.replayPort_of_stuck (h : (s.port q).replay ≠ []) (hstuck : 15 ≤ (s.port q).stuck) :
    s.replayPort q = (s.setPort q (s.port q).replaying).portLost q .training := by
  unfold State.replayPort
  dsimp only
  rw [if_neg (by rwa [List.isEmpty_iff]), if_pos (by omega)]
  rfl

theorem PortFell.of_setPort {v : Port} {next : PortState} (hv : v.retrains = (s.port q).retrains) (h : PortFell (s.setPort q v) t q next) :
    PortFell s t q next := by
  obtain ⟨hstate, hretrains, hempty, hended, hkept⟩ := h
  rw [State.port_setPort, hv] at hretrains
  exact ⟨hstate, hretrains, hempty, hended, hkept⟩

/-- The sixteenth replay retrains the port (R304). -/
theorem State.replayPort_fell (hup : s.portUp q = true) (h : (s.port q).replay ≠ []) (hstuck : 15 ≤ (s.port q).stuck) :
    PortFell s (s.replayPort q) q .training := by
  have hup' : (s.setPort q (s.port q).replaying).portUp q = true := by
    rw [State.portUp, State.port_setPort]
    exact hup
  rw [State.replayPort_of_stuck h hstuck]
  refine PortFell.of_setPort ?_ (State.portLost_fell hup' (by decide))
  exact rfl

end Lost

/-! ## What a flit's SEQ makes of it -/

section Take

variable {s t : State} {q n : Nat} {f : BitVec 2048}

/-- What of a port decides what is sent again. -/
def Port.retry (v : Port) : List (BitVec 2048) × List (Nat × BitVec 2048) × Nat × Nat × PortState := (v.resend, v.replay, v.replays, v.stuck, v.state)

/-- Of everything but what waits or leaves at ports, nothing changes, and port `q` sends the same again. -/
def RetryKept (s t : State) (q : Nat) : Prop := (t.port q).retry = (s.port q).retry ∧ { t with ports := [] } = { s with ports := [] }

theorem RetryKept.setPort {v : Port} (h : v.retry = (s.port q).retry) : RetryKept s (s.setPort q v) q :=
  ⟨(congrArg Port.retry (State.port_setPort s q v)).trans h, rfl⟩

/-- No flit that arrives changes what is to be sent again, but by its ACK and NAK. -/
theorem State.takeFlit_retry (s : State) (q n : Nat) : RetryKept s (s.takeFlit q n) q := by
  unfold State.takeFlit
  dsimp only
  split
  · split
    · exact .setPort rfl
    · obtain ⟨w, harrive, -, -, -, -, hstate, hreplay, hresend, hreplays, hstuck⟩ := (s.setPort q ((s.port q).credit n)).acceptFlit_eq q n
      have hwire := harrive.wire
      rw [State.port_setPort] at hwire hstate hreplay hresend hreplays hstuck
      refine ⟨(congrArg Port.retry hwire :).trans ?_, harrive.rest⟩
      change w.retry = ((s.port q).credit n).retry
      simp only [Port.retry, hstate, hreplay, hresend, hreplays, hstuck]
  · split
    · exact .setPort rfl
    · exact .setPort rfl

/-- The SEQ of a flit counts from the port's own (R304). -/
theorem State.acked_rxSeq (s : State) (q n : Nat) : ((s.acked q n).port q).rxSeq = (s.port q).rxSeq := by
  rw [State.ackedPort]
  exact (congrArg Port.rxSeq ((s.port q).ack_unsent _) :)

theorem State.takeFlit_next (h : fld n 11 0 = ((s.port q).rxSeq + 1) % 4096) : s.takeFlit q n =
    if n.testBit 25 then s.setPort q { (s.port q).credit n with gap := false, nak := false }
    else (s.setPort q ((s.port q).credit n)).acceptFlit q n := by
  unfold State.takeFlit
  exact if_pos (by rw [h]; omega)

theorem State.takeFlit_duplicate (h : 2048 ≤ (fld n 11 0 + 4096 - ((s.port q).rxSeq + 1) % 4096) % 4096) :
    s.takeFlit q n = s.setPort q ((s.port q).discard 1) := by
  unfold State.takeFlit
  dsimp only
  rw [if_neg (by omega), if_pos h]

theorem State.takeFlit_gap (hpos : 0 < (fld n 11 0 + 4096 - ((s.port q).rxSeq + 1) % 4096) % 4096)
    (hlt : (fld n 11 0 + 4096 - ((s.port q).rxSeq + 1) % 4096) % 4096 < 2048) :
    s.takeFlit q n = s.setPort q { (s.port q).discard 1 with gap := true, nak := (s.port q).nak || !(s.port q).gap } := by
  unfold State.takeFlit
  dsimp only
  rw [if_neg (by omega), if_neg (by omega)]

theorem OnlyPort.setPort (s : State) (q : Nat) (v : Port) : OnlyPort s (s.setPort q v) q := ⟨rfl, fun _ hk => Table.get_set_ne _ _ _ hk⟩

theorem State.setPort_acked (s : State) (q n : Nat) (v : Port) : (s.acked q n).setPort q v = s.setPort q v := State.setPort_setPort ..

theorem State.acked_portUp (hup : s.portUp q = true) (n : Nat) : (s.acked q n).portUp q = true := by
  rw [State.portUp, State.ackedPort]
  exact (congrArg (fun v : Port => v.state == .up) ((s.port q).ack_unsent (fld n 23 12))).trans hup

end Take

end Sys2Proof.Machine

namespace Sys2Proof.Proofs

open Sys2Proof.Machine

/-- Settles O16: a flit is made of its fields, its SEQ and NAK decide what is taken and what is sent again, and a lost link ends the rest. -/
theorem flitsCarrySequenceAndKeepOrder : Obligations.FlitsCarrySequenceAndKeepOrder := by
  unfold Obligations.FlitsCarrySequenceAndKeepOrder
  refine ⟨⟨?_, ?_⟩, ⟨?_, ?_, ?_, ?_, ?_⟩, ⟨fun _ _ _ _ _ h hl => Port.ack_replay h hl, ?_, ?_, ?_⟩, ⟨?_, ?_, ?_⟩⟩
  · intro s q f rest hup hresend
    rw [exec_flitSend hup, Port.nextFlit_of_resend hresend]
  · intro s q hup hresend htx hrx
    obtain ⟨hflit, hnak, hrx', hidle, hslots⟩ := (s.port q).nextFlit_spec hresend
    obtain ⟨hcrc, hseq, hack, hbit24, hbit25⟩ := mkFlit_spec htx hrx (s.port q).nak (s.port q).nextSlots.isEmpty (s.port q).returns_lt (s.port q).nextSlots
    rw [← hflit] at hcrc hseq hack hbit24 hbit25
    have hport : (((s.setPort q (s.port q).nextFlit.1).emit (.flit q (s.port q).nextFlit.2)).port q) = (s.port q).nextFlit.1 := State.port_setPort ..
    refine ⟨_, (s.port q).nextFlit.2, exec_flitSend hup, rfl, OnlyPort.setPort_emit .., hcrc, hseq, hack, hbit24, ?_⟩
    rw [hport, hbit25]
    exact ⟨hnak, hrx', hidle, hslots⟩
  · intro s q ok f hup hbad
    have hexec : exec (.flitReceive q ok f) s = execFlitReceive q ok f s := rfl
    unfold execFlitReceive at hexec
    dsimp only at hexec
    rw [hup, ← Bool.not_and, hbad] at hexec
    exact hexec
  · intro s q f hup hcrc hnak hidle hseq
    have htake := State.takeFlit_next (s := s.acked q f.toNat) (q := q) (n := f.toNat) (by rw [State.acked_rxSeq, hseq])
    rw [if_pos hidle, State.setPort_acked, State.ackedPort] at htake
    have hunsent := (s.port q).ack_unsent (fld f.toNat 23 12)
    refine ⟨_, (exec_flitReceive_of_noNak hup hcrc hnak).trans (by rw [htake]), OnlyPort.setPort .., rfl, ?_⟩
    rw [State.port_setPort]
    refine ⟨(congrArg Port.rxSeq hunsent :), (congrArg Port.arrived hunsent :), rfl, rfl, fun k hk => ?_⟩
    refine (Port.credit_get _ _ _ hk).trans ?_
    rw [show ((s.port q).ack (fld f.toNat 23 12)).credits = (s.port q).credits from (congrArg Port.credits hunsent :)]
  · intro s q f hup hcrc hnak hidle hseq
    have htake := State.takeFlit_next (s := s.acked q f.toNat) (q := q) (n := f.toNat) (by rw [State.acked_rxSeq, hseq])
    rw [if_neg (by rw [hidle]; exact Bool.false_ne_true), State.setPort_acked, State.ackedPort] at htake
    obtain ⟨v, harrive, hrx, hgap, hnak', harrived, hstate, -⟩ :=
      (s.setPort q (((s.port q).ack (fld f.toNat 23 12)).credit f.toNat)).acceptFlit_eq q f.toNat
    have hunsent := (s.port q).ack_unsent (fld f.toNat 23 12)
    have hwire := harrive.wire
    have hprefix := harrive.arrived
    rw [State.port_setPort] at hwire hprefix harrived hstate
    refine ⟨_, (exec_flitReceive_of_noNak hup hcrc hnak).trans (by rw [htake]), ?_, ?_, ?_, ?_, ?_, harrive.rest⟩
    · exact (congrArg Port.rxSeq hwire :).trans hrx
    · exact (congrArg Port.gap hwire :).trans hgap
    · exact (congrArg Port.nak hwire :).trans hnak'
    · exact ((congrArg Port.state hwire :).trans hstate).trans ((congrArg Port.state hunsent :).trans (beq_iff_eq.1 hup))
    · rw [harrived] at hprefix
      exact (congrArg Port.arrived hunsent :) ▸ hprefix
  · intro s q f hup hcrc hnak hahead
    have htake := State.takeFlit_duplicate (s := s.acked q f.toNat) (q := q) (n := f.toNat) (by rw [State.acked_rxSeq]; exact hahead)
    rw [exec_flitReceive_of_noNak hup hcrc hnak, htake, State.setPort_acked, State.ackedPort]
  · intro s q f hup hcrc hnak hpos hlt
    have htake := State.takeFlit_gap (s := s.acked q f.toNat) (q := q) (n := f.toNat) (by rw [State.acked_rxSeq]; exact hpos)
      (by rw [State.acked_rxSeq]; exact hlt)
    rw [State.setPort_acked, State.ackedPort] at htake
    have hunsent := (s.port q).ack_unsent (fld f.toNat 23 12)
    refine ⟨_, (exec_flitReceive_of_noNak hup hcrc hnak).trans (by rw [htake]), OnlyPort.setPort .., ?_⟩
    rw [State.port_setPort]
    refine ⟨rfl, (congrArg Port.rxSeq hunsent :), ?_, (congrArg (fun v : Port => satAdd 24 v.discarded 1) hunsent :)⟩
    exact (congrArg (fun v : Port => v.nak || !v.gap) hunsent :)
  · intro s q f hup hcrc hnak hreplay hstuck
    have hnaked : s.naked q f.toNat = s.setPort q ((s.port q).ack (fld f.toNat 23 12)).replaying := by
      rw [State.naked, if_pos hnak, State.replayPort_of_room (by rw [State.ackedPort]; exact hreplay) (by rw [State.ackedPort]; exact hstuck),
        State.setPort_acked, State.ackedPort]
      exact State.freedFrom_same fun _ => rfl
    have hup' : (s.naked q f.toNat).portUp q = true := by
      rw [hnaked, State.portUp, State.port_setPort]
      exact (congrArg (fun v : Port => v.state == .up) ((s.port q).ack_unsent (fld f.toNat 23 12))).trans hup
    obtain ⟨hretry, hrest⟩ := (s.naked q f.toNat).takeFlit_retry q f.toNat
    refine ⟨_, (exec_flitReceive hup hcrc).trans (by rw [if_pos hup']), ?_⟩
    generalize (s.naked q f.toNat).takeFlit q f.toNat = t at hretry hrest
    rw [hnaked, State.port_setPort] at hretry
    rw [hnaked] at hrest
    simp only [Port.retry, Prod.mk.injEq] at hretry
    obtain ⟨hresend, hreplay', hreplays, hstuck', hstate⟩ := hretry
    have hunsent := (s.port q).ack_unsent (fld f.toNat 23 12)
    refine ⟨hresend, hreplay', hreplays.trans ?_, hstuck', hstate.trans ?_, (congrArg State.mem hrest :), (congrArg State.out hrest :)⟩
    · exact (congrArg (fun v : Port => satAdd 24 v.replays 1) hunsent :)
    · exact (congrArg Port.state hunsent :).trans (beq_iff_eq.1 hup)
  · intro s q f hup hcrc hnak hreplay
    have hnaked : s.naked q f.toNat = s.acked q f.toNat := by
      rw [State.naked, if_pos hnak, State.replayPort_of_empty (by rw [State.ackedPort]; exact hreplay)]
      exact State.freedFrom_same fun _ => rfl
    obtain ⟨hretry, hrest⟩ := (s.naked q f.toNat).takeFlit_retry q f.toNat
    refine ⟨_, (exec_flitReceive hup hcrc).trans (by rw [if_pos (hnaked ▸ State.acked_portUp hup _)]), ?_⟩
    generalize (s.naked q f.toNat).takeFlit q f.toNat = t at hretry hrest
    rw [hnaked, State.ackedPort] at hretry
    rw [hnaked] at hrest
    simp only [Port.retry, Prod.mk.injEq] at hretry
    obtain ⟨-, hreplay', hreplays, -, hstate⟩ := hretry
    have hunsent := (s.port q).ack_unsent (fld f.toNat 23 12)
    refine ⟨hreplay'.trans hreplay, hreplays.trans (congrArg Port.replays hunsent :), hstate.trans ?_, (congrArg State.mem hrest :), (congrArg State.out hrest :)⟩
    exact (congrArg Port.state hunsent :).trans (beq_iff_eq.1 hup)
  · intro s q f hup hcrc hnak hreplay hstuck hidle
    have hfell := State.replayPort_fell (State.acked_portUp hup f.toNat) (by rw [State.ackedPort]; exact hreplay) (by rw [State.ackedPort]; exact hstuck)
    have hnaked : s.naked q f.toNat = (s.acked q f.toNat).replayPort q := by
      rw [State.naked, if_pos hnak]
      exact State.freedFrom_idle _ (s := s.acked q f.toNat) hidle
    have hdown : (s.naked q f.toNat).portUp q = false := by
      rw [hnaked, State.portUp, hfell.state]
      rfl
    refine ⟨_, (exec_flitReceive hup hcrc).trans (by rw [if_neg (by rw [hdown]; exact Bool.false_ne_true), hnaked]), ?_⟩
    have hretrains : ((s.port q).ack (fld f.toNat 23 12)).retrains = (s.port q).retrains := (congrArg Port.retrains ((s.port q).ack_unsent _) :)
    exact hfell.of_setPort hretrains
  · intro s q hup hreplay hstuck
    refine (if_pos hup).trans ?_
    rw [State.replayPort_of_room hreplay hstuck]
    exact congrArg Host.Outcome.next (State.freedFrom_same fun _ => rfl)
  · intro s q hup hreplay hstuck hidle
    refine ⟨_, (if_pos hup).trans ?_, State.replayPort_fell hup hreplay hstuck⟩
    rw [State.freedFrom_idle _ hidle]
  · intro s q hup hidle
    refine ⟨_, (if_pos hup).trans ?_, State.portLost_fell hup (by decide)⟩
    rw [State.freedFrom_idle _ hidle]

end Sys2Proof.Proofs
end

section
/-! PROOFS. Bivouac transfers and epochs (R248, R249, R296). -/

namespace Sys2Proof.Machine

section Transfers

variable {s : State} {p k : Nat}

theorem State.wakeIdle_of_busy (h : (s.part p).phase ≠ .idle) : s.wakeIdle p = s := if_neg (mt beq_iff_eq.1 h)

theorem State.wakeIdle_of_idle (h : (s.part p).phase = .idle) : s.wakeIdle p = (s.updPart p (fun t => { t with wake := true })).goOn p :=
  if_pos (beq_iff_eq.2 h)

theorem State.foldl_updEngine_eq {α : Type} (f : α → Nat) (g : α → Engine → Engine) (l : List α) (s : State) :
    ∃ es, l.foldl (fun s a => s.updEngine (f a) (g a)) s = { s with engines := es } :=
  List.foldlRecOn (motive := fun t : State => ∃ es, t = { s with engines := es }) _ _ ⟨s.engines, rfl⟩ fun t ht a _ => by
    obtain ⟨es, rfl⟩ := ht
    exact ⟨_, rfl⟩

/-- A partition whose pools have given or taken units. -/
def Part.poolsMoved (x : KvWork) (t : Part) : Part := { t with freeFrames := (t.freeFrames + x.frames).toNat, freeGrans := (t.freeGrans + x.grans).toNat }

/-- Changes of the pools' counts and of engines: nothing else of the part changes. -/
theorem State.countKv_eq (s : State) (p : Nat) (x : KvWork) : ∃ es, s.countKv p x = { s.updPart p (Part.poolsMoved x) with engines := es } := by
  unfold State.countKv
  extract_lets s₁ s₂ s₃ s₄
  obtain ⟨e₂, h₂⟩ := State.foldl_updEngine_eq Prod.fst (fun u (g : Engine) => g.useSlot u.2.1 u.2.2) x.uses s₁
  obtain ⟨e₃, h₃⟩ := State.foldl_updEngine_eq Prod.fst (fun u (g : Engine) => g.walked u.2) x.walks s₂
  obtain ⟨e₄, h₄⟩ := State.foldl_updEngine_eq Prod.fst (fun u (g : Engine) => { g with expanded := (g.expanded + u.2) % 2 ^ 32 }) x.grown s₃
  obtain ⟨e₅, h₅⟩ := State.foldl_updEngine_eq Prod.fst (fun u (g : Engine) => g.labDrop u.2.part u.2.slot u.2.layer u.2.page) x.drops s₄
  refine ⟨e₅, ?_⟩
  rw [h₅, show s₄ = _ from h₄, show s₃ = _ from h₃, show s₂ = _ from h₂]
  rfl

theorem State.countKv_phase (s : State) (p q : Nat) (x : KvWork) : ((s.countKv p x).part q).phase = (s.part q).phase := by
  obtain ⟨es, he⟩ := s.countKv_eq p x
  rw [he]
  change ((s.updPart p (Part.poolsMoved x)).part q).phase = _
  by_cases hq : q = p
  · rw [hq, State.part_updPart]
    rfl
  · rw [State.part_updPart_ne _ _ hq]

/-- Work on the pools does not move the scheduler. -/
theorem State.kvDo_phase (s : State) (p q : Nat) (x : KvWork) : ((s.kvDo p x).1.part q).phase = (s.part q).phase := by
  unfold State.kvDo
  dsimp only
  split
  · exact (congrArg Part.phase (s.takeWork_part _ q) :)
  · exact (State.countKv_phase ..).trans (congrArg Part.phase (s.takeWork_part _ q) :)

theorem State.labForget_eq (s : State) (p k a b : Nat) : ∃ es, s.labForget p k a b = { s with engines := es } :=
  State.foldl_updEngine_eq id (fun _ en => (pageCells (kvg s p) a b).foldl (fun en (c : Nat × Nat) => en.labDrop p k c.1 c.2) en) (partStacks s.mode p) s

/-- What a completed transfer back writes, page by page. -/
def State.returned (s : State) (p k : Nat) (data : List Byte) (e : Env) (x : KvWork) : KvWork :=
  restorePages s p k e data (parkedEntries s p k e x).1 (s.slot p k).units (parkedEntries s p k e x).2

/-- A transfer back that need not wait is complete. -/
theorem exec_bivouacReturnDone (h : s.transferring p k .returning = true) {data : List Byte}
    (hok : (s.whole (fun b => b.kvOn p (b.s.returned p k data))).2 = true) : exec (.bivouacReturnDone p k true data) s =
      .next ((((s.whole (fun b => b.kvOn p (b.s.returned p k data))).1.labForget p k 0 (kvMaxPages (kvg s p))).updSlot p k (fun q =>
        { q with moved := true, units := [], uses := [] })).wakeIdle p) := by
  have hexec : exec (.bivouacReturnDone p k true data) s = if !s.transferring p k .returning then Host.Outcome.next s else
      match s.whole (fun b => b.kvOn p (b.s.returned p k data)) with
      | (t, true) => .next (((t.labForget p k 0 (kvMaxPages (kvg s p))).updSlot p k (fun q => { q with moved := true, units := [], uses := [] })).wakeIdle p)
      | (t, false) => .next t := rfl
  rw [hexec, h, if_neg (by decide)]
  generalize s.whole (fun b => b.kvOn p (b.s.returned p k data)) = w at hok
  obtain ⟨t, ok⟩ := w
  dsimp only at hok
  subst hok
  rfl

theorem State.slot_updSlot (s : State) (p k : Nat) (f : Slot → Slot) : (s.updSlot p k f).slot p k = f (s.slot p k) := by
  rw [State.updSlot, State.setSlot, State.slot, State.part_updPart, Table.get_set_same]

end Transfers

end Sys2Proof.Machine

namespace Sys2Proof.Proofs

open Sys2Proof.Machine

/-- Settles O51: a transfer that is complete marks its sequence, and only an idle scheduler hears of it. -/
theorem transfersAndEpochs : Obligations.TransfersAndEpochs := by
  unfold Obligations.TransfersAndEpochs
  refine ⟨fun s p k h => if_pos h, ?_, ?_, ?_, fun s p => ⟨State.wakeIdle_of_busy, State.wakeIdle_of_idle⟩⟩
  · intro s p k data h
    refine (if_neg ?_).trans (if_pos rfl)
    rw [h]
    decide
  · intro s p k data h hphase hwhole
    refine ⟨_, exec_bivouacReturnDone h hwhole, ?_⟩
    have hkv : (s.whole (fun b => b.kvOn p (b.s.returned p k data))).1 = (s.kvDo p (s.returned p k data (s.dieEnv p) { w := { mem := s.mem } })).1 :=
      (congrArg Prod.fst (State.whole_of_ok ((State.whole_snd s _).symm.trans hwhole)) :)
    have hphase' := ne_of_eq_of_ne (s.kvDo_phase p p (s.returned p k data (s.dieEnv p) { w := { mem := s.mem } })) hphase
    rw [← hkv] at hphase'
    change (_ ∧ _ ∧ _ ∧ _ = (s.whole (fun b => b.kvOn p (b.s.returned p k data))).1.mem)
    generalize (s.whole (fun b => b.kvOn p (b.s.returned p k data))).1 = t at hphase'
    obtain ⟨es, hes⟩ := t.labForget_eq p k 0 (kvMaxPages (kvg s p))
    have hbusy : (((t.labForget p k 0 (kvMaxPages (kvg s p))).updSlot p k (fun q => { q with moved := true, units := [], uses := [] })).part p).phase ≠ .idle := by
      rw [State.updSlot, State.setSlot, State.part_updPart, hes]
      exact hphase'
    rw [State.wakeIdle_of_busy hbusy, State.slot_updSlot, hes]
    exact ⟨rfl, rfl, rfl, rfl⟩
  · intro s p n hlive hp
    exact if_pos (by rw [hlive, decide_eq_true hp]; rfl)

end Sys2Proof.Proofs
end

section
/-! PROOFS. The accumulator of the matrix engine (R113, R114, R120). -/

namespace Sys2Proof.Machine

/-! ## One entry of a table that a fold updates -/

section Once

variable {α β : Type} {d : β} {F : Table β → α → Table β} {l : List α} {k : Nat}

theorem Table.get_foldl_never (h : ∀ b ∈ l, ∀ t, Table.get d (F t b) k = Table.get d t k) (t : Table β) :
    Table.get d (l.foldl F t) k = Table.get d t k :=
  List.foldlRecOn (motive := fun u => Table.get d u k = Table.get d t k) _ _ rfl fun u hu b hb => (h b hb u).trans hu

/-- An entry that one step of a fold updates. -/
theorem Table.get_foldl_once {a : α} {g : β → β} (hl : l.Nodup) (ha : a ∈ l) (hself : ∀ t, Table.get d (F t a) k = g (Table.get d t k))
    (hother : ∀ b ∈ l, b ≠ a → ∀ t, Table.get d (F t b) k = Table.get d t k) (t : Table β) :
    Table.get d (l.foldl F t) k = g (Table.get d t k) := by
  induction l generalizing t with
  | nil => cases ha
  | cons b l ih =>
    obtain ⟨hb, hl⟩ := List.nodup_cons.1 hl
    rw [List.foldl_cons]
    by_cases hab : a = b
    · subst hab
      have hrest : ∀ c ∈ l, ∀ t, Table.get d (F t c) k = Table.get d t k := fun c hc =>
        hother c (List.mem_cons_of_mem _ hc) fun he => hb (he ▸ hc)
      rw [Table.get_foldl_never hrest, hself]
    · have hin : a ∈ l := (List.mem_cons.1 ha).resolve_left hab
      rw [ih hl hin fun c hc => hother c (List.mem_cons_of_mem _ hc), hother b (List.mem_cons_self ..) (Ne.symm hab)]

end Once

/-! ## One pass over the accumulator -/

section Pass

variable {k : Core} {b : BitVec 512} {t : WTile} {af : Nat} {rows : List (List Elem)}

/-- What one activation row adds to a column's element (R120). -/
def WTile.added (t : WTile) (af : Nat) (row : List Elem) (n : Nat) (old : Word) : Word :=
  mxAdd old (((row.map (fun v => elemValue af v.code v.scale)).zip ((List.range t.k).map (fun i => t.value i n))).foldl
    (fun s p => mxAddProd s (p.1.mul p.2).1) 0)

/-- The step of an accumulation for one activation row. -/
def Core.accRow (b : BitVec 512) (t : WTile) (af : Nat) (acc : Table Word) (p : Nat × List Elem) : Table Word :=
  (List.range t.n).foldl (fun acc n =>
    Table.upd 0 acc (accKey (macAbank b) (32 * macRgroup b + p.1) (n + 128 * macChalf b)) (t.added af p.2 n)) acc

theorem Core.accumulate_eq (h : (mxMode t.format).getD 0 ≠ 3) :
    k.accumulate b t af rows = { k with acc := ((List.range rows.length).zip rows).foldl (Core.accRow b t af) k.acc } := by
  unfold Core.accumulate Core.accRow accPlace accUpdate WTile.added passSum
  simp only [if_neg h, sumFrom]

theorem accKey_inj {bank row col bank' row' col' : Nat} (hr : row < 256) (hc : col < 256) (hr' : row' < 256) (hc' : col' < 256) :
    accKey bank row col = accKey bank' row' col' ↔ bank = bank' ∧ row = row' ∧ col = col' := by
  unfold accKey
  omega

/-- A pair of a list's places and elements. -/
theorem mem_zip_range {α : Type} {l : List α} {i : Nat} {a : α} : (i, a) ∈ (List.range l.length).zip l ↔ l[i]? = some a := by
  rw [List.mem_iff_getElem?]
  constructor
  · rintro ⟨j, hj⟩
    rw [List.getElem?_zip_eq_some] at hj
    obtain ⟨hi, ha⟩ := hj
    have hlt := List.getElem?_eq_some_iff.1 hi
    obtain ⟨hlt, he⟩ := hlt
    rw [List.getElem_range] at he
    rw [show i = j from he.symm]
    exact ha
  · intro h
    refine ⟨i, List.getElem?_zip_eq_some.2 ⟨?_, h⟩⟩
    exact List.getElem?_range (List.getElem?_eq_some_iff.1 h).1

theorem zip_range_nodup {α : Type} (l : List α) : ((List.range l.length).zip l).Nodup := by
  have h : (((List.range l.length).zip l).map Prod.fst).Nodup := by
    rw [List.map_fst_zip (by simp)]
    exact List.nodup_range
  exact h.of_map _

end Pass

end Sys2Proof.Machine

namespace Sys2Proof.Proofs

open Sys2Proof.Machine

/-- Settles O42: each element is the entry of one row's step and one column's step of the accumulation. -/
theorem macAccumulatesRowByColumn : Obligations.MacAccumulatesRowByColumn := by
  unfold Obligations.MacAccumulatesRowByColumn
  intro k b t af rows hmode hsome hn hrows hhalf _
  have hmode' : (mxMode t.format).getD 0 ≠ 3 := by
    cases h : mxMode t.format with
    | none => exact absurd h hsome
    | some m => exact fun he => hmode (h.trans (congrArg some he))
  have hcol : t.n + 128 * macChalf b ≤ 256 := by
    by_cases h2 : mxMode t.format = some 2
    · have hle : macChalf b < 2 := Nat.mod_lt _ (by decide)
      rw [h2] at hn
      have hmax : t.n ≤ 128 := hn
      omega
    · have hm2 : (mxMode t.format).getD 0 ≠ 2 := by
        cases h : mxMode t.format with
        | none => exact absurd h hsome
        | some m => exact fun he => h2 (h.trans (congrArg some he))
      rw [mxN, if_neg hm2, if_neg hmode'] at hn
      rw [hhalf h2]
      omega
  rw [Core.accumulate_eq hmode']
  refine ⟨fun r n hr hlt => ?_, fun bank row col hrow hcl hout => ?_, rfl⟩
  · have hget : rows[r]? = some (rows.getD r []) := by
      rw [List.getD_eq_getElem?_getD, List.getElem?_eq_getElem hr]
      rfl
    refine Table.get_foldl_once (a := (r, rows.getD r [])) (g := t.added af (rows.getD r []) n) (zip_range_nodup rows) (mem_zip_range.2 hget) ?_ ?_ k.acc
    · refine Table.get_foldl_once (a := n) List.nodup_range (List.mem_range.2 hlt) ?_ ?_
      · intro acc
        rw [Table.upd, Table.get_set_same]
      · intro m hm hne acc
        rw [Table.upd, Table.get_set, if_neg]
        have hm := List.mem_range.1 hm
        rw [accKey_inj (by omega) (by omega) (by omega) (by omega)]
        omega
    · rintro ⟨i, row⟩ hi hne acc
      have hi := mem_zip_range.1 hi
      have hilt : i < rows.length := (List.getElem?_eq_some_iff.1 hi).1
      have hir : i ≠ r := by
        rintro rfl
        exact hne (by rw [Option.some.inj (hi.symm.trans hget)])
      refine Table.get_foldl_never (fun m hm acc => ?_) acc
      rw [Table.upd, Table.get_set, if_neg]
      have hm := List.mem_range.1 hm
      rw [accKey_inj (by omega) (by omega) (by omega) (by omega)]
      omega
  · refine Table.get_foldl_never (fun p hp acc => Table.get_foldl_never (fun m hm acc => ?_) acc) k.acc
    obtain ⟨i, v⟩ := p
    have hi := (List.getElem?_eq_some_iff.1 (mem_zip_range.1 hp)).1
    have hm := List.mem_range.1 hm
    rw [Table.upd, Table.get_set, if_neg]
    rw [accKey_inj hrow hcl (by omega) (by omega)]
    omega

end Sys2Proof.Proofs
end

section
/-! PROOFS. Engine commands at their last iteration (R98, R101). -/

namespace Sys2Proof.Machine

section LastIteration

variable {s : State} {c q op : Nat} {r : CoreRun} {iss : Issued}

/-- The kernel of a core that runs it is not being saved. -/
theorem State.stopping_of_running {k : Kernel} (h : s.running c = some (r, k)) : s.stopping r = false := by
  rw [State.stopping, (State.running_iff.1 h).2.2]
  rfl

/-- A command in progress goes on. -/
theorem State.begin_of_run {k : Kernel} {isMine : BitVec 512 → Bool} (hrun : s.running c = some (r, k)) (hcmd : ((s.core c).queue q).run = some iss)
    (hmine : isMine iss.block = true) : s.begin c q isMine = .go s r iss := by
  unfold State.begin
  rw [hrun, Option.some_or, Option.some_or]
  dsimp only
  rw [hcmd]
  exact if_pos hmine

theorem AtLastIteration.begin (h : AtLastIteration s c q op r iss) : s.begin c q (fun b => cbOp b == op) = .go s r iss := by
  obtain ⟨k, hrun⟩ := h.runs
  exact State.begin_of_run hrun h.cmd (beq_iff_eq.2 h.opcode)

theorem AtLastIteration.stopping (h : AtLastIteration s c q op r iss) : s.stopping r = false := by
  obtain ⟨k, hrun⟩ := h.runs
  exact State.stopping_of_running hrun

theorem State.issue_of_issued (h : iss.issued = true) (form : Form) (check : Env → MemSys → Core → Issued → Option Nat) :
    s.issue c q r iss form check = (s, iss, .ok) := if_pos h

/-- A command whose last iteration takes effect retires. -/
theorem State.engineStep_of_last (h : AtLastIteration s c q op r iss) {t : State} {form : BitVec 512 → Form}
    {check : CoreRun → Env → MemSys → Core → Issued → Option Nat} {body : State → CoreRun → Issued → Nat → State × Done}
    (hbody : body s r iss iss.iter = (t, .ok)) : s.engineStep c q op form check nestTotal body = t.retire c q r := by
  have hturns : s.turns r iss.issued (nestTotal s (s.core c) iss - iss.iter) = 1 := by
    rw [State.turns, h.stopping, if_neg Bool.false_ne_true, nestTotal, h.last]
    omega
  unfold State.engineStep
  rw [h.begin]
  dsimp only
  rw [State.issue_of_issued h.issued]
  dsimp only
  rw [hturns, runIters, hbody]
  dsimp only [runIters]
  exact if_pos (by rw [nestTotal, h.last])

/-- Work that neither faults nor waits nor stops inside the iteration takes effect whole. -/
theorem nestBody_of_good {ops : List Opn} {noIndex : Bool} {work : Env → Core → Issued → List Opn → Nat → Wk → Core × Wk}
    (hops : bindOps (fun _ o => addrsOk (s.env c q r) ((s.env c q r).allowed s.mem) o) iss.block iss.descs noIndex ((s.core c).entries iss.block) = .ok ops)
    (hgood : (lastWork s c q r iss ops work).2.good = true) (hpart : (lastWork s c q r iss ops work).2.part = false) :
    nestBody c q noIndex work s r iss iss.iter =
      (((s.setCore c ((lastWork s c q r iss ops work).1.dropEntries (cbStream iss.block) (boundOps iss.block).length)).absorb c q r
        (cbTag iss.block) (lastWork s c q r iss ops work).2).updQueue c q (fun k => { k with landing := [] }), .ok) := by
  obtain ⟨hfault, hwait⟩ := (Wk.good_iff _).1 hgood
  unfold nestBody
  dsimp only
  rw [hops]
  change (match (lastWork s c q r iss ops work).2.fault with
    | some st => _
    | none => if (lastWork s c q r iss ops work).2.wait then _ else
      (((s.setCore c (if (lastWork s c q r iss ops work).2.part then _ else _)).absorb c q r (cbTag iss.block)
        (lastWork s c q r iss ops work).2).updQueue c q (fun k => { k with landing := [] }),
        if (lastWork s c q r iss ops work).2.part then Done.part else Done.ok)) = _
  rw [hfault, hwait, hpart]
  rfl

/-- A command whose event is its engine's step completes at its last iteration. -/
theorem nestCompletesAt_of_step {cmd : Instr} {noIndex : Bool} {work : Env → Core → Issued → List Opn → Nat → Wk → Core × Wk}
    {form : BitVec 512 → Form} {check : CoreRun → Env → MemSys → Core → Issued → Option Nat}
    (h : exec cmd s = .next (s.engineStep c q op form check nestTotal (nestBody c q noIndex work))) : NestCompletesAt s cmd c q op noIndex work :=
  fun _ _ _ hlast hops hgood hpart => h.trans (congrArg Host.Outcome.next (State.engineStep_of_last hlast (nestBody_of_good hops hgood hpart)))

theorem nestCompletes_of_step {cmd : Instr} {noIndex : Bool} {work : Env → Core → Issued → List Opn → Nat → Wk → Core × Wk}
    {form : BitVec 512 → Form} {check : CoreRun → Env → MemSys → Core → Issued → Option Nat}
    (h : ∀ s : State, exec cmd s = .next (s.engineStep c q op form check nestTotal (nestBody c q noIndex work))) :
    NestCompletes cmd c q op noIndex work := fun s => nestCompletesAt_of_step (h s)

end LastIteration

end Sys2Proof.Machine

namespace Sys2Proof.Proofs

open Sys2Proof.Machine

/-- Settles O40: the event of each command is one step of its engine, which takes the work of the last iteration and retires it. -/
theorem engineCommandsComplete : Obligations.EngineCommandsComplete := by
  unfold Obligations.EngineCommandsComplete
  refine ⟨⟨fun c => ?_, fun c => ?_, fun c => ?_, fun c => ?_⟩,
    ⟨fun c => ?_, fun c => ?_, fun c => ?_, fun c => ?_, fun c => ?_, fun c => ?_, fun c => ?_, fun c => ?_, fun c => ?_, fun c s h => ?_⟩⟩
  · exact nestCompletes_of_step (cmd := .dmaCopy c) fun _ => rfl
  · exact nestCompletes_of_step (cmd := .dmaFill c) fun _ => rfl
  · exact nestCompletes_of_step (cmd := .mxLoadw c) fun _ => rfl
  · exact nestCompletes_of_step (cmd := .mxMac c) fun _ => rfl
  · exact nestCompletes_of_step (cmd := .vLoad c) fun _ => rfl
  · exact nestCompletes_of_step (cmd := .vStore c) fun _ => rfl
  · exact nestCompletes_of_step (cmd := .vEwise c) fun _ => rfl
  · exact nestCompletes_of_step (cmd := .vReduce c) fun _ => rfl
  · exact nestCompletes_of_step (cmd := .vSoftmax c) fun _ => rfl
  · exact nestCompletes_of_step (cmd := .vRotary c) fun _ => rfl
  · exact nestCompletes_of_step (cmd := .vConvert c) fun _ => rfl
  · exact nestCompletes_of_step (cmd := .vGather c) fun _ => rfl
  · exact nestCompletes_of_step (cmd := .vScatter c) fun _ => rfl
  · exact nestCompletesAt_of_step (cmd := .vSample c) ((if_pos h).trans rfl)

end Sys2Proof.Proofs
end

section
/-! PROOFS. Element-wise commands on registers (R138, R141). -/

namespace Sys2Proof.Machine

/-! ## What work that touches no memory leaves -/

section Idle

variable {s t : State} {c q : Nat} {r : CoreRun}

theorem CoreOnly.flagged {k : Core} (h : CoreOnly s t c k) (f : LaneFlags) : CoreOnly s (t.updCore c (fun k => k.orFlags f)) c (k.orFlags f) := by
  have hf := CoreOnly.updCore t c (fun k => k.orFlags f)
  rw [h.core] at hf
  exact h.trans hf

/-- Work that touches no memory ORs its flags and clears its queue's stall mark. -/
theorem State.absorb_idle (s : State) (c q : Nat) (r : CoreRun) (tag : Nat) (f : LaneFlags) :
    CoreOnly s (s.absorb c q r tag { mem := s.mem, flags := f }) c
      (((s.core c).setQueue q { (s.core c).queue q with stalled := false }).orFlags f) := by
  have hread : CoreOnly s (s.absorbReads c q r tag { mem := s.mem, flags := f }) c
      ((s.core c).setQueue q { (s.core c).queue q with stalled := false }) := s.absorbReads_idle c q r tag
  unfold State.absorb
  dsimp only
  generalize s.absorbReads c q r tag { mem := s.mem, flags := f } = u at hread
  have hgranted : ({ u with host := { u.host with granted := u.host.granted.filter (fun l => !([] : List Nat).contains l) } } : State) = u := by
    have hall : u.host.granted.filter (fun l => !([] : List Nat).contains l) = u.host.granted := List.filter_eq_self.2 fun _ _ => rfl
    rw [hall]
  have hregs : u.engineRegs [] = u := rfl
  have hremote (n : Nat) : u.sendRemote r.part c q tag n [] = u := rfl
  rw [hgranted, hregs]
  simp only [List.foldl_nil, List.isEmpty_nil, Bool.not_true, Bool.false_eq_true, and_false, if_false, ite_self, hremote]
  exact hread.flagged f

/-- A core without its queues. -/
def Core.body (k : Core) : Core := { k with qMx := {}, qVec := {}, qDma := {}, qSeq := {} }

theorem Core.body_setQueue (k : Core) (q : Nat) (v : QueueSt) : (k.setQueue q v).body = k.body := by
  unfold Core.setQueue
  split
  · rfl
  · split
    · rfl
    · split <;> rfl

/-- `t` is `s` but for queue `q` of core `c` and for what a fault leaves in its context. -/
structure QueueOnly (s t : State) (c q : Nat) : Prop where
  body : (t.core c).body = (s.core c).body
  queues : ∀ j, j < 4 → j ≠ q → (t.core c).queue j = (s.core c).queue j
  cores : ∀ d, d ≠ c → t.core d = s.core d
  rest : { t with cores := [], contexts := [] } = { s with cores := [], contexts := [] }

theorem QueueOnly.refl (s : State) (c q : Nat) : QueueOnly s s c q := ⟨rfl, fun _ _ _ => rfl, fun _ _ => rfl, rfl⟩

theorem QueueOnly.trans {u : State} (h : QueueOnly s t c q) (g : QueueOnly t u c q) : QueueOnly s u c q :=
  ⟨g.body.trans h.body, fun j hj hne => (g.queues j hj hne).trans (h.queues j hj hne), fun d hd => (g.cores d hd).trans (h.cores d hd),
    g.rest.trans h.rest⟩

theorem QueueOnly.updQueue (hq : q < 4) (f : QueueSt → QueueSt) : QueueOnly s (s.updQueue c q f) c q := by
  refine ⟨?_, fun j hj hne => ?_, fun d hd => State.core_updCore_ne _ _ hd, rfl⟩
  · rw [State.updQueue, State.core_updCore, Core.body_setQueue]
  · rw [State.updQueue, State.core_updCore, Core.queue_setQueue_ne _ _ hq hj hne]

theorem QueueOnly.kernelFault (p x : Nat) (f : FaultInfo) : QueueOnly s (s.kernelFault p x f) c q := ⟨rfl, fun _ _ _ => rfl, fun _ _ => rfl, rfl⟩

theorem State.settle_queueOnly (hq : q < 4) : QueueOnly s (s.settle c q) c q ∧ ((s.settle c q).core c).queue q =
    { (s.core c).queue q with stopped := (((s.settle c q).core c).queue q).stopped } := by
  unfold State.settle
  split
  · exact ⟨.refl s c q, rfl⟩
  · split
    · exact ⟨.updQueue hq _, by rw [State.queue_updQueue _ _ _ _ hq]⟩
    · exact ⟨.refl s c q, rfl⟩

theorem State.takeLate_queueOnly (hq : q < 4) (h : s.takeLate c q r = some t) : QueueOnly s t c q ∧
    ((t.core c).queue q).run = ((s.core c).queue q).run ∧ ((t.core c).queue q).cmds = ((s.core c).queue q).cmds := by
  unfold State.takeLate at h
  split at h
  next f _ =>
    cases h
    refine ⟨QueueOnly.trans (.updQueue hq _) (.kernelFault ..), ?_⟩
    change (((s.updQueue c q (fun k => { k with lateFault := none })).core c).queue q).run = _ ∧
      (((s.updQueue c q (fun k => { k with lateFault := none })).core c).queue q).cmds = _
    rw [State.queue_updQueue _ _ _ _ hq]
    exact ⟨rfl, rfl⟩
  · cases h

/-- A command that retires leaves its queue, whether or not a fault waits for it. -/
theorem State.retire_spec (hq : q < 4) : QueueOnly s (s.retire c q r) c q ∧ (((s.retire c q r).core c).queue q).run = none ∧
    (((s.retire c q r).core c).queue q).cmds = ((s.core c).queue q).cmds.drop 1 := by
  unfold State.retire
  extract_lets u
  have hu : QueueOnly s u c q ∧ ((u.core c).queue q).run = none ∧ ((u.core c).queue q).cmds = ((s.core c).queue q).cmds.drop 1 := by
    refine ⟨.updQueue hq _, ?_⟩
    rw [show (u.core c).queue q = _ from State.queue_updQueue s c q _ hq]
    exact ⟨rfl, rfl⟩
  have hdone (v : State) (hv : QueueOnly u v c q ∧ ((v.core c).queue q).run = ((u.core c).queue q).run ∧
      ((v.core c).queue q).cmds = ((u.core c).queue q).cmds) : QueueOnly s (v.settle c q) c q ∧ (((v.settle c q).core c).queue q).run = none ∧
      (((v.settle c q).core c).queue q).cmds = ((s.core c).queue q).cmds.drop 1 := by
    obtain ⟨hsettle, hqueue⟩ := State.settle_queueOnly (s := v) (c := c) hq
    rw [hqueue]
    exact ⟨(hu.1.trans hv.1).trans hsettle, hv.2.1.trans hu.2.1, hv.2.2.trans hu.2.2⟩
  cases hlate : u.takeLate c q r with
  | none => exact hdone u ⟨.refl u c q, rfl, rfl⟩
  | some v => exact hdone v (State.takeLate_queueOnly hq hlate)

end Idle

/-! ## Rows of registers -/

section Rows

variable {e : Env} {k : Core} {b : BitVec 512} {va vb vc vd : VOp} {a bb d r : Nat} {w : Wk}

/-- Lanes written to a register. -/
def Core.putLanes (k : Core) (reg : Nat) (l : List (Nat × Word)) : Core :=
  { k with vregs := l.foldl (fun t x => Table.set t (256 * reg + x.1) x.2) k.vregs }

theorem readReg_plain (h : k.compat = false) (reg lane : Nat) : readReg e k w reg lane = (k.vregWord (256 * reg + lane), w) :=
  if_neg (by rw [h]; exact Bool.false_ne_true)

theorem vGet_plain {v : VOp} (hreg : v.reg = some a) (h : k.compat = false) (l : Nat) :
    vGet e k w v l r = ({ w := k.vregWord (256 * (a + r) + l) }, w) := by
  unfold vGet vGetBy
  rw [hreg]
  dsimp only
  rw [readReg_plain h]

theorem vPutRow_plain (hreg : vd.reg = some d) (h : k.compat = false) (l : List (Nat × VOut)) :
    vPutRow e k w vd r l = (k.putLanes (d + r) (l.map (fun x => (x.1, x.2.word))), w) := by
  unfold vPutRow
  rw [hreg]
  dsimp only
  induction l generalizing k with
  | nil => rfl
  | cons x l ih =>
    have hwrite : writeReg e k w (d + r) x.1 x.2.word = ({ k with vregs := Table.set k.vregs (256 * (d + r) + x.1) x.2.word }, w) :=
      if_neg (by rw [h]; exact Bool.false_ne_true)
    rw [List.foldl_cons, hwrite]
    exact ih (k := { k with vregs := Table.set k.vregs (256 * (d + r) + x.1) x.2.word }) h

/-- What V_EWISE makes of a lane of row `r` of its sources. -/
def Core.ewiseLane (k : Core) (b : BitVec 512) (a bb r l : Nat) : Word :=
  (ewise (vFn b) (k.vregWord (256 * (a + r) + l)) (if fnTakesB (vFn b) then k.vregWord (256 * (bb + r) + l) else 0) 0).1

theorem ewiseRow_plain (ha : va.reg = some a) (hb : vb.reg = some bb) (h : k.compat = false) (hfn : vFn b ≠ 4) (hmode : ewBmode b = 0)
    (htail : vTail b = false) (r : Nat) (ls : List Nat) : ∀ w : Wk, ∃ vs f, ewiseRow e k b va vb vc vd r ls w = (vs, { w with flags := f }) ∧
      vs.map (fun x => (x.1, x.2.word)) = ls.map (fun l => (l, k.ewiseLane b a bb r l)) := by
  have hc : fnTakesC (vFn b) = false := beq_eq_false_iff_ne.2 hfn
  have hmask (l : Nat) : vMasked e b va l r = false := by rw [vMasked, htail, Bool.false_and, Bool.false_and]
  have hB (l : Nat) (w : Wk) : ewiseB e k b vb w l r = ({ w := if fnTakesB (vFn b) then k.vregWord (256 * (bb + r) + l) else 0 }, w) := by
    unfold ewiseB
    cases fnTakesB (vFn b) with
    | false => rfl
    | true =>
      rw [hmode]
      exact vGet_plain hb h l
  induction ls with
  | nil => exact fun w => ⟨[], w.flags, rfl, rfl⟩
  | cons l ls ih =>
    intro w
    rw [ewiseRow, hmask, if_neg Bool.false_ne_true, vGet_plain ha h]
    dsimp only
    rw [hB, hc, if_neg Bool.false_ne_true]
    dsimp only
    obtain ⟨vs, f, hrow, hvs⟩ := ih (w.flag ((ewise (vFn b) (k.vregWord (256 * (a + r) + l))
      (if fnTakesB (vFn b) then k.vregWord (256 * (bb + r) + l) else 0) 0).2 ||| 0 ||| 0 ||| 0))
    rw [hrow]
    refine ⟨_, f, rfl, ?_⟩
    rw [List.map_cons, List.map_cons, hvs]
    refine congrArg (· :: _) (congrArg (Prod.mk l) ?_)
    split <;> rfl

theorem Core.putLanes_word (k : Core) (reg : Nat) (f : Nat → Word) (n x l : Nat) (hn : n ≤ 256) (hl : l < 256) :
    (k.putLanes reg ((List.range n).map (fun l => (l, f l)))).vregWord (256 * x + l) = if x = reg ∧ l < n then f l else k.vregWord (256 * x + l) := by
  unfold Core.putLanes Core.vregWord
  dsimp only
  induction n with
  | zero => rw [if_neg (by omega)]; rfl
  | succ n ih =>
    rw [List.range_succ, List.map_append, List.foldl_append, List.map_cons, List.map_nil, List.foldl_cons, List.foldl_nil, Table.get_set,
      ih (by omega)]
    by_cases hx : x = reg ∧ l = n
    · rw [if_pos (by omega), if_pos (by omega), hx.2]
    · rw [if_neg (by omega)]
      by_cases hlt : x = reg ∧ l < n
      · rw [if_pos hlt, if_pos (by omega)]
      · rw [if_neg hlt, if_neg (by omega)]

/-- The core with the first `n` rows of the destination block written. -/
structure RowsPut (k k' : Core) (b : BitVec 512) (a bb d n : Nat) : Prop where
  rest : { k' with vregs := [] } = { k with vregs := [] }
  word : ∀ x l, l < 256 → k'.vregWord (256 * x + l) =
    if l < vLanes b ∧ d ≤ x ∧ x < d + n then k.ewiseLane b a bb (x - d) l else k.vregWord (256 * x + l)

theorem ewise_rows {row : Nat → Core → Wk → Core × Wk} {va vb vc : Core → VOp}
    (hf : ∀ r k w, row r k w = vPutRow e k (ewiseRow e k b (va k) (vb k) (vc k) vd r (List.range (vLanes b)) w).2 vd r
      (ewiseRow e k b (va k) (vb k) (vc k) vd r (List.range (vLanes b)) w).1)
    (ha : ∀ k, (va k).reg = some a) (hb : ∀ k, (vb k).reg = some bb) (hd : vd.reg = some d) (h : k.compat = false) (hfn : vFn b ≠ 4)
    (hmode : ewBmode b = 0) (htail : vTail b = false) (hlanes : vLanes b ≤ 256) {n N : Nat}
    (hle : n ≤ N) (hda : a = d ∨ a + N ≤ d ∨ d + N ≤ a) (hdb : bb = d ∨ bb + N ≤ d ∨ d + N ≤ bb) (w : Wk) :
    ∃ k' f, overRows row n k w = (k', { w with flags := f }) ∧ RowsPut k k' b a bb d n := by
  unfold overRows
  induction n with
  | zero => exact ⟨k, w.flags, rfl, rfl, fun x l _ => by rw [if_neg (by omega)]⟩
  | succ n ih =>
    obtain ⟨k', f, hrows, hrest, hword⟩ := ih (by omega)
    have h' : k'.compat = false := (congrArg Core.compat hrest :).trans h
    obtain ⟨vs, f', hrow, hvs⟩ := ewiseRow_plain (e := e) (vc := vc k') (vd := vd) (ha k') (hb k') h' hfn hmode htail n (List.range (vLanes b)) { w with flags := f }
    rw [List.range_succ, List.foldl_append, hrows, List.foldl_cons, List.foldl_nil, hf, hrow, vPutRow_plain hd h', hvs]
    refine ⟨_, f', rfl, hrest, fun x l hl => ?_⟩
    have hsame (v : Nat) (hv : v = d ∨ v + N ≤ d ∨ d + N ≤ v) (l : Nat) (hl : l < 256) : k'.vregWord (256 * (v + n) + l) = k.vregWord (256 * (v + n) + l) := by
      rw [hword _ _ hl, if_neg (by omega)]
    rw [Core.putLanes_word _ _ _ _ _ _ hlanes hl, hword x l hl]
    by_cases hx : x = d + n ∧ l < vLanes b
    · rw [if_pos hx, if_pos (by omega), hx.1, Nat.add_sub_cancel_left, Core.ewiseLane, Core.ewiseLane, hsame a hda l hl, hsame bb hdb l hl]
    · rw [if_neg hx]
      by_cases hin : l < vLanes b ∧ d ≤ x ∧ x < d + n
      · rw [if_pos hin, if_pos (by omega)]
      · rw [if_neg hin, if_neg (by omega)]

end Rows

/-! ## The command -/

section EwiseEnd

variable {s : State} {c a b d : Nat} {r : CoreRun} {iss : Issued} {ops : List Opn}

theorem vOp_reg {k : Core} {o : Nat} (h : cbOpd iss.block o = 0xFF00 + a) (ha : a < 64) (n : Nat) : (vOp k iss ops n o).reg = some a := by
  refine (if_pos (by rw [h]; omega)).trans ?_
  rw [h, Nat.add_sub_cancel_left]

theorem Wk.send_idle (e : Env) (mem : MemSys) (f : LaneFlags) : Wk.send e { mem := mem, flags := f } = { mem := mem, flags := f } := rfl

theorem Core.vregWord_of_body {k k' : Core} (h : k'.body = k.body) (i : Nat) : k'.vregWord i = k.vregWord i := by
  have hbase : k'.vbase = k.vbase := (congrArg Core.vbase h :)
  have hvregs : k'.vregs = k.vregs := (congrArg Core.vregs h :)
  rw [Core.vregWord, hbase, hvregs, Core.vregWord]

/-- What V_EWISE on registers leaves in its core, of whose own state only the register block and the lane flags move. -/
theorem lastWork_ewise (hcompat : (s.core c).compat = false) (ha : cbOpd iss.block 0 = 0xFF00 + a) (hb : cbOpd iss.block 1 = 0xFF00 + b)
    (hd : cbOpd iss.block 3 = 0xFF00 + d) (ha64 : a < 64) (hb64 : b < 64) (hd64 : d < 64) (hfn : vFn iss.block ≠ 4) (hmode : ewBmode iss.block = 0)
    (htail : vTail iss.block = false) (hlanes : vLanes iss.block ≤ 256)
    (hda : a = d ∨ a + vRows iss.block ≤ d ∨ d + vRows iss.block ≤ a) (hdb : b = d ∨ b + vRows iss.block ≤ d ∨ d + vRows iss.block ≤ b) :
    ∃ k f, lastWork s c 1 r iss ops ewiseWork = (k, { mem := s.mem, flags := f }) ∧ RowsPut (s.core c) k iss.block a b d (vRows iss.block) := by
  have hwork : ∃ k f, ewiseWork (s.env c 1 r) (s.core c) iss ops iss.iter
      { mem := s.mem, flags := flagIf (takesNull iss.block ((s.core c).entries iss.block)) flagIDX } = (k, { mem := s.mem, flags := f }) ∧
      RowsPut (s.core c) k iss.block a b d (vRows iss.block) := by
    unfold ewiseWork
    exact ewise_rows (va := fun k => vOp k iss ops iss.iter 0) (vb := fun k => vOp k iss ops iss.iter 1)
      (vc := fun k => vOp k iss ops iss.iter 2) (fun _ _ _ => rfl) (fun _ => vOp_reg ha ha64 iss.iter) (fun _ => vOp_reg hb hb64 iss.iter)
      (vOp_reg hd hd64 iss.iter) hcompat hfn hmode htail
      hlanes (Nat.le_refl _) hda hdb _
  obtain ⟨k, f, heq, hput⟩ := hwork
  refine ⟨k, f, ?_, hput⟩
  rw [lastWork, heq, Wk.send_idle]

end EwiseEnd

end Sys2Proof.Machine

namespace Sys2Proof.Proofs

open Sys2Proof.Machine

/-- Settles O41: the work writes its rows one after another, and the end of the command moves its queue alone. -/
theorem ewiseWritesItsRegisterBlock : Obligations.EwiseWritesItsRegisterBlock := by
  unfold Obligations.EwiseWritesItsRegisterBlock
  intro s c r iss ops a b d hlast hops hcompat ha hb hd ha64 hb64 hd64 hfn hmode htail _ hsbind hlanes hda hdb
  obtain ⟨k, f, hwork, hrest, hword⟩ := lastWork_ewise (r := r) (ops := ops) hcompat ha hb hd ha64 hb64 hd64 hfn hmode htail hlanes hda hdb
  have hstep := nestCompletes_of_step (cmd := .vEwise c) (fun _ => rfl) s r iss ops hlast hops (by rw [hwork]; rfl) (by rw [hwork])
  have hbound : boundOps iss.block = [] := by rw [boundOps, hsbind]; rfl
  rw [hwork, hbound] at hstep
  dsimp only [List.length_nil] at hstep
  rw [show k.dropEntries (cbStream iss.block) 0 = k from rfl] at hstep
  have hset : (s.setCore c k).core c = k := Table.get_set_same ..
  have habs : CoreOnly (s.setCore c k) ((s.setCore c k).absorb c 1 r (cbTag iss.block) { mem := s.mem, flags := f }) c _ :=
    State.absorb_idle (s.setCore c k) c 1 r (cbTag iss.block) f
  rw [hset] at habs
  generalize (s.setCore c k).absorb c 1 r (cbTag iss.block) { mem := s.mem, flags := f } = u at habs hstep
  have hland : QueueOnly u (u.updQueue c 1 (fun q => { q with landing := [] })) c 1 := .updQueue (by decide) _
  obtain ⟨hretire, hrun, hcmds⟩ := State.retire_spec (s := u.updQueue c 1 (fun q => { q with landing := [] })) (c := c) (r := r) (q := 1) (by decide)
  have hall := hland.trans hretire
  generalize (u.updQueue c 1 (fun q => { q with landing := [] })).retire c 1 r = t at hstep hretire hrun hcmds hall
  have hbody (i : Nat) : (t.core c).vregWord i = k.vregWord i := by
    rw [Core.vregWord_of_body hall.body, habs.core]
    exact Core.vregWord_of_body (Core.body_setQueue ..) i
  refine ⟨t, hstep, ?_, ?_, hrun, ?_, fun l i hl hi => ?_, fun l i hl hne => ?_⟩
  · exact (congrArg State.mem hall.rest :).trans (congrArg State.mem habs.rest :)
  · exact (congrArg State.out hall.rest :).trans (congrArg State.out habs.rest :)
  · rw [hcmds, State.queue_updQueue _ _ _ _ (by decide), habs.core]
    exact congrArg (List.drop 1) (congrArg (fun k : Core => k.qVec.cmds) hrest :)
  · rw [hbody, hword _ _ (by omega), if_pos ⟨hl, by omega, by omega⟩, Nat.add_sub_cancel_left]
    rfl
  · rw [hbody, hword _ _ hl, if_neg hne]

end Sys2Proof.Proofs
end

section
/-! PROOFS. The sequencer's last entry (R97, R99, R192, R231). -/

namespace Sys2Proof.Machine

/-! ## What reads leave of a core beside its queues -/

section BodyKept

variable {s t u : State}

/-- `t` keeps the memories of `s` and every core but for its queues. -/
structure BodyKept (s t : State) : Prop where
  core : ∀ c, (t.core c).body = (s.core c).body
  mem : t.mem = s.mem

theorem BodyKept.refl (s : State) : BodyKept s s := ⟨fun _ => rfl, rfl⟩

theorem BodyKept.trans (h : BodyKept s t) (g : BodyKept t u) : BodyKept s u :=
  ⟨fun c => (g.core c).trans (h.core c), g.mem.trans h.mem⟩

theorem BodyKept.of_eq (hc : t.cores = s.cores) (hm : t.mem = s.mem) : BodyKept s t := ⟨fun c => by simp only [State.core, hc], hm⟩

theorem BodyKept.updQueue (c q : Nat) (f : QueueSt → QueueSt) : BodyKept s (s.updQueue c q f) where
  core d := by
    by_cases hd : d = c
    · rw [hd, State.updQueue, State.core_updCore, Core.body_setQueue]
    · rw [State.updQueue, State.core_updCore_ne _ _ hd]
  mem := rfl

theorem State.addMoved_bodyKept (s : State) (c i n : Nat) : BodyKept s (s.addMoved c i n) := by
  unfold State.addMoved
  split <;> exact .of_eq rfl rfl

theorem State.addCharge_bodyKept (s : State) (c n : Nat) : BodyKept s (s.addCharge c n) := by
  unfold State.addCharge
  split <;> exact .of_eq rfl rfl

theorem State.finishOp_bodyKept (s : State) (p tag status : Nat) (data : List Byte) : BodyKept s (s.finishOp p tag status data) := by
  unfold State.finishOp
  split
  · exact .refl s
  · dsimp only
    have hdel : BodyKept s (s.updPart p (fun x => { x with outstanding := Table.del x.outstanding tag })) := .of_eq rfl rfl
    split
    · exact hdel.trans (.updQueue ..)
    · split
      · exact hdel.trans ((State.addMoved_bodyKept ..).trans (.updQueue ..))
      · exact hdel.trans (.updQueue ..)

theorem State.sendOp_bodyKept {p q : Nat} {o : FabOp} (h : s.sendOp p o = some (t, q)) : BodyKept s t := by
  unfold State.sendOp at h
  split at h
  · cases h
    exact .of_eq rfl rfl
  · cases h

theorem State.issueOp_bodyKept (s : State) (p : Nat) (req : OutReq) (o : FabOp) : BodyKept s (s.issueOp p req o) := by
  unfold State.issueOp
  extract_lets tag o' s'
  have hs : BodyKept s s' := .of_eq rfl rfl
  split
  next h => exact (hs.trans (State.sendOp_bodyKept h)).trans (.of_eq rfl rfl)
  next =>
    have hset : BodyKept s' (s'.updPart p (fun x => { x with outstanding := Table.set x.outstanding tag req })) := .of_eq rfl rfl
    exact (hs.trans hset).trans (State.finishOp_bodyKept ..)

theorem State.askRemote_bodyKept (s : State) (p c q tag count : Nat) (lines : List Nat) : BodyKept s (s.askRemote p c q tag count lines) := by
  unfold State.askRemote
  dsimp only
  refine List.foldlRecOn (motive := BodyKept s) _ _ (.refl s) fun t ht x _ => ht.trans ?_
  split
  · exact .refl t
  · exact ((BodyKept.updQueue ..).trans (State.addMoved_bodyKept ..)).trans (State.issueOp_bodyKept ..)

/-- Reads change of a core its queues alone, and leave the memory they return. -/
theorem State.absorbReads_bodyKept (s : State) (c q : Nat) (r : CoreRun) (tag : Nat) (w : Wk) :
    BodyKept { s with mem := w.mem } (s.absorbReads c q r tag w) := by
  unfold State.absorbReads
  extract_lets s₁ s₂ s₃ s₄
  obtain ⟨-, hmem, hcores⟩ := s.withMem_frame w.mem 3
  have h₁ : BodyKept { s with mem := w.mem } s₁ := .of_eq hcores hmem
  have h₂ : BodyKept s₁ s₂ := ((State.addMoved_bodyKept ..).trans (State.addMoved_bodyKept ..)).trans (State.addCharge_bodyKept ..)
  have h₃ : BodyKept s₂ s₃ := .of_eq (s₂.sendSnoops_frame _).2.2 (s₂.sendSnoops_frame _).2.1
  have h₄ : BodyKept s₃ s₄ := by
    unfold s₄
    split
    · exact .refl s₃
    · exact .updQueue ..
  exact (((h₁.trans h₂).trans h₃).trans h₄).trans (State.askRemote_bodyKept ..)

end BodyKept

/-! ## One slot alone -/

section Generation

variable {s : State} {mk : EntryMaker} {c i op : Nat} {r : CoreRun} {k : Kernel} {g : Issued}

theorem Table.key_ne_of_has {α : Type} {t : Table α} {j : Nat} {p : Nat × α} (h : Table.has t j = false) (hp : p ∈ t) : p.1 ≠ j := by
  have := List.any_eq_false.1 h p hp
  rwa [beq_iff_eq] at this

theorem Table.get_of_not_has {α : Type} (d : α) {t : Table α} {j : Nat} (h : Table.has t j = false) : Table.get d t j = d := by
  induction t with
  | nil => rfl
  | cons p t ih =>
    rw [Table.has, List.any_cons, Bool.or_eq_false_iff] at h
    rw [Table.get, if_neg (beq_eq_false_iff_ne.1 h.1)]
    exact ih h.2

/-- A slot at its last iteration is the only one that generates. -/
structure LastEntry (s : State) (c i : Nat) (r : CoreRun) (g : Issued) : Prop where
  slot : i < 16
  gen : ((s.core c).stream i).gen = some g
  last : nIters (nCounts g.nest (s.core c).params) = g.iter + 1
  room : ((s.core c).stream i).entries.length < 64
  alone : ∀ j, j ≠ i → Table.has (s.core c).streams j = false

theorem LastEntry.stream_ne (h : LastEntry s c i r g) {j : Nat} (hj : j ≠ i) : (s.core c).stream j = {} :=
  Table.get_of_not_has ({} : Stream) (h.alone j hj)

theorem LastEntry.mayGen (h : LastEntry s c i r g) (hop : cbOp g.block = op) : (s.core c).mayGen op i = true := by
  unfold Core.mayGen
  rw [h.gen]
  dsimp only
  rw [Bool.and_eq_true, beq_iff_eq, List.all_eq_true]
  refine ⟨hop, fun p hp => ?_⟩
  have hi : p.1 = i := by
    by_contra hne
    exact Table.key_ne_of_has (h.alone _ hne) hp rfl
  rw [beq_iff_eq.2 hi, Bool.true_or, Bool.true_or]

theorem filter_range_eq_singleton : ∀ i < 16, (List.range 16).filter (fun j => j == i) = [i] := by decide

theorem LastEntry.order (h : LastEntry s c i r g) : (List.range 16).filter (fun j => ((s.core c).stream j).gen.isSome) = [i] := by
  rw [← filter_range_eq_singleton i h.slot]
  refine List.filter_congr fun j _ => ?_
  by_cases hj : j = i
  · rw [hj, h.gen, beq_self_eq_true, Option.isSome_some]
  · rw [h.stream_ne hj, beq_false_of_ne hj]
    rfl

/-- `t` is `s` with the last entry `v` of slot `i` made, and the memory `m` left by its reads. -/
structure EntryMade (s t : State) (c i : Nat) (v : StreamEntry) (m : MemSys) : Prop where
  entries : ((t.core c).stream i).entries = ((s.core c).stream i).entries ++ [v]
  gen : ((t.core c).stream i).gen = none
  rest : { (t.core c).body with streams := [] } = { (s.core c).body with streams := [] }
  queue : ((t.core c).queue 3).still = ((s.core c).queue 3).still
  context : ∀ p x, (t.context p x).still = (s.context p x).still
  mem : t.mem = m

theorem Core.stream_updStream (s : State) (c i : Nat) (f : Stream → Stream) : ((s.updStream c i f).core c).stream i = f ((s.core c).stream i) := by
  rw [State.updStream, State.core_updCore]
  exact Table.get_set_same ..

theorem Wk.counted_of_good {w : Wk} (h : w.good = true) : w.counted = w :=
  if_neg (by rw [(w.good_iff.1 h).2]; exact Bool.false_ne_true)

/-- The lines that work took are no longer granted. -/
def State.taking (s : State) (l : List Nat) : State :=
  { s with host := { s.host with granted := s.host.granted.filter (fun i => !l.contains i) } }

theorem LastEntry.runGen (h : LastEntry s c i r g) {v : StreamEntry} {w : Wk} (hmk : mk s (s.env c 3 r) g g.iter { mem := s.mem } = (v, w))
    (hgood : w.good = true) (fuel : Nat) : EntryMade s (s.runGen mk c i r (fuel + 2)) c i v w.mem := by
  rw [State.runGen]
  dsimp only
  rw [h.gen]
  dsimp only
  rw [if_neg (by rw [h.last]; omega), if_neg (by have := h.room; omega), hmk]
  dsimp only
  obtain ⟨hfault, hwait⟩ := w.good_iff.1 hgood
  rw [hfault, hwait, Wk.counted_of_good hgood]
  dsimp only
  rw [if_neg Bool.false_ne_true]
  have hbody := s.absorbReads_bodyKept c 3 r (cbTag g.block) w
  have hreads := s.absorbReads_reads c 3 r (cbTag g.block) w
  generalize s.absorbReads c 3 r (cbTag g.block) w = u at hbody hreads
  obtain ⟨hgrantedBody, hgrantedReads⟩ : BodyKept u (u.taking w.taken) ∧ Reads u (u.taking w.taken) := ⟨.of_eq rfl rfl, .of_eq rfl rfl rfl⟩
  have hbase : BodyKept u ((u.taking w.taken).updQueue c 3 (fun q => { q with landing := [] })) := hgrantedBody.trans (.updQueue ..)
  have hland : Reads u ((u.taking w.taken).updQueue c 3 (fun q => { q with landing := [] })) := hgrantedReads.trans (.updQueue fun _ => rfl)
  rw [show ({ u with host := { u.host with granted := u.host.granted.filter (fun l => !w.taken.contains l) } } : State) = u.taking w.taken from rfl]
  generalize (u.taking w.taken).updQueue c 3 (fun q => { q with landing := [] }) = x at hbase hland
  have hbody := hbody.trans hbase
  have hreads := hreads.trans hland
  have hcore : (x.core c).body = (s.core c).body := hbody.core c
  have hstream : (x.core c).stream i = (s.core c).stream i := congrArg (fun k => k.stream i) hcore
  have hparams : (x.core c).params = (s.core c).params := (congrArg Core.params hcore :)
  rw [State.runGen]
  dsimp only
  rw [Core.stream_updStream, hstream]
  dsimp only
  rw [if_pos]
  · refine ⟨?_, ?_, ?_, ?_, fun p y => hreads.context p y, hbody.mem⟩
    · rw [Core.stream_updStream, Core.stream_updStream, hstream]
    · rw [Core.stream_updStream]
    · rw [State.updStream, State.core_updCore, State.updStream, State.core_updCore]
      exact congrArg (fun k : Core => { k with streams := [] }) hcore
    · rw [State.updStream, State.core_updCore, State.updStream, State.core_updCore]
      exact congrArg Core.qSeq (hreads.core c)
  · rw [State.updStream, State.core_updCore]
    dsimp only
    rw [hparams, h.last]

/-- The generation of an opcode with one slot, at its last entry. -/
theorem LastEntry.generate (h : LastEntry s c i r g) {v : StreamEntry} {w : Wk} (hrun : s.running c = some (r, k)) (hop : cbOp g.block = op)
    (hmk : mk s (s.env c 3 r) g g.iter { mem := s.mem } = (v, w)) (hgood : w.good = true) :
    EntryMade s (s.generate mk c op) c i v w.mem := by
  have hmade := h.runGen hmk hgood 64
  obtain ⟨hcore, hkernel, hstate⟩ := State.running_iff.1 hrun
  unfold State.generate
  rw [hrun]
  dsimp only [Option.or]
  rw [h.order, State.stopping_of_running hrun]
  dsimp only [sortBy, List.foldr, insertBy, List.foldl]
  rw [if_pos (h.mayGen hop), Bool.not_false, Bool.true_or, if_pos rfl]
  generalize s.runGen mk c i r (64 + 2) = t at hmade
  have hrunCore : (t.core c).run = some r := (congrArg Core.run hmade.rest :).trans hcore
  have hstill : (t.context r.part r.ctx).state = .running := (congrArg Context.state (hmade.context r.part r.ctx) :).trans hstate
  rw [State.settle_of_not_stands]
  · exact hmade
  · rw [State.stands_of_run 3 hrunCore, State.stopping, hstill]
    rfl

/-- A SEQ event with an empty queue only generates. -/
theorem State.seqStep_of_empty {form : Form} {check : Env → Core → Issued → Bool} (hcmds : ((((s.generate mk c op).core c).queue 3)).cmds = [])
    (hrun : (((s.generate mk c op).core c).queue 3).run = none) : s.seqStep c op form check mk = s.generate mk c op := by
  unfold State.seqStep
  dsimp only
  generalize s.generate mk c op = t at hcmds hrun
  have hidle (mine : BitVec 512 → Bool) : t.begin c 3 mine = .idle := by
    unfold State.begin
    split
    · rfl
    · dsimp only
      rw [hrun, hcmds]
  rw [hidle]

end Generation

end Sys2Proof.Machine

namespace Sys2Proof.Proofs

open Sys2Proof.Machine

theorem seqCompletes_of_step {cmd : Instr} {c op : Nat} {mk : EntryMaker} {form : Form} {check : Env → Core → Issued → Bool}
    (h : ∀ s : State, exec cmd s = .next (s.seqStep c op form check mk)) : SeqCompletes cmd c op mk := by
  intro s r k i g hrun hi hgen hop hlast hroom halone hcmds hq hgood
  have hmade := LastEntry.generate ⟨hi, hgen, hlast, hroom, halone⟩ hrun hop (Prod.mk.eta (p := mk s (s.env c 3 r) g g.iter { mem := s.mem })).symm hgood
  have hempty : s.seqStep c op form check mk = s.generate mk c op :=
    State.seqStep_of_empty ((congrArg QueueSt.cmds hmade.queue :).trans hcmds) ((congrArg QueueSt.run hmade.queue :).trans hq)
  refine ⟨s.generate mk c op, (h s).trans (congrArg _ hempty), hmade.entries, hmade.gen, ?_, ?_, hmade.mem⟩
  · exact (congrArg Core.acc hmade.rest :)
  · exact (congrArg Core.vregs hmade.rest :)

/-- Settles O44: the slot's one entry is made, and its empty queue begins nothing. -/
theorem sequencerFillsItsSlots : Obligations.SequencerFillsItsSlots := by
  unfold Obligations.SequencerFillsItsSlots
  exact ⟨fun c => seqCompletes_of_step fun _ => rfl, fun c => seqCompletes_of_step fun _ => rfl, fun c => seqCompletes_of_step fun _ => rfl⟩

end Sys2Proof.Proofs
end

section
/-! PROOFS. Forwarding of STK commands (R88, R166, R167). -/

namespace Sys2Proof.Machine

section Forwarding

variable {s : State} {c op : Nat} {r : CoreRun} {iss : Issued}

/-- The command, with the entries that its forwarding takes. -/
def wholeCmd (s : State) (c : Nat) (r : CoreRun) (iss : Issued) : StkCmd :=
  { forwardedCmd s c r iss with entries := ((s.core c).entries iss.block).take (boundOps iss.block).length, whole := true }

/-- A command joins the sub-queue of its core. -/
def Engine.queued (g : Engine) (c : Nat) (x : StkCmd) : Engine := { g with subq := Table.set g.subq (c % 12) (g.sub c ++ [x]) }

theorem Engine.sub_queued (g : Engine) (c : Nat) (x : StkCmd) : (g.queued c x).sub c = g.sub c ++ [x] := Table.get_set_same ..

theorem Engine.sub_updCmd (g : Engine) (c d num : Nat) (f : StkCmd → StkCmd) :
    (g.updCmd d num f).sub c = (g.sub c).map (fun x => if x.core == d && x.count == num then f x else x) :=
  Table.get_map (List.map (fun x => if x.core == d && x.count == num then f x else x)) [] g.subq (c % 12)

theorem Engine.active_updCmd (g : Engine) (d num : Nat) (f : StkCmd → StkCmd) : (g.updCmd d num f).active.map Prod.fst = g.active.map Prod.fst := by
  rw [Engine.updCmd]
  exact List.map_map ..

/-- A command whose number no other one of the sub-queue has is changed alone. -/
theorem Engine.sub_updCmd_queued {g : Engine} {x : StkCmd} {f : StkCmd → StkCmd} (hcore : x.core = c)
    (hfresh : ∀ y ∈ g.sub c, y.count ≠ x.count) : ((g.queued c x).updCmd c x.count f).sub c = g.sub c ++ [f x] := by
  have hkeep : (g.sub c).map (fun y => if y.core == c && y.count == x.count then f y else y) = g.sub c := by
    refine (List.map_congr_left fun y hy => ?_).trans (List.map_id _)
    rw [beq_false_of_ne (hfresh y hy), Bool.and_false]
    rfl
  rw [Engine.sub_updCmd, Engine.sub_queued, List.map_append, hkeep, List.map_cons, List.map_nil, hcore, beq_self_eq_true, beq_self_eq_true]
  rfl

/-- The state once the command and its entries have gone to the engine. -/
def State.forwarded (s : State) (c : Nat) (r : CoreRun) (iss : Issued) : State :=
  ((s.updEngine (stkStack iss.block) (fun g => g.queued c (forwardedCmd s c r iss))).setCore c
    ((s.core c).dropEntries (cbStream iss.block) (boundOps iss.block).length)).updEngine (stkStack iss.block)
    (fun g => g.updCmd c ((s.core c).queue 2).count
      (fun x => { x with entries := x.entries ++ ((s.core c).entries iss.block).take (boundOps iss.block).length, whole := true }))

/-- No command of the engine has the number that core `c` forwards under, and its sub-queue has room. -/
structure ForwardFree (s : State) (c : Nat) (g : Engine) : Prop where
  room : (g.sub c).length < 32
  fresh : ∀ y ∈ g.sub c, y.count ≠ ((s.core c).queue 2).count
  idle : g.active.any (fun a => a.2.cmd.core == c && a.2.cmd.count == ((s.core c).queue 2).count) = false

theorem forwardBody_of_free (h : ForwardFree s c (s.engine (stkStack iss.block))) (hlast : nIters (nCounts iss.nest (s.core c).params) = 1)
    (hentries : (boundOps iss.block).length ≤ ((s.core c).entries iss.block).length) :
    forwardBody c s r iss 0 = (s.forwarded c r iss, .ok) := by
  have hsub : ((s.engine (stkStack iss.block)).sub c).any (fun x => x.count == (s.core c).qDma.count) = false :=
    List.any_eq_false.2 fun y hy => by
      have hne : y.count ≠ (s.core c).qDma.count := h.fresh y hy
      rw [beq_false_of_ne hne]
      exact Bool.false_ne_true
  have hidle : (s.engine (stkStack iss.block)).active.any (fun a => a.2.cmd.core == c && a.2.cmd.count == (s.core c).qDma.count) = false := h.idle
  unfold forwardBody
  extract_lets K core g num kid cmd known u need es last v
  have hknown : known = false := Bool.or_eq_false_iff.2 ⟨hsub, hidle⟩
  have hu : u = s.updEngine K (fun g => g.queued c (forwardedCmd s c r iss)) := by
    refine (if_neg ?_).trans rfl
    rw [hknown]
    exact Bool.false_ne_true
  rw [if_neg (by rintro ⟨-, hge, -⟩; exact absurd h.room (Nat.not_lt.2 hge)), if_neg (Nat.not_lt.2 hentries)]
  have hv : v = u.setCore c ((u.core c).dropEntries (cbStream iss.block) need) := rfl
  rw [hv, hu, show last = true from decide_eq_true hlast.le]
  rfl

theorem State.engine_setCore (k : Nat) (v : Core) : (s.setCore c v).engine k = s.engine k := rfl

theorem State.forwarded_sub (h : ForwardFree s c (s.engine (stkStack iss.block))) :
    ((s.forwarded c r iss).engine (stkStack iss.block)).sub c = (s.engine (stkStack iss.block)).sub c ++ [wholeCmd s c r iss] := by
  rw [State.forwarded, State.engine_updEngine, State.engine_setCore, State.engine_updEngine]
  exact Engine.sub_updCmd_queued (x := forwardedCmd s c r iss) rfl h.fresh

theorem State.forwarded_active : ((s.forwarded c r iss).engine (stkStack iss.block)).active.map Prod.fst =
    (s.engine (stkStack iss.block)).active.map Prod.fst := by
  rw [State.forwarded, State.engine_updEngine, Engine.active_updCmd, State.engine_setCore, State.engine_updEngine]
  rfl

theorem State.forwarded_engine_ne {k : Nat} (hk : k ≠ stkStack iss.block) : (s.forwarded c r iss).engine k = s.engine k := by
  rw [State.forwarded, State.engine_updEngine_ne _ _ hk, State.engine_setCore]
  exact State.engine_updEngine_ne _ _ hk

theorem State.forwarded_core : (s.forwarded c r iss).core c = (s.core c).dropEntries (cbStream iss.block) (boundOps iss.block).length :=
  State.core_setCore ..

theorem Core.dropEntries_frame (k : Core) (slot n : Nat) : { k.dropEntries slot n with streams := [] } = { k with streams := [] } := by
  unfold Core.dropEntries
  split <;> rfl

end Forwarding

end Sys2Proof.Machine

namespace Sys2Proof.Proofs

open Sys2Proof.Machine

/-- A DMA queue's last iteration that only forwards leaves the command to its stack's engine and retires. -/
theorem forwardCompletesAt_of_step {s : State} {cmd : Instr} {c op : Nat} {form : BitVec 512 → Form}
    {check : CoreRun → Env → MemSys → Core → Issued → Option Nat}
    (h : exec cmd s = .next (s.engineStep c 2 op form check nestTotal (forwardBody c))) : ForwardCompletesAt s cmd c op := by
  intro r iss hlast hiter hlate hroom hfresh hidle hcore hentries
  have hfree : ForwardFree s c (s.engine (stkStack iss.block)) := by
    refine ⟨hroom, fun y hy heq => ?_, ?_⟩
    · have hy1 := List.all_eq_true.1 hfresh y hy
      rw [heq, List.all_eq_true.1 hcore y hy |> beq_iff_eq.1] at hy1
      simp at hy1
    · refine List.any_eq_false.2 fun a ha => ?_
      have := List.all_eq_true.1 hidle a ha
      simp only [bne_iff_ne, Bool.or_eq_true, beq_iff_eq, Bool.and_eq_true] at this ⊢
      tauto
  have hn := hlast.last
  rw [hiter] at hn
  have hbody : forwardBody c s r iss iss.iter = (s.forwarded c r iss, .ok) := by
    rw [hiter]
    exact forwardBody_of_free hfree hn hentries
  obtain ⟨k, hrun⟩ := hlast.runs
  have hdrop := (s.core c).dropEntries_frame (cbStream iss.block) (boundOps iss.block).length
  have hqueue : ((s.forwarded c r iss).core c).queue 2 = (s.core c).queue 2 := by
    rw [State.forwarded_core]
    exact (congrArg Core.qDma hdrop :)
  have hrun' : (s.forwarded c r iss).running c = some (r, k) := by
    obtain ⟨hr, hk, hst⟩ := State.running_iff.1 hrun
    refine State.running_iff.2 ⟨?_, hk, hst⟩
    rw [State.forwarded_core]
    exact (congrArg Core.run hdrop :).trans hr
  have hretire := State.retire_of_running (r := r) (q := 2) (by decide) hrun' (by rw [hqueue]; exact hlate)
  refine ⟨_, h.trans (congrArg _ ((State.engineStep_of_last hlast hbody).trans hretire)), State.forwarded_sub hfree, State.forwarded_active,
    fun k hk => State.forwarded_engine_ne hk, ?_, ?_, ?_, ?_, rfl, rfl, fun d hd => ?_⟩
  · rw [State.queue_updQueue _ _ _ _ (by decide)]
  · rw [State.queue_updQueue _ _ _ _ (by decide), hqueue]
  · rw [State.updQueue, State.core_updCore, State.forwarded_core]
    exact (congrArg Core.acc hdrop :)
  · rw [State.updQueue, State.core_updCore, State.forwarded_core]
    exact (congrArg Core.vregs hdrop :)
  · rw [State.updQueue, State.core_updCore_ne _ _ hd]
    exact Table.get_set_ne _ _ _ hd

/-- Settles O45: the one iteration of each command goes to its engine whole, and the DMA queue retires it. -/
theorem stackCommandsAreForwarded : Obligations.StackCommandsAreForwarded := by
  unfold Obligations.StackCommandsAreForwarded
  refine ⟨fun c s => forwardCompletesAt_of_step rfl, fun c s => forwardCompletesAt_of_step rfl, fun c s haccepts => ?_,
    fun c s => forwardCompletesAt_of_step rfl, fun c s => forwardCompletesAt_of_step rfl, fun c s => forwardCompletesAt_of_step rfl,
    fun c s => forwardCompletesAt_of_step rfl⟩
  have hoff {op : Nat} {r : CoreRun} (hr : (s.core c).run = some r) : s.refuseUnaccepted c op 14 0x0101 = none := by
    unfold State.refuseUnaccepted
    rw [hr]
    exact if_pos (haccepts r hr)
  refine ⟨fun r iss hlast => ?_, fun r iss hlast => ?_⟩
  all_goals obtain ⟨k, hrun⟩ := hlast.runs
  · have hexec : exec (.sGather (.forward c)) s = execSGather (.forward c) s := rfl
    unfold execSGather at hexec
    dsimp only at hexec
    rw [hoff (State.running_iff.1 hrun).1] at hexec
    exact forwardCompletesAt_of_step hexec r iss hlast
  · have hexec : exec (.sScatter (.forward c)) s = execSScatter (.forward c) s := rfl
    unfold execSScatter at hexec
    dsimp only at hexec
    rw [hoff (State.running_iff.1 hrun).1] at hexec
    exact forwardCompletesAt_of_step hexec r iss hlast

end Sys2Proof.Proofs
end

section
/-! PROOFS. Accumulators and the spool (R118, R123, R125, R127 to R130, R154, R155). -/

namespace Sys2Proof.Machine

section Retires

variable {s : State} {c q op : Nat} {r : CoreRun} {k : Kernel} {iss : Issued}

/-- A command whose last piece of work takes effect retires. -/
theorem State.engineStep_of_one {t : State} {form : BitVec 512 → Form} {check : CoreRun → Env → MemSys → Core → Issued → Option Nat}
    {total : State → Core → Issued → Nat} {body : State → CoreRun → Issued → Nat → State × Done} (hrun : s.running c = some (r, k))
    (hcmd : ((s.core c).queue q).run = some iss) (hissued : iss.issued = true) (hop : cbOp iss.block = op)
    (htotal : total s (s.core c) iss = iss.iter + 1) (hbody : body s r iss iss.iter = (t, .ok)) :
    s.engineStep c q op form check total body = t.retire c q r := by
  have hturns : s.turns r iss.issued (total s (s.core c) iss - iss.iter) = 1 := by
    rw [State.turns, State.stopping_of_running hrun, if_neg Bool.false_ne_true, htotal]
    omega
  unfold State.engineStep
  rw [State.begin_of_run (isMine := fun b => cbOp b == op) hrun hcmd (beq_iff_eq.2 hop)]
  dsimp only
  rw [State.issue_of_issued hissued]
  dsimp only
  rw [hturns, runIters, hbody]
  dsimp only [runIters]
  exact if_pos htotal.le

/-- A command that retires from a core whose own state alone has moved. -/
theorem State.retire_setCore {k' : Core} (hq : q < 4) (hrun : s.running c = some (r, k)) (hk : k'.run = (s.core c).run)
    (hqueue : k'.queue q = (s.core c).queue q) (hlate : ((s.core c).queue q).lateFault = none) :
    (s.setCore c k').retire c q r = (s.setCore c k').updQueue c q (fun k => { k.clearCmd with cmds := k.cmds.drop 1, run := none }) := by
  obtain ⟨hr, hkernel, hstate⟩ := State.running_iff.1 hrun
  refine State.retire_of_running (k := k) (r' := r) hq (State.running_iff.2 ⟨?_, hkernel, hstate⟩) ?_
  · rw [State.core_setCore, hk, hr]
  · rw [State.core_setCore, hqueue, hlate]

/-- The core that it leaves. -/
theorem State.core_retire_setCore {k' : Core} (hq : q < 4) :
    (((s.setCore c k').updQueue c q (fun k => { k.clearCmd with cmds := k.cmds.drop 1, run := none })).core c).queue q =
      { (k'.queue q).clearCmd with cmds := (k'.queue q).cmds.drop 1, run := none } ∧
    (((s.setCore c k').updQueue c q (fun k => { k.clearCmd with cmds := k.cmds.drop 1, run := none })).core c).body = k'.body := by
  rw [State.updQueue, State.core_updCore, State.core_setCore]
  exact ⟨Core.queue_setQueue _ _ _ hq, Core.body_setQueue ..⟩

end Retires

/-! ## Accumulators -/

section Zero

variable {k : Core}

theorem Table.get_filter {α : Type} (d : α) (t : Table α) (p : Nat → Bool) (j : Nat) :
    Table.get d (t.filter (fun x => p x.1)) j = if p j = true then Table.get d t j else d := by
  induction t with
  | nil => simp [Table.get]
  | cons x t ih =>
    obtain ⟨i, v⟩ := x
    rw [List.filter_cons]
    by_cases hi : i = j
    · subst hi
      cases hp : p i <;> simp [Table.get, hp, ih]
    · cases hp : p i <;> simp [Table.get, hi, ih]

/-- An element of a zeroed group reads +0, and every other one is kept. -/
theorem Core.accAt_zeroGroup (k : Core) (bank g bank' row col : Nat) (hrow : row < 256) (hcol : col < 256) :
    (k.zeroGroup bank g).accAt bank' row col = if bank' = bank ∧ row / 32 = g then 0 else k.accAt bank' row col := by
  have hbank : accKey bank' row col / 65536 = bank' := by unfold accKey; omega
  have hgroup : accKey bank' row col % 65536 / 8192 = row / 32 := by unfold accKey; omega
  have hget := Table.get_filter (0 : Word) k.acc (fun j => !(j / 65536 == bank && j % 65536 / 8192 == g)) (accKey bank' row col)
  rw [hbank, hgroup] at hget
  refine hget.trans ?_
  by_cases h : bank' = bank ∧ row / 32 = g
  · rw [if_pos h, if_neg (by simp [h.1, h.2])]
  · rw [if_neg h, if_pos (by simpa using not_and_or.1 h)]
    rfl

theorem Core.zeroGroup_frame (k : Core) (bank g : Nat) : { k.zeroGroup bank g with acc := [] } = { k with acc := [] } := rfl

/-- What MX_ZERO leaves of the elements: those of the listed groups read +0. -/
theorem Core.accAt_zeroGroups (l : List (Nat × Nat)) (bank row col : Nat) (hrow : row < 256) (hcol : col < 256) : ∀ k : Core,
    (l.foldl (fun k p => k.zeroGroup p.1 p.2) k).accAt bank row col = if (bank, row / 32) ∈ l then 0 else k.accAt bank row col := by
  induction l with
  | nil => exact fun k => rfl
  | cons p l ih =>
    intro k
    rw [List.foldl_cons, ih, Core.accAt_zeroGroup _ _ _ _ _ _ hrow hcol]
    by_cases hl : (bank, row / 32) ∈ l
    · rw [if_pos hl, if_pos (List.mem_cons_of_mem _ hl)]
    · rw [if_neg hl]
      by_cases hp : bank = p.1 ∧ row / 32 = p.2
      · rw [if_pos hp, if_pos (by rw [hp.1, hp.2]; exact List.mem_cons_self)]
      · rw [if_neg hp, if_neg]
        rw [List.mem_cons]
        rintro (heq | hin)
        · exact hp ⟨congrArg Prod.fst heq, congrArg Prod.snd heq⟩
        · exact hl hin

theorem Core.zeroGroups_frame (l : List (Nat × Nat)) : ∀ k : Core,
    { l.foldl (fun k p => k.zeroGroup p.1 p.2) k with acc := [] } = { k with acc := [] } := by
  induction l with
  | nil => exact fun k => rfl
  | cons p l ih => exact fun k => (ih _).trans rfl

theorem mem_maskPairs (b : BitVec 512) {bank g : Nat} (hbank : bank < 8) (hg : g < 8) :
    (bank, g) ∈ maskPairs b ↔ (imm b 7 0).testBit bank = true ∧ (imm b 15 8).testBit g = true := by
  simp [maskPairs, bitsBelow, hbank, hg, and_comm]

end Zero

/-! ## Delivery of a slot -/

section Deliver

variable {e : Env} {d : VOp}

theorem writeReg_spool (k : Core) (w : Wk) (reg lane : Nat) (v : Word) : (writeReg e k w reg lane v).1.spool = k.spool := by
  unfold writeReg
  split <;> rfl

theorem vPutRow_spool (k : Core) (w : Wk) (r : Nat) (l : List (Nat × VOut)) : (vPutRow e k w d r l).1.spool = k.spool := by
  unfold vPutRow
  split
  · exact List.foldlRecOn (motive := fun p : Core × Wk => p.1.spool = k.spool) l _ rfl fun p hp x _ => (writeReg_spool ..).trans hp
  · rfl

theorem deliverSlot_spool (rows : Table Word) (k : Core) (w : Wk) : (deliverSlot e d rows k w).1.spool = k.spool :=
  List.foldlRecOn (motive := fun p : Core × Wk => p.1.spool = k.spool) _ _ rfl fun _ hp _ _ => (vPutRow_spool ..).trans hp

end Deliver

/-! ## The two sides of a flush -/

section Flush

variable {s : State} {c q : Nat} {r : CoreRun} {k : Kernel} {i : Issued}

/-- A side that has its SPOOL_FLUSH. -/
theorem State.flushSide_of_run (hrun : s.running c = some (r, k)) (hcmd : ((s.core c).queue q).run = some i) (hissued : i.issued = true)
    (hop : cbOp i.block = 0x6010) (hkend : ((s.core c).queue (1 - q)).kend = false) :
    s.flushSide c q = (s.updQueue c q (fun k => { k with run := some i })).updQueue c q (fun k => { k with flushing := true }) := by
  have hset : s.setRun c q (some i) = s.updQueue c q (fun k => { k with run := some i }) :=
    State.settle_of_running q ((State.running_updQueue ..).trans hrun)
  unfold State.flushSide
  rw [State.begin_of_run (isMine := fun b => cbOp b == 0x6010) hrun hcmd (beq_iff_eq.2 hop)]
  dsimp only
  rw [State.issue_of_issued hissued]
  dsimp only
  rw [hkend, if_neg Bool.false_ne_true, hset]

theorem State.flushSide_of_empty (hcmds : ((s.core c).queue q).cmds = []) (hrun : ((s.core c).queue q).run = none) : s.flushSide c q = s := by
  have hidle (mine : BitVec 512 → Bool) : s.begin c q mine = .idle := by
    unfold State.begin
    split
    · rfl
    · dsimp only
      rw [hrun, hcmds]
  unfold State.flushSide
  rw [hidle]

theorem State.updCore_updCore (s : State) (c : Nat) (f g : Core → Core) : (s.updCore c f).updCore c g = s.updCore c (fun k => g (f k)) := by
  have hget : (s.updCore c f).core c = f (s.core c) := State.core_updCore ..
  rw [State.updCore, hget]
  exact congrArg (fun cs => { s with cores := cs }) (Table.set_set ..)

theorem State.running_updCore {f : Core → Core} (hf : (f (s.core c)).run = (s.core c).run) (h : s.running c = some (r, k)) :
    (s.updCore c f).running c = some (r, k) := by
  obtain ⟨hr, hkernel, hstate⟩ := State.running_iff.1 h
  exact State.running_iff.2 ⟨by rw [State.core_updCore, hf, hr], hkernel, hstate⟩

theorem State.updCore_congr {f g : Core → Core} (h : f (s.core c) = g (s.core c)) : s.updCore c f = s.updCore c g := by
  rw [State.updCore, h]
  rfl

/-- A queue whose flush has retired. -/
def QueueSt.flushEnds (q : QueueSt) : QueueSt :=
  { ({ q with flushing := false } : QueueSt).clearCmd with cmds := q.cmds.drop 1, run := none }

/-- A side's flush retires. -/
theorem State.retire_flush (hq : q < 4) (hrun : s.running c = some (r, k)) (hlate : ((s.core c).queue q).lateFault = none) :
    (s.updQueue c q (fun k => { k with flushing := false })).retire c q r = s.updCore c (fun k => k.setQueue q (k.queue q).flushEnds) := by
  have hrun' : (s.updQueue c q (fun k => { k with flushing := false })).running c = some (r, k) := (State.running_updQueue ..).trans hrun
  rw [State.retire_of_running hq hrun' (by rw [State.queue_updQueue _ _ _ _ hq, hlate]), State.updQueue, State.updQueue, State.updCore_updCore]
  refine State.updCore_congr ?_
  rw [Core.queue_setQueue _ _ _ hq, Core.setQueue_setQueue]
  rfl

/-- A core whose matrix queue has its flush. -/
def Core.mxFlush (k : Core) (i : Issued) : Core := { k with qMx := { k.qMx with run := some i, flushing := true } }

/-- A core whose vector queue has its flush. -/
def Core.vecFlush (k : Core) (j : Issued) : Core := { k with qVec := { k.qVec with run := some j, flushing := true } }

/-- The core once both have retired and a new epoch has begun. -/
def Core.flushed (k : Core) : Core := { k with spool := k.spool.newEpoch, qMx := k.qMx.flushEnds, qVec := k.qVec.flushEnds }

end Flush

end Sys2Proof.Machine

namespace Sys2Proof.Proofs

open Sys2Proof.Machine

theorem mxZero_zeroes {s : State} {c : Nat} {r : CoreRun} {iss : Issued} (hrun : ∃ k, s.running c = some (r, k))
    (hcmd : ((s.core c).queue 0).run = some iss) (hissued : iss.issued = true) (hiter : iss.iter = 0) (hop : cbOp iss.block = 0x3004)
    (hlate : ((s.core c).queue 0).lateFault = none) :
    ∃ t, exec (.mxZero c) s = .next t ∧ ((t.core c).queue 0).run = none ∧ ((t.core c).queue 0).cmds = ((s.core c).queue 0).cmds.drop 1 ∧
      (∀ bank row col, bank < 8 → row < 256 → col < 256 → (t.core c).accAt bank row col =
        if (imm iss.block 7 0).testBit bank ∧ (imm iss.block 15 8).testBit (row / 32) then 0 else (s.core c).accAt bank row col) ∧
      t.mem = s.mem ∧ t.out = s.out ∧ (t.core c).spool = (s.core c).spool ∧ (t.core c).vregs = (s.core c).vregs ∧ ∀ e, e ≠ c → t.core e = s.core e := by
  obtain ⟨k, hrun⟩ := hrun
  have hframe := Core.zeroGroups_frame (maskPairs iss.block) (s.core c)
  have hacc := fun bank row col hr hc => Core.accAt_zeroGroups (maskPairs iss.block) bank row col hr hc (s.core c)
  have hstep : exec (.mxZero c) s = .next ((s.setCore c ((maskPairs iss.block).foldl (fun k p => k.zeroGroup p.1 p.2) (s.core c))).retire c 0 r) :=
    congrArg Host.Outcome.next (State.engineStep_of_one hrun hcmd hissued hop (by rw [hiter]) rfl)
  generalize (maskPairs iss.block).foldl (fun k p => k.zeroGroup p.1 p.2) (s.core c) = k' at hframe hacc hstep
  have hqueue : k'.queue 0 = (s.core c).queue 0 := (congrArg Core.qMx hframe :)
  obtain ⟨hq, hbody⟩ := State.core_retire_setCore (s := s) (c := c) (k' := k') (q := 0) (by decide)
  refine ⟨_, hstep.trans (congrArg _ (State.retire_setCore (by decide) hrun (congrArg Core.run hframe :) hqueue hlate)), ?_, ?_, fun bank row col hb hr hc => ?_,
    rfl, rfl, ?_, ?_, fun e he => ?_⟩
  · rw [hq]
  · rw [hq, hqueue]
  · refine (congrArg (fun k : Core => k.accAt bank row col) hbody).trans ((hacc bank row col hr hc).trans ?_)
    exact if_congr (mem_maskPairs _ hb (by omega)) rfl rfl
  · exact (congrArg Core.spool hbody :).trans (congrArg Core.spool hframe :)
  · exact (congrArg Core.vregs hbody :).trans (congrArg Core.vregs hframe :)
  · rw [State.updQueue, State.core_updCore_ne _ _ he]
    exact Table.get_set_ne _ _ _ he

/-- The slot that a drain leaves. -/
theorem drainSlot_drains {s : State} {c cycle : Nat} {r : CoreRun} {iss : Issued} (hroom : (s.core c).spool.lockstep = true ∨ 0 < (s.core c).spool.credits) :
    ∃ k' cyc, drainSlot c cycle iss.iter s r iss iss.iter = (s.setCore c k', .ok) ∧
      { k' with acc := [], spool := {} } = { s.core c with acc := [], spool := {} } ∧
      k'.spool = (s.core c).spool.drain ((maskPairs iss.block).getD iss.iter (0, 0)).1 ((maskPairs iss.block).getD iss.iter (0, 0)).2 (cbTag iss.block) cyc
        ((s.core c).groupRows ((maskPairs iss.block).getD iss.iter (0, 0)).1 ((maskPairs iss.block).getD iss.iter (0, 0)).2) ∧
      k'.acc = (if imm iss.block 16 16 = 1 then
        (s.core c).zeroGroup ((maskPairs iss.block).getD iss.iter (0, 0)).1 ((maskPairs iss.block).getD iss.iter (0, 0)).2 else s.core c).acc := by
  have hfirst : ¬ ((s.core c).spool.lockstep && iss.iter != iss.iter) = true := by rw [bne_self_eq_false, Bool.and_false]; exact Bool.false_ne_true
  have hcredit : ¬ (!(s.core c).spool.lockstep && (s.core c).spool.credits == 0) = true := by
    rw [Bool.and_eq_true, Bool.not_eq_true', beq_iff_eq]
    rintro ⟨hfalse, hzero⟩
    rcases hroom with hl | hpos
    · rw [hl] at hfalse; exact Bool.noConfusion hfalse
    · omega
  unfold drainSlot
  extract_lets k p sp k'
  rw [if_neg hfirst, if_neg hcredit]
  refine ⟨_, max cycle k.spool.ready, rfl, ?_, ?_, ?_⟩ <;> split <;> rfl

theorem mxDrain_drains {s : State} {c cycle : Nat} {r : CoreRun} {iss : Issued} (hrun : ∃ k, s.running c = some (r, k))
    (hcmd : ((s.core c).queue 0).run = some iss) (hissued : iss.issued = true) (hop : cbOp iss.block = 0x3003)
    (hlast : iss.iter + 1 = (maskPairs iss.block).length) (hroom : (s.core c).spool.lockstep = true ∨ 0 < (s.core c).spool.credits)
    (hlate : ((s.core c).queue 0).lateFault = none) :
    ∃ t cyc, exec (.mxDrain c cycle) s = .next t ∧ ((t.core c).queue 0).run = none ∧ ((t.core c).queue 0).cmds = ((s.core c).queue 0).cmds.drop 1 ∧
      (t.core c).spool = (s.core c).spool.drain ((maskPairs iss.block).getD iss.iter (0, 0)).1 ((maskPairs iss.block).getD iss.iter (0, 0)).2
        (cbTag iss.block) cyc ((s.core c).groupRows ((maskPairs iss.block).getD iss.iter (0, 0)).1 ((maskPairs iss.block).getD iss.iter (0, 0)).2) ∧
      (t.core c).acc = (if imm iss.block 16 16 = 1 then
        (s.core c).zeroGroup ((maskPairs iss.block).getD iss.iter (0, 0)).1 ((maskPairs iss.block).getD iss.iter (0, 0)).2 else s.core c).acc ∧
      t.mem = s.mem ∧ t.out = s.out := by
  obtain ⟨k, hrun⟩ := hrun
  obtain ⟨k', cyc, hdrain, hframe, hspool, hacc⟩ := drainSlot_drains (cycle := cycle) (r := r) hroom
  have hstep : exec (.mxDrain c cycle) s = .next ((s.setCore c k').retire c 0 r) := by
    have hexec : exec (.mxDrain c cycle) s = execMxDrain c cycle s := rfl
    unfold execMxDrain at hexec
    rw [show (s.core c).qMx.run = some iss from hcmd] at hexec
    exact hexec.trans (congrArg Host.Outcome.next (State.engineStep_of_one hrun hcmd hissued hop hlast.symm hdrain))
  have hqueue : k'.queue 0 = (s.core c).queue 0 := (congrArg Core.qMx hframe :)
  obtain ⟨hq, hbody⟩ := State.core_retire_setCore (s := s) (c := c) (k' := k') (q := 0) (by decide)
  refine ⟨_, cyc, hstep.trans (congrArg _ (State.retire_setCore (by decide) hrun (congrArg Core.run hframe :) hqueue hlate)), ?_, ?_, ?_, ?_, rfl, rfl⟩
  · rw [hq]
  · rw [hq, hqueue]
  · exact (congrArg Core.spool hbody :).trans hspool
  · exact (congrArg Core.acc hbody :).trans hacc

/-- A V_SPOOL whose slot is there delivers it and gives the credit back. -/
theorem spoolWork_delivers {e : Env} {k : Core} {iss : Issued} {ops : List Opn} {n : Nat} {w : Wk} (hlock : k.spool.lockstep = false)
    (htag : (Table.get {} k.spool.slots (k.spool.cons % 16)).tag = k.spool.cons % 65535) :
    (spoolWork none e k iss ops n w).1.spool = k.spool.consume k.spool.epoch ∧
    (spoolWork none e k iss ops n w).1.lastslot = slotHeader (k.spool.cons % 65535) (Table.get {} k.spool.slots (k.spool.cons % 16)).bank
      (Table.get {} k.spool.slots (k.spool.cons % 16)).group (Table.get {} k.spool.slots (k.spool.cons % 16)).dtag := by
  have hspool := deliverSlot_spool (e := e) (d := vOp k iss ops n 0) (Table.get {} k.spool.slots (k.spool.cons % 16)).rows k w
  unfold spoolWork
  dsimp only
  rw [hlock, if_neg Bool.false_ne_true, if_pos htag, htag]
  refine ⟨?_, rfl⟩
  exact congrArg (fun sp : Spool => sp.consume sp.epoch) hspool

theorem spoolFlush_flushes {s : State} {c : Nat} {r : CoreRun} {k : Kernel} {i j : Issued} (hrun : s.running c = some (r, k))
    (hmx : (s.core c).qMx.run = some i) (hvec : (s.core c).qVec.run = some j) (hi : i.issued = true) (hj : j.issued = true)
    (hiop : cbOp i.block = 0x6010) (hjop : cbOp j.block = 0x6010) (hmxKend : (s.core c).qMx.kend = false) (hvecKend : (s.core c).qVec.kend = false)
    (hmxLate : (s.core c).qMx.lateFault = none) (hvecLate : (s.core c).qVec.lateFault = none)
    (hidle : ∀ q, 2 ≤ q → q < 4 → ((s.core c).queue q).cmds = [] ∧ ((s.core c).queue q).run = none) :
    exec (.spoolFlush c) s = .next (s.updCore c Core.flushed) := by
  have hmxSide : s.flushSide c 0 = s.updCore c (fun k => k.mxFlush i) :=
    (State.flushSide_of_run (q := 0) hrun hmx hi hiop hvecKend).trans (State.updCore_updCore ..)
  have hrun₁ : (s.updCore c (fun k => k.mxFlush i)).running c = some (r, k) := State.running_updCore rfl hrun
  have hcore₁ : (s.updCore c (fun k => k.mxFlush i)).core c = (s.core c).mxFlush i := State.core_updCore ..
  have hvecSide : (s.updCore c (fun k => k.mxFlush i)).flushSide c 1 = s.updCore c (fun k => (k.mxFlush i).vecFlush j) := by
    refine ((State.flushSide_of_run (q := 1) hrun₁ ?_ hj hjop ?_).trans (State.updCore_updCore ..)).trans (State.updCore_updCore ..)
    · rw [hcore₁]
      exact hvec
    · rw [hcore₁]
      exact hmxKend
  have hcore₂ : (s.updCore c (fun k => (k.mxFlush i).vecFlush j)).core c = ((s.core c).mxFlush i).vecFlush j := State.core_updCore ..
  have hrest (q : Nat) (h2 : 2 ≤ q) (h4 : q < 4) : (s.updCore c (fun k => (k.mxFlush i).vecFlush j)).flushSide c q =
      s.updCore c (fun k => (k.mxFlush i).vecFlush j) := by
    have hqueue : (((s.core c).mxFlush i).vecFlush j).queue q = (s.core c).queue q := by
      interval_cases q <;> rfl
    obtain ⟨hcmds, hnone⟩ := hidle q h2 h4
    exact State.flushSide_of_empty (by rw [hcore₂, hqueue, hcmds]) (by rw [hcore₂, hqueue, hnone])
  have hsides : (List.range 4).foldl (fun s q => s.flushSide c q) s = s.updCore c (fun k => (k.mxFlush i).vecFlush j) := by
    dsimp only [List.range, List.range.loop, List.foldl]
    rw [hmxSide, hvecSide, hrest 2 (by decide) (by decide), hrest 3 (by decide) (by decide)]
  have hrun₂ : (s.updCore c (fun k => (k.mxFlush i).vecFlush j)).running c = some (r, k) := State.running_updCore rfl hrun
  have hexec : exec (.spoolFlush c) s = execSpoolFlush c s := rfl
  unfold execSpoolFlush at hexec
  dsimp only at hexec
  rw [hsides, hrun₂, hcore₂] at hexec
  dsimp only at hexec
  refine hexec.trans ((if_pos rfl).trans (congrArg Host.Outcome.next ?_))
  rw [State.updCore_updCore]
  have hrun₃ : (s.updCore c (fun k => { (k.mxFlush i).vecFlush j with spool := k.spool.newEpoch })).running c = some (r, k) :=
    State.running_updCore rfl hrun
  refine (congrArg (fun t : State => (t.updQueue c 1 (fun k => { k with flushing := false })).retire c 1 r)
    (State.retire_flush (q := 0) (by decide) hrun₃ ?_)).trans ?_
  · rw [State.core_updCore]
    exact hmxLate
  rw [State.updCore_updCore, State.retire_flush (q := 1) (k := k) (by decide) (State.running_updCore rfl hrun) (by rw [State.core_updCore]; exact hvecLate),
    State.updCore_updCore]
  exact State.updCore_congr rfl

/-- Settles O43: each command's last work moves its core alone, element by element and slot by slot, and then it retires. -/
theorem accumulatorsAndSpool : Obligations.AccumulatorsAndSpool := by
  unfold Obligations.AccumulatorsAndSpool
  refine ⟨⟨fun s c r iss => mxZero_zeroes, fun s c cycle r iss hrun hcmd hissued hop hlast hroom hlate => ?_⟩,
    fun c => nestCompletes_of_step (cmd := .vSpool c) fun _ => rfl, fun c epoch s hlock r iss ops hlast => ?_,
    fun e k iss ops n w hlock htag => ?_, fun s c r k i j hrun hmx hvec hi hj hiop hjop hmxKend hvecKend hmxLate hvecLate hidle => ?_⟩
  · obtain ⟨t, cyc, hexec, hnone, hcmds, hspool, hacc, hmem, hout⟩ := mxDrain_drains (cycle := cycle) hrun hcmd hissued hop hlast hroom hlate
    have hslot := congrArg (fun sp : Spool => Table.get {} sp.slots ((s.core c).spool.prod % 16)) hspool
    rw [Spool.drain] at hslot
    dsimp only at hslot
    rw [Table.get_set_same] at hslot
    exact ⟨t, hexec, hnone, hcmds, by rw [hspool]; rfl, by rw [hspool]; rfl, by rw [hslot], by rw [hslot], by rw [hslot], by rw [hslot],
      hacc, hmem, hout⟩
  · have hexec : exec (.spoolReadAt c epoch) s = execSpoolReadAt c epoch s := rfl
    unfold execSpoolReadAt at hexec
    rw [show (s.core c).qVec.run = some iss from hlast.cmd] at hexec
    dsimp only at hexec
    rw [hlast.issued, hlock] at hexec
    exact nestCompletesAt_of_step hexec r iss ops hlast
  · obtain ⟨hspool, hslot⟩ := spoolWork_delivers (e := e) (iss := iss) (ops := ops) (n := n) (w := w) hlock htag
    refine ⟨hspool, rfl, ?_, hslot⟩
    rw [Spool.consume, hlock]
    rfl
  · refine ⟨_, spoolFlush_flushes hrun hmx hvec hi hj hiop hjop hmxKend hvecKend hmxLate hvecLate hidle, ?_⟩
    rw [State.core_updCore]
    exact ⟨rfl, rfl, rfl, rfl, rfl, rfl, rfl, rfl, rfl, rfl, rfl, rfl, rfl⟩

end Sys2Proof.Proofs
end

section
/-! PROOFS. Work units of the stack engines (R167, R168, R170, R185). -/

namespace Sys2Proof.Machine

/-! ## What memory work leaves of the engines -/

section EnginesKept

variable {s t u : State}

/-- An engine but for the self-test piece that a lost stack ends. -/
def Engine.untested (g : Engine) : Engine := { g with testPiece := false }

/-- `t` keeps the engines of `s`, but for the self-test pieces that lost stacks end. -/
structure EnginesKept (s t : State) : Prop where
  engine : ∀ k, (t.engine k).untested = (s.engine k).untested

theorem EnginesKept.refl (s : State) : EnginesKept s s := ⟨fun _ => rfl⟩

theorem EnginesKept.trans (h : EnginesKept s t) (g : EnginesKept t u) : EnginesKept s u := ⟨fun k => (g.engine k).trans (h.engine k)⟩

theorem EnginesKept.of_eq (h : t.engines = s.engines) : EnginesKept s t := ⟨fun k => by rw [State.engine, h, State.engine]⟩

theorem EnginesKept.act (h : EnginesKept s t) (k area : Nat) : (t.engine k).act area = (s.engine k).act area :=
  (congrArg (fun g : Engine => g.act area) (h.engine k) :)

theorem State.loseStack_enginesKept (s : State) (k : Nat) : EnginesKept s (s.loseStack k) := by
  unfold State.loseStack
  dsimp only
  split
  · refine ⟨fun j => ?_⟩
    by_cases hj : j = k
    · rw [hj, State.engine_setEngine]
      rfl
    · exact (congrArg Engine.untested (Table.get_set_ne ({} : Engine) s.engines _ hj) :)
  · exact .refl s

theorem State.cairn_engines (s : State) (type : Nat) (payload : List Byte) : (s.cairn type payload).engines = s.engines := by
  unfold State.cairn
  split <;> rfl

theorem State.withMem_enginesKept (s : State) (m : MemSys) (cause : Nat) : EnginesKept s (s.withMem m cause) := by
  unfold State.withMem
  extract_lets l t
  have ht : EnginesKept s t := List.foldlRecOn (motive := EnginesKept s) l _ (.of_eq rfl) fun u hu f _ =>
    (hu.trans (.of_eq (State.cairn_engines ..))).trans (State.loseStack_enginesKept ..)
  split
  · exact ht
  · exact ht.trans (.of_eq rfl)

theorem State.sendSnoops_engines (s : State) (l : List (Nat × Bool)) : (s.sendSnoops l).engines = s.engines :=
  List.foldlRecOn (motive := fun t : State => t.engines = s.engines) _ _ rfl fun t ht x _ => by
    split
    · exact ht
    · exact ht

theorem State.takeWork_enginesKept (s : State) (w : Wk) : EnginesKept s (s.takeWork w) := by
  unfold State.takeWork
  extract_lets s₁ src s₂
  have h₁ : EnginesKept s s₁ := (s.withMem_enginesKept w.mem 3).trans (.of_eq (State.sendSnoops_engines ..))
  have h₂ : EnginesKept s₁ s₂ := by
    unfold s₂
    split <;> exact .of_eq rfl
  exact (h₁.trans h₂).trans (List.foldlRecOn (motive := EnginesKept s₂) _ _ (.refl s₂) fun t ht d _ => ht.trans (.of_eq rfl))

theorem State.addMoved_engines (s : State) (c i n : Nat) : (s.addMoved c i n).engines = s.engines := by
  unfold State.addMoved
  split <;> rfl

theorem State.addCharge_engines (s : State) (c n : Nat) : (s.addCharge c n).engines = s.engines := by
  unfold State.addCharge
  split <;> rfl

theorem State.stkTake_enginesKept (s : State) (c : StkCmd) (w : Wk) : EnginesKept s (s.stkTake c w) := by
  unfold State.stkTake
  exact (s.takeWork_enginesKept _).trans (.of_eq (by rw [State.addCharge_engines, State.addMoved_engines, State.addMoved_engines]))

end EnginesKept

/-! ## An area of an engine -/

section Areas

variable {g : Engine} {area : Nat} {a : ActiveCmd}

theorem Engine.act_setAct (g : Engine) (area : Nat) (a : ActiveCmd) : (g.setAct area a).act area = some a := by
  unfold Engine.act Engine.setAct
  dsimp only
  induction g.active with
  | nil => simp [Table.set]
  | cons p t ih =>
    obtain ⟨j, v⟩ := p
    rw [Table.set]
    split
    · next hlt => rw [List.find?_cons_of_neg (by simp; omega), ih]
    · split <;> simp

theorem State.act_updEngine (s : State) (k : Nat) (f : Engine → Engine) : ((s.updEngine k f).engine k).act area = (f (s.engine k)).act area := by
  rw [State.engine_updEngine]

theorem State.act_updAct {s : State} {k : Nat} (h : (s.engine k).act area = some a) (f : ActiveCmd → ActiveCmd) :
    ((s.updAct k area f).engine k).act area = some (f a) := by
  rw [State.updAct, State.engine_updEngine, h]
  exact Engine.act_setAct ..

theorem Engine.endSlice_act (g : Engine) (area : Nat) : g.endSlice.act area = g.act area := by
  unfold Engine.endSlice Engine.arb
  split <;> rfl

/-- A command that a fault has stopped is not done after its units. -/
theorem Engine.afterUnits_of_fault {st before n : Nat} (h : g.act area = some a) (hfault : a.fault = some st) :
    ∃ x, (g.afterUnits area before n).act area = some x ∧ x.fault = some st ∧ x.done = false := by
  unfold Engine.afterUnits
  rw [h]
  dsimp -zeta only
  extract_lets b ran src g'
  have hdone : b.done = false := by
    rw [show b.done = (a.fault.isNone && decide (n ≤ a.cmd.iss.iter) && a.cmd.whole) from rfl, hfault]
    rfl
  have hact : g'.act area = some b := Engine.act_setAct ..
  refine ⟨b, ?_, hfault, hdone⟩
  split
  · rw [Engine.endSlice_act, hact]
  · exact hact

end Areas

/-! ## The last unit -/

section LastUnit

variable {s sp : State} {k area op : Nat} {a0 a : ActiveCmd} {n : Option Nat} {f : StkUnit}

theorem inSlice_act (h : (sp.engine k).act area = some a) : ((inSlice sp k area a).engine k).act area = some a := by
  unfold inSlice
  split
  · rw [State.engine_updEngine]
    exact h
  · exact h

/-- One unit that neither faults nor waits. -/
theorem stkUnits_of_good (h : (sp.engine k).act area = some a) (hgood : (nextUnit sp k area a f).2.2.good = true) :
    (inSlice sp k area a).stkUnits f k area 1 =
      ((nextUnit sp k area a f).1.stkTake a.cmd (nextUnit sp k area a f).2.2).updAct k area (fun _ => afterUnit a (nextUnit sp k area a f)) := by
  obtain ⟨hfault, hwait⟩ := (Wk.good_iff _).1 hgood
  rw [State.stkUnits, inSlice_act h]
  dsimp only
  change (match (nextUnit sp k area a f).2.2.fault with
    | some st => _
    | none => if (nextUnit sp k area a f).2.2.wait then _ else
      State.stkUnits f k area 0 (((nextUnit sp k area a f).1.stkTake a.cmd (nextUnit sp k area a f).2.2).updAct k area (fun _ => afterUnit a (nextUnit sp k area a f)))) = _
  rw [hfault, hwait]
  rfl

/-- One unit that faults. -/
theorem stkUnits_of_fault {st : Nat} (h : (sp.engine k).act area = some a) (hfault : (nextUnit sp k area a f).2.2.fault = some st) :
    (inSlice sp k area a).stkUnits f k area 1 =
      ((inSlice sp k area a).stkTake a.cmd { (nextUnit sp k area a f).2.2 with wn := 0 }).updAct k area (fun a => { a with fault := some st }) := by
  rw [State.stkUnits, inSlice_act h]
  dsimp only
  change (match (nextUnit sp k area a f).2.2.fault with
    | some st => ((inSlice sp k area a).stkTake a.cmd { (nextUnit sp k area a f).2.2 with wn := 0 }).updAct k area (fun a => { a with fault := some st })
    | none => _) = _
  rw [hfault]
  rfl

/-- The event of a command at its last unit runs that unit alone. -/
theorem State.stkRun_of_last {prepare : State → ActiveCmd → State} {total : State → ActiveCmd → Option Nat}
    (h : AtLastUnit s (prepare s a0) k area op a0 a (total (prepare s a0) a)) : s.stkRun op k area prepare total f =
      ((inSlice (prepare s a0) k area a).stkUnits f k area 1).updEngine k (fun g => g.afterUnits area a.cmd.iss.iter (a.cmd.iss.iter + 1)) := by
  obtain ⟨hdone, hnofault⟩ := h.works
  unfold State.stkRun
  rw [h.active]
  dsimp only
  rw [h.opcode, hdone, hnofault, if_neg (by simp), h.prepared]
  dsimp only
  rw [h.last]
  dsimp only
  have hgo : ¬ (!((prepare s a0).engine k).mayCompute area || (((prepare s a0).engine k).pause != 0 && !((prepare s a0).engine k).pauseOver &&
      decide (a.cmd.iss.iter < a.cmd.iss.iter + 1))) = true := by
    rw [h.slice]
    rcases h.paused with hp | hp <;> rw [hp] <;> simp
  have hone : (if ((prepare s a0).engine k).pause = 0 then a.cmd.iss.iter + 1 - a.cmd.iss.iter else min 1 (a.cmd.iss.iter + 1 - a.cmd.iss.iter)) = 1 := by
    split <;> omega
  rw [if_neg hgo, hone]
  rfl

end LastUnit

end Sys2Proof.Machine

namespace Sys2Proof.Proofs

open Sys2Proof.Machine

theorem unitCompletes_of_step {op : Nat} {cmd : Nat → Nat → Instr} {prep : Nat → Nat → State → ActiveCmd → State}
    {total : Nat → Nat → State → ActiveCmd → Option Nat} {f : StkUnit}
    (h : ∀ (s : State) (k area : Nat), exec (cmd k area) s = .next (s.stkRun op k area (prep k area) (total k area) f)) :
    UnitCompletes op cmd prep total f := by
  intro s k area a0 a hlast
  have hrun := (h s k area).trans (congrArg Host.Outcome.next (State.stkRun_of_last (prepare := prep k area) (total := total k area) (f := f) hlast))
  refine ⟨fun hgood => ?_, fun st hfault => ⟨_, hrun, ?_⟩⟩
  · rw [hrun, stkUnits_of_good hlast.prepared hgood]
  · rw [stkUnits_of_fault hlast.prepared hfault, State.engine_updEngine]
    have hact := (State.stkTake_enginesKept (inSlice (prep k area s a0) k area a) a.cmd
      { (nextUnit (prep k area s a0) k area a f).2.2 with wn := 0 }).act k area
    exact Engine.afterUnits_of_fault (State.act_updAct (hact.trans (inSlice_act hlast.prepared)) _) rfl

/-- Settles O46: the event of an active command at its last unit runs that unit, and its end or its fault. -/
theorem stackCommandsComplete : Obligations.StackCommandsComplete := by
  unfold Obligations.StackCommandsComplete
  exact ⟨unitCompletes_of_step fun _ _ _ => rfl, unitCompletes_of_step fun _ _ _ => rfl, unitCompletes_of_step fun _ _ _ => rfl,
    unitCompletes_of_step fun _ _ _ => rfl, unitCompletes_of_step fun _ _ _ => rfl, unitCompletes_of_step fun _ _ _ => rfl,
    unitCompletes_of_step fun _ _ _ => rfl, unitCompletes_of_step fun _ _ _ => rfl⟩

end Sys2Proof.Proofs
end

section
/-! PROOFS. Turns of the stack engines: S_DRAIN, sub-queues, slices (R167, R168, R171, R182). -/

namespace Sys2Proof.Machine

section Turns

variable {s : State} {c : Nat} {r : CoreRun} {iss : Issued}

/-- LABs of a list of stacks cleared. -/
def State.clearLabs (s : State) (l : List Nat) : State := l.foldl (fun s k => s.updEngine k (fun g => { g with lab := [] })) s

/-- Clearing LABs moves nothing else. -/
theorem State.clearLabs_frame (s : State) (l : List Nat) : { s.clearLabs l with engines := [] } = { s with engines := [] } := by
  unfold State.clearLabs
  refine List.foldlRecOn (motive := fun t : State => { t with engines := [] } = { s with engines := [] }) l _ rfl fun t ht k _ => ?_
  exact ht

theorem State.clearLabs_engine (l : List Nat) (k : Nat) : ∀ s : State,
    (s.clearLabs l).engine k = if k ∈ l then { s.engine k with lab := [] } else s.engine k := by
  induction l with
  | nil => exact fun s => rfl
  | cons j l ih =>
    intro s
    refine (ih _).trans ?_
    by_cases hj : k = j
    · subst hj
      rw [State.engine_updEngine, if_pos List.mem_cons_self]
      split <;> rfl
    · rw [State.engine_updEngine_ne _ _ hj]
      exact if_congr (by rw [List.mem_cons, or_iff_right hj]) rfl rfl

/-- What S_DRAIN leaves once no command of its core is left. -/
def State.stkDrained (s : State) (c : Nat) (b : BitVec 512) : State := if imm b 33 33 = 1 then s.clearLabs (drainStacks c b) else s

theorem State.stkDrained_frame (s : State) (c : Nat) (b : BitVec 512) : { s.stkDrained c b with engines := [] } = { s with engines := [] } := by
  unfold State.stkDrained
  split
  · exact State.clearLabs_frame ..
  · rfl

theorem State.stkDrained_engine (s : State) (c : Nat) (b : BitVec 512) (k : Nat) : (s.stkDrained c b).engine k =
    if k ∈ drainStacks c b ∧ imm b 33 33 = 1 then { s.engine k with lab := [] } else s.engine k := by
  unfold State.stkDrained
  by_cases h : imm b 33 33 = 1
  · rw [if_pos h, State.clearLabs_engine]
    exact if_congr (and_iff_left h).symm rfl rfl
  · rw [if_neg h, if_neg fun hk => h hk.2]

theorem drainBody_of_idle {n : Nat} (h : ∀ k ∈ drainStacks c iss.block, (s.engine k).holds c = false) :
    drainBody c s r iss n = (s.stkDrained c iss.block, .ok) := by
  have hany : (drainStacks c iss.block).any (fun k => (s.engine k).holds c) = false :=
    List.any_eq_false.2 fun k hk => by rw [h k hk]; exact Bool.false_ne_true
  unfold drainBody State.stkDrained
  dsimp only
  rw [hany, if_neg Bool.false_ne_true]
  split <;> rfl

theorem drainBody_of_held {n : Nat} (h : ∃ k ∈ drainStacks c iss.block, (s.engine k).holds c = true) : drainBody c s r iss n = (s, .wait) :=
  if_pos (List.any_eq_true.2 h)

/-- A command that waits at its last iteration stays. -/
theorem State.engineStep_of_wait {q op : Nat} (h : AtLastIteration s c q op r iss) {form : BitVec 512 → Form}
    {check : CoreRun → Env → MemSys → Core → Issued → Option Nat} {body : State → CoreRun → Issued → Nat → State × Done}
    (hbody : body s r iss iss.iter = (s, .wait)) :
    s.engineStep c q op form check nestTotal body = s.updQueue c q (fun k => { k with run := some iss }) := by
  have hturns : s.turns r iss.issued (nestTotal s (s.core c) iss - iss.iter) = 1 := by
    rw [State.turns, h.stopping, if_neg Bool.false_ne_true, nestTotal, h.last]
    omega
  obtain ⟨k, hrun⟩ := h.runs
  unfold State.engineStep
  rw [h.begin]
  dsimp only
  rw [State.issue_of_issued h.issued]
  dsimp only
  rw [hturns, runIters, hbody]
  exact State.settle_of_running q ((State.running_updQueue ..).trans hrun)

/-- The first element of a list of the numbers from 0 on that a test takes. -/
theorem find?_range {n i : Nat} {p : Nat → Bool} (hi : i < n) (hp : p i = true) (hbefore : ∀ j, j < i → p j = false) :
    (List.range n).find? p = some i := by
  rw [List.find?_range_eq_some]
  exact ⟨hp, List.mem_range.2 hi, fun j hj => by rw [hbefore j hj]; rfl⟩

theorem find?_map_range {n i : Nat} {p : Nat → Bool} {f : Nat → Nat} (hi : i < n) (hp : p (f i) = true) (hbefore : ∀ j, j < i → p (f j) = false) :
    ((List.range n).map f).find? p = some (f i) := by
  rw [List.find?_map, find?_range (p := p ∘ f) hi hp hbefore, Option.map_some]

/-- The end of a slice, where the next command that uses the lanes is known. -/
theorem Engine.endSlice_of_next {g : Engine} {area : Nat} (h : g.nextLanes = some area) :
    g.endSlice.sliceArea = area ∧ g.endSlice.arbPending = none ∧
    g.endSlice.slice = (match g.arbPending with | some v => v.1 | none => g.slice) ∧
    g.endSlice.linkres = (match g.arbPending with | some v => v.2 | none => g.linkres) ∧ g.endSlice.active = g.active := by
  unfold Engine.endSlice Engine.arb
  rw [h]
  cases hp : g.arbPending with
  | none => exact ⟨rfl, hp, rfl, rfl, rfl⟩
  | some v => exact ⟨rfl, rfl, rfl, rfl, rfl⟩

/-- The slice is a command's where it has it, or where the one that had it has ended and the command is next. -/
theorem Engine.mayCompute_iff {g : Engine} {area : Nat} {a : ActiveCmd} (hact : g.act area = some a) (hlanes : a.usesLanes = true)
    (hdone : a.done = false) (hfault : a.fault = none) :
    g.mayCompute area = true ↔ area = g.sliceArea ∨ (g.lanesLive g.sliceArea = false ∧ g.nextLanes = some area) := by
  have hlive : g.lanesLive area = true := by
    rw [Engine.lanesLive, hact, Option.any_some, hlanes, hdone, hfault]
    rfl
  have hmay : g.mayCompute area = (g.sliceOwner == some area) := by
    rw [Engine.mayCompute, hact, Option.any_some, hlanes, Bool.not_true, Bool.false_or]
  rw [hmay, beq_iff_eq, Engine.sliceOwner]
  cases hslice : g.lanesLive g.sliceArea with
  | true => simp [eq_comm]
  | false =>
    have hne : area ≠ g.sliceArea := fun h => by rw [← h, hlive] at hslice; exact Bool.noConfusion hslice
    simp [hne]

end Turns

end Sys2Proof.Machine

namespace Sys2Proof.Proofs

open Sys2Proof.Machine

theorem sDrain_retires {s : State} {c : Nat} {r : CoreRun} {iss : Issued} (hlast : AtLastIteration s c 2 0x5007 r iss)
    (hlate : ((s.core c).queue 2).lateFault = none) (hidle : ∀ k ∈ drainStacks c iss.block, (s.engine k).holds c = false) :
    exec (.sDrain c) s = .next ((s.stkDrained c iss.block).updQueue c 2 (fun k => { k.clearCmd with cmds := k.cmds.drop 1, run := none })) := by
  obtain ⟨k, hrun⟩ := hlast.runs
  have hstep : exec (.sDrain c) s = .next ((s.stkDrained c iss.block).retire c 2 r) :=
    congrArg Host.Outcome.next (State.engineStep_of_last hlast (drainBody_of_idle hidle))
  have hframe := s.stkDrained_frame c iss.block
  have hcores : (s.stkDrained c iss.block).cores = s.cores := (congrArg State.cores hframe :)
  have hcontexts : (s.stkDrained c iss.block).contexts = s.contexts := (congrArg State.contexts hframe :)
  refine hstep.trans (congrArg _ (State.retire_of_running (r' := r) (k := k) (q := 2) (by decide) ?_ ?_))
  · obtain ⟨hr, hkernel, hstate⟩ := State.running_iff.1 hrun
    exact State.running_iff.2 ⟨by rw [State.core, hcores]; exact hr, by rw [State.context, hcontexts]; exact hkernel,
      by rw [State.context, hcontexts]; exact hstate⟩
  · rw [State.core, hcores]
    exact hlate

/-- Settles O47: the drain's body, the search for the next sub-queue and the round robin of the slices, each at its one outcome. -/
theorem drainActivationAndSlices : Obligations.DrainActivationAndSlices := by
  unfold Obligations.DrainActivationAndSlices
  refine ⟨⟨fun s c r iss hlast hlate hidle => ?_, fun s c r iss hlast hheld => ?_⟩,
    fun s k area i x rest harea hi hfree hbusy hhead hnone hbefore => ?_, fun s k i hi hlive hbefore => ?_,
    fun s k area a hact hlanes hdone hfault => Engine.mayCompute_iff hact hlanes hdone hfault⟩
  · have hframe := s.stkDrained_frame c iss.block
    have hcore (d : Nat) : (s.stkDrained c iss.block).core d = s.core d := (congrArg (fun t : State => t.core d) hframe :)
    refine ⟨_, sDrain_retires hlast hlate hidle, ?_, ?_, fun k hk => ?_, fun k hk => ?_, (congrArg State.mem hframe :), (congrArg State.out hframe :),
      fun d hd => ?_⟩
    · rw [State.queue_updQueue _ _ _ _ (by decide)]
    · rw [State.queue_updQueue _ _ _ _ (by decide), hcore]
    · exact (s.stkDrained_engine c iss.block k).trans (if_congr (and_iff_right hk) rfl rfl)
    · exact (s.stkDrained_engine c iss.block k).trans (if_neg fun h => hk h.1)
    · rw [State.updQueue, State.core_updCore_ne _ _ hd, hcore]
  · have hstep : exec (.sDrain c) s = .next (s.updQueue c 2 (fun k => { k with run := some iss })) :=
      congrArg Host.Outcome.next (State.engineStep_of_wait hlast (drainBody_of_held hheld))
    exact ⟨_, hstep, by rw [State.queue_updQueue _ _ _ _ (by decide)], rfl, rfl⟩
  · have hfind : (List.range 4).find? (fun a => ((s.engine k).act a).isNone) = some area :=
      find?_range harea (by rw [hfree]; rfl) fun a ha => by rw [← Option.not_isSome, hbusy a ha]; rfl
    have hnext : ((List.range 12).map (fun i => ((s.engine k).lastCore + 1 + i) % 12)).find? (fun j =>
        !(Table.get [] (s.engine k).subq j).isEmpty && !(s.engine k).active.any (fun a => a.2.cmd.core % 12 == j)) =
        some (((s.engine k).lastCore + 1 + i) % 12) := by
      refine find?_map_range hi ?_ fun j hj => ?_
      · rw [hhead, hnone]
        rfl
      · rcases hbefore j hj with h | h <;> rw [h]
        · rfl
        · rw [Bool.not_true, Bool.and_false]
    have hexec : exec (.stkActivate k) s = execStkActivate k s := rfl
    unfold execStkActivate at hexec
    dsimp only at hexec
    rw [hfind, hnext] at hexec
    dsimp only at hexec
    rw [hhead] at hexec
    exact hexec
  · have hnext : (s.engine k).nextLanes = some (((s.engine k).sliceArea + 1 + i) % 4) := find?_map_range hi hlive hbefore
    obtain ⟨harea, hpending, hslice, hlink, hactive⟩ := Engine.endSlice_of_next hnext
    refine ⟨s.updEngine k Engine.endSlice, rfl, ?_, ?_, ?_, ?_, ?_, rfl, rfl, fun j hj => State.engine_updEngine_ne _ _ hj⟩
    all_goals rw [State.engine_updEngine]
    · exact harea
    · exact hpending
    · exact hslice
    · exact hlink
    · exact hactive

end Sys2Proof.Proofs
end

section
/-! PROOFS. The walker, the expander and the ends of STK commands (R55, R167, R182 to R185, R264, R272, R273). -/

namespace Sys2Proof.Machine

/-! ## Walks (R183, R184) -/

section Walks

variable {g : Engine} {area slot layer page : Nat} {a : ActiveCmd} {v : PageTrans}

/-- The commands of an engine, each changed. -/
def Engine.mapActive (g : Engine) (f : ActiveCmd → ActiveCmd) : Engine := { g with active := g.active.map (fun x => (x.1, f x.2)) }

theorem Engine.act_mapActive (g : Engine) (f : ActiveCmd → ActiveCmd) (area : Nat) : (g.mapActive f).act area = (g.act area).map f := by
  unfold Engine.act Engine.mapActive
  dsimp only
  rw [List.find?_map, Option.map_map, Option.map_map]
  rfl

/-- A command takes the answer of a walk that it waits for. -/
def ActiveCmd.answered (a : ActiveCmd) (slot layer page : Nat) (v : PageTrans) : ActiveCmd :=
  if walkWaits slot layer page a then { a with trans := Table.set a.trans (transKey layer page) v } else a

theorem walkWaits_answered (a : ActiveCmd) (hv : v ≠ .walking) : walkWaits slot layer page (a.answered slot layer page v) = false := by
  unfold ActiveCmd.answered
  cases h : walkWaits slot layer page a with
  | false => exact h
  | true =>
    rw [if_pos rfl, walkWaits, Table.get_set_same, beq_false_of_ne hv, Bool.and_false]

theorem ActiveCmd.trans_answered (h : walkWaits slot layer page a = true) :
    Table.get .walking (a.answered slot layer page v).trans (transKey layer page) = v := by
  rw [ActiveCmd.answered, if_pos h, Table.get_set_same]

theorem ActiveCmd.cmd_answered (a : ActiveCmd) : (a.answered slot layer page v).cmd = a.cmd := by
  unfold ActiveCmd.answered
  split <;> rfl

/-- An entry put in a LAB is the one found. -/
theorem Engine.labFind_labPut (g : Engine) (l : LabEntry) : (g.labPut l).labFind l.part l.slot l.layer l.page = some l := by
  unfold Engine.labFind Engine.labPut
  dsimp only
  have hnone : ∀ x ∈ (g.labDrop l.part l.slot l.layer l.page).lab,
      ¬ (x.part == l.part && x.slot == l.slot && x.layer == l.layer && x.page == l.page) = true := by
    intro x hx
    rw [Engine.labDrop, List.mem_filter, Bool.not_eq_true'] at hx
    rw [hx.2]
    exact Bool.false_ne_true
  generalize (g.labDrop l.part l.slot l.layer l.page).lab = old at hnone
  rw [List.length_append, List.length_singleton, List.drop_append_of_le_length (by omega), List.find?_append,
    List.find?_eq_none.2 fun x hx => hnone x (List.mem_of_mem_drop hx)]
  simp

theorem Engine.labPut_length (g : Engine) (l : LabEntry) : (g.labPut l).lab.length ≤ 64 := by
  unfold Engine.labPut
  dsimp only
  rw [List.length_drop]
  omega

end Walks

/-! ## Granules (R272, R273) -/

section Granules

variable {s t u : State} {k : Nat}

theorem Engine.act_setAct_ne {area j : Nat} (g : Engine) (a : ActiveCmd) (h : j ≠ area) : (g.setAct area a).act j = g.act j := by
  unfold Engine.act Engine.setAct
  dsimp only
  induction g.active with
  | nil => simp [Table.set, Ne.symm h]
  | cons p l ih =>
    obtain ⟨i, v⟩ := p
    rw [Table.set]
    split
    · rw [List.find?_cons, List.find?_cons]
      split
      · rfl
      · exact ih
    · split
      · next hi => rw [List.find?_cons_of_neg (by simpa using Ne.symm h), List.find?_cons_of_neg (by simpa [hi] using Ne.symm h)]
      · rw [List.find?_cons_of_neg (by simpa using Ne.symm h)]

/-- What an engine's fetches leave: what is queued stays in its order before what is fetched, up to 32, and no command's granules move. -/
structure Fetches (g h : Engine) : Prop where
  expanded : h.expanded = g.expanded
  granules : ∀ area, (h.act area).map ActiveCmd.granules = (g.act area).map ActiveCmd.granules
  queue : g.queue <+: h.queue
  bound : g.queue.length ≤ 32 → h.queue.length ≤ 32

theorem Fetches.refl (g : Engine) : Fetches g g := ⟨rfl, fun _ => rfl, List.prefix_refl _, id⟩

theorem Fetches.trans {f g h : Engine} (hf : Fetches f g) (hg : Fetches g h) : Fetches f h :=
  ⟨hg.expanded.trans hf.expanded, fun area => (hg.granules area).trans (hf.granules area), hf.queue.trans hg.queue, fun hb => hg.bound (hf.bound hb)⟩

theorem Fetches.of_untested {g h : Engine} (e : h.untested = g.untested) : Fetches g h where
  expanded := (congrArg Engine.expanded e :)
  granules area := (congrArg (fun g : Engine => (g.act area).map ActiveCmd.granules) e :)
  queue := by
    have hq : h.queue = g.queue := (congrArg Engine.queue e :)
    rw [hq]
  bound hb := by
    have hq : h.queue = g.queue := (congrArg Engine.queue e :)
    rwa [hq]

/-- An engine whose area takes one granule more into the queue. -/
def Engine.fetched (e : Engine) (area : Nat) (g : Gran) : Engine :=
  let e := match g.slot with | some i => e.useSlot i 1 | none => e
  let e := { e with queue := e.queue ++ [(area, g)], lastFetch := area }
  match e.act area with | some a => e.setAct area { a with fetched := a.fetched + 1, expands := true } | none => e

theorem Engine.fetched_fetches (e : Engine) (area : Nat) (g : Gran) (h : e.queue.length < 32) : Fetches e (e.fetched area g) := by
  have hslot (f : Engine) (hf : f = match g.slot with | some i => e.useSlot i 1 | none => e) :
      f.queue = e.queue ∧ f.expanded = e.expanded ∧ ∀ j, f.act j = e.act j := by
    rw [hf]
    split <;> exact ⟨rfl, rfl, fun _ => rfl⟩
  unfold Engine.fetched
  extract_lets f f'
  obtain ⟨hqueue, hexpanded, hact⟩ := hslot f rfl
  have hlen : f'.queue = e.queue ++ [(area, g)] := by rw [show f'.queue = f.queue ++ [(area, g)] from rfl, hqueue]
  have hbase : Fetches e f' := by
    refine ⟨hexpanded, fun j => congrArg _ (hact j), ?_, fun _ => ?_⟩
    · rw [hlen]
      exact List.prefix_append ..
    · rw [hlen, List.length_append, List.length_singleton]
      exact h
  split
  · next a ha =>
    refine ⟨hbase.expanded, fun j => ?_, hbase.queue, hbase.bound⟩
    rw [← hbase.granules j]
    by_cases hj : j = area
    · rw [hj, Engine.act_setAct, ha]
      rfl
    · rw [Engine.act_setAct_ne _ _ hj]
  · exact hbase

theorem State.fetchOne_engine {area : Nat} {p : GranPlace} {c : StkCmd} (h : s.fetchOne k area p c = some t) :
    ∃ (e : Engine) (g : Gran), e.untested = (s.engine k).untested ∧ t.engine k = e.fetched area g := by
  unfold State.fetchOne at h
  dsimp only at h
  generalize (if p.inImage then imageBytes (s.stkEnv c) (plainOpn (c.iss.descs.getD 0 0)) p.place 4096 { mem := s.mem }
    else Wk.read (s.stkEnv c) { mem := s.mem } (k * 2 ^ 36 + 4096 * p.place) 4096) = x at h
  have hkept : EnginesKept s (((s.takeWork (s.hostLines x.2)).addMoved c.core 0 x.2.rd).addCharge c.core (stackByte * x.2.rd)) :=
    (s.takeWork_enginesKept _).trans (.of_eq (by rw [State.addCharge_engines, State.addMoved_engines]))
  generalize ((s.takeWork (s.hostLines x.2)).addMoved c.core 0 x.2.rd).addCharge c.core (stackByte * x.2.rd) = u at h hkept
  split at h
  · cases h
  · refine ⟨u.engine k, ⟨x.2.fault, if x.2.fault.isSome || p.inImage then none else (u.engine k).namedSlot (leNat (x.1.take 4)),
      if x.2.fault.isSome then [] else x.1⟩, hkept.engine k, ?_⟩
    rw [← Option.some.inj h, State.engine_updEngine]
    rfl

theorem State.fetchGranules_fetches (n : Nat) : ∀ s : State, Fetches (s.engine k) ((State.fetchGranules n s k).engine k) := by
  induction n with
  | zero => exact fun s => .refl _
  | succ n ih =>
    intro s
    rw [State.fetchGranules]
    dsimp only
    split
    · exact .refl _
    · next hlen =>
      split
      · exact .refl _
      · split
        · exact .refl _
        · next t ht =>
          obtain ⟨e, g, he, hengine⟩ := State.fetchOne_engine ht
          refine Fetches.trans ?_ (ih t)
          rw [hengine]
          have hqueue : e.queue = (s.engine k).queue := (congrArg Engine.queue he :)
          exact (Fetches.of_untested he).trans (e.fetched_fetches _ g (by rw [hqueue]; omega))

/-- The engine once a granule has left its queue and gone to its command. -/
def Engine.delivered (e : Engine) (area : Nat) (g : Gran) (a : ActiveCmd) : Engine :=
  let e := { e with queue := e.queue.erase (area, g), expanded := (e.expanded + 1) % 2 ^ 32 }
  let e := match g.slot with | some i => e.useSlot i (-1) | none => e
  e.setAct area a

theorem Engine.delivered_spec (e : Engine) (area : Nat) (g : Gran) (a : ActiveCmd) : (e.delivered area g a).expanded = (e.expanded + 1) % 2 ^ 32 ∧
    (e.delivered area g a).act area = some a ∧ (e.delivered area g a).queue = e.queue.erase (area, g) := by
  refine ⟨?_, Engine.act_setAct .., ?_⟩ <;> (unfold Engine.delivered; dsimp only; cases g.slot <;> rfl)

end Granules

/-! ## What a command leaves behind (R55, R273) -/

section Leaves

variable {s : State} {k : Nat} {a : ActiveCmd}

theorem State.leave_engine (s : State) (k : Nat) (a : ActiveCmd) :
    ((s.leave k a).engine k).active = (s.engine k).active ∧ ((s.leave k a).engine k).queue = (s.engine k).queue ∧
    ((s.leave k a).engine k).subq = (s.engine k).subq ∧ ∀ j, j ≠ k → (s.leave k a).engine j = s.engine j := by
  have hset : ∃ n, (s.leave k a).engines = Table.set s.engines k { s.engine k with stalls := n } := ⟨_, rfl⟩
  obtain ⟨n, hset⟩ := hset
  have hsame : (s.leave k a).engine k = { s.engine k with stalls := n } := by rw [State.engine, hset, Table.get_set_same]
  refine ⟨by rw [hsame], by rw [hsame], by rw [hsame], fun j hj => ?_⟩
  rw [State.engine, hset, Table.get_set_ne _ _ _ hj, State.engine]

theorem State.leave_core (s : State) (k : Nat) (a : ActiveCmd) :
    (s.leave k a).core a.cmd.core = (s.core a.cmd.core).orFlags a.flags ∧ ∀ d, d ≠ a.cmd.core → (s.leave k a).core d = s.core d :=
  ⟨State.core_updCore .., fun _ hd => State.core_updCore_ne _ _ hd⟩

theorem State.leave_mem (s : State) (k : Nat) (a : ActiveCmd) : (s.leave k a).mem = { s.mem with fresh := s.mem.fresh + 1 } := rfl

end Leaves

/-- What is queued for an area leaves the expander. -/
theorem Engine.dropQueued_queue (g : Engine) (area : Nat) : (g.dropQueued area).queue = g.queue.filter (fun q => q.1 != area) := by
  unfold Engine.dropQueued
  refine List.foldlRecOn (motive := fun e : Engine => e.queue = g.queue.filter (fun q => q.1 != area)) _ _ rfl fun e he q _ => ?_
  split <;> exact he

end Sys2Proof.Machine

namespace Sys2Proof.Proofs

open Sys2Proof.Machine

/-- `o` answers the walk of a page at stack `k` for command `c` with the entry `pte`. -/
def WalkAnswers (s : State) (k slot layer page : Nat) (c : StkCmd) (pte : Nat) (o : Host.Outcome State Fault Refusal) : Prop :=
  ∃ (t : State) (e : Engine) (v : PageTrans), o = .next t ∧ e.untested = (s.engine k).untested ∧
    v = (if pteAbsent pte k then .absent else .found pte) ∧
    t.engine k = match v with
      | .found pte => (e.mapActive (fun a => a.answered slot layer page v)).labPut
        { part := c.part, slot := slot, layer := layer, page := page, pte := pte }
      | _ => e.mapActive (fun a => a.answered slot layer page v)

theorem pageWalk_answers {s : State} {k slot layer page : Nat} {x : Nat × ActiveCmd}
    (hfind : (s.engine k).active.find? (fun a => walkWaits slot layer page a.2) = some x)
    (hgood : (Wk.readNat (s.stkEnv x.2.cmd) { mem := s.mem } (s.pteAddrOf x.2.cmd.part slot layer page) 64).2.good = true) :
    WalkAnswers s k slot layer page x.2.cmd (Wk.readNat (s.stkEnv x.2.cmd) { mem := s.mem } (s.pteAddrOf x.2.cmd.part slot layer page) 64).1
      (exec (.pageWalk k slot layer page) s) := by
  have hexec : exec (.pageWalk k slot layer page) s = execPageWalk k slot layer page s := rfl
  unfold execPageWalk at hexec
  -- nothing below looks into the read, which is too long to unfold
  obtain ⟨read, hread⟩ : ∃ f, f = Wk.readNat := ⟨_, rfl⟩
  rw [← hread] at hexec hgood ⊢
  dsimp only at hexec
  rw [show (s.engine k).active.find? (fun a => imm a.2.cmd.iss.block 43 32 == slot &&
    Table.get .absent a.2.trans (transKey layer page) == .walking) = some x from hfind] at hexec
  dsimp only at hexec
  generalize read (s.stkEnv x.2.cmd) { mem := s.mem } (s.pteAddrOf x.2.cmd.part slot layer page) 64 = r at hexec hgood ⊢
  obtain ⟨hfault, hwait⟩ := (Wk.good_iff r.2).1 hgood
  rw [hfault, hwait, Wk.counted_of_good hgood] at hexec
  dsimp only at hexec
  rw [Bool.false_and, if_neg Bool.false_ne_true] at hexec
  have hkept := (s.stkTake_enginesKept x.2.cmd r.2).engine k
  generalize s.stkTake x.2.cmd r.2 = u at hexec hkept
  cases habsent : pteAbsent r.1 k with
  | false =>
    rw [habsent] at hexec
    exact ⟨_, u.engine k, .found r.1, hexec, hkept, by rw [habsent]; rfl, State.engine_updEngine ..⟩
  | true =>
    rw [habsent] at hexec
    exact ⟨_, u.engine k, .absent, hexec, hkept, by rw [habsent]; rfl, State.engine_updEngine ..⟩

theorem WalkAnswers.spec {s : State} {k slot layer page pte : Nat} {c : StkCmd} {o : Host.Outcome State Fault Refusal}
    (h : WalkAnswers s k slot layer page c pte o) : ∃ t, o = .next t ∧
      (∀ y ∈ (t.engine k).active, walkWaits slot layer page y.2 = false) ∧
      (∀ area a, (s.engine k).act area = some a → walkWaits slot layer page a = true → ∃ b, (t.engine k).act area = some b ∧ b.cmd = a.cmd ∧
        Table.get .walking b.trans (transKey layer page) = if pteAbsent pte k then .absent else .found pte) ∧
      (pteAbsent pte k = false → ((t.engine k).labFind c.part slot layer page).map LabEntry.pte = some pte) ∧
      ((s.engine k).lab.length ≤ 64 → (t.engine k).lab.length ≤ 64) := by
  obtain ⟨t, e, v, hexec, hkept, hv, hengine⟩ := h
  have hactive : (t.engine k).active = (e.mapActive (fun a => a.answered slot layer page v)).active := by
    rw [hengine]
    split <;> rfl
  have hne : v ≠ .walking := by
    rw [hv]
    split <;> exact fun h => PageTrans.noConfusion h
  refine ⟨t, hexec, fun y hy => ?_, fun area a hact hwaits => ?_, fun hpresent => ?_, fun hbound => ?_⟩
  · rw [hactive, Engine.mapActive, List.mem_map] at hy
    obtain ⟨z, -, rfl⟩ := hy
    exact walkWaits_answered _ hne
  · have hact' : e.act area = some a := (congrArg (fun g : Engine => g.act area) hkept :).trans hact
    refine ⟨a.answered slot layer page v, ?_, ActiveCmd.cmd_answered _, ?_⟩
    · rw [Engine.act, hactive, ← Engine.act, Engine.act_mapActive, hact']
      rfl
    · rw [ActiveCmd.trans_answered hwaits, hv]
  · rw [hpresent, if_neg Bool.false_ne_true] at hv
    rw [hengine, hv]
    exact congrArg _ (Engine.labFind_labPut _ ⟨c.part, slot, layer, page, pte⟩)
  · rw [hengine]
    have hlab : e.lab = (s.engine k).lab := (congrArg Engine.lab hkept :)
    split
    · exact Engine.labPut_length ..
    · rw [← hlab] at hbound
      exact hbound

/-- Settles O48: the walk's answer reaches each command that waits, the oldest granule with credit goes to its area, and an end or a fault frees it. -/
theorem walksGranulesAndCompletions : Obligations.WalksGranulesAndCompletions := by
  unfold Obligations.WalksGranulesAndCompletions
  refine ⟨⟨fun s k slot layer page x hfind hgood => ?_, fun s k area g a hfind hact => ?_⟩, fun s k area a hact hdone => ?_,
    fun s k area st a hact hfault => ?_⟩
  · exact (pageWalk_answers hfind hgood).spec
  · have hexec : exec (.granuleDecode k) s = execGranuleDecode k s := rfl
    unfold execGranuleDecode at hexec
    rw [hfind] at hexec
    dsimp only at hexec
    rw [hact] at hexec
    dsimp only [Option.map] at hexec
    have hbase : (((s.addCharge a.cmd.core (expandCost (s.expand k a g).units.length)).updEngine k
        (fun e => e.delivered area g (a.deliver (s.expand k a g)))).engine k) = (s.engine k).delivered area g (a.deliver (s.expand k a g)) := by
      rw [State.engine_updEngine, State.engine, State.addCharge_engines, ← State.engine]
    have hfetch := State.fetchGranules_fetches (k := k) 32 ((s.addCharge a.cmd.core (expandCost (s.expand k a g).units.length)).updEngine k
        (fun e => e.delivered area g (a.deliver (s.expand k a g))))
    rw [hbase] at hfetch
    obtain ⟨hexpanded, hact', hqueue⟩ := (s.engine k).delivered_spec area g (a.deliver (s.expand k a g))
    refine ⟨_, hexec, ?_, ?_, ?_, fun hbound => ?_⟩
    · exact hfetch.expanded.trans hexpanded
    · exact (hfetch.granules area).trans (by rw [hact']; rfl)
    · exact hqueue ▸ hfetch.queue
    · refine hfetch.bound ?_
      rw [hqueue]
      exact (List.length_erase_le ..).trans hbound
  · have hexec : exec (.stkComplete k area) s = execStkComplete k area s := rfl
    unfold execStkComplete at hexec
    rw [hact] at hexec
    dsimp only at hexec
    rw [hdone, Bool.not_true, if_neg Bool.false_ne_true] at hexec
    obtain ⟨hactive, -, hsubq, hothers⟩ := State.leave_engine (s.updEngine k (fun g => { g with active := Table.del g.active area })) k a
    obtain ⟨hcore, hcores⟩ := State.leave_core (s.updEngine k (fun g => { g with active := Table.del g.active area })) k a
    rw [State.engine_updEngine] at hactive hsubq
    refine ⟨_, hexec, hactive, ?_, ?_, hsubq, fun _ => rfl, rfl, fun j hj => (hothers j hj).trans (State.engine_updEngine_ne _ _ hj), hcores⟩
    · rw [hcore]
      rfl
    · rw [hcore]
      rfl
  · have hexec : exec (.stkFaultReport k area) s = execStkFaultReport k area s := rfl
    unfold execStkFaultReport at hexec
    rw [hact] at hexec
    dsimp only at hexec
    rw [hfault] at hexec
    dsimp only at hexec
    obtain ⟨hactive, hqueue, -, hothers⟩ :=
      State.leave_engine (s.updEngine k (fun g => { g.dropQueued area with active := Table.del g.active area })) k a
    obtain ⟨hcore, -⟩ := State.leave_core (s.updEngine k (fun g => { g.dropQueued area with active := Table.del g.active area })) k a
    rw [State.engine_updEngine] at hactive hqueue
    have hlate (q : QueueSt) (f : FaultInfo) : (q.failLate f).lateFault = (match q.lateFault with | some f => some f | none => some f) ∧
        (q.failLate f).cmds = q.cmds := by
      unfold QueueSt.failLate
      cases hl : q.lateFault with
      | none => exact ⟨rfl, rfl⟩
      | some f => exact ⟨hl, rfl⟩
    refine ⟨_, hexec, hactive, fun q hq => ?_, ?_, ?_, ?_, rfl, rfl, fun j hj => (hothers j hj).trans (State.engine_updEngine_ne _ _ hj)⟩
    · have hmem : q ∈ (s.engine k).queue.filter (fun q => q.1 != area) := by
        rw [← Engine.dropQueued_queue, ← hqueue]
        exact hq
      exact bne_iff_ne.1 (List.mem_filter.1 hmem).2
    all_goals rw [State.updQueue, State.core_updCore, hcore]
    · exact (hlate _ _).1
    · exact (hlate _ _).2
    · rfl

end Sys2Proof.Proofs
end

section
/-! PROOFS. CXL.mem and back-invalidation (R357, R358). -/

namespace Sys2Proof.Machine

section HostLines

variable {s : State} {hpa k l : Nat}

/-- A line that the host writes is in memory, and neither the host's port nor anything that has left changes. -/
theorem State.hostLine_spec (hidle : NoTestHolds s) (k line : Nat) (bs : List Byte) :
    (s.hostLine k line bs).mem = (s.mem.writeLine s.start.periods s.threshold k line (bs.map some)).1 ∧
    (s.hostLine k line bs).host = s.host ∧ (s.hostLine k line bs).out = s.out := by
  unfold State.hostLine
  rw [State.freedFrom_idle _ hidle]
  exact ⟨(s.withMem_frame _ 3).2.1, s.withMem_hostPort _ 3, s.withMem_out _ 3⟩

/-- What a partition's boundary hangs on. -/
def Part.due (t : Part) := (t.jobs, t.owed, t.phase, t.slots, t.wake, t.reqs)

theorem NoBoundary.of_due {t : State} {p : Nat} (h : NoBoundary s p) (hdue : (t.part p).due = (s.part p).due) : NoBoundary t p := by
  simp only [Part.due, Prod.mk.injEq] at hdue
  obtain ⟨hjobs, howed, hphase, hslots, hwake, hreqs⟩ := hdue
  unfold NoBoundary
  rw [hjobs, howed, hphase, hslots, hwake, hreqs]
  exact h

theorem State.due_hostBytes (s : State) (p rx tx : Nat) : ((s.hostBytes p rx tx).part p).due = (s.part p).due := by
  rw [State.hostBytes, State.part_updPart]
  rfl

theorem State.due_addLink (s : State) (p n : Nat) : ((s.addLink p n).part p).due = (s.part p).due := by
  rw [State.addLink, State.part_updPart]
  rfl

theorem State.due_withMem (s : State) (m : MemSys) (cause p : Nat) : ((s.withMem m cause).part p).due = (s.part p).due :=
  (congrArg Part.due ((s.withMem_reads m cause).part p) :)

/-- A line that the host writes leaves nothing due. -/
theorem State.hostLine_due (hidle : NoTestHolds s) (k line : Nat) (bs : List Byte) :
    (((s.hostLine k line bs).hostBytes 0 64 0).part 0).due = (s.part 0).due := by
  rw [State.due_hostBytes, State.hostLine, State.freedFrom_idle _ hidle, State.due_addLink, State.due_withMem]

/-- A read of a good line that is not held up. -/
theorem State.memRead_of_good {tracked : Bool} {bs : List Byte} (hin : s.inWindow hpa = true)
    (hline : s.lineOfP0 ((hpa - s.host.hdmBase) / 64) = some (k, l)) (hidle : NoTestHolds s) (hopen : (s.mem.stack k).closed false l = false)
    (hroom : s.host.filter.contains ((hpa - s.host.hdmBase) / 64) = true ∨ s.host.filter.length < 524288)
    (hgood : (s.mem.readLine s.start.periods s.threshold k l).2 = .ok bs) :
    (s.memRead hpa tracked).out = s.out ++ [.memData hpa bs] ∧ (s.memRead hpa tracked).mem = (s.mem.readLine s.start.periods s.threshold k l).1 ∧
    (s.memRead hpa tracked).host = { s.host with filter := (if tracked then
      (s.host.filter.filter (· != (hpa - s.host.hdmBase) / 64)) ++ [(hpa - s.host.hdmBase) / 64] else s.host.filter) } := by
  obtain ⟨read, hread⟩ : ∃ f, f = s.mem.readLine := ⟨_, rfl⟩
  have hheld : (tracked && !s.host.filter.contains ((hpa - s.host.hdmBase) / 64) && decide (524288 ≤ s.host.filter.length)) = false := by
    rcases hroom with h | h
    · rw [h, Bool.not_true, Bool.and_false, Bool.false_and]
    · rw [decide_eq_false (by omega), Bool.and_false]
  unfold State.memRead
  rw [← hread] at hgood ⊢
  rw [hin, Bool.not_true, if_neg Bool.false_ne_true]
  dsimp only
  rw [hline]
  dsimp only
  rw [hopen, hheld, if_neg Bool.false_ne_true, if_neg Bool.false_ne_true, hgood, State.freedFrom_idle _ hidle]
  have hmem := (s.withMem_frame (read s.start.periods s.threshold k l).1 3).2.1
  have hhost := s.withMem_hostPort (read s.start.periods s.threshold k l).1 3
  have hout := s.withMem_out (read s.start.periods s.threshold k l).1 3
  generalize s.withMem (read s.start.periods s.threshold k l).1 3 = u at hmem hhost hout
  have hfilter : (u.addLink 0 64).host = s.host := hhost
  cases tracked with
  | false => exact ⟨congrArg (· ++ [Out.memData hpa bs]) hout, hmem, hhost⟩
  | true =>
    refine ⟨congrArg (· ++ [Out.memData hpa bs]) hout, hmem, ?_⟩
    rw [if_pos rfl, if_pos rfl, ← hhost]
    rfl

/-- The host's port once the host has answered a snoop of a line. -/
def HostPort.answered (h : HostPort) (line : Nat) (x : Nat × Bool) : HostPort :=
  if x.2 then { h with snoops := h.snoops.erase x, filter := h.filter.filter (· != line), granted := h.granted.filter (· != line) }
  else { h with snoops := h.snoops.erase x, granted := (if h.granted.contains line then h.granted else h.granted ++ [line]) }

theorem HostPort.answered_waits (h : HostPort) (line : Nat) (x : Nat × Bool) : (h.answered line x).waits = h.waits := by
  unfold HostPort.answered
  split <;> rfl

/-- With no access that waits and nothing due, nothing follows an answer. -/
theorem State.settles_of_idle {h : HostPort} (hwaits : h.waits = []) (hbound : NoBoundary s 0) :
    (({ s with host := h } : State).retryHost).goOn 0 = { s with host := h } := by
  have hretry : ({ s with host := h } : State).retryHost = { s with host := h } := State.retryHost_of_none hwaits
  have hdue : NoBoundary { s with host := h } 0 := hbound.of_due rfl
  rw [hretry]
  exact State.serve_of_noBoundary hdue _

/-- A response without data, with no access that waits and nothing due, moves the port alone. -/
theorem exec_bisnpResponse {line : Nat} {x : Nat × Bool} (hfind : s.host.snoops.find? (fun x => x.1 == line) = some x)
    (hwaits : s.host.waits = []) (hbound : NoBoundary s 0) :
    exec (.bisnpResponse line none) s = .next { s with host := s.host.answered line x } := by
  have hexec : exec (.bisnpResponse line none) s = execBisnpResponse line none s := rfl
  unfold execBisnpResponse at hexec
  rw [hfind] at hexec
  have hstep : exec (.bisnpResponse line none) s = .next ((({ s with host := s.host.answered line x } : State).retryHost).goOn 0) := hexec
  rw [hstep, State.settles_of_idle ((HostPort.answered_waits ..).trans hwaits) hbound]

end HostLines

end Sys2Proof.Machine

namespace Sys2Proof.Proofs

open Sys2Proof.Machine

/-- Settles O24: each access and each response takes its one way, and what the host reads, writes or returns moves nothing else. -/
theorem cxlMemAndBackInvalidation : Obligations.CxlMemAndBackInvalidation := by
  unfold Obligations.CxlMemAndBackInvalidation
  refine ⟨⟨fun s hpa k l tracked bs hin hline hidle hopen hroom hgood => ⟨_, rfl, State.memRead_of_good hin hline hidle hopen hroom hgood⟩,
    fun s hpa tracked hin hline => ?_, fun s hpa k l hin hline hopen hnew hfull => ?_, fun s hpa k l data hin hline hidle hopen => ?_,
    fun s hpa data hin hline => ?_⟩, fun s line hbound hwaits hfind => ?_, fun s line hbound hwaits hfind hnew => ?_,
    fun s line k l d hbound hidle hwaits hfind hline hopen => ?_⟩
  · have hexec : exec (.cxlMemRead hpa tracked) s = .next (s.memRead hpa tracked) := rfl
    rw [hexec, State.memRead, hin, Bool.not_true, if_neg Bool.false_ne_true]
    extract_lets line
    rw [show s.lineOfP0 line = none from hline]
  · have hexec : exec (.cxlMemRead hpa true) s = .next (s.memRead hpa true) := rfl
    rw [hexec, State.memRead, hin, Bool.not_true, if_neg Bool.false_ne_true]
    extract_lets line
    rw [show s.lineOfP0 line = some (k, l) from hline]
    dsimp only
    rw [hopen, if_neg Bool.false_ne_true, if_pos]
    rw [hnew, decide_eq_true hfull]
    rfl
  · have hexec : exec (.cxlMemWrite hpa data) s = execCxlMemWrite hpa data s := rfl
    unfold execCxlMemWrite at hexec
    rw [hin, Bool.not_true, if_neg Bool.false_ne_true, hline] at hexec
    dsimp only at hexec
    rw [hopen, if_neg Bool.false_ne_true] at hexec
    obtain ⟨hmem, hhost, hout⟩ := s.hostLine_spec hidle k l (leBytes 64 data.toNat)
    exact ⟨_, hexec, congrArg (· ++ [Out.memCmp hpa]) hout, hhost, hmem⟩
  · have hexec : exec (.cxlMemWrite hpa data) s = execCxlMemWrite hpa data s := rfl
    rw [hexec, execCxlMemWrite, hin, Bool.not_true, if_neg Bool.false_ne_true, hline]
  · rw [exec_bisnpResponse hfind hwaits hbound]
    rfl
  · rw [exec_bisnpResponse hfind hwaits hbound, HostPort.answered, hnew]
    rfl
  · have hexec : exec (.bisnpResponse line (some d)) s = execBisnpResponse line (some d) s := rfl
    unfold execBisnpResponse at hexec
    rw [hfind, hline] at hexec
    dsimp only at hexec
    rw [hopen, Bool.and_false, if_neg Bool.false_ne_true, if_pos rfl] at hexec
    obtain ⟨hmem, hhost, hout⟩ := s.hostLine_spec hidle k l (leBytes 64 d.toNat)
    have hdue := s.hostLine_due hidle k l (leBytes 64 d.toNat)
    have hport : ((s.hostLine k l (leBytes 64 d.toNat)).hostBytes 0 64 0).host = s.host := hhost
    rw [hport] at hexec
    refine ⟨_, hexec.trans (congrArg Host.Outcome.next (State.settles_of_idle hwaits (hbound.of_due hdue))), hmem, ?_, hout⟩
    simp

end Sys2Proof.Proofs
end

section
/-! PROOFS. Base address registers (R347, R351, R358, R359, R394). -/

namespace Sys2Proof.Machine

/-! ## Counting the host's bytes changes no register -/

section HostBytes

variable {s : State} {fn off : Nat}

theorem State.part_hostBytes (s : State) (p rx tx q : Nat) : ∃ h, (s.hostBytes p rx tx).part q = { s.part q with hostUse := h } := by
  unfold State.hostBytes
  by_cases hq : q = p
  · exact ⟨_, by rw [hq, State.part_updPart]⟩
  · exact ⟨(s.part q).hostUse, by rw [State.part_updPart_ne _ _ hq]⟩

theorem State.accepts_hostBytes (s : State) (p rx tx q n : Nat) : (s.hostBytes p rx tx).accepts q n = s.accepts q n := by
  obtain ⟨h, hpart⟩ := s.part_hostBytes p rx tx q
  rw [State.accepts, hpart]
  rfl

theorem State.sanitising_hostBytes (s : State) (p rx tx q : Nat) : (s.hostBytes p rx tx).sanitising q = s.sanitising q := by
  obtain ⟨h, hpart⟩ := s.part_hostBytes p rx tx q
  rw [State.sanitising, hpart]
  rfl

theorem State.slot_hostBytes (s : State) (p rx tx q k : Nat) : (s.hostBytes p rx tx).slot q k = s.slot q k := by
  obtain ⟨h, hpart⟩ := s.part_hostBytes p rx tx q
  rw [State.slot, hpart]
  rfl

theorem State.servingReg_hostBytes (s : State) (p rx tx q off : Nat) : (s.hostBytes p rx tx).servingReg q off = s.servingReg q off := by
  obtain ⟨h, hpart⟩ := s.part_hostBytes p rx tx q
  unfold State.servingReg
  rw [State.accepts_hostBytes, hpart]

theorem State.coreReg_hostBytes (s : State) (p rx tx c off : Nat) : (s.hostBytes p rx tx).coreReg c off = s.coreReg c off := by
  obtain ⟨h, hpart⟩ := s.part_hostBytes p rx tx (partOfCore s.mode c)
  have hmode : (s.hostBytes p rx tx).mode = s.mode := rfl
  unfold State.coreReg
  dsimp only
  rw [hmode, State.accepts_hostBytes, hpart]
  rfl

theorem State.bar2Byte_hostBytes (s : State) (p rx tx fn o : Nat) : (s.hostBytes p rx tx).bar2Byte fn o = s.bar2Byte fn o := by
  unfold State.bar2Byte
  rw [State.sanitising_hostBytes]
  rfl

theorem State.hostReg_hostBytes (s : State) (p rx tx fn off : Nat) : (s.hostBytes p rx tx).hostReg fn off = s.hostReg fn off := by
  unfold State.hostReg
  simp only [State.slot_hostBytes, State.servingReg_hostBytes, State.coreReg_hostBytes]
  rfl

end HostBytes

/-! ## One line, one piece -/

section OneLine

variable {s : State} {fn offset a k off : Nat}

theorem linesFrom_line (h : a % 64 = 0) : linesFrom a 64 = [a / 64] := by
  unfold linesFrom
  rw [show (a + 64 - 1) / 64 + 1 - a / 64 = 1 by omega]
  rfl

/-- A write that stays in one line is one piece. -/
theorem linePieces_inside {o : Nat} {bs : List Byte} (h : o % 64 + bs.length ≤ 64) : linePieces o bs = [(o, bs)] := by
  unfold linePieces
  rw [Nat.min_eq_left (by omega)]
  dsimp only
  rw [Nat.sub_self, List.take_length]
  rfl

theorem maskWords_word {bs : List Byte} (hlen : bs.length = 8) (hoff : offset % 8 = 0) : maskWords offset bs = [(offset, bs.map some)] := by
  unfold maskWords
  rw [hoff]
  dsimp only [List.replicate, List.nil_append]
  rw [List.length_map, hlen]
  have hfit : fit none 8 ((bs.map some).drop (8 * 0)) = bs.map some := by
    rw [Nat.mul_zero, List.drop_zero, fit, List.length_map, hlen, List.take_of_length_le (by rw [List.length_map, hlen])]
    exact List.append_nil _
  rw [show ceilDiv 8 8 = 1 from rfl]
  dsimp only [List.range, List.range.loop, List.map]
  rw [hfit, show offset / 8 * 8 + 8 * 0 = offset by omega]

theorem anyClosed_line {e : Env} {m : MemSys} (h : a % 64 = 0) (hplace : e.place m a = .stack k off)
    (hse : e.se = false) (hopen : (m.stack k).closed false (off / 64) = false) : [a / 64].any (fun l => lineClosed e m (64 * l)) = false := by
  rw [List.any_cons, List.any_nil, Bool.or_false, lineClosed, show 64 * (a / 64) = a by omega, hplace]
  dsimp only
  rw [hse, hopen]

/-- A hole counts, and writes nothing. -/
theorem State.hole_spec (h : (s.func fn).holes < 65535) : ((s.hole fn).func fn).holes = (s.func fn).holes + 1 ∧ (s.hole fn).mem = s.mem := by
  unfold State.hole
  rw [if_neg (by omega)]
  obtain ⟨o, ho⟩ := State.irq_eq (s.updFunc fn (fun f => { f with holes := f.holes + 1 })) fn 2
  rw [ho]
  refine ⟨?_, rfl⟩
  change ((s.updFunc fn (fun f => { f with holes := f.holes + 1 })).func fn).holes = _
  rw [State.func_updFunc]

/-- A read of a whole good line through BAR4. -/
theorem State.barRead4_of_line {bs : List Byte} (haddr : s.bar4Addr fn offset 64 = some a) (h : a % 64 = 0)
    (hplace : (s.partEnv (funcPart fn)).place s.mem a = .stack k off) (hopen : (s.mem.stack k).closed false (off / 64) = false)
    (hidle : NoTestHolds s) (hgood : (s.mem.readLine s.start.periods s.threshold k (off / 64)).2 = .ok bs) (hlen : bs.length = 64) :
    (s.barRead4 fn offset 64).out = s.out ++ [.barData fn bs] := by
  have hread : readBar4 (s.partEnv (funcPart fn)) s.start.periods s.threshold s.mem [a / 64] =
      ((s.mem.readLine s.start.periods s.threshold k (off / 64)).1, some bs) := by
    obtain ⟨read, hread⟩ : ∃ f, f = s.mem.readLine := ⟨_, rfl⟩
    rw [← hread] at hgood
    rw [readBar4, show 64 * (a / 64) = a by omega, hplace, ← hread]
    dsimp only
    generalize read s.start.periods s.threshold k (off / 64) = r at hgood ⊢
    obtain ⟨m, res⟩ := r
    dsimp only at hgood
    rw [hgood]
    dsimp only [readBar4]
    rw [List.append_nil]
  unfold State.barRead4
  dsimp only
  rw [haddr]
  dsimp only
  rw [linesFrom_line h, hread, anyClosed_line h hplace rfl hopen, if_neg Bool.false_ne_true]
  dsimp only
  rw [State.freedFrom_idle _ hidle]
  have hout := s.withMem_out (s.mem.readLine s.start.periods s.threshold k (off / 64)).1 3
  refine congrArg₂ (fun o b => o ++ [Out.barData fn b]) hout ?_
  rw [h, List.drop_zero, List.take_of_length_le hlen.le]

/-- A write of a whole line through BAR4 that the host does not hold. -/
theorem State.barWrite4_of_line {data : List Byte} (hdata : data.length = 64) (haddr : s.bar4Addr fn offset 64 = some a) (h : a % 64 = 0)
    (hplace : (s.partEnv (funcPart fn)).place s.mem a = .stack k off) (hopen : (s.mem.stack k).closed false (off / 64) = false)
    (hheld : (s.partEnv (funcPart fn)).hostHolds (a / 64) = false) (hidle : NoTestHolds s) :
    (s.barWrite4 fn offset data).out = s.out ∧
    (s.barWrite4 fn offset data).mem = (s.mem.writeLine s.start.periods s.threshold k (off / 64) (data.map some)).1 := by
  have hfit : fit none 64 (List.replicate (a % 64) none ++ data.map some) = data.map some := by
    rw [h, List.replicate_zero, List.nil_append, fit, List.length_map, hdata, List.take_of_length_le (by rw [List.length_map, hdata])]
    exact List.append_nil _
  have hpieces : linePieces a data = [(a, data)] := linePieces_inside (by omega)
  have hne : data ≠ [] := fun h => by rw [h] at hdata; exact absurd hdata (by decide)
  unfold State.barWrite4
  dsimp only
  rw [hdata, haddr]
  dsimp only
  rw [linesFrom_line h, hpieces, anyClosed_line h hplace rfl hopen, List.filter_cons_of_neg (by rw [hheld]; exact Bool.false_ne_true), List.filter_nil,
    if_neg Bool.false_ne_true]
  dsimp only [List.foldl]
  rw [if_neg (by decide), State.freedFrom_idle _ hidle, show a / 64 * 64 = a by omega, hplace]
  cases data with
  | nil => exact absurd rfl hne
  | cons x data =>
    dsimp only
    rw [hfit]
    exact ⟨s.withMem_out _ 3, (s.withMem_frame _ 3).2.1⟩

theorem State.barWrite4_of_held {data : List Byte} (hdata : data.length = 64) (haddr : s.bar4Addr fn offset 64 = some a) (h : a % 64 = 0)
    (hheld : (s.partEnv (funcPart fn)).hostHolds (a / 64) = true) :
    s.barWrite4 fn offset data = (s.sendSnoops [(a / 64, true)]).holdHost (.barWrite fn offset data) := by
  unfold State.barWrite4
  dsimp only
  rw [hdata, haddr]
  dsimp only
  rw [linesFrom_line h, List.filter_cons_of_pos hheld, List.filter_nil]
  rfl

end OneLine

/-! ## The accesses -/

section Accesses

variable {s : State} {fn bar offset len : Nat} {data : List Byte}

theorem exec_hostBarRead (hlink : s.host.link = .up) (hlen : 0 < len) (hhit : s.barHit fn bar offset len = true) :
    exec (.hostBarRead fn bar offset len) s = .next (if s.behind fn then s.holdHost (.barRead fn bar offset len) else s.barRead fn bar offset len) := by
  have hexec : exec (.hostBarRead fn bar offset len) s = execHostBarRead fn bar offset len s := rfl
  rw [hexec, execHostBarRead, hlink, hhit, beq_false_of_ne (by omega : len ≠ 0)]
  rfl

theorem exec_hostBarWrite4 (hlink : s.host.link = .up) (hdata : data ≠ []) (hhit : s.barHit fn 4 offset data.length = true) :
    exec (.hostBarWrite fn 4 offset data) s = .next (if s.behind fn then s.holdHost (.barWrite fn offset data) else s.barWrite4 fn offset data) := by
  have hexec : exec (.hostBarWrite fn 4 offset data) s = execHostBarWrite fn 4 offset data s := rfl
  rw [hexec, execHostBarWrite, hlink, hhit, List.isEmpty_eq_false_iff.2 hdata]
  rfl

end Accesses

end Sys2Proof.Machine

namespace Sys2Proof.Proofs

open Sys2Proof.Machine

/-- Settles O25: each access takes the branch of its BAR, and one line or one piece is all that it touches. -/
theorem hostBarAccesses : Obligations.HostBarAccesses := by
  unfold Obligations.HostBarAccesses
  refine ⟨fun s fn bar offset len hlink hlen hmiss => ?_, fun s fn bar offset data hlink hdata hmiss => ?_,
    fun s fn offset data hlink hdata hoff hhit => ?_, fun s fn offset data hlink hdata hhit hfree haddr hholes => ?_,
    fun s fn offset len hlink hlen hhit hfree => ?_, fun s fn offset len hlink hlen hhit hfree hsan => ?_,
    fun s fn offset len hlink hlen hhit hfree haddr hholes => ?_,
    fun s fn offset a k off bs hlink hhit hfree haddr ha hplace hopen hidle hgood hlen => ?_,
    fun s fn offset a k off data hlink hdata hhit hfree haddr ha hplace hopen hheld hidle => ?_,
    fun s fn offset a data hlink hdata hhit hfree haddr ha hheld => ?_, fun s fn bar offset len data hlink hbehind => ⟨fun hlen hhit => ?_, fun hdata hhit => ?_⟩,
    fun s fn offset data hlink hdata hline hoff hhit hsan hpart => ?_⟩
  · have hexec : exec (.hostBarRead fn bar offset len) s = execHostBarRead fn bar offset len s := rfl
    rw [hexec, execHostBarRead, hlink, hmiss, beq_false_of_ne (by omega : len ≠ 0)]
    rfl
  · have hexec : exec (.hostBarWrite fn bar offset data) s = execHostBarWrite fn bar offset data s := rfl
    rw [hexec, execHostBarWrite, hlink, hmiss, List.isEmpty_eq_false_iff.2 hdata]
    rfl
  · have hexec : exec (.hostBarWrite fn 0 offset data) s = execHostBarWrite fn 0 offset data s := rfl
    have hne : data ≠ [] := fun h => by rw [h] at hdata; exact absurd hdata (by decide)
    rw [hexec, execHostBarWrite, hdata, hlink, hhit, List.isEmpty_eq_false_iff.2 hne, maskWords_word hdata hoff]
    rfl
  · rw [exec_hostBarWrite4 hlink hdata hhit, hfree, if_neg Bool.false_ne_true, State.barWrite4]
    extract_lets p
    rw [haddr]
    exact ⟨_, rfl, State.hole_spec hholes⟩
  · rw [exec_hostBarRead hlink hlen hhit, hfree, if_neg Bool.false_ne_true]
    refine ⟨_, _, rfl, rfl, rfl, ?_, fun i hi => ?_⟩
    · simp [State.readRegs]
    · simp [State.readRegs, hi, State.hostReg_hostBytes]
  · rw [exec_hostBarRead hlink hlen hhit, hfree, if_neg Bool.false_ne_true]
    have hread : s.barRead fn 2 offset len = (s.hostBytes (funcPart fn) 0 len).emit
        (.barData fn ((List.range len).map (fun i => (s.hostBytes (funcPart fn) 0 len).bar2Byte fn (offset + i)))) := by
      rw [State.barRead, if_neg (by decide)]
      dsimp only
      rw [if_neg (by decide), State.sanitising_hostBytes, hsan, Bool.false_and, if_neg Bool.false_ne_true]
    rw [hread]
    refine ⟨_, _, rfl, rfl, rfl, by simp, fun i hi => ?_⟩
    simp [hi, State.bar2Byte_hostBytes]
  · rw [exec_hostBarRead hlink hlen hhit, hfree, if_neg Bool.false_ne_true, State.barRead, if_pos rfl, State.barRead4]
    dsimp only
    rw [haddr]
    obtain ⟨hcount, hmem⟩ := State.hole_spec hholes
    exact ⟨_, rfl, hcount, hmem, List.mem_append_right _ List.mem_cons_self⟩
  · rw [exec_hostBarRead hlink (by decide) hhit, hfree, if_neg Bool.false_ne_true]
    exact ⟨_, rfl, State.barRead4_of_line haddr ha hplace hopen hidle hgood hlen⟩
  · have hne : data ≠ [] := fun h => by rw [h] at hdata; exact absurd hdata (by decide)
    rw [exec_hostBarWrite4 hlink hne (by rw [hdata]; exact hhit), hfree, if_neg Bool.false_ne_true]
    exact ⟨_, rfl, State.barWrite4_of_line hdata haddr ha hplace hopen hheld hidle⟩
  · have hne : data ≠ [] := fun h => by rw [h] at hdata; exact absurd hdata (by decide)
    rw [exec_hostBarWrite4 hlink hne (by rw [hdata]; exact hhit), hfree, if_neg Bool.false_ne_true, State.barWrite4_of_held hdata haddr ha hheld]
  · rw [exec_hostBarRead hlink hlen hhit, hbehind, if_pos rfl]
  · rw [exec_hostBarWrite4 hlink hdata hhit, hbehind, if_pos rfl]
  · have hcore : offset / 0x80_0000 < 48 := by omega
    have hempty : data.isEmpty = false := List.isEmpty_eq_false_iff.2 hdata
    have hwrite : (s.hostBytes (funcPart fn) data.length 0).bar2Write fn offset data =
        ({ s.hostBytes (funcPart fn) data.length 0 with
          mem := s.mem.scratchWrite (offset / 0x80_0000) (offset % 0x80_0000) (data.map some) } : State).updCore (offset / 0x80_0000)
          (fun k => { k with lastUse := .host }) := by
      unfold State.bar2Write
      rw [bar2Place, if_pos hoff]
      dsimp only
      rw [if_neg, State.sanitising_hostBytes, hsan, if_neg Bool.false_ne_true]
      · rfl
      · rintro (h | h | h)
        · omega
        · exact h hpart
        · rw [hempty] at h; exact Bool.false_ne_true h
    have hexec : exec (.hostBarWrite fn 2 offset data) s = execHostBarWrite fn 2 offset data s := rfl
    unfold execHostBarWrite at hexec
    rw [hlink, hhit, hempty, if_neg (by decide), if_neg (by decide), if_neg (by decide)] at hexec
    dsimp only at hexec
    rw [if_neg (by decide), State.sanitising_hostBytes, hsan, Bool.false_and, if_neg Bool.false_ne_true, linePieces_inside hline] at hexec
    dsimp only [List.foldl] at hexec
    rw [hwrite] at hexec
    refine ⟨_, hexec, rfl, rfl, ?_⟩
    rw [State.core_updCore]

end Sys2Proof.Proofs
end

section
/-! PROOFS. Requests of the dictionary: how one is taken, and what reads and identity answer (R373, R376 to R378, R380 to R382, R385). -/

namespace Sys2Proof.Machine

/-! ## Arrival -/

section Arrival

variable {s : State} {who : Requester} {msg : List Byte} {mine : DictMsg → Bool}

theorem counted_eq (s : State) (who : Requester) : ∃ n, counted s who = { s with dict := { s.dict with requests := n } } := by
  unfold counted
  split
  · exact ⟨_, rfl⟩
  · exact ⟨s.dict.requests, rfl⟩

@[simp] theorem counted_lasts (s : State) (who : Requester) : (counted s who).dict.lasts = s.dict.lasts := by
  obtain ⟨n, hn⟩ := counted_eq s who
  rw [hn]

@[simp] theorem counted_snaps (s : State) (who : Requester) : (counted s who).dict.snaps = s.dict.snaps := by
  obtain ⟨n, hn⟩ := counted_eq s who
  rw [hn]

@[simp] theorem counted_start (s : State) (who : Requester) : (counted s who).start = s.start := by
  obtain ⟨n, hn⟩ := counted_eq s who
  rw [hn]

@[simp] theorem counted_mode (s : State) (who : Requester) : (counted s who).mode = s.mode := by
  obtain ⟨n, hn⟩ := counted_eq s who
  rw [hn]
  rfl

theorem heard_own (who : Requester) (msg : List Byte) : heard ⟨who, .own⟩ msg = true := by
  unfold heard
  cases isPort who <;> rfl

theorem heard_port (a u : Nat) (d : Dest) (msg : List Byte) :
    heard ⟨.port a u, d⟩ msg = (d == .own || (d == .allNodes && (malformed false msg || (parseMsg msg).op == 3))) := rfl

theorem State.take_of_wellFormed (h : malformed (!isPort who) msg = false) : s.take who msg = (counted s who).perform who (parseMsg msg) := by
  unfold State.take
  rw [h]
  rfl

theorem State.arrive_of_idle (hon : s.dictOn = true) (hidle : s.dict.flash = none) (hpath : ∀ fn, who = .mailbox fn → s.doeReach fn = true) :
    s.arrive who msg = s.take who msg := by
  unfold State.arrive
  cases who with
  | port a u => simp [hon, hidle]
  | mailbox fn => simp [hon, hidle, hpath fn rfl]

theorem State.request_of_mine (h : mine (parseMsg msg) = true) : s.request who msg mine = s.arrive who msg :=
  if_pos (by rw [h, Bool.or_true])

theorem State.request_of_malformed (h : malformed (!isPort who) msg = true) : s.request who msg mine = s.arrive who msg :=
  if_pos (by rw [h, Bool.true_or])

theorem RequestArrives.request (h : RequestArrives s who msg) (hmine : mine (parseMsg msg) = true) :
    s.request who msg mine = (counted s who).perform who (parseMsg msg) := by
  rw [State.request_of_mine hmine, State.arrive_of_idle h.on h.idle h.path, State.take_of_wellFormed h.wellFormed]

theorem RequestArrives.fresh_counted (h : RequestArrives s who msg) :
    (counted s who).dict.lasts.find? (fun x => x.1 == who && x.2.1 == (parseMsg msg).seq) = none := by
  rw [counted_lasts]
  exact h.fresh

theorem RequestArrives.takes_read (h : RequestArrives s who msg) (hmine : mine (parseMsg msg) = true) (hop : (parseMsg msg).op = 1) :
    s.request who msg mine = answeredWith ((counted s who).readMsg who (parseMsg msg)).2.2 who msg
      ((counted s who).readMsg who (parseMsg msg)).1 ((counted s who).readMsg who (parseMsg msg)).2.1 := by
  rw [h.request hmine, State.perform, h.fresh_counted]
  exact if_pos hop

theorem RequestArrives.takes_write (h : RequestArrives s who msg) (hmine : mine (parseMsg msg) = true) (hop : (parseMsg msg).op = 2) :
    s.request who msg mine = (counted s who).performWrite who (parseMsg msg) := by
  rw [h.request hmine, State.perform, h.fresh_counted]
  exact (if_neg (by omega)).trans (if_pos hop)

theorem RequestArrives.takes_identify (h : RequestArrives s who msg) (hmine : mine (parseMsg msg) = true) (hop : (parseMsg msg).op = 3) :
    s.request who msg mine = answeredWith (counted s who) who msg rOK (counted s who).identity := by
  rw [h.request hmine, State.perform, h.fresh_counted]
  exact (if_neg (by omega)).trans ((if_neg (by omega)).trans (if_pos hop))

theorem RequestArrives.takes_badOp (h : RequestArrives s who msg) (hmine : mine (parseMsg msg) = true)
    (hop : 3 < (parseMsg msg).op ∨ (parseMsg msg).op = 0) :
    s.request who msg mine = answeredWith (counted s who) who msg rBAD_OP [] := by
  rw [h.request hmine, State.perform, h.fresh_counted]
  exact (if_neg (by omega)).trans ((if_neg (by omega)).trans (if_neg (by omega)))

end Arrival

/-! ## The rows of reads and identity -/

section Rows

variable {s : State} {who : Requester} {msg : List Byte}

theorem exec_dictRead_own (s : State) (who : Requester) (msg : List Byte) :
    exec (.dictRead ⟨who, .own⟩ msg) s = .next (s.request who msg (fun m => m.op != 2 && m.op != 3)) :=
  congrArg Host.Outcome.next (if_pos (heard_own who msg))

theorem exec_dictWrite_own (s : State) (who : Requester) (msg : List Byte) :
    exec (.dictWrite ⟨who, .own⟩ msg) s = .next (s.request who msg (fun m => m.op == 2)) :=
  congrArg Host.Outcome.next (if_pos (heard_own who msg))

theorem exec_identify_own (s : State) (who : Requester) (msg : List Byte) :
    exec (.identify ⟨who, .own⟩ msg) s = .next (s.request who msg (fun m => m.op == 3)) :=
  congrArg Host.Outcome.next (if_pos (heard_own who msg))

theorem exec_of_unheard {x : Sender} (h : heard x msg = false) (s : State) :
    exec (.dictRead x msg) s = .next s ∧ exec (.dictWrite x msg) s = .next s ∧ exec (.identify x msg) s = .next s := by
  have hoff {u : State} : (if heard x msg = true then u else s) = s := if_neg (by rw [h]; decide)
  exact ⟨congrArg Host.Outcome.next hoff, congrArg Host.Outcome.next hoff, congrArg Host.Outcome.next hoff⟩

theorem RequestArrives.dictRead (h : RequestArrives s who msg) (hop : (parseMsg msg).op = 1) :
    exec (.dictRead ⟨who, .own⟩ msg) s = .next (answeredWith ((counted s who).readMsg who (parseMsg msg)).2.2 who msg
      ((counted s who).readMsg who (parseMsg msg)).1 ((counted s who).readMsg who (parseMsg msg)).2.1) := by
  rw [exec_dictRead_own, h.takes_read (by simp [hop]) hop]

/-- A READ is answered as `readMsg` says. -/
theorem RequestArrives.dictRead_of_readMsg {c : Nat} {v : List Byte} {t : State} (h : RequestArrives s who msg) (hop : (parseMsg msg).op = 1)
    (hread : (counted s who).readMsg who (parseMsg msg) = (c, v, t)) :
    exec (.dictRead ⟨who, .own⟩ msg) s = .next (answeredWith t who msg c v) := by
  rw [h.dictRead hop, hread]

end Rows

/-! ## What a READ gives -/

section Read

variable {s : State} {who : Requester} {m : DictMsg} {r : Row}

theorem State.readMsg_count (hsub : m.sub = 0) (hcount : subCount m.index ≠ 0) :
    s.readMsg who m = (rOK, leBytes 1 (subCount m.index), s) := if_pos ⟨hsub, hcount⟩

theorem State.readMsg_noRow (hrow : rowOf m.index m.sub = none) (hsub : m.sub = 0 → subCount m.index = 0) :
    s.readMsg who m = (rNO_ENTRY, [], s) := by
  unfold State.readMsg
  rw [hrow]
  exact if_neg (fun h => h.2 (hsub h.1))

theorem State.readMsg_noPart (hrow : rowOf m.index m.sub = some r) (hsub : m.sub ≠ 0) (hkind : r.kind = .part) (habs : nParts s.mode ≤ m.sub - r.lo) :
    s.readMsg who m = (rNO_ENTRY, [], s) := by
  unfold State.readMsg
  rw [hrow]
  refine (if_neg (fun h => hsub h.1)).trans (if_pos ?_)
  simp [Row.missing, hkind, habs]

theorem State.readMsg_present (hrow : rowOf m.index m.sub = some r) (hsub : m.sub ≠ 0) (hpresent : r.missing s.mode (m.sub - r.lo) = false) :
    s.readMsg who m = (match r.ty with
      | .dom _ => s.readObject who m r (s.readEntry who r (m.sub - r.lo))
      | _ => (rOK, s.readEntry who r (m.sub - r.lo), s)) := by
  unfold State.readMsg
  rw [hrow]
  refine (if_neg (fun h => hsub h.1)).trans ((if_neg (by simp [hpresent])).trans ?_)
  dsimp only
  rw [hpresent]
  cases r.ty <;> rfl

theorem windowIs_windowOf (obj : List Byte) (m : DictMsg) : WindowIs obj m (windowOf obj m).1 (windowOf obj m).2 where
  size := fun h => by simp [windowOf, h]
  past := fun h hpast => by simp [windowOf, h, hpast]
  inside := fun h hin => by
    have hlen : (obj.drop m.offset).length = obj.length - m.offset := List.length_drop
    rw [windowOf, if_neg h, if_neg (by omega), ← hlen, ← Nat.min_assoc]
    exact ⟨rfl, (List.take_eq_take_min).trans rfl⟩

end Read

/-! ## Objects and their snapshots (R380) -/

section Objects

variable {s : State} {who : Requester} {m : DictMsg} {r : Row} {obj : List Byte}

theorem State.readObject_wo (h : r.acc = .wo) : s.readObject who m r obj = (rOK, if m.len = 0 then leBytes 4 0 else [],
    if m.offset = 0 then { s with dict := { s.dict with snaps := s.dict.snaps.filter (fun x => x.1 != who) } } else s) := if_pos h

theorem State.readObject_rw (h : r.acc ≠ .ro) (hwo : r.acc ≠ .wo) : s.readObject who m r obj = ((windowOf obj m).1, (windowOf obj m).2,
    if m.offset = 0 then { s with dict := { s.dict with snaps := s.dict.snaps.filter (fun x => x.1 != who) } } else s) :=
  (if_neg hwo).trans (if_pos h)

theorem State.readObject_taken (h : r.acc = .ro) (hoff : m.offset = 0) : s.readObject who m r obj = ((windowOf obj m).1, (windowOf obj m).2,
    { s with dict := { s.dict with snaps := renew s.dict.snaps who ⟨m.index, m.sub, obj⟩ } }) :=
  (if_neg (by rw [h]; decide)).trans ((if_neg (not_not_intro h)).trans (if_pos hoff))

theorem State.readObject_size (h : r.acc = .ro) (hoff : m.offset ≠ 0) (hlen : m.len = 0) :
    s.readObject who m r obj = (rOK, leBytes 4 obj.length, s) :=
  (if_neg (by rw [h]; decide)).trans ((if_neg (not_not_intro h)).trans ((if_neg hoff).trans (if_pos hlen)))

/-- A later window of a read-only object is one of the requester's snapshot. -/
theorem State.readObject_later (h : r.acc = .ro) (hoff : m.offset ≠ 0) (hlen : m.len ≠ 0) :
    s.readObject who m r obj = (match s.dict.snaps.find? (fun x => x.1 == who) with
      | some x => if x.2.index = m.index ∧ x.2.sub = m.sub then ((windowOf x.2.bytes m).1, (windowOf x.2.bytes m).2, s) else (rSNAPSHOT_LOST, [], s)
      | none => (rSNAPSHOT_LOST, [], s)) :=
  (if_neg (by rw [h]; decide)).trans ((if_neg (not_not_intro h)).trans ((if_neg hoff).trans (if_neg hlen)))

theorem State.readObject_kept (h : r.acc = .ro) (hoff : m.offset ≠ 0) (hlen : m.len ≠ 0) {x : Requester × Staging}
    (hx : s.dict.snaps.find? (fun x => x.1 == who) = some x) (hindex : x.2.index = m.index) (hsub : x.2.sub = m.sub) :
    s.readObject who m r obj = ((windowOf x.2.bytes m).1, (windowOf x.2.bytes m).2, s) := by
  rw [State.readObject_later h hoff hlen, hx]
  exact if_pos ⟨hindex, hsub⟩

theorem State.readObject_lost (h : r.acc = .ro) (hoff : m.offset ≠ 0) (hlen : m.len ≠ 0)
    (hlost : ∀ x, s.dict.snaps.find? (fun x => x.1 == who) = some x → x.2.index ≠ m.index ∨ x.2.sub ≠ m.sub) :
    s.readObject who m r obj = (rSNAPSHOT_LOST, [], s) := by
  rw [State.readObject_later h hoff hlen]
  split
  next x hx => exact if_neg (fun hsame => (hlost x hx).elim (fun h => h hsame.1) (fun h => h hsame.2))
  next => rfl

end Objects

/-! ## The reads of an entry that exists -/

section Entry

variable {s : State} {who : Requester} {msg : List Byte} {r : Row}

/-- A READ that reaches its entry gives its value, or what `readObject` gives of it. -/
theorem ReadReaches.readMsg (h : ReadReaches s who msg r) : (counted s who).readMsg who (parseMsg msg) = (match r.ty with
    | .dom _ => (counted s who).readObject who (parseMsg msg) r ((counted s who).readEntry who r ((parseMsg msg).sub - r.lo))
    | _ => (rOK, (counted s who).readEntry who r ((parseMsg msg).sub - r.lo), counted s who)) :=
  State.readMsg_present h.row h.read.2 (by rw [counted_mode]; exact h.present)

theorem ReadReaches.num (h : ReadReaches s who msg r) {n : Nat} (hty : r.ty = .num n) :
    exec (.dictRead ⟨who, .own⟩ msg) s = .next (answeredWith (counted s who) who msg rOK
      (leBytes n (if r.acc = .wo then 0 else (counted s who).scalar who r.index r.lo ((parseMsg msg).sub - r.lo)))) := by
  refine h.arrives.dictRead_of_readMsg h.read.1 (h.readMsg.trans ?_)
  rw [hty]
  dsimp only
  rw [State.readEntry, hty, apply_ite (leBytes n)]

theorem ReadReaches.str (h : ReadReaches s who msg r) (hty : r.ty = .str) :
    exec (.dictRead ⟨who, .own⟩ msg) s = .next (answeredWith (counted s who) who msg rOK (namedObject s who msg r)) := by
  refine h.arrives.dictRead_of_readMsg h.read.1 (h.readMsg.trans ?_)
  rw [hty]
  dsimp only
  rw [State.readEntry, hty]
  rfl

theorem State.readEntry_object {max i : Nat} (hty : r.ty = .dom max) (hacc : r.acc ≠ .wo) : s.readEntry who r i = s.object who r.index r.lo i := by
  rw [State.readEntry, hty]
  exact if_neg hacc

/-- A READ of an object that is not write-only is answered as `readObject` says of the object it names. -/
theorem ReadReaches.object {max c : Nat} {v : List Byte} {t : State} (h : ReadReaches s who msg r) (hty : r.ty = .dom max) (hacc : r.acc ≠ .wo)
    (hread : (counted s who).readObject who (parseMsg msg) r (namedObject s who msg r) = (c, v, t)) :
    exec (.dictRead ⟨who, .own⟩ msg) s = .next (answeredWith t who msg c v) := by
  refine h.arrives.dictRead_of_readMsg h.read.1 (h.readMsg.trans ?_)
  rw [State.readEntry_object hty hacc, hty]
  exact hread

theorem ReadReaches.object_wo {max : Nat} (h : ReadReaches s who msg r) (hty : r.ty = .dom max) (hacc : r.acc = .wo) :
    exec (.dictRead ⟨who, .own⟩ msg) s = .next (answeredWith
      (if (parseMsg msg).offset = 0 then snapped s who none else counted s who) who msg rOK
      (if (parseMsg msg).len = 0 then leBytes 4 0 else [])) := by
  refine h.arrives.dictRead_of_readMsg h.read.1 (h.readMsg.trans ?_)
  rw [hty]
  dsimp only
  rw [State.readObject_wo hacc, snapped, counted_snaps]

theorem snapped_some (s : State) (who : Requester) (x : Staging) : snapped s who (some x) =
    { counted s who with dict := { (counted s who).dict with snaps := renew (counted s who).dict.snaps who x } } := by
  rw [snapped, counted_snaps]

theorem snapped_none (s : State) (who : Requester) : snapped s who none =
    { counted s who with dict := { (counted s who).dict with snaps := (counted s who).dict.snaps.filter (fun x => x.1 != who) } } := by
  rw [snapped, counted_snaps]

end Entry

/-! ## Answers on their paths -/

section Answers

variable {s : State}

theorem fit_prefix {α : Type} {l : List α} {n : Nat} (d : α) (h : l.length ≤ n) : l <+: fit d n l := by
  rw [fit, List.take_of_length_le h]
  exact List.prefix_append _ _

theorem length_fit {α : Type} (d : α) (n : Nat) (l : List α) : (fit d n l).length = n := by
  rw [fit, List.length_append, List.length_take, List.length_replicate]
  omega

/-- A mailbox's response is the reply, padded to whole dwords. -/
theorem answeredWith_mailbox (t : State) (fn : Nat) (msg : List Byte) (result : Nat) (payload : List Byte) :
    ∃ bs, .dict (.mailbox fn) bs ∈ (answeredWith t (.mailbox fn) msg result payload).out ∧ bs.length % 4 = 0 ∧
      dictReply (parseMsg msg) result payload <+: bs := by
  refine ⟨_, (State.irq_grows _ _ _).sent.subset (List.mem_append_right _ (List.mem_singleton_self _)), ?_, fit_prefix _ (by omega)⟩
  rw [length_fit]
  omega

theorem State.perform_of_kept {who : Requester} {m : DictMsg} {x : Requester × Nat × List Byte}
    (h : s.dict.lasts.find? (fun x => x.1 == who && x.2.1 == m.seq) = some x) : s.perform who m = s.sendResp who x.2.2 := by
  rw [State.perform, h]

/-- A repeated request of the port is answered with the response that is kept, and is not performed. -/
theorem State.request_of_kept {a u : Nat} {msg : List Byte} {x : Requester × Nat × List Byte} {mine : DictMsg → Bool}
    (hform : malformed false msg = false) (hon : s.dictOn = true) (hidle : s.dict.flash = none)
    (hx : s.dict.lasts.find? (fun x => x.1 == .port a u && x.2.1 == (parseMsg msg).seq) = some x) (hmine : mine (parseMsg msg) = true) :
    s.request (.port a u) msg mine = (counted s (.port a u)).emit (.dict (.port a u) x.2.2) := by
  rw [State.request_of_mine hmine, State.arrive_of_idle hon hidle (fun _ h => Requester.noConfusion h),
    State.take_of_wellFormed (who := .port a u) hform,
    State.perform_of_kept (by rw [counted_lasts]; exact hx)]
  rfl

end Answers

end Sys2Proof.Machine

namespace Sys2Proof.Proofs

open Sys2Proof.Machine

/-- Settles O53: a request that arrives is performed by its OP; a READ goes by the row of its entry, an object by its requester's snapshot. -/
theorem dictionaryAnswers : Obligations.DictionaryAnswers := by
  unfold Obligations.DictionaryAnswers
  refine ⟨fun s who msg h hop => h.dictRead hop, fun s who msg h hop => ⟨?_, ?_, ?_⟩, fun s who msg r h => ⟨fun n => h.num, h.str⟩,
    fun s who msg r max h hty => ⟨?_, ?_, ?_, ?_, ?_, h.object_wo hty⟩, fun s who msg h hop => ?_,
    fun s who msg h hop => ?_, fun s fn msg h hop => ?_,
    fun s a u d msg h => ?_, fun s a u msg hform hop => ?_, fun s hon => ?_, fun s target hne => ?_, fun s a u d msg hd hbad hon hidle => ?_,
    fun s a u msg resp x hform hon hidle hx hresp => ⟨?_, ?_, ?_⟩⟩
  · exact fun hsub hcount => h.dictRead_of_readMsg hop (State.readMsg_count hsub hcount)
  · exact fun hrow hsub => h.dictRead_of_readMsg hop (State.readMsg_noRow hrow hsub)
  · exact fun r hrow hsub hkind habs =>
      h.dictRead_of_readMsg hop (State.readMsg_noPart hrow hsub hkind (by rw [counted_mode]; exact habs))
  · intro hacc hoff
    refine ⟨_, _, windowIs_windowOf _ _, h.object hty (by rw [hacc]; decide) ?_⟩
    rw [State.readObject_taken hacc hoff, snapped_some]
  · exact fun hacc hoff hlen => h.object hty (by rw [hacc]; decide) (State.readObject_size hacc hoff hlen)
  · exact fun hacc hoff hlen x hx hindex hsub => ⟨_, _, windowIs_windowOf _ _,
      h.object hty (by rw [hacc]; decide) (State.readObject_kept hacc hoff hlen (by rw [counted_snaps]; exact hx) hindex hsub)⟩
  · exact fun hacc hoff hlen hlost =>
      h.object hty (by rw [hacc]; decide) (State.readObject_lost hacc hoff hlen (by rw [counted_snaps]; exact hlost))
  · intro hro hwo
    refine ⟨_, _, windowIs_windowOf _ _, h.object hty hwo ?_⟩
    rw [State.readObject_rw hro hwo, snapped_none]
  · rw [exec_dictRead_own, h.takes_badOp (by simp; omega) hop]
  · rw [exec_identify_own, h.takes_identify (by simp [hop]) hop]
  · obtain ⟨bs, hout, hdwords, hreply⟩ := answeredWith_mailbox s fn msg rOK s.identity
    refine ⟨_, bs, ?_, hout, hdwords, hreply⟩
    rw [exec_identify_own, h.takes_identify (by simp [hop]) hop]
    rfl
  · refine exec_of_unheard ?_ s
    rw [heard_port]
    obtain rfl | ⟨rfl, hform, hop⟩ := h
    · rfl
    · simp [hform, hop]
  · rw [exec_identify_own]
    exact congrArg Host.Outcome.next (if_pos (by rw [heard_port, hop]; simp))
  · exact if_pos (by simp [hon])
  · exact if_neg (by simp [hne])
  · have hheard : heard ⟨.port a u, d⟩ msg = true := by
      rw [heard_port, hbad]
      obtain rfl | rfl := hd <;> rfl
    refine congrArg Host.Outcome.next ((if_pos hheard).trans ?_)
    rw [State.request_of_malformed (who := .port a u) hbad, State.arrive_of_idle hon hidle (fun _ h => Requester.noConfusion h)]
    exact if_pos hbad
  · intro hop
    rw [exec_dictWrite_own, State.request_of_kept hform hon hidle hx (by simp [hop]), hresp]
  · intro hop hop'
    rw [exec_dictRead_own, State.request_of_kept hform hon hidle hx (by simp [hop, hop']), hresp]
  · intro hop
    rw [exec_identify_own, State.request_of_kept hform hon hidle hx (by simp [hop]), hresp]

end Sys2Proof.Proofs
end

section
/-! PROOFS. Writes of the dictionary: how one reaches the rule of its entry, and the scalars (R109, R295, R297, R306, R325, R330, R361, R378, R379,
R381, R404, R414). -/

namespace Sys2Proof.Machine

/-! ## How a write is answered -/

section Answers

variable {s t : State} {who : Requester} {m : DictMsg} {r : Row} {c i old : Nat} {grade : Option (Nat × Nat)}

theorem State.performWrite_of_notLive (h : s.isLive = false) : s.performWrite who m = s.answer who m.seq (dictReply m rNOT_LIVE []) :=
  if_pos (by rw [h]; rfl)

theorem State.performWrite_of_live (h : s.isLive = true) : s.performWrite who m = (match s.writeMsg who m with
    | .no c => (s.dropStaging who m c).answer who m.seq (dictReply m c [])
    | .ok t => t.answer who m.seq (dictReply m rOK [])
    | .stored t old grade => { t.sealBase with dict := { t.dict with
        flash := some { who := who, seq := m.seq, answer := dictReply m rOK [], key := 256 * m.index + m.sub, old := old, grade := grade } } }) :=
  if_neg (by rw [h]; decide)

theorem State.performWrite_no (h : s.isLive = true) (hw : s.writeMsg who m = .no c) :
    s.performWrite who m = (s.dropStaging who m c).answer who m.seq (dictReply m c []) := by rw [State.performWrite_of_live h, hw]

theorem State.performWrite_ok (h : s.isLive = true) (hw : s.writeMsg who m = .ok t) :
    s.performWrite who m = t.answer who m.seq (dictReply m rOK []) := by rw [State.performWrite_of_live h, hw]

theorem State.performWrite_stored (h : s.isLive = true) (hw : s.writeMsg who m = .stored t old grade) :
    s.performWrite who m = { t.sealBase with dict := { t.dict with
      flash := some { who := who, seq := m.seq, answer := dictReply m rOK [], key := 256 * m.index + m.sub, old := old, grade := grade } } } := by
  rw [State.performWrite_of_live h, hw]

/-- What a refusal leaves of a requester's staging where it says that the entry may not be written. -/
theorem State.dropStaging_of_barred (h : c = rNO_ENTRY ∨ c = rACCESS ∨ c = rDENIED) : s.dropStaging who m c = s := by
  unfold State.dropStaging
  split
  · split
    · exact if_pos h
    · rfl
  · rfl

theorem State.dropStaging_of_num {n : Nat} (hrow : rowOf m.index m.sub = some r) (hty : r.ty = .num n) : s.dropStaging who m c = s := by
  rw [State.dropStaging, hrow]
  dsimp only
  rw [hty]

end Answers

/-! ## Which rule a write reaches -/

section Reaches

variable {s : State} {who : Requester} {msg : List Byte} {m : DictMsg} {r : Row} {index sub n max : Nat}

theorem State.writeMsg_noRow (hsub : m.sub ≠ 0) (hrow : rowOf m.index m.sub = none) : s.writeMsg who m = .no rNO_ENTRY := by
  rw [State.writeMsg, if_neg (fun h => hsub h.1), hrow]

theorem State.writeMsg_readOnly (hsub : m.sub ≠ 0) (hrow : rowOf m.index m.sub = some r) (hpresent : r.missing s.mode (m.sub - r.lo) = false)
    (hacc : r.acc = .ro ∨ r.acc = .const) : s.writeMsg who m = .no rACCESS := by
  rw [State.writeMsg, if_neg (fun h => hsub h.1), hrow]
  exact (if_neg (by rw [hpresent]; decide)).trans (if_pos hacc)

/-- A write of an entry that exists and that the path may write goes by the type of the entry. -/
theorem State.writeMsg_allowed (hsub : m.sub ≠ 0) (hrow : rowOf m.index m.sub = some r) (hpresent : r.missing s.mode (m.sub - r.lo) = false)
    (hacc : r.acc ≠ .ro ∧ r.acc ≠ .const) (hmay : mayWrite s.mode who r (m.sub - r.lo) = true) : s.writeMsg who m = (match r.ty with
      | .num n => if m.payload.length ≠ n then .no rLENGTH
          else if r.acc = .rws ∧ !s.rwsFree r (m.sub - r.lo) then .no rSTATE
          else s.writeNum who r (m.sub - r.lo) (leNat m.payload)
      | .str => .no rACCESS
      | .dom max => s.stageWindow who m (s.objectMax r max)
          (fun s bs => if r.acc = .rws ∧ !s.rwsFree r (m.sub - r.lo) then .no rSTATE else s.writeObject who r (m.sub - r.lo) bs)) := by
  rw [State.writeMsg, if_neg (fun h => hsub h.1), hrow]
  exact (if_neg (by rw [hpresent]; decide)).trans ((if_neg (not_or_intro hacc.1 hacc.2)).trans (if_neg (by rw [hmay]; decide)))

theorem State.writeMsg_num (hsub : m.sub ≠ 0) (hrow : rowOf m.index m.sub = some r) (hpresent : r.missing s.mode (m.sub - r.lo) = false)
    (hacc : r.acc ≠ .ro ∧ r.acc ≠ .const) (hmay : mayWrite s.mode who r (m.sub - r.lo) = true) (hty : r.ty = .num n) (hlen : m.payload.length = n)
    (hfree : r.acc = .rws → s.rwsFree r (m.sub - r.lo) = true) :
    s.writeMsg who m = s.writeNum who r (m.sub - r.lo) (leNat m.payload) := by
  rw [State.writeMsg_allowed hsub hrow hpresent hacc hmay, hty]
  exact (if_neg (not_not_intro hlen)).trans (if_neg (fun h => by simp [hfree h.1] at h))

/-- An object written whole in one window goes to its rule, with nothing staged. -/
theorem State.writeMsg_dom (hsub : m.sub ≠ 0) (hrow : rowOf m.index m.sub = some r) (hpresent : r.missing s.mode (m.sub - r.lo) = false)
    (hacc : r.acc ≠ .ro ∧ r.acc ≠ .const) (hmay : mayWrite s.mode who r (m.sub - r.lo) = true) (hty : r.ty = .dom max)
    (hlen : m.payload.length ≤ s.objectMax r max) (hoff : m.offset = 0) (hlast : m.last = true)
    (hfree : r.acc = .rws → s.rwsFree r (m.sub - r.lo) = true) :
    s.writeMsg who m = (s.updRequester who (fun q => { q with staging := none })).writeObject who r (m.sub - r.lo) m.payload := by
  rw [State.writeMsg_allowed hsub hrow hpresent hacc hmay, hty]
  dsimp only
  rw [State.stageWindow, hoff]
  refine (if_neg (Nat.not_lt.mpr hlen)).trans ((if_pos hlast).trans (if_neg (fun h => ?_)))
  have hbusy : s.rwsFree r (m.sub - r.lo) = false := (Bool.not_eq_true' _).mp h.2
  rw [hfree h.1] at hbusy
  exact Bool.noConfusion hbusy

@[simp] theorem counted_isLive (s : State) (who : Requester) : (counted s who).isLive = s.isLive := by
  rw [State.isLive, counted_start]
  rfl

theorem counted_rwsFree (s : State) (who : Requester) (r : Row) (i : Nat) : (counted s who).rwsFree r i = s.rwsFree r i := by
  obtain ⟨n, hn⟩ := counted_eq s who
  rw [hn]
  rfl

theorem ScalarReaches.row (h : ScalarReaches s who msg index sub) (hrow : rowOf index sub = some r) :
    WriteReaches s who msg index sub r ∧ ∃ n, r.ty = .num n ∧ (parseMsg msg).payload.length = n := by
  obtain ⟨r', n, hreach, hty, hlen⟩ := h.at_
  obtain rfl : r' = r := Option.some_inj.mp (hreach.row.symm.trans hrow)
  exact ⟨hreach, n, hty, hlen⟩

theorem ObjectReaches.row (h : ObjectReaches s who msg index sub) (hrow : rowOf index sub = some r) :
    WriteReaches s who msg index sub r ∧ ∃ max, r.ty = .dom max ∧ (parseMsg msg).payload.length ≤ max := by
  obtain ⟨r', n, hreach, hty, hlen⟩ := h.at_
  obtain rfl : r' = r := Option.some_inj.mp (hreach.row.symm.trans hrow)
  exact ⟨hreach, n, hty, hlen⟩

theorem ScalarReaches.arrives (h : ScalarReaches s who msg index sub) :
    RequestArrives s who msg ∧ s.isLive = true ∧ (parseMsg msg).op = 2 ∧ (parseMsg msg).index = index ∧ (parseMsg msg).sub = sub := by
  obtain ⟨r, n, hreach, _⟩ := h.at_
  exact ⟨hreach.arrives, hreach.live, hreach.write⟩

theorem ObjectReaches.arrives (h : ObjectReaches s who msg index sub) :
    RequestArrives s who msg ∧ s.isLive = true ∧ (parseMsg msg).op = 2 ∧ (parseMsg msg).index = index ∧ (parseMsg msg).sub = sub := by
  obtain ⟨r, n, hreach, _⟩ := h.at_
  exact ⟨hreach.arrives, hreach.live, hreach.write⟩

/-- A write that reaches a scalar goes to the rule of its row. -/
theorem ScalarReaches.writeMsg (h : ScalarReaches s who msg index sub) (hrow : rowOf index sub = some r) :
    (counted s who).writeMsg who (parseMsg msg) = (counted s who).writeNum who r (sub - r.lo) (msgValue msg) := by
  obtain ⟨hreach, n, hty, hlen⟩ := h.row hrow
  obtain ⟨hop, hindex, hsub⟩ := hreach.write
  have hnum := State.writeMsg_num (s := counted s who) (who := who) (m := parseMsg msg) (r := r) (n := n) (by rw [hsub]; exact hreach.named)
    (by rw [hindex, hsub]; exact hrow) (by rw [counted_mode, hsub]; exact hreach.present) hreach.writable
    (by rw [counted_mode, hsub]; exact hreach.allowed) hty hlen (by rw [counted_rwsFree, hsub]; exact hreach.free)
  rw [hnum, hsub]
  rfl

/-- A write that reaches an object, whole, goes to the rule of its row. -/
theorem ObjectReaches.writeMsg (h : ObjectReaches s who msg index sub) (hrow : rowOf index sub = some r) (hindex : r.index ≠ 0x1810) :
    (counted s who).writeMsg who (parseMsg msg) =
      ((counted s who).updRequester who (fun q => { q with staging := none })).writeObject who r (sub - r.lo) (parseMsg msg).payload := by
  obtain ⟨hreach, max, hty, hlen⟩ := h.row hrow
  obtain ⟨hop, hat, hsub⟩ := hreach.write
  have hdom := State.writeMsg_dom (s := counted s who) (who := who) (m := parseMsg msg) (r := r) (max := max) (by rw [hsub]; exact hreach.named)
    (by rw [hat, hsub]; exact hrow) (by rw [counted_mode, hsub]; exact hreach.present) hreach.writable
    (by rw [counted_mode, hsub]; exact hreach.allowed) hty (by rw [State.objectMax, if_neg hindex]; exact hlen) h.whole.1 h.whole.2
    (by rw [counted_rwsFree, hsub]; exact hreach.free)
  rw [hdom, hsub]

end Reaches

/-! ## The rows that ask for a write -/

/-- `cmd` performs each write of subindexes `lo` to `lo + n - 1` of an index. -/
def Asks (cmd : Requester → List Byte → Instr) (index lo n : Nat) : Prop :=
  ∀ (s : State) (who : Requester) (msg : List Byte) (i : Nat), i < n → RequestArrives s who msg → (parseMsg msg).op = 2 →
    (parseMsg msg).index = index → (parseMsg msg).sub = lo + i → exec (cmd who msg) s = .next ((counted s who).performWrite who (parseMsg msg))

section Asks

variable {cmd : Requester → List Byte → Instr} {index lo n hi : Nat}

theorem asks_dictWrite (index lo n : Nat) : Asks (fun who msg => .dictWrite ⟨who, .own⟩ msg) index lo n := by
  intro s who msg i hi harrives hop hindex hsub
  rw [exec_dictWrite_own, harrives.takes_write (by simp [hop]) hop]

theorem isWrite_of {m : DictMsg} {sub : Nat} (hop : m.op = 2) (hindex : m.index = index) (hsub : m.sub = sub) (hlo : lo ≤ sub) (hhi : sub ≤ hi) :
    isWrite index lo hi m = true := by
  simp [isWrite, hop, hindex, hsub, hlo, hhi]

theorem asks_of_isWrite (hcmd : ∀ s who msg, exec (cmd who msg) s = .next (s.request who msg (isWrite index lo hi))) (hhi : lo + n ≤ hi + 1) :
    Asks cmd index lo n := by
  intro s who msg i hi harrives hop hindex hsub
  rw [hcmd, harrives.takes_write (isWrite_of hop hindex hsub (by omega) (by omega)) hop]

end Asks

/-! ## Scalars -/

/-- A condition on the part that holds whatever the number of requests counted. -/
def OfPart (ok : State → Requester → Nat → Nat → Prop) : Prop :=
  ∀ s who i v k, ok s who i v → ok { s with dict := { s.dict with requests := k } } who i v

section Scalars

variable {cmd : Requester → List Byte → Instr} {index lo n hi : Nat} {r : Row} {ok : State → Requester → Nat → Nat → Prop}
  {eff : State → Nat → Nat → State}

theorem OfPart.counted (h : OfPart ok) {s : State} {who : Requester} {i v : Nat} (hok : ok s who i v) : ok (counted s who) who i v := by
  obtain ⟨k, hk⟩ := counted_eq s who
  rw [hk]
  exact h s who i v k hok

/-- A scalar takes a value where its row's rule answers with the effect. -/
theorem scalarTakes_of (hasks : Asks cmd index lo n) (hrow : ∀ i < n, rowOf index (lo + i) = some r) (hlo : r.lo = lo) (hpart : OfPart ok)
    (hwrite : ∀ s who i v, i < n → ok s who i v → s.writeNum who r i v = .ok (eff s i v)) : ScalarTakes cmd index lo n ok eff := by
  intro s who msg i hi hreach hok
  obtain ⟨harrives, hlive, hop, hindex, hsub⟩ := hreach.arrives
  have hi' : lo + i - r.lo = i := by omega
  have hnum := hreach.writeMsg (hrow i hi)
  rw [hi', hwrite _ who i _ hi (hpart.counted hok)] at hnum
  rw [hasks s who msg i hi harrives hop hindex hsub, State.performWrite_ok (by rw [counted_isLive]; exact hlive) hnum]
  rfl

/-- A write of a scalar that its row's rule refuses changes nothing. -/
theorem ScalarReaches.refused {s : State} {who : Requester} {msg : List Byte} {i c : Nat} (hasks : Asks cmd index lo n) (hi : i < n)
    (hreach : ScalarReaches s who msg index (lo + i)) (hrow : rowOf index (lo + i) = some r)
    (hwrite : (counted s who).writeNum who r (lo + i - r.lo) (msgValue msg) = .no c) :
    exec (cmd who msg) s = .next (answeredWith (counted s who) who msg c []) := by
  obtain ⟨harrives, hlive, hop, hindex, hsub⟩ := hreach.arrives
  obtain ⟨-, n, hty, -⟩ := hreach.row hrow
  rw [hasks s who msg i hi harrives hop hindex hsub,
    State.performWrite_no (by rw [counted_isLive]; exact hlive) ((hreach.writeMsg hrow).trans hwrite),
    State.dropStaging_of_num (by rw [hindex, hsub]; exact hrow) hty]
  rfl

theorem wr_check_of {b : Bool} {c : Nat} {w : Wr} (h : b = true) : Wr.check b c w = w := if_pos h

end Scalars

/-! ## The rules of the scalars that R381 lists first -/

section Rules

variable {s : State} {who : Requester} {p v : Nat}

theorem State.writeAccept0_of (hout : (s.part p).out = false) (hoff : s.queueOn p = false) (hoffer : v &&& offer0 s.mode = v) :
    s.writeAccept0 p v = .ok (s.updPart p (fun t => { t with accept0 := v, accepted := true })) :=
  (if_neg (by rw [hout, hoff]; decide)).trans (if_neg (not_not_intro hoffer))

theorem State.writeInterleave_of (hv : v ≤ 1) (hslot : s.slotOpen p = false) (hen : (s.part p).srvEn = false)
    (husable : v = 1 → ∀ k ∈ partStacks s.mode p, (s.mem.stack k).usable ≠ 0) :
    s.writeInterleave p v = .ok (s.updPart p (fun t => { t with interleave := v })) := by
  refine (if_neg (by omega)).trans (if_neg ?_)
  rw [hslot, hen]
  simpa using husable

theorem State.writePortCtl_on (hres : fld v 7 2 = 0) (hen : v.testBit 0 = true) :
    s.writePortCtl p v = .ok ((s.updPort p (fun k => { k with en := true, dateline := v.testBit 1 })).updPort p (fun k =>
      if k.state == .disabled then { k with state := .down } else k)) := by
  refine (if_neg (not_not_intro hres)).trans ?_
  rw [hen]
  rfl

theorem State.writePortCtl_off (hres : fld v 7 2 = 0) (hen : v.testBit 0 = false) :
    s.writePortCtl p v =
      .ok ((((s.updPort p (fun k => { k with en := false, dateline := v.testBit 1 })).portLost p .disabled).losePortTests p).freedFrom s) := by
  refine (if_neg (not_not_intro hres)).trans ?_
  rw [hen]
  rfl

theorem State.writeBreak_of (hmay : s.breakAllowed who v = true) (hres : fld v 51 48 = 0) (hcommand : v.testBit 62 = true → fld v 47 32 = 0)
    (hpart : fld v 53 52 < nParts s.mode) (n : Nat) :
    s.writeBreak who n v = .ok ((s.setDictVal 0x1D00 (n + 1) v).setDictVal 0x1D00 9
      (if (s.dictVal 0x1D00 9 0).testBit n then s.dictVal 0x1D00 9 0 - 2 ^ n else s.dictVal 0x1D00 9 0)) := by
  refine (if_neg (by rw [hmay]; decide)).trans (if_neg (fun h => ?_))
  obtain h | ⟨hbit, h⟩ | h := h
  · exact h hres
  · exact h (hcommand hbit)
  · omega

end Rules

end Sys2Proof.Machine

namespace Sys2Proof.Proofs

open Sys2Proof.Machine

/-- A WRITE before the part is live, of no entry, and of one that is read-only. -/
theorem write_refused {s : State} {who : Requester} {msg : List Byte} (h : RequestArrives s who msg) (hop : (parseMsg msg).op = 2) :
    (s.isLive = false → exec (.dictWrite ⟨who, .own⟩ msg) s = .next (answeredWith (counted s who) who msg rNOT_LIVE [])) ∧
    (s.isLive = true → (parseMsg msg).sub ≠ 0 → rowOf (parseMsg msg).index (parseMsg msg).sub = none →
      exec (.dictWrite ⟨who, .own⟩ msg) s = .next (answeredWith (counted s who) who msg rNO_ENTRY [])) ∧
    (∀ r, s.isLive = true → (parseMsg msg).sub ≠ 0 → rowOf (parseMsg msg).index (parseMsg msg).sub = some r → r.acc = .ro ∨ r.acc = .const →
      r.missing s.mode ((parseMsg msg).sub - r.lo) = false →
      exec (.dictWrite ⟨who, .own⟩ msg) s = .next (answeredWith (counted s who) who msg rACCESS [])) := by
  rw [exec_dictWrite_own, h.takes_write (by simp [hop]) hop]
  refine ⟨fun hlive => ?_, fun hlive hsub hrow => ?_, fun r hlive hsub hrow hacc hpresent => ?_⟩
  · rw [State.performWrite_of_notLive (by rw [counted_isLive]; exact hlive)]
    rfl
  · rw [State.performWrite_no (by rw [counted_isLive]; exact hlive) (State.writeMsg_noRow hsub hrow), State.dropStaging_of_barred (.inl rfl)]
    rfl
  · rw [State.performWrite_no (by rw [counted_isLive]; exact hlive)
      (State.writeMsg_readOnly hsub hrow (by rw [counted_mode]; exact hpresent) hacc), State.dropStaging_of_barred (.inr (.inl rfl))]
    rfl

/-- Settles O54: a write that reaches its entry goes to the rule of the entry's row, and each rule's conditions are those the statement names. -/
theorem writesAreRefusedOrTaken : Obligations.WritesAreRefusedOrTaken := by
  unfold Obligations.WritesAreRefusedOrTaken
  refine ⟨⟨fun s who msg h hop => (write_refused h hop).1, fun s who msg h hop => (write_refused h hop).2.1,
    fun s who msg r h hop => (write_refused h hop).2.2 r, ?_, ?_⟩,
    ?_, ?_, ?_, ?_, ?_, ?_, ?_, ?_, ?_, ?_⟩
  · exact scalarTakes_of (r := ⟨0x1211, 1, 4, .num 1, .rws, .partKept⟩) (asks_dictWrite _ _ _) (by decide) rfl (fun _ _ _ _ _ h => h)
      (fun s who i v _ hv => wr_check_of (decide_eq_true hv))
  · exact scalarTakes_of (r := ⟨0x1220, 1, 4, .num 1, .rws, .partKept⟩) (asks_dictWrite _ _ _) (by decide) rfl (fun _ _ _ _ _ h => h)
      (fun s who i v _ hv => wr_check_of (decide_eq_true hv))
  · exact scalarTakes_of (r := ⟨0x1101, 1, 4, .num 4, .rw, .part⟩) (asks_of_isWrite (fun _ _ _ => rfl) (by decide)) (by decide) rfl
      (fun _ _ _ _ _ h => h) (fun s who p v _ ⟨hout, hoff, hoffer⟩ => State.writeAccept0_of hout hoff hoffer)
  · exact scalarTakes_of (r := ⟨0x1210, 1, 4, .num 1, .rws, .partKept⟩) (asks_of_isWrite (fun _ _ _ => rfl) (by decide)) (by decide) rfl
      (fun _ _ _ _ _ h => h) (fun s who p v _ ⟨hv, hslot, hen, husable⟩ => State.writeInterleave_of hv hslot hen husable)
  · exact scalarTakes_of (r := ⟨0x1300, 1, 1, .num 2, .rw, .whole⟩) (asks_of_isWrite (fun _ _ _ => rfl) (by decide)) (by decide) rfl
      (fun _ _ _ _ _ h => h) (fun s who i v _ hv => wr_check_of (by simpa using hv))
  · exact scalarTakes_of (r := ⟨0x1401, 2, 1, .num 1, .wo, .whole⟩) (asks_of_isWrite (fun _ _ _ => rfl) (by decide)) (by decide) rfl
      (fun _ _ _ _ _ h => h) (fun s who i v _ hv => wr_check_of (beq_iff_eq.mpr hv))
  · exact scalarTakes_of (r := ⟨0x1510, 0x11, 1, .num 2, .wo, .whole⟩) (asks_of_isWrite (fun _ _ _ => rfl) (by decide)) (by decide) rfl
      (fun _ _ _ _ _ h => h) (fun _ _ _ _ _ _ => rfl)
  · exact scalarTakes_of (r := ⟨0x1610, 9, 8, .num 1, .rw, .port⟩) (asks_of_isWrite (fun _ _ _ => rfl) (by decide)) (by decide) rfl
      (fun _ _ _ _ _ h => h) (fun s who q v _ ⟨hres, hen⟩ => State.writePortCtl_on hres hen)
  · exact scalarTakes_of (r := ⟨0x1610, 9, 8, .num 1, .rw, .port⟩) (asks_of_isWrite (fun _ _ _ => rfl) (by decide)) (by decide) rfl
      (fun _ _ _ _ _ h => h) (fun s who q v _ ⟨hres, hen⟩ => State.writePortCtl_off hres hen)
  · exact scalarTakes_of (r := ⟨0x1900, 6, 1, .num 1, .wo, .whole⟩) (asks_of_isWrite (fun _ _ _ => rfl) (by decide)) (by decide) rfl
      (fun _ _ _ _ _ h => h) (fun s who i v _ hv => wr_check_of (beq_iff_eq.mpr hv))
  · exact scalarTakes_of (r := ⟨0x1800, 3, 1, .num 1, .rw, .whole⟩) (asks_of_isWrite (fun _ _ _ => rfl) (by decide)) (by decide) rfl
      (fun _ _ _ _ _ h => h) (fun _ _ _ _ _ _ => rfl)
  · exact scalarTakes_of (r := ⟨0x1D00, 1, 8, .num 8, .rw, .whole⟩) (asks_of_isWrite (fun _ _ _ => rfl) (by decide)) (by decide) rfl
      (fun _ _ _ _ _ h => h)
      (fun s who n v _ ⟨hmay, hres, hcommand, hpart⟩ => State.writeBreak_of hmay hres hcommand hpart n)

end Sys2Proof.Proofs
end

section
/-! PROOFS. Stored entries and their wait for flash (R26, R31, R33, R318, R336, R433). -/

namespace Sys2Proof.Machine

/-! ## Writes that wait for flash -/

section Stored

variable {cmd : Requester → List Byte → Instr} {index lo n : Nat} {r : Row} {ok : State → Requester → Nat → Nat → Prop}
  {eff : State → Nat → Nat → State} {old : State → Nat → Nat} {grade : State → Nat → Option (Nat × Nat)}

/-- A write that reaches a stored entry, whose row's rule answers that `t` waits for flash. -/
theorem ScalarReaches.stored {s t : State} {who : Requester} {msg : List Byte} {i b : Nat} {g : Option (Nat × Nat)} (hasks : Asks cmd index lo n)
    (hi : i < n) (hreach : ScalarReaches s who msg index (lo + i)) (hrow : rowOf index (lo + i) = some r)
    (hwrite : (counted s who).writeNum who r (lo + i - r.lo) (msgValue msg) = .stored t b g) :
    exec (cmd who msg) s = .next { t.sealBase with dict := { t.dict with
      flash := some { who := who, seq := (parseMsg msg).seq, answer := dictReply (parseMsg msg) rOK [], key := 256 * index + (lo + i), old := b
                      grade := g } } } := by
  obtain ⟨harrives, hlive, hop, hindex, hsub⟩ := hreach.arrives
  rw [hasks s who msg i hi harrives hop hindex hsub,
    State.performWrite_stored (by rw [counted_isLive]; exact hlive) ((hreach.writeMsg hrow).trans hwrite), hindex, hsub]

/-- A stored entry takes a value where its row's rule answers with the effect and the value before. -/
theorem storedTakes_of (hasks : Asks cmd index lo n) (hrow : ∀ i < n, rowOf index (lo + i) = some r) (hlo : r.lo = lo) (hpart : OfPart ok)
    (hold : ∀ s k i v, old { s with dict := { s.dict with requests := k } } i = old s i ∧
      grade { s with dict := { s.dict with requests := k } } v = grade s v)
    (hwrite : ∀ s who i v, i < n → ok s who i v → s.writeNum who r i v = .stored (eff s i v) (old s i) (grade s v)) :
    StoredTakes cmd index lo n ok eff old grade := by
  intro s who msg i hi hreach hok
  have hw := hwrite _ who i _ hi (hpart.counted hok)
  have hsame : old (counted s who) i = old s i ∧ grade (counted s who) (msgValue msg) = grade s (msgValue msg) := by
    obtain ⟨k, hk⟩ := counted_eq s who
    rw [hk]
    exact hold s k i (msgValue msg)
  rw [hsame.1, hsame.2] at hw
  exact ⟨_, hreach.stored hasks hi (hrow i hi) (by rw [show lo + i - r.lo = i by omega]; exact hw), rfl⟩

end Stored

/-! ## The rules of the stored entries -/

section Rules

variable {s : State} {v : Nat}

theorem State.writeMode_of (hv : v ≤ 2) (hfits : nodeFits v s.nv.node = true) (hroom : s.cairnFree ≠ 0) :
    s.writeMode v = .stored { s with nv := { s.nv with mode := v } } s.nv.mode none := by
  refine (if_neg (fun h => ?_)).trans (if_neg hroom)
  rw [hfits] at h
  simp at h
  omega

theorem State.writeNode_of (hres : fld v 15 13 = 0) (hfits : nodeFits s.mode v = true) (hnext : nodeFits s.nv.mode v = true) :
    s.writeNode v = .stored { ((List.range 8).foldl (fun s q => if (s.port q).state == .disabled then s else s.portLost q .down) s).freedFrom s with
      nv := { s.nv with node := v } } s.nv.node none :=
  if_neg (by rw [hres, hfits, hnext]; decide)

theorem State.writeRole_of (hv : v < 2 ^ (2 * nParts s.mode))
    (hroot : ∀ p, p < nParts s.mode → fld v (2 * p + 1) (2 * p) = 3 → (s.part p).srvEn = false) :
    s.writeRole v = .stored { s with nv := { s.nv with role := v }, dict := { s.dict with defaults := Table.del s.dict.defaults 0x160002 } }
      s.nv.role none := by
  refine (if_neg (not_not_intro (Nat.div_eq_of_lt hv))).trans (if_neg ?_)
  simpa using hroot

theorem State.writeGrade_of (hv : v = 0x0C ∨ v = 0x0A ∨ v = 0x08) (hlower : v < s.nv.nextGrade) (hroom : s.cairnFree ≠ 0) :
    s.writeGrade v = .stored { s with nv := { s.nv with nextGrade := v } } s.nv.nextGrade (some (s.nv.nextGrade, v)) :=
  (if_neg (by omega)).trans ((if_neg (by omega)).trans (if_neg hroom))

/-- The channels that a MAPOUT asks for, of those not mapped out already. -/
def mapoutWants (applied v : Nat) : Nat :=
  (List.range 32).foldl (fun a c => if v.testBit c && !applied.testBit c then a + 2 ^ c else a) 0

theorem testBit_mapoutWants (applied v c : Nat) :
    (mapoutWants applied v).testBit c = (decide (c < 32) && (v.testBit c && !applied.testBit c)) := by
  have h := testBit_foldl_twoPow (fun c => v.testBit c && !applied.testBit c) 32 c
  rwa [List.foldl_filter] at h

/-- The channels asked for and those mapped out already are the channels of both. -/
theorem mapoutWants_or {applied : Nat} (h : applied < 2 ^ 32) (v : Nat) : mapoutWants applied v ||| applied = applied ||| v % 2 ^ 32 := by
  refine Nat.eq_of_testBit_eq (fun c => ?_)
  rw [Nat.testBit_or, Nat.testBit_or, testBit_mapoutWants, Nat.testBit_mod_two_pow]
  by_cases hc : c < 32
  · cases applied.testBit c <;> cases v.testBit c <;> simp [hc]
  · have hoff : applied.testBit c = false :=
      Nat.testBit_lt_two_pow (Nat.lt_of_lt_of_le h (Nat.pow_le_pow_right (by decide) (Nat.le_of_not_lt hc)))
    simp [hc, hoff]

theorem State.writeMapout_of {k : Nat} (happlied : (s.mem.stack k).applied < 2 ^ 32) (hleft : (s.mem.stack k).applied ||| v % 2 ^ 32 ≠ 2 ^ 32 - 1) :
    s.writeMapout k v = .stored { s with mem := s.mem.setStack k { s.mem.stack k with pending := mapoutWants (s.mem.stack k).applied v } }
      (s.mem.stack k).pending none :=
  if_neg (by rw [← mapoutWants_or happlied] at hleft; exact hleft)

end Rules

/-! ## The flash (R33, R433) -/

section Flash

variable {s : State}

theorem State.cairn_dict (s : State) (type : Nat) (payload : List Byte) : (s.cairn type payload).dict = s.dict := by
  unfold State.cairn
  split <;> rfl

theorem State.sendResp_dict (s : State) (who : Requester) (resp : List Byte) : (s.sendResp who resp).dict = s.dict := by
  cases who with
  | port a u => rfl
  | mailbox fn =>
    obtain ⟨o, ho⟩ := (s.emit (.dict (.mailbox fn) (fit 0 (4 * ((resp.length + 3) / 4)) resp))).irq_eq fn 3
    rw [State.sendResp, ho]
    rfl

theorem State.answer_queue (s : State) (who : Requester) (seq : Nat) (resp : List Byte) : (s.answer who seq resp).dict.queue = s.dict.queue := by
  rw [State.answer, State.sendResp_dict]

/-- The part with the record of a change of grade, where the entry was one. -/
def State.gradeRecord (s : State) (grade : Option (Nat × Nat)) : State :=
  match grade with
  | some (a, b) => s.cairn 0x0A (leBytes 1 a ++ leBytes 1 b)
  | none => s

theorem State.gradeRecord_dict (s : State) (grade : Option (Nat × Nat)) : (s.gradeRecord grade).dict = s.dict := by
  cases grade with
  | none => rfl
  | some g => exact s.cairn_dict _ _

/-- Once flash holds an entry the write is answered; with nothing else waiting no more is done. -/
theorem exec_storedEntryCommit {w : StoredWrite} (hflash : s.dict.flash = some w) (hon : s.dictOn = true) (hqueue : s.dict.queue = []) :
    exec .storedEntryCommit s =
      .next (({ s.gradeRecord w.grade with dict := { s.dict with flash := none } } : State).answer w.who w.seq w.answer) := by
  have hexec : exec .storedEntryCommit s = execStoredEntryCommit s := rfl
  have hnext : exec .storedEntryCommit s = .next
      (State.drainQueue (({ s.gradeRecord w.grade with dict := { (s.gradeRecord w.grade).dict with flash := none } } : State).answer
        w.who w.seq w.answer).dict.queue.length
        (({ s.gradeRecord w.grade with dict := { (s.gradeRecord w.grade).dict with flash := none } } : State).answer w.who w.seq w.answer)) := by
    rw [hexec, execStoredEntryCommit, hflash]
    exact if_neg (by rw [hon]; decide)
  rw [hnext, State.answer_queue, s.gradeRecord_dict]
  dsimp only
  rw [hqueue]
  rfl

end Flash

end Sys2Proof.Machine

namespace Sys2Proof.Proofs

open Sys2Proof.Machine

/-- MAPOUT of a stack asks for the channels named and not applied, and waits for flash. -/
theorem mapout_waits {s : State} {who : Requester} {msg : List Byte} {k : Nat} (hk : k < 16) (hreach : ScalarReaches s who msg 0x1530 (1 + k))
    (hleft : (s.mem.stack k).applied ||| msgValue msg % 2 ^ 32 ≠ 2 ^ 32 - 1) (happlied : (s.mem.stack k).applied < 2 ^ 32) :
    ∃ t, exec (.mapout who msg) s = .next t ∧ (∀ c, c < 32 → (t.mem.stack k).pending.testBit c =
      ((msgValue msg).testBit c && !(s.mem.stack k).applied.testBit c)) ∧ (t.mem.stack k).applied = (s.mem.stack k).applied ∧
      t.dict.flash.map (fun w => w.old) = some (s.mem.stack k).pending ∧ t.out = s.out := by
  have hmem : (counted s who).mem = s.mem ∧ (counted s who).out = s.out := by
    obtain ⟨j, hj⟩ := counted_eq s who
    rw [hj]
    exact ⟨rfl, rfl⟩
  have hwrite := State.writeMapout_of (s := counted s who) (k := k) (v := msgValue msg) (by rw [hmem.1]; exact happlied) (by rw [hmem.1]; exact hleft)
  have hrow : ∀ k < 16, rowOf 0x1530 (1 + k) = some ⟨0x1530, 1, 16, .num 8, .rw, .stack⟩ := by decide
  have hrule : (counted s who).writeNum who ⟨0x1530, 1, 16, .num 8, .rw, .stack⟩ (1 + k - 1) (msgValue msg) =
      (counted s who).writeMapout k (msgValue msg) := by
    rw [show 1 + k - 1 = k by omega]
    rfl
  rw [hmem.1] at hwrite
  have hstack := MemSys.stack_setStack_same s.mem k { s.mem.stack k with pending := mapoutWants (s.mem.stack k).applied (msgValue msg) }
  refine ⟨_, hreach.stored (asks_of_isWrite (n := 16) (hi := 16) (fun _ _ _ => rfl) (by decide)) hk (hrow k hk) (hrule.trans hwrite),
    fun c hc => ?_, ?_, rfl, hmem.2⟩
  · refine (congrArg (fun st : Stack => st.pending.testBit c) hstack).trans ?_
    rw [testBit_mapoutWants, decide_eq_true hc, Bool.true_and]
  · exact (congrArg Stack.applied hstack :)

/-- Settles O55: each stored entry takes its value and waits for flash, and the answer leaves once flash holds it. -/
theorem storedEntriesWaitForFlash : Obligations.StoredEntriesWaitForFlash := by
  unfold Obligations.StoredEntriesWaitForFlash
  refine ⟨?_, ?_, ?_, ?_, fun s who msg k hk hreach hleft happlied => mapout_waits hk hreach hleft happlied, fun s w hflash hon hqueue => ?_⟩
  · exact storedTakes_of (r := ⟨0x1200, 1, 1, .num 1, .rw, .whole⟩) (asks_of_isWrite (fun _ _ _ => rfl) (by decide)) (by decide) rfl
      (fun _ _ _ _ _ h => h) (fun _ _ _ _ => ⟨rfl, rfl⟩) (fun s who i v _ ⟨hv, hfits, hroom⟩ => State.writeMode_of hv hfits hroom)
  · exact storedTakes_of (r := ⟨0x1600, 1, 1, .num 2, .rws, .whole⟩) (asks_of_isWrite (fun _ _ _ => rfl) (by decide)) (by decide) rfl
      (fun _ _ _ _ _ h => h) (fun _ _ _ _ => ⟨rfl, rfl⟩) (fun s who i v _ ⟨hres, hfits, hnext⟩ => State.writeNode_of hres hfits hnext)
  · exact storedTakes_of (r := ⟨0x1600, 2, 1, .num 1, .rws, .whole⟩) (asks_of_isWrite (fun _ _ _ => rfl) (by decide)) (by decide) rfl
      (fun _ _ _ _ _ h => h) (fun _ _ _ _ => ⟨rfl, rfl⟩) (fun s who i v _ ⟨hv, hroot⟩ => State.writeRole_of hv hroot)
  · exact storedTakes_of (r := ⟨0x1310, 1, 1, .num 1, .rw, .whole⟩) (asks_of_isWrite (fun _ _ _ => rfl) (by decide)) (by decide) rfl
      (fun _ _ _ _ _ h => h) (fun _ _ _ _ => ⟨rfl, rfl⟩) (fun s who i v _ ⟨hv, hlower, hroom⟩ => State.writeGrade_of hv hlower hroom)
  · rw [exec_storedEntryCommit hflash hon hqueue]
    rfl

end Sys2Proof.Proofs
end

section
/-! PROOFS. Objects, firmware and the security floor (R307, R331, R417 to R419, R427, R429). -/

namespace Sys2Proof.Machine

/-- An answer leaves partitions, memory and the security controller alone. -/
theorem State.answer_frame (s : State) (who : Requester) (seq : Nat) (resp : List Byte) :
    (∀ q, (s.answer who seq resp).part q = s.part q) ∧ (s.answer who seq resp).mem = s.mem ∧ (s.answer who seq resp).sec = s.sec := by
  cases who with
  | port a u => exact ⟨fun _ => rfl, rfl, rfl⟩
  | mailbox fn =>
    obtain ⟨o, ho⟩ := (({ s with dict := { s.dict with lasts := renew s.dict.lasts (.mailbox fn) (seq, resp) } } : State).emit
      (.dict (.mailbox fn) (fit 0 (4 * ((resp.length + 3) / 4)) resp))).irq_eq fn 3
    rw [State.answer, State.sendResp, ho]
    exact ⟨fun _ => rfl, rfl, rfl⟩

/-! ## Writes of objects -/

section Objects

variable {cmd : Requester → List Byte → Instr} {index lo n : Nat} {r : Row} {s t : State} {who : Requester} {msg : List Byte} {i : Nat}

/-- The part in which a request is counted and nothing of the requester's is staged. -/
def unstaged (s : State) (who : Requester) : State := (counted s who).updRequester who (fun q => { q with staging := none })

theorem unstaged_eq (s : State) (who : Requester) : ∃ n reqs, unstaged s who = { s with dict := { s.dict with requests := n, reqs := reqs } } := by
  obtain ⟨n, hn⟩ := counted_eq s who
  unfold unstaged
  rw [hn]
  exact ⟨n, _, rfl⟩

/-- A write that reaches an object, whole, whose row's rule answers with `t`. -/
theorem ObjectReaches.taken (hasks : Asks cmd index lo n) (hi : i < n) (hreach : ObjectReaches s who msg index (lo + i))
    (hrow : rowOf index (lo + i) = some r) (hindex : r.index ≠ 0x1810)
    (hwrite : (unstaged s who).writeObject who r (lo + i - r.lo) (parseMsg msg).payload = .ok t) :
    exec (cmd who msg) s = .next (answeredWith t who msg rOK []) := by
  obtain ⟨harrives, hlive, hop, hat, hsub⟩ := hreach.arrives
  rw [hasks s who msg i hi harrives hop hat hsub,
    State.performWrite_ok (by rw [counted_isLive]; exact hlive) ((hreach.writeMsg hrow hindex).trans hwrite)]
  rfl

/-- An object takes its bytes where its row's rule answers with the effect. -/
theorem objectTakes_of {ok : State → Requester → Nat → List Byte → Prop} {eff : State → Requester → Nat → List Byte → State}
    (hasks : Asks cmd index lo n) (hrow : ∀ i < n, rowOf index (lo + i) = some r) (hlo : r.lo = lo) (hindex : r.index ≠ 0x1810)
    (hpart : ∀ s who i bs k reqs, ok s who i bs → ok { s with dict := { s.dict with requests := k, reqs := reqs } } who i bs)
    (hwrite : ∀ s who i bs, i < n → ok s who i bs → s.writeObject who r i bs = .ok (eff s who i bs)) : ObjectTakes cmd index lo n ok eff := by
  intro s who msg i hi hreach hok
  have hw := hwrite (unstaged s who) who i (parseMsg msg).payload hi (by
    obtain ⟨k, reqs, hk⟩ := unstaged_eq s who
    rw [hk]
    exact hpart s who i _ k reqs hok)
  exact hreach.taken hasks hi (hrow i hi) hindex (by rw [show lo + i - r.lo = i by omega]; exact hw)

end Objects

/-! ## The rules of the objects -/

section Rules

variable {s : State} {who : Requester} {p v : Nat} {bs : List Byte}

theorem zip_range_eq (l : List Nat) : (List.range l.length).zip l = (List.range l.length).map (fun m => (m, l.getD m 0)) := by
  refine List.ext_getElem (by simp) (fun m h h' => ?_)
  have hm : m < l.length := by simpa using h'
  simp [hm]

/-- The table of the numbers of a list that are not 0. -/
def nonzeros (l : List Nat) : Table Nat := ((List.range l.length).zip l).filter (fun v => v.2 != 0)

theorem Table.get_nonzeros (l : List Nat) (m : Nat) : Table.get 0 (nonzeros l) m = l.getD m 0 := by
  rw [nonzeros, zip_range_eq, Table.get_filter_map_range]
  by_cases hm : m < l.length
  · by_cases h0 : l.getD m 0 = 0
    · rw [if_neg (fun h => h.2 h0), h0]
    · rw [if_pos ⟨hm, h0⟩]
  · rw [if_neg (fun h => hm h.1), List.getD_eq_default _ _ (Nat.le_of_not_lt hm)]

/-- The part with the routes of partition `p` that an object gives. -/
def State.routed (s : State) (p : Nat) (bs : List Byte) : State :=
  (s.updPart p (fun q => { q with routes := nonzeros (objectNums 2 bs) })).setSize 0x1610 (p + 0x19) bs.length

theorem State.writeRoutes_of (h : ∀ v ∈ objectNums 2 bs, (v.testBit 15 = true → partOfPort s.mode (fld v 2 0) = p) ∧
      (v.testBit 7 = true → partOfPort s.mode (fld v 6 4) = p) ∧ v.testBit 3 = false ∧ fld v 14 8 = 0) :
    s.writeRoutes p bs = .ok (s.routed p bs) := by
  refine if_neg ?_
  rw [List.any_eq_true]
  rintro ⟨v, hv, hbad⟩
  obtain ⟨hone, htwo, hres, hhigh⟩ := h v hv
  simp only [hres, hhigh, Bool.or_eq_true, Bool.and_eq_true, bne_iff_ne, ne_eq, Bool.false_eq_true, or_false, not_true_eq_false] at hbad
  exact hbad.elim (fun hb => hb.2 (hone hb.1)) (fun hb => hb.2 (htwo hb.1))

theorem State.part_routed (s : State) (p : Nat) (bs : List Byte) (m : Nat) :
    Table.get 0 ((s.routed p bs).part p).routes m = (objectNums 2 bs).getD m 0 := by
  have hpart : (s.routed p bs).part p = { s.part p with routes := nonzeros (objectNums 2 bs) } := State.part_updPart s p (fun q =>
    { q with routes := nonzeros (objectNums 2 bs) })
  rw [hpart, Table.get_nonzeros]

theorem State.part_routed_ne (s : State) {p q : Nat} (bs : List Byte) (h : q ≠ p) : (s.routed p bs).part q = s.part q :=
  State.part_updPart_ne s (fun q => { q with routes := nonzeros (objectNums 2 bs) }) h

theorem State.writeChunk_first (h : s.dictVal 0x1B00 5 0 = 0) :
    s.writeChunk who bs = .ok { s with sec := { s.sec with fwOwner := some who, fwStage := bs } } := if_pos h

/-- A chunk within what is staged replaces its bytes, and no byte is open. -/
theorem State.writeChunk_within (howner : s.sec.fwOwner = some who) (hpos : 0 < s.dictVal 0x1B00 5 0)
    (hin : s.dictVal 0x1B00 5 0 ≤ s.sec.fwStage.length) :
    s.writeChunk who bs = .ok { s with
      mem := { s.mem with fresh := s.mem.fresh + 1 }
      sec := { s.sec with fwStage := s.sec.fwStage.take (s.dictVal 0x1B00 5 0) ++ bs ++
        s.sec.fwStage.drop (s.dictVal 0x1B00 5 0 + bs.length) } } := by
  have hgap : (List.range (s.dictVal 0x1B00 5 0 - s.sec.fwStage.length)).map (Config.freeByte s.mem.fresh) = [] := by
    rw [Nat.sub_eq_zero_of_le hin]
    rfl
  refine (if_neg (by omega)).trans ((if_neg (not_not_intro howner)).trans ?_)
  dsimp only
  rw [hgap, List.append_nil]

theorem State.writeSanitise_of (hlen : bs.length = 40) (hslot : s.slotOpen p = false) (hen : (s.part p).srvEn = false)
    (hctx : (s.ctxs).any (fun x => (s.context p x).en) = false) (hroom : s.cairnFree ≠ 0)
    (htest : (s.part p).test.state ≠ 1 ∧ (s.part p).test.state ≠ 2)
    (hcal : (s.part p).cal.state ≠ 1 ∧ (s.part p).cal.state ≠ 2) (hbusy : s.sanitising p = false) :
    s.writeSanitise p bs = .ok (s.updPart p (fun t => { t with sanitise := { t.sanitise with
      state := 1, result := 0, pattern := fld (leNat bs) 63 0, nonce := fld (leNat bs) 319 64, begun := s.start.periods } })) := by
  refine (if_neg (not_not_intro hlen)).trans ((if_neg ?_).trans (if_neg ?_))
  · rw [hslot, hen, hctx]
    simpa using hroom
  · simp [htest.1, htest.2, hcal.1, hcal.2, hbusy]

theorem State.writeRemap_of (h : ((List.range 512).zip (objectNums 8 (fit 0 4096 bs))).all (fun v => (s.mem.stack p).remapOk v.1 v.2) = true) :
    s.writeRemap p bs = .ok (((s.withMem { s.mem.setStack p (((List.range 512).zip (objectNums 8 (fit 0 4096 bs))).foldl (fun st v =>
       if v.2.testBit 63 && !(Table.get {} st.remap v.1).valid then
         st.installAt ⟨s.mem.fresh, s.start.periods, s.threshold⟩ v.1 (fld v.2 29 0) else st) (s.mem.stack p)) with fresh := s.mem.fresh + 1 } 3).freedFrom s).setSize 0x1520 (p + 1) bs.length) := by
  unfold State.writeRemap
  dsimp only
  generalize (List.range 512).zip (objectNums 8 (fit 0 4096 bs)) = l at h ⊢
  exact if_neg (by rw [h]; decide)

/-! ## Firmware and the floor -/

theorem State.commitFirmware_of (howner : s.sec.fwOwner = some who) (hok : fwOk s.nv s.sec.fwStage = true) (hroom : s.cairnFree ≠ 0) :
    s.commitFirmware who 1 = .ok (({ s with nv := { s.nv with
      fw0 := if 1 - s.nv.fwActive = 0 then s.sec.fwStage else s.nv.fw0, fw1 := if 1 - s.nv.fwActive = 0 then s.nv.fw1 else s.sec.fwStage
      fwActive := 1 - s.nv.fwActive } } : State).cairn 7 (leBytes 4 (fwVersion s.start.fw) ++ leBytes 4 (fwVersion s.sec.fwStage) ++
        leBytes 2 (fwSvn s.sec.fwStage) ++ List.replicate 6 0 ++ sha256 s.sec.fwStage)) := by
  unfold State.commitFirmware
  exact (if_neg (not_not_intro rfl)).trans ((if_neg (not_not_intro howner)).trans ((if_neg (by rw [hok]; decide)).trans (if_neg hroom)))

theorem State.commitFirmware_bad (howner : s.sec.fwOwner = some who) (hbad : fwOk s.nv s.sec.fwStage = false) :
    s.commitFirmware who 1 = .no rRANGE := by
  unfold State.commitFirmware
  exact (if_neg (not_not_intro rfl)).trans ((if_neg (not_not_intro howner)).trans (if_pos (by rw [hbad]; rfl)))

theorem State.writeFloor_of (hrise : s.nv.svnFloor < v) (hrun : v ≤ fwSvn s.start.fw) (hroom : s.cairnFree ≠ 0) :
    s.writeFloor v = .ok (({ s with nv := { s.nv with svnFloor := v } } : State).cairn 8 (leBytes 1 s.nv.svnFloor ++ leBytes 1 v)) :=
  (if_neg (by omega)).trans ((if_neg (by omega)).trans (if_neg hroom))

theorem State.writeFloor_below (h : v < s.nv.svnFloor) : s.writeFloor v = .no rRANGE := if_pos (.inl h)

end Rules

end Sys2Proof.Machine

namespace Sys2Proof.Proofs

open Sys2Proof.Machine

section

variable {s : State} {who : Requester} {msg : List Byte}

/-- ROUTES of a partition gives it the routes that the object holds, and nothing else a route. -/
theorem routes_taken {p : Nat} (hp : p < 4) (hreach : ObjectReaches s who msg 0x1610 (0x19 + p))
    (hok : ∀ v ∈ objectNums 2 (parseMsg msg).payload, (v.testBit 15 = true → partOfPort s.mode (fld v 2 0) = p) ∧
      (v.testBit 7 = true → partOfPort s.mode (fld v 6 4) = p) ∧ v.testBit 3 = false ∧ fld v 14 8 = 0) :
    ∃ t, exec (.routes who msg) s = .next t ∧ (∀ m, Table.get 0 (t.part p).routes m = (objectNums 2 (parseMsg msg).payload).getD m 0) ∧
      (∀ q, q ≠ p → t.part q = s.part q) ∧ t.mem = s.mem := by
  have hrow : ∀ p < 4, rowOf 0x1610 (0x19 + p) = some ⟨0x1610, 0x19, 4, .dom 16384, .rws, .part⟩ := by decide
  obtain ⟨k, reqs, hk⟩ := unstaged_eq s who
  have hrule : (unstaged s who).writeObject who ⟨0x1610, 0x19, 4, .dom 16384, .rws, .part⟩ (0x19 + p - 0x19) (parseMsg msg).payload =
      .ok ((unstaged s who).routed p (parseMsg msg).payload) := by
    rw [show 0x19 + p - 0x19 = p by omega]
    exact State.writeRoutes_of (by rw [hk]; exact hok)
  have hanswer := (((unstaged s who).routed p (parseMsg msg).payload).answer_frame who (parseMsg msg).seq (dictReply (parseMsg msg) rOK []))
  have hpart : ∀ q, (unstaged s who).part q = s.part q := by
    rw [hk]
    exact fun _ => rfl
  refine ⟨_, hreach.taken (asks_of_isWrite (n := 4) (fun _ _ _ => rfl) (by decide)) hp (hrow p hp) (by decide) hrule, fun m => ?_, fun q hq => ?_, ?_⟩
  · rw [answeredWith, hanswer.1]
    exact State.part_routed _ _ _ m
  · rw [answeredWith, hanswer.1, State.part_routed_ne _ _ hq, hpart]
  · rw [answeredWith, hanswer.2.1]
    exact (congrArg State.mem hk :)

/-- A later chunk of an image is placed in what is staged. -/
theorem fwChunk_taken (hreach : ObjectReaches s who msg 0x1B00 4) (howner : s.sec.fwOwner = some who) (hpos : 0 < s.dictVal 0x1B00 5 0)
    (hin : s.dictVal 0x1B00 5 0 ≤ s.sec.fwStage.length) :
    ∃ t, exec (.fwChunk who msg) s = .next t ∧ t.sec.fwOwner = some who ∧ t.sec.fwStage = s.sec.fwStage.take (s.dictVal 0x1B00 5 0) ++
      (parseMsg msg).payload ++ s.sec.fwStage.drop (s.dictVal 0x1B00 5 0 + (parseMsg msg).payload.length) := by
  obtain ⟨k, reqs, hk⟩ := unstaged_eq s who
  have hsec : (unstaged s who).sec = s.sec ∧ (unstaged s who).dictVal 0x1B00 5 0 = s.dictVal 0x1B00 5 0 := by
    rw [hk]
    exact ⟨rfl, rfl⟩
  have hrule := State.writeChunk_within (s := unstaged s who) (who := who) (bs := (parseMsg msg).payload) (by rw [hsec.1]; exact howner)
    (by rw [hsec.2]; exact hpos) (by rw [hsec.1, hsec.2]; exact hin)
  refine ⟨_, hreach.taken (i := 0) (asks_of_isWrite (n := 1) (hi := 4) (fun _ _ _ => rfl) (by decide)) (by decide)
    (r := ⟨0x1B00, 4, 1, .dom 65536, .wo, .whole⟩) (by decide) (by decide) hrule, ?_, ?_⟩
  · rw [answeredWith, (State.answer_frame _ who _ _).2.2]
    dsimp only
    rw [hsec.1, howner]
  · rw [answeredWith, (State.answer_frame _ who _ _).2.2]
    dsimp only
    rw [hsec.1, hsec.2]

end

/-- Settles O56: an object written whole goes to its row's rule, and the firmware's rules are refused or taken as they stand. -/
theorem objectsAndFirmwareAreApplied : Obligations.ObjectsAndFirmwareAreApplied := by
  unfold Obligations.ObjectsAndFirmwareAreApplied
  refine ⟨⟨fun s who msg p hp hreach hok => routes_taken hp hreach hok, ?_, ?_,
    fun s who msg hreach howner hpos hin => fwChunk_taken hreach howner hpos hin, ?_⟩, ?_, fun s who msg hreach hv howner hbad => ?_, ?_,
    fun s who msg hreach hv => ?_⟩
  · refine objectTakes_of (r := ⟨0x1520, 1, 16, .dom 4096, .rws, .stack⟩) (asks_of_isWrite (fun _ _ _ => rfl) (by decide)) (by decide) rfl (by decide)
      (fun _ _ _ _ _ _ h => h) (fun s who k bs _ hok => ?_)
    have hrule : s.writeObject who ⟨0x1520, 1, 16, .dom 4096, .rws, .stack⟩ k bs = s.writeRemap k bs := rfl
    rw [hrule, State.writeRemap_of hok]
  · exact objectTakes_of (r := ⟨0x1B00, 4, 1, .dom 65536, .wo, .whole⟩) (asks_of_isWrite (fun _ _ _ => rfl) (by decide)) (by decide) rfl (by decide)
      (fun _ _ _ _ _ _ h => h) (fun s who i bs _ hok => State.writeChunk_first hok)
  · exact objectTakes_of (r := ⟨0x1C10, 1, 4, .dom 40, .wo, .part⟩) (asks_of_isWrite (fun _ _ _ => rfl) (by decide)) (by decide) rfl (by decide)
      (fun _ _ _ _ _ _ h => h) (fun s who p bs _ ⟨hlen, hslot, hen, hctx, hroom, htest1, htest2, hcal1, hcal2, hbusy⟩ =>
        State.writeSanitise_of hlen hslot hen hctx hroom ⟨htest1, htest2⟩ ⟨hcal1, hcal2⟩ hbusy)
  · refine scalarTakes_of (r := ⟨0x1B00, 6, 1, .num 1, .wo, .whole⟩) (asks_of_isWrite (fun _ _ _ => rfl) (by decide)) (by decide) rfl
      (fun _ _ _ _ _ h => h) (fun s who i v _ ⟨hv, howner, hok, hroom⟩ => ?_)
    rw [hv]
    exact State.commitFirmware_of howner hok hroom
  · refine hreach.refused (r := ⟨0x1B00, 6, 1, .num 1, .wo, .whole⟩) (lo := 6) (i := 0) (n := 1)
      (asks_of_isWrite (hi := 6) (fun _ _ _ => rfl) (by decide)) (by decide) (by decide) ?_
    obtain ⟨k, hk⟩ := counted_eq s who
    rw [hk, hv]
    exact State.commitFirmware_bad howner hbad
  · exact scalarTakes_of (r := ⟨0x1B00, 3, 1, .num 1, .rw, .whole⟩) (asks_of_isWrite (fun _ _ _ => rfl) (by decide)) (by decide) rfl
      (fun _ _ _ _ _ h => h) (fun s who i v _ ⟨hrise, hrun, hroom⟩ => State.writeFloor_of hrise hrun hroom)
  · refine hreach.refused (r := ⟨0x1B00, 3, 1, .num 1, .rw, .whole⟩) (lo := 3) (i := 0) (n := 1)
      (asks_of_isWrite (hi := 3) (fun _ _ _ => rfl) (by decide)) (by decide) (by decide) ?_
    obtain ⟨k, hk⟩ := counted_eq s who
    rw [hk]
    exact State.writeFloor_below hv

end Sys2Proof.Proofs
end

section
/-! PROOFS. Self-test and calibration: requests, their start on a drained partition, and the ends of their pieces (R387, R388, R390 to R392). -/

namespace Sys2Proof.Machine

/-! ## Requests -/

section Requests

variable {s t : State} {who : Requester} {msg : List Byte} {p v item : Nat} {cal : Bool} {k : UnitKind}

/-- A write that reaches a scalar, whose row's rule answers with `t`. -/
theorem ScalarReaches.taken {mine : DictMsg → Bool} {index sub : Nat} {r : Row} (hreach : ScalarReaches s who msg index sub)
    (hmine : mine (parseMsg msg) = true) (hrow : rowOf index sub = some r)
    (hwrite : (counted s who).writeNum who r (sub - r.lo) (msgValue msg) = .ok t) :
    s.request who msg mine = answeredWith t who msg rOK [] := by
  obtain ⟨harrives, hlive, hop, -, -⟩ := hreach.arrives
  rw [harrives.takes_write hmine hop,
    State.performWrite_ok (by rw [counted_isLive]; exact hlive) ((hreach.writeMsg hrow).trans hwrite)]
  rfl

/-- The index of the requests for self-test or for calibration. -/
def testIndex (cal : Bool) : Nat := if cal then 0x1A10 else 0x1A00

theorem rowOf_test (cal : Bool) : ∀ p < 4, rowOf (testIndex cal) (1 + p) = some ⟨testIndex cal, 1, 4, .num 8, .rw, .part⟩ := by
  cases cal <;> decide

theorem State.writeNum_test (s : State) (who : Requester) (cal : Bool) (p v : Nat) :
    s.writeNum who ⟨testIndex cal, 1, 4, .num 8, .rw, .part⟩ (1 + p - 1) v = s.askTest p cal v := by
  rw [show 1 + p - 1 = p by omega]
  cases cal <;> rfl

theorem isItem_of {m : DictMsg} {index : Nat} (hop : m.op = 2) (hindex : m.index = index) (hp : p < 4) (hsub : m.sub = 1 + p)
    (hitem : (m.payload.headD 0).toNat = item) : isItem index item m = true := by
  rw [isItem, isWrite_of hop hindex hsub (by omega) (by omega), hitem, Bool.true_and]
  exact beq_self_eq_true item

theorem State.askTest_of (h : MayTest s p cal item v k) (hitem : item ≠ 0) :
    s.askTest p cal v = .ok ((s.updTu p cal (fun _ => { request := v, written := v, state := 1 })).startPiecesIdle p) := by
  obtain ⟨hnamed, hkind, ⟨hhigh, hlow⟩, ⟨hwaits, hruns, hbusy⟩, hunit, hdrained, hclosed⟩ := h
  have hslot : (!cal && tqItem v == 7 && s.slotOpen p) = false := by
    rw [hnamed]
    cases cal with
    | true => rfl
    | false =>
      by_cases h7 : item = 7
      · rw [hclosed rfl h7, Bool.and_false]
      · simp [h7]
  have hdrain : (itemDrainedOnly cal (tqItem v) && !tqDrained v) = false := by
    rw [hnamed]
    cases hd : itemDrainedOnly cal item with
    | false => rfl
    | true => rw [hdrained hd]; rfl
  unfold State.askTest
  dsimp only
  rw [if_neg (by omega), if_neg (by omega), if_neg (by simp [hwaits, hruns, hbusy]), hnamed, hkind]
  dsimp only
  rw [← hnamed, hunit, hdrain, hslot]
  rfl

theorem MayTest.counted (h : MayTest s p cal item v k) (who : Requester) : MayTest (counted s who) p cal item v k := by
  obtain ⟨j, hj⟩ := counted_eq s who
  rw [hj]
  exact ⟨h.named, h.kind, h.clear, h.idle, h.unit, h.drained, h.closed⟩

/-- A row that asks for an item of self-test or calibration: the request waits. -/
theorem testRequested_of {cmd : Requester → List Byte → Instr}
    (hcmd : ∀ s who msg, exec (cmd who msg) s = .next (s.request who msg (isItem (testIndex cal) item))) (hitem : item ≠ 0) :
    TestRequested cmd cal item := by
  intro s who msg p k hp hreach hmay hhead
  obtain ⟨-, -, hop, hindex, hsub⟩ := hreach.arrives
  exact (hcmd s who msg).trans (congrArg Host.Outcome.next (hreach.taken (isItem_of hop hindex hp hsub hhead) (rowOf_test cal p hp)
    ((State.writeNum_test _ _ _ _ _).trans (State.askTest_of (hmay.counted who) hitem))))

/-- ITEM 0 of a request that waits ends it with CANCELLED. -/
theorem State.askTest_cancel (hitem : tqItem v = 0) (hhigh : fld v 63 22 = 0) (hlow : fld v 15 9 = 0) (hwaits : (s.tu p cal).state = 1) :
    s.askTest p cal v =
      .ok ((s.updTu p cal (fun t => { t with state := 3, result := 2 })).updTu p cal (fun t => { t with written := v })) := by
  unfold State.askTest
  exact (if_neg (by omega)).trans ((if_pos hitem).trans (if_pos (.inl hwaits)))

/-- ITEM 0 of a request that is done only notes the value. -/
theorem State.askTest_done (hitem : tqItem v = 0) (hhigh : fld v 63 22 = 0) (hlow : fld v 15 9 = 0) (hdone : (s.tu p cal).state = 3) :
    s.askTest p cal v = .ok (s.updTu p cal (fun t => { t with written := v })) := by
  unfold State.askTest
  exact (if_neg (by omega)).trans ((if_pos hitem).trans ((if_neg (by rw [hdone]; simp)).trans (if_neg (by rw [hdone]; simp))))

theorem counted_tu (s : State) (who : Requester) (p : Nat) (cal : Bool) : (counted s who).tu p cal = s.tu p cal := by
  obtain ⟨j, hj⟩ := counted_eq s who
  rw [hj]
  rfl

/-- TEST_CANCEL is answered as `askTest` says of ITEM 0. -/
theorem ScalarReaches.testCancel (hp : p < 4) (hreach : ScalarReaches s who msg (testIndex cal) (1 + p))
    (hhead : ((parseMsg msg).payload.headD 0).toNat = 0) (hask : (counted s who).askTest p cal (msgValue msg) = .ok t) :
    exec (.testCancel who msg) s = .next (answeredWith t who msg rOK []) := by
  obtain ⟨-, -, hop, hindex, hsub⟩ := hreach.arrives
  have hmine : (isItem 0x1A00 0 (parseMsg msg) || isItem 0x1A10 0 (parseMsg msg)) = true := by
    have hitem := isItem_of hop hindex hp hsub hhead
    cases cal with
    | true => rw [show isItem 0x1A10 0 (parseMsg msg) = true from hitem, Bool.or_true]
    | false => rw [show isItem 0x1A00 0 (parseMsg msg) = true from hitem, Bool.true_or]
  exact congrArg Host.Outcome.next
    (hreach.taken (mine := fun m => isItem 0x1A00 0 m || isItem 0x1A10 0 m) hmine (rowOf_test cal p hp) ((State.writeNum_test _ _ _ _ _).trans hask))

end Requests

/-! ## A partition's units -/

section Units

variable {s : State} {p : Nat} {cal : Bool} {k : UnitKind} {u : Nat} {f : TestUnit → TestUnit}

theorem State.tu_updTu (s : State) (p : Nat) (cal : Bool) (f : TestUnit → TestUnit) : (s.updTu p cal f).tu p cal = f (s.tu p cal) := by
  rw [State.tu, State.updTu, State.part_updPart]
  cases cal <;> rfl

theorem State.holdUnit_frame (s : State) (k : UnitKind) (u : Nat) (on : Bool) :
    (∀ p, (s.holdUnit k u on).part p = s.part p) ∧ (s.holdUnit k u on).mem = s.mem ∧ (s.holdUnit k u on).out = s.out ∧
      (s.holdUnit k u on).start = s.start := by
  cases k <;> exact ⟨fun _ => rfl, rfl, rfl, rfl⟩

theorem State.tu_holdUnit (s : State) (k : UnitKind) (u : Nat) (on : Bool) (p : Nat) (cal : Bool) :
    (s.holdUnit k u on).tu p cal = s.tu p cal := by
  rw [State.tu, (s.holdUnit_frame k u on).1]
  rfl

theorem State.unitHeld_holdUnit (s : State) (hk : k = .core ∨ k = .stack) (u : Nat) (on : Bool) : (s.holdUnit k u on).unitHeld k u = on := by
  obtain rfl | rfl := hk
  · exact congrArg Core.testPiece (State.core_updCore s u _)
  · exact congrArg Engine.testPiece (State.engine_updEngine s u _)

end Units

/-! ## Requests of a drained partition (R391) -/

section Drained

variable {s : State} {p : Nat} {cal : Bool} {k : UnitKind}

/-- DRAINED_REQUEST_START of a waiting request whose partitions are drained and whose unit is free. -/
theorem exec_drainedRequestStart (hlive : s.isLive = true) (hp : p < nParts s.mode) (hwaits : (s.tu p cal).state = 1)
    (hdrained : tqDrained (s.tu p cal).request = true) (hkind : itemKind cal (tqItem (s.tu p cal).request) = some k)
    (hall : (s.drains p cal).all s.drained = true) (hfree : s.unitHeld k (tqUnit (s.tu p cal).request) = false) :
    exec (.drainedRequestStart p cal) s = (if s.unitGone k (tqUnit (s.tu p cal).request) then
        .next (s.updTu p cal (fun t => { t with state := 3, result := 3 }))
      else .next (((if k = .port then s.portLost (tqUnit (s.tu p cal).request) .down else s).updTu p cal
        (fun r => { r with state := 2, result := (s.tu p cal).result })).holdUnit k (tqUnit (s.tu p cal).request) true)) := by
  have hexec : exec (.drainedRequestStart p cal) s = execDrainedRequestStart p cal s := rfl
  rw [hexec, execDrainedRequestStart, hkind]
  refine if_neg ?_
  rw [hlive, decide_eq_false (by omega), hwaits, hdrained, hall, hfree]
  decide

end Drained

/-! ## Ends of pieces (R387, R388, R390, R392) -/

section Pieces

variable {s : State} {p : Nat} {k : UnitKind} {item u piece : Nat}

theorem itemKind_core (h : itemKind false item = some .core) : item = 1 ∨ item = 2 ∨ item = 3 := by
  unfold itemKind at h
  simp only [Bool.false_eq_true, if_false] at h
  split at h <;> simp at h ⊢

theorem itemKind_die (h : itemKind true item = some .die) : item = 3 := by
  unfold itemKind at h
  simp only [if_true] at h
  split at h <;> simp at h ⊢

/-- What a piece of a core's item changes is the core and the memory. -/
theorem State.testEffect_frame (h : itemKind false item = some .core) (bad : List Nat) :
    (∀ q, (s.testEffect item u piece bad).part q = s.part q) ∧ (s.testEffect item u piece bad).out = s.out ∧
      (s.testEffect item u piece bad).start = s.start := by
  obtain rfl | rfl | rfl := itemKind_core h <;> exact ⟨fun _ => rfl, rfl, rfl⟩

theorem TestUnit.ended_state (t : TestUnit) (fails : List (Nat × Nat × Nat)) : (t.ended fails true).state = 3 := by
  unfold TestUnit.ended
  dsimp only
  split <;> rfl

theorem TestUnit.ended_result (t : TestUnit) (fails : List (Nat × Nat × Nat)) :
    (t.ended fails true).result = if t.cancel = true then 2 else if satAdd 16 t.fails fails.length = 0 then 0 else 1 := by
  unfold TestUnit.ended
  dsimp only
  split <;> rfl

theorem TestUnit.ended_counts (t : TestUnit) (fails : List (Nat × Nat × Nat)) :
    (t.ended fails true).pieces = t.pieces + 1 ∧ (t.ended fails true).fails = satAdd 16 t.fails fails.length := by
  unfold TestUnit.ended
  dsimp only
  split <;> exact ⟨rfl, rfl⟩

theorem State.startPiecesIdle_of_serving (h : (s.part p).srvEn = true) : s.startPiecesIdle p = s := if_pos h

/-- The part with a request's last piece ended. -/
def State.pieceEnded (s : State) (p : Nat) (cal : Bool) (fails : List (Nat × Nat × Nat)) : State :=
  s.updTu p cal (fun t => if t.state = 2 then t.ended fails true else t)

theorem State.tu_pieceEnded (h : (s.tu p cal).state = 2) (fails : List (Nat × Nat × Nat)) :
    (s.pieceEnded p cal fails).tu p cal = (s.tu p cal).ended fails true := by
  rw [State.pieceEnded, State.tu_updTu, if_pos h]

theorem State.srvEn_updTu (s : State) (p : Nat) (cal : Bool) (f : TestUnit → TestUnit) : ((s.updTu p cal f).part p).srvEn = (s.part p).srvEn := by
  rw [State.updTu, State.part_updPart]
  cases cal <;> rfl

theorem State.testFree_of_serving (h : (s.part p).srvEn = true) : s.testFree p [] = s := State.startPiecesIdle_of_serving h

/-- The state in which a core's unit is free after its item's last piece. -/
def State.corePieceDone (s : State) (p : Nat) : State :=
  ((s.testEffect (tqItem (s.tu p false).request) (tqUnit (s.tu p false).request) (s.tu p false).pieces []).pieceEnded p false []).holdUnit .core
    (tqUnit (s.tu p false).request) false

theorem State.tu_testEffect (h : itemKind false item = some .core) (bad : List Nat) (p : Nat) :
    (s.testEffect item u piece bad).tu p false = s.tu p false :=
  congrArg Part.test ((State.testEffect_frame h bad).1 p)

/-- The last piece of a core's item that the host asked for in the background, where the partition serves. -/
theorem exec_testPieceDone_core (h : PieceRuns s p false .core) (hserves : (s.part p).srvEn = true)
    (hback : tqDrained (s.tu p false).request = false) :
    exec (.testPieceDone p false true []) s = .next (s.corePieceDone p) := by
  have hexec : exec (.testPieceDone p false true []) s = execTestPieceDone p false true [] s := rfl
  obtain ⟨hlive, hp, hkind, hruns, hheld⟩ := h
  have hheld' : s.unitHeld .core (tqUnit (s.tu p false).request) = true := by simpa [hback] using hheld
  have hitem := itemKind_core hkind
  have hended : ((s.testEffect (tqItem (s.tu p false).request) (tqUnit (s.tu p false).request) (s.tu p false).pieces []).pieceEnded p false []).tu
      p false = (s.tu p false).ended [] true := by
    rw [State.tu_pieceEnded (by rw [State.tu_testEffect hkind]; exact hruns), State.tu_testEffect hkind]
  have hframe := State.testEffect_frame (s := s) (u := tqUnit (s.tu p false).request) (piece := (s.tu p false).pieces) hkind []
  have hserves' : ((s.corePieceDone p).part p).srvEn = true := by
    rw [State.corePieceDone, (State.holdUnit_frame _ _ _ _).1, State.pieceEnded, State.srvEn_updTu, hframe.1]
    exact hserves
  have hlive' : (s.corePieceDone p).isLive = true := by
    have hstart : (s.corePieceDone p).start = s.start := ((State.holdUnit_frame _ _ _ _).2.2.2).trans hframe.2.2
    rw [State.isLive, hstart]
    exact hlive
  have hlast : s.testLast false (tqItem (s.tu p false).request) (tqUnit (s.tu p false).request) (s.tu p false).pieces true = true := by
    obtain h | h | h := hitem <;> rw [h] <;> rfl
  have hfails (n : Nat) (old new : Stack) : testFails (tqItem (s.tu p false).request) n old new [] = [] := if_pos (by omega)
  have hmarch : (!false && tqItem (s.tu p false).request == 7) = false := by
    obtain h | h | h := hitem <;> rw [h] <;> rfl
  rw [hexec, execTestPieceDone, hkind]
  dsimp -zeta only
  extract_lets march runs held bad last before effected fails done ended freed src trimmed trained failed
  have hruns' : runs = true := by simp [runs, hruns, hheld']
  refine (if_neg (by rw [hlive, hruns', decide_eq_false (by omega)]; decide)).trans
    ((if_neg (by rw [show march = false from hmarch, Bool.false_and]; decide)).trans ?_)
  have hnone : fails = [] := hfails _ _ _
  have hdone : done = (s.testEffect (tqItem (s.tu p false).request) (tqUnit (s.tu p false).request) (s.tu p false).pieces
      []).pieceEnded p false [] := by
    simp only [done, hnone, show last = true from hlast]
    rfl
  have hover : ended = true := by
    simp only [ended, hdone]
    rw [hended, TestUnit.ended_state]
    rfl
  have hfreed : freed = s.corePieceDone p := by
    simp only [freed, hover, hdone]
    rfl
  have htrimmed : trimmed = s.corePieceDone p := (if_neg (by rw [Bool.and_false, Bool.false_and]; decide)).trans hfreed
  have htrained : trained = s.corePieceDone p :=
    (if_neg (by rw [show (UnitKind.core == UnitKind.port) = false from rfl, Bool.and_false]; decide)).trans htrimmed
  have hfailed : failed = s.corePieceDone p := by
    simp only [failed, hnone]
    exact htrained
  have hheld0 : held = [] := if_neg (by rw [hback]; decide)
  rw [hfailed, hlive', hheld0, ite_self]
  exact congrArg Host.Outcome.next ((if_pos rfl).trans (State.testFree_of_serving hserves'))

/-- The state in which the sensors of a die have their new trims. -/
def State.dieTrimmed (s : State) (p : Nat) (fails : List (Nat × Nat × Nat)) : State :=
  { s.pieceEnded p true fails with power := { s.power with trims :=
      (if s.power.trims.contains (tqUnit (s.tu p true).request) then s.power.trims else s.power.trims ++ [tqUnit (s.tu p true).request]) } }

theorem State.mem_trims_dieTrimmed (s : State) (p : Nat) (fails : List (Nat × Nat × Nat)) :
    tqUnit (s.tu p true).request ∈ (s.dieTrimmed p fails).power.trims := by
  unfold State.dieTrimmed
  dsimp only
  split
  next h => exact List.contains_iff_mem.mp h
  next => exact List.mem_append_right _ (List.mem_singleton_self _)

/-- The last piece of a calibration of a die's sensors, where the partition serves. -/
theorem exec_testPieceDone_die {fails : List (Nat × Nat × Nat)} (h : PieceRuns s p true .die) (hserves : (s.part p).srvEn = true)
    (hback : tqDrained (s.tu p true).request = false) : exec (.testPieceDone p true true fails) s = .next (s.dieTrimmed p fails) := by
  have hexec : exec (.testPieceDone p true true fails) s = execTestPieceDone p true true fails s := rfl
  obtain ⟨hlive, hp, hkind, hruns, -⟩ := h
  have hitem := itemKind_die hkind
  have hserves' : ((s.dieTrimmed p fails).part p).srvEn = true := (s.srvEn_updTu p true _).trans hserves
  rw [hexec, execTestPieceDone, hkind]
  dsimp -zeta only
  extract_lets march runs held bad last before effected fails' done ended freed src trimmed trained failed
  have hruns' : runs = true := by simp [runs, hruns]
  refine (if_neg (by rw [hlive, hruns', decide_eq_false (by omega)]; decide)).trans
    ((if_neg (by rw [show march = false from rfl, Bool.false_and]; decide)).trans ?_)
  have hdone : done = s.pieceEnded p true fails := rfl
  have hover : ended = true := by
    simp only [ended, hdone]
    rw [State.tu_pieceEnded hruns, TestUnit.ended_state]
    rfl
  have hfreed : freed = s.pieceEnded p true fails := by
    simp only [freed, hover, hdone]
    rfl
  have htrimmed : trimmed = s.dieTrimmed p fails := by
    simp only [trimmed, src, hover, hfreed]
    rfl
  have htrained : trained = s.dieTrimmed p fails :=
    (if_neg (by rw [show (UnitKind.die == UnitKind.port) = false from rfl, Bool.and_false]; decide)).trans htrimmed
  have hfailed : failed = s.dieTrimmed p fails := by
    simp only [failed, show fails' = fails from rfl, hitem]
    rw [htrained]
    unfold State.testFailure
    split <;> rfl
  have hlive' : (s.dieTrimmed p fails).isLive = true := hlive
  rw [hfailed, hlive', show held = [] from if_neg (by rw [hback]; decide), ite_self]
  exact congrArg Host.Outcome.next ((if_pos rfl).trans (State.testFree_of_serving hserves'))

end Pieces

end Sys2Proof.Machine

namespace Sys2Proof.Proofs

open Sys2Proof.Machine

section

variable {s : State} {p : Nat} {cal : Bool} {k : UnitKind}

/-- A request whose partitions are drained runs, with its unit held, where its unit is not a port. -/
theorem drainedRequest_runs (hlive : s.isLive = true) (hp : p < nParts s.mode) (hwaits : (s.tu p cal).state = 1)
    (hdrained : tqDrained (s.tu p cal).request = true) (hkind : itemKind cal (tqItem (s.tu p cal).request) = some k)
    (hall : (s.drains p cal).all s.drained = true) (hfree : s.unitHeld k (tqUnit (s.tu p cal).request) = false)
    (hthere : s.unitGone k (tqUnit (s.tu p cal).request) = false) (hk : k ≠ .port) :
    ∃ t, exec (.drainedRequestStart p cal) s = .next t ∧ (t.tu p cal).state = 2 ∧ (t.tu p cal).request = (s.tu p cal).request ∧
      (k = .core ∨ k = .stack → t.unitHeld k (tqUnit (s.tu p cal).request) = true) ∧ t.mem = s.mem ∧ t.out = s.out := by
  rw [exec_drainedRequestStart hlive hp hwaits hdrained hkind hall hfree, hthere, if_neg hk]
  obtain ⟨hpart, hmem, hout, -⟩ := (s.updTu p cal (fun r => { r with state := 2, result := (s.tu p cal).result })).holdUnit_frame k
    (tqUnit (s.tu p cal).request) true
  refine ⟨_, rfl, ?_, ?_, fun hk => State.unitHeld_holdUnit _ hk _ _, hmem, hout⟩
  · rw [State.tu_holdUnit, State.tu_updTu]
  · rw [State.tu_holdUnit, State.tu_updTu]

/-- The last piece of a core's item ends its request. -/
theorem corePiece_ends (h : PieceRuns s p false .core) (hserves : (s.part p).srvEn = true) (hback : tqDrained (s.tu p false).request = false) :
    ∃ t, exec (.testPieceDone p false true []) s = .next t ∧ (t.tu p false).pieces = (s.tu p false).pieces + 1 ∧
      ((s.tu p false).cancel = true → (t.tu p false).state = 3 ∧ (t.tu p false).result = 2) ∧
      ((s.tu p false).cancel = false → (t.tu p false).state = 3 ∧ (t.tu p false).result = if satAdd 16 (s.tu p false).fails 0 = 0 then 0 else 1) ∧
      t.unitHeld .core (tqUnit (s.tu p false).request) = false ∧ t.out = s.out := by
  have htu : (s.corePieceDone p).tu p false = (s.tu p false).ended [] true := by
    rw [State.corePieceDone, State.tu_holdUnit, State.tu_pieceEnded (by rw [State.tu_testEffect h.kind]; exact h.runs), State.tu_testEffect h.kind]
  refine ⟨_, exec_testPieceDone_core h hserves hback, ?_, fun hcancel => ?_, fun hcancel => ?_, State.unitHeld_holdUnit _ (.inl rfl) _ _, ?_⟩
  · rw [htu, (TestUnit.ended_counts _ _).1]
  · rw [htu, TestUnit.ended_state, TestUnit.ended_result, if_pos hcancel]
    exact ⟨rfl, rfl⟩
  · rw [htu, TestUnit.ended_state, TestUnit.ended_result, if_neg (by rw [hcancel]; decide)]
    exact ⟨rfl, rfl⟩
  · exact ((State.holdUnit_frame _ _ _ _).2.2.1).trans (State.testEffect_frame h.kind _).2.1

end

/-- Settles O57: requests go to `askTest`, and the end of a piece is followed through its unit, its status and its failures. -/
theorem testRequestsRunAndEnd : Obligations.TestRequestsRunAndEnd := by
  unfold Obligations.TestRequestsRunAndEnd
  refine ⟨⟨testRequested_of (fun _ _ _ => rfl) (by decide), testRequested_of (fun _ _ _ => rfl) (by decide),
    testRequested_of (fun _ _ _ => rfl) (by decide), testRequested_of (fun _ _ _ => rfl) (by decide), testRequested_of (fun _ _ _ => rfl) (by decide),
    testRequested_of (fun _ _ _ => rfl) (by decide), testRequested_of (fun _ _ _ => rfl) (by decide), testRequested_of (fun _ _ _ => rfl) (by decide),
    testRequested_of (fun _ _ _ => rfl) (by decide), testRequested_of (fun _ _ _ => rfl) (by decide), testRequested_of (fun _ _ _ => rfl) (by decide),
    testRequested_of (fun _ _ _ => rfl) (by decide), testRequested_of (fun _ _ _ => rfl) (by decide), ?_⟩,
    fun s p cal k hlive hp hwaits hdrained hkind hall hfree hthere hk => drainedRequest_runs hlive hp hwaits hdrained hkind hall hfree hthere hk,
    ?_, ?_, fun s p k h hk hserves hback => ?_, fun s p fails h hserves hback => ?_⟩
  · intro s who msg p cal hp hreach hitem hhead hhigh hlow
    exact ⟨fun hwaits => hreach.testCancel hp hhead (State.askTest_cancel hitem hhigh hlow (by rw [counted_tu]; exact hwaits)),
      fun hdone => hreach.testCancel hp hhead (State.askTest_done hitem hhigh hlow (by rw [counted_tu]; exact hdone))⟩
  · intro s p cal hlive hp hwaits hdrained hkind hall hfree hthere
    rw [exec_drainedRequestStart hlive hp hwaits hdrained hkind hall hfree, hthere]
    rfl
  · intro s p cal k hlive hp hwaits hdrained hkind hall hfree hgone
    rw [exec_drainedRequestStart hlive hp hwaits hdrained hkind hall hfree, hgone]
    rfl
  · subst hk
    exact corePiece_ends h hserves hback
  · refine ⟨_, exec_testPieceDone_die h hserves hback, ?_, s.mem_trims_dieTrimmed p fails, ?_, rfl, rfl⟩
    · exact (congrArg TestUnit.state (State.tu_pieceEnded h.runs fails)).trans (TestUnit.ended_state _ _)
    · exact (congrArg TestUnit.fails (State.tu_pieceEnded h.runs fails)).trans (TestUnit.ended_counts _ _).2

end Sys2Proof.Proofs
end

section
/-! PROOFS. A sanitise: what it clears, and its certificate (R277, R358, R429 to R432). -/

namespace Sys2Proof.Machine

/-! ## Folds that do one thing to each of a list -/

/-- A fold whose step gives each index a property that later steps keep gives it to every index of the list. -/
theorem foldl_each {σ : Type} {Q : σ → Nat → Prop} {upd : σ → Nat → σ} (hself : ∀ s c, Q (upd s c) c) (hkeep : ∀ s c d, Q s d → Q (upd s c) d)
    {l : List Nat} {d : Nat} (s : σ) (h : d ∈ l ∨ Q s d) : Q (l.foldl upd s) d := by
  induction l generalizing s with
  | nil => exact h.elim (fun h => absurd h List.not_mem_nil) id
  | cons c l ih =>
    refine ih _ ?_
    obtain h | h := h
    · obtain rfl | h := List.mem_cons.mp h
      · exact .inr (hself s d)
      · exact .inl h
    · exact .inr (hkeep s c d h)

theorem State.foldl_updContext_eq (p : Nat) (f : Context → Context) (l : List Nat) (s : State) :
    ∃ xs, l.foldl (fun s x => s.updContext p x f) s = { s with contexts := xs } :=
  List.foldlRecOn (motive := fun t : State => ∃ xs, t = { s with contexts := xs }) _ _ ⟨s.contexts, rfl⟩ fun t ht a _ => by
    obtain ⟨xs, rfl⟩ := ht
    exact ⟨_, rfl⟩

theorem State.foldl_updCore_each {P : Core → Prop} {f : Core → Core} (hP : ∀ k, P (f k)) {l : List Nat} {c : Nat} (h : c ∈ l) (s : State) :
    P ((l.foldl (fun s c => s.updCore c f) s).core c) := by
  refine foldl_each (Q := fun (s : State) c => P (s.core c)) (upd := fun s c => s.updCore c f) (fun s c => ?_) (fun s c d hd => ?_) s (.inl h)
  · rw [State.core_updCore]
    exact hP _
  · by_cases hcd : d = c
    · rw [hcd, State.core_updCore]
      exact hP _
    · rw [State.core_updCore_ne s f hcd]
      exact hd

theorem State.foldl_updEngine_each {P : Engine → Prop} {f : Engine → Engine} (hP : ∀ k, P (f k)) {l : List Nat} {k : Nat} (h : k ∈ l) (s : State) :
    P ((l.foldl (fun s k => s.updEngine k f) s).engine k) := by
  refine foldl_each (Q := fun (s : State) k => P (s.engine k)) (upd := fun s k => s.updEngine k f) (fun s k => ?_) (fun s k j hj => ?_) s (.inl h)
  · rw [State.engine_updEngine]
    exact hP _
  · by_cases hjk : j = k
    · rw [hjk, State.engine_updEngine]
      exact hP _
    · rw [State.engine_updEngine_ne s f hjk]
      exact hj

theorem State.foldl_updContext_each {P : Context → Prop} {f : Context → Context} (hP : ∀ x, P (f x)) {l : List Nat} {x : Nat} (p : Nat) (h : x ∈ l)
    (s : State) : P ((l.foldl (fun s x => s.updContext p x f) s).context p x) := by
  refine foldl_each (Q := fun (s : State) x => P (s.context p x)) (upd := fun s x => s.updContext p x f) (fun s x => ?_)
    (fun s x y hy => ?_) s (.inl h)
  · rw [State.updContext, State.context, State.setContext, Table.get_set_same]
    exact hP _
  · by_cases hxy : y = x
    · rw [hxy, State.updContext, State.context, State.setContext, Table.get_set_same]
      exact hP _
    · rw [State.updContext, State.context, State.setContext, Table.get_set_ne _ _ _ (by omega)]
      exact hy

/-! ## The memory of a partition -/

section Memory

variable {m : MemSys} {c : Nat}

theorem Table.get_del_same {α : Type} (d : α) (t : Table α) (k : Nat) : Table.get d (Table.del t k) k = d :=
  (Table.get_filter d t (fun j => j != k) k).trans (if_neg (by simp))

/-- A core's scratch and both its banks hold zeros alone. -/
def MemSys.coreZero (m : MemSys) (c : Nat) : Prop :=
  (Table.get [] m.scratch c = [] ∧ Table.get none m.scratchBase c = none) ∧
  ∀ b, b < 2 → Table.get [] m.cmdStore (2 * c + b) = [] ∧ Table.get none m.cmdBase (2 * c + b) = none

theorem MemSys.coreZero_reads (h : m.coreZero c) (off : Nat) :
    m.scratchRead c off 1 = [0] ∧ m.bankRead c 0 off 1 = [0] ∧ m.bankRead c 1 off 1 = [0] := by
  obtain ⟨⟨hscratch, hbase⟩, hbanks⟩ := h
  have hbank : ∀ b, b < 2 → m.bankRead c b off 1 = [0] := by
    intro b hb
    rw [MemSys.bankRead, (hbanks b hb).1]
    unfold MemSys.bankByte
    rw [(hbanks b hb).2]
    rfl
  refine ⟨?_, hbank 0 (by decide), hbank 1 (by decide)⟩
  rw [MemSys.scratchRead, hscratch]
  unfold MemSys.scratchByte
  rw [hbase]
  rfl

theorem MemSys.coreZero_zeroed (m : MemSys) (c : Nat) : ((m.scratchZero c).banksZero c).coreZero c := by
  refine ⟨⟨Table.get_del_same _ _ _, Table.get_del_same _ _ _⟩, fun b hb => ?_⟩
  obtain rfl | rfl : b = 0 ∨ b = 1 := by omega
  · exact ⟨(Table.get_del_ne _ _ (by omega)).trans (Table.get_del_same _ _ _), (Table.get_del_ne _ _ (by omega)).trans (Table.get_del_same _ _ _)⟩
  · exact ⟨Table.get_del_same _ _ _, Table.get_del_same _ _ _⟩

theorem MemSys.coreZero_zeroed_of (m : MemSys) {c d : Nat} (h : m.coreZero d) : ((m.scratchZero c).banksZero c).coreZero d := by
  by_cases hcd : d = c
  · rw [hcd]
    exact m.coreZero_zeroed c
  · refine ⟨⟨(Table.get_del_ne _ _ hcd).trans h.1.1, (Table.get_del_ne _ _ hcd).trans h.1.2⟩, fun b hb => ?_⟩
    exact ⟨(Table.get_del_ne _ _ (by omega)).trans ((Table.get_del_ne _ _ (by omega)).trans (h.2 b hb).1),
      (Table.get_del_ne _ _ (by omega)).trans ((Table.get_del_ne _ _ (by omega)).trans (h.2 b hb).2)⟩

theorem MemSys.stack_coresZero (l : List Nat) (m : MemSys) (k : Nat) : (l.foldl (fun m c => (m.scratchZero c).banksZero c) m).stack k = m.stack k :=
  List.foldlRecOn (motive := fun t : MemSys => t.stack k = m.stack k) _ _ rfl fun _ ht _ _ => ht

/-- The memory in which the stacks of a list hold the pattern of a sanitise. -/
def MemSys.stacksSanitised (m : MemSys) (l : List Nat) (now threshold pattern : Nat) : MemSys :=
  l.foldl (fun m k => { m.setStack k ((m.stack k).sanitised ⟨m.fresh, now, threshold⟩ pattern) with fresh := m.fresh + 1 }) m

theorem MemSys.stacksSanitised_of_notMem {l : List Nat} {now threshold pattern k : Nat} (h : k ∉ l) (m : MemSys) :
    (m.stacksSanitised l now threshold pattern).stack k = m.stack k := by
  induction l generalizing m with
  | nil => rfl
  | cons j l ih =>
    rw [List.mem_cons, not_or] at h
    exact (ih h.2 _).trans (m.stack_setStack_ne _ h.1)

theorem MemSys.stacksSanitised_of_mem {l : List Nat} {now threshold pattern k : Nat} (hl : l.Nodup) (h : k ∈ l) (m : MemSys) :
    ∃ n, (m.stacksSanitised l now threshold pattern).stack k = (m.stack k).sanitised ⟨n, now, threshold⟩ pattern := by
  induction l generalizing m with
  | nil => exact absurd h List.not_mem_nil
  | cons j l ih =>
    obtain ⟨hj, hl⟩ := List.nodup_cons.mp hl
    by_cases hkj : k = j
    · subst hkj
      exact ⟨m.fresh, (MemSys.stacksSanitised_of_notMem hj _).trans (m.stack_setStack_same k _)⟩
    · obtain ⟨n, hn⟩ := ih hl ((List.mem_cons.mp h).resolve_left hkj)
        ({ m.setStack j ((m.stack j).sanitised ⟨m.fresh, now, threshold⟩ pattern) with fresh := m.fresh + 1 })
      refine ⟨n, hn.trans ?_⟩
      rw [show ({ m.setStack j ((m.stack j).sanitised ⟨m.fresh, now, threshold⟩ pattern) with fresh := m.fresh + 1 } : MemSys).stack k =
        m.stack k from m.stack_setStack_ne _ hkj]

theorem Stack.install_failed (st : Stack) (line : Nat) (auto : Bool) : (st.install line auto).failed = st.failed := by
  unfold Stack.install
  split
  · rfl
  · dsimp only
    split <;> rfl

/-- A sanitise fails no channel. -/
theorem Stack.sanitised_failed (st : Stack) (e : DieEnv) (pattern : Nat) : (st.sanitised e pattern).failed = st.failed := by
  unfold Stack.sanitised Stack.fillLines
  exact List.foldlRecOn (motive := fun t : Stack => t.failed = st.failed) _ _ rfl fun t ht l _ => (t.install_failed l true).trans ht

theorem MemSys.stacksSanitised_failed (l : List Nat) (m : MemSys) (now threshold pattern k : Nat) :
    ((m.stacksSanitised l now threshold pattern).stack k).failed = (m.stack k).failed := by
  refine List.foldlRecOn (motive := fun t : MemSys => (t.stack k).failed = (m.stack k).failed) _ _ rfl fun t ht j _ => ?_
  refine Eq.trans (congrArg Stack.failed (t.stack_setStack j k _)) ?_
  split
  next hk => rw [Stack.sanitised_failed, ← hk, ht]
  next => exact ht

end Memory

/-! ## The partition once it is cleared -/

section Clear

variable {s : State} {p : Nat}

theorem partStacks_nodup (mode p : Nat) : (partStacks mode p).Nodup := List.nodup_range.filter _

/-- The memory once the partition's stacks and cores are cleared. -/
def State.clearMem (s : State) (p : Nat) : MemSys :=
  (partCores s.mode p).foldl (fun m c => (m.scratchZero c).banksZero c)
    (s.mem.stacksSanitised (partStacks s.mode p) s.start.periods s.threshold (s.part p).sanitise.pattern)

theorem State.stack_clearMem_failed (s : State) (p k : Nat) : ((s.clearMem p).stack k).failed = (s.mem.stack k).failed := by
  rw [State.clearMem, MemSys.stack_coresZero, MemSys.stacksSanitised_failed]

theorem State.coreZero_clearMem {c : Nat} (h : c ∈ partCores s.mode p) : (s.clearMem p).coreZero c :=
  foldl_each (Q := MemSys.coreZero) (upd := fun m c => (m.scratchZero c).banksZero c) MemSys.coreZero_zeroed
    (fun m _ _ hd => m.coreZero_zeroed_of hd) _ (.inl h)

/-- The part once the memory and the cores of a partition are cleared. -/
def State.clearCores (s : State) (p : Nat) : State :=
  (partCores s.mode p).foldl (fun s c => s.updCore c Core.sanitised) { s with mem := s.clearMem p }

/-- The same with its stack engines. -/
def State.clearEngines (s : State) (p : Nat) : State := (partStacks s.mode p).foldl (fun s k => s.updEngine k Engine.sanitised) (s.clearCores p)

/-- The same with its contexts. -/
def State.clearUnits (s : State) (p : Nat) : State := (s.ctxs).foldl (fun s x => s.updContext p x Context.sanitised) (s.clearEngines p)

theorem State.clearCores_frame (s : State) (p : Nat) : ∃ cs, s.clearCores p = { s with mem := s.clearMem p, cores := cs } :=
  State.foldl_updCore_eq id (fun _ => Core.sanitised) (partCores s.mode p) { s with mem := s.clearMem p }

theorem State.clearEngines_frame (s : State) (p : Nat) : ∃ es, s.clearEngines p = { s.clearCores p with engines := es } :=
  State.foldl_updEngine_eq id (fun _ => Engine.sanitised) (partStacks s.mode p) (s.clearCores p)

theorem State.clearUnits_frame (s : State) (p : Nat) :
    ∃ cs es xs, s.clearUnits p = { s with mem := s.clearMem p, cores := cs, engines := es, contexts := xs } := by
  obtain ⟨cs, hcs⟩ := s.clearCores_frame p
  obtain ⟨es, hes⟩ := s.clearEngines_frame p
  obtain ⟨xs, hxs⟩ := State.foldl_updContext_eq p Context.sanitised s.ctxs (s.clearEngines p)
  refine ⟨cs, es, xs, ?_⟩
  rw [State.clearUnits, hxs, hes, hcs]

/-- A core that holds nothing of a kernel's. -/
def Core.isClear (k : Core) : Prop :=
  k.vregs = [] ∧ k.vbase = none ∧ k.w0 = none ∧ k.w1 = none ∧ k.active = none ∧ k.preload = false ∧ k.acc = [] ∧ k.spool = {} ∧ k.qVec.coal = [] ∧
  k.lastUse = .none

/-- An engine whose LAB, codec and coalescers are empty. -/
def Engine.isClear (g : Engine) : Prop := g.lab = [] ∧ g.table = [] ∧ g.queue = [] ∧ ∀ a ∈ g.active, a.2.coal = []

/-- A context whose registers read as they do at reset. -/
def Context.isClear (x : Context) : Prop :=
  x.en = false ∧ x.prio = 0 ∧ x.status = 0 ∧ x.saves = 0 ∧ x.cores = 0 ∧ x.save = 0 ∧ x.units = 0x20 ∧ x.saveCycles = 0 ∧ x.restoreCycles = 0 ∧
  x.stateCode = 0 ∧ x.pending = none

theorem Context.sanitised_registers (x : Context) : x.sanitised.isClear := by
  unfold Context.sanitised
  dsimp only
  split
  next h =>
    obtain ⟨k, hk⟩ := Option.isSome_iff_exists.mp h.1
    refine ⟨rfl, rfl, rfl, rfl, rfl, rfl, rfl, rfl, rfl, ?_, rfl⟩
    rw [Context.stateCode, hk]
    rfl
  next => exact ⟨rfl, rfl, rfl, rfl, rfl, rfl, rfl, rfl, rfl, rfl, rfl⟩

/-- The word of REFILL without the partition's identities. -/
def State.refillCleared (s : State) (p : Nat) : Nat :=
  setFld (s.dictVal 0x1800 4 0) (32 * identsPer s.mode * (p + 1) - 1) (32 * identsPer s.mode * p) 0

theorem fld_setFld_zero (w hi lo : Nat) : fld (setFld w hi lo 0) hi lo = 0 := by
  unfold setFld fld
  rw [Nat.zero_mod, Nat.zero_mul, Nat.add_zero, Nat.shiftRight_eq_div_pow, Nat.shiftRight_eq_div_pow, Nat.mul_comm,
    Nat.sub_mul_div, Nat.sub_mod_eq_zero_of_mod_eq]
  exact (Nat.mod_mod _ _).symm

/-- What a sanitise leaves of the part, but for its certificate. -/
theorem State.clearPart_eq (s : State) (p : Nat) :
    s.clearPart p = ((s.clearUnits p).setDictVal 0x1800 4 (s.refillCleared p)).updPart p Part.sanitised := by
  obtain ⟨cs, hcs⟩ := s.clearCores_frame p
  obtain ⟨es, hes⟩ := s.clearEngines_frame p
  obtain ⟨_, _, _, hunits⟩ := s.clearUnits_frame p
  unfold State.clearPart
  extract_lets cores dies asked written cleared inMemory inCores inEngines inContexts idents refilled
  have hmemory : inMemory = { s with mem := s.clearMem p } := State.withMem_of_same (s.stack_clearMem_failed p) 3
  have hcores : inCores = s.clearCores p := by
    simp only [inCores, hmemory]
    rfl
  have hengines : inEngines = s.clearEngines p := by
    simp only [inEngines, hcores]
    rfl
  have hcontexts : inContexts = s.clearUnits p := by
    simp only [inContexts, hengines]
    rw [show (s.clearEngines p).ctxs = s.ctxs by rw [hes, hcs]; rfl]
    rfl
  have hrefilled : refilled = (s.clearUnits p).setDictVal 0x1800 4 (s.refillCleared p) := by
    simp only [refilled, idents, hcontexts]
    rw [show (s.clearUnits p).dictVal 0x1800 4 0 = s.dictVal 0x1800 4 0 by rw [hunits]; rfl,
      show (s.clearUnits p).mode = s.mode by rw [hunits]; rfl]
    rfl
  rw [hrefilled]

theorem State.core_clearUnits {P : Core → Prop} (hP : ∀ k : Core, P k.sanitised) {c : Nat} (h : c ∈ partCores s.mode p) :
    P ((s.clearUnits p).core c) := by
  obtain ⟨es, hes⟩ := s.clearEngines_frame p
  obtain ⟨xs, hxs⟩ := State.foldl_updContext_eq p Context.sanitised s.ctxs (s.clearEngines p)
  rw [State.clearUnits, hxs, hes]
  exact State.foldl_updCore_each hP h _

theorem State.engine_clearUnits {P : Engine → Prop} (hP : ∀ k : Engine, P k.sanitised) {k : Nat} (h : k ∈ partStacks s.mode p) :
    P ((s.clearUnits p).engine k) := by
  obtain ⟨xs, hxs⟩ := State.foldl_updContext_eq p Context.sanitised s.ctxs (s.clearEngines p)
  rw [State.clearUnits, hxs]
  exact State.foldl_updEngine_each hP h _

theorem State.context_clearUnits {P : Context → Prop} (hP : ∀ x : Context, P x.sanitised) {x : Nat} (h : x < ctxPer s.mode) :
    P ((s.clearUnits p).context p x) :=
  State.foldl_updContext_each hP p (List.mem_range.mpr h) _

/-- A clear reaches memory, cores, engines, contexts, REFILL and the partition alone. -/
theorem State.clearPart_frame (s : State) (p : Nat) : (s.clearPart p).mem = s.clearMem p ∧ (s.clearPart p).nv = s.nv ∧
    (s.clearPart p).start = s.start ∧ (s.clearPart p).host = s.host ∧ (s.clearPart p).out = s.out ∧
    (s.clearPart p).part p = (s.part p).sanitised := by
  obtain ⟨cs, es, xs, hunits⟩ := s.clearUnits_frame p
  rw [s.clearPart_eq, hunits]
  exact ⟨rfl, rfl, rfl, rfl, rfl, State.part_updPart _ p Part.sanitised⟩

theorem Engine.sanitised_clear (g : Engine) : g.sanitised.isClear := by
  refine ⟨rfl, rfl, rfl, fun a ha => ?_⟩
  obtain ⟨b, -, rfl⟩ := List.mem_map.mp ha
  rfl

/-- What a sanitise clears, in the part that it leaves and in any that differs from it in the partition's certificate and the ledger alone. -/
theorem State.partCleared {t : State} (hmem : t.mem = s.clearMem p) (hcores : t.cores = (s.clearUnits p).cores)
    (hengines : t.engines = (s.clearUnits p).engines) (hcontexts : t.contexts = (s.clearUnits p).contexts)
    (hrefill : t.dictVal 0x1800 4 0 = s.refillCleared p) (hpart : ∃ z, t.part p = { (s.part p).sanitised with sanitise := z })
    (hhost : t.host = s.host) (hout : t.out = s.out) : PartCleared s t p := by
  obtain ⟨z, hz⟩ := hpart
  have hcore (c : Nat) : t.core c = (s.clearUnits p).core c := by rw [State.core, hcores]; rfl
  have hengine (k : Nat) : t.engine k = (s.clearUnits p).engine k := by rw [State.engine, hengines]; rfl
  have hcontext (x : Nat) : t.context p x = (s.clearUnits p).context p x := by rw [State.context, hcontexts]; rfl
  refine ⟨fun c hc off => ?_, fun c hc => ?_, fun k hk => ?_, ?_, fun x hx => ?_, ?_, ?_, ?_, ?_⟩
  · rw [hmem]
    exact MemSys.coreZero_reads (State.coreZero_clearMem hc) off
  · rw [hcore]
    exact State.core_clearUnits (P := Core.isClear) (fun _ => ⟨rfl, rfl, rfl, rfl, rfl, rfl, rfl, rfl, rfl, rfl⟩) hc
  · rw [hengine]
    exact State.engine_clearUnits (P := Engine.isClear) Engine.sanitised_clear hk
  · rw [hz]
    rfl
  · rw [hcontext]
    exact State.context_clearUnits (P := Context.isClear) Context.sanitised_registers hx
  · rw [hz]
    exact ⟨rfl, rfl, rfl, rfl, rfl, rfl, rfl, rfl, rfl, rfl, rfl, rfl⟩
  · rw [hz]
    exact ⟨rfl, rfl, rfl, rfl, rfl, rfl, rfl, rfl, rfl, rfl, rfl, rfl⟩
  · rw [hz, hrefill]
    exact ⟨rfl, rfl, rfl, rfl, fld_setFld_zero _ _ _⟩
  · rw [hz]
    exact ⟨rfl, rfl, rfl, hhost, hout⟩

end Clear

/-! ## The certificate (R431) -/

section Certificate

variable {s : State} {p : Nat}

theorem State.cairn_eq (s : State) (type : Nat) (payload : List Byte) : ∃ nv, s.cairn type payload = { s with nv := nv } := by
  unfold State.cairn
  split <;> exact ⟨_, rfl⟩

/-- RESULT of a certificate: whether a channel of the partition was not written. -/
def State.sanitiseResult (s : State) (p : Nat) : Nat := b2n ((partStacks s.mode p).any (fun k => !(s.mem.stack k).unwritten.isEmpty))

/-- A partition with its certificate, signed. -/
def Part.certified (t : Part) (result : Nat) (c : List Byte) : Part :=
  { t with sanitise := { t.sanitise with state := 2, result := result, cert := c ++ fit 0 384 (Config.identitySignature c) } }

/-- The part that holds its certificate, before the ledger's record. -/
def State.certified (s : State) (p : Nat) : State :=
  s.updPart p (fun t => t.certified (s.sanitiseResult p) (s.certificate p (s.sanitiseResult p)))

theorem State.certify_eq (s : State) (p : Nat) : s.certify p = (s.certified p).cairn 0x10
    (leBytes 1 p ++ leBytes 1 (s.sanitiseResult p) ++ List.replicate 6 0 ++ sha256 (s.certificate p (s.sanitiseResult p))) := rfl

theorem window_append {α : Type} {a b r : List α} {n m : Nat} (ha : a.length = n) (hb : b.length = m) : ((a ++ (b ++ r)).drop n).take m = b := by
  subst ha hb
  rw [List.drop_left, List.take_left]

theorem numBytes_length (n : Nat) (l : List Nat) : (numBytes n l).length = n * l.length := by
  induction l with
  | nil => rfl
  | cons a l ih => rw [numBytes, List.flatMap_cons, List.length_append, leBytes_length, List.length_cons, ← numBytes, ih, Nat.mul_succ, Nat.add_comm]

/-- A window of a list of numbers is one of them. -/
theorem numBytes_window {n i : Nat} {l : List Nat} (hi : i < l.length) (r : List Byte) :
    ((numBytes n l ++ r).drop (n * i)).take n = leBytes n l[i] := by
  induction l generalizing i with
  | nil => exact absurd hi (Nat.not_lt_zero _)
  | cons a l ih =>
    rw [numBytes, List.flatMap_cons, ← numBytes]
    cases i with
    | zero =>
      rw [List.append_assoc, Nat.mul_zero, List.drop_zero, List.take_left' (leBytes_length n a)]
      rfl
    | succ i =>
      rw [List.append_assoc, Nat.mul_succ, Nat.add_comm, ← List.drop_drop, List.drop_left' (leBytes_length n a)]
      exact ih (Nat.lt_of_succ_lt_succ hi)

theorem fit_of_le {α : Type} {d : α} {n : Nat} {l : List α} (h : l.length ≤ n) : fit d n l = l ++ List.replicate (n - l.length) d := by
  rw [fit, List.take_of_length_le h]

/-- The bytes of a certificate before its zeros, in the pieces of R431. -/
theorem State.certificate_eq (s : State) (p result : Nat) : s.certificate p result =
    leBytes 8 (0x53C1 + 2 ^ 16 + 2 ^ 24 * p + 2 ^ 26 * s.mode + 2 ^ 28 * result + 2 ^ 32 * ((partStacks s.mode p).map (2 ^ ·)).sum) ++
      (fit 0 16 s.nv.serial ++ ((leBytes 8 (s.part p).sanitise.pattern ++ leBytes 32 (s.part p).sanitise.nonce) ++
        ((leBytes 8 s.nv.cairn.length ++ leBytes 4 s.nv.starts ++ leBytes 8 (s.part p).sanitise.begun ++ leBytes 8 s.start.periods) ++
          (leBytes 8 (((partStacks s.mode p).map (fun k => 32 - (s.mem.stack k).unwritten.length)).sum * 2 ^ 31) ++
            (numBytes 4 ((List.range 16).map (fun k =>
              if (partStacks s.mode p).contains k then ((s.mem.stack k).unwritten.map (2 ^ ·)).sum else 0)) ++ List.replicate 92 0))))) := by
  unfold State.certificate
  dsimp only
  rw [fit_of_le]
  · simp only [List.length_append, leBytes_length, length_fit, numBytes_length, List.length_map, List.length_range, List.append_assoc]
  · simp only [List.length_append, leBytes_length, length_fit, numBytes_length, List.length_map, List.length_range]
    decide

/-- The windows of a list of six pieces before its end. -/
theorem windows_append {a b c d e f z : List Byte} (ha : a.length = 8) (hb : b.length = 16) (hc : c.length = 40) (hd : d.length = 28)
    (he : e.length = 8) (hf : f.length = 64) {l : List Byte} (hl : l = a ++ (b ++ (c ++ (d ++ (e ++ (f ++ z)))))) : l.take 8 = a ∧ (l.drop 8).take 16 = b ∧
      (l.drop 24).take 40 = c ∧ (l.drop 64).take 28 = d ∧ (l.drop 92).take 8 = e ∧ l.drop 100 = f ++ z ∧ l.drop 164 = z := by
  subst hl
  refine ⟨List.take_left' ha, window_append ha hb, ?_, ?_, ?_, ?_, ?_⟩
  · rw [← List.append_assoc a]
    exact window_append (by simp [ha, hb]) hc
  · rw [← List.append_assoc a, ← List.append_assoc (a ++ b)]
    exact window_append (by simp [ha, hb, hc]) hd
  · rw [← List.append_assoc a, ← List.append_assoc (a ++ b), ← List.append_assoc (a ++ b ++ c)]
    exact window_append (by simp [ha, hb, hc, hd]) he
  · rw [← List.append_assoc a, ← List.append_assoc (a ++ b), ← List.append_assoc (a ++ b ++ c), ← List.append_assoc (a ++ b ++ c ++ d)]
    exact List.drop_left' (by simp [ha, hb, hc, hd, he])
  · rw [← List.append_assoc a, ← List.append_assoc (a ++ b), ← List.append_assoc (a ++ b ++ c), ← List.append_assoc (a ++ b ++ c ++ d),
      ← List.append_assoc (a ++ b ++ c ++ d ++ e)]
    exact List.drop_left' (by simp [ha, hb, hc, hd, he, hf])

/-- The part that a sanitise leaves. -/
def State.sanitised (s : State) (p : Nat) : State := (s.clearPart p).certify p

theorem exec_sanitiseDone (hlive : s.isLive = true) (hp : p < nParts s.mode) (hasked : s.sanitising p = true) :
    exec (.sanitiseDone p) s = .next (if ((partStacks s.mode p).flatMap s.heldLines).isEmpty then s.sanitised p
      else s.sendSnoops (((partStacks s.mode p).flatMap s.heldLines).map (fun l => (l, true)))) := by
  have hexec : exec (.sanitiseDone p) s = execSanitiseDone p s := rfl
  rw [hexec, execSanitiseDone, hlive, hasked, decide_eq_false (by omega)]
  exact (if_neg (by decide)).trans (apply_ite Host.Outcome.next _ _ _).symm

/-- The fields of the part after a sanitise, of those before it. -/
theorem State.sanitised_frame (s : State) (p : Nat) : (s.sanitised p).mem = s.clearMem p ∧ (s.sanitised p).cores = (s.clearUnits p).cores ∧
    (s.sanitised p).engines = (s.clearUnits p).engines ∧ (s.sanitised p).contexts = (s.clearUnits p).contexts ∧
    (s.sanitised p).dictVal 0x1800 4 0 = s.refillCleared p ∧ (s.sanitised p).host = s.host ∧ (s.sanitised p).out = s.out ∧
    (s.sanitised p).part p =
      (s.part p).sanitised.certified ((s.clearPart p).sanitiseResult p) ((s.clearPart p).certificate p ((s.clearPart p).sanitiseResult p)) := by
  obtain ⟨hmem, -, -, hhost, hout, hpart⟩ := s.clearPart_frame p
  obtain ⟨nv, hnv⟩ := ((s.clearPart p).certified p).cairn_eq 0x10
    (leBytes 1 p ++ leBytes 1 ((s.clearPart p).sanitiseResult p) ++ List.replicate 6 0 ++ sha256 ((s.clearPart p).certificate p ((s.clearPart p).sanitiseResult p)))
  have hrefill : (s.clearPart p).dictVal 0x1800 4 0 = s.refillCleared p := by
    rw [s.clearPart_eq]
    exact Table.get_set_same _ _ _ _
  have hunits := s.clearPart_eq p
  rw [State.sanitised, State.certify_eq, hnv]
  refine ⟨hmem, ?_, ?_, ?_, hrefill, hhost, hout, ?_⟩
  · exact (congrArg State.cores hunits :)
  · exact (congrArg State.engines hunits :)
  · exact (congrArg State.contexts hunits :)
  · rw [← hpart]
    exact State.part_updPart (s.clearPart p) p (fun t => t.certified ((s.clearPart p).sanitiseResult p)
      ((s.clearPart p).certificate p ((s.clearPart p).sanitiseResult p)))

/-- The certificate that the sanitised part holds is the one of R431. -/
theorem State.sanitised_certified (s : State) (p : Nat) :
    CertifiedBy s (s.sanitised p) p (s.clearPart p).nv.cairn.length ((s.clearPart p).certificate p ((s.clearPart p).sanitiseResult p)) := by
  obtain ⟨hmem, hnv, hstart, -, -, hpart⟩ := s.clearPart_frame p
  obtain ⟨hmem', -, -, -, -, -, -, hpart'⟩ := s.sanitised_frame p
  have hmode : (s.clearPart p).mode = s.mode := by
    rw [State.mode, hstart]
    rfl
  have hasked : ((s.clearPart p).part p).sanitise = (s.part p).sanitise := by
    rw [hpart]
    rfl
  have hresult : ((s.sanitised p).part p).sanitise.result = (s.clearPart p).sanitiseResult p := by
    rw [hpart']
    rfl
  obtain ⟨hhead, hserial, hpattern, hwhen, hbytes, hwords, hrest⟩ := windows_append (leBytes_length 8 _) (length_fit 0 16 _)
    (by rw [List.length_append, leBytes_length, leBytes_length]) (by simp only [List.length_append, leBytes_length]) (leBytes_length 8 _)
    (by rw [numBytes_length, List.length_map, List.length_range])
    ((s.clearPart p).certificate_eq p ((s.clearPart p).sanitiseResult p))
  rw [hasked] at hpattern hwhen
  rw [hmode] at hhead hbytes hwords
  refine ⟨?_, length_fit _ _ _, ?_, ?_, ?_, ?_, ?_, ?_, fun k hk => ?_, hrest⟩
  · rw [hpart']
    rfl
  · rw [hresult, hmem', ← hmem, State.sanitiseResult, hmode]
    rfl
  · rw [hresult]
    exact hhead
  · rw [hserial, hnv]
  · exact hpattern
  · rw [hwhen, hnv, hstart]
  · rw [hbytes, hmem', ← hmem]
  · rw [← List.drop_drop, hwords, numBytes_window (by rw [List.length_map, List.length_range]; exact hk), List.getElem_map, List.getElem_range, hmem',
      ← hmem]
    simp only [List.contains_iff_mem]

end Certificate

end Sys2Proof.Machine

namespace Sys2Proof.Proofs

open Sys2Proof.Machine

/-- A sanitise of a partition none of whose lines the host holds clears and certifies it. -/
theorem sanitiseDone_clears {s : State} {p : Nat} (hlive : s.isLive = true) (hp : p < nParts s.mode) (hasked : s.sanitising p = true)
    (hheld : ∀ k ∈ partStacks s.mode p, s.heldLines k = []) :
    ∃ t, exec (.sanitiseDone p) s = .next t ∧ (t.part p).sanitise.state = 2 ∧ PartCleared s t p ∧
      (∀ k ∈ partStacks s.mode p,
        ∃ n, t.mem.stack k = (s.mem.stack k).sanitised ⟨n, s.start.periods, s.threshold⟩ (s.part p).sanitise.pattern) ∧
      (∀ k, k ∉ partStacks s.mode p → k < 16 → t.mem.stack k = s.mem.stack k) ∧
      (∃ c, CertifiedBy s t p (s.clearPart p).nv.cairn.length c ∧
        ((s.clearPart p).nv.cairn.length < cairnSlots → ∃ r, t.nv.cairn = (s.clearPart p).nv.cairn ++ [r] ∧ r.type = 0x10 ∧
          r.payload = leBytes 1 p ++ leBytes 1 (t.part p).sanitise.result ++ List.replicate 6 0 ++ sha256 c)) := by
  have hnone : (partStacks s.mode p).flatMap s.heldLines = [] := List.flatMap_eq_nil_iff.mpr hheld
  obtain ⟨hmem, hcores, hengines, hcontexts, hrefill, hhost, hout, hpart⟩ := s.sanitised_frame p
  refine ⟨s.sanitised p, ?_, ?_, State.partCleared hmem hcores hengines hcontexts hrefill ⟨_, hpart⟩ hhost hout, fun k hk => ?_, fun k hk _ => ?_,
    _, s.sanitised_certified p, fun hroom => ?_⟩
  · rw [exec_sanitiseDone hlive hp hasked, hnone]
    rfl
  · rw [hpart]
    rfl
  · rw [hmem, State.clearMem, MemSys.stack_coresZero]
    exact MemSys.stacksSanitised_of_mem (partStacks_nodup _ _) hk _
  · rw [hmem, State.clearMem, MemSys.stack_coresZero]
    exact MemSys.stacksSanitised_of_notMem hk _
  · obtain ⟨r, hr, htype, hpayload, -⟩ := State.cairn_appends (s := (s.clearPart p).certified p) 0x10 (leBytes 1 p ++
      leBytes 1 ((s.clearPart p).sanitiseResult p) ++ List.replicate 6 0 ++
      sha256 ((s.clearPart p).certificate p ((s.clearPart p).sanitiseResult p))) hroom
    rw [hpart]
    exact ⟨r, hr, htype, hpayload⟩

/-- Settles O58: the clear reaches the memory and units of the partition alone, and the certificate is followed piece by piece. -/
theorem sanitiseClearsAndCertifies : Obligations.SanitiseClearsAndCertifies := by
  unfold Obligations.SanitiseClearsAndCertifies
  refine ⟨fun s p hlive hp hasked hheld => sanitiseDone_clears hlive hp hasked hheld, fun s p hlive hp hasked hheld => ?_⟩
  rw [exec_sanitiseDone hlive hp hasked, if_neg (by rw [List.isEmpty_iff]; exact hheld)]

end Sys2Proof.Proofs
end

section
/-! PROOFS. Housekeeping rounds and trips (R338, R403 to R409, R412, R413). -/

namespace Sys2Proof.Machine

/-! ## The governor's round -/

section Govern

variable {s : State} {rails : List (Nat × Nat)} {temps : List Int}

/-- The class A power step stays within 31. -/
theorem State.powerSteps_fst_le (s : State) (rails : List (Nat × Nat)) (h : s.power.nA ≤ 31) : (s.powerSteps rails).1 ≤ 31 := by
  unfold State.powerSteps
  dsimp only
  split
  · split
    · exact Nat.min_le_left ..
    · exact Nat.min_le_left ..
  split
  · exact Nat.le_trans (Nat.sub_le ..) h
  · exact h

/-- The thermal step of a C-die after a round, from its hottest reading (R409). -/
def State.dieThermal (s : State) (d : Nat) : Nat :=
  thermalStep (Table.get 0 s.power.tA d) (decide (degrees 100 ≤ dieHot s.power.eff d)) (decide (dieHot s.power.eff d ≤ degrees 97))

/-- The class A step of a C-die after a round: the greater of its power step and its thermal step (R409). -/
def State.dieStep (s : State) (rails : List (Nat × Nat)) (d : Nat) : Nat := max (s.powerSteps rails).1 (s.dieThermal d)

theorem State.dieStep_le {d : Nat} (rails : List (Nat × Nat)) (hn : s.power.nA ≤ 31) (ht : Table.get 0 s.power.tA d ≤ 31) : s.dieStep rails d ≤ 31 :=
  max_le (s.powerSteps_fst_le rails hn) (thermalStep_le _ _ ht)

theorem State.governSteps_stepA (s : State) (rails : List (Nat × Nat)) :
    (s.governSteps rails).power.stepA = (List.range 4).map (fun d => (d, s.dieStep rails d)) ∧
    (s.governSteps rails).power.limit = (List.range 4).map (fun d => (d, s.ilimA d * (32 - s.dieStep rails d))) := by
  unfold State.governSteps
  dsimp only
  rw [State.foldl_updEngine_power (fun n g => g.setPause (33 * n)), List.map_map, List.map_map]
  exact ⟨rfl, rfl⟩

/-- The limit of a C-die after a round is ILIM_A times 32 less its step. -/
theorem State.limit_governSteps (s : State) (rails : List (Nat × Nat)) {d : Nat} (hd : d < 4) :
    Table.get 0 (s.governSteps rails).power.stepA d = s.dieStep rails d ∧
    Table.get 0 (s.governSteps rails).power.limit d = s.ilimA d * (32 - Table.get 0 (s.governSteps rails).power.stepA d) := by
  have hstep : Table.get 0 (s.governSteps rails).power.stepA d = s.dieStep rails d := by
    rw [(s.governSteps_stepA rails).1, Table.get_map_range 0 _ hd]
  refine ⟨hstep, ?_⟩
  rw [hstep, (s.governSteps_stepA rails).2, Table.get_map_range 0 (fun d => s.ilimA d * (32 - s.dieStep rails d)) hd]

/-- The governor's steps are a new power state and the pauses that it gives the engines. -/
theorem State.governSteps_eq (s : State) (rails : List (Nat × Nat)) : ∃ (w : Power) (l : List (Nat × Nat)),
    s.governSteps rails = l.foldl (fun t v => t.updEngine v.1 (fun g => g.setPause (33 * v.2))) { s with power := w } ∧
      w.eff = s.power.eff ∧ w.suspect = s.power.suspect := by
  unfold State.governSteps
  obtain ⟨nA, nS⟩ := s.powerSteps rails
  exact ⟨_, _, rfl, rfl, rfl⟩

/-- The governor's steps reach the power state and the engines' pauses alone; readings stay. -/
theorem State.governSteps_frame (s : State) (rails : List (Nat × Nat)) :
    ∃ w es, s.governSteps rails = { s with power := w, engines := es } ∧ w.eff = s.power.eff ∧ w.suspect = s.power.suspect := by
  obtain ⟨w, l, hsteps, heff, hsuspect⟩ := s.governSteps_eq rails
  obtain ⟨es, hes⟩ := State.foldl_updEngine_eq Prod.fst (fun v (g : Engine) => g.setPause (33 * v.2)) l { s with power := w }
  exact ⟨w, es, hsteps.trans hes, heff, hsuspect⟩

end Govern

/-! ## The refresh period (R338) -/

section Refresh

variable {s : State}

/-- Whether a stack refreshes twice as often after a round. -/
def refreshAfter (hot : Int) (before : Bool) : Bool := if degrees 85 < hot then true else if hot < degrees 82 then false else before

theorem refreshAfter_iff (hot : Int) (before : Bool) :
    refreshAfter hot before = true ↔ degrees 85 < hot ∨ (degrees 82 ≤ hot ∧ before = true) := by
  unfold refreshAfter
  have hdeg : degrees 82 < degrees 85 := by decide
  split
  next h => simp [h]
  next h =>
    split
    next hcool => simp [h, Int.not_le.mpr hcool]
    next hwarm => simp [h, Int.not_lt.mp hwarm]

/-- A step of a fold over memory that sets one stack's refresh. -/
def MemSys.refreshStack (eff : List Int) (m : MemSys) (k : Nat) : MemSys :=
  if refreshAfter (dramHot eff k) (m.stack k).hotRefresh = (m.stack k).hotRefresh then m
  else m.setStack k { m.stack k with hotRefresh := refreshAfter (dramHot eff k) (m.stack k).hotRefresh }

theorem MemSys.hotRefresh_refreshStack (eff : List Int) (m : MemSys) (k : Nat) :
    ((m.refreshStack eff k).stack k).hotRefresh = refreshAfter (dramHot eff k) (m.stack k).hotRefresh := by
  unfold MemSys.refreshStack
  split
  next h => exact h.symm
  next => rw [MemSys.stack_setStack_same]

theorem MemSys.stack_refreshStack_ne (eff : List Int) (m : MemSys) {k j : Nat} (h : j ≠ k) : (m.refreshStack eff k).stack j = m.stack j := by
  unfold MemSys.refreshStack
  split
  next => rfl
  next => exact m.stack_setStack_ne _ h

theorem MemSys.stack_refreshStacks_notMem {eff : List Int} {l : List Nat} {k : Nat} (h : k ∉ l) (m : MemSys) :
    (l.foldl (MemSys.refreshStack eff) m).stack k = m.stack k :=
  List.foldlRecOn (motive := fun t : MemSys => t.stack k = m.stack k) _ _ rfl fun t ht j hj =>
    (t.stack_refreshStack_ne eff (fun he : k = j => h (he ▸ hj))).trans ht

theorem MemSys.hotRefresh_refreshStacks {eff : List Int} {l : List Nat} {k : Nat} (hl : l.Nodup) (h : k ∈ l) (m : MemSys) :
    ((l.foldl (MemSys.refreshStack eff) m).stack k).hotRefresh = refreshAfter (dramHot eff k) (m.stack k).hotRefresh := by
  induction l generalizing m with
  | nil => exact absurd h List.not_mem_nil
  | cons j l ih =>
    obtain ⟨hj, hl⟩ := List.nodup_cons.mp hl
    by_cases hkj : k = j
    · subst hkj
      rw [List.foldl_cons, MemSys.stack_refreshStacks_notMem hj, MemSys.hotRefresh_refreshStack]
    · rw [List.foldl_cons, ih hl ((List.mem_cons.mp h).resolve_left hkj), m.stack_refreshStack_ne eff hkj]

theorem State.setRefresh_eq (s : State) : s.setRefresh = { s with mem := (List.range 16).foldl (MemSys.refreshStack s.power.eff) s.mem } := rfl

theorem State.hotRefresh_setRefresh (s : State) {k : Nat} (hk : k < 16) :
    ((s.setRefresh.mem.stack k).hotRefresh = true ↔
      degrees 85 < dramHot s.power.eff k ∨ (degrees 82 ≤ dramHot s.power.eff k ∧ (s.mem.stack k).hotRefresh = true)) := by
  rw [s.setRefresh_eq, MemSys.hotRefresh_refreshStacks List.nodup_range (List.mem_range.mpr hk), refreshAfter_iff]

end Refresh

/-! ## A round that does not trip -/

section Round

variable {s : State} {temps : List Int} {rails : List (Nat × Nat)}

/-- The readings that a round takes, in the part whose power has been counted. -/
def State.roundTaken (s : State) (temps : List Int) (rails : List (Nat × Nat)) : State := (s.takeReadings temps rails).countPower rails

/-- A round that is taken changes the power state and the clock alone. -/
theorem State.roundTaken_eq (s : State) (temps : List Int) (rails : List (Nat × Nat)) :
    ∃ st w, s.roundTaken temps rails = { s with start := st, power := w } ∧ w.nA = s.power.nA ∧ w.nS = s.power.nS ∧ w.tA = s.power.tA ∧
      w.tS = s.power.tS ∧ w.suspect = suspectsAfter s temps ∧ w.eff = (List.range 172).map (effectiveOf temps (suspectsAfter s temps)) := by
  unfold State.roundTaken State.takeReadings
  dsimp only
  split <;> exact ⟨_, _, rfl, rfl, rfl, rfl, rfl, rfl, rfl⟩

/-- A round of the governor changes the power state, the engines' pauses, the refresh of the stacks and the start's histograms alone. -/
theorem State.governRound_eq (s : State) (temps : List Int) (rails : List (Nat × Nat)) :
    ∃ st w es, (s.takeReadings temps rails).governRound true rails =
      { s with start := st, power := w, engines := es, mem := (((s.roundTaken temps rails).governSteps rails).setRefresh).mem } := by
  obtain ⟨st, w, htaken, -⟩ := s.roundTaken_eq temps rails
  obtain ⟨w', es, hsteps, -⟩ := (s.roundTaken temps rails).governSteps_frame rails
  have hround : (s.takeReadings temps rails).governRound true rails = (((s.roundTaken temps rails).governSteps rails).setRefresh).countRound := rfl
  rw [hround, State.countRound, State.setRefresh_eq, hsteps, htaken]
  exact ⟨_, _, _, rfl⟩

end Round

/-! ## A trip (R412, R413) -/

section Trip

variable {s : State}

/-- What the loss of a stored write leaves: the end that the next start reports. -/
theorem State.loseFlash_prevEnd (s : State) : s.loseFlash.nv.prevEnd = s.nv.prevEnd := by
  have hold (key old : Nat) : (s.oldStored key old).nv.prevEnd = s.nv.prevEnd := by
    unfold State.oldStored
    repeat' split
    all_goals rfl
  have hrestore (key old : Nat) : (s.restoreStored key old).nv.prevEnd = s.nv.prevEnd := hold key old
  have hvoid (u : State) : u.cairnVoid.nv.prevEnd = u.nv.prevEnd := by
    unfold State.cairnVoid
    split <;> rfl
  unfold State.loseFlash
  split
  · rfl
  · simp only [apply_ite State.nv, apply_ite NonVolatile.prevEnd, hvoid, hrestore, ite_self]

/-- The part that shows a trip, before its record. -/
def State.tripShown (s : State) (n trip : Nat) : State :=
  { s with
    power := { s.power with trip := trip }
    start := { s.start with phase := .tripped (!(decide (96 ≤ n) && decide (n < 102))), thermtripN := false, startOk := false } }

/-- The part with the trip's record, before its dies stop. -/
def State.tripped (s : State) (n trip : Nat) : State :=
  { (s.tripShown n trip).cairn 0x0F (leBytes 4 trip) with nv := ((s.tripShown n trip).cairn 0x0F (leBytes 4 trip)).nv.ends 4 }

theorem State.tripPart_eq (s : State) (n : Nat) : ∃ trip, s.tripPart n =
    (if (decide (96 ≤ n) && decide (n < 102)) = true then (s.tripped n trip).loseFlash else s.tripped n trip).stopDies :=
  ⟨_, rfl⟩

theorem State.tripped_frame (s : State) (n trip : Nat) :
    (s.tripped n trip).start.phase = .tripped (!(decide (96 ≤ n) && decide (n < 102))) ∧ (s.tripped n trip).start.thermtripN = false ∧
    (s.tripped n trip).start.startOk = false ∧ (s.tripped n trip).nv.prevEnd = 4 ∧ (s.tripped n trip).out = s.out ∧
    (s.tripped n trip).dict = s.dict := by
  obtain ⟨hstart, hout, -⟩ := (s.tripShown n trip).cairn_frame 0x0F (leBytes 4 trip)
  unfold State.tripped
  dsimp only
  rw [hstart, hout, State.cairn_dict]
  exact ⟨rfl, rfl, rfl, rfl, rfl, rfl⟩

/-- The ledger of a tripped part ends in the trip's record. -/
theorem State.tripped_record (n trip : Nat) (hroom : s.nv.cairn.length < cairnSlots) :
    ∃ r, (s.tripped n trip).nv.cairn = s.nv.cairn ++ [r] ∧ r.type = 0x0F := by
  obtain ⟨r, hr, htype, -⟩ := State.cairn_appends (s := s.tripShown n trip) 0x0F (leBytes 4 trip) hroom
  exact ⟨r, hr, htype⟩

/-- The part whose dies a trip stops: the loss of a stored write keeps what the trip says. -/
theorem State.tripPart_frame (s : State) (n : Nat) :
    (s.tripPart n).start.phase = .tripped (!(decide (96 ≤ n) && decide (n < 102))) ∧ (s.tripPart n).start.thermtripN = false ∧
    (s.tripPart n).start.startOk = false ∧ (s.tripPart n).nv.prevEnd = 4 ∧ (s.tripPart n).host.link = .down ∧ (s.tripPart n).cores = [] ∧
    (s.tripPart n).engines = [] ∧ (s.tripPart n).contexts = [] ∧ (s.tripPart n).out = s.out ∧
    (s.nv.cairn.length < cairnSlots → s.dict.flash = none → ∃ r, (s.tripPart n).nv.cairn = s.nv.cairn ++ [r] ∧ r.type = 0x0F) := by
  obtain ⟨trip, htrip⟩ := s.tripPart_eq n
  obtain ⟨hphase, hball, hok, hend, hout, hdict⟩ := s.tripped_frame n trip
  have hlost := (s.tripped n trip).loseFlash_flashLost
  rw [htrip]
  generalize hu : (if (decide (96 ≤ n) && decide (n < 102)) = true then (s.tripped n trip).loseFlash else s.tripped n trip) = u
  have hstart : u.start = (s.tripped n trip).start := by
    rw [← hu]
    split
    · exact hlost.start
    · rfl
  have hprev : u.nv.prevEnd = 4 := by
    rw [← hu, ← hend]
    split
    · exact State.loseFlash_prevEnd _
    · rfl
  have hkept : u.out = s.out := by
    rw [← hu, ← hout]
    split
    · exact hlost.kept.2
    · rfl
  refine ⟨?_, ?_, ?_, hprev, rfl, rfl, rfl, rfl, hkept, fun hroom hflash => ?_⟩
  · exact (congrArg Startup.phase hstart).trans hphase
  · exact (congrArg Startup.thermtripN hstart).trans hball
  · exact (congrArg Startup.startOk hstart).trans hok
  · have hnone : (s.tripped n trip).loseFlash = s.tripped n trip := by
      rw [State.loseFlash, hdict, hflash]
    rw [hnone, ite_self] at hu
    rw [← hu]
    exact State.tripped_record n trip hroom

end Trip

end Sys2Proof.Machine

namespace Sys2Proof.Proofs

open Sys2Proof.Machine

/-- Settles O12: a round's governor keeps every step within 31, and a trip stops the dies with its record. -/
theorem housekeepingRoundsAndTrips : Obligations.HousekeepingRoundsAndTrips := by
  unfold Obligations.HousekeepingRoundsAndTrips
  refine ⟨fun temps rails s hlive ht hr htrip hnA hnS hsteps => ?_, fun temps rails s n hlive ht hr htrip => ?_⟩
  · rw [exec_housekeepingRound_of_governs (State.governs_of_live hlive) ht hr, htrip,
      show s.isLive = true by rw [State.isLive, hlive]; rfl]
    obtain ⟨st, w, htaken, hnA', hnS', htA', htS', hsuspect, heff⟩ := s.roundTaken_eq temps rails
    obtain ⟨st', w', es, hround⟩ := s.governRound_eq temps rails
    obtain ⟨w'', es', hgovern, heff', hsuspect'⟩ := (s.roundTaken temps rails).governSteps_frame rails
    have hpower : (s.roundTaken temps rails).power = w := by rw [htaken]
    have hmem : (s.roundTaken temps rails).mem = s.mem := by rw [htaken]
    have hilim (d : Nat) : (s.roundTaken temps rails).ilimA d = s.ilimA d := by
      rw [htaken]
      rfl
    have hreadings := (s.roundTaken temps rails).governSteps_readings rails
    have htook : (s.roundTaken temps rails).power.raw = temps ∧ (s.roundTaken temps rails).power.rails = rails := by
      rw [State.roundTaken, State.countPower_raw, State.countPower_rails, State.takeReadings_power]
      exact ⟨rfl, rfl⟩
    have hafter : ((s.takeReadings temps rails).governRound true rails).power = ((s.roundTaken temps rails).governSteps rails).power :=
      State.governRound_power _ _ _
    have hshown : ((s.roundTaken temps rails).governSteps rails).power.eff = w.eff ∧
        ((s.roundTaken temps rails).governSteps rails).power.suspect = w.suspect := by
      rw [hgovern, ← hpower]
      exact ⟨heff', hsuspect'⟩
    refine ⟨_, rfl, ?_, ?_, ?_, ?_, fun d hd => ?_, fun k hk => ⟨?_, ?_⟩, ?_⟩
    · rw [hafter, hreadings.1, htook.1]
    · rw [hafter, hreadings.2, htook.2]
    · rw [hafter, hshown.2, hsuspect]
    · rw [hafter, hshown.1, heff]
    · obtain ⟨hstep, hlimit⟩ := (s.roundTaken temps rails).limit_governSteps rails hd
      rw [hafter, hlimit, hilim, hstep]
      exact ⟨State.dieStep_le rails (by rw [hpower, hnA']; exact hnA) (by rw [hpower, htA']; exact (hsteps d).1), rfl⟩
    · rw [hafter, State.stepS_governSteps _ _ hk]
      exact State.stackStep_le rails (by rw [hpower, hnS']; exact hnS) (by rw [hpower, htS']; exact (hsteps k).2)
    · have hrefresh := ((s.roundTaken temps rails).governSteps rails).hotRefresh_setRefresh hk
      have hmem' : ((s.roundTaken temps rails).governSteps rails).mem = s.mem := by rw [hgovern, ← hmem]
      rw [hmem'] at hrefresh
      rw [hafter, hround]
      exact hrefresh
    · rw [hround]
      exact ⟨rfl, rfl, rfl, rfl, rfl, rfl, rfl⟩
  · rw [exec_housekeepingRound_of_governs (State.governs_of_live hlive) ht hr, htrip]
    obtain ⟨st, w, htaken⟩ : ∃ st w, s.takeReadings temps rails = { s with start := st, power := w } := by
      unfold State.takeReadings
      dsimp only
      split <;> exact ⟨_, _, rfl⟩
    have hframe := (s.takeReadings temps rails).tripPart_frame n
    rw [htaken] at hframe ⊢
    exact ⟨_, rfl, hframe⟩

end Sys2Proof.Proofs
end

section
/-! PROOFS. What the end of kernels and starts leaves of contexts, functions, the host port and the scheduler (R214, R216, R248, R364 to R367). -/

namespace Sys2Proof.Machine

/-! ## What is kept -/

/-- A context's registers: EN and a pending start may go, and the rest stays. -/
structure CtxKept (c d : Context) : Prop where
  en : c.en = false → d.en = false
  pending : c.pending = none → d.pending = none
  regs : d.kstart = c.kstart ∧ d.prio = c.prio ∧ d.cores = c.cores ∧ d.units = c.units

/-- A function's rings, control and state but for its counters and QUIESCING. -/
structure FuncKept (v w : Func) : Prop where
  state : w.disabled = v.disabled ∧ w.d3hot = v.d3hot
  rings : w.rq = v.rq ∧ w.cq = v.cq
  regs : w.ctl = v.ctl ∧ w.idrange = v.idrange

/-- The host port's link, window, tracked lines and waits. -/
structure HostKept (h k : HostPort) : Prop where
  link : k.link = h.link ∧ k.width = h.width ∧ k.ideMem = h.ideMem ∧ k.ideIo = h.ideIo
  window : k.hdmOn = h.hdmOn ∧ k.filter = h.filter
  waits : k.waits = h.waits

/-- Where a partition's scheduler stands. -/
structure PartKept (t u : Part) : Prop where
  work : u.jobs = t.jobs ∧ u.owed = t.owed ∧ u.phase = t.phase
  asked : u.slots = t.slots ∧ u.reqs = t.reqs

/-- `t` keeps of `s` contexts, functions, host port and the start, and each partition is as `R` says. -/
structure Kept (R : Part → Part → Prop) (s t : State) : Prop where
  ctxs : ∀ p x, CtxKept (s.context p x) (t.context p x)
  funcs : ∀ f, FuncKept (s.func f) (t.func f)
  host : HostKept s.host t.host
  start : t.start = s.start
  parts : ∀ p, R (s.part p) (t.part p)

/-- Kept, with every scheduler where it stands. -/
abbrev Still : State → State → Prop := Kept PartKept

theorem CtxKept.refl (c : Context) : CtxKept c c := ⟨id, id, rfl, rfl, rfl, rfl⟩
theorem FuncKept.refl (v : Func) : FuncKept v v := ⟨⟨rfl, rfl⟩, ⟨rfl, rfl⟩, rfl, rfl⟩
theorem HostKept.refl (h : HostPort) : HostKept h h := ⟨⟨rfl, rfl, rfl, rfl⟩, ⟨rfl, rfl⟩, rfl⟩
theorem PartKept.refl (t : Part) : PartKept t t := ⟨⟨rfl, rfl, rfl⟩, rfl, rfl⟩

theorem CtxKept.trans {c d e : Context} (h : CtxKept c d) (g : CtxKept d e) : CtxKept c e :=
  ⟨fun he => g.en (h.en he), fun he => g.pending (h.pending he), g.regs.1.trans h.regs.1, g.regs.2.1.trans h.regs.2.1,
    g.regs.2.2.1.trans h.regs.2.2.1, g.regs.2.2.2.trans h.regs.2.2.2⟩

theorem FuncKept.trans {u v w : Func} (h : FuncKept u v) (g : FuncKept v w) : FuncKept u w :=
  ⟨⟨g.state.1.trans h.state.1, g.state.2.trans h.state.2⟩, ⟨g.rings.1.trans h.rings.1, g.rings.2.trans h.rings.2⟩, g.regs.1.trans h.regs.1,
    g.regs.2.trans h.regs.2⟩

theorem HostKept.trans {u v w : HostPort} (h : HostKept u v) (g : HostKept v w) : HostKept u w :=
  ⟨⟨g.link.1.trans h.link.1, g.link.2.1.trans h.link.2.1, g.link.2.2.1.trans h.link.2.2.1, g.link.2.2.2.trans h.link.2.2.2⟩,
    ⟨g.window.1.trans h.window.1, g.window.2.trans h.window.2⟩, g.waits.trans h.waits⟩

theorem PartKept.trans {u v w : Part} (h : PartKept u v) (g : PartKept v w) : PartKept u w :=
  ⟨⟨g.work.1.trans h.work.1, g.work.2.1.trans h.work.2.1, g.work.2.2.trans h.work.2.2⟩, g.asked.1.trans h.asked.1, g.asked.2.trans h.asked.2⟩

theorem Kept.refl {R : Part → Part → Prop} (hR : ∀ t, R t t) (s : State) : Kept R s s :=
  ⟨fun _ _ => .refl _, fun _ => .refl _, .refl _, rfl, fun _ => hR _⟩

theorem Kept.mono {R S : Part → Part → Prop} {s t : State} (h : Kept R s t) (hRS : ∀ t u, R t u → S t u) : Kept S s t :=
  ⟨h.ctxs, h.funcs, h.host, h.start, fun p => hRS _ _ (h.parts p)⟩

theorem Kept.compose {R : Part → Part → Prop} (hR : ∀ t u v, R t u → R u v → R t v) {s t u : State} (h : Kept R s t) (g : Kept R t u) : Kept R s u :=
  ⟨fun p x => (h.ctxs p x).trans (g.ctxs p x), fun f => (h.funcs f).trans (g.funcs f), h.host.trans g.host, g.start.trans h.start,
    fun p => hR _ _ _ (h.parts p) (g.parts p)⟩

namespace Still

theorem refl (s : State) : Still s s := Kept.refl PartKept.refl s

theorem trans {s t u : State} (h : Still s t) (g : Still t u) : Still s u := Kept.compose (fun _ _ _ h g => h.trans g) h g

theorem foldl {α : Type} {f : State → α → State} (h : ∀ s a, Still s (f s a)) (l : List α) (s : State) : Still s (l.foldl f s) :=
  List.foldlRecOn (motive := fun t => Still s t) _ _ (refl s) fun t ht a _ => ht.trans (h t a)

/-- A change of neither contexts, host port, start nor partitions. -/
theorem of_same {s t : State} (hctx : t.contexts = s.contexts) (hhost : t.host = s.host) (hstart : t.start = s.start) (hparts : t.parts = s.parts) :
    Still s t where
  ctxs := fun p x => by rw [State.context, State.context, hctx]; exact .refl _
  funcs := fun f => by rw [State.func, State.func, hhost]; exact .refl _
  host := by rw [hhost]; exact .refl _
  start := hstart
  parts := fun p => by rw [State.part, State.part, hparts]; exact .refl _

theorem ite {c : Prop} [Decidable c] {s t u : State} (ht : Still s t) (hu : Still s u) : Still s (if c then t else u) := by
  split
  · exact ht
  · exact hu

end Still

section Fields

variable (s : State)

theorem State.updPart_still (p : Nat) {f : Part → Part} (h : PartKept (s.part p) (f (s.part p))) : Still s (s.updPart p f) where
  ctxs := fun _ _ => .refl _
  funcs := fun _ => .refl _
  host := .refl _
  start := rfl
  parts := fun q => by
    by_cases hq : q = p
    · rw [hq, State.part_updPart]
      exact h
    · rw [State.part_updPart_ne _ _ hq]
      exact .refl _

theorem State.updContext_still (p x : Nat) {f : Context → Context} (h : CtxKept (s.context p x) (f (s.context p x))) :
    Still s (s.updContext p x f) where
  ctxs := fun q y => by
    by_cases hqy : 64 * q + y = 64 * p + x
    · rw [State.context, State.context, hqy, State.updContext, State.setContext, Table.get_set_same]
      exact h
    · rw [State.updContext, State.context, State.context, State.setContext, Table.get_set_ne _ _ _ hqy]
      exact .refl _
  funcs := fun _ => .refl _
  host := .refl _
  start := rfl
  parts := fun _ => .refl _

theorem State.updFunc_still (n : Nat) {f : Func → Func} (h : FuncKept (s.func n) (f (s.func n))) : Still s (s.updFunc n f) where
  ctxs := fun _ _ => .refl _
  funcs := fun m => by
    by_cases hm : m = n
    · rw [hm, State.func_updFunc]
      exact h
    · rw [State.func_updFunc_ne _ _ hm]
      exact .refl _
  host := ⟨⟨rfl, rfl, rfl, rfl⟩, ⟨rfl, rfl⟩, rfl⟩
  start := rfl
  parts := fun _ => .refl _

theorem State.host_still {h : HostPort} (hfuncs : h.funcs = s.host.funcs) (hkept : HostKept s.host h) : Still s { s with host := h } where
  ctxs := fun _ _ => .refl _
  funcs := fun f => by
    rw [State.func, State.func, show ({ s with host := h } : State).host.funcs = s.host.funcs from hfuncs]
    exact .refl _
  host := hkept
  start := rfl
  parts := fun _ => .refl _

theorem State.updCore_still (c : Nat) (f : Core → Core) : Still s (s.updCore c f) := .of_same rfl rfl rfl rfl
theorem State.updEngine_still (k : Nat) (f : Engine → Engine) : Still s (s.updEngine k f) := .of_same rfl rfl rfl rfl
theorem State.emit_still (o : Out) : Still s (s.emit o) := .of_same rfl rfl rfl rfl

theorem State.irq_still (fn vec : Nat) : Still s (s.irq fn vec) := by
  obtain ⟨o, ho⟩ := s.irq_eq fn vec
  rw [ho]
  exact .of_same rfl rfl rfl rfl

theorem State.cairn_still (type : Nat) (payload : List Byte) : Still s (s.cairn type payload) := by
  obtain ⟨nv, hnv⟩ := s.cairn_eq type payload
  rw [hnv]
  exact .of_same rfl rfl rfl rfl

end Fields

/-! ## Memory, snoops and units under test -/

section Memory

variable (s : State)

theorem State.loseStack_still (k : Nat) : Still s (s.loseStack k) := by
  unfold State.loseStack
  dsimp only
  refine .ite ?_ (.refl s)
  exact (s.updPart_still (partOfStack s.mode k) (f := fun t => t.loseTests [4, 5, 6, 7] [1] k) ⟨⟨rfl, rfl, rfl⟩, rfl, rfl⟩).trans
    (.of_same rfl rfl rfl rfl)

theorem State.withMem_still (m : MemSys) (cause : Nat) : Still s (s.withMem m cause) := by
  unfold State.withMem
  dsimp only
  have hlost : Still s ((newFailures s.mem m).foldl (fun s f =>
      (s.cairn 0x0C [BitVec.ofNat 8 f.1, BitVec.ofNat 8 f.2, BitVec.ofNat 8 cause]).loseStack f.1) { s with mem := m }) := by
    refine Still.trans (t := { s with mem := m }) (.of_same rfl rfl rfl rfl) (Still.foldl (fun s f => ?_) _ _)
    exact (s.cairn_still 0x0C [BitVec.ofNat 8 f.1, BitVec.ofNat 8 f.2, BitVec.ofNat 8 cause]).trans (State.loseStack_still _ f.1)
  exact .ite hlost (hlost.trans (.of_same rfl rfl rfl rfl))

theorem State.sendSnoops_still (l : List (Nat × Bool)) : Still s (s.sendSnoops l) := by
  refine Still.foldl (fun s x => ?_) _ _
  refine .ite (.refl s) ?_
  exact (s.host_still (h := { s.host with snoops := s.host.snoops ++ [x] }) rfl ⟨⟨rfl, rfl, rfl, rfl⟩, ⟨rfl, rfl⟩, rfl⟩).trans (State.emit_still _ _)

theorem State.takeWork_still (w : Wk) : Still s (s.takeWork w) := by
  unfold State.takeWork
  refine Still.trans ?_ (.foldl (fun s d => s.updCore_still _ _) _ _)
  exact ((s.withMem_still _ _).trans (State.sendSnoops_still _ _)).trans
    (.ite (.refl _) (State.host_still _ rfl ⟨⟨rfl, rfl, rfl, rfl⟩, ⟨rfl, rfl⟩, rfl⟩))

theorem State.countKv_still (p : Nat) (x : KvWork) : Still s (s.countKv p x) := by
  obtain ⟨es, hes⟩ := s.countKv_eq p x
  rw [hes]
  exact (s.updPart_still p (f := Part.poolsMoved x) ⟨⟨rfl, rfl, rfl⟩, rfl, rfl⟩).trans (.of_same rfl rfl rfl rfl)

theorem State.kvDo_still (p : Nat) (x : KvWork) : Still s (s.kvDo p x).1 := by
  unfold State.kvDo
  dsimp only
  split
  · exact s.takeWork_still _
  · exact (s.takeWork_still _).trans (State.countKv_still _ _ _)

theorem State.updTu_still (p : Nat) (cal : Bool) (f : TestUnit → TestUnit) : Still s (s.updTu p cal f) :=
  s.updPart_still p (by cases cal <;> exact ⟨⟨rfl, rfl, rfl⟩, rfl, rfl⟩)

theorem State.holdUnit_still (k : UnitKind) (u : Nat) (on : Bool) : Still s (s.holdUnit k u on) := by
  cases k <;> exact .of_same rfl rfl rfl rfl

theorem State.startPiece_still (p : Nat) (cal : Bool) : Still s (s.startPiece p cal) := by
  unfold State.startPiece
  dsimp only
  split
  · exact .ite (s.updTu_still _ _ _) (.ite ((s.updTu_still _ _ _).trans (State.holdUnit_still _ _ _ _)) (.refl s))
  · exact .refl s

theorem State.startPieces_still (p : Nat) : Still s (s.startPieces p) :=
  .ite ((s.startPiece_still p false).trans (State.startPiece_still _ p true)) (.refl s)

theorem State.startPiecesIdle_still (p : Nat) : Still s (s.startPiecesIdle p) := .ite (.refl s) (s.startPieces_still p)

end Memory

/-! ## Kernels and starts that end -/

section Ends

variable (s : State)

theorem State.writeReports_still (p cores : Nat) (report : BitVec 256) : Still s (s.writeReports p cores report) := by
  obtain ⟨cs, hcs⟩ := s.writeReports_eq p cores report
  rw [hcs]
  exact .of_same rfl rfl rfl rfl

theorem State.countAborted_still (p status : Nat) : Still s (s.countAborted p status) :=
  .ite ((s.updFunc_still p ⟨⟨rfl, rfl⟩, ⟨rfl, rfl⟩, rfl, rfl⟩).trans (State.irq_still _ _ _)) (.refl s)

theorem State.hostPut_still (req : HostReq) (p fn addr : Nat) (data : List Byte) : Still s (s.hostPut req p fn addr data) :=
  (s.updPart_still p ⟨⟨rfl, rfl, rfl⟩, rfl, rfl⟩).trans (State.emit_still _ _)

theorem State.stepFail_still (p status : Nat) : Still s (s.stepFail p status) := s.updPart_still p ⟨⟨rfl, rfl, rfl⟩, rfl, rfl⟩

theorem State.stepReport_still (p status : Nat) : Still s (s.stepReport p status) := by
  have hreport : Still s (s.updPart p (fun t => { t with kpending := false, lastFault := if status = 0 then t.lastFault else status })) :=
    s.updPart_still p ⟨⟨rfl, rfl, rfl⟩, rfl, rfl⟩
  exact .ite (hreport.trans (State.stepFail_still _ _ _)) hreport

theorem State.deliver_still (p x : Nat) (step : Bool) (status : Nat) (report : BitVec 256) : Still s (s.deliver p x step status report) := by
  unfold State.deliver
  refine .ite (s.stepReport_still p status) ?_
  dsimp only
  have htold : Still s ((s.setContext p x { s.context p x with kreport := report, kends := ((s.context p x).kends + 1) % 2 ^ 32 }).updPart p
      (fun t => { t with wake := t.wake || (t.srvEn && t.srvCtx == x && t.phase != .running) })) :=
    (s.updContext_still p x (f := fun c => { c with kreport := report, kends := (c.kends + 1) % 2 ^ 32 }) ⟨id, id, rfl, rfl, rfl, rfl⟩).trans
      (State.updPart_still _ p ⟨⟨rfl, rfl, rfl⟩, rfl, rfl⟩)
  refine .ite htold (htold.trans (Still.trans ?_ (State.irq_still _ _ _)))
  exact .ite (State.hostPut_still _ _ _ _ _ _) (.refl _)

theorem State.endStart_still (p x : Nat) (st : Start) (status : Nat) : Still s (s.endStart p x st status) :=
  ((s.countAborted_still p status).trans (State.writeReports_still _ _ _ _)).trans (State.deliver_still _ _ _ _ _ _)

theorem State.settle_still (c q : Nat) : Still s (s.settle c q) := by
  unfold State.settle
  split
  · exact .refl s
  · exact .ite (s.updCore_still _ _) (.refl s)

theorem State.stopQueues_still (kd : BitVec 512) : Still s (s.stopQueues kd) :=
  .foldl (fun _ c => .foldl (fun s q => s.settle_still c q) _ _) _ _

theorem State.triggerSave_still (p x : Nat) (hold : Bool) (status : Nat) : Still s (s.triggerSave p x hold status) := by
  unfold State.triggerSave
  dsimp only
  split
  · exact .refl s
  next k _ =>
    refine .ite (.refl s) ?_
    split
    · exact (s.updContext_still p x (f := fun t => { t with state := .saving, trigger := some (hold, status) }) ⟨id, id, rfl, rfl, rfl, rfl⟩).trans
        (State.stopQueues_still _ _)
    · split
      · exact s.updContext_still p x (f := fun t => { t with trigger := some (hold, status) }) ⟨id, id, rfl, rfl, rfl, rfl⟩
      next h st _ => exact s.updContext_still p x (f := fun t => { t with trigger := some (h || hold, st) }) ⟨id, id, rfl, rfl, rfl, rfl⟩
    · exact .refl s

theorem State.preemptAll_still (p : Nat) : Still s (s.preemptAll p) := by
  refine .foldl (fun s x => ?_) _ _
  dsimp only
  split
  · refine .foldl (fun s y => ?_) _ _
    split
    · exact .ite (s.triggerSave_still _ _ _ _) (.refl s)
    · exact .refl s
  · exact .refl s

theorem State.kernelFault_still (p x : Nat) (f : FaultInfo) : Still s (s.kernelFault p x f) := s.updContext_still p x ⟨id, id, rfl, rfl, rfl, rfl⟩

theorem State.keepCounts_still (p x : Nat) (listed : List Nat) (core : Nat → Core) : Still s (s.keepCounts p x listed core) :=
  s.updContext_still p x (f := fun t => { t with
    counts := Table.setAll t.counts (listed.flatMap (fun c => (List.range 4).map (fun q => (4 * c + q, ((core c).queue q).count)))) })
    ⟨id, id, rfl, rfl, rfl, rfl⟩

theorem State.dropPartial_still (p x : Nat) : Still s (s.dropPartial p x) :=
  Still.trans (.foldl (fun s _ => s.updCore_still _ _) _ s) (.of_same rfl rfl rfl rfl)

theorem State.quiesceDone_still : Still s s.quiesceDone := by
  refine .foldl (fun s fn => ?_) _ _
  dsimp only
  exact .ite (.refl s) (.ite (.refl s) ((s.updFunc_still fn ⟨⟨rfl, rfl⟩, ⟨rfl, rfl⟩, rfl, rfl⟩).trans (State.irq_still _ _ _)))

end Ends

/-! ## Belay arrivals under way -/

section Arrivals

variable (s : State)

theorem State.updArrivals_still (p x c q : Nat) (f : List Arrival → List Arrival) : Still s (s.updArrivals p x c q f) :=
  .ite (s.updCore_still _ _) (.ite (s.updContext_still p x ⟨id, id, rfl, rfl, rfl, rfl⟩) (.refl s))

theorem State.tablesOf_still (p n g c : Nat) : Still s (s.tablesOf p n g c) :=
  .foldl (fun s x => .ite (.foldl (fun s q => s.updArrivals_still p x c q _) _ s) (.refl s)) _ _

theorem State.deliverRelease_still (p c : Nat) : Still s (s.deliverRelease p c) := by
  unfold State.deliverRelease
  split
  · exact .refl s
  next n g _ =>
    exact (s.updPart_still p (f := fun t => { t with releases := t.releases.erase (c, n, g) }) ⟨⟨rfl, rfl, rfl⟩, rfl, rfl⟩).trans
      (State.tablesOf_still _ _ _ _ _)

theorem State.deliverAll_still (p c : Nat) : Still s (s.deliverAll p c) := .foldl (fun s _ => s.deliverRelease_still p c) _ _

theorem State.releaseBelay_still (p n : Nat) : Still s (s.releaseBelay p n) := by
  unfold State.releaseBelay
  dsimp only
  exact s.updPart_still p ⟨⟨rfl, rfl, rfl⟩, rfl, rfl⟩

theorem State.arriveAt_still (p c q n x : Nat) : Still s (s.arriveAt p c q n x) := by
  have htaken : Still s (s.updPart p (fun t => { t with arrivalsIn := t.arrivalsIn.erase (c, q, n, x) })) :=
    s.updPart_still p ⟨⟨rfl, rfl, rfl⟩, rfl, rfl⟩
  unfold State.arriveAt
  dsimp only
  refine htaken.trans ?_
  refine .ite ((State.updArrivals_still _ _ _ _ _ _).trans (State.kernelFault_still _ _ _ _)) ?_
  have hreply (u : State) (f : List Arrival → List Arrival) (b : Belay) :
      Still u (((u.deliverAll p c).updArrivals p x c q f).updPart p (fun t => { t with belays := Table.set t.belays n b })) :=
    ((u.deliverAll_still p c).trans (State.updArrivals_still _ p x c q f)).trans (State.updPart_still _ p ⟨⟨rfl, rfl, rfl⟩, rfl, rfl⟩)
  exact .ite ((hreply _ _ _).trans (State.releaseBelay_still _ _ _)) (hreply _ _ _)

theorem State.flushArrivals_still (p x : Nat) : Still s (s.flushArrivals p x) := .foldl (fun s _ => s.arriveAt_still _ _ _ _ _) _ _

end Arrivals

/-! ## The end of a context's kernel and start -/

section Cancel

variable (s : State)

omit s in
/-- The use of a kernel that ends is counted, its step's or its identity's. -/
theorem Part.settle_kept (t : Part) (step : Bool) (ident : Nat) (use : List Nat) (n : Nat) :
    PartKept t ((if step then { t with stepUse := addCounters t.stepUse use } else t.charge ident use).settle n) := by
  cases step <;> exact ⟨⟨rfl, rfl, rfl⟩, rfl, rfl⟩

theorem State.endKernel_still (p x : Nat) (k : Kernel) (cycles : Nat) : Still s (s.endKernel p x k cycles) := by
  unfold State.endKernel
  dsimp only
  refine Still.trans ?_ (State.quiesceDone_still _)
  refine Still.trans ?_ (State.preemptAll_still _ _)
  refine Still.trans ?_ (State.deliver_still _ _ _ _ _ _)
  refine Still.trans ?_ (State.updPart_still _ p (Part.settle_kept _ k.step _ _ _))
  refine Still.trans ?_ (State.countAborted_still _ _ _)
  refine Still.trans ?_ (State.writeReports_still _ _ _ _)
  refine Still.trans ?_ (State.updContext_still _ p x (f := fun t => { t with state := .idle, kernel := none, trigger := none, savedCores := [] })
    ⟨id, id, rfl, rfl, rfl, rfl⟩)
  have hcores (u : State) (f : Core → Core) (l : List Nat) : Still u (l.foldl (fun s c => s.updCore c f) u) :=
    .foldl (fun s _ => s.updCore_still _ _) _ _
  refine Still.trans ?_ (.ite (hcores _ _ _) (.ite (hcores _ _ _) (.refl _)))
  refine Still.trans ?_ (State.keepCounts_still _ _ _ _ _)
  exact (s.dropPartial_still p x).trans (.of_same rfl rfl rfl rfl)

theorem State.finishKernel_still (p x cycles : Nat) : Still s (s.finishKernel p x cycles) := by
  unfold State.finishKernel
  dsimp only
  split
  · exact ((s.flushArrivals_still p x).trans (State.endKernel_still _ _ _ _ _)).trans (State.startPiecesIdle_still _ _)
  · exact s.flushArrivals_still p x

/-- A cancelled context's start is gone, and nothing begins another. -/
theorem State.cancelContext_still (p x status startStatus : Nat) :
    Still s (s.cancelContext p x status startStatus) ∧ ((s.cancelContext p x status startStatus).context p x).pending = none := by
  have hstart : ∃ u, (match (s.context p x).pending with
      | some st => (s.updContext p x (fun t => { t with pending := none })).endStart p x st startStatus
      | none => s) = u ∧ Still s u ∧ (u.context p x).pending = none := by
    cases hpending : (s.context p x).pending with
    | none => exact ⟨s, rfl, .refl s, hpending⟩
    | some st =>
      have hgone : Still s (s.updContext p x (fun t => { t with pending := none })) := s.updContext_still p x ⟨id, fun _ => rfl, rfl, rfl, rfl, rfl⟩
      have hended := State.endStart_still (s.updContext p x (fun t => { t with pending := none })) p x st startStatus
      refine ⟨_, rfl, hgone.trans hended, (hended.ctxs p x).pending ?_⟩
      rw [State.updContext, State.context, State.setContext, Table.get_set_same]
  obtain ⟨u, hu, hstill, hnone⟩ := hstart
  have hcancel : s.cancelContext p x status startStatus = (match (u.context p x).kernel with
      | none => u
      | some _ => if ((u.kernelFault p x { status := status }).context p x).state == .saved ||
          ((u.kernelFault p x { status := status }).context p x).state == .held then
            (u.kernelFault p x { status := status }).finishKernel p x (u.kernelFault p x { status := status }).ownCycles
          else u.kernelFault p x { status := status }) := by
    rw [← hu]
    rfl
  have hend : Still u (s.cancelContext p x status startStatus) := by
    rw [hcancel]
    split
    · exact .refl u
    · exact .ite ((u.kernelFault_still p x _).trans (State.finishKernel_still _ _ _ _)) (u.kernelFault_still p x _)
  exact ⟨hstill.trans hend, (hend.ctxs p x).pending hnone⟩

theorem State.clearEn_still (p : Nat) : Still s (s.clearEn p) :=
  .ite (s.updPart_still p ⟨⟨rfl, rfl, rfl⟩, rfl, rfl⟩)
    ((s.updPart_still p (f := fun t => { t with srvEn := false, srvOff := false }) ⟨⟨rfl, rfl, rfl⟩, rfl, rfl⟩).trans (State.startPieces_still _ _))

theorem State.stopServing_still (p : Nat) : Still s (s.stopServing p) := by
  have hoff := s.clearEn_still p
  exact .ite (hoff.trans (State.stepFail_still _ _ _)) hoff

end Cancel

/-! ## A boundary with nothing to do -/

/-- A piece of a boundary that does nothing while no slot is open. -/
def Job.harmless : Job → Prop
  | .lateCancels | .disabled | .settle | .rejoins | .hostParks | .returns | .publish | .budgets | .assemble | .last => True
  | .write l => l = []
  | _ => False

/-- A partition whose scheduler has nothing to do but such pieces. -/
structure Part.Empty (t : Part) : Prop where
  owed : t.owed = []
  slots : t.slots = []
  reqs : t.reqs = []
  jobs : ∀ j ∈ t.jobs, j.harmless

/-- A partition in a step, or whose scheduler has nothing to do. -/
def Part.Calm (t : Part) : Prop := (t.owed = [] ∧ t.phase = .running ∧ t.jobs = []) ∨ t.Empty

/-- Kept, with every calm scheduler calm. -/
abbrev Quiet : State → State → Prop := Kept (fun t u => t.Calm → u.Calm)

theorem PartKept.empty {t u : Part} (h : PartKept t u) (he : t.Empty) : u.Empty :=
  ⟨h.work.2.1.trans he.owed, h.asked.1.trans he.slots, h.asked.2.trans he.reqs, by rw [h.work.1]; exact he.jobs⟩

theorem PartKept.calm {t u : Part} (h : PartKept t u) (hc : t.Calm) : u.Calm :=
  hc.imp (fun hr => ⟨h.work.2.1.trans hr.1, h.work.2.2.trans hr.2.1, h.work.1.trans hr.2.2⟩) h.empty

theorem Still.quiet {s t : State} (h : Still s t) : Quiet s t := h.mono (fun _ _ => PartKept.calm)

theorem Quiet.trans {s t u : State} (h : Quiet s t) (g : Quiet t u) : Quiet s u := Kept.compose (fun _ _ _ h g hc => g (h hc)) h g

section Boundary

variable {s : State} {p : Nat}

theorem State.updPart_quiet (s : State) (p : Nat) {f : Part → Part} (h : (f (s.part p)).Calm) : Quiet s (s.updPart p f) where
  ctxs := fun _ _ => .refl _
  funcs := fun _ => .refl _
  host := .refl _
  start := rfl
  parts := fun q => by
    by_cases hq : q = p
    · rw [hq, State.part_updPart]
      exact fun _ => h
    · rw [State.part_updPart_ne _ _ hq]
      exact id

theorem State.openSlots_of_empty (h : (s.part p).slots = []) : s.openSlots p = [] := by rw [State.openSlots, h]; rfl

theorem State.slot_of_empty (h : (s.part p).slots = []) (k : Nat) : s.slot p k = {} := by rw [State.slot, h]; rfl

theorem State.labClear_still (s : State) (p : Nat) : Still s (s.labClear p) := .foldl (fun s _ => s.updEngine_still _ _) _ _

theorem State.loadBudgets_still (s : State) (p : Nat) : Still s (s.loadBudgets p) := by
  unfold State.loadBudgets
  dsimp only
  exact s.updPart_still p (by split <;> exact ⟨⟨rfl, rfl, rfl⟩, rfl, rfl⟩)

theorem Part.refillEpochs_kept (t : Part) (ipp : Nat) : PartKept t (t.refillEpochs ipp) := by
  unfold Part.refillEpochs
  dsimp only
  split
  · exact .refl t
  · exact ⟨⟨rfl, rfl, rfl⟩, rfl, rfl⟩

theorem Bd.kvOn_still (b : Bd) (p : Nat) (f : Env → KvWork → KvWork) : Still b.s (b.kvOn p f).s := b.s.kvDo_still p _

theorem Bd.settle_still (b : Bd) (p : Nat) : Still b.s (b.settle p).s := by
  unfold Bd.settle Bd.on
  dsimp only
  refine Still.trans (t := { b.s with mem := { b.s.mem with fresh := b.s.mem.fresh + 1 } }) (.of_same rfl rfl rfl rfl) ?_
  refine Still.trans ?_ (State.quiesceDone_still _)
  exact State.updPart_still _ p (f := fun t => t.settle b.s.mem.fresh) ⟨⟨rfl, rfl, rfl⟩, rfl, rfl⟩

theorem Bd.budgets_still (b : Bd) (p : Nat) : Still b.s (b.budgets p).s := by
  unfold Bd.budgets Bd.on
  dsimp only
  exact (b.s.loadBudgets_still p).trans (State.updPart_still _ p (Part.refillEpochs_kept _ _))

/-- A pass over no slots chooses nothing. -/
theorem Bd.passes_of_empty {b : Bd} (h : (b.s.part p).slots = []) : (b.passes p).list = [] ∧ (b.passes p).short = [] ∧ (b.passes p).b = b := by
  unfold Bd.passes
  dsimp only
  rw [h]
  split <;> exact ⟨rfl, rfl, rfl⟩

theorem Bd.attempt_of_empty {b : Bd} (h : (b.s.part p).slots = []) : b.attempt p = (([], false), b) := by
  obtain ⟨hlist, hshort, hb⟩ := Bd.passes_of_empty h
  unfold Bd.attempt
  dsimp only
  rw [hlist, hshort, hb]
  have hmark : b.s.markBudgets p [] = b.s := by
    rw [State.markBudgets, State.openSlots_of_empty h]
    rfl
  dsimp only
  rw [Bd.on, hmark]

/-- A harmless piece changes no scheduler's state, and brings harmless pieces alone. -/
theorem Bd.job_still {b : Bd} {j : Job} (h : (b.s.part p).slots = []) (hj : j.harmless) :
    Still b.s (b.job p j).2.s ∧ ∀ i ∈ (b.job p j).1, i.harmless := by
  have hopen := State.openSlots_of_empty h
  cases j with
  | lateCancels =>
    refine ⟨.refl _, fun i hi => ?_⟩
    rw [show (b.job p .lateCancels).1 = (b.s.openSlots p).map Job.lateCancel from rfl, hopen] at hi
    exact absurd hi List.not_mem_nil
  | rejoins =>
    refine ⟨.refl _, fun i hi => ?_⟩
    rw [show (b.job p .rejoins).1 = (b.s.openSlots p).map Job.rejoin from rfl, hopen] at hi
    exact absurd hi List.not_mem_nil
  | hostParks =>
    refine ⟨.refl _, fun i hi => ?_⟩
    rw [show (b.job p .hostParks).1 = (b.s.openSlots p).map Job.hostPark from rfl, hopen] at hi
    exact absurd hi List.not_mem_nil
  | disabled =>
    refine ⟨?_, fun i hi => absurd hi List.not_mem_nil⟩
    rw [show (b.job p .disabled).2 = b.dropDisabled p from rfl, Bd.dropDisabled, hopen]
    exact .refl _
  | publish =>
    refine ⟨?_, fun i hi => absurd hi List.not_mem_nil⟩
    rw [show (b.job p .publish).2 = b.publish p from rfl, Bd.publish, hopen]
    exact .refl _
  | returns =>
    refine ⟨?_, fun i hi => absurd hi List.not_mem_nil⟩
    have hnone : (b.s.part p).parked.filter (fun k => (b.s.slot p k).state == .parked && !b.s.aborting (slotFn p (b.s.slot p k))) = [] :=
      List.filter_eq_nil_iff.mpr (fun k _ => by rw [State.slot_of_empty h]; exact Bool.false_ne_true)
    rw [show (b.job p .returns).2 = b.returns p from rfl, Bd.returns, hnone]
    exact .refl _
  | settle =>
    refine ⟨?_, fun i hi => absurd hi List.not_mem_nil⟩
    exact b.settle_still p
  | budgets =>
    exact ⟨b.budgets_still p, fun i hi => absurd hi List.not_mem_nil⟩
  | assemble =>
    have hjob : b.job p .assemble = ([], b) ∨ b.job p .assemble = ([.write []], b) := by
      rw [show b.job p .assemble = b.assemble p from rfl, Bd.assemble, Bd.attempt_of_empty h]
      dsimp only
      split
      · exact .inr rfl
      · exact .inl rfl
    obtain hjob | hjob := hjob
    · rw [hjob]
      exact ⟨.refl _, fun i hi => absurd hi List.not_mem_nil⟩
    · rw [hjob]
      refine ⟨.refl _, fun i hi => ?_⟩
      rw [List.mem_singleton.mp hi]
      rfl
  | write l =>
    rw [show l = [] from hj]
    exact ⟨.refl _, fun i hi => absurd hi List.not_mem_nil⟩
  | last => exact ⟨b.s.labClear_still p, fun i hi => absurd hi List.not_mem_nil⟩
  | _ => exact absurd hj id

/-- Work that is done whole or waits keeps what it keeps. -/
theorem State.whole_quiet {f : Bd → Bd} (h : Quiet s (f { s := s }).s) (he : ((f { s := s }).s.part p).Empty) :
    Quiet s (s.whole f).1 ∧ ((s.whole f).1.part p).Empty ∨ Still s (s.whole f).1 ∧ (s.whole f).2 = false := by
  unfold State.whole
  dsimp only
  split
  · exact .inl ⟨h, he⟩
  · exact .inr ⟨s.sendSnoops_still _, rfl⟩

/-- What a state that a piece of work leaves keeps, whether the piece was done or waits. -/
theorem State.whole_kept {f : Bd → Bd} (hs : (s.part p).Empty) (h : Quiet s (f { s := s }).s) (he : ((f { s := s }).s.part p).Empty) :
    Quiet s (s.whole f).1 ∧ ((s.whole f).1.part p).Empty := by
  obtain h | ⟨hstill, -⟩ := State.whole_quiet h he
  · exact h
  · exact ⟨hstill.quiet, (hstill.parts p).empty hs⟩

theorem State.runJob_quiet {j : Job} {rest : List Job} (h : (s.part p).Empty) (hjobs : (s.part p).jobs = j :: rest) :
    Quiet s (s.runJob p j rest).1 ∧ ((s.runJob p j rest).1.part p).Empty := by
  have hall := h.jobs
  rw [hjobs] at hall
  obtain ⟨hstill, hmore⟩ := Bd.job_still (b := { s := s }) h.slots (hall j List.mem_cons_self)
  have hafter : ({ ((({ s := s } : Bd).job p j).2.s.part p) with jobs := (({ s := s } : Bd).job p j).1 ++ rest } : Part).Empty := by
    have hpart := (hstill.parts p).empty h
    refine ⟨hpart.owed, hpart.slots, hpart.reqs, fun i hi => ?_⟩
    obtain hi | hi := List.mem_append.mp hi
    · exact hmore i hi
    · exact hall i (List.mem_cons_of_mem _ hi)
  refine State.whole_kept h (hstill.quiet.trans ?_) ?_
  · exact State.updPart_quiet _ p (f := fun t => { t with jobs := (({ s := s } : Bd).job p j).1 ++ rest }) (.inr hafter)
  · have hpart := State.part_updPart (({ s := s } : Bd).job p j).2.s p (fun t => { t with jobs := (({ s := s } : Bd).job p j).1 ++ rest })
    exact hpart ▸ hafter

/-- No unit returns where no sequence is on its way out. -/
theorem Bd.returnUnits_still {b : Bd} (h : (b.s.part p).slots = []) : Still b.s (b.returnUnits p).s := by
  have hnone : (b.s.part p).parked.filter (fun k => (b.s.slot p k).state == .parking) = [] :=
    List.filter_eq_nil_iff.mpr (fun k _ => by rw [State.slot_of_empty h]; exact Bool.false_ne_true)
  unfold Bd.returnUnits Bd.on
  dsimp only
  rw [hnone]
  exact (b.kvOn_still p _).trans (State.updPart_still _ p (f := fun t => { t with released := [] }) ⟨⟨rfl, rfl, rfl⟩, rfl, rfl⟩)

theorem State.taken_of_empty (h : (s.part p).reqs = []) : s.taken p = [] := by
  rw [State.taken, h]
  rfl

/-- The pieces of a boundary outside a step that has no request. -/
def Part.idleJobs (t : Part) : Part :=
  { t with reqs := [], jobs := [.lateCancels, .disabled, .settle, .rejoins, .hostParks, .returns, .publish, .budgets, .assemble, .last] }

theorem Part.idleJobs_empty {t : Part} (h : t.Empty) : t.idleJobs.Empty := by
  refine ⟨h.owed, h.slots, rfl, fun j hj => ?_⟩
  simp only [Part.idleJobs, List.mem_cons, List.not_mem_nil, or_false] at hj
  obtain rfl | rfl | rfl | rfl | rfl | rfl | rfl | rfl | rfl | rfl := hj <;> trivial

/-- A boundary outside a step, with no request, begins with pieces that do nothing. -/
theorem Bd.firstPart_quiet {b : Bd} (h : (b.s.part p).Empty) : Quiet b.s (b.firstPart p false).s ∧ ((b.firstPart p false).s.part p).Empty := by
  unfold Bd.firstPart
  dsimp only
  generalize hbegun : b.on (fun s => (s.labClear p).updPart p (fun t => { t with
    phase := .boundary, wake := false, srvEn := t.srvEn && !t.srvOff, srvOff := false
    steps := if false then t.steps + 1 else t.steps })) = begun
  have hclear := (b.s.labClear_still p).parts p |>.empty h
  have hstart : Quiet b.s begun.s ∧ (begun.s.part p).Empty := by
    have hstate : begun.s = (b.s.labClear p).updPart p (fun t => { t with
        phase := .boundary, wake := false, srvEn := t.srvEn && !t.srvOff, srvOff := false
        steps := if false then t.steps + 1 else t.steps }) := by
      rw [← hbegun]
      rfl
    rw [hstate]
    refine ⟨(b.s.labClear_still p).quiet.trans (State.updPart_quiet _ p (.inr ?_)), ?_⟩
    · exact ⟨hclear.owed, hclear.slots, hclear.reqs, hclear.jobs⟩
    · rw [State.part_updPart]
      exact ⟨hclear.owed, hclear.slots, hclear.reqs, hclear.jobs⟩
  obtain ⟨hquiet, hempty⟩ := hstart
  have hreturn := Bd.returnUnits_still hempty.slots
  have hback := (hreturn.parts p).empty hempty
  generalize begun.returnUnits p = u at hreturn hback ⊢
  rw [State.taken_of_empty hback.reqs]
  have hafter := Part.idleJobs_empty hback
  refine ⟨(hquiet.trans hreturn.quiet).trans (u.s.updPart_quiet p (f := Part.idleJobs) (.inr hafter)), ?_⟩
  exact (State.part_updPart u.s p Part.idleJobs).symm ▸ hafter

/-- A boundary without pieces ends, and no step follows. -/
theorem State.boundaryOver_quiet (h : (s.part p).Empty) :
    Quiet s (s.boundaryOver p) ∧ ((s.boundaryOver p).part p).Calm := by
  have hirqs (l : List Nat) : Still s (l.foldl (fun s f => s.irq f 0) s) := .foldl (fun s f => s.irq_still f 0) l s
  have hover : ∃ u f, s.boundaryOver p = (u.updPart p f).startPieces p ∧ Still s u ∧ ∀ t : Part, t.Empty → (f t).Empty :=
    ⟨_, _, rfl, hirqs _, fun t ht => ⟨ht.owed, ht.slots, ht.reqs, ht.jobs⟩⟩
  obtain ⟨u, f, heq, hstill, hf⟩ := hover
  have hempty := hf _ ((hstill.parts p).empty h)
  have hpieces := State.startPieces_still (u.updPart p f) p
  rw [heq]
  refine ⟨(hstill.quiet.trans (u.updPart_quiet p (.inr hempty))).trans hpieces.quiet, .inr ((hpieces.parts p).empty ?_)⟩
  rw [State.part_updPart]
  exact hempty

/-- A calm scheduler that goes on stays calm and touches neither contexts nor functions. -/
theorem State.serve_quiet (n : Nat) : ∀ s : State, (s.part p).Calm → Quiet s (s.serve p n) := by
  induction n with
  | zero => exact fun s _ => (Still.refl s).quiet
  | succ n ih =>
    intro s hcalm
    have howed : (s.part p).owed = [] := hcalm.elim (fun h => h.1) Part.Empty.owed
    rw [State.serve]
    split
    · exact (Still.refl s).quiet
    dsimp only
    rw [howed, show State.flushOwed p ([] : List Record).length s = s from rfl, howed]
    rw [if_neg (by exact Bool.false_ne_true)]
    split
    next j rest hjobs =>
      obtain ⟨-, -, hnone⟩ | hempty := hcalm
      · rw [hnone] at hjobs
        cases hjobs
      obtain ⟨hquiet, hleft⟩ := State.runJob_quiet hempty hjobs
      split
      next t ht =>
        rw [ht] at hquiet hleft
        exact hquiet.trans (ih t (.inr hleft))
      next t ht =>
        rw [ht] at hquiet hleft
        exact hquiet.trans (t.updPart_quiet p (.inr ⟨hleft.owed, hleft.slots, hleft.reqs, hleft.jobs⟩))
    next hjobs =>
      obtain ⟨-, hrun, -⟩ | hempty := hcalm
      · rw [hrun]
        exact (Still.refl s).quiet
      · split
        · obtain ⟨hquiet, hleft⟩ := State.boundaryOver_quiet hempty
          exact hquiet.trans (ih _ hleft)
        · split
          · have hbegin := Bd.firstPart_quiet (b := { s := s }) hempty
            obtain ⟨hquiet, hleft⟩ := State.whole_kept (f := fun b => b.firstPart p false) hempty hbegin.1 hbegin.2
            split
            next t ht =>
              rw [ht] at hquiet hleft
              exact hquiet.trans (ih t (.inr hleft))
            next t ht =>
              rw [ht] at hquiet
              exact hquiet
          · exact (Still.refl s).quiet

end Boundary

/-- Where no boundary is due the scheduler is calm. -/
theorem NoBoundary.calm {s : State} {p : Nat} (h : NoBoundary s p) : (s.part p).Calm := by
  obtain ⟨hjobs, howed, hrun | ⟨-, hslots, -, hreqs⟩⟩ := h
  · exact .inl ⟨howed, hrun, hjobs⟩
  · exact .inr ⟨howed, hslots, hreqs, fun j hj => absurd (hjobs ▸ hj) List.not_mem_nil⟩

end Sys2Proof.Machine
end

section
/-! PROOFS. What disables a function, and what enables it (R363 to R367). -/

namespace Sys2Proof.Machine

/-! ## Folds over functions -/

section Funcs

variable (s : State)

theorem State.foldl_updFunc_frame (g : Func → Func) (l : List Nat) :
    ∃ fs, l.foldl (fun s f => s.updFunc f g) s = { s with host := { s.host with funcs := fs } } :=
  List.foldlRecOn (motive := fun t : State => ∃ fs, t = { s with host := { s.host with funcs := fs } }) _ _ ⟨s.host.funcs, rfl⟩ fun t ht a _ => by
    obtain ⟨fs, rfl⟩ := ht
    exact ⟨_, rfl⟩

theorem State.func_foldl_updFunc (g : Func → Func) {l : List Nat} (hl : l.Nodup) (f : Nat) :
    (l.foldl (fun s f => s.updFunc f g) s).func f = if f ∈ l then g (s.func f) else s.func f := by
  induction l generalizing s with
  | nil => exact (if_neg List.not_mem_nil).symm
  | cons a l ih =>
    obtain ⟨hal, hl⟩ := List.nodup_cons.mp hl
    rw [List.foldl_cons, ih _ hl]
    by_cases hfa : f = a
    · rw [hfa, if_neg hal, State.func_updFunc, if_pos List.mem_cons_self]
    · rw [State.func_updFunc_ne _ _ hfa]
      simp only [List.mem_cons, hfa, false_or]

omit s in
theorem coveredFns_nodup (fn : Nat) : (coveredFns fn).Nodup := by
  unfold coveredFns
  split
  · exact List.nodup_range.map (fun a b hab => by omega)
  · exact List.nodup_singleton fn

omit s in
theorem self_mem_coveredFns (fn : Nat) : fn ∈ coveredFns fn := by
  unfold coveredFns
  split
  · exact List.mem_map.mpr ⟨0, List.mem_range.mpr (by omega), by omega⟩
  · exact List.mem_singleton_self fn

omit s in
/-- A VF covers itself alone. -/
theorem coveredFns_vf (fn k : Nat) : coveredFns (fn + 4 * (k + 1)) = [fn + 4 * (k + 1)] := if_neg (by rw [funcVf]; omega)

omit s in
theorem funcPart_vf (fn k : Nat) : funcPart (fn + 4 * (k + 1)) = funcPart fn := by rw [funcPart, funcPart]; omega

/-- The functions that a disable covers are disabled and quiesce. -/
def State.markOff (fn : Nat) : State := (coveredFns fn).foldl (fun s f => s.updFunc f (fun v => { v with disabled := true, quiescing := true })) s

theorem State.markOff_frame (fn : Nat) : ∃ fs, s.markOff fn = { s with host := { s.host with funcs := fs } } := State.foldl_updFunc_frame ..

theorem State.func_markOff (fn f : Nat) :
    (s.markOff fn).func f = if f ∈ coveredFns fn then { s.func f with disabled := true, quiescing := true } else s.func f :=
  State.func_foldl_updFunc s _ (coveredFns_nodup fn) f

theorem State.markOff_covered {fn f : Nat} (h : f ∈ coveredFns fn) : ((s.markOff fn).func f).disabled = true := by
  rw [State.func_markOff, if_pos h]

theorem State.markOff_disabled {fn f : Nat} (h : (s.func f).disabled = true) : ((s.markOff fn).func f).disabled = true := by
  rw [State.func_markOff]
  split
  · rfl
  · exact h

theorem State.markOff_func {fn f : Nat} : ((s.markOff fn).func f).d3hot = (s.func f).d3hot ∧ ((s.markOff fn).func f).rq = (s.func f).rq ∧
    ((s.markOff fn).func f).cq = (s.func f).cq ∧ ((s.markOff fn).func f).ctl = (s.func f).ctl ∧
      ((s.markOff fn).func f).idrange = (s.func f).idrange := by
  rw [State.func_markOff]
  split <;> exact ⟨rfl, rfl, rfl, rfl, rfl⟩

theorem State.context_markOff (fn p x : Nat) : (s.markOff fn).context p x = s.context p x := by
  obtain ⟨fs, hfs⟩ := s.markOff_frame fn
  rw [hfs]
  rfl

theorem State.part_markOff (fn p : Nat) : (s.markOff fn).part p = s.part p := by
  obtain ⟨fs, hfs⟩ := s.markOff_frame fn
  rw [hfs]
  rfl

end Funcs

/-! ## A function is disabled -/

section Disable

variable {s : State} {fn : Nat}

/-- The contexts of a disable lose EN and their pending starts. -/
def State.dropCtxs (s : State) (p : Nat) (held : List Nat) : State :=
  held.foldl (fun s x => (s.updContext p x (fun t => { t with en := false })).cancelContext p x 0x0304 0x0304) s

theorem State.dropCtx_still (s : State) (p x : Nat) :
    Still s ((s.updContext p x (fun t => { t with en := false })).cancelContext p x 0x0304 0x0304) ∧
      (((s.updContext p x (fun t => { t with en := false })).cancelContext p x 0x0304 0x0304).context p x).en = false ∧
      (((s.updContext p x (fun t => { t with en := false })).cancelContext p x 0x0304 0x0304).context p x).pending = none := by
  have hoff : Still s (s.updContext p x (fun t => { t with en := false })) := s.updContext_still p x ⟨fun _ => rfl, id, rfl, rfl, rfl, rfl⟩
  obtain ⟨hstill, hnone⟩ := State.cancelContext_still (s.updContext p x (fun t => { t with en := false })) p x 0x0304 0x0304
  refine ⟨hoff.trans hstill, (hstill.ctxs p x).en ?_, hnone⟩
  rw [State.updContext, State.context, State.setContext, Table.get_set_same]

theorem State.dropCtxs_still (s : State) (p : Nat) (held : List Nat) : Still s (s.dropCtxs p held) :=
  .foldl (fun s x => (s.dropCtx_still p x).1) _ _

theorem State.dropCtxs_each (s : State) {p x : Nat} {held : List Nat} (h : x ∈ held) :
    ((s.dropCtxs p held).context p x).en = false ∧ ((s.dropCtxs p held).context p x).pending = none :=
  foldl_each (Q := fun (s : State) x => (s.context p x).en = false ∧ (s.context p x).pending = none) (fun s x => (s.dropCtx_still p x).2)
    (fun s x y hy => ⟨((s.dropCtx_still p x).1.ctxs p y).en hy.1, ((s.dropCtx_still p x).1.ctxs p y).pending hy.2⟩) s (.inl h)

/-- The scheduler goes on after a disable, woken where sequences wait. -/
def State.resume (s : State) (p : Nat) : State := if (s.part p).phase == .idle && !(s.part p).slots.isEmpty then s.wakeUp p else s.goOn p

/-- A calm scheduler that goes on after a disable is not woken. -/
theorem State.resume_quiet {p : Nat} (h : (s.part p).Calm) : Quiet s (s.resume p) := by
  have hnot : ¬((s.part p).phase == .idle && !(s.part p).slots.isEmpty) = true := by
    obtain ⟨-, hrun, -⟩ | hempty := h
    · rw [hrun]
      exact Bool.false_ne_true
    · rw [hempty.slots, Bool.and_comm]
      exact Bool.false_ne_true
  rw [State.resume, if_neg hnot]
  exact State.serve_quiet _ s h

/-- A disable, once its functions are marked: nothing else of them changes, and the contexts it takes lose EN and their starts. -/
theorem State.disableHeld_quiet (held : List Nat) (h : (s.part (funcPart fn)).Calm) :
    Quiet (s.markOff fn) (s.disableHeld fn held) ∧ (s.newlyOff fn ≠ [] → ∀ x ∈ held,
      ((s.disableHeld fn held).context (funcPart fn) x).en = false ∧ ((s.disableHeld fn held).context (funcPart fn) x).pending = none) := by
  have hstop : ∃ u : State, Still (s.markOff fn) u ∧ s.disableHeld fn held = if (s.newlyOff fn).isEmpty then s.markOff fn
      else ((u.dropCtxs (funcPart fn) held).resume (funcPart fn)).quiesceDone :=
    ⟨if (s.newlyOff fn).contains (funcPart fn) then (s.markOff fn).stopServing (funcPart fn) else s.markOff fn,
      .ite (State.stopServing_still _ _) (.refl _), rfl⟩
  obtain ⟨u, hu, heq⟩ := hstop
  rw [heq]
  split
  next hnew => exact ⟨(Still.refl _).quiet, fun h => absurd (List.isEmpty_iff.mp hnew) h⟩
  have hdrop : Still (s.markOff fn) (u.dropCtxs (funcPart fn) held) := hu.trans (State.dropCtxs_still _ _ _)
  have hcalm := (hdrop.parts (funcPart fn)).calm (by rw [State.part_markOff]; exact h)
  have hresume := (State.resume_quiet hcalm).trans (State.quiesceDone_still _).quiet
  refine ⟨hdrop.quiet.trans hresume, fun _ x hx => ?_⟩
  obtain ⟨hen, hpending⟩ := State.dropCtxs_each u (p := funcPart fn) hx
  exact ⟨(hresume.ctxs _ x).en hen, (hresume.ctxs _ x).pending hpending⟩

/-- What a disable keeps: the host port, the start, calm schedulers and functions that are disabled. -/
structure Lost (s t : State) : Prop where
  host : HostKept s.host t.host
  start : t.start = s.start
  calm : ∀ p, (s.part p).Calm → (t.part p).Calm
  disabled : ∀ f, (s.func f).disabled = true → (t.func f).disabled = true

theorem Lost.refl (s : State) : Lost s s := ⟨.refl _, rfl, fun _ => id, fun _ => id⟩

theorem Lost.trans {s t u : State} (h : Lost s t) (g : Lost t u) : Lost s u :=
  ⟨h.host.trans g.host, g.start.trans h.start, fun p hp => g.calm p (h.calm p hp), fun f hf => g.disabled f (h.disabled f hf)⟩

theorem Quiet.lost {s t : State} (h : Quiet s t) : Lost s t := ⟨h.host, h.start, h.parts, fun f hf => (h.funcs f).state.1.trans hf⟩

theorem State.markOff_lost (s : State) (fn : Nat) : Lost s (s.markOff fn) := by
  refine ⟨?_, ?_, fun p => by rw [State.part_markOff]; exact id, fun f => s.markOff_disabled⟩
  all_goals
    obtain ⟨fs, hfs⟩ := s.markOff_frame fn
    rw [hfs]
  · exact ⟨⟨rfl, rfl, rfl, rfl⟩, ⟨rfl, rfl⟩, rfl⟩

theorem State.disableHeld_lost (held : List Nat) (h : (s.part (funcPart fn)).Calm) : Lost s (s.disableHeld fn held) :=
  (s.markOff_lost fn).trans (State.disableHeld_quiet held h).1.lost

theorem State.disableHeld_covered (held : List Nat) (h : (s.part (funcPart fn)).Calm) {f : Nat} (hf : f ∈ coveredFns fn) :
    ((s.disableHeld fn held).func f).disabled = true :=
  ((State.disableHeld_quiet held h).1.funcs f).state.1.trans (s.markOff_covered hf)

/-- A disable keeps of every function its rings, registers and power state. -/
theorem State.disableHeld_func (held : List Nat) (h : (s.part (funcPart fn)).Calm) (f : Nat) :
    ((s.disableHeld fn held).func f).d3hot = (s.func f).d3hot ∧ ((s.disableHeld fn held).func f).rq = (s.func f).rq ∧
      ((s.disableHeld fn held).func f).cq = (s.func f).cq ∧ ((s.disableHeld fn held).func f).ctl = (s.func f).ctl ∧
      ((s.disableHeld fn held).func f).idrange = (s.func f).idrange := by
  obtain ⟨hd3, hrq, hcq, hctl, hid⟩ := s.markOff_func (fn := fn) (f := f)
  have hkept := (State.disableHeld_quiet held h).1.funcs f
  exact ⟨hkept.state.2.trans hd3, hkept.rings.1.trans hrq, hkept.rings.2.trans hcq, hkept.regs.1.trans hctl, hkept.regs.2.trans hid⟩

/-- A disable keeps the registers of every context. -/
theorem State.disableHeld_regs (held : List Nat) (h : (s.part (funcPart fn)).Calm) (p x : Nat) :
    ((s.disableHeld fn held).context p x).kstart = (s.context p x).kstart ∧ ((s.disableHeld fn held).context p x).prio = (s.context p x).prio ∧
      ((s.disableHeld fn held).context p x).cores = (s.context p x).cores ∧ ((s.disableHeld fn held).context p x).units = (s.context p x).units := by
  have hregs := ((State.disableHeld_quiet held h).1.ctxs p x).regs
  rw [State.context_markOff] at hregs
  exact hregs

theorem State.self_mem_newlyOff (h : (s.func fn).quiescing = false) : fn ∈ s.newlyOff fn :=
  List.mem_filter.mpr ⟨self_mem_coveredFns fn, by rw [h]; rfl⟩

/-- The contexts of a function that does not quiesce are among those its disable ends. -/
theorem State.heldCtxs_mem_endedCtxs (h : (s.func fn).quiescing = false) {x : Nat} (hx : x ∈ s.heldCtxs fn) : x ∈ s.endedCtxs fn :=
  List.mem_dedup.mpr (List.mem_flatMap.mpr ⟨fn, State.self_mem_newlyOff h, hx⟩)

end Disable

/-! ## A function's registers are reset -/

section Reset

variable (s : State)

/-- The registers of a context that a reset of its function sets (R210, R352). -/
def Context.reset (t : Context) : Context := { t with
  kstart := 0, krAddr := 0, overrun := false, csErr := false, serving := false, kends := 0, csSrc := 0, kreport := 0
  prio := 0, status := 0, saves := 0, cores := 0, save := 0, saveWritten := false, units := 0x20, saveCycles := 0, restoreCycles := 0 }

/-- The registers of a function that its reset sets, those of VFMAP where the reset is a PF's. -/
def Func.reset (pf : Bool) (v : Func) : Func := { v with
  rq := {}, cq := {}, idrange := 0, refused := 0, cqstalls := 0, ctl := 0
  ctxmask := if pf then 0 else v.ctxmask
  apsize := if pf then 0 else v.apsize
  apbase := if pf then 0 else v.apbase }

theorem State.resetFn_eq (fn : Nat) : s.resetFn fn = (coveredFns fn).foldl (fun s f => s.updFunc f (Func.reset (decide (funcVf fn = 0))))
    ((s.heldCtxs fn).foldl (fun s x => s.updContext (funcPart fn) x Context.reset) s) := by
  rw [State.resetFn]
  by_cases h : funcVf fn = 0
  · simp only [h, decide_true, if_true]
    rfl
  · simp only [h, decide_false, if_false]
    rfl

theorem State.resetFn_frame (fn : Nat) : ∃ cs fs, s.resetFn fn = { s with contexts := cs, host := { s.host with funcs := fs } } := by
  obtain ⟨cs, hcs⟩ := State.foldl_updContext_eq (funcPart fn) Context.reset (s.heldCtxs fn) s
  rw [State.resetFn_eq, hcs]
  obtain ⟨fs, hfs⟩ := State.foldl_updFunc_frame { s with contexts := cs } (Func.reset (decide (funcVf fn = 0))) (coveredFns fn)
  exact ⟨cs, fs, hfs⟩

theorem State.func_resetFn (fn f : Nat) :
    (s.resetFn fn).func f = if f ∈ coveredFns fn then (s.func f).reset (decide (funcVf fn = 0)) else s.func f := by
  obtain ⟨cs, hcs⟩ := State.foldl_updContext_eq (funcPart fn) Context.reset (s.heldCtxs fn) s
  rw [State.resetFn_eq, hcs]
  exact State.func_foldl_updFunc { s with contexts := cs } _ (coveredFns_nodup fn) f

theorem State.context_resetFn {fn x : Nat} (h : x ∈ s.heldCtxs fn) :
    ((s.resetFn fn).context (funcPart fn) x).kstart = 0 ∧ ((s.resetFn fn).context (funcPart fn) x).prio = 0 ∧
      ((s.resetFn fn).context (funcPart fn) x).cores = 0 ∧ ((s.resetFn fn).context (funcPart fn) x).units = 0x20 := by
  rw [State.resetFn_eq]
  have hreset := State.foldl_updContext_each (P := fun c => c.kstart = 0 ∧ c.prio = 0 ∧ c.cores = 0 ∧ c.units = 0x20) (f := Context.reset)
    (fun _ => ⟨rfl, rfl, rfl, rfl⟩) (funcPart fn) h s
  generalize (s.heldCtxs fn).foldl (fun s x => s.updContext (funcPart fn) x Context.reset) s = u at hreset ⊢
  obtain ⟨fs, hfs⟩ := State.foldl_updFunc_frame u (Func.reset (decide (funcVf fn = 0))) (coveredFns fn)
  rw [hfs]
  exact hreset

theorem State.part_resetFn (fn p : Nat) : (s.resetFn fn).part p = s.part p := by
  obtain ⟨cs, fs, hfs⟩ := s.resetFn_frame fn
  rw [hfs]
  rfl

theorem State.resetFn_lost (fn : Nat) : Lost s (s.resetFn fn) := by
  refine ⟨?_, ?_, fun p => by rw [State.part_resetFn]; exact id, fun f hf => ?_⟩
  case refine_3 =>
    rw [State.func_resetFn]
    split <;> exact hf
  all_goals
    obtain ⟨cs, fs, hfs⟩ := s.resetFn_frame fn
    rw [hfs]
  · exact ⟨⟨rfl, rfl, rfl, rfl⟩, ⟨rfl, rfl⟩, rfl⟩

/-- FLR keeps what a disable keeps, and disables what it covers. -/
theorem State.flr_lost {fn : Nat} (h : (s.part (funcPart fn)).Calm) :
    Lost s (s.flr fn) ∧ ∀ f ∈ coveredFns fn, ((s.flr fn).func f).disabled = true := by
  have hcalm : ((s.resetFn fn).part (funcPart fn)).Calm := by rw [State.part_resetFn]; exact h
  exact ⟨(s.resetFn_lost fn).trans (State.disableHeld_lost _ hcalm), fun f hf => State.disableHeld_covered _ hcalm hf⟩

end Reset

end Sys2Proof.Machine

namespace Sys2Proof.Proofs

open Sys2Proof.Machine

section Functions

variable {s : State} {fn : Nat}

theorem flr_disables (hreach : s.cfgReach fn = true) (hquiet : (s.func fn).quiescing = false) (hbound : NoBoundary s (funcPart fn)) :
    ∃ t, exec (.flr fn) s = .next t ∧ (∀ f ∈ coveredFns fn, (t.func f).disabled = true) ∧
      (∀ x ∈ s.heldCtxs fn, (t.context (funcPart fn) x).en = false ∧ (t.context (funcPart fn) x).pending = none ∧
        (t.context (funcPart fn) x).kstart = 0 ∧ (t.context (funcPart fn) x).prio = 0 ∧ (t.context (funcPart fn) x).cores = 0 ∧
        (t.context (funcPart fn) x).units = 0x20) ∧
      (t.func fn).rq = {} ∧ (t.func fn).cq = {} ∧ (t.func fn).ctl = 0 ∧ (t.func fn).idrange = 0 := by
  have hcalm : ((s.resetFn fn).part (funcPart fn)).Calm := by rw [State.part_resetFn]; exact hbound.calm
  have hself : (s.resetFn fn).func fn = (s.func fn).reset (decide (funcVf fn = 0)) :=
    (s.func_resetFn fn fn).trans (if_pos (self_mem_coveredFns fn))
  have hnew : (s.resetFn fn).newlyOff fn ≠ [] := List.ne_nil_of_mem (State.self_mem_newlyOff (by rw [hself]; exact hquiet))
  obtain ⟨-, hrq, hcq, hctl, hid⟩ := State.disableHeld_func (s.endedCtxs fn) hcalm fn
  rw [hself] at hrq hcq hctl hid
  refine ⟨s.flr fn, if_pos hreach, (s.flr_lost hbound.calm).2, fun x hx => ?_, hrq, hcq, hctl, hid⟩
  obtain ⟨hen, hpending⟩ := (State.disableHeld_quiet (s.endedCtxs fn) hcalm).2 hnew x (State.heldCtxs_mem_endedCtxs hquiet hx)
  obtain ⟨hks, hprio, hcores, hunits⟩ := State.disableHeld_regs (s.endedCtxs fn) hcalm (funcPart fn) x
  obtain ⟨hks', hprio', hcores', hunits'⟩ := s.context_resetFn hx
  exact ⟨hen, hpending, hks.trans hks', hprio.trans hprio', hcores.trans hcores', hunits.trans hunits'⟩

/-- What a disable that is no reset does, while no boundary is due. -/
theorem disable_spec (hquiet : (s.func fn).quiescing = false) (hbound : NoBoundary s (funcPart fn)) :
    (∀ f ∈ coveredFns fn, ((s.disable fn).func f).disabled = true) ∧
      ∀ x ∈ s.heldCtxs fn, ((s.disable fn).context (funcPart fn) x).en = false ∧ ((s.disable fn).context (funcPart fn) x).pending = none :=
  ⟨fun _ hf => State.disableHeld_covered _ hbound.calm hf, fun x hx =>
    (State.disableHeld_quiet (s.endedCtxs fn) hbound.calm).2 (List.ne_nil_of_mem (State.self_mem_newlyOff hquiet)) x
      (State.heldCtxs_mem_endedCtxs hquiet hx)⟩

/-- The contexts that a function holds do not turn on a change that keeps every CTXMASK. -/
theorem heldCtxs_updFunc (f : Nat) {g : Func → Func} (hg : ∀ v, (g v).ctxmask = v.ctxmask) : (s.updFunc f g).heldCtxs fn = s.heldCtxs fn := by
  have hmask (m : Nat) : ((s.updFunc f g).func m).ctxmask = (s.func m).ctxmask := by
    by_cases hm : m = f
    · rw [hm, State.func_updFunc, hg]
    · rw [State.func_updFunc_ne _ _ hm]
  have hfn (p x : Nat) : (s.updFunc f g).ctxFn p x = s.ctxFn p x := by simp only [State.ctxFn, hmask]
  simp only [State.heldCtxs, hfn]
  rfl

theorem d3hotEntry_disables (hreach : s.cfgReach fn = true) (hd3 : (s.func fn).d3hot = false) (hquiet : (s.func fn).quiescing = false)
    (hbound : NoBoundary s (funcPart fn)) :
    ∃ t, exec (.d3hotEntry fn) s = .next t ∧ (t.func fn).d3hot = true ∧ (∀ f ∈ coveredFns fn, (t.func f).disabled = true) ∧
      (∀ x ∈ s.heldCtxs fn, (t.context (funcPart fn) x).en = false ∧ (t.context (funcPart fn) x).pending = none) ∧
      (t.func fn).rq = (s.func fn).rq ∧ (t.func fn).cq = (s.func fn).cq ∧ (t.func fn).ctl = (s.func fn).ctl := by
  have hheld : (s.updFunc fn (fun f => { f with d3hot := true })).heldCtxs fn = s.heldCtxs fn := heldCtxs_updFunc fn fun _ => rfl
  have hself : (s.updFunc fn (fun f => { f with d3hot := true })).func fn = { s.func fn with d3hot := true } := State.func_updFunc ..
  have hboundary : NoBoundary (s.updFunc fn (fun f => { f with d3hot := true })) (funcPart fn) := hbound.of_due rfl
  have hexec : exec (.d3hotEntry fn) s = .next ((s.updFunc fn (fun f => { f with d3hot := true })).disable fn) :=
    if_pos (by rw [hreach, hd3]; rfl)
  generalize s.updFunc fn (fun f => { f with d3hot := true }) = u at hheld hself hboundary hexec
  obtain ⟨hoff, hctxs⟩ := disable_spec (s := u) (fn := fn) (by rw [hself]; exact hquiet) hboundary
  obtain ⟨hd, hrq, hcq, hctl, -⟩ := State.disableHeld_func (u.endedCtxs fn) hboundary.calm fn
  rw [hself] at hd hrq hcq hctl
  rw [hheld] at hctxs
  exact ⟨_, hexec, hd, hoff, hctxs, hrq, hcq, hctl⟩

theorem bmeClear_disables (hreach : s.cfgReach fn = true) (hquiet : (s.func fn).quiescing = false) (hbound : NoBoundary s (funcPart fn)) :
    ∃ t, exec (.bmeClear fn) s = .next t ∧ (∀ f ∈ coveredFns fn, (t.func f).disabled = true) ∧
      (∀ x ∈ s.heldCtxs fn, (t.context (funcPart fn) x).en = false ∧ (t.context (funcPart fn) x).pending = none) ∧
      (t.func fn).d3hot = (s.func fn).d3hot ∧ (t.func fn).rq = (s.func fn).rq ∧ (t.func fn).cq = (s.func fn).cq := by
  obtain ⟨hoff, hctxs⟩ := disable_spec hquiet hbound
  obtain ⟨hd, hrq, hcq, -, -⟩ := State.disableHeld_func (s.endedCtxs fn) hbound.calm fn
  exact ⟨_, if_pos hreach, hoff, hctxs, hd, hrq, hcq⟩

/-- What stands once the VFs of a list are disabled. -/
structure VfsOff (s : State) (fn : Nat) (l : List Nat) (t : State) : Prop where
  calm : (t.part (funcPart fn)).Calm
  vfs : ∀ k ∈ l, (t.func (fn + 4 * (k + 1))).disabled = true
  pf : (t.func fn).disabled = (s.func fn).disabled

/-- A disable of a VF leaves its PF as it is. -/
theorem disable_vf {t : State} (k : Nat) (h : (t.part (funcPart fn)).Calm) :
    ((t.disable (fn + 4 * (k + 1))).func fn).disabled = (t.func fn).disabled := by
  have hcalm : (t.part (funcPart (fn + 4 * (k + 1)))).Calm := by rw [funcPart_vf]; exact h
  refine ((State.disableHeld_quiet _ hcalm).1.funcs fn).state.1.trans ?_
  rw [State.func_markOff, if_neg (by rw [coveredFns_vf, List.mem_singleton]; omega)]

theorem foldl_disable_vfs (l : List Nat) : ∀ t, (t.part (funcPart fn)).Calm →
    VfsOff t fn l (l.foldl (fun s k => s.disable (fn + 4 * (k + 1))) t) ∧
      Lost t (l.foldl (fun s k => s.disable (fn + 4 * (k + 1))) t) := by
  induction l with
  | nil => exact fun t h => ⟨⟨h, fun _ hk => absurd hk List.not_mem_nil, rfl⟩, .refl t⟩
  | cons k l ih =>
    intro t h
    have hcalm : (t.part (funcPart (fn + 4 * (k + 1)))).Calm := by rw [funcPart_vf]; exact h
    have hlost : Lost t (t.disable (fn + 4 * (k + 1))) := State.disableHeld_lost _ hcalm
    obtain ⟨hoff, hrest⟩ := ih _ (hlost.calm _ h)
    refine ⟨⟨hoff.calm, fun j hj => ?_, hoff.pf.trans (disable_vf k h)⟩, hlost.trans hrest⟩
    obtain rfl | hj := List.mem_cons.mp hj
    · exact hrest.disabled _ (State.disableHeld_covered _ hcalm (self_mem_coveredFns _))
    · exact hoff.vfs j hj

theorem vfEnableClear_disables (hreach : s.cfgReach fn = true) (hpf : funcVf fn = 0) (hbound : NoBoundary s (funcPart fn)) :
    ∃ t, exec (.vfEnableClear fn) s = .next t ∧ (∀ k, k < 31 → (t.func (fn + 4 * (k + 1))).disabled = true) ∧
      (t.func fn).disabled = (s.func fn).disabled := by
  obtain ⟨⟨-, hvfs, hself⟩, -⟩ := foldl_disable_vfs (fn := fn) (List.range 31) s hbound.calm
  exact ⟨_, if_pos (by rw [hreach, hpf]; rfl), fun k hk => hvfs k (List.mem_range.mpr hk), hself⟩

theorem enableFn_disabled (h : (s.func fn).disabled = true) :
    s.enableFn fn = (s.updFunc fn (fun f => { f with disabled := false })).irq fn 2 := if_pos h

theorem functionEnable_enables (hreach : s.cfgReach fn = true) (hd3 : (s.func fn).d3hot = false) (hoff : (s.func fn).disabled = true) :
    exec (.functionEnable fn) s = .next ((s.updFunc fn (fun f => { f with disabled := false })).irq fn 2) :=
  (if_pos (by rw [hreach, hd3]; rfl) : exec (.functionEnable fn) s = .next (s.enableFn fn)).trans (congrArg _ (enableFn_disabled hoff))

/-- A vector that FUNCCTL does not enable sends nothing. -/
theorem irq_masked {v : Nat} (hv : v < 3) (h : (s.func fn).ctl.testBit v = false) : s.irq fn v = s :=
  if_pos (by rw [h, decide_eq_true hv, Bool.not_false, Bool.true_and, Bool.or_true])

theorem d0Return_resets (hreach : s.cfgReach fn = true) (hd3 : (s.func fn).d3hot = true) (hoff : (s.func fn).disabled = true) :
    ∃ t, exec (.d0Return fn) s = .next t ∧ (t.func fn).d3hot = false ∧ (t.func fn).disabled = false ∧ (t.func fn).rq = {} ∧ (t.func fn).cq = {} ∧
      (t.func fn).ctl = 0 ∧ (t.func fn).quiescing = (s.func fn).quiescing ∧ t.out = s.out ∧ t.mem = s.mem ∧ t.parts = s.parts ∧
      t.cores = s.cores := by
  have hself : (s.resetFn fn).func fn = (s.func fn).reset (decide (funcVf fn = 0)) :=
    (s.func_resetFn fn fn).trans (if_pos (self_mem_coveredFns fn))
  obtain ⟨cs, fs, hframe⟩ := s.resetFn_frame fn
  have hexec : exec (.d0Return fn) s = .next (((s.resetFn fn).updFunc fn (fun f => { f with d3hot := false })).enableFn fn) :=
    if_pos (by rw [hreach, hd3]; rfl)
  generalize s.resetFn fn = u at hself hframe hexec
  have hawake : (u.updFunc fn (fun f => { f with d3hot := false })).func fn = { (s.func fn).reset (decide (funcVf fn = 0)) with d3hot := false } :=
    (State.func_updFunc ..).trans (by rw [hself])
  have hon : ((u.updFunc fn (fun f => { f with d3hot := false })).updFunc fn (fun f => { f with disabled := false })).func fn =
      { (s.func fn).reset (decide (funcVf fn = 0)) with d3hot := false, disabled := false } :=
    (State.func_updFunc ..).trans (by rw [hawake])
  rw [enableFn_disabled (by rw [hawake]; exact hoff), irq_masked (by omega) (by rw [hon]; exact Nat.zero_testBit 2)] at hexec
  refine ⟨_, hexec, ?_⟩
  rw [hon]
  refine ⟨rfl, rfl, rfl, rfl, rfl, rfl, ?_⟩
  rw [hframe]
  exact ⟨rfl, rfl, rfl, rfl⟩

/-- A vector is sent by an enabled function whose FUNCCTL enables it, and by no other. -/
theorem irq_sends (v : Nat) (hlive : s.isLive = true) :
    ((s.func fn).disabled = false → (v < 3 → (s.func fn).ctl.testBit v = true) → s.irq fn v = s.emit (.msix fn v)) ∧
      ((s.func fn).disabled = true ∨ (v < 3 ∧ (s.func fn).ctl.testBit v = false) → s.irq fn v = s) := by
  refine ⟨fun hon hctl => if_neg ?_, fun h => ?_⟩
  · rw [hlive, hon]
    by_cases hv : v < 3
    · rw [hctl hv, Bool.not_true, Bool.and_false]
      exact Bool.false_ne_true
    · rw [decide_eq_false hv]
      exact Bool.false_ne_true
  · obtain hoff | ⟨hv, hctl⟩ := h
    · exact if_pos (by rw [hoff, Bool.or_true, Bool.true_or])
    · exact irq_masked hv hctl

end Functions

/-- Settles O20: a disable marks what it covers, ends the contexts it holds, and its scheduler, with nothing due, changes neither. -/
theorem functionsAreDisabledAndEnabled : Obligations.FunctionsAreDisabledAndEnabled := by
  unfold Obligations.FunctionsAreDisabledAndEnabled
  exact ⟨⟨fun _ _ => flr_disables, fun _ _ => d3hotEntry_disables, fun _ _ => bmeClear_disables, fun _ _ => vfEnableClear_disables⟩,
    fun _ _ => functionEnable_enables, fun _ _ => d0Return_resets, fun _ _ v hlive => irq_sends v hlive⟩

end Sys2Proof.Proofs
end

section
/-! PROOFS. The CXL link and PERST_N (R343, R363, R368, R438). -/

namespace Sys2Proof.Machine

/-! ## Every function is disabled (R363) -/

section DisableAll

variable {s : State}

theorem State.foldl_flr (l : List Nat) : ∀ s : State, (∀ p, (s.part p).Calm) →
    Lost s (l.foldl State.flr s) ∧ ∀ fn ∈ l, ((l.foldl State.flr s).func fn).disabled = true := by
  induction l with
  | nil => exact fun s _ => ⟨.refl s, fun _ h => absurd h List.not_mem_nil⟩
  | cons fn l ih =>
    intro s hcalm
    obtain ⟨hlost, hoff⟩ := s.flr_lost (hcalm (funcPart fn))
    obtain ⟨hrest, hoffs⟩ := ih (s.flr fn) fun p => hlost.calm p (hcalm p)
    refine ⟨hlost.trans hrest, fun f hf => ?_⟩
    obtain rfl | hf := List.mem_cons.mp hf
    · exact hrest.disabled f (hoff f (self_mem_coveredFns f))
    · exact hoffs f hf

/-- With no boundary due, all PFs are disabled and the host port and the start stay. -/
theorem State.disableAll_lost (h : ∀ p, NoBoundary s p) :
    Lost s s.disableAll ∧ ∀ fn, fn < nParts s.mode → (s.disableAll.func fn).disabled = true := by
  obtain ⟨hlost, hoff⟩ := State.foldl_flr (List.range (nParts s.mode)) s fun p => (h p).calm
  exact ⟨hlost, fun fn hfn => hoff fn (List.mem_range.mpr hfn)⟩

/-- Withdrawing every ACCEPT changes partitions alone. -/
theorem State.clearAccept_frame (s : State) : ∃ ps, s.clearAccept = { s with parts := ps } :=
  List.foldlRecOn (motive := fun t : State => ∃ ps, t = { s with parts := ps }) _ _ ⟨s.parts, rfl⟩ fun t ht a _ => by
    obtain ⟨ps, rfl⟩ := ht
    exact ⟨_, rfl⟩

theorem State.clearAccept_each (s : State) {p : Nat} (h : p < 4) :
    (s.clearAccept.part p).accept0 = 0 ∧ (s.clearAccept.part p).accept1 = 0 ∧ (s.clearAccept.part p).accepted = false := by
  refine foldl_each (Q := fun (s : State) p => (s.part p).accept0 = 0 ∧ (s.part p).accept1 = 0 ∧ (s.part p).accepted = false)
    (fun s p => ?_) (fun s p q hq => ?_) s (.inl (List.mem_range.mpr h))
  · rw [State.part_updPart]
    exact ⟨rfl, rfl, rfl⟩
  · by_cases hpq : q = p
    · rw [hpq, State.part_updPart]
      exact ⟨rfl, rfl, rfl⟩
    · rw [State.part_updPart_ne _ _ hpq]
      exact hq

theorem State.clearAccept_host (s : State) : s.clearAccept.host = s.host ∧ s.clearAccept.start = s.start := by
  obtain ⟨ps, hps⟩ := s.clearAccept_frame
  rw [hps]
  exact ⟨rfl, rfl⟩

theorem State.clearAccept_func (s : State) (fn : Nat) : s.clearAccept.func fn = s.func fn := by rw [State.func, s.clearAccept_host.1, State.func]

/-- The host port after a loss of its link. -/
def HostPort.lost (h : HostPort) (next : LinkState) : HostPort :=
  { h.dropMem with link := next, width := 0, ideMem := false, ideIo := false, waits := [] }

theorem HostPort.lost_of_none {h : HostPort} (next : LinkState) (hwaits : h.waits = []) :
    h.lost next = { h.dropMem with link := next, width := 0, ideMem := false, ideIo := false } := by
  have hdropped : h.dropMem.waits = [] := hwaits
  rw [HostPort.lost, ← hdropped]

/-- With no access that waits, a loss of the link changes the host port alone. -/
theorem State.loseHost_of_none (next : LinkState) (h : s.host.waits = []) : s.loseHost next = { s with host := s.host.lost next } := by
  rw [State.loseHost, h]
  exact State.retryHost_of_none rfl

/-- PERST_N goes low and the link is lost. -/
def State.perstLow (s : State) : State := { s with start := { s.start with perstN := false }, host := s.host.lost .down }

end DisableAll

end Sys2Proof.Machine

namespace Sys2Proof.Proofs

open Sys2Proof.Machine

section Link

variable {s : State}

theorem cxlLinkUp_trains {w : Nat} (hon : s.linkOn = true) (hlink : s.host.link = .training) (hw : w = 4 ∨ w = 8 ∨ w = 16) :
    exec (.cxlLinkUp w) s = .next { s with host := { s.host with link := .up, width := w } } :=
  if_pos (by rw [hon, hlink]; obtain rfl | rfl | rfl := hw <;> rfl)

theorem cxlRetrain_fails (hon : s.linkOn = true) (hlink : s.host.link = .training) :
    exec .cxlRetrain s = .next { s with host := { s.host with link := .down } } :=
  (if_neg (by rw [hon]; exact Bool.false_ne_true)).trans (by rw [hlink])

theorem cxlRetrain_begins (hon : s.linkOn = true) (hlink : s.host.link = .down) :
    exec .cxlRetrain s = .next { s with host := { s.host with link := .training } } :=
  (if_neg (by rw [hon]; exact Bool.false_ne_true)).trans (by rw [hlink])

theorem hostLinkRecovery_counts (hlink : s.host.link = .up) :
    exec (.hostLinkRecovery 0) s = .next { s with host := { s.host with recoveries := satAdd 16 s.host.recoveries 1 } } ∧
      exec (.hostLinkRecovery 1) s = .next { s with host := { s.host with replays := satAdd 32 s.host.replays 1 } } ∧
      exec (.hostLinkRecovery 2) s = .next { s with host := { s.host with ideFailures := satAdd 16 s.host.ideFailures 1 } } := by
  have hup : ¬(s.host.link != .up) = true := by rw [hlink]; exact Bool.false_ne_true
  exact ⟨if_neg hup, if_neg hup, if_neg hup⟩

theorem cxlLinkDown_drops (hlink : s.host.link = .up) (hwaits : s.host.waits = []) (hbound : ∀ p, NoBoundary s p) :
    ∃ t, exec .cxlLinkDown s = .next t ∧ t.host.link = .training ∧ t.host.width = 0 ∧ t.host.hdmOn = false ∧ t.host.filter = [] ∧
      t.host.ideMem = false ∧ t.host.ideIo = false ∧ (∀ fn, fn < nParts s.mode → (t.func fn).disabled = true) ∧
      ∀ p, p < 4 → (t.part p).accept0 = 0 ∧ (t.part p).accept1 = 0 ∧ (t.part p).accepted = false := by
  have hexec : exec .cxlLinkDown s = .next (((s.loseHost .training).disableAll).clearAccept) := if_pos (by rw [hlink]; rfl)
  rw [State.loseHost_of_none _ hwaits] at hexec
  obtain ⟨hlost, hoff⟩ := State.disableAll_lost (s := { s with host := s.host.lost .training }) fun p => (hbound p).of_due rfl
  generalize ({ s with host := s.host.lost .training } : State).disableAll = u at hexec hlost hoff
  obtain ⟨⟨hup, hwidth, hmem, hio⟩, ⟨hwindow, hfilter⟩, -⟩ := hlost.host
  refine ⟨_, hexec, ?_⟩
  rw [u.clearAccept_host.1]
  refine ⟨hup, hwidth, hwindow, hfilter, hmem, hio, fun fn hfn => ?_, fun p hp => u.clearAccept_each hp⟩
  rw [State.clearAccept_func]
  exact hoff fn hfn

theorem hotReset_keeps_link (hlink : s.host.link = .up) (hwaits : s.host.waits = []) (hbound : ∀ p, NoBoundary s p) :
    ∃ t, exec .hotReset s = .next t ∧ t.host.link = .up ∧ t.host.hdmOn = false ∧ t.host.filter = [] ∧
      ∀ fn, fn < nParts s.mode → (t.func fn).disabled = true := by
  have hexec : exec .hotReset s = .next (({ s with host := s.host.dropMem } : State).retryHost).disableAll := if_pos (by rw [hlink]; rfl)
  rw [State.retryHost_of_none (show ({ s with host := s.host.dropMem } : State).host.waits = [] from hwaits)] at hexec
  obtain ⟨hlost, hoff⟩ := State.disableAll_lost (s := { s with host := s.host.dropMem }) fun p => (hbound p).of_due rfl
  obtain ⟨⟨hup, -⟩, ⟨hwindow, hfilter⟩, -⟩ := hlost.host
  exact ⟨_, hexec, hup.trans hlink, hwindow, hfilter, hoff⟩

end Link

section Perst

variable {s : State}

theorem perstAssert_eq (hwaits : s.host.waits = []) : exec .perstAssert s = .next (
    if (s.host.link != .down) = true then (if s.start.phase.runs then s.perstLow.disableAll else s.perstLow).clearAccept
    else if s.start.phase.runs then s.perstLow.disableAll else s.perstLow) := by
  have hlost := State.loseHost_of_none (s := { s with start := { s.start with perstN := false } }) .down hwaits
  exact congrArg (fun u : State => Host.Outcome.next (
    if (s.host.link != .down) = true then (if u.start.phase.runs then u.disableAll else u).clearAccept
    else if u.start.phase.runs then u.disableAll else u)) hlost

theorem perstAssert_stopped (hwaits : s.host.waits = []) (hruns : s.start.phase.runs = false) (hlink : s.host.link = .down) :
    exec .perstAssert s = .next { s with
      start := { s.start with perstN := false }, host := { s.host.dropMem with link := .down, width := 0, ideMem := false, ideIo := false } } := by
  rw [perstAssert_eq hwaits, if_neg (by rw [hlink]; exact Bool.false_ne_true), hruns, if_neg Bool.false_ne_true, State.perstLow,
    HostPort.lost_of_none _ hwaits]

theorem perstAssert_running (hwaits : s.host.waits = []) (hruns : s.start.phase.runs = true) (hbound : ∀ p, NoBoundary s p) :
    ∃ t, exec .perstAssert s = .next t ∧ t.start.perstN = false ∧ t.host.link = .down ∧ t.host.width = 0 ∧ t.host.hdmOn = false ∧
      t.host.filter = [] ∧ (∀ fn, fn < nParts s.mode → (t.func fn).disabled = true) ∧
      (s.host.link ≠ .down → ∀ p, p < 4 → (t.part p).accept0 = 0 ∧ (t.part p).accept1 = 0 ∧ (t.part p).accepted = false) := by
  obtain ⟨hlost, hoff⟩ := State.disableAll_lost (s := s.perstLow) fun p => (hbound p).of_due rfl
  have hexec := perstAssert_eq hwaits
  rw [hruns, if_pos rfl] at hexec
  generalize s.perstLow.disableAll = u at hexec hlost hoff
  obtain ⟨⟨hdown, hwidth, -, -⟩, ⟨hwindow, hfilter⟩, -⟩ := hlost.host
  have hstart : u.start.perstN = false := (congrArg Startup.perstN hlost.start).trans rfl
  split at hexec
  · refine ⟨_, hexec, ?_⟩
    rw [u.clearAccept_host.1, u.clearAccept_host.2]
    refine ⟨hstart, hdown, hwidth, hwindow, hfilter, fun fn hfn => ?_, fun _ p hp => u.clearAccept_each hp⟩
    rw [State.clearAccept_func]
    exact hoff fn hfn
  next hup => exact ⟨u, hexec, hstart, hdown, hwidth, hwindow, hfilter, hoff, fun h => absurd (bne_iff_ne.mpr h) hup⟩

theorem perstRelease_trains (hperst : s.start.perstN = false) (hlive : s.start.phase = .live) :
    exec .perstRelease s =
      .next { s with start := { s.start with perstN := true }, host := { s.host with link := .training } } := by
  have hon : ({ s with start := { s.start with perstN := true } } : State).linkOn = true := by
    rw [State.linkOn, hlive]
    rfl
  exact (if_neg (by rw [hperst]; exact Bool.false_ne_true)).trans (congrArg _ (if_pos hon))

end Perst

/-- Settles O21: with no access waiting a lost link changes the host port alone, and FLR of every PF with no boundary due keeps the port. -/
theorem cxlLinkAndPerst : Obligations.CxlLinkAndPerst := by
  unfold Obligations.CxlLinkAndPerst
  exact ⟨⟨fun _ _ => cxlLinkUp_trains, fun _ => cxlRetrain_fails, fun _ => cxlRetrain_begins, fun _ => hostLinkRecovery_counts,
      fun _ => cxlLinkDown_drops, fun _ => hotReset_keeps_link⟩,
    fun _ => perstAssert_stopped, fun _ => perstAssert_running, fun _ => perstRelease_trains⟩

end Sys2Proof.Proofs
end
